-- ==== Sys2Proof/Word.lean ====
section
/-!
DEFINITION. The words of the machine and the plain records that travel between its units: capabilities (R322),
fibre records (R16), slot-table entries (R281), and the outside agents' packets.
-/

namespace Sys2Proof

/-- A byte of memory. -/
abbrev Byte := BitVec 8
/-- The 64-bit word of an x register and of most system registers (R15, R430). -/
abbrev Word := BitVec 64
/-- A granule of 16 bytes, or a mask register (R15). -/
abbrev Gran := BitVec 128
/-- A vector register or a 128-byte line (R91). -/
abbrev Line := BitVec 1024
/-- The number of a slot of the core (R10). -/
abbrev SlotId := Fin 16
/-- The number of a world (R341). -/
abbrev World := Fin 16

/-- A capability: 128 bits and a tag that is not part of them (R322). -/
structure Cap where
  tag : Bool
  bits : BitVec 128
deriving DecidableEq, Repr

/-- The null capability has every bit zero and its tag clear (R15, R322). -/
def Cap.null : Cap := ⟨false, 0⟩

/-- A fibre record of four granules (R16). `ctl` is the control word of R17. -/
structure Rec where
  g0 : Cap
  g1 : Cap
  x10 : Word
  x11 : Word
  x12 : Word
  ctl : Word
deriving DecidableEq, Repr

/-- A record of zeros. -/
def Rec.zero : Rec := ⟨Cap.null, Cap.null, 0, 0, 0, 0⟩

/-- What a slot-table entry gives a slot at BIND and STAND (R281, R282). -/
structure BindEntry where
  record : Rec
  savecap : Cap
  cmwin : Word
  smwin : Word
  tslice : BitVec 32
  wlim : BitVec 32
  world : World
  isLocal : Bool
deriving DecidableEq, Repr

/-- An entry of zeros. -/
def BindEntry.zero : BindEntry := ⟨Rec.zero, Cap.null, 0, 0, 0, 0, 0, false⟩

/-- The reply of a fibre on another core to a granule of a cluster, at the scope of its release (R298, R300). -/
structure FarReply where
  world : World
  cluster : Fin 64
  off : Nat
  lo : Word
  hi : Word
  scope : Nat
  /-- The MAC of the transfer matches at the receiving cluster (R343, R344). -/
  sealOk : Bool
deriving DecidableEq, Repr

/-- A host port, A or B (R386). -/
inductive HostPort where
  | a
  | b
deriving DecidableEq, Repr

/-- A write of a function's mailbox that starts a command (R389): its port and function, its tag, and the argument bytes. -/
structure MbCmd where
  port : HostPort
  fn : World
  tag : BitVec 16
  args : List Byte
deriving DecidableEq, Repr

/-- A migration policy (R352): the tenant's key that signs it, and the identities and measurements of the devices that it
names. -/
structure Policy where
  signer : Nat
  devices : List (Nat × List (BitVec 256))
deriving DecidableEq, Repr

/-- What counts soft errors (R381, R433): a bank of a cluster's memory, a way group of a quay cache, a pseudo-channel of HBM. -/
inductive Bank where
  | cluster (cl : Fin 64) (bank : Fin 32)
  | quay (q : Fin 128) (group : Nat)
  | channel (ch : Fin 1024)
deriving DecidableEq, Repr

/-- A soft error that a read has found (R376): one that was corrected; one that was not, in the granule or the line at a key of
memory; one in the entry of a ready queue; one in a register of a slot, an accumulator or a semaphore (R380). -/
inductive SoftError where
  | corrected (b : Bank)
  | cell (b : Bank) (key : Nat)
  | record (n : Nat)
  | reg (sl : Fin 16) (file : Fin 6) (ix : Nat)
  | acc (n : Fin 4)
  | sem (n : BitVec 8)
deriving DecidableEq, Repr

/-- Registers that firmware writes through the management path (R432, R260, R335, R342). -/
inductive MgmtReg where
  | troot | sshd | towbase | hbase | lctcCursor | lctcMeta | cpol | wqos | allow | wseal | rvmap | rvrng
  | rpwin | crq | cmq | crqBase | cmqBase | ptmo | blstat | throt | svec | softErrors
deriving DecidableEq, Repr

/-- An atomic on data as a packet carries it (R223): amofadd with the rounding mode of its requester, amocas with the value it
expects. -/
inductive AmoOp where
  | add | swap | min | max | and | or | xor
  | fadd (rm : BitVec 3)
  | cas (expected : Nat)
deriving DecidableEq, Repr

/-- What a fabric peer asks of this module, and this module of a peer (R394, R395): `x` is the X bit of an atomic or a
reduction. -/
inductive PeerOp where
  | load
  | store
  | storeCap (c : Cap)
  | atomic (op : AmoOp) (x : Bool)
  | atomicCap (expected : Option Cap) (c : Cap)
  | reduction (op : BitVec 4) (x : Bool)
deriving DecidableEq, Repr

/-- Little-endian value of a list of bytes (R4). -/
def leNat : List Byte → Nat
  | [] => 0
  | b :: bs => b.toNat + 256 * leNat bs

/-- The `n` little-endian bytes of a value (R4). -/
def leBytes : Nat → Nat → List Byte
  | 0, _ => []
  | n + 1, v => BitVec.ofNat 8 v :: leBytes n (v / 256)

end Sys2Proof
end

