-- ==== Sys2Proof/Config.lean ====
section
/-!
DEFINITION. What the manual leaves open and no rule fixes: values that nothing constrains, and the results of ciphers and
message authentication codes under keys that no agent can read (R343, R348). None of them has a body.
-/

namespace Sys2Proof.Config

/-- The value number `n` of the values that the manual does not state; State counts those already used.
DESIGN CHOICE, safe: log 8. -/
opaque freeWord : Nat → Word

/-- The keys that the module generates, by the number of the key: a key pair of AES-256-XTS and a key of KMAC128 (R343, R348,
R352). No agent reads them. -/
opaque aesKey : Nat → BitVec 512
opaque macKey : Nat → BitVec 256

/-- What the device ECC of a DRAM line is over its data, TAG and MACX, and what MACX holds beside the data of an open line (R197). -/
opaque deviceEcc : (data : List Byte) → (tag : Byte) → (macx : Word) → BitVec 56
opaque eccExtension : (data : List Byte) → (tag : Byte) → Word

/-- The identity of the device, and the digests of the firmware that it came with and of Torud (R352). -/
opaque identity : Nat
opaque bootDigest : BitVec 256
opaque torudDigest : BitVec 256

/-- The measurement log as the identity signs it for a challenge (R352, R390). -/
opaque signedLog : (identity : Nat) → (nonce : Nat) → (digests : List (BitVec 256)) → List Byte

/-- What the device cannot decide itself: whether another core's queues have room for a record (R298), by the number of
the value. DESIGN CHOICE, safe: log 9. -/
opaque farHasRoom : Nat → Bool

/-- Which of two agents that may act acts first, and what another core's state is where it decides: by the number of the value.
DESIGN CHOICE, safe: log 69. -/
opaque freeBit : Nat → Bool

end Sys2Proof.Config
end

