-- ==== Sys2Proof/Machine/Cipher.lean ====
section
/-!
DEFINITION. The algorithms that the spec names and does not write out (R343, R350, R352): AES-256 in the XTS mode, KMAC128 and
SHA3-256, and the lines and MACs that the module makes with them.
-/

namespace Sys2Proof.Machine

/-! ### The field of AES -/

/-- Twice an element of the field. -/
def gfDouble (a : Byte) : Byte := (a <<< 1) ^^^ if a.getLsbD 7 then 0x1B else 0
/-- The product of two elements, by the low `n` bits of the second. -/
def gfMulBits : Nat → Byte → Byte → Byte
  | 0, _, _ => 0
  | n + 1, a, b => (if b.getLsbD 0 then a else 0) ^^^ gfMulBits n (gfDouble a) (b >>> 1)
def gfMul (a b : Byte) : Byte := gfMulBits 8 a b
/-- The inverse of an element: its power 254; 0 for 0. -/
def gfInv (a : Byte) : Byte :=
  let sq := fun x => gfMul x x
  let a2 := sq a
  let a3 := gfMul a2 a
  let a12 := sq (sq a3)
  let a15 := gfMul a12 a3
  let a240 := sq (sq (sq (sq a15)))
  gfMul (gfMul a240 a12) a2

/-- The substitution of a byte, and its inverse. -/
def subByte (a : Byte) : Byte :=
  let b := gfInv a
  b ^^^ b.rotateLeft 1 ^^^ b.rotateLeft 2 ^^^ b.rotateLeft 3 ^^^ b.rotateLeft 4 ^^^ 0x63
def unsubByte (a : Byte) : Byte := gfInv (a.rotateLeft 1 ^^^ a.rotateLeft 3 ^^^ a.rotateLeft 6 ^^^ 0x05)

/-! ### AES-256 -/

def xorList (a b : List Byte) : List Byte := (a.zip b).map fun p => p.1 ^^^ p.2

/-- The round constants. -/
def roundConst : Nat → Byte
  | 0 => 1
  | n + 1 => gfDouble (roundConst n)

/-- The words of the key schedule from those made so far, the newest first. -/
def keyWords : Nat → List (List Byte) → List (List Byte)
  | 0, ws => ws
  | n + 1, ws =>
    let i := ws.length
    let t := ws.headD []
    let t := if i % 8 == 0 then
        let r := (t.drop 1 ++ t.take 1).map subByte
        xorList r [roundConst (i / 8 - 1), 0, 0, 0]
      else if i % 8 == 4 then t.map subByte else t
    keyWords n (xorList (ws.getD 7 []) t :: ws)

/-- The fifteen round keys of a key of 32 bytes. -/
def roundKeys (key : List Byte) : List (List Byte) :=
  let ws := (keyWords 52 ((List.range 8).map fun i => (key.drop (4 * i)).take 4).reverse).reverse
  (List.range 15).map fun r => ((ws.drop (4 * r)).take 4).flatten

/-- Row `r` of the state moves by `r` columns, and back. -/
def shiftRows (b : List Byte) : List Byte := (List.range 16).map fun i => b.getD ((i / 4 + i % 4) % 4 * 4 + i % 4) 0
def unshiftRows (b : List Byte) : List Byte := (List.range 16).map fun i => b.getD ((i / 4 + 4 - i % 4) % 4 * 4 + i % 4) 0

/-- Each column is multiplied by a polynomial, given by its coefficients. -/
def mixWith (m : List Byte) (b : List Byte) : List Byte :=
  (List.range 16).map fun i => (List.range 4).foldl (fun v j => v ^^^ gfMul (m.getD ((j + 4 - i % 4) % 4) 0) (b.getD (i / 4 * 4 + j) 0)) 0

/-- A block of 16 bytes is encrypted, or decrypted, under a key. -/
def aesEncrypt (key block : List Byte) : List Byte :=
  let ks := roundKeys key
  let b := ((ks.drop 1).take 13).foldl (fun b k => xorList (mixWith [2, 3, 1, 1] (shiftRows (b.map subByte))) k)
    (xorList block (ks.headD []))
  xorList (shiftRows (b.map subByte)) (ks.getD 14 [])
def aesDecrypt (key block : List Byte) : List Byte :=
  let ks := (roundKeys key).reverse
  let b := ((ks.drop 1).take 13).foldl (fun b k => mixWith [14, 11, 13, 9] (xorList ((unshiftRows b).map unsubByte) k))
    (xorList block (ks.headD []))
  xorList ((unshiftRows b).map unsubByte) (ks.getD 14 [])

/-! ### XTS -/

/-- The tweak of the next block. -/
def nextTweak (t : BitVec 128) : BitVec 128 := (t <<< 1) ^^^ if t.getLsbD 127 then 0x87 else 0

/-- Blocks of 16 bytes, each under its tweak. -/
def xtsBlocks (f : List Byte → List Byte) (t : BitVec 128) : Nat → List Byte → List Byte
  | 0, _ => []
  | n + 1, bs =>
    let m := leBytes 16 t.toNat
    xorList (f (xorList (bs.take 16) m)) m ++ xtsBlocks f (nextTweak t) n (bs.drop 16)

/-- The two keys of a pair, as 32 bytes each. -/
def keyHalves (k : BitVec 512) : List Byte × List Byte := (leBytes 32 k.toNat, leBytes 32 (k.toNat / 2 ^ 256))

/-- A line of 128 bytes under a key pair and a tweak, and back. PRESUMED, unsafe: log 10. -/
def xtsEncrypt (k : BitVec 512) (tweak : Nat) (bs : List Byte) : List Byte :=
  xtsBlocks (aesEncrypt (keyHalves k).1) (BitVec.ofNat 128 (leNat (aesEncrypt (keyHalves k).2 (leBytes 16 tweak)))) 8 bs
def xtsDecrypt (k : BitVec 512) (tweak : Nat) (bs : List Byte) : List Byte :=
  xtsBlocks (aesDecrypt (keyHalves k).1) (BitVec.ofNat 128 (leNat (aesEncrypt (keyHalves k).2 (leBytes 16 tweak)))) 8 bs

/-! ### Keccak, SHA3-256 and KMAC128 -/

/-- How far lane `i` is rotated. -/
def keccakRot : List Nat :=
  [0, 1, 62, 28, 27, 36, 44, 6, 55, 20, 3, 10, 43, 25, 39, 41, 45, 15, 21, 8, 18, 2, 61, 56, 14]

/-- The next state of the register that gives the round constants. -/
def lfsrNext (r : Byte) : Byte := (r <<< 1) ^^^ if r.getLsbD 7 then 0x71 else 0
/-- The constant of the round that finds the register at `r`, and the register after it. -/
def roundIota (r : Byte) : Word × Byte :=
  (List.range 7).foldl (fun p j => (if p.2.getLsbD 0 then p.1 ^^^ ((1 : Word) <<< (2 ^ j - 1)) else p.1, lfsrNext p.2)) (0, r)

/-- One round on 25 lanes, lane x + 5y in that place. -/
def keccakRound (a : List Word) (rc : Word) : List Word :=
  let l := fun (b : List Word) i => b.getD i 0
  let c := (List.range 5).map fun x => l a x ^^^ l a (x + 5) ^^^ l a (x + 10) ^^^ l a (x + 15) ^^^ l a (x + 20)
  let d := (List.range 5).map fun x => l c ((x + 4) % 5) ^^^ (l c ((x + 1) % 5)).rotateLeft 1
  let b := (List.range 25).map fun i =>
    -- lane i = X + 5Y of the result comes from the lane x + 5y with X = y and Y = 2x + 3y
    let y := i % 5
    let x := (i / 5 * 3 + i % 5) % 5
    (l a (x + 5 * y) ^^^ l d x).rotateLeft (keccakRot.getD (x + 5 * y) 0)
  let e := (List.range 25).map fun i =>
    l b i ^^^ (~~~(l b (i / 5 * 5 + (i + 1) % 5)) &&& l b (i / 5 * 5 + (i + 2) % 5))
  (e.headD 0 ^^^ rc) :: e.drop 1

/-- The permutation: 24 rounds. -/
def keccakF (a : List Word) : List Word :=
  ((List.range 24).foldl (fun p _ =>
    let r := roundIota p.2
    (keccakRound p.1 r.1, r.2)) (a, (1 : Byte))).1

/-- `n` blocks of `rate` bytes are absorbed. -/
def absorb (rate : Nat) : Nat → List Byte → List Word → List Word
  | 0, _, a => a
  | n + 1, bs, a =>
    let b := bs.take rate ++ List.replicate (200 - rate) 0
    absorb rate n (bs.drop rate)
      (keccakF ((List.range 25).map fun i => a.getD i 0 ^^^ BitVec.ofNat 64 (leNat ((b.drop (8 * i)).take 8))))

/-- The sponge: a message with the suffix of its function, padded; at most `rate` bytes of output. -/
def sponge (rate : Nat) (suffix : Byte) (msg : List Byte) (out : Nat) : List Byte :=
  let n := msg.length / rate + 1
  let z := n * rate - msg.length
  let pad := if z == 1 then [suffix ||| 0x80] else suffix :: List.replicate (z - 2) 0 ++ [0x80]
  ((absorb rate n (msg ++ pad) (List.replicate 25 0)).flatMap fun w => leBytes 8 w.toNat).take out

def sha3_256 (msg : List Byte) : BitVec 256 := BitVec.ofNat 256 (leNat (sponge 136 0x06 msg 32))

/-- The encodings of lengths: the bytes of a number, highest first, with their count before or after. -/
def beBytes (v : Nat) : List Byte :=
  let n := max 1 ((Nat.log2 v) / 8 + 1)
  (leBytes n v).reverse
def leftEncode (v : Nat) : List Byte := BitVec.ofNat 8 (beBytes v).length :: beBytes v
def rightEncode (v : Nat) : List Byte := beBytes v ++ [BitVec.ofNat 8 (beBytes v).length]
def encodeString (s : List Byte) : List Byte := leftEncode (8 * s.length) ++ s
def bytepad (bs : List Byte) (w : Nat) : List Byte :=
  let t := leftEncode w ++ bs
  t ++ List.replicate ((w - t.length % w) % w) 0

/-- KMAC128 of a message under a key, without customisation: 256 bits. -/
def kmac128 (key msg : List Byte) : List Byte :=
  sponge 168 0x04
    (bytepad (encodeString [0x4B, 0x4D, 0x41, 0x43] ++ encodeString []) 168 ++ bytepad (encodeString key) 168 ++ msg ++
      rightEncode 256) 32
/-- Its first 64 bits. -/
def kmac64 (key : BitVec 256) (msg : List Byte) : Word :=
  BitVec.ofNat 64 (leNat ((kmac128 (leBytes 32 key.toNat) msg).take 8))

/-! ### Sealed lines (R343) and the lines of an export (R350) -/

/-- The ciphertext of a line at a virtual line address, and its MACX. PRESUMED, unsafe: log 10. -/
def sealLine (gen va : Nat) (plain : List Byte) : List Byte := xtsEncrypt (Config.aesKey gen) va plain
def sealMac (gen va : Nat) (tag : Byte) (ct : List Byte) : Word := kmac64 (Config.macKey gen) (leBytes 7 va ++ tag :: ct)

/-- A line of an export, and back: the tweak is the counter and the index of the line. DESIGN CHOICE, unsafe: log 11. -/
def exportTweak (ctr ix : Nat) : Nat := ctr * 2 ^ 64 + ix
def exportCipher (gen ctr ix : Nat) (plain : List Byte) : List Byte := xtsEncrypt (Config.aesKey gen) (exportTweak ctr ix) plain
def exportPlain (gen ctr ix : Nat) (ct : List Byte) : List Byte := xtsDecrypt (Config.aesKey gen) (exportTweak ctr ix) ct
/-- The MACs under the context key: of a line, and of the image. -/
def lineMac (gen ctr ix : Nat) (tag : Byte) (ct : List Byte) : Word :=
  kmac64 (Config.macKey gen) (leBytes 8 ctr ++ leBytes 8 ix ++ tag :: ct)
def imageMac (gen : Nat) (head : List Byte) (macs : List Word) : Word :=
  kmac64 (Config.macKey gen) (head ++ macs.flatMap fun m => leBytes 8 m.toNat)

end Sys2Proof.Machine
end

