-- ==== Sys2Proof/Syntax.lean ====
section
/-!
DEFINITION. The syntax: the four formats of the 96-bit word (R27, R35-R42) and one constructor for each row of
the table of operations and events. A constructor of an instruction carries every field of its word, so that an
encoding loses nothing. What an event carries (which slot, which bytes) is an `Act`, which the state holds.
-/

namespace Sys2Proof

/-- The fields that have the same place in all four formats: the guards and SIG (R27). -/
structure Hdr where
  ga : BitVec 4
  gb : BitVec 4
  sigSm : BitVec 8
  sigInc : BitVec 4
deriving DecidableEq, Repr

/-- The WAIT field of the R and M formats (R27, R30). -/
structure WaitF where
  sm : BitVec 8
  thr : BitVec 6
deriving DecidableEq, Repr

/-- The MOD field (R36). -/
structure ModF where
  isp : BitVec 4
  zm : BitVec 1
  km : BitVec 3
  sub : BitVec 4
  sat : BitVec 1
  rm : BitVec 3
  ty : BitVec 4
deriving DecidableEq, Repr

/-- The R format (R35). -/
structure ROp where
  hdr : Hdr
  od : BitVec 6
  oa : BitVec 6
  ob : BitVec 6
  oc : BitVec 6
  oe : BitVec 6
  wait : WaitF
  md : ModF
deriving DecidableEq, Repr

/-- The I format (R39): IMM32 stands in place of OB, OC, OE and WAIT. -/
structure IOp where
  hdr : Hdr
  od : BitVec 6
  oa : BitVec 6
  imm : BitVec 32
  md : ModF
deriving DecidableEq, Repr

/-- The M format (R40, R41). -/
structure MOp where
  hdr : Hdr
  od : BitVec 6
  oa : BitVec 6
  ob : BitVec 6
  off : BitVec 12
  wait : WaitF
  x : BitVec 1
  scope : BitVec 3
  ord : BitVec 3
  size : BitVec 3
  lvl : BitVec 2
  nud : BitVec 8
deriving DecidableEq, Repr

/-- The X format (R42). `rsv` is TAIL [95:80], which must be zero. -/
structure XOp where
  hdr : Hdr
  od : BitVec 6
  oa : BitVec 6
  imm : BitVec 32
  sub : BitVec 4
  rsv : BitVec 16
deriving DecidableEq, Repr

/-- An instruction that has an R and an I form (R47). -/
inductive RIOp where
  | r (o : ROp)
  | i (o : IOp)
deriving DecidableEq, Repr

/-- An instruction that has an R and an X form (R47). -/
inductive RXOp where
  | r (o : ROp)
  | x (o : XOp)
deriving DecidableEq, Repr

/-- What an act of an engine or of the outside world carries: which slot, which entry, which bytes. One constructor
for each event of the table. -/
inductive Act where
  /-- STREAM_ROW_FETCH (R107). -/
  | streamRowFetch (sl : SlotId) (port : Fin 4)
  /-- STREAM_ROW_PERFORM (R108). -/
  | streamRowPerform (sl : SlotId) (port : Fin 4)
  /-- REPETITION_PASS (R110). -/
  | repetitionPass (sl : SlotId)
  /-- LATCH_DATA_ARRIVAL (R121). -/
  | latchDataArrival (part : Fin 6)
  /-- DRAIN_ROW_WRITE (R129). -/
  | drainRowWrite
  /-- LATCH_RELOAD (R127). -/
  | latchReload
  /-- WTILE_COMPLETE (R166). -/
  | wtileComplete
  /-- TRANSFORM_REQUEST_EXECUTE (R184). -/
  | transformRequestExecute
  /-- TRANSFORM_RESERVED_ENTRY (R179). -/
  | transformReservedEntry
  /-- FULL_EMPTY_SERVE (R216). -/
  | fullEmptyServe (granule : Nat)
  /-- FIFO_SERVE (R196). -/
  | fifoServe (bank : Nat)
  /-- QUAY_CORE_ARRIVAL (R217). -/
  | quayCoreArrival (quay : Fin 128)
  /-- COPY_CHUNK (R220). -/
  | copyChunk
  /-- REMOTE_UPDATE (R225). -/
  | remoteUpdate (n : Nat)
  /-- PARK_WAKE (R227). -/
  | parkWake (sl : SlotId)
  /-- PARK_TIMEOUT (R227). -/
  | parkTimeout (sl : SlotId)
  /-- WAITSEM_GRANT (R312). -/
  | waitsemGrant (sm : BitVec 8)
  /-- BARRIER_WAIT_RETURN (R231). -/
  | barrierWaitReturn (sl : SlotId)
  /-- AWAIT_CONDITION_HOLDS (R303). -/
  | awaitConditionHolds (n : Nat)
  /-- REPLY_GRANULE_WRITE (R300): the core's own oldest reply, or one that another core's fibre makes. -/
  | replyGranuleWrite (far : Option FarReply)
  /-- SWEEP_MEMORY (R337). -/
  | sweepMemory (w : World)
  /-- SWEEP_COMPLETE (R337). -/
  | sweepComplete (w : World)
  /-- EXPORT (R350). -/
  | exportImage
  /-- IMPORT (R351). -/
  | importImage
  /-- MIGRATION_IMPORT (R352). -/
  | migrationImport
  /-- EXPORT_IMPORT_COMPLETE (R407). -/
  | exportImportComplete
  /-- WFS_TIMEOUT (R365). -/
  | wfsTimeout
  /-- HINT_YIELD_END (R369). -/
  | hintYieldEnd
  /-- TRAP_RECORD_ENQUEUE (R359). -/
  | trapRecordEnqueue
  /-- WTMO (R311). -/
  | wtmo (sl : SlotId) (block : Bool)
  /-- SLICE (R314). -/
  | slice (sl : SlotId)
  /-- ENQUEUE_APERTURE_WRITE (R277): a host write at an offset of BAR 0 (R387). -/
  | enqueueApertureWrite (port : HostPort) (fn : World) (off : Nat) (data : List Byte)
  /-- BIND (R282). -/
  | bind (sl : SlotId) (entry : BindEntry)
  /-- STAND (R282). -/
  | stand (sl : SlotId) (entry : BindEntry)
  /-- PREEMPT (R282). -/
  | preempt (sl : SlotId)
  /-- RESTORE_UNIT_TAKE (R437). -/
  | restoreUnitTake (sl : SlotId)
  /-- POOL_GRANT (R13). -/
  | poolGrant
  /-- LOCAL_REFILL (R284). -/
  | localRefill
  /-- CMQ_PROMOTE (R285). -/
  | cmqPromote (w : World)
  /-- HELD_MESSAGE_DELIVERY (R285): of the records held on this core; or the record that another core sends here arrives (R298),
  its MAC matching or not (R344). -/
  | heldMessageDelivery (far : Option (Rec × Bool))
  /-- BUDGET_CHARGE (R315). -/
  | budgetCharge (w : World) (tow : BitVec 16) (cycles : Nat)
  /-- TOW_SWAP (R319). -/
  | towSwap (w : World) (tow : BitVec 16)
  /-- TOW_RETURN (R319). -/
  | towReturn (w : World) (tow : BitVec 16)
  /-- LAUNCH_COMPLETION (R289). -/
  | launchCompletion (w : World) (tow : BitVec 16)
  /-- COALESCING_WINDOW_END (R290). -/
  | coalescingWindowEnd (port : HostPort) (uli : Bool) (fn : World) (vec : Nat)
  /-- TOW_DESCRIPTOR_ACTION_HELD (R436). -/
  | towDescriptorActionHeld
  /-- PAGE_REQUEST_MAPPED (R269). -/
  | pageRequestMapped (w : World) (va : Nat)
  /-- PAGE_REQUEST_REFUSAL (R268), of the request of a quay. -/
  | pageRequestRefusal (w : World) (va : Nat) (quay : Fin 128)
  /-- SIDE_LOG_ADMIT (R269). -/
  | sideLogAdmit
  /-- DUP_INVALIDATION_ACK (R251). -/
  | dupInvalidationAck (line : Nat)
  /-- TRANSLATION_INVALIDATE (R274). -/
  | translationInvalidate (w : World) (va : Option Nat)
  /-- HOST_BAR2_READ (R254). -/
  | hostBar2Read (port : HostPort) (fn : World) (off : Nat) (len : Nat)
  /-- HOST_BAR2_WRITE (R253); `ro` is the relaxed-ordering attribute. -/
  | hostBar2Write (port : HostPort) (fn : World) (off : Nat) (data : List Byte) (ro : Bool)
  /-- COUNTER_GROUP_READ (R354): a read of some bytes at an offset of BAR 0 (R387). -/
  | counterGroupRead (port : HostPort) (fn : World) (off : Nat) (len : Nat)
  /-- PSEM_TAKE (R388). -/
  | psemTake (port : HostPort)
  /-- PSEM_RELEASE (R388). -/
  | psemRelease (port : HostPort)
  /-- ATTEST (R390). -/
  | attest (m : MbCmd) (nonce : Nat) (iova : Nat)
  /-- TOW_RESUME (R390). -/
  | towResume (m : MbCmd) (tow : BitVec 16) (budget : Word)
  /-- TOW_DISCARD (R390). -/
  | towDiscard (m : MbCmd) (tow : BitVec 16)
  /-- UIT_SET (R390). -/
  | uitSet (m : MbCmd) (iova : Nat)
  /-- CWIN_SET (R397). -/
  | cwinSet (m : MbCmd) (w : World) (idx : Fin 16) (va : Nat) (len : Nat) (expect : Nat) (tmo : Nat)
  /-- CWIN_ARM (R399). -/
  | cwinArm (m : MbCmd) (idx : Fin 16)
  /-- WORLD_CREATE (R390), with the tenant's key and the digest of the loader's image (R352). -/
  | worldCreate (m : MbCmd) (w : World) (tenant : Nat) (loader : BitVec 256)
  /-- WORLD_DESTROY (R390). -/
  | worldDestroy (m : MbCmd) (w : World)
  /-- MIG_EXPORT (R352). -/
  | migExport (m : MbCmd) (w : World) (peer : Nat) (peerLog : List (BitVec 256)) (policy : Policy)
  /-- MIG_IMPORT (R352). -/
  | migImport (m : MbCmd) (w : World) (peer : Nat) (peerLog : List (BitVec 256)) (policy : Policy)
  /-- FW_UPDATE (R390). -/
  | fwUpdate (m : MbCmd) (iova : Nat) (len : Nat)
  /-- ROUTE_SET (R393). -/
  | routeSet (m : MbCmd) (dest : Fin 256) (primary : Fin 12) (alternate : Fin 12)
  /-- XWIN_SET (R394). -/
  | xwinSet (m : MbCmd) (w : World) (idx : Fin 16) (entry : BitVec 256)
  /-- IMPORT_SET (R395). -/
  | importSet (m : MbCmd) (idx : Fin 1024) (srcDev : BitVec 8) (srcWorld : World) (w : World) (lo : Nat) (hi : Nat) (perm : BitVec 3)
  /-- MAILBOX_COMPLETION (R389). -/
  | mailboxCompletion (fn : World)
  /-- MGMT_REGISTER_WRITE (R432); without a value, a read by world 0. -/
  | mgmtRegisterWrite (reg : MgmtReg) (w : World) (unit : Nat) (v : Option Word)
  /-- CWIN_TIMEOUT (R398). -/
  | cwinTimeout (idx : Fin 16)
  /-- PEER_ACCESS_ARRIVAL (R395). -/
  | peerAccessArrival (port : Fin 12) (srcDev : BitVec 8) (srcWorld : World) (op : PeerOp) (va : Nat) (data : List Byte)
  /-- PEER_RESPONSE (R396). -/
  | peerResponse (num : Nat) (data : List Byte) (c : Option Cap)
  /-- PTMO (R396). -/
  | ptmo (num : Nat)
  /-- FABRIC_FAILOVER (R393). -/
  | fabricFailover (port : Fin 12)
  /-- CXL_LINK_DOWN (R392). -/
  | cxlLinkDown (port : Fin 4)
  /-- HOT_RESET (R353). -/
  | hotReset (port : HostPort)
  /-- HOST_SESSION_ESTABLISHED (R353). -/
  | hostSessionEstablished (port : HostPort)
  /-- COLD_RESET (R382). -/
  | coldReset
  /-- WARM_RESET (R382). -/
  | warmReset
  /-- FUNCTION_LEVEL_RESET (R383). -/
  | functionLevelReset (w : World)
  /-- SUPERVISOR_START (R361), with the SVEC that Torud has written before. -/
  | supervisorStart (svec : Word)
  /-- THROTTLE_STEP (R385). -/
  | throttleStep (die : Fin 4) (up : Bool)
  /-- THERMAL_TRIP (R385). -/
  | thermalTrip
  /-- SUPPLY_DROOP (R385). -/
  | supplyDroop
  /-- VREF_RECALIBRATION (R384). -/
  | vrefRecalibration (stack : Fin 8)
  /-- PATROL_SCRUB (R379), with the soft errors that reads have found since the last (R376, R381). -/
  | patrolScrub (line : Nat) (soft : List SoftError)
  /-- ACCUMULATOR_COMPLETE (R126). -/
  | accumulatorComplete
  /-- BANK_MODE_SWITCH_COMPLETE (R194). -/
  | bankModeSwitchComplete
  /-- STORE_PERFORMED (R247), with the cluster that the access comes from: data of a store, a copy, a reply or an stfe (`full`
  set), none of an ldfe (`full` clear), by which the F bits of the granules change; `sealOk` when its MAC matches (R343). -/
  | storePerformed (cluster : Fin 64) (granule : Nat) (data : List Byte) (full : Option Bool) (sealOk : Bool)
  /-- INVALIDATION_APPLIED (R251). -/
  | invalidationApplied (line : Nat) (die : Fin 4)
  /-- DEBUGGER_HALT (R313). -/
  | debuggerHalt (sl : SlotId)
  /-- DEBUGGER_RESUME (R313). -/
  | debuggerResume (sl : SlotId)
  /-- FABRIC_LINK_UP (R393). -/
  | fabricLinkUp (port : Fin 12)
  /-- CXL_LINK_UP (R392). -/
  | cxlLinkUp (port : Fin 4)
  /-- FUNCTION_LEVEL_RESET_COMPLETE (R383). -/
  | functionLevelResetComplete (w : World)
  /-- COUNTER_TABLE_RESCAN (R272). -/
  | counterTableRescan (die : Fin 4)
deriving DecidableEq, Repr

/-- The operations and events of the part, one constructor for each row of the table. -/
inductive Instr where
  /-- ADD (opcode 0x001, R75). -/
  | add (o : RIOp)
  /-- SUB (opcode 0x002, R75). -/
  | sub (o : RIOp)
  /-- MUL (opcode 0x003, R75). -/
  | mul (o : RIOp)
  /-- MULH (opcode 0x004, R75). -/
  | mulh (o : ROp)
  /-- MAD (opcode 0x005, R75). -/
  | mad (o : ROp)
  /-- DIV (opcode 0x006, R76). -/
  | div (o : ROp)
  /-- REM (opcode 0x007, R76). -/
  | rem (o : ROp)
  /-- AND (opcode 0x008, R75). -/
  | and (o : RIOp)
  /-- OR (opcode 0x009, R75). -/
  | or (o : RIOp)
  /-- XOR (opcode 0x00A, R75). -/
  | xor (o : RIOp)
  /-- ANDN (opcode 0x00B, R75). -/
  | andn (o : RIOp)
  /-- SHL (opcode 0x00C, R77). -/
  | shl (o : RIOp)
  /-- SHR (opcode 0x00D, R77). -/
  | shr (o : RIOp)
  /-- SRA (opcode 0x00E, R77). -/
  | sra (o : RIOp)
  /-- ROTL (opcode 0x00F, R77). -/
  | rotl (o : RIOp)
  /-- MIN (opcode 0x010, R75). -/
  | min (o : RIOp)
  /-- MAX (opcode 0x011, R75). -/
  | max (o : RIOp)
  /-- ABS (opcode 0x012, R75). -/
  | abs (o : ROp)
  /-- CLZ (opcode 0x013, R75). -/
  | clz (o : ROp)
  /-- CTZ (opcode 0x014, R75). -/
  | ctz (o : ROp)
  /-- POPC (opcode 0x015, R75). -/
  | popc (o : ROp)
  /-- BFX (opcode 0x016, R78). -/
  | bfx (o : RIOp)
  /-- BFI (opcode 0x017, R78). -/
  | bfi (o : RIOp)
  /-- SHADD (opcode 0x018, R75). -/
  | shadd (o : RIOp)
  /-- SEL (opcode 0x019, R79). -/
  | sel (o : ROp)
  /-- MOV (opcode 0x01A, R81). -/
  | mov (o : ROp)
  /-- LI (opcode 0x01B, R80). -/
  | li (o : IOp)
  /-- CVT (opcode 0x01C, R81). -/
  | cvt (o : ROp)
  /-- CMP (opcode 0x01D, R79). -/
  | cmp (o : RIOp)
  /-- BSWAP (opcode 0x01E, R75). -/
  | bswap (o : ROp)
  /-- PAND (opcode 0x040, R82). -/
  | pand (o : ROp)
  /-- POR (opcode 0x041, R82). -/
  | por (o : ROp)
  /-- PXOR (opcode 0x042, R82). -/
  | pxor (o : ROp)
  /-- PNOT (opcode 0x043, R82). -/
  | pnot (o : ROp)
  /-- PMOV (opcode 0x044, R82). -/
  | pmov (o : ROp)
  /-- FADD (opcode 0x045, R84). -/
  | fadd (o : ROp)
  /-- FSUB (opcode 0x046, R84). -/
  | fsub (o : ROp)
  /-- FMUL (opcode 0x047, R84). -/
  | fmul (o : ROp)
  /-- FFMA (opcode 0x048, R84). -/
  | ffma (o : ROp)
  /-- FDIV (opcode 0x049, R84). -/
  | fdiv (o : ROp)
  /-- FSQRT (opcode 0x04A, R84). -/
  | fsqrt (o : ROp)
  /-- FMIN (opcode 0x04B, R85). -/
  | fmin (o : ROp)
  /-- FMAX (opcode 0x04C, R85). -/
  | fmax (o : ROp)
  /-- FCMP (opcode 0x04D, R86). -/
  | fcmp (o : ROp)
  /-- FCVT (opcode 0x04E, R88). -/
  | fcvt (o : ROp)
  /-- FCLASS (opcode 0x04F, R87). -/
  | fclass (o : ROp)
  /-- VADD (opcode 0x080, R94). -/
  | vadd (o : ROp)
  /-- VSUB (opcode 0x081, R94). -/
  | vsub (o : ROp)
  /-- VMUL (opcode 0x082, R94). -/
  | vmul (o : ROp)
  /-- VFMA (opcode 0x083, R94). -/
  | vfma (o : ROp)
  /-- VFMS (opcode 0x084, R94). -/
  | vfms (o : ROp)
  /-- VMIN (opcode 0x085, R94). -/
  | vmin (o : ROp)
  /-- VMAX (opcode 0x086, R94). -/
  | vmax (o : ROp)
  /-- VABS (opcode 0x087, R94). -/
  | vabs (o : ROp)
  /-- VNEG (opcode 0x088, R94). -/
  | vneg (o : ROp)
  /-- VAND (opcode 0x089, R94). -/
  | vand (o : ROp)
  /-- VOR (opcode 0x08A, R94). -/
  | vor (o : ROp)
  /-- VXOR (opcode 0x08B, R94). -/
  | vxor (o : ROp)
  /-- VSHL (opcode 0x08C, R94). -/
  | vshl (o : RIOp)
  /-- VSHR (opcode 0x08D, R94). -/
  | vshr (o : RIOp)
  /-- VCMP (opcode 0x08E, R95). -/
  | vcmp (o : ROp)
  /-- VSEL (opcode 0x08F, R95). -/
  | vsel (o : ROp)
  /-- VCVT (opcode 0x090, R96). -/
  | vcvt (o : ROp)
  /-- VDOT (opcode 0x091, R97). -/
  | vdot (o : ROp)
  /-- VSCL (opcode 0x092, R97). -/
  | vscl (o : ROp)
  /-- VMOV (opcode 0x093, R94). -/
  | vmov (o : ROp)
  /-- VBCAST (opcode 0x094, R98). -/
  | vbcast (o : RIOp)
  /-- VINS (opcode 0x095, R98). -/
  | vins (o : ROp)
  /-- VEXT (opcode 0x096, R98). -/
  | vext (o : ROp)
  /-- VCLAMP (opcode 0x097, R94). -/
  | vclamp (o : ROp)
  /-- KAND (opcode 0x098, R99). -/
  | kand (o : ROp)
  /-- KOR (opcode 0x099, R99). -/
  | kor (o : ROp)
  /-- KXOR (opcode 0x09A, R99). -/
  | kxor (o : ROp)
  /-- KNOT (opcode 0x09B, R99). -/
  | knot (o : ROp)
  /-- KPOP (opcode 0x09C, R99). -/
  | kpop (o : ROp)
  /-- KFIRST (opcode 0x09D, R99). -/
  | kfirst (o : ROp)
  /-- KSET (opcode 0x09E, R99). -/
  | kset (o : RIOp)
  /-- KMOV (opcode 0x09F, R99). -/
  | kmov (o : ROp)
  /-- VRCP (opcode 0x0E0, R100). -/
  | vrcp (o : ROp)
  /-- VRSQ (opcode 0x0E1, R100). -/
  | vrsq (o : ROp)
  /-- VSQRT (opcode 0x0E2, R100). -/
  | vsqrt (o : ROp)
  /-- VEXP2 (opcode 0x0E3, R100). -/
  | vexp2 (o : ROp)
  /-- VLOG2 (opcode 0x0E4, R100). -/
  | vlog2 (o : ROp)
  /-- VSIN (opcode 0x0E5, R100). -/
  | vsin (o : ROp)
  /-- VCOS (opcode 0x0E6, R100). -/
  | vcos (o : ROp)
  /-- VTANH (opcode 0x0E7, R100). -/
  | vtanh (o : ROp)
  /-- VSIGM (opcode 0x0E8, R100). -/
  | vsigm (o : ROp)
  /-- VEXPD (opcode 0x0E9, R100). -/
  | vexpd (o : ROp)
  /-- VREDSUM (opcode 0x0EA, R101). -/
  | vredsum (o : ROp)
  /-- VREDMAX (opcode 0x0EB, R101). -/
  | vredmax (o : ROp)
  /-- VREDMIN (opcode 0x0EC, R101). -/
  | vredmin (o : ROp)
  /-- VSCAN (opcode 0x0ED, R101). -/
  | vscan (o : ROp)
  /-- VPERM (opcode 0x0EE, R102). -/
  | vperm (o : ROp)
  /-- VSHUF (opcode 0x0EF, R102). -/
  | vshuf (o : ROp)
  /-- VPACK (opcode 0x0F0, R102). -/
  | vpack (o : ROp)
  /-- VUNPACK (opcode 0x0F1, R102). -/
  | vunpack (o : ROp)
  /-- SBIND (opcode 0x100, R104). -/
  | sbind (o : ROp)
  /-- SDIM (opcode 0x101, R104). -/
  | sdim (o : RIOp)
  /-- SSTART (opcode 0x102, R105). -/
  | sstart (o : ROp)
  /-- SSTOP (opcode 0x103, R104). -/
  | sstop (o : ROp)
  /-- SWAIT (opcode 0x104, R104). -/
  | swait (o : ROp)
  /-- FREP (opcode 0x105, R110). -/
  | frep (o : XOp)
  /-- MCFG (opcode 0x120, R118). -/
  | mcfg (o : ROp)
  /-- MZERO (opcode 0x121, R120). -/
  | mzero (o : ROp)
  /-- MLDA (opcode 0x122, R121). -/
  | mlda (o : MOp)
  /-- MLDB (opcode 0x123, R121). -/
  | mldb (o : MOp)
  /-- MSCL (opcode 0x124, R120). -/
  | mscl (o : ROp)
  /-- MMA (opcode 0x125, R124). -/
  | mma (o : ROp)
  /-- MMAS (opcode 0x126, R125). -/
  | mmas (o : ROp)
  /-- MDRAIN (opcode 0x127, R129). -/
  | mdrain (o : MOp)
  /-- MHAND (opcode 0x128, R130). -/
  | mhand (o : ROp)
  /-- MROWRD (opcode 0x129, R131). -/
  | mrowrd (o : ROp)
  /-- MROWWR (opcode 0x12A, R131). -/
  | mrowwr (o : ROp)
  /-- MSAVE (opcode 0x12B, R132). -/
  | msave (o : MOp)
  /-- MREST (opcode 0x12C, R132). -/
  | mrest (o : MOp)
  /-- MSTAT (opcode 0x12D, R132). -/
  | mstat (o : ROp)
  /-- FPUSH (opcode 0x140, R145). -/
  | fpush (o : ROp)
  /-- FPOP (opcode 0x141, R146). -/
  | fpop (o : ROp)
  /-- FDROP (opcode 0x142, R149). -/
  | fdrop (o : ROp)
  /-- FENTER (opcode 0x143, R149). -/
  | fenter (o : ROp)
  /-- FARG (opcode 0x144, R150). -/
  | farg (o : ROp)
  /-- FKEEP (opcode 0x145, R150). -/
  | fkeep (o : ROp)
  /-- FSEAL (opcode 0x146, R151). -/
  | fseal (o : ROp)
  /-- FSHARE (opcode 0x147, R151). -/
  | fshare (o : ROp)
  /-- FAPPEND (opcode 0x148, R152). -/
  | fappend (o : RIOp)
  /-- FWIN (opcode 0x149, R152). -/
  | fwin (o : RIOp)
  /-- FVIS (opcode 0x14A, R154). -/
  | fvis (o : ROp)
  /-- FDESC (opcode 0x14B, R155). -/
  | fdesc (o : RIOp)
  /-- FMASK (opcode 0x14C, R154). -/
  | fmask (o : ROp)
  /-- WCFG (opcode 0x160, R160). -/
  | wcfg (o : RXOp)
  /-- WBAND (opcode 0x161, R164). -/
  | wband (o : RIOp)
  /-- WSEQ (opcode 0x162, R165). -/
  | wseq (o : ROp)
  /-- WTILE (opcode 0x163, R166). -/
  | wtile (o : ROp)
  /-- WBGET (opcode 0x164, R170). -/
  | wbget (o : MOp)
  /-- WBPUT (opcode 0x165, R170). -/
  | wbput (o : MOp)
  /-- TBWALK (opcode 0x166, R171). -/
  | tbwalk (o : ROp)
  /-- XEXP (opcode 0x170, R183). -/
  | xexp (o : ROp)
  /-- XCMP (opcode 0x171, R183). -/
  | xcmp (o : ROp)
  /-- XQUANT (opcode 0x172, R183). -/
  | xquant (o : ROp)
  /-- XCONV (opcode 0x173, R183). -/
  | xconv (o : ROp)
  /-- XPOLL (opcode 0x174, R186). -/
  | xpoll (o : ROp)
  /-- LD (opcode 0x180, R212). -/
  | ld (o : MOp)
  /-- ST (opcode 0x181, R212). -/
  | st (o : MOp)
  /-- LDC (opcode 0x182, R212). -/
  | ldc (o : MOp)
  /-- STC (opcode 0x183, R212). -/
  | stc (o : MOp)
  /-- VLD (opcode 0x184, R212). -/
  | vld (o : MOp)
  /-- VST (opcode 0x185, R212). -/
  | vst (o : MOp)
  /-- VLDG (opcode 0x186, R214). -/
  | vldg (o : MOp)
  /-- VSTS (opcode 0x187, R214). -/
  | vsts (o : MOp)
  /-- LDFE (opcode 0x188, R216). -/
  | ldfe (o : MOp)
  /-- STFE (opcode 0x189, R216). -/
  | stfe (o : MOp)
  /-- PREF (opcode 0x18A, R215). -/
  | pref (o : MOp)
  /-- CPY (opcode 0x18B, R218). -/
  | cpy (o : ROp)
  /-- CPYQ (opcode 0x18C, R218). -/
  | cpyq (o : ROp)
  /-- FENCE (opcode 0x18D, R222). -/
  | fence (o : ROp)
  /-- LFLUSH (opcode 0x18E, R215). -/
  | lflush (o : MOp)
  /-- LINV (opcode 0x18F, R215). -/
  | linv (o : MOp)
  /-- LDM (opcode 0x190, R212). -/
  | ldm (o : MOp)
  /-- MIG (opcode 0x191, R217). -/
  | mig (o : MOp)
  /-- HOME (opcode 0x192, R217). -/
  | home (o : ROp)
  /-- AMOADD (opcode 0x1C0, R223). -/
  | amoadd (o : MOp)
  /-- AMOMIN (opcode 0x1C1, R223). -/
  | amomin (o : MOp)
  /-- AMOMAX (opcode 0x1C2, R223). -/
  | amomax (o : MOp)
  /-- AMOAND (opcode 0x1C3, R223). -/
  | amoand (o : MOp)
  /-- AMOOR (opcode 0x1C4, R223). -/
  | amoor (o : MOp)
  /-- AMOXOR (opcode 0x1C5, R223). -/
  | amoxor (o : MOp)
  /-- AMOSWP (opcode 0x1C6, R223). -/
  | amoswp (o : MOp)
  /-- AMOCAS (opcode 0x1C7, R224). -/
  | amocas (o : MOp)
  /-- AMOFADD (opcode 0x1C8, R224). -/
  | amofadd (o : MOp)
  /-- REDADD (opcode 0x1C9, R225). -/
  | redadd (o : MOp)
  /-- REDMIN (opcode 0x1CA, R225). -/
  | redmin (o : MOp)
  /-- REDMAX (opcode 0x1CB, R225). -/
  | redmax (o : MOp)
  /-- REDFADD (opcode 0x1CC, R225). -/
  | redfadd (o : MOp)
  /-- MON (opcode 0x1E0, R226). -/
  | mon (o : MOp)
  /-- UNMON (opcode 0x1E1, R226). -/
  | unmon (o : MOp)
  /-- PARK (opcode 0x1E2, R227). -/
  | park (o : ROp)
  /-- SMSET (opcode 0x1E3, R229). -/
  | smset (o : RIOp)
  /-- SMRD (opcode 0x1E4, R229). -/
  | smrd (o : ROp)
  /-- SMADD (opcode 0x1E5, R229). -/
  | smadd (o : RIOp)
  /-- BAR (opcode 0x1E6, R231). -/
  | bar (o : ROp)
  /-- BARMX (opcode 0x1E7, R231). -/
  | barmx (o : ROp)
  /-- BR (opcode 0x200, R292). -/
  | br (o : IOp)
  /-- JMP (opcode 0x201, R292). -/
  | jmp (o : ROp)
  /-- CALL (opcode 0x202, R292). -/
  | call (o : RIOp)
  /-- RET (opcode 0x203, R292). -/
  | ret (o : ROp)
  /-- LOOP (opcode 0x204, R292). -/
  | loop (o : IOp)
  /-- NOP (opcode 0x205, R292). -/
  | nop (o : ROp)
  /-- SPAWN (opcode 0x220, R297). -/
  | spawn (o : ROp)
  /-- YIELD (opcode 0x221, R302). -/
  | yield (o : ROp)
  /-- AWAIT_SM (opcode 0x222, R303). -/
  | awaitSm (o : ROp)
  /-- AWAIT_FULL (opcode 0x222, R303). -/
  | awaitFull (o : ROp)
  /-- AWAIT_EMPTY (opcode 0x222, R303). -/
  | awaitEmpty (o : ROp)
  /-- EXIT (opcode 0x223, R304). -/
  | exit (o : ROp)
  /-- CALLAT (opcode 0x224, R298). -/
  | callat (o : ROp)
  /-- CALLAT_W (opcode 0x224, R298). -/
  | callatW (o : ROp)
  /-- REPLY (opcode 0x225, R300). -/
  | reply (o : ROp)
  /-- TJOIN (opcode 0x226, R306). -/
  | tjoin (o : ROp)
  /-- TLEAVE (opcode 0x227, R306). -/
  | tleave (o : ROp)
  /-- TQRY (opcode 0x228, R306). -/
  | tqry (o : ROp)
  /-- PRIO (opcode 0x229, R307). -/
  | prio (o : RIOp)
  /-- RCLK (opcode 0x22A, R308). -/
  | rclk (o : ROp)
  /-- RCADV (opcode 0x22B, R308). -/
  | rcadv (o : RIOp)
  /-- CGETA (opcode 0x240, R332). -/
  | cgeta (o : ROp)
  /-- CGETB (opcode 0x241, R332). -/
  | cgetb (o : ROp)
  /-- CGETL (opcode 0x242, R332). -/
  | cgetl (o : ROp)
  /-- CGETP (opcode 0x243, R332). -/
  | cgetp (o : ROp)
  /-- CTAG (opcode 0x244, R332). -/
  | ctag (o : ROp)
  /-- CSETA (opcode 0x245, R333). -/
  | cseta (o : ROp)
  /-- CINC (opcode 0x246, R333). -/
  | cinc (o : RIOp)
  /-- CBND (opcode 0x247, R333). -/
  | cbnd (o : RIOp)
  /-- CBNDE (opcode 0x248, R333). -/
  | cbnde (o : RIOp)
  /-- CPERM (opcode 0x249, R332). -/
  | cperm (o : RIOp)
  /-- CSEAL (opcode 0x24A, R334). -/
  | cseal (o : ROp)
  /-- CUNSEAL (opcode 0x24B, R334). -/
  | cunseal (o : ROp)
  /-- CCLR (opcode 0x24C, R332). -/
  | cclr (o : ROp)
  /-- CSUB (opcode 0x24D, R332). -/
  | csub (o : ROp)
  /-- CMOV (opcode 0x24E, R332). -/
  | cmov (o : ROp)
  /-- CRVK_MARK (opcode 0x24F, R336). -/
  | crvkMark (o : ROp)
  /-- CRVK_CLEAR (opcode 0x24F, R336). -/
  | crvkClear (o : ROp)
  /-- CSWP_START (opcode 0x250, R337). -/
  | cswpStart (o : ROp)
  /-- CSWP_ACK (opcode 0x250, R337). -/
  | cswpAck (o : ROp)
  /-- TRAP (opcode 0x280, R363). -/
  | trap (o : XOp)
  /-- EBRK (opcode 0x281, R363). -/
  | ebrk (o : XOp)
  /-- GSR (opcode 0x282, R364). -/
  | gsr (o : IOp)
  /-- SSR (opcode 0x283, R364). -/
  | ssr (o : IOp)
  /-- FREC0_REARM (opcode 0x283, R360). -/
  | frec0Rearm (o : IOp)
  /-- TRQST_CLEAR (opcode 0x283, R359). -/
  | trqstClear (o : IOp)
  /-- BMODE_WRITE (opcode 0x283, R194). -/
  | bmodeWrite (o : IOp)
  /-- TRQ (opcode 0x284, R365). -/
  | trq (o : ROp)
  /-- WFS (opcode 0x285, R365). -/
  | wfs (o : ROp)
  /-- SRET_RETRY (opcode 0x286, R366). -/
  | sretRetry (o : ROp)
  /-- SRET_SKIP (opcode 0x286, R366). -/
  | sretSkip (o : ROp)
  /-- SRET_PC (opcode 0x286, R366). -/
  | sretPc (o : ROp)
  /-- SRET_WAKE (opcode 0x286, R366). -/
  | sretWake (o : ROp)
  /-- RDPK (opcode 0x287, R367). -/
  | rdpk (o : ROp)
  /-- WRPK (opcode 0x288, R367). -/
  | wrpk (o : ROp)
  /-- SUSPK (opcode 0x289, R368). -/
  | suspk (o : ROp)
  /-- SUSPK_Q (opcode 0x289, R368). -/
  | suspkQ (o : ROp)
  /-- HINT (opcode 0x28A, R369). -/
  | hint (o : XOp)
  /-- STREAM_ROW_FETCH, an event (R107). -/
  | streamRowFetch
  /-- STREAM_ROW_PERFORM, an event (R108). -/
  | streamRowPerform
  /-- REPETITION_PASS, an event (R110). -/
  | repetitionPass
  /-- LATCH_DATA_ARRIVAL, an event (R121). -/
  | latchDataArrival
  /-- DRAIN_ROW_WRITE, an event (R129). -/
  | drainRowWrite
  /-- LATCH_RELOAD, an event (R127). -/
  | latchReload
  /-- WTILE_COMPLETE, an event (R166). -/
  | wtileComplete
  /-- TRANSFORM_REQUEST_EXECUTE, an event (R184). -/
  | transformRequestExecute
  /-- TRANSFORM_RESERVED_ENTRY, an event (R179). -/
  | transformReservedEntry
  /-- FULL_EMPTY_SERVE, an event (R216). -/
  | fullEmptyServe
  /-- FIFO_SERVE, an event (R196). -/
  | fifoServe
  /-- QUAY_CORE_ARRIVAL, an event (R217). -/
  | quayCoreArrival
  /-- COPY_CHUNK, an event (R220). -/
  | copyChunk
  /-- REMOTE_UPDATE, an event (R225). -/
  | remoteUpdate
  /-- PARK_WAKE, an event (R227). -/
  | parkWake
  /-- PARK_TIMEOUT, an event (R227). -/
  | parkTimeout
  /-- WAITSEM_GRANT, an event (R312). -/
  | waitsemGrant
  /-- BARRIER_WAIT_RETURN, an event (R231). -/
  | barrierWaitReturn
  /-- AWAIT_CONDITION_HOLDS, an event (R303). -/
  | awaitConditionHolds
  /-- REPLY_GRANULE_WRITE, an event (R300). -/
  | replyGranuleWrite
  /-- SWEEP_MEMORY, an event (R337). -/
  | sweepMemory
  /-- SWEEP_COMPLETE, an event (R337). -/
  | sweepComplete
  /-- EXPORT, an event (R350). -/
  | exportImage
  /-- IMPORT, an event (R351). -/
  | importImage
  /-- MIGRATION_IMPORT, an event (R352). -/
  | migrationImport
  /-- EXPORT_IMPORT_COMPLETE, an event (R407). -/
  | exportImportComplete
  /-- WFS_TIMEOUT, an event (R365). -/
  | wfsTimeout
  /-- HINT_YIELD_END, an event (R369). -/
  | hintYieldEnd
  /-- TRAP_RECORD_ENQUEUE, an event (R359). -/
  | trapRecordEnqueue
  /-- WTMO, an event (R311). -/
  | wtmo
  /-- SLICE, an event (R314). -/
  | slice
  /-- ENQUEUE_APERTURE_WRITE, an event (R277). -/
  | enqueueApertureWrite
  /-- BIND, an event (R282). -/
  | bind
  /-- STAND, an event (R282). -/
  | stand
  /-- PREEMPT, an event (R282). -/
  | preempt
  /-- RESTORE_UNIT_TAKE, an event (R437). -/
  | restoreUnitTake
  /-- POOL_GRANT, an event (R13). -/
  | poolGrant
  /-- LOCAL_REFILL, an event (R284). -/
  | localRefill
  /-- CMQ_PROMOTE, an event (R285). -/
  | cmqPromote
  /-- HELD_MESSAGE_DELIVERY, an event (R285). -/
  | heldMessageDelivery
  /-- BUDGET_CHARGE, an event (R315). -/
  | budgetCharge
  /-- TOW_SWAP, an event (R319). -/
  | towSwap
  /-- TOW_RETURN, an event (R319). -/
  | towReturn
  /-- LAUNCH_COMPLETION, an event (R289). -/
  | launchCompletion
  /-- COALESCING_WINDOW_END, an event (R290). -/
  | coalescingWindowEnd
  /-- TOW_DESCRIPTOR_ACTION_HELD, an event (R436). -/
  | towDescriptorActionHeld
  /-- PAGE_REQUEST_MAPPED, an event (R269). -/
  | pageRequestMapped
  /-- PAGE_REQUEST_REFUSAL, an event (R268). -/
  | pageRequestRefusal
  /-- SIDE_LOG_ADMIT, an event (R269). -/
  | sideLogAdmit
  /-- DUP_INVALIDATION_ACK, an event (R251). -/
  | dupInvalidationAck
  /-- TRANSLATION_INVALIDATE, an event (R274). -/
  | translationInvalidate
  /-- HOST_BAR2_READ, an event (R254). -/
  | hostBar2Read
  /-- HOST_BAR2_WRITE, an event (R253). -/
  | hostBar2Write
  /-- COUNTER_GROUP_READ, an event (R354). -/
  | counterGroupRead
  /-- PSEM_TAKE, an event (R388). -/
  | psemTake
  /-- PSEM_RELEASE, an event (R388). -/
  | psemRelease
  /-- ATTEST, an event (R390). -/
  | attest
  /-- TOW_RESUME, an event (R390). -/
  | towResume
  /-- TOW_DISCARD, an event (R390). -/
  | towDiscard
  /-- UIT_SET, an event (R390). -/
  | uitSet
  /-- CWIN_SET, an event (R397). -/
  | cwinSet
  /-- CWIN_ARM, an event (R399). -/
  | cwinArm
  /-- WORLD_CREATE, an event (R390). -/
  | worldCreate
  /-- WORLD_DESTROY, an event (R390). -/
  | worldDestroy
  /-- MIG_EXPORT, an event (R352). -/
  | migExport
  /-- MIG_IMPORT, an event (R352). -/
  | migImport
  /-- FW_UPDATE, an event (R390). -/
  | fwUpdate
  /-- ROUTE_SET, an event (R393). -/
  | routeSet
  /-- XWIN_SET, an event (R394). -/
  | xwinSet
  /-- IMPORT_SET, an event (R395). -/
  | importSet
  /-- MAILBOX_COMPLETION, an event (R389). -/
  | mailboxCompletion
  /-- MGMT_REGISTER_WRITE, an event (R432). -/
  | mgmtRegisterWrite
  /-- CWIN_TIMEOUT, an event (R398). -/
  | cwinTimeout
  /-- PEER_ACCESS_ARRIVAL, an event (R395). -/
  | peerAccessArrival
  /-- PEER_RESPONSE, an event (R396). -/
  | peerResponse
  /-- PTMO, an event (R396). -/
  | ptmo
  /-- FABRIC_FAILOVER, an event (R393). -/
  | fabricFailover
  /-- CXL_LINK_DOWN, an event (R392). -/
  | cxlLinkDown
  /-- HOT_RESET, an event (R353). -/
  | hotReset
  /-- HOST_SESSION_ESTABLISHED, an event (R353). -/
  | hostSessionEstablished
  /-- COLD_RESET, an event (R382). -/
  | coldReset
  /-- WARM_RESET, an event (R382). -/
  | warmReset
  /-- FUNCTION_LEVEL_RESET, an event (R383). -/
  | functionLevelReset
  /-- SUPERVISOR_START, an event (R361). -/
  | supervisorStart
  /-- THROTTLE_STEP, an event (R385). -/
  | throttleStep
  /-- THERMAL_TRIP, an event (R385). -/
  | thermalTrip
  /-- SUPPLY_DROOP, an event (R385). -/
  | supplyDroop
  /-- VREF_RECALIBRATION, an event (R384). -/
  | vrefRecalibration
  /-- PATROL_SCRUB, an event (R379). -/
  | patrolScrub
  /-- ACCUMULATOR_COMPLETE, an event (R126). -/
  | accumulatorComplete
  /-- BANK_MODE_SWITCH_COMPLETE, an event (R194). -/
  | bankModeSwitchComplete
  /-- STORE_PERFORMED, an event (R247). -/
  | storePerformed
  /-- INVALIDATION_APPLIED, an event (R251). -/
  | invalidationApplied
  /-- DEBUGGER_HALT, an event (R313). -/
  | debuggerHalt
  /-- DEBUGGER_RESUME, an event (R313). -/
  | debuggerResume
  /-- FABRIC_LINK_UP, an event (R393). -/
  | fabricLinkUp
  /-- CXL_LINK_UP, an event (R392). -/
  | cxlLinkUp
  /-- FUNCTION_LEVEL_RESET_COMPLETE, an event (R383). -/
  | functionLevelResetComplete
  /-- COUNTER_TABLE_RESCAN, an event (R272). -/
  | counterTableRescan
deriving DecidableEq, Repr

/-- The row of the table an act is an instance of. -/
def Act.instr : Act → Instr
  | .streamRowFetch _ _ => .streamRowFetch
  | .streamRowPerform _ _ => .streamRowPerform
  | .repetitionPass _ => .repetitionPass
  | .latchDataArrival _ => .latchDataArrival
  | .drainRowWrite => .drainRowWrite
  | .latchReload => .latchReload
  | .wtileComplete => .wtileComplete
  | .transformRequestExecute => .transformRequestExecute
  | .transformReservedEntry => .transformReservedEntry
  | .fullEmptyServe _ => .fullEmptyServe
  | .fifoServe _ => .fifoServe
  | .quayCoreArrival _ => .quayCoreArrival
  | .copyChunk => .copyChunk
  | .remoteUpdate _ => .remoteUpdate
  | .parkWake _ => .parkWake
  | .parkTimeout _ => .parkTimeout
  | .waitsemGrant _ => .waitsemGrant
  | .barrierWaitReturn _ => .barrierWaitReturn
  | .awaitConditionHolds _ => .awaitConditionHolds
  | .replyGranuleWrite _ => .replyGranuleWrite
  | .sweepMemory _ => .sweepMemory
  | .sweepComplete _ => .sweepComplete
  | .exportImage => .exportImage
  | .importImage => .importImage
  | .migrationImport => .migrationImport
  | .exportImportComplete => .exportImportComplete
  | .wfsTimeout => .wfsTimeout
  | .hintYieldEnd => .hintYieldEnd
  | .trapRecordEnqueue => .trapRecordEnqueue
  | .wtmo _ _ => .wtmo
  | .slice _ => .slice
  | .enqueueApertureWrite _ _ _ _ => .enqueueApertureWrite
  | .bind _ _ => .bind
  | .stand _ _ => .stand
  | .preempt _ => .preempt
  | .restoreUnitTake _ => .restoreUnitTake
  | .poolGrant => .poolGrant
  | .localRefill => .localRefill
  | .cmqPromote _ => .cmqPromote
  | .heldMessageDelivery _ => .heldMessageDelivery
  | .budgetCharge _ _ _ => .budgetCharge
  | .towSwap _ _ => .towSwap
  | .towReturn _ _ => .towReturn
  | .launchCompletion _ _ => .launchCompletion
  | .coalescingWindowEnd _ _ _ _ => .coalescingWindowEnd
  | .towDescriptorActionHeld => .towDescriptorActionHeld
  | .pageRequestMapped _ _ => .pageRequestMapped
  | .pageRequestRefusal _ _ _ => .pageRequestRefusal
  | .sideLogAdmit => .sideLogAdmit
  | .dupInvalidationAck _ => .dupInvalidationAck
  | .translationInvalidate _ _ => .translationInvalidate
  | .hostBar2Read _ _ _ _ => .hostBar2Read
  | .hostBar2Write _ _ _ _ _ => .hostBar2Write
  | .counterGroupRead _ _ _ _ => .counterGroupRead
  | .psemTake _ => .psemTake
  | .psemRelease _ => .psemRelease
  | .attest _ _ _ => .attest
  | .towResume _ _ _ => .towResume
  | .towDiscard _ _ => .towDiscard
  | .uitSet _ _ => .uitSet
  | .cwinSet _ _ _ _ _ _ _ => .cwinSet
  | .cwinArm _ _ => .cwinArm
  | .worldCreate _ _ _ _ => .worldCreate
  | .worldDestroy _ _ => .worldDestroy
  | .migExport _ _ _ _ _ => .migExport
  | .migImport _ _ _ _ _ => .migImport
  | .fwUpdate _ _ _ => .fwUpdate
  | .routeSet _ _ _ _ => .routeSet
  | .xwinSet _ _ _ _ => .xwinSet
  | .importSet _ _ _ _ _ _ _ _ => .importSet
  | .mailboxCompletion _ => .mailboxCompletion
  | .mgmtRegisterWrite _ _ _ _ => .mgmtRegisterWrite
  | .cwinTimeout _ => .cwinTimeout
  | .peerAccessArrival _ _ _ _ _ _ => .peerAccessArrival
  | .peerResponse _ _ _ => .peerResponse
  | .ptmo _ => .ptmo
  | .fabricFailover _ => .fabricFailover
  | .cxlLinkDown _ => .cxlLinkDown
  | .hotReset _ => .hotReset
  | .hostSessionEstablished _ => .hostSessionEstablished
  | .coldReset => .coldReset
  | .warmReset => .warmReset
  | .functionLevelReset _ => .functionLevelReset
  | .supervisorStart _ => .supervisorStart
  | .throttleStep _ _ => .throttleStep
  | .thermalTrip => .thermalTrip
  | .supplyDroop => .supplyDroop
  | .vrefRecalibration _ => .vrefRecalibration
  | .patrolScrub _ _ => .patrolScrub
  | .accumulatorComplete => .accumulatorComplete
  | .bankModeSwitchComplete => .bankModeSwitchComplete
  | .storePerformed _ _ _ _ _ => .storePerformed
  | .invalidationApplied _ _ => .invalidationApplied
  | .debuggerHalt _ => .debuggerHalt
  | .debuggerResume _ => .debuggerResume
  | .fabricLinkUp _ => .fabricLinkUp
  | .cxlLinkUp _ => .cxlLinkUp
  | .functionLevelResetComplete _ => .functionLevelResetComplete
  | .counterTableRescan _ => .counterTableRescan

end Sys2Proof
end

