-- ==== Sys2Proof/WellFormed.lean ====
section
/-!
DEFINITION. Well-formedness: the rows of R49 that depend on an instruction's fields, each row as a Bool that says
the row HOLDS (the encoding is illegal by it). `Instr.ill` gives the sub-code of the lowest-numbered row that holds.
Rows 1 and 2 (opcode, format) are the decoder's; row 11 is frep's own check (R111).
-/

namespace Sys2Proof

/-- What an operand field names (R43). `four` is an accumulator or a stream port; `raw` is a field the entry reads
as a number and checks by itself. -/
inductive Fld where
  | no | x | c | v | k | p | four | raw
deriving DecidableEq, Repr

/-- A nonzero field the entry does not use (R49 row 4). -/
def Fld.unusedBad (f : Fld) (b : BitVec 6) : Bool := f == .no && b != 0

/-- A register index beyond its file (R43, R49 row 5). -/
def Fld.rangeBad (f : Fld) (b : BitVec 6) : Bool :=
  match f with
  | .x | .c => 32 ≤ b.toNat
  | .k | .p => 8 ≤ b.toNat
  | .four => 4 ≤ b.toNat
  | .no | .v | .raw => false

/-- Which rounding codes an entry takes (R38, R100). -/
inductive RmUse where
  | no | any | rne
deriving DecidableEq, Repr

/-- How an entry uses MOD: usable ISP bits, KM and ZM, whether SUB is one it takes, SAT, RM, and for TYPE whether
it is used (`some`) and then whether the code is accepted. -/
structure ModUse where
  isp : BitVec 4 := 0
  mask : Bool := false
  subOk : Bool := true
  sat : Bool := false
  rm : RmUse := .no
  ty : Option Bool := none

/-- The rows of R49 that a word's fields decide; true when the row holds. -/
structure Rows where
  r3 : Bool := false
  r4 : Bool := false
  r5 : Bool := false
  r6 : Bool := false
  r7 : Bool := false
  r8 : Bool := false
  r9 : Bool := false
  r10 : Bool := false
  r12 : Bool := false

/-- The sub-code of the lowest-numbered row that holds (R49). -/
def Rows.first (r : Rows) : Option Nat :=
  if r.r3 then some 3 else if r.r4 then some 4 else if r.r5 then some 5 else if r.r6 then some 6
  else if r.r7 then some 7 else if r.r8 then some 8 else if r.r9 then some 9 else if r.r10 then some 10
  else if r.r12 then some 12 else none

def Hdr.bad (h : Hdr) : Bool := h.sigInc == 0 && h.sigSm != 0
def WaitF.bad (w : WaitF) : Bool := w.thr == 0 && w.sm != 0

def ModF.row3 (m : ModF) (u : ModUse) : Bool :=
  m.isp &&& ~~~u.isp != 0 || (!u.mask && (m.km != 0 || m.zm != 0)) || !u.subOk || (!u.sat && m.sat != 0) ||
    (u.ty.isNone && m.ty != 0)

def ModF.row6 (m : ModF) (u : ModUse) : Bool :=
  6 ≤ m.rm.toNat || match u.rm with
    | .no => m.rm != 0
    | .any => false
    | .rne => 1 < m.rm.toNat

/-- The rows of an R-format word whose operand fields name `d a b c e`. -/
def ROp.rows (o : ROp) (d a b c e : Fld) (u : ModUse) : Rows where
  r3 := o.md.row3 u
  r4 := d.unusedBad o.od || a.unusedBad o.oa || b.unusedBad o.ob || c.unusedBad o.oc || e.unusedBad o.oe ||
    o.wait.bad || o.hdr.bad
  r5 := d.rangeBad o.od || a.rangeBad o.oa || b.rangeBad o.ob || c.rangeBad o.oc || e.rangeBad o.oe
  r6 := o.md.row6 u
  r10 := u.ty == some false

/-- The rows of an I-format word. -/
def IOp.rows (o : IOp) (d a : Fld) (u : ModUse) : Rows where
  r3 := o.md.row3 u
  r4 := d.unusedBad o.od || a.unusedBad o.oa || o.hdr.bad
  r5 := d.rangeBad o.od || a.rangeBad o.oa
  r6 := o.md.row6 u
  r10 := u.ty == some false

/-- The rows of an X-format word: OD and OA are unused in every X form (R42, R110, R160, R363, R369). -/
def XOp.rows (o : XOp) (subOk : Bool) : Rows where
  r3 := o.rsv != 0 || !subOk
  r4 := o.od != 0 || o.oa != 0 || o.hdr.bad

/-- The rows of an M-format word with the X values, sizes and orders the entry takes (R41). -/
def MOp.rows (o : MOp) (d a b : Fld) (xOk : Bool) (sizes ords : List Nat) : Rows where
  r3 := !xOk
  r4 := d.unusedBad o.od || a.unusedBad o.oa || b.unusedBad o.ob || o.wait.bad || o.hdr.bad
  r5 := d.rangeBad o.od || a.rangeBad o.oa || b.rangeBad o.ob
  r7 := !sizes.contains o.size.toNat
  r8 := !ords.contains o.ord.toNat
  r9 := 5 ≤ o.scope.toNat || (o.ord == 0 && o.scope != 0)

/-! The type sets of R37, R75, R83, R91, R96, R102, R115, R218. -/

def tyInt (t : BitVec 4) : Bool := t.toNat < 8
def tySigned (t : BitVec 4) : Bool := t.toNat < 4
def tyF (t : BitVec 4) : Bool := t == 8 || t == 9 || t == 10
def tyFloat (t : BitVec 4) : Bool := 8 ≤ t.toNat && t != 15
def tyI (t : BitVec 4) : Bool := t.toNat < 7 && t != 3
def tyIF (t : BitVec 4) : Bool := tyI t || tyF t
def tyM (t : BitVec 4) : Bool := tyI t || tyFloat t
def tyVcvt (t : BitVec 4) : Bool := tyI t || 8 ≤ t.toNat
def tyMat (t : BitVec 4) : Bool := t == 0 || t == 4 || 9 ≤ t.toNat
def tyDot (t : BitVec 4) : Bool := t == 0 || t == 4 || t == 1 || t == 5 || t == 9 || t == 10
def tyPack (t : BitVec 4) : Bool := t == 0 || t == 4 || t == 1 || t == 5
def tyUnpack (t : BitVec 4) : Bool := t == 1 || t == 5 || t == 2 || t == 6

/-- Element size in bits of a type code in a vector lane; packed 4-bit values have 4 (R91, R96). -/
def laneBits (t : BitVec 4) : Nat :=
  if t == 2 || t == 6 || t == 8 then 32 else if t == 1 || t == 5 || t == 9 || t == 10 then 16
  else if t == 3 || t == 7 then 64 else if t == 15 then 4 else 8

/-- The assigned system register numbers (R430). -/
def sysregNumbers : List Nat :=
  [0x000, 0x001, 0x008, 0x009, 0x00A, 0x00B, 0x00C, 0x010, 0x011, 0x012, 0x013, 0x020, 0x021, 0x022, 0x040, 0x041,
   0x042, 0x044, 0x045, 0x046, 0x047, 0x048, 0x080, 0x081, 0x084, 0x085, 0x086, 0x087, 0x088, 0x089, 0x08A, 0x08B,
   0x0C0, 0x0C1, 0x100, 0x101, 0x102, 0x103]

/-! Shared shapes. -/

/-- MOD of an integer-group entry (R74). -/
def useInt (m : ModF) (ok : BitVec 4 → Bool) (sat : Bool) (subOk : Bool := m.sub == 0) : ModUse :=
  { sat := sat, subOk := subOk, ty := some (ok m.ty) }
/-- MOD of a scalar float entry (R83). -/
def useFloat (m : ModF) (ok : BitVec 4 → Bool) (sat : Bool) (rm : RmUse) (subOk : Bool := m.sub == 0) : ModUse :=
  { sat := sat, rm := rm, subOk := subOk, ty := some (ok m.ty) }
/-- MOD of a vector entry (R92). -/
def useVec (m : ModF) (ok : BitVec 4 → Bool) (sat : Bool) (rm : RmUse) (subOk : Bool := m.sub == 0) : ModUse :=
  { mask := true, sat := sat, rm := rm, subOk := subOk, ty := some (ok m.ty) }
/-- The whole of MOD zero, but for SUB where `subOk` names it. -/
def useZero (m : ModF) (subOk : Bool := m.sub == 0) : ModUse := { subOk := subOk }
/-- MOD with a scope code in ISP [94:92] (R296, R231). -/
def useScope (m : ModF) (subOk : Bool := m.sub == 0) : ModUse := { isp := 7, subOk := subOk }

/-- A register or immediate integer operation. -/
def RIOp.rowsInt (o : RIOp) (d : Fld) (ok : BitVec 4 → Bool) (sat : Bool) (subOk : BitVec 4 → Bool := (· == 0)) : Rows :=
  match o with
  | .r o => o.rows d .x .x .no .no (useInt o.md ok sat (subOk o.md.sub))
  | .i o => o.rows d .x (useInt o.md ok sat (subOk o.md.sub))

/-- Scope codes 5-7 of ISP [94:92] (R49 row 9). -/
def ModF.scopeBad (m : ModF) : Bool := 5 ≤ (m.isp &&& 7).toNat

/-- A matrix TYPE, with an ISP [93:92] format of a packed type other than the reserved 3 (R115, R118). -/
def matTyOk (m : ModF) : Bool := tyMat m.ty && !(m.ty == 15 && (m.isp &&& 3) == 3)

/-- MOD of mma and mmas (R124, R125). -/
def matRows (o : ROp) (isp : BitVec 4) (sat : Bool) (subOk : Bool) : Rows :=
  let u : ModUse :=
    { isp := if o.md.ty == 15 then isp ||| 3 else isp, sat := sat, subOk := subOk, ty := some (matTyOk o.md) }
  o.rows .four .no .no .no .no u

/-- MOD of the semaphore instructions: ISP and SUB hold the number (R229). -/
def useSem : ModUse := { isp := 15 }

/-- The sizes of an atomic's register fields: x, or c for the capability size (R223). -/
def amoFld (o : MOp) : Fld := if o.size == 6 then .c else .x

def amoRows (o : MOp) (sizes : List Nat) (xOk : Bool := true) : Rows :=
  o.rows (amoFld o) .c (amoFld o) xOk sizes [0, 1, 2, 3, 4]

def redRows (o : MOp) (sizes : List Nat) (xOk : Bool := true) : Rows := o.rows .no .c .x xOk sizes [0]

/-- X of amofadd and redfadd: bf16 or f16 at 2 bytes, 0 at 4 (R223). -/
def amoFX (o : MOp) : Bool := o.size == 1 || o.x == 0

/-- vcvt (R96): OB holds a part number below the ratio of the element sizes. -/
def vcvtRows (o : ROp) : Rows :=
  let four := o.md.ty == 15 || o.md.sub == 15
  let bs := laneBits o.md.sub
  let bd := laneBits o.md.ty
  let ok := tyVcvt o.md.ty && tyVcvt o.md.sub && !(o.md.ty == 15 && o.md.sub == 15) &&
    !(four && (o.md.isp &&& 3) == 3)
  let u : ModUse := { isp := if four then 3 else 0, mask := true, sat := true, rm := .any, ty := some ok }
  { o.rows .v .v .raw .no .no u with r3 := o.md.row3 u || max bs bd / min bs bd ≤ o.ob.toNat }

/-- gsr and ssr (R364): bits [31:12] of the number zero; the number assigned. -/
def sysRows (o : IOp) (d a : Fld) (ok : Bool) : Rows :=
  { o.rows d a (useZero o.md) with
    r3 := o.md.row3 (useZero o.md) || 4095 < o.imm.toNat, r12 := !ok }

/-- The rows of R49 for an instruction. An event has no encoding and no rows. DEDUCED, unsafe: log 20.
DESIGN CHOICE, unsafe: log 99. -/
def Instr.rows : Instr → Rows
  | .add o => o.rowsInt .x tyInt true
  | .sub o => o.rowsInt .x tyInt true
  | .mul o => o.rowsInt .x tyInt true
  | .mulh o => o.rows .x .x .x .no .no (useInt o.md tyInt false)
  | .mad o => o.rows .x .x .x .x .no (useInt o.md tyInt true)
  | .div o => o.rows .x .x .x .no .no (useInt o.md tyInt true)
  | .rem o => o.rows .x .x .x .no .no (useInt o.md tyInt false)
  | .and o => o.rowsInt .x tyInt false
  | .or o => o.rowsInt .x tyInt false
  | .xor o => o.rowsInt .x tyInt false
  | .andn o => o.rowsInt .x tyInt false
  | .shl o => o.rowsInt .x tyInt false
  | .shr o => o.rowsInt .x tyInt false
  | .sra o => o.rowsInt .x tySigned false
  | .rotl o => o.rowsInt .x tyInt false
  | .min o => o.rowsInt .x tyInt false
  | .max o => o.rowsInt .x tyInt false
  | .abs o => o.rows .x .x .no .no .no (useInt o.md tySigned true)
  | .clz o => o.rows .x .x .no .no .no (useInt o.md tyInt false)
  | .ctz o => o.rows .x .x .no .no .no (useInt o.md tyInt false)
  | .popc o => o.rows .x .x .no .no .no (useInt o.md tyInt false)
  | .bfx o =>
    match o with
    | .r o => o.rows .x .x .x .no .no (useInt o.md (fun t => t == 3 || t == 7) false)
    | .i o => { o.rows .x .x (useInt o.md (fun t => t == 3 || t == 7) false) with
                r3 := o.md.row3 (useInt o.md (fun _ => true) false) || o.imm &&& ~~~0x3F3F != 0 }
  | .bfi o =>
    match o with
    | .r o => o.rows .x .x .x .no .no (useInt o.md (fun t => t == 3 || t == 7) false)
    | .i o => { o.rows .x .x (useInt o.md (fun t => t == 3 || t == 7) false) with
                r3 := o.md.row3 (useInt o.md (fun _ => true) false) || o.imm &&& ~~~0x3F3F != 0 }
  | .shadd o => o.rowsInt .x tyInt true (fun _ => true)
  | .sel o => o.rows .x .x .x .p .no (useInt o.md tyInt false)
  | .mov o => o.rows .x .x .no .no .no (useInt o.md tyInt false)
  | .li o => o.rows .x .no (useInt o.md (· == 3) false (o.md.sub.toNat < 3))
  | .cvt o => o.rows .x .x .no .no .no (useInt o.md (fun t => tyInt t && tyInt o.md.sub) true true)
  | .cmp o => o.rowsInt .p tyInt false (fun s => s.toNat < 6)
  | .bswap o => o.rows .x .x .no .no .no (useInt o.md (fun t => tyInt t && t != 0 && t != 4) false)
  | .pand o => o.rows .p .p .p .no .no (useZero o.md)
  | .por o => o.rows .p .p .p .no .no (useZero o.md)
  | .pxor o => o.rows .p .p .p .no .no (useZero o.md)
  | .pnot o => o.rows .p .p .no .no .no (useZero o.md)
  | .pmov o =>
    o.rows (if o.md.sub.toNat < 2 then .p else .x)
      (if o.md.sub == 1 then .x else if o.md.sub == 3 then .no else .p) .no .no .no (useZero o.md (o.md.sub.toNat < 4))
  | .fadd o => o.rows .x .x .x .no .no (useFloat o.md tyF true .any)
  | .fsub o => o.rows .x .x .x .no .no (useFloat o.md tyF true .any)
  | .fmul o => o.rows .x .x .x .no .no (useFloat o.md tyF true .any)
  | .ffma o => o.rows .x .x .x .x .no (useFloat o.md tyF true .any)
  | .fdiv o => o.rows .x .x .x .no .no (useFloat o.md tyF true .any)
  | .fsqrt o => o.rows .x .x .no .no .no (useFloat o.md tyF true .any)
  | .fmin o => o.rows .x .x .x .no .no (useFloat o.md tyF false .no)
  | .fmax o => o.rows .x .x .x .no .no (useFloat o.md tyF false .no)
  | .fcmp o => o.rows .p .x .x .no .no (useFloat o.md tyFloat false .no (o.md.sub.toNat < 8))
  | .fcvt o =>
    o.rows .x .x .no .no .no (useFloat o.md (fun t => t != 15 && o.md.sub != 15 && !(tyInt t && tyInt o.md.sub))
      true .any true)
  | .fclass o => o.rows .x .x .no .no .no (useFloat o.md tyFloat false .no)
  | .vadd o => o.rows .v .v .v .no .no (useVec o.md tyIF true .any)
  | .vsub o => o.rows .v .v .v .no .no (useVec o.md tyIF true .any)
  | .vmul o => o.rows .v .v .v .no .no (useVec o.md tyIF true .any)
  | .vfma o => o.rows .v .v .v .v .no (useVec o.md tyIF true .any)
  | .vfms o => o.rows .v .v .v .v .no (useVec o.md tyIF true .any)
  | .vmin o => o.rows .v .v .v .no .no (useVec o.md tyIF false .no)
  | .vmax o => o.rows .v .v .v .no .no (useVec o.md tyIF false .no)
  | .vabs o => o.rows .v .v .no .no .no (useVec o.md tyIF true .no)
  | .vneg o => o.rows .v .v .no .no .no (useVec o.md tyIF true .no)
  | .vand o => o.rows .v .v .v .no .no (useVec o.md tyI false .no)
  | .vor o => o.rows .v .v .v .no .no (useVec o.md tyI false .no)
  | .vxor o => o.rows .v .v .v .no .no (useVec o.md tyI false .no)
  | .vshl o =>
    match o with
    | .r o => o.rows .v .v .v .no .no (useVec o.md tyI false .no)
    | .i o => o.rows .v .v (useVec o.md tyI false .no)
  | .vshr o =>
    match o with
    | .r o => o.rows .v .v .v .no .no (useVec o.md tyI false .no)
    | .i o => o.rows .v .v (useVec o.md tyI false .no)
  | .vcmp o => o.rows .k .v .v .no .no (useVec o.md tyIF false .no (o.md.sub.toNat < if tyI o.md.ty then 6 else 8))
  | .vsel o => { o.rows .v .v .v .no .no (useVec o.md tyM false .no) with r3 := o.md.row3 (useVec o.md tyM false .no) || o.md.zm != 0 }
  | .vcvt o => vcvtRows o
  | .vdot o => o.rows .v .v .v .v .no (useVec o.md tyDot true .any)
  | .vscl o => o.rows .v .v .x .no .no (useVec o.md tyF true .any)
  | .vmov o => o.rows .v .v .no .no .no (useVec o.md tyM false .no)
  | .vbcast o =>
    match o with
    | .r o => o.rows .v .x .no .no .no (useVec o.md tyM false .no)
    | .i o => o.rows .v .no (useVec o.md tyM false .no)
  | .vins o => o.rows .v .x .x .no .no { ty := some (tyM o.md.ty), subOk := o.md.sub == 0 }
  | .vext o => o.rows .x .v .x .no .no { ty := some (tyM o.md.ty), subOk := o.md.sub == 0 }
  | .vclamp o => o.rows .v .v .v .v .no (useVec o.md tyIF false .no)
  | .kand o => o.rows .k .k .k .no .no (useZero o.md)
  | .kor o => o.rows .k .k .k .no .no (useZero o.md)
  | .kxor o => o.rows .k .k .k .no .no (useZero o.md)
  | .knot o => o.rows .k .k .no .no .no (useZero o.md)
  | .kpop o => o.rows .x .k .no .no .no { ty := some (tyM o.md.ty), subOk := o.md.sub == 0 }
  | .kfirst o => o.rows .x .k .no .no .no { ty := some (tyM o.md.ty), subOk := o.md.sub == 0 }
  | .kset o =>
    match o with
    | .r o => o.rows .k .x .no .no .no { ty := some (tyM o.md.ty), subOk := o.md.sub == 0 }
    | .i o => o.rows .k .no { ty := some (tyM o.md.ty), subOk := o.md.sub == 0 }
  | .kmov o =>
    o.rows (if o.md.sub.toNat < 2 then .k else .x) (if o.md.sub == 1 then .x else .k)
      (if o.md.sub == 1 then .x else .no) .no .no (useZero o.md (o.md.sub.toNat < 4))
  | .vrcp o => o.rows .v .v .no .no .no (useVec o.md tyF true .any)
  | .vrsq o => o.rows .v .v .no .no .no (useVec o.md tyF true .any)
  | .vsqrt o => o.rows .v .v .no .no .no (useVec o.md tyF true .any)
  | .vexp2 o => o.rows .v .v .no .no .no (useVec o.md tyF false .rne)
  | .vlog2 o => o.rows .v .v .no .no .no (useVec o.md tyF false .rne)
  | .vsin o => o.rows .v .v .no .no .no (useVec o.md tyF false .rne)
  | .vcos o => o.rows .v .v .no .no .no (useVec o.md tyF false .rne)
  | .vtanh o => o.rows .v .v .no .no .no (useVec o.md tyF false .rne)
  | .vsigm o => o.rows .v .v .no .no .no (useVec o.md tyF false .rne)
  | .vexpd o => o.rows .v .v .v .no .no (useVec o.md tyF false .rne)
  | .vredsum o => { o.rows .v .v .no .no .no (useVec o.md tyIF true .any) with r3 := o.md.row3 (useVec o.md tyIF true .any) || o.md.zm != 0 }
  | .vredmax o => { o.rows .v .v .no .no .no (useVec o.md tyIF false .no) with r3 := o.md.row3 (useVec o.md tyIF false .no) || o.md.zm != 0 }
  | .vredmin o => { o.rows .v .v .no .no .no (useVec o.md tyIF false .no) with r3 := o.md.row3 (useVec o.md tyIF false .no) || o.md.zm != 0 }
  | .vscan o => o.rows .v .v .no .no .no (useVec o.md tyIF true .any)
  | .vperm o => o.rows .v .v .v .no .no (useVec o.md tyM false .no)
  | .vshuf o => o.rows .v .v .v .v .no (useVec o.md tyM false .no)
  | .vpack o => o.rows .v .v .v .no .no (useVec o.md tyPack true .no)
  | .vunpack o => o.rows .v .v .no .no .no (useVec o.md tyUnpack false .no (o.md.sub.toNat < 2))
  | .sbind o => o.rows .four .c .x .no .no (useZero o.md (o.md.sub.toNat < 2))
  | .sdim o =>
    match o with
    | .r o => o.rows .four .x .x .no .no (useZero o.md (o.md.sub.toNat < 4))
    | .i o => o.rows .four .no (useZero o.md (o.md.sub.toNat < 4))
  | .sstart o => o.rows .four .no .no .no .no (useZero o.md)
  | .sstop o => o.rows .four .no .no .no .no (useZero o.md)
  | .swait o => o.rows .x .four .no .no .no (useZero o.md)
  | .frep o => o.rows (o.imm.toNat / 2 ^ 27 == 0)
  | .mcfg o =>
    if o.md.sub == 1 || o.md.sub == 2 then
      o.rows .no .x .no .no .no { isp := if o.md.ty == 15 then 3 else 0, ty := some (matTyOk o.md) }
    else o.rows .no .no .no .no .no (useZero o.md (o.md.sub.toNat < 4))
  | .mzero o => o.rows .four .no .no .no .no (useZero o.md)
  | .mlda o =>
    { o.rows .raw .c (if o.x == 1 then .v else .x) true [5] [0] with
      r4 := 4 ≤ o.od.toNat || o.wait.bad || o.hdr.bad }
  | .mldb o =>
    { o.rows .raw .c (if o.x == 1 then .v else .x) true [5] [0] with
      r4 := !(o.od == 0 || o.od == 1 || (o.od == 4 && o.x == 1)) || o.wait.bad || o.hdr.bad }
  | .mscl o => o.rows .no .x (if o.md.sub == 2 then .no else .x) .no .no (useZero o.md (o.md.sub.toNat < 3))
  | .mma o => matRows o 12 true (o.md.sub == 0)
  | .mmas o => matRows o 0 true (o.md.sub == 1 || o.md.sub == 2)
  | .mdrain o => o.rows .four .c .x true [5] [0]
  | .mhand o => o.rows .four .c .x .no .no (useZero o.md)
  | .mrowrd o => o.rows .v .four .x .no .no (useVec o.md (fun t => t == 2 || t == 8) false .no)
  | .mrowwr o => o.rows .four .x .v .no .no (useVec o.md (fun t => t == 2 || t == 8) false .no)
  | .msave o =>
    { o.rows .raw .c .x (o.x == 0) [5] [0] with
      r4 := 16 ≤ o.od.toNat || o.wait.bad || o.hdr.bad }
  | .mrest o =>
    { o.rows .raw .c .x (o.x == 0) [5] [0] with
      r4 := 16 ≤ o.od.toNat || o.wait.bad || o.hdr.bad }
  | .mstat o => o.rows .x .no .no .no .no (useZero o.md)
  | .fpush o =>
    { o.rows .c .c .x .c .c (useZero o.md) with
      r4 := (o.oc == 0 && o.oe != 0) || o.wait.bad || o.hdr.bad }
  | .fpop o => o.rows .x .no .no .no .no (useZero o.md)
  | .fdrop o => o.rows .no .c .no .no .no (useZero o.md)
  | .fenter o => o.rows .no .c .no .no .no (useZero o.md)
  | .farg o => o.rows .no .x .x .no .no (useZero o.md (o.md.sub.toNat < 3))
  | .fkeep o => o.rows .no .x .x .no .no (useZero o.md)
  | .fseal o => o.rows .no .c .no .no .no (useZero o.md)
  | .fshare o => o.rows .no .c .no .no .no (useZero o.md)
  | .fappend o =>
    match o with
    | .r o => o.rows .x .x .no .no .no (useZero o.md)
    | .i o => o.rows .x .no (useZero o.md)
  | .fwin o =>
    match o with
    | .r o => o.rows .no .x .no .no .no (useZero o.md)
    | .i o => o.rows .no .no (useZero o.md)
  | .fvis o => o.rows .p .x .x .no .no (useZero o.md)
  | .fdesc o =>
    match o with
    | .r o => o.rows (if o.md.sub == 1 then .c else .x) .c .x .no .no (useZero o.md (o.md.sub.toNat < 2))
    | .i o => { o.rows (if o.md.sub == 1 then .c else .x) .c (useZero o.md (o.md.sub.toNat < 2)) with
                r3 := o.md.row3 (useZero o.md (o.md.sub.toNat < 2)) ||
                  (if o.md.sub == 1 then 2 else 12) < o.imm.toNat }
  | .fmask o => o.rows .k .v .x .no .no { mask := true, subOk := o.md.sub == 0 }
  | .wcfg o =>
    match o with
    | .r o => o.rows .no .x .x .c .no (useZero o.md)
    | .x o => o.rows (o.sub.toNat < 2)
  | .wband o =>
    match o with
    | .r o => o.rows .no .x .x .no .no (useZero o.md)
    | .i o => o.rows .no .no (useZero o.md)
  | .wseq o => o.rows .c .v .v .x .no (useZero o.md)
  | .wtile o =>
    let top := o.md.isp &&& 1 != 0
    let left := o.md.isp &&& 2 != 0
    o.rows .v .v (if top then .no else .v) (if left then .no else .v) (if top || left then .no else .v)
      { isp := 3, subOk := o.md.sub == 0 }
  | .wbget o => o.rows .v .c .x true [5] [0]
  | .wbput o => o.rows .v .c .x true [5] [0]
  | .tbwalk o =>
    let s : Fld := if o.md.sub == 1 then .v else .no
    o.rows .v .x .c s s (useZero o.md (o.md.sub.toNat < 2))
  | .xexp o => o.rows .p .c .c .c .x (useZero o.md)
  | .xcmp o => o.rows .p .c .c .c .x (useZero o.md)
  | .xquant o => o.rows .p .c .c .c .x { isp := 15, sat := true, rm := .any }
  | .xconv o => o.rows .p .c .c .no .x { isp := 15, sat := true, rm := .any }
  | .xpoll o => o.rows .x .no .no .no .no (useZero o.md)
  | .ld o => o.rows .x .c .x true [0, 1, 2, 3] [0, 1, 4]
  | .st o => o.rows .x .c .x (o.x == 0) [0, 1, 2, 3] [0, 2, 4]
  | .ldc o => o.rows .c .c .x (o.x == 0) [4, 6] [0, 1, 4]
  | .stc o => o.rows .c .c .x (o.x == 0) [4, 6] [0, 2, 4]
  | .vld o => o.rows .v .c .x (o.x == 0) [5] [0, 1]
  | .vst o => o.rows .v .c .x (o.x == 0) [5] [0, 2]
  | .vldg o => o.rows .v .c .v true [0, 1, 2] [0]
  | .vsts o => o.rows .v .c .v true [0, 1, 2] [0]
  | .ldfe o => o.rows (if o.size == 6 then .c else .x) .c .x true [0, 1, 2, 3, 6] [0]
  | .stfe o => o.rows (if o.size == 6 then .c else .x) .c .x true [0, 1, 2, 3, 6] [0]
  | .pref o => o.rows .no .c .x (o.x == 0) [5] [0]
  | .cpy o =>
    let ok : BitVec 4 → Bool := fun t => tyI t || tyFloat t
    let raw := o.md.sub == o.md.ty
    o.rows .c .c .x .x .no { sat := !raw, rm := if raw then .no else .any, ty := some (ok o.md.ty && ok o.md.sub) }
  | .cpyq o => o.rows .no .c .no .no .no (useZero o.md)
  | .fence o =>
    { o.rows .no .no .no .no .no { isp := 7, subOk := o.md.sub.toNat < 8 } with
      r8 := !(1 ≤ (o.md.sub &&& 7).toNat && (o.md.sub &&& 7).toNat < 5), r9 := o.md.scopeBad }
  | .lflush o => o.rows .no .c .x (o.x == 0) [5] [0]
  | .linv o => o.rows .no .c .x (o.x == 0) [5] [0]
  | .ldm o => o.rows .x .c .x true [0, 1, 2, 3] [0, 1, 4]
  | .mig o => o.rows .no .c .x (o.x == 0) [0] [0]
  | .home o => o.rows .no .no .no .no .no (useZero o.md)
  | .amoadd o => amoRows o [2, 3]
  | .amomin o => amoRows o [2, 3]
  | .amomax o => amoRows o [2, 3]
  | .amoand o => amoRows o [2, 3]
  | .amoor o => amoRows o [2, 3]
  | .amoxor o => amoRows o [2, 3]
  | .amoswp o => amoRows o [2, 3, 6] (o.size != 6 || o.x == 0)
  | .amocas o => amoRows o [2, 3, 6] (o.size != 6 || o.x == 0)
  | .amofadd o => amoRows o [1, 2] (amoFX o)
  | .redadd o => redRows o [2, 3]
  | .redmin o => redRows o [2, 3]
  | .redmax o => redRows o [2, 3]
  | .redfadd o => redRows o [1, 2] (amoFX o)
  | .mon o => o.rows .x .c .x true [0, 1, 2, 3] [0, 1]
  | .unmon o =>
    if o.x == 1 then
      { o.rows .no .no .no true [0] [0] with
        r4 := o.od != 0 || o.oa != 0 || o.ob != 0 || o.off != 0 || o.wait.bad || o.hdr.bad }
    else o.rows .no .c .x true [0] [0]
  | .park o => o.rows .x .x .no .no .no (useZero o.md)
  | .smset o =>
    match o with
    | .r o => o.rows .no .x .no .no .no useSem
    | .i o => o.rows .no .no useSem
  | .smrd o => o.rows .x .no .no .no .no useSem
  | .smadd o =>
    match o with
    | .r o => o.rows .x .x .no .no .no useSem
    | .i o => o.rows .x .no useSem
  | .bar o =>
    let w := o.md.sub == 1
    { o.rows (if w then .no else .x) .x (if w then .x else .no) .no .no
        { isp := 7, subOk := o.md.sub.toNat < 2, ty := some (o.md.ty == 0) } with r9 := o.md.scopeBad }
  | .barmx o =>
    let w := o.md.sub == 1
    { o.rows .x .x .x (if w then .no else .x) .no
        { isp := 7, subOk := o.md.sub.toNat < 2, ty := some (o.md.ty == 11) } with r9 := o.md.scopeBad }
  | .br o => o.rows .no .no (useZero o.md)
  | .jmp o => o.rows .no .c .no .no .no (useZero o.md)
  | .call o =>
    match o with
    | .r o => o.rows .no .c .no .no .no (useZero o.md)
    | .i o => o.rows .no .no (useZero o.md)
  | .ret o => o.rows .no .c .no .no .no (useZero o.md)
  | .loop o => { o.rows .x .no (useZero o.md) with r4 := o.od == 0 || o.oa != 0 || o.hdr.bad }
  | .nop o => o.rows .no .no .no .no .no (useZero o.md)
  | .spawn o => { o.rows .x .c .c .x .no (useScope o.md) with r9 := o.md.scopeBad }
  | .yield o => o.rows .no .no .no .no .no (useZero o.md (o.md.sub.toNat < 2))
  | .awaitSm o => o.rows .no .x .x .no .no (useZero o.md)
  | .awaitFull o => o.rows .no .c .no .no .no (useZero o.md (o.md.sub == 1))
  | .awaitEmpty o => o.rows .no .c .no .no .no (useZero o.md (o.md.sub == 2))
  | .exit o => o.rows .no .no .no .no .no (useZero o.md)
  | .callat o => { o.rows .x .c .c .x .no (useScope o.md) with r9 := o.md.scopeBad }
  | .callatW o => { o.rows .x .c .c .x .no (useScope o.md (o.md.sub == 1)) with r9 := o.md.scopeBad }
  | .reply o => { o.rows .no .x .x .no .no (useScope o.md) with r9 := o.md.scopeBad }
  | .tjoin o => o.rows .no .x .no .no .no (useZero o.md (o.md.sub.toNat < 2))
  | .tleave o => o.rows .no .x .no .no .no (useZero o.md)
  | .tqry o => o.rows .x .x .no .no .no (useZero o.md (o.md.sub.toNat < 9))
  | .prio o =>
    match o with
    | .r o => o.rows .no .x .no .no .no (useZero o.md)
    | .i o => { o.rows .no .no (useZero o.md) with r3 := o.md.row3 (useZero o.md) || 3 < o.imm.toNat }
  | .rclk o => o.rows .x .no .no .no .no (useZero o.md)
  | .rcadv o =>
    match o with
    | .r o => o.rows .no .x .no .no .no (useZero o.md)
    | .i o => o.rows .no .no (useZero o.md)
  | .cgeta o => o.rows .x .c .no .no .no (useZero o.md)
  | .cgetb o => o.rows .x .c .no .no .no (useZero o.md)
  | .cgetl o => o.rows .x .c .no .no .no (useZero o.md)
  | .cgetp o => o.rows .x .c .no .no .no (useZero o.md)
  | .ctag o => o.rows .p .c .no .no .no (useZero o.md (o.md.sub.toNat < 2))
  | .cseta o => o.rows .c .c .x .no .no (useZero o.md)
  | .cinc o =>
    match o with
    | .r o => o.rows .c .c .x .no .no (useZero o.md)
    | .i o => o.rows .c .c (useZero o.md)
  | .cbnd o =>
    match o with
    | .r o => o.rows .c .c .x .no .no (useZero o.md)
    | .i o => o.rows .c .c (useZero o.md)
  | .cbnde o =>
    match o with
    | .r o => o.rows .c .c .x .no .no (useZero o.md)
    | .i o => o.rows .c .c (useZero o.md)
  | .cperm o =>
    match o with
    | .r o => o.rows .c .c .x .no .no (useZero o.md)
    | .i o => { o.rows .c .c (useZero o.md) with r3 := o.md.row3 (useZero o.md) || 4095 < o.imm.toNat }
  | .cseal o => o.rows .c .c .c .no .no (useZero o.md)
  | .cunseal o => o.rows .c .c .c .no .no (useZero o.md)
  | .cclr o => o.rows .c .c .no .no .no (useZero o.md)
  | .csub o => o.rows .x .c .c .no .no (useZero o.md)
  | .cmov o => o.rows .c .c .no .no .no (useZero o.md)
  | .crvkMark o => o.rows .no .c .no .no .no (useZero o.md)
  | .crvkClear o => o.rows .no .c .no .no .no (useZero o.md (o.md.sub == 1))
  | .cswpStart o => o.rows .no .x .no .no .no (useZero o.md)
  | .cswpAck o => o.rows .no .x .no .no .no (useZero o.md (o.md.sub == 1))
  | .trap o => o.rows (o.sub == 0)
  | .ebrk o => o.rows (o.sub == 0)
  | .gsr o => sysRows o .x .no (sysregNumbers.contains o.imm.toNat)
  | .ssr o => sysRows o .no .x (sysregNumbers.contains o.imm.toNat && o.imm != 0x044 && o.imm != 0x048 && o.imm != 0x081)
  | .frec0Rearm o => sysRows o .no .x (o.imm == 0x044)
  | .trqstClear o => sysRows o .no .x (o.imm == 0x048)
  | .bmodeWrite o => sysRows o .no .x (o.imm == 0x081)
  | .trq o => { o.rows .x .no .no .no .no (useZero o.md) with r5 := !(1 ≤ o.od.toNat && o.od.toNat ≤ 28) }
  | .wfs o => o.rows .x .x .no .no .no (useZero o.md)
  | .sretRetry o => o.rows .no .x .no .no .no (useZero o.md)
  | .sretSkip o => o.rows .no .x .no .no .no (useZero o.md (o.md.sub == 1))
  | .sretPc o => o.rows .no .x .c .no .no (useZero o.md (o.md.sub == 2))
  | .sretWake o => o.rows .no .x .no .no .no (useZero o.md (o.md.sub == 3))
  | .rdpk o => o.rows (if o.md.sub == 1 then .c else .x) .x .x .no .no (useZero o.md (o.md.sub.toNat < 2))
  | .wrpk o => o.rows .no .x .x (if o.md.sub == 1 then .c else .x) .no (useZero o.md (o.md.sub.toNat < 2))
  | .suspk o => o.rows .x .x .no .no .no (useZero o.md)
  | .suspkQ o => o.rows .x .x .no .no .no (useZero o.md (o.md.sub == 1))
  | .hint o =>
    { o.rows (o.sub.toNat < 2) with
      r3 := o.rsv != 0 || !(o.sub == 0 && o.imm == 0 || o.sub == 1 && o.imm.toNat < 65536) }
  | .streamRowFetch => {}
  | .streamRowPerform => {}
  | .repetitionPass => {}
  | .latchDataArrival => {}
  | .drainRowWrite => {}
  | .latchReload => {}
  | .wtileComplete => {}
  | .transformRequestExecute => {}
  | .transformReservedEntry => {}
  | .fullEmptyServe => {}
  | .fifoServe => {}
  | .quayCoreArrival => {}
  | .copyChunk => {}
  | .remoteUpdate => {}
  | .parkWake => {}
  | .parkTimeout => {}
  | .waitsemGrant => {}
  | .barrierWaitReturn => {}
  | .awaitConditionHolds => {}
  | .replyGranuleWrite => {}
  | .sweepMemory => {}
  | .sweepComplete => {}
  | .exportImage => {}
  | .importImage => {}
  | .migrationImport => {}
  | .exportImportComplete => {}
  | .wfsTimeout => {}
  | .hintYieldEnd => {}
  | .trapRecordEnqueue => {}
  | .wtmo => {}
  | .slice => {}
  | .enqueueApertureWrite => {}
  | .bind => {}
  | .stand => {}
  | .preempt => {}
  | .restoreUnitTake => {}
  | .poolGrant => {}
  | .localRefill => {}
  | .cmqPromote => {}
  | .heldMessageDelivery => {}
  | .budgetCharge => {}
  | .towSwap => {}
  | .towReturn => {}
  | .launchCompletion => {}
  | .coalescingWindowEnd => {}
  | .towDescriptorActionHeld => {}
  | .pageRequestMapped => {}
  | .pageRequestRefusal => {}
  | .sideLogAdmit => {}
  | .dupInvalidationAck => {}
  | .translationInvalidate => {}
  | .hostBar2Read => {}
  | .hostBar2Write => {}
  | .counterGroupRead => {}
  | .psemTake => {}
  | .psemRelease => {}
  | .attest => {}
  | .towResume => {}
  | .towDiscard => {}
  | .uitSet => {}
  | .cwinSet => {}
  | .cwinArm => {}
  | .worldCreate => {}
  | .worldDestroy => {}
  | .migExport => {}
  | .migImport => {}
  | .fwUpdate => {}
  | .routeSet => {}
  | .xwinSet => {}
  | .importSet => {}
  | .mailboxCompletion => {}
  | .mgmtRegisterWrite => {}
  | .cwinTimeout => {}
  | .peerAccessArrival => {}
  | .peerResponse => {}
  | .ptmo => {}
  | .fabricFailover => {}
  | .cxlLinkDown => {}
  | .hotReset => {}
  | .hostSessionEstablished => {}
  | .coldReset => {}
  | .warmReset => {}
  | .functionLevelReset => {}
  | .supervisorStart => {}
  | .throttleStep => {}
  | .thermalTrip => {}
  | .supplyDroop => {}
  | .vrefRecalibration => {}
  | .patrolScrub => {}
  | .accumulatorComplete => {}
  | .bankModeSwitchComplete => {}
  | .storePerformed => {}
  | .invalidationApplied => {}
  | .debuggerHalt => {}
  | .debuggerResume => {}
  | .fabricLinkUp => {}
  | .cxlLinkUp => {}
  | .functionLevelResetComplete => {}
  | .counterTableRescan => {}

/-- The sub-code of R49 that makes the instruction illegal, if any. -/
def Instr.ill (i : Instr) : Option Nat := i.rows.first

/-- An instruction the part executes: no row of R49 holds. -/
def Instr.wf (i : Instr) : Bool := i.ill.isNone

end Sys2Proof
end

