-- ==== Sys2Proof/Decode.lean ====
section
/-!
DEFINITION. The decoder and the encoder of the 96-bit word, both from R27, R35-R42 and the opcode map R47.
The decoder is total: any 96 bits give an instruction or the sub-code of R49 they are refused with.
-/

namespace Sys2Proof

/-- The fields of a word by its format (R27). -/
inductive Body where
  | r (o : ROp)
  | i (o : IOp)
  | m (o : MOp)
  | x (o : XOp)
deriving DecidableEq, Repr

/-! ### Field extraction -/

def hdrOf (w : BitVec 96) : Hdr where
  ga := w.extractLsb' 12 4
  gb := w.extractLsb' 16 4
  sigSm := w.extractLsb' 68 8
  sigInc := w.extractLsb' 64 4

def waitOf (w : BitVec 96) : WaitF where
  sm := w.extractLsb' 56 8
  thr := w.extractLsb' 50 6

/-- MOD (R36). -/
def modOf (w : BitVec 96) : ModF where
  isp := w.extractLsb' 92 4
  zm := w.extractLsb' 91 1
  km := w.extractLsb' 88 3
  sub := w.extractLsb' 84 4
  sat := w.extractLsb' 83 1
  rm := w.extractLsb' 80 3
  ty := w.extractLsb' 76 4

/-- The R format (R35). -/
def ropOf (w : BitVec 96) : ROp where
  hdr := hdrOf w
  od := w.extractLsb' 20 6
  oa := w.extractLsb' 26 6
  ob := w.extractLsb' 32 6
  oc := w.extractLsb' 38 6
  oe := w.extractLsb' 44 6
  wait := waitOf w
  md := modOf w

/-- The I format (R39). -/
def iopOf (w : BitVec 96) : IOp where
  hdr := hdrOf w
  od := w.extractLsb' 20 6
  oa := w.extractLsb' 26 6
  imm := w.extractLsb' 32 32
  md := modOf w

/-- The M format (R40, R41). -/
def mopOf (w : BitVec 96) : MOp where
  hdr := hdrOf w
  od := w.extractLsb' 20 6
  oa := w.extractLsb' 26 6
  ob := w.extractLsb' 32 6
  off := w.extractLsb' 38 12
  wait := waitOf w
  x := w.extractLsb' 95 1
  scope := w.extractLsb' 92 3
  ord := w.extractLsb' 89 3
  size := w.extractLsb' 86 3
  lvl := w.extractLsb' 84 2
  nud := w.extractLsb' 76 8

/-- The X format (R42). -/
def xopOf (w : BitVec 96) : XOp where
  hdr := hdrOf w
  od := w.extractLsb' 20 6
  oa := w.extractLsb' 26 6
  imm := w.extractLsb' 32 32
  sub := w.extractLsb' 76 4
  rsv := w.extractLsb' 80 16

/-- The major opcode, bits [9:0] (R27). -/
def opcOf (w : BitVec 96) : Nat := (w.extractLsb' 0 10).toNat

/-- The fields by FMT, bits [11:10] (R27). -/
def bodyOf (w : BitVec 96) : Body :=
  match (w.extractLsb' 10 2).toNat with
  | 0 => .r (ropOf w)
  | 1 => .i (iopOf w)
  | 2 => .m (mopOf w)
  | _ => .x (xopOf w)

/-! ### The opcode map (R47) -/

/-- Opcodes 0x001 to 0x01E (R47). -/
def buildInteger (opc : Nat) : Body → Option Instr
  | .r o => match opc with
    | 0x001 => some (.add (.r o))
    | 0x002 => some (.sub (.r o))
    | 0x003 => some (.mul (.r o))
    | 0x004 => some (.mulh o)
    | 0x005 => some (.mad o)
    | 0x006 => some (.div o)
    | 0x007 => some (.rem o)
    | 0x008 => some (.and (.r o))
    | 0x009 => some (.or (.r o))
    | 0x00A => some (.xor (.r o))
    | 0x00B => some (.andn (.r o))
    | 0x00C => some (.shl (.r o))
    | 0x00D => some (.shr (.r o))
    | 0x00E => some (.sra (.r o))
    | 0x00F => some (.rotl (.r o))
    | 0x010 => some (.min (.r o))
    | 0x011 => some (.max (.r o))
    | 0x012 => some (.abs o)
    | 0x013 => some (.clz o)
    | 0x014 => some (.ctz o)
    | 0x015 => some (.popc o)
    | 0x016 => some (.bfx (.r o))
    | 0x017 => some (.bfi (.r o))
    | 0x018 => some (.shadd (.r o))
    | 0x019 => some (.sel o)
    | 0x01A => some (.mov o)
    | 0x01C => some (.cvt o)
    | 0x01D => some (.cmp (.r o))
    | 0x01E => some (.bswap o)
    | _ => none
  | .i o => match opc with
    | 0x001 => some (.add (.i o))
    | 0x002 => some (.sub (.i o))
    | 0x003 => some (.mul (.i o))
    | 0x008 => some (.and (.i o))
    | 0x009 => some (.or (.i o))
    | 0x00A => some (.xor (.i o))
    | 0x00B => some (.andn (.i o))
    | 0x00C => some (.shl (.i o))
    | 0x00D => some (.shr (.i o))
    | 0x00E => some (.sra (.i o))
    | 0x00F => some (.rotl (.i o))
    | 0x010 => some (.min (.i o))
    | 0x011 => some (.max (.i o))
    | 0x016 => some (.bfx (.i o))
    | 0x017 => some (.bfi (.i o))
    | 0x018 => some (.shadd (.i o))
    | 0x01B => some (.li o)
    | 0x01D => some (.cmp (.i o))
    | _ => none
  | .m _ => none
  | .x _ => none

/-- Opcodes 0x040 to 0x04F (R47). -/
def buildScalar (opc : Nat) : Body → Option Instr
  | .r o => match opc with
    | 0x040 => some (.pand o)
    | 0x041 => some (.por o)
    | 0x042 => some (.pxor o)
    | 0x043 => some (.pnot o)
    | 0x044 => some (.pmov o)
    | 0x045 => some (.fadd o)
    | 0x046 => some (.fsub o)
    | 0x047 => some (.fmul o)
    | 0x048 => some (.ffma o)
    | 0x049 => some (.fdiv o)
    | 0x04A => some (.fsqrt o)
    | 0x04B => some (.fmin o)
    | 0x04C => some (.fmax o)
    | 0x04D => some (.fcmp o)
    | 0x04E => some (.fcvt o)
    | 0x04F => some (.fclass o)
    | _ => none
  | .i _ => none
  | .m _ => none
  | .x _ => none

/-- Opcodes 0x080 to 0x09F (R47). -/
def buildVector (opc : Nat) : Body → Option Instr
  | .r o => match opc with
    | 0x080 => some (.vadd o)
    | 0x081 => some (.vsub o)
    | 0x082 => some (.vmul o)
    | 0x083 => some (.vfma o)
    | 0x084 => some (.vfms o)
    | 0x085 => some (.vmin o)
    | 0x086 => some (.vmax o)
    | 0x087 => some (.vabs o)
    | 0x088 => some (.vneg o)
    | 0x089 => some (.vand o)
    | 0x08A => some (.vor o)
    | 0x08B => some (.vxor o)
    | 0x08C => some (.vshl (.r o))
    | 0x08D => some (.vshr (.r o))
    | 0x08E => some (.vcmp o)
    | 0x08F => some (.vsel o)
    | 0x090 => some (.vcvt o)
    | 0x091 => some (.vdot o)
    | 0x092 => some (.vscl o)
    | 0x093 => some (.vmov o)
    | 0x094 => some (.vbcast (.r o))
    | 0x095 => some (.vins o)
    | 0x096 => some (.vext o)
    | 0x097 => some (.vclamp o)
    | 0x098 => some (.kand o)
    | 0x099 => some (.kor o)
    | 0x09A => some (.kxor o)
    | 0x09B => some (.knot o)
    | 0x09C => some (.kpop o)
    | 0x09D => some (.kfirst o)
    | 0x09E => some (.kset (.r o))
    | 0x09F => some (.kmov o)
    | _ => none
  | .i o => match opc with
    | 0x08C => some (.vshl (.i o))
    | 0x08D => some (.vshr (.i o))
    | 0x094 => some (.vbcast (.i o))
    | 0x09E => some (.kset (.i o))
    | _ => none
  | .m _ => none
  | .x _ => none

/-- Opcodes 0x0E0 to 0x0F1 (R47). -/
def buildSpecial (opc : Nat) : Body → Option Instr
  | .r o => match opc with
    | 0x0E0 => some (.vrcp o)
    | 0x0E1 => some (.vrsq o)
    | 0x0E2 => some (.vsqrt o)
    | 0x0E3 => some (.vexp2 o)
    | 0x0E4 => some (.vlog2 o)
    | 0x0E5 => some (.vsin o)
    | 0x0E6 => some (.vcos o)
    | 0x0E7 => some (.vtanh o)
    | 0x0E8 => some (.vsigm o)
    | 0x0E9 => some (.vexpd o)
    | 0x0EA => some (.vredsum o)
    | 0x0EB => some (.vredmax o)
    | 0x0EC => some (.vredmin o)
    | 0x0ED => some (.vscan o)
    | 0x0EE => some (.vperm o)
    | 0x0EF => some (.vshuf o)
    | 0x0F0 => some (.vpack o)
    | 0x0F1 => some (.vunpack o)
    | _ => none
  | .i _ => none
  | .m _ => none
  | .x _ => none

/-- Opcodes 0x100 to 0x105 (R47). -/
def buildStream (opc : Nat) : Body → Option Instr
  | .r o => match opc with
    | 0x100 => some (.sbind o)
    | 0x101 => some (.sdim (.r o))
    | 0x102 => some (.sstart o)
    | 0x103 => some (.sstop o)
    | 0x104 => some (.swait o)
    | _ => none
  | .i o => match opc with
    | 0x101 => some (.sdim (.i o))
    | _ => none
  | .x o => match opc with
    | 0x105 => some (.frep o)
    | _ => none
  | .m _ => none

/-- Opcodes 0x120 to 0x12D (R47). -/
def buildMatrix (opc : Nat) : Body → Option Instr
  | .r o => match opc with
    | 0x120 => some (.mcfg o)
    | 0x121 => some (.mzero o)
    | 0x124 => some (.mscl o)
    | 0x125 => some (.mma o)
    | 0x126 => some (.mmas o)
    | 0x128 => some (.mhand o)
    | 0x129 => some (.mrowrd o)
    | 0x12A => some (.mrowwr o)
    | 0x12D => some (.mstat o)
    | _ => none
  | .m o => match opc with
    | 0x122 => some (.mlda o)
    | 0x123 => some (.mldb o)
    | 0x127 => some (.mdrain o)
    | 0x12B => some (.msave o)
    | 0x12C => some (.mrest o)
    | _ => none
  | .i _ => none
  | .x _ => none

/-- Opcodes 0x140 to 0x14C (R47). -/
def buildFrame (opc : Nat) : Body → Option Instr
  | .r o => match opc with
    | 0x140 => some (.fpush o)
    | 0x141 => some (.fpop o)
    | 0x142 => some (.fdrop o)
    | 0x143 => some (.fenter o)
    | 0x144 => some (.farg o)
    | 0x145 => some (.fkeep o)
    | 0x146 => some (.fseal o)
    | 0x147 => some (.fshare o)
    | 0x148 => some (.fappend (.r o))
    | 0x149 => some (.fwin (.r o))
    | 0x14A => some (.fvis o)
    | 0x14B => some (.fdesc (.r o))
    | 0x14C => some (.fmask o)
    | _ => none
  | .i o => match opc with
    | 0x148 => some (.fappend (.i o))
    | 0x149 => some (.fwin (.i o))
    | 0x14B => some (.fdesc (.i o))
    | _ => none
  | .m _ => none
  | .x _ => none

/-- Opcodes 0x160 to 0x166 (R47). -/
def buildWave (opc : Nat) : Body → Option Instr
  | .r o => match opc with
    | 0x160 => some (.wcfg (.r o))
    | 0x161 => some (.wband (.r o))
    | 0x162 => some (.wseq o)
    | 0x163 => some (.wtile o)
    | 0x166 => some (.tbwalk o)
    | _ => none
  | .i o => match opc with
    | 0x161 => some (.wband (.i o))
    | _ => none
  | .m o => match opc with
    | 0x164 => some (.wbget o)
    | 0x165 => some (.wbput o)
    | _ => none
  | .x o => match opc with
    | 0x160 => some (.wcfg (.x o))
    | _ => none

/-- Opcodes 0x170 to 0x174 (R47). -/
def buildTransform (opc : Nat) : Body → Option Instr
  | .r o => match opc with
    | 0x170 => some (.xexp o)
    | 0x171 => some (.xcmp o)
    | 0x172 => some (.xquant o)
    | 0x173 => some (.xconv o)
    | 0x174 => some (.xpoll o)
    | _ => none
  | .i _ => none
  | .m _ => none
  | .x _ => none

/-- Opcodes 0x180 to 0x192 (R47). -/
def buildMemory (opc : Nat) : Body → Option Instr
  | .r o => match opc with
    | 0x18B => some (.cpy o)
    | 0x18C => some (.cpyq o)
    | 0x18D => some (.fence o)
    | 0x192 => some (.home o)
    | _ => none
  | .m o => match opc with
    | 0x180 => some (.ld o)
    | 0x181 => some (.st o)
    | 0x182 => some (.ldc o)
    | 0x183 => some (.stc o)
    | 0x184 => some (.vld o)
    | 0x185 => some (.vst o)
    | 0x186 => some (.vldg o)
    | 0x187 => some (.vsts o)
    | 0x188 => some (.ldfe o)
    | 0x189 => some (.stfe o)
    | 0x18A => some (.pref o)
    | 0x18E => some (.lflush o)
    | 0x18F => some (.linv o)
    | 0x190 => some (.ldm o)
    | 0x191 => some (.mig o)
    | _ => none
  | .i _ => none
  | .x _ => none

/-- Opcodes 0x1C0 to 0x1CC (R47). -/
def buildAtomic (opc : Nat) : Body → Option Instr
  | .m o => match opc with
    | 0x1C0 => some (.amoadd o)
    | 0x1C1 => some (.amomin o)
    | 0x1C2 => some (.amomax o)
    | 0x1C3 => some (.amoand o)
    | 0x1C4 => some (.amoor o)
    | 0x1C5 => some (.amoxor o)
    | 0x1C6 => some (.amoswp o)
    | 0x1C7 => some (.amocas o)
    | 0x1C8 => some (.amofadd o)
    | 0x1C9 => some (.redadd o)
    | 0x1CA => some (.redmin o)
    | 0x1CB => some (.redmax o)
    | 0x1CC => some (.redfadd o)
    | _ => none
  | .r _ => none
  | .i _ => none
  | .x _ => none

/-- Opcodes 0x1E0 to 0x1E7 (R47). -/
def buildSync (opc : Nat) : Body → Option Instr
  | .r o => match opc with
    | 0x1E2 => some (.park o)
    | 0x1E3 => some (.smset (.r o))
    | 0x1E4 => some (.smrd o)
    | 0x1E5 => some (.smadd (.r o))
    | 0x1E6 => some (.bar o)
    | 0x1E7 => some (.barmx o)
    | _ => none
  | .i o => match opc with
    | 0x1E3 => some (.smset (.i o))
    | 0x1E5 => some (.smadd (.i o))
    | _ => none
  | .m o => match opc with
    | 0x1E0 => some (.mon o)
    | 0x1E1 => some (.unmon o)
    | _ => none
  | .x _ => none

/-- Opcodes 0x200 to 0x205 (R47). -/
def buildControl (opc : Nat) : Body → Option Instr
  | .r o => match opc with
    | 0x201 => some (.jmp o)
    | 0x202 => some (.call (.r o))
    | 0x203 => some (.ret o)
    | 0x205 => some (.nop o)
    | _ => none
  | .i o => match opc with
    | 0x200 => some (.br o)
    | 0x202 => some (.call (.i o))
    | 0x204 => some (.loop o)
    | _ => none
  | .m _ => none
  | .x _ => none

/-- Opcodes 0x220 to 0x22B (R47). -/
def buildFibre (opc : Nat) : Body → Option Instr
  | .r o => match opc with
    | 0x220 => some (.spawn o)
    | 0x221 => some (.yield o)
    | 0x222 => if o.md.sub == 1 then some (.awaitFull o) else if o.md.sub == 2 then some (.awaitEmpty o) else some (.awaitSm o)
    | 0x223 => some (.exit o)
    | 0x224 => if o.md.sub == 1 then some (.callatW o) else some (.callat o)
    | 0x225 => some (.reply o)
    | 0x226 => some (.tjoin o)
    | 0x227 => some (.tleave o)
    | 0x228 => some (.tqry o)
    | 0x229 => some (.prio (.r o))
    | 0x22A => some (.rclk o)
    | 0x22B => some (.rcadv (.r o))
    | _ => none
  | .i o => match opc with
    | 0x229 => some (.prio (.i o))
    | 0x22B => some (.rcadv (.i o))
    | _ => none
  | .m _ => none
  | .x _ => none

/-- Opcodes 0x240 to 0x250 (R47). -/
def buildCap (opc : Nat) : Body → Option Instr
  | .r o => match opc with
    | 0x240 => some (.cgeta o)
    | 0x241 => some (.cgetb o)
    | 0x242 => some (.cgetl o)
    | 0x243 => some (.cgetp o)
    | 0x244 => some (.ctag o)
    | 0x245 => some (.cseta o)
    | 0x246 => some (.cinc (.r o))
    | 0x247 => some (.cbnd (.r o))
    | 0x248 => some (.cbnde (.r o))
    | 0x249 => some (.cperm (.r o))
    | 0x24A => some (.cseal o)
    | 0x24B => some (.cunseal o)
    | 0x24C => some (.cclr o)
    | 0x24D => some (.csub o)
    | 0x24E => some (.cmov o)
    | 0x24F => if o.md.sub == 1 then some (.crvkClear o) else some (.crvkMark o)
    | 0x250 => if o.md.sub == 1 then some (.cswpAck o) else some (.cswpStart o)
    | _ => none
  | .i o => match opc with
    | 0x246 => some (.cinc (.i o))
    | 0x247 => some (.cbnd (.i o))
    | 0x248 => some (.cbnde (.i o))
    | 0x249 => some (.cperm (.i o))
    | _ => none
  | .m _ => none
  | .x _ => none

/-- Opcodes 0x280 to 0x28A (R47). -/
def buildSystem (opc : Nat) : Body → Option Instr
  | .r o => match opc with
    | 0x284 => some (.trq o)
    | 0x285 => some (.wfs o)
    | 0x286 => if o.md.sub == 1 then some (.sretSkip o) else if o.md.sub == 2 then some (.sretPc o)
      else if o.md.sub == 3 then some (.sretWake o) else some (.sretRetry o)
    | 0x287 => some (.rdpk o)
    | 0x288 => some (.wrpk o)
    | 0x289 => if o.md.sub == 1 then some (.suspkQ o) else some (.suspk o)
    | _ => none
  | .i o => match opc with
    | 0x282 => some (.gsr o)
    | 0x283 => if o.imm == 0x044 then some (.frec0Rearm o) else if o.imm == 0x048 then some (.trqstClear o)
      else if o.imm == 0x081 then some (.bmodeWrite o) else some (.ssr o)
    | _ => none
  | .x o => match opc with
    | 0x280 => some (.trap o)
    | 0x281 => some (.ebrk o)
    | 0x28A => some (.hint o)
    | _ => none
  | .m _ => none

/-- The instruction of an opcode and a body; none where the opcode has no such format (R47). -/
def build (opc : Nat) (b : Body) : Option Instr :=
  if opc < 0x040 then buildInteger opc b
  else if opc < 0x080 then buildScalar opc b
  else if opc < 0x0E0 then buildVector opc b
  else if opc < 0x100 then buildSpecial opc b
  else if opc < 0x120 then buildStream opc b
  else if opc < 0x140 then buildMatrix opc b
  else if opc < 0x160 then buildFrame opc b
  else if opc < 0x170 then buildWave opc b
  else if opc < 0x180 then buildTransform opc b
  else if opc < 0x1C0 then buildMemory opc b
  else if opc < 0x1E0 then buildAtomic opc b
  else if opc < 0x200 then buildSync opc b
  else if opc < 0x220 then buildControl opc b
  else if opc < 0x240 then buildFibre opc b
  else if opc < 0x280 then buildCap opc b
  else buildSystem opc b

/-- The assigned opcodes (R47): each family's opcodes are consecutive. -/
def assignedOpc (opc : Nat) : Bool :=
  (0x001 ≤ opc && opc ≤ 0x01E) ||
  (0x040 ≤ opc && opc ≤ 0x04F) ||
  (0x080 ≤ opc && opc ≤ 0x09F) ||
  (0x0E0 ≤ opc && opc ≤ 0x0F1) ||
  (0x100 ≤ opc && opc ≤ 0x105) ||
  (0x120 ≤ opc && opc ≤ 0x12D) ||
  (0x140 ≤ opc && opc ≤ 0x14C) ||
  (0x160 ≤ opc && opc ≤ 0x166) ||
  (0x170 ≤ opc && opc ≤ 0x174) ||
  (0x180 ≤ opc && opc ≤ 0x192) ||
  (0x1C0 ≤ opc && opc ≤ 0x1CC) ||
  (0x1E0 ≤ opc && opc ≤ 0x1E7) ||
  (0x200 ≤ opc && opc ≤ 0x205) ||
  (0x220 ≤ opc && opc ≤ 0x22B) ||
  (0x240 ≤ opc && opc ≤ 0x250) ||
  (0x280 ≤ opc && opc ≤ 0x28A)

/-- What a word stands for before rows 3 to 12 of R49: the instruction, or sub-code 1 or 2. -/
def decodeRaw (w : BitVec 96) : Except Nat Instr :=
  if assignedOpc (opcOf w) then
    match build (opcOf w) (bodyOf w) with
    | some i => .ok i
    | none => .error 2
  else .error 1

/-- A word is exactly one instruction or illegal with a sub-code (R49). -/
def decode (w : BitVec 96) : Except Nat Instr :=
  match decodeRaw w with
  | .error n => .error n
  | .ok i => match i.ill with
    | none => .ok i
    | some n => .error n

/-- The word of twelve bytes in memory order (R27). -/
def wordOfBytes (bs : List Byte) : BitVec 96 := BitVec.ofNat 96 (leNat bs)

/-- The decoder on the bytes at the lowest address first: fewer than twelve are no instruction. -/
def decodeBytes (bs : List Byte) : Except Nat Instr :=
  if bs.length < 12 then .error 1 else decode (wordOfBytes (bs.take 12))

/-- The instruction read from a word given as a number of `nbits` bits, the bits above them zero. -/
def decodeTableWord (nbits w : Nat) : Option Instr :=
  match decodeBytes (leBytes 12 (w % 2 ^ nbits)) with
  | .ok i => some i
  | .error _ => none

/-! ### The encoder -/

/-- The opcode and the fields of an instruction (R47); an event has none. -/
def Instr.parts : Instr → Option (Nat × Body)
  | .add (.r o) => some (0x001, .r o)
  | .add (.i o) => some (0x001, .i o)
  | .sub (.r o) => some (0x002, .r o)
  | .sub (.i o) => some (0x002, .i o)
  | .mul (.r o) => some (0x003, .r o)
  | .mul (.i o) => some (0x003, .i o)
  | .mulh o => some (0x004, .r o)
  | .mad o => some (0x005, .r o)
  | .div o => some (0x006, .r o)
  | .rem o => some (0x007, .r o)
  | .and (.r o) => some (0x008, .r o)
  | .and (.i o) => some (0x008, .i o)
  | .or (.r o) => some (0x009, .r o)
  | .or (.i o) => some (0x009, .i o)
  | .xor (.r o) => some (0x00A, .r o)
  | .xor (.i o) => some (0x00A, .i o)
  | .andn (.r o) => some (0x00B, .r o)
  | .andn (.i o) => some (0x00B, .i o)
  | .shl (.r o) => some (0x00C, .r o)
  | .shl (.i o) => some (0x00C, .i o)
  | .shr (.r o) => some (0x00D, .r o)
  | .shr (.i o) => some (0x00D, .i o)
  | .sra (.r o) => some (0x00E, .r o)
  | .sra (.i o) => some (0x00E, .i o)
  | .rotl (.r o) => some (0x00F, .r o)
  | .rotl (.i o) => some (0x00F, .i o)
  | .min (.r o) => some (0x010, .r o)
  | .min (.i o) => some (0x010, .i o)
  | .max (.r o) => some (0x011, .r o)
  | .max (.i o) => some (0x011, .i o)
  | .abs o => some (0x012, .r o)
  | .clz o => some (0x013, .r o)
  | .ctz o => some (0x014, .r o)
  | .popc o => some (0x015, .r o)
  | .bfx (.r o) => some (0x016, .r o)
  | .bfx (.i o) => some (0x016, .i o)
  | .bfi (.r o) => some (0x017, .r o)
  | .bfi (.i o) => some (0x017, .i o)
  | .shadd (.r o) => some (0x018, .r o)
  | .shadd (.i o) => some (0x018, .i o)
  | .sel o => some (0x019, .r o)
  | .mov o => some (0x01A, .r o)
  | .li o => some (0x01B, .i o)
  | .cvt o => some (0x01C, .r o)
  | .cmp (.r o) => some (0x01D, .r o)
  | .cmp (.i o) => some (0x01D, .i o)
  | .bswap o => some (0x01E, .r o)
  | .pand o => some (0x040, .r o)
  | .por o => some (0x041, .r o)
  | .pxor o => some (0x042, .r o)
  | .pnot o => some (0x043, .r o)
  | .pmov o => some (0x044, .r o)
  | .fadd o => some (0x045, .r o)
  | .fsub o => some (0x046, .r o)
  | .fmul o => some (0x047, .r o)
  | .ffma o => some (0x048, .r o)
  | .fdiv o => some (0x049, .r o)
  | .fsqrt o => some (0x04A, .r o)
  | .fmin o => some (0x04B, .r o)
  | .fmax o => some (0x04C, .r o)
  | .fcmp o => some (0x04D, .r o)
  | .fcvt o => some (0x04E, .r o)
  | .fclass o => some (0x04F, .r o)
  | .vadd o => some (0x080, .r o)
  | .vsub o => some (0x081, .r o)
  | .vmul o => some (0x082, .r o)
  | .vfma o => some (0x083, .r o)
  | .vfms o => some (0x084, .r o)
  | .vmin o => some (0x085, .r o)
  | .vmax o => some (0x086, .r o)
  | .vabs o => some (0x087, .r o)
  | .vneg o => some (0x088, .r o)
  | .vand o => some (0x089, .r o)
  | .vor o => some (0x08A, .r o)
  | .vxor o => some (0x08B, .r o)
  | .vshl (.r o) => some (0x08C, .r o)
  | .vshl (.i o) => some (0x08C, .i o)
  | .vshr (.r o) => some (0x08D, .r o)
  | .vshr (.i o) => some (0x08D, .i o)
  | .vcmp o => some (0x08E, .r o)
  | .vsel o => some (0x08F, .r o)
  | .vcvt o => some (0x090, .r o)
  | .vdot o => some (0x091, .r o)
  | .vscl o => some (0x092, .r o)
  | .vmov o => some (0x093, .r o)
  | .vbcast (.r o) => some (0x094, .r o)
  | .vbcast (.i o) => some (0x094, .i o)
  | .vins o => some (0x095, .r o)
  | .vext o => some (0x096, .r o)
  | .vclamp o => some (0x097, .r o)
  | .kand o => some (0x098, .r o)
  | .kor o => some (0x099, .r o)
  | .kxor o => some (0x09A, .r o)
  | .knot o => some (0x09B, .r o)
  | .kpop o => some (0x09C, .r o)
  | .kfirst o => some (0x09D, .r o)
  | .kset (.r o) => some (0x09E, .r o)
  | .kset (.i o) => some (0x09E, .i o)
  | .kmov o => some (0x09F, .r o)
  | .vrcp o => some (0x0E0, .r o)
  | .vrsq o => some (0x0E1, .r o)
  | .vsqrt o => some (0x0E2, .r o)
  | .vexp2 o => some (0x0E3, .r o)
  | .vlog2 o => some (0x0E4, .r o)
  | .vsin o => some (0x0E5, .r o)
  | .vcos o => some (0x0E6, .r o)
  | .vtanh o => some (0x0E7, .r o)
  | .vsigm o => some (0x0E8, .r o)
  | .vexpd o => some (0x0E9, .r o)
  | .vredsum o => some (0x0EA, .r o)
  | .vredmax o => some (0x0EB, .r o)
  | .vredmin o => some (0x0EC, .r o)
  | .vscan o => some (0x0ED, .r o)
  | .vperm o => some (0x0EE, .r o)
  | .vshuf o => some (0x0EF, .r o)
  | .vpack o => some (0x0F0, .r o)
  | .vunpack o => some (0x0F1, .r o)
  | .sbind o => some (0x100, .r o)
  | .sdim (.r o) => some (0x101, .r o)
  | .sdim (.i o) => some (0x101, .i o)
  | .sstart o => some (0x102, .r o)
  | .sstop o => some (0x103, .r o)
  | .swait o => some (0x104, .r o)
  | .frep o => some (0x105, .x o)
  | .mcfg o => some (0x120, .r o)
  | .mzero o => some (0x121, .r o)
  | .mlda o => some (0x122, .m o)
  | .mldb o => some (0x123, .m o)
  | .mscl o => some (0x124, .r o)
  | .mma o => some (0x125, .r o)
  | .mmas o => some (0x126, .r o)
  | .mdrain o => some (0x127, .m o)
  | .mhand o => some (0x128, .r o)
  | .mrowrd o => some (0x129, .r o)
  | .mrowwr o => some (0x12A, .r o)
  | .msave o => some (0x12B, .m o)
  | .mrest o => some (0x12C, .m o)
  | .mstat o => some (0x12D, .r o)
  | .fpush o => some (0x140, .r o)
  | .fpop o => some (0x141, .r o)
  | .fdrop o => some (0x142, .r o)
  | .fenter o => some (0x143, .r o)
  | .farg o => some (0x144, .r o)
  | .fkeep o => some (0x145, .r o)
  | .fseal o => some (0x146, .r o)
  | .fshare o => some (0x147, .r o)
  | .fappend (.r o) => some (0x148, .r o)
  | .fappend (.i o) => some (0x148, .i o)
  | .fwin (.r o) => some (0x149, .r o)
  | .fwin (.i o) => some (0x149, .i o)
  | .fvis o => some (0x14A, .r o)
  | .fdesc (.r o) => some (0x14B, .r o)
  | .fdesc (.i o) => some (0x14B, .i o)
  | .fmask o => some (0x14C, .r o)
  | .wcfg (.r o) => some (0x160, .r o)
  | .wcfg (.x o) => some (0x160, .x o)
  | .wband (.r o) => some (0x161, .r o)
  | .wband (.i o) => some (0x161, .i o)
  | .wseq o => some (0x162, .r o)
  | .wtile o => some (0x163, .r o)
  | .wbget o => some (0x164, .m o)
  | .wbput o => some (0x165, .m o)
  | .tbwalk o => some (0x166, .r o)
  | .xexp o => some (0x170, .r o)
  | .xcmp o => some (0x171, .r o)
  | .xquant o => some (0x172, .r o)
  | .xconv o => some (0x173, .r o)
  | .xpoll o => some (0x174, .r o)
  | .ld o => some (0x180, .m o)
  | .st o => some (0x181, .m o)
  | .ldc o => some (0x182, .m o)
  | .stc o => some (0x183, .m o)
  | .vld o => some (0x184, .m o)
  | .vst o => some (0x185, .m o)
  | .vldg o => some (0x186, .m o)
  | .vsts o => some (0x187, .m o)
  | .ldfe o => some (0x188, .m o)
  | .stfe o => some (0x189, .m o)
  | .pref o => some (0x18A, .m o)
  | .cpy o => some (0x18B, .r o)
  | .cpyq o => some (0x18C, .r o)
  | .fence o => some (0x18D, .r o)
  | .lflush o => some (0x18E, .m o)
  | .linv o => some (0x18F, .m o)
  | .ldm o => some (0x190, .m o)
  | .mig o => some (0x191, .m o)
  | .home o => some (0x192, .r o)
  | .amoadd o => some (0x1C0, .m o)
  | .amomin o => some (0x1C1, .m o)
  | .amomax o => some (0x1C2, .m o)
  | .amoand o => some (0x1C3, .m o)
  | .amoor o => some (0x1C4, .m o)
  | .amoxor o => some (0x1C5, .m o)
  | .amoswp o => some (0x1C6, .m o)
  | .amocas o => some (0x1C7, .m o)
  | .amofadd o => some (0x1C8, .m o)
  | .redadd o => some (0x1C9, .m o)
  | .redmin o => some (0x1CA, .m o)
  | .redmax o => some (0x1CB, .m o)
  | .redfadd o => some (0x1CC, .m o)
  | .mon o => some (0x1E0, .m o)
  | .unmon o => some (0x1E1, .m o)
  | .park o => some (0x1E2, .r o)
  | .smset (.r o) => some (0x1E3, .r o)
  | .smset (.i o) => some (0x1E3, .i o)
  | .smrd o => some (0x1E4, .r o)
  | .smadd (.r o) => some (0x1E5, .r o)
  | .smadd (.i o) => some (0x1E5, .i o)
  | .bar o => some (0x1E6, .r o)
  | .barmx o => some (0x1E7, .r o)
  | .br o => some (0x200, .i o)
  | .jmp o => some (0x201, .r o)
  | .call (.r o) => some (0x202, .r o)
  | .call (.i o) => some (0x202, .i o)
  | .ret o => some (0x203, .r o)
  | .loop o => some (0x204, .i o)
  | .nop o => some (0x205, .r o)
  | .spawn o => some (0x220, .r o)
  | .yield o => some (0x221, .r o)
  | .awaitSm o => some (0x222, .r o)
  | .awaitFull o => some (0x222, .r o)
  | .awaitEmpty o => some (0x222, .r o)
  | .exit o => some (0x223, .r o)
  | .callat o => some (0x224, .r o)
  | .callatW o => some (0x224, .r o)
  | .reply o => some (0x225, .r o)
  | .tjoin o => some (0x226, .r o)
  | .tleave o => some (0x227, .r o)
  | .tqry o => some (0x228, .r o)
  | .prio (.r o) => some (0x229, .r o)
  | .prio (.i o) => some (0x229, .i o)
  | .rclk o => some (0x22A, .r o)
  | .rcadv (.r o) => some (0x22B, .r o)
  | .rcadv (.i o) => some (0x22B, .i o)
  | .cgeta o => some (0x240, .r o)
  | .cgetb o => some (0x241, .r o)
  | .cgetl o => some (0x242, .r o)
  | .cgetp o => some (0x243, .r o)
  | .ctag o => some (0x244, .r o)
  | .cseta o => some (0x245, .r o)
  | .cinc (.r o) => some (0x246, .r o)
  | .cinc (.i o) => some (0x246, .i o)
  | .cbnd (.r o) => some (0x247, .r o)
  | .cbnd (.i o) => some (0x247, .i o)
  | .cbnde (.r o) => some (0x248, .r o)
  | .cbnde (.i o) => some (0x248, .i o)
  | .cperm (.r o) => some (0x249, .r o)
  | .cperm (.i o) => some (0x249, .i o)
  | .cseal o => some (0x24A, .r o)
  | .cunseal o => some (0x24B, .r o)
  | .cclr o => some (0x24C, .r o)
  | .csub o => some (0x24D, .r o)
  | .cmov o => some (0x24E, .r o)
  | .crvkMark o => some (0x24F, .r o)
  | .crvkClear o => some (0x24F, .r o)
  | .cswpStart o => some (0x250, .r o)
  | .cswpAck o => some (0x250, .r o)
  | .trap o => some (0x280, .x o)
  | .ebrk o => some (0x281, .x o)
  | .gsr o => some (0x282, .i o)
  | .ssr o => some (0x283, .i o)
  | .frec0Rearm o => some (0x283, .i o)
  | .trqstClear o => some (0x283, .i o)
  | .bmodeWrite o => some (0x283, .i o)
  | .trq o => some (0x284, .r o)
  | .wfs o => some (0x285, .r o)
  | .sretRetry o => some (0x286, .r o)
  | .sretSkip o => some (0x286, .r o)
  | .sretPc o => some (0x286, .r o)
  | .sretWake o => some (0x286, .r o)
  | .rdpk o => some (0x287, .r o)
  | .wrpk o => some (0x288, .r o)
  | .suspk o => some (0x289, .r o)
  | .suspkQ o => some (0x289, .r o)
  | .hint o => some (0x28A, .x o)
  | .streamRowFetch => none
  | .streamRowPerform => none
  | .repetitionPass => none
  | .latchDataArrival => none
  | .drainRowWrite => none
  | .latchReload => none
  | .wtileComplete => none
  | .transformRequestExecute => none
  | .transformReservedEntry => none
  | .fullEmptyServe => none
  | .fifoServe => none
  | .quayCoreArrival => none
  | .copyChunk => none
  | .remoteUpdate => none
  | .parkWake => none
  | .parkTimeout => none
  | .waitsemGrant => none
  | .barrierWaitReturn => none
  | .awaitConditionHolds => none
  | .replyGranuleWrite => none
  | .sweepMemory => none
  | .sweepComplete => none
  | .exportImage => none
  | .importImage => none
  | .migrationImport => none
  | .exportImportComplete => none
  | .wfsTimeout => none
  | .hintYieldEnd => none
  | .trapRecordEnqueue => none
  | .wtmo => none
  | .slice => none
  | .enqueueApertureWrite => none
  | .bind => none
  | .stand => none
  | .preempt => none
  | .restoreUnitTake => none
  | .poolGrant => none
  | .localRefill => none
  | .cmqPromote => none
  | .heldMessageDelivery => none
  | .budgetCharge => none
  | .towSwap => none
  | .towReturn => none
  | .launchCompletion => none
  | .coalescingWindowEnd => none
  | .towDescriptorActionHeld => none
  | .pageRequestMapped => none
  | .pageRequestRefusal => none
  | .sideLogAdmit => none
  | .dupInvalidationAck => none
  | .translationInvalidate => none
  | .hostBar2Read => none
  | .hostBar2Write => none
  | .counterGroupRead => none
  | .psemTake => none
  | .psemRelease => none
  | .attest => none
  | .towResume => none
  | .towDiscard => none
  | .uitSet => none
  | .cwinSet => none
  | .cwinArm => none
  | .worldCreate => none
  | .worldDestroy => none
  | .migExport => none
  | .migImport => none
  | .fwUpdate => none
  | .routeSet => none
  | .xwinSet => none
  | .importSet => none
  | .mailboxCompletion => none
  | .mgmtRegisterWrite => none
  | .cwinTimeout => none
  | .peerAccessArrival => none
  | .peerResponse => none
  | .ptmo => none
  | .fabricFailover => none
  | .cxlLinkDown => none
  | .hotReset => none
  | .hostSessionEstablished => none
  | .coldReset => none
  | .warmReset => none
  | .functionLevelReset => none
  | .supervisorStart => none
  | .throttleStep => none
  | .thermalTrip => none
  | .supplyDroop => none
  | .vrefRecalibration => none
  | .patrolScrub => none
  | .accumulatorComplete => none
  | .bankModeSwitchComplete => none
  | .storePerformed => none
  | .invalidationApplied => none
  | .debuggerHalt => none
  | .debuggerResume => none
  | .fabricLinkUp => none
  | .cxlLinkUp => none
  | .functionLevelResetComplete => none
  | .counterTableRescan => none

/-- Bits [31:0] (R27). -/
def word0 (h : Hdr) (od oa : BitVec 6) (fmt : BitVec 2) (opc : Nat) : BitVec 32 :=
  oa ++ od ++ h.gb ++ h.ga ++ fmt ++ BitVec.ofNat 10 opc

/-- MOD as TAIL (R36). -/
def ModF.bits (m : ModF) : BitVec 20 := m.isp ++ m.zm ++ m.km ++ m.sub ++ m.sat ++ m.rm ++ m.ty

/-- TAIL of the M format (R41). -/
def MOp.tail (o : MOp) : BitVec 20 := o.x ++ o.scope ++ o.ord ++ o.size ++ o.lvl ++ o.nud

/-- Bits [95:64] (R27). -/
def word2 (tail : BitVec 20) (h : Hdr) : BitVec 32 := tail ++ h.sigSm ++ h.sigInc

/-- The 96 bits of an opcode and a body (R27). -/
def Body.bits (opc : Nat) : Body → BitVec 96
  | .r o => word2 o.md.bits o.hdr ++ (o.wait.sm ++ o.wait.thr ++ o.oe ++ o.oc ++ o.ob : BitVec 32) ++
      word0 o.hdr o.od o.oa 0 opc
  | .i o => word2 o.md.bits o.hdr ++ o.imm ++ word0 o.hdr o.od o.oa 1 opc
  | .m o => word2 o.tail o.hdr ++ (o.wait.sm ++ o.wait.thr ++ o.off ++ o.ob : BitVec 32) ++
      word0 o.hdr o.od o.oa 2 opc
  | .x o => word2 (o.rsv ++ o.sub) o.hdr ++ o.imm ++ word0 o.hdr o.od o.oa 3 opc

/-- The word of an instruction; an event has none. -/
def encode (i : Instr) : Option (BitVec 96) := i.parts.map fun p => p.2.bits p.1

end Sys2Proof
end

