-- ==== Sys2Proof/Machine/State.lean ====
section
/-!
DEFINITION. The state: one core with its sixteen slots, what its cluster holds, and what the module holds for every
cluster and world. Other cores, firmware, hosts and the fabric act through the events queued in `agenda`. All of it
is plain data.
-/

namespace Sys2Proof.Machine

/-! ### Slots -/

/-- The kinds of wait of R310. -/
inductive WaitKind where
  | none | sem | full | empty | fpush | fpop | bar | mon | stream | pool | queue | page | frame
deriving DecidableEq, Repr

/-- Why a slot is PARKED (R14): by park, by a trap, by suspk (R368), or slot 15 by wfs (R365). -/
inductive ParkKind where
  | park | trap | suspk | wfs
deriving DecidableEq, Repr

/-- The states of a slot (R14). A WAITING slot carries its kind and object (R310); an AWAY slot its quay. -/
inductive SlotStatus where
  | free
  | ready
  | waiting (kind : WaitKind) (obj : Nat)
  | parked (why : ParkKind)
  | away (quay : Fin 128)
deriving DecidableEq, Repr

/-- A monitor (R226): the line address and whether it is cluster-local. -/
structure Mon where
  armed : Bool
  trig : Bool
  loc : Bool
  line : Nat
deriving DecidableEq, Repr

def Mon.none : Mon := ⟨false, false, false, 0⟩

/-- How far a restore has come (R24, R437): the image is still to be read, or shared units are still to be taken. -/
inductive RestorePh where
  | none | image | units
deriving DecidableEq, Repr

/-- A trap record, bytes 0-7, 8-15, 16-23 and 24-31 (R358). -/
structure TrapRec where
  w0 : Word
  w1 : Word
  w2 : Word
  w3 : Word
deriving DecidableEq, Repr

def TrapRec.zero : TrapRec := ⟨0, 0, 0, 0⟩

/-- The cause, aux word and address of a fault kept for a later instruction. -/
structure Fail where
  cause : Nat
  aux : Nat
  addr : Nat
deriving DecidableEq, Repr

/-- A row of a stream that has been fetched or pushed: the bytes with the bits written, or the fault met (R106). -/
inductive Row where
  | ok (val : Line) (wr : Line)
  | bad (f : Fail)
deriving DecidableEq, Repr

/-- A stream port (R104-R109). -/
structure Port where
  bound : Bool
  write : Bool
  started : Bool
  cap : Cap
  cnt : Vector Word 4
  str : Vector Word 4
  /-- Index of the next row to read or push. -/
  next : Nat
  nud : BitVec 8
  lvl : BitVec 2
  /-- Rows fetched and not yet read, or pushed and not yet performed, oldest first. -/
  rows : List Row
  /-- The fault of a pushed row, kept for the next instruction that names the port. -/
  failed : Option Fail
deriving DecidableEq, Repr

def Port.unbound : Port :=
  ⟨false, false, false, Cap.null, Vector.replicate 4 0, Vector.replicate 4 0, 0, 0, 0, [], none⟩

/-- A repetition block in progress (R110-R113). -/
structure Rep where
  addr : Word
  imm : BitVec 32
  /-- Number of instructions of the block; the block itself, none while it is to be fetched again. -/
  len : Nat
  block : List Instr
  preds : BitVec 8
  pass : Nat
  idx : Nat
  skip : Bool
  /-- The wait of the next block instruction, when it waits: kind and object. -/
  wait : Option (WaitKind × Nat)
  /-- The units its WAIT has taken. -/
  taken : Option (BitVec 8 × Nat)
  /-- The block trapped and the slot is parked by it; the instruction that trapped had retired (R230). -/
  trapped : Bool
  passed : Bool
deriving DecidableEq, Repr

/-- A copy command (R218), its progress and its flags. `rm` is the rounding code as resolved at issue. -/
structure CopyCmd where
  dst : Cap
  src : Cap
  len : Nat
  rows : Nat
  dstr : Int
  sstr : Int
  sty : BitVec 4
  dty : BitVec 4
  rm : BitVec 3
  sat : Bool
  dnud : BitVec 8
  snud : BitVec 8
  dlvl : BitVec 2
  slvl : BitVec 2
  sigSm : BitVec 8
  sigInc : BitVec 4
  tcx : Bool
  rowsDone : Nat
  partDone : Nat
  flags : BitVec 5
  /-- The fibre that issued it is still in the slot; its flags are discarded otherwise (R221). -/
  own : Bool
  /-- The fibre that issued it, by the number of its start. -/
  fib : Nat
  /-- A resumed command whose checks are still to be passed again (R221). -/
  check : Bool
  /-- It has met a fenced host port, and its record is written (R353). -/
  fenced : Bool
  /-- PC and bits [63:0] of the issuing instruction, for records (R358). -/
  pc : Word
  insn : Word
deriving DecidableEq, Repr

/-! ### Caches (R199-R207) -/

/-- Where a read is served: through the caches, at a quay of the own die, or at the owning quay (R246, R247, R251). -/
inductive ReadAt where
  | cache | quay | owner
deriving DecidableEq, Repr

/-- The next-use hint of an access (R200, R201) and where it is served; by default that of a fetch. `rmw`: it is the read of an
access that goes on to write, which touches the line once (R203). DEDUCED, unsafe: log 19. -/
structure Hint where
  nud : BitVec 8 := 0xFF
  lvl : BitVec 2 := 0
  served : ReadAt := .cache
  rmw : Bool := false
deriving DecidableEq, Repr

/-- When a cached line is expected to be used again (R203): never, at a value of its owner's clock, at no known time
because its owner has lost its almanac entry, or at a fixed distance. -/
inductive Due where
  | dead
  | owed (tow : BitVec 16) (due : Nat)
  | orphan
  | fixed (d : Nat)
deriving DecidableEq, Repr

/-- A line of a cache: its way, its address divided by 128, and, in the cluster cache, its bytes and its T bits as they
were filled or since written by the cluster. -/
structure CacheLine where
  way : Nat
  line : Nat
  world : World
  due : Due
  reused : Bool
  dirty : Bool
  data : List Byte
  tags : List Bool
deriving DecidableEq, Repr

/-- An entry of an almanac (R202). -/
structure AlmanacEntry where
  tow : BitVec 16
  world : World
  clock : Nat
deriving DecidableEq, Repr

/-- A cache with its almanac and the credit of each world (R199, R202, R207). -/
structure Cache where
  lines : List CacheLine
  almanac : Vector (Option AlmanacEntry) 64
  credit : Vector Int 16
deriving DecidableEq, Repr

def Cache.empty : Cache := ⟨[], Vector.replicate 64 none, Vector.replicate 16 0⟩

/-- A copy of a line of a DUP page, on a die, whose invalidation has been sent and not yet applied: its old bytes and T
bits (R251). -/
structure OldCopy where
  line : Nat
  die : Fin 4
  data : List Byte
  tags : List Bool
deriving DecidableEq, Repr

/-! ### The matrix unit and the wavefront array -/

/-- A latch descriptor (R128). -/
structure LatchDesc where
  valid : Bool
  gather : Bool
  token : Bool
  kgather : Bool
  scales : Bool
  base : Cap
  off : Word
  qbase : BitVec 32
  lanes : Line
deriving DecidableEq, Repr

def LatchDesc.zero : LatchDesc := ⟨false, false, false, false, false, Cap.null, 0, 0, 0⟩

/-- One line of a latch part as it arrived: its bytes as a number and its block scales, first block lowest (R122). -/
structure LatchRow where
  data : Nat
  scales : List Byte
deriving DecidableEq, Repr

/-- A run of bytes that a load reads for a latch: in cluster memory or through the page table. -/
structure LatchLine where
  loc : Bool
  addr : Nat
  len : Nat
deriving DecidableEq, Repr

/-- A latch part (R115): its descriptor, the block geometry of its pages, what is to be read for it (none for a token that no
query sees; an empty list when its load is still to be made again), its rows once they have arrived, the visibility bits of a
token gather (bit 32 * token + query), an error its data carries, and the hint of its load. -/
structure Part where
  desc : LatchDesc
  bg : Nat
  plan : List (Option LatchLine)
  rows : Option (List LatchRow)
  vis : Nat
  err : Option Fail
  hint : Hint
deriving DecidableEq, Repr

def Part.zero : Part := ⟨LatchDesc.zero, 0, [], none, 0, none, {}⟩

/-- A product stopped halfway along K (R116, R127). -/
structure Stopped where
  koff : BitVec 6
  acc : BitVec 2
  sub : BitVec 2
  apart : BitVec 2
  sat : Bool
deriving DecidableEq, Repr

/-- A product in flight (R124, R126): where it stands, the reading under which it was issued, and whether it is the
continuation of a restored one, for which every later matrix instruction waits (R127). -/
structure Busy where
  at_ : Stopped
  tcx : Bool
  resumed : Bool
deriving DecidableEq, Repr

/-- The 32 x 32 cells of an accumulator, row-major (R115). -/
abbrev Acc := Vector (BitVec 32) 1024

/-- A drain (R129): the cells it has read, where the next row goes, and what it posts. -/
structure Drain where
  sl : SlotId
  world : World
  acc : Fin 4
  /-- Its accumulator is still to be read; under .z it is then set to zero. -/
  reading : Bool
  zero : Bool
  cells : Acc
  /-- Rows written, and rows whose handler has been spawned. -/
  row : Nat
  spawned : Nat
  /-- A row has failed: no later one is written. Rows that were logged and have been discarded. -/
  halted : Bool
  lost : List Nat
  cap : Cap
  ea : Word
  dty : BitVec 4
  dsat : Bool
  isInt : Bool
  tsa : BitVec 32
  tsb : BitVec 32
  sigSm : BitVec 8
  sigInc : BitVec 4
  handler : Cap
  hword : Word
  ctl : Word
  flags : BitVec 5
  /-- The drainer's fibre is still in the slot. -/
  own : Bool
  hint : Hint
  pc : Word
  insn : Word
deriving DecidableEq, Repr

/-- The matrix unit of the core (R12, R115-R132). -/
structure Matrix where
  holder : Option SlotId
  kind : BitVec 2
  ty : BitVec 4
  r4 : BitVec 2
  cfg : Word
  tsa : BitVec 32
  tsb : BitVec 32
  fp4xa : BitVec 16
  fp4xb : BitVec 16
  qbase : BitVec 32
  hcode : Vector Cap 4
  hword : Vector Word 4
  /-- A0, A1, A2, A3, B0, B1. -/
  parts : Vector Part 6
  stopped : Option Stopped
  busy : Option Busy
  acc : Vector Acc 4
  drains : List Drain
  /-- Flags of products not yet complete (R124). -/
  flags : BitVec 5
  /-- The latches are to be reloaded before the next matrix instruction (R127). -/
  reload : Bool
  /-- Accumulators whose ECC fails (R380). -/
  badAcc : List Nat
deriving DecidableEq, Repr

def Matrix.reset : Matrix where
  holder := none
  kind := 0
  ty := 0
  r4 := 0
  cfg := 0
  tsa := 0
  tsb := 0
  fp4xa := 0x8000
  fp4xb := 0x8000
  qbase := 0
  hcode := Vector.replicate 4 Cap.null
  hword := Vector.replicate 4 0
  parts := Vector.replicate 6 Part.zero
  stopped := none
  busy := none
  acc := Vector.replicate 4 (Vector.replicate 1024 0)
  drains := []
  flags := 0
  reload := false
  badAcc := []

/-- A staged tile (R165). -/
structure Staged where
  cap : Cap
  word : Word
  a : BitVec 256
  b : BitVec 256
deriving DecidableEq, Repr

/-- A tile in flight (R166): the registers and the plane it writes at its completion, and its SIG. -/
structure Tile where
  sl : SlotId
  regs : List (Fin 64 × Line)
  cap : Cap
  plane : List Byte
  sigSm : BitVec 8
  sigInc : BitVec 4
  pc : Word
  insn : Word
deriving DecidableEq, Repr

/-- The wavefront state (R158, R159). -/
structure Wave where
  rule : BitVec 32
  gap : BitVec 32
  lo : BitVec 32
  hi : BitVec 32
  tableCap : Cap
  /-- The table as the array holds it; empty when there is none. -/
  table : List Byte
  staged : Option Staged
  tiles : List Tile
deriving DecidableEq, Repr

def Wave.reset : Wave := ⟨0, 0, 0x80000000, 0x7FFFFFFF, Cap.null, [], none, []⟩

/-! ### A slot -/

/-- What is asked of a peer and has not been answered (R394, R396): its number, by an engine or not, and the address; and the
packet: the device, the issuing world, the address there, the operation with its operand, and the number of bytes. -/
structure PeerAsk where
  num : Nat
  eng : Bool
  va : Nat
  dev : Nat
  world : World
  rva : Nat
  op : PeerOp
  operand : Nat
  len : Nat
deriving DecidableEq, Repr

/-- An area of memory as read: its bytes and its tagged granules. -/
structure Img where
  bytes : List Byte
  tags : List Nat
deriving DecidableEq, Repr

/-- What a peer has answered to a load of an engine or of the slot's own instruction: the address, and the bytes with
the capability, or none when it timed out (R396). -/
structure PeerAns where
  eng : Bool
  va : Nat
  ans : Option (List Byte × Option Cap)
deriving DecidableEq, Repr

/-- One slot (R14, R15, R430) with its slot-table entry (R281). -/
structure Slot where
  status : SlotStatus
  /-- The number of the start of its fibre, which tells its stores from those of the fibres before it (R270). -/
  fib : Nat
  x : Vector Word 32
  c : Vector Cap 32
  pcc : Cap
  v : Vector Line 64
  k : Vector Gran 8
  p : BitVec 8
  /-- The main port waits for the repetition block (R112). -/
  behind : Bool
  fmode : Word
  fstat : Word
  world : World
  cmwin : Word
  smwin : Word
  savecap : Cap
  tjn : Word
  tslice : BitVec 32
  wlim : BitVec 32
  tow : BitVec 16
  /-- The slot's copy of its home tow's RCLK (R202, R308). -/
  clk : BitVec 32
  isLocal : Bool
  stat : BitVec 8
  statCause : BitVec 32
  /-- The slot-table entry as it stands, and its OP while a pre-emption has not ended (R281, R282). -/
  entry : BindEntry
  op : BitVec 8
  /-- The record under which the fibre last started (R22). -/
  startRec : Rec
  /-- The fibre has issued no instruction since its start or restore (R20, R282). -/
  fresh : Bool
  /-- The checks of R20, steps 2 and 3, are outstanding. -/
  startChecks : Bool
  /-- A fault of a restore, taken at the first resumed instruction (R109, R221, R375). -/
  pending : Option Fail
  /-- The restore in progress (R24, R437). -/
  restoring : RestorePh
  /-- A suspk has come before the restore has ended: the state that it has found (R368). -/
  suspAsk : Option (BitVec 3)
  /-- The image as the restore has read it, while it takes shared units (R437). -/
  image : Option Img
  /-- The trap that a restored image carries, with its trap word (R375). -/
  pendTrap : Option (TrapRec × BitVec 32)
  /-- The matrix and wavefront state of a restored image, until the unit is taken. -/
  heldMat : Option (Matrix × Wave)
  /-- The word of the instruction at the pc, once it has been fetched (R31). -/
  held : Option (BitVec 96)
  /-- The instruction at the pc has passed its guards and its WAIT; the units taken. -/
  begun : Bool
  taken : Option (BitVec 8 × Nat)
  mons : Vector Mon 4
  /-- park: the timeout given (0 none), and the events that end it: timeout, supervisor wake (R227). -/
  parkTmo : Word
  wake : BitVec 2
  /-- The record of the trap that parked the slot, and the trap word (R367). -/
  trapRec : Option TrapRec
  trapWord : BitVec 32
  pendSlice : Bool
  pendWsec : Option Nat
  ports : Vector Port 4
  rep : Option Rep
  copies : List CopyCmd
  dbgHalt : Bool
  /-- The quay on whose core the fibre stands, when it is away from its slot (R217). -/
  quay : Option (Fin 128)
  /-- What peers have answered (R396). -/
  peer : List PeerAns
  peerAsk : List PeerAsk
  /-- Registers whose ECC fails (R380): the file, as AUX [3:0] numbers it, and the index. -/
  bad : List (Nat × Nat)
deriving DecidableEq, Repr

/-- A slot at reset: every register at its start value (R15), FREE (R14). -/
def Slot.reset : Slot where
  status := .free
  fib := 0
  x := Vector.replicate 32 0
  c := Vector.replicate 32 Cap.null
  pcc := Cap.null
  v := Vector.replicate 64 0
  k := (Vector.replicate 8 0).set 0 (BitVec.allOnes 128)
  p := 1
  behind := false
  fmode := 0x100
  fstat := 0
  world := 0
  cmwin := 0
  smwin := 0
  savecap := Cap.null
  tjn := 0
  tslice := 0
  wlim := 0
  tow := 0
  clk := 0
  isLocal := false
  stat := 0
  statCause := 0
  entry := BindEntry.zero
  op := 0
  startRec := Rec.zero
  fresh := false
  startChecks := false
  pending := none
  restoring := .none
  suspAsk := none
  image := none
  pendTrap := none
  heldMat := none
  held := none
  begun := false
  taken := none
  mons := Vector.replicate 4 Mon.none
  parkTmo := 0
  wake := 0
  trapRec := none
  trapWord := 0
  pendSlice := false
  pendWsec := none
  ports := Vector.replicate 4 Port.unbound
  rep := none
  copies := []
  dbgHalt := false
  quay := none
  peer := []
  peerAsk := []
  bad := []

/-- Slot 15 at reset: bound to the supervisor (R14), its windows the whole of cluster memory and of the semaphores
(R190, R228). It issues nothing before its start (R361). -/
def Slot.reset15 : Slot :=
  { Slot.reset with status := .ready, cmwin := 0x0040000000000000, smwin := 0x10000 }

/-! ### The core -/

/-- Who waits: the main port of a slot, its repetition port, an await entry, or a copy command's engine (R312). -/
inductive Who where
  | slot (sl : SlotId)
  | rep (sl : SlotId)
  | await (i : Fin 32)
  | copy (sl : SlotId)
deriving DecidableEq, Repr

/-- A waiter, in the order in which the waiters began (R312, R216, R196): kind, object and, for a semaphore, the
threshold. -/
structure Waiter where
  who : Who
  kind : WaitKind
  obj : Nat
  thr : Nat
deriving DecidableEq, Repr

/-- An await entry (R303) or a swap entry (R319). -/
structure AwaitEntry where
  kind : WaitKind
  obj : Nat
  thr : Nat
  rcd : Rec
  tow : BitVec 16
  world : World
  swap : Bool
deriving DecidableEq, Repr

/-- A memory queue of a world on the core (R285): its size in records and its records, oldest first. -/
structure Ring where
  size : Nat
  recs : List Rec
deriving DecidableEq, Repr

/-- A remote update on its way (R225), with the number of its fibre's start and its own, in the order of issue. -/
structure Update where
  sl : SlotId
  fib : Nat
  num : Nat
  world : World
  cap : Cap
  ea : Nat
  op : BitVec 4
  size : BitVec 3
  x : Bool
  src : Word
  hint : Hint
  pc : Word
  insn : Word
deriving DecidableEq, Repr

/-- A reply on its way (R300). -/
structure Reply where
  sl : SlotId
  fib : Nat
  world : World
  cluster : Fin 64
  off : Nat
  lo : Word
  hi : Word
  /-- The scope of the release that the write makes (R41), and the numbers of the logged stores and of the reductions that it
  follows. -/
  scope : Nat
  logs : List Nat
  ups : List Nat
  pc : Word
  insn : Word
deriving DecidableEq, Repr

/-! ### Queues of the module -/

/-- Whose a logged store is (R253, R256, R258, R270): a fibre's, by the number of its start, a row's that a fibre has pushed,
an engine's, a host port's or a peer's. -/
inductive LogBy where
  | fibre (id : Nat)
  | row (id : Nat) (port : Fin 4) (n : Nat)
  | engine
  | port (p : HostPort)
  | peer (dev : BitVec 8)
deriving DecidableEq, Repr

/-- A store or reduction held in a side log (R269): whose it is, and the slot it was issued for, without one when it came from
outside (R387). -/
structure LogEntry where
  who : LogBy
  sl : Option SlotId
  /-- Numbers the entries in the order in which they retired. -/
  num : Nat
  /-- It is an sc access: the accesses behind it are ordered after it (R234). -/
  sc : Bool
  world : World
  quay : Fin 128
  va : Nat
  data : List Byte
  /-- The bits of each byte that the store leaves as they were, the first byte first; none past the end of the list (R103). -/
  keep : List Byte
  tags : List Bool
  /-- A capability store: replay needs CW when tagged. -/
  isCap : Bool
  hint : Hint
  upd : Option Update
deriving DecidableEq, Repr

/-- A SIG that is not yet posted: the stores and reductions of the slot that it follows have not all been performed
(R32). `gone`: the fibre has left the slot since. -/
structure HeldSig where
  sl : SlotId
  fib : Nat
  world : World
  sm : BitVec 8
  inc : BitVec 4
  pc : Word
  word : BitVec 96
  gone : Bool
  /-- The numbers of the logged stores and of the reductions. -/
  logs : List Nat
  ups : List Nat
deriving DecidableEq, Repr

/-- Why firmware was asked for a page (R267, R268). -/
inductive PageReason where
  | unmapped | colour
deriving DecidableEq, Repr

/-- A page request posted to firmware (R268): the page, its size in bytes, and the quay that asks. `absent`: the table had no
entry for it. -/
structure PageReq where
  world : World
  va : Nat
  size : Nat
  quay : Fin 128
  reason : PageReason
  absent : Bool
deriving DecidableEq, Repr

/-- The reference count of a KV page, by its world and its virtual address divided by 64 KiB; pinned, it is never unmapped
(R153). -/
structure PageRef where
  world : World
  page : Nat
  count : Nat
  pinned : Bool
deriving DecidableEq, Repr

/-- A store or reduction to a peer (R394, R396): its number, the slot and the fibre it came from and whether it is an sc access,
the issuing world, the device and the address there, and its bytes; with the capability when it carries one (R340), or the
operation, size and X of a reduction. -/
structure PeerStore where
  num : Nat
  sl : SlotId
  fib : Nat
  sc : Bool
  world : World
  dev : Nat
  va : Nat
  data : List Byte
  cap : Option Cap
  red : Option (BitVec 4 × BitVec 3 × Bool)
  lva : Nat
  pc : Word
  insn : Word
deriving DecidableEq, Repr

/-- A record in a cluster ready queue (R279). -/
structure Queued where
  cluster : Fin 64
  rcd : Rec
deriving DecidableEq, Repr

/-! ### The cluster's units -/

/-- An accepted request of the transform coprocessor (R178-R186): its four entries hold these. -/
structure Xreq where
  sl : SlotId
  world : World
  op : BitVec 2
  dst : Cap
  src : Cap
  scl : Cap
  len : Word
  md : ModF
  rm : BitVec 3
  tcx : Bool
  sigSm : BitVec 8
  sigInc : BitVec 4
  /-- The fibre that presented it is still in the slot. -/
  own : Bool
  pc : Word
  insn : Word
deriving DecidableEq, Repr

/-- A parked monitor (R317): the image it belongs to, its line, and whether a write has been seen. -/
structure ParkedMon where
  world : World
  image : Nat
  loc : Bool
  line : Nat
  trig : Bool
  /-- The tow a swap marked it for (R319); 0 for none. -/
  tow : BitVec 16
deriving DecidableEq, Repr

/-- An export or import in progress (R349). -/
structure ExpOp where
  op : BitVec 2
  world : World
  port : HostPort
  sm : BitVec 8
  inc : BitVec 4
  src : Word
  dst : Word
  code : BitVec 8
  /-- The counter in the image's header as the first pass of an import accepted it (R351); none before. -/
  passed : Option Nat
deriving DecidableEq, Repr

/-- What the cluster holds besides memory. -/
structure Cluster where
  smap : Vector Word 4
  expsrc : Word
  expdst : Word
  expctl : Word
  expst : Word
  exp : Option ExpOp
  xreqs : List Xreq
  /-- The core's requests answered busy since its last acceptance, and the entry it has reserved (R179). -/
  xbusy : Nat
  xresv : Bool
  replies : List Reply
  parkedMons : List ParkedMon
  /-- The slot whose copy commands the engine served last (R220). -/
  copyLast : SlotId
  /-- The lines of cluster memory whose scales a copy has moved into a scale bank, with their block geometry, which no
  register states (R176, R177). -/
  lineBg : List (Nat × Nat)
  /-- The cluster cache (R199): a way is the bank that holds it. -/
  cache : Cache
deriving DecidableEq, Repr

def Cluster.reset : Cluster where
  smap := Vector.replicate 4 0
  expsrc := 0
  expdst := 0
  expctl := 0
  expst := 0
  exp := none
  xreqs := []
  xbusy := 0
  xresv := false
  replies := []
  parkedMons := []
  copyLast := 15
  lineBg := []
  cache := Cache.empty

/-! ### Worlds -/

/-- A sweep that runs (R337): the SIG of its cswp with the slot that issued it, whether this core has acknowledged,
and whether memory has been swept. -/
structure Sweep where
  sl : SlotId
  sigSm : BitVec 8
  sigInc : BitVec 4
  pc : Word
  insn : Word
  acked : Bool
  swept : Bool
deriving DecidableEq, Repr

/-- The registers and tables of a world (R432, R341-R356). -/
structure WorldSt where
  troot : Word
  sshd : Word
  towbase : Word
  hbase : Word
  lctc : Cap
  cpol : Word
  wqos : Word
  allow : Word
  wseal : Word
  sctr : Word
  /-- The resume counter of the cluster for this world (R347). -/
  rctr : Word
  rvmap : Word
  rvrng : Word
  /-- The sixteen windows (R394), 32 bytes each. -/
  wins : Vector (BitVec 256) 16
  sweep : Option Sweep
  /-- The world's keys exist; which sealing keys and which context key they are (R343, R348, R352). -/
  keys : Bool
  keyGen : Nat
  kcGen : Nat
  created : Bool
  /-- A protected-world operation of R349 runs somewhere. -/
  expBusy : Bool
  enqbad : Word
  enqlost : BitVec 32
  intlost : Word
  flrst : Word
  /-- A function-level reset is under way (R383). -/
  inFlr : Bool
  /-- A PROT written while the world was in use, which takes effect after its next reset (R342). -/
  protNext : Option Bool
  /-- The mailbox (R389): command word, arguments, status word, results. -/
  mbcmd : Word
  mbargs : List Byte
  mbst : Word
  mbres : List Byte
  /-- The status that the command in progress ends with, and the port that wrote it where an event names one. -/
  mbEnd : Nat
  mbPort : Option HostPort
  /-- The user-interrupt table of the function, in the memory of the host of each port (R390, R391). -/
  uit : Option Nat
  /-- The MSI-X table of the function (R387). -/
  msix : List Byte
  /-- The tenant's key, registered when the world was created, and the digest of its loader's image (R352). -/
  tenant : Nat
  loader : BitVec 256
deriving DecidableEq, Repr

def WorldSt.reset : WorldSt where
  troot := 0
  sshd := 0
  towbase := 0
  hbase := 0
  lctc := Cap.null
  cpol := 0x30
  wqos := 1
  allow := 0
  wseal := 0
  sctr := 0
  rctr := 0
  rvmap := 0
  rvrng := 0
  wins := Vector.replicate 16 0
  sweep := none
  keys := false
  keyGen := 0
  kcGen := 0
  created := false
  expBusy := false
  enqbad := 0
  enqlost := 0
  intlost := 0
  flrst := 0
  inFlr := false
  protNext := none
  mbcmd := 0
  mbargs := List.replicate 120 0
  mbst := 0
  mbres := List.replicate 120 0
  mbEnd := 0
  mbPort := none
  uit := none
  msix := List.replicate 1024 0
  tenant := 0
  loader := 0

/-! ### Host, fabric and management -/

/-- A collective window (R397-R399): its definition; ARR, CST and DROP are in memory. -/
structure Cwin where
  world : World
  va : Nat
  len : Nat
  expect : Nat
  tmo : Nat
  timer : Bool
deriving DecidableEq, Repr

/-- An entry of the import table (R395). -/
structure Import where
  srcDev : BitVec 8
  srcWorld : World
  world : World
  lo : Nat
  hi : Nat
  perm : BitVec 3
deriving DecidableEq, Repr

/-- What the module sends to a host port: a status or data write, or an interrupt (R289-R291, R391). -/
inductive HostMsg where
  | write (port : HostPort) (iova : Nat) (data : List Byte)
  | msix (port : HostPort) (fn : World) (vec : Nat)
  | readReply (port : HostPort) (fn : World) (data : Option (List Byte))
deriving DecidableEq, Repr

/-- A coalescing window (R290). -/
structure Coalesce where
  port : HostPort
  uli : Bool
  fn : World
  vec : Nat
  pending : Bool
deriving DecidableEq, Repr

/-- A device action on a tow descriptor that waits for its page (R436). -/
inductive TowAct where
  | decr
  | incr
  | charge (n : Nat)
  | counts (bound waitb long : Int)
  | swap
deriving DecidableEq, Repr

structure HeldAct where
  world : World
  tow : BitVec 16
  act : TowAct
deriving DecidableEq, Repr

/-- An entry of a quay's translation cache (R274): a leaf with its companion word, under the world and the address of its
page. -/
structure TransEntry where
  quay : Fin 128
  world : World
  page : Nat
  main : Nat
  comp : Nat
deriving DecidableEq, Repr

/-- An access counter of a tier-1 page (R272). -/
structure PageCount where
  quay : Fin 128
  world : World
  va : Nat
  count : Nat
  queued : Bool
deriving DecidableEq, Repr

/-- A notice to firmware or the scheduling controller (R155, R282, R315, R316, R377, R436). -/
inductive Notice where
  | slotStat (sl : SlotId) (code : BitVec 8)
  | budget (w : World) (tow : BitVec 16)
  | snapshot (w : World) (tow : BitVec 16) (data : List Byte)
  | audit (w : World) (addr : Nat)
  | blFix (line : Nat)
  | blOvf (quay : Fin 128)
  | doubleFault
  | trip
  | lostRecord
deriving DecidableEq, Repr

/-- An entry of a quay's bad-line list (R377): the line and the world of the access that found it. -/
structure BadLine where
  quay : Fin 128
  line : Nat
  world : World
deriving DecidableEq, Repr

/-- What the module answers to an access of a peer (R395): the bytes it asked for, with the capability where they are one, or
none for an error. -/
structure PeerReply where
  dev : BitVec 8
  world : World
  data : Option (List Byte)
  cap : Option Cap
deriving DecidableEq, Repr

/-- The acknowledgement that a peer is owed for a store that the side log holds, by the numbers of its entries (R256, R269). -/
structure PeerAck where
  dev : BitVec 8
  world : World
  logs : List Nat
deriving DecidableEq, Repr

/-- The metadata of a line that has been sealed (R197, R343): the number of the key, the virtual line address that was its tweak,
and MACX. -/
structure Seal where
  line : Nat
  gen : Nat
  va : Nat
  macx : Word
deriving DecidableEq, Repr

/-- The counts of soft errors of a bank (R381). -/
structure ErrCount where
  bank : Bank
  corrected : BitVec 32
  fatal : BitVec 16
deriving DecidableEq, Repr

/-- An audit-log entry (R355). -/
structure Audit where
  seq : BitVec 32
  fn : World
  port : Bool
  kind : BitVec 3
  addr : Word
deriving DecidableEq, Repr

/-- What a tow's barrier holds beside its descriptor (R231, R187): the scale of the generation completed last with its
flags, whether this generation has a barmx arrival, and the e4m3 reading of its last one. -/
structure BarScale where
  world : World
  tow : BitVec 16
  scale : Byte
  flags : BitVec 5
  any : Bool
  tcx : Bool
deriving DecidableEq, Repr

/-- What the descriptor of a slot's home tow has been told about the slot (R318): the member's world and tow while it
counts in BOUND, and whether it counts in WAITB and in LONG. -/
structure Tally where
  member : Option (World × BitVec 16)
  wait : Bool
  long : Bool
deriving DecidableEq, Repr

/-- A fibre that has been suspended while writes of its own were still to be performed, or copies of its own stopped: its world,
its image, and the number of its start (R221, R238, R289). -/
structure Asleep where
  world : World
  image : Nat
  fib : Nat
  copies : Bool
deriving DecidableEq, Repr

/-- The state of the machine. DESIGN CHOICE, unsafe: log 1. -/
structure State where
  /-- This core's place in the module (R10). -/
  core : Fin 8
  cluster : Fin 64
  /-- The slot an instruction executes in. -/
  cur : SlotId
  /-- The word of the instruction that executes, for the trap record (R358). -/
  word : BitVec 96
  /-- The slot that issued last (R287). -/
  last : SlotId
  slots : Vector Slot 16
  sem : Vector (BitVec 16) 256
  /-- Semaphores whose ECC fails (R380). -/
  badSem : List (BitVec 8)
  waiters : List Waiter
  await : Vector (Option AwaitEntry) 32
  lrq : List Rec
  cmq : Vector Ring 16
  heldMsgs : List Rec
  trapQ : List TrapRec
  /-- Records that found the queue full, in production order: with their slot when it is parked by them (R359). -/
  hold : List (Option SlotId × TrapRec)
  lost : BitVec 32
  ctcx : BitVec 16
  svec : Word
  frec : Vector Word 4
  supStarted : Bool
  supHalted : Bool
  /-- Slot 15 has given up its turns (R369). -/
  yielding : Bool
  mat : Matrix
  wave : Wave
  updates : List Update
  cl : Cluster
  /-- BMODE of each cluster (R191). -/
  bmode : Vector Word 64
  /-- RPWIN of each cluster and world, at 16 * cluster + world (R300). -/
  rpwin : Vector Word 1024
  /-- Spill-ring sizes of the cluster ready queues, at 16 * cluster + world (R279). -/
  crq : Vector Nat 1024
  /-- Where Torud has set the rings of the cluster ready queues and of the core's memory queues. -/
  crqBase : Vector Word 1024
  cmqBase : Vector Word 16
  clq : List Queued
  heldQ : List Queued
  fifos : List (Nat × List Cap)
  worlds : Vector WorldSt 16
  /-- Bytes of memory: physical addresses below 2^48; cluster memory from 2^48; host memory from 2^64. -/
  mem : List Host.Cell
  /-- Granules whose T bit is set, as byte address / 16, rising (R195, R197). -/
  tags : List Nat
  /-- Granules whose F bit is set (R195), and those of them that a reply set at die scope or wider, with its scope (R216). -/
  full : List Nat
  fullScopes : List (Nat × Nat)
  /-- The reference counts of KV pages that differ from 1 or are pinned (R153). -/
  refs : List PageRef
  /-- Lines of HBM and CXL and granules of cluster memory whose ECC fails (R376). -/
  badLines : List Nat
  badGrans : List Nat
  /-- Lines of HBM and CXL that have been sealed, by rising line (R343). Memory holds what the world has stored; what DRAM holds
  is a function of it.
  DESIGN CHOICE, unsafe: log 12. -/
  seals : List Seal
  /-- The counters of soft errors, where they are not zero (R381). -/
  errCounts : List ErrCount
  /-- The bad-line lists of the quays, and BLSTAT.OVF and BLSTAT.FOUND of each (R377, R379). -/
  blList : List BadLine
  blOvf : Vector Bool 128
  blFound : Vector (BitVec 32) 128
  /-- Memory errors that an access of a world has met at an address, for the lists. -/
  errSeen : List (World × Nat)
  sideLog : List LogEntry
  heldSigs : List HeldSig
  pageReqs : List PageReq
  /-- The quay caches, with the accesses this core has made (R199-R207): which lines they hold; the bytes are those of
  memory, or of the copies below. -/
  quays : Vector Cache 128
  /-- Lines of DUP pages of which a die holds a copy; copies whose invalidation has been sent and not yet applied; and
  those whose acknowledgement is on its way (R251, R271). -/
  dupHeld : List (Nat × Fin 4)
  dup : List OldCopy
  dupAcks : List (Nat × Fin 4)
  /-- Stores to peers that have not been acknowledged (R256, R396). -/
  peerOut : List PeerStore
  /-- The translation caches of the quays, oldest entry first (R274). -/
  tcache : List TransEntry
  /-- The counter tables of the quays, the counter raised last standing last. -/
  pageCounts : List PageCount
  pageNotes : List (Fin 4 × World × Nat × Nat)
  pageOvf : Vector Bool 4
  quayMons : List ParkedMon
  heldActs : List HeldAct
  barScales : List BarScale
  /-- Records sent to other cores of the module, by module-wide core, oldest first (R298). -/
  farMsgs : List (Nat × Rec)
  /-- Records of suspended tows, held, each with the cluster to whose queue it goes back (R315). -/
  susp : List (World × BitVec 16 × Queued)
  /-- Tows whose swap has been decided, while a member cannot be suspended yet (R319, R320); and the records of tows that are
  swapped. -/
  swapping : List (World × BitVec 16)
  swapped : List (World × BitVec 16 × Rec)
  /-- What the home tows have been told of each slot (R318). -/
  tally : Vector Tally 16
  /-- Tows whose launch has completed in MEMBERS but whose status write waits (R289). -/
  launches : List (World × BitVec 16 × Nat)
  coalesce : List Coalesce
  hostOut : List HostMsg
  /-- Messages held while the session of their port is down (R353). -/
  hostHeld : List HostMsg
  sessA : Bool
  sessB : Bool
  psem : Word
  /-- DEDUCED, safe: log 66. -/
  notices : List Notice
  auditLog : List Audit
  auditSeq : BitVec 32
  auditOvf : BitVec 32
  device : BitVec 8
  routes : Vector (Fin 12 × Fin 12) 256
  linkUp : Vector Bool 12
  cxlUp : Vector Bool 4
  imports : Vector (Option Import) 1024
  rejected : Vector Nat 12
  fabricOut : List PeerReply
  peerAcks : List PeerAck
  cwins : Vector (Option Cwin) 16
  ptmo : Nat
  throt : Vector Word 4
  tripped : Bool
  /-- The firmware image that has been written to flash, and the digest of it that the last cold reset has logged; none for the
  image that the module came with (R352, R390). -/
  fwImage : Option (List Byte)
  measured : Option (BitVec 256)
  /-- The words that world 0 has read through the management path (R432). -/
  mgmtOut : List Word
  /-- Acts of engines and of the outside world that have arrived and not yet been performed, oldest first.
  DESIGN CHOICE, safe: log 69. -/
  agenda : List Act
  /-- Acts of units that have stalled, on a page or on another unit; they are tried again after the next change. -/
  deferred : List Act
  /-- The act being performed. -/
  act : Option Act
  /-- The fibres that have been suspended with work of theirs left behind. -/
  asleep : List Asleep
  /-- Counts the starts of fibres, and the logged stores and reductions. -/
  fibCtr : Nat
  opCtr : Nat
  /-- Counts the keys already made (R343, R348). -/
  keyCtr : Nat
  /-- Counts the free values already taken. -/
  freeCtr : Nat
deriving DecidableEq, Repr

/-- The machine right after reset (R15, R382). DESIGN CHOICE, safe: log 2. DESIGN CHOICE, unsafe: log 6. -/
def State.reset : State where
  core := 0
  cluster := 0
  cur := 15
  word := 0
  last := 15
  slots := (Vector.replicate 16 Slot.reset).set 15 Slot.reset15
  sem := Vector.replicate 256 0
  badSem := []
  waiters := []
  await := Vector.replicate 32 none
  lrq := []
  cmq := Vector.replicate 16 ⟨16, []⟩
  heldMsgs := []
  trapQ := []
  hold := []
  lost := 0
  ctcx := 0
  svec := 0
  frec := Vector.replicate 4 0
  supStarted := false
  supHalted := false
  yielding := false
  mat := Matrix.reset
  wave := Wave.reset
  updates := []
  cl := Cluster.reset
  bmode := Vector.replicate 64 0
  rpwin := Vector.replicate 1024 0
  crq := Vector.replicate 1024 64
  crqBase := Vector.replicate 1024 0
  cmqBase := Vector.replicate 16 0
  clq := []
  heldQ := []
  fifos := []
  worlds := Vector.replicate 16 WorldSt.reset
  mem := []
  tags := []
  full := []
  fullScopes := []
  refs := []
  badLines := []
  badGrans := []
  seals := []
  errCounts := []
  blList := []
  blOvf := Vector.replicate 128 false
  blFound := Vector.replicate 128 0
  errSeen := []
  sideLog := []
  heldSigs := []
  pageReqs := []
  quays := Vector.replicate 128 Cache.empty
  dupHeld := []
  dup := []
  dupAcks := []
  peerOut := []
  tcache := []
  pageCounts := []
  pageNotes := []
  pageOvf := Vector.replicate 4 false
  quayMons := []
  heldActs := []
  barScales := []
  farMsgs := []
  susp := []
  swapping := []
  swapped := []
  tally := Vector.replicate 16 ⟨none, false, false⟩
  launches := []
  coalesce := []
  hostOut := []
  hostHeld := []
  sessA := false
  sessB := false
  psem := 0
  notices := []
  auditLog := []
  auditSeq := 0
  auditOvf := 0
  device := 0
  routes := Vector.replicate 256 (0, 0)
  linkUp := Vector.replicate 12 false
  cxlUp := Vector.replicate 4 true
  imports := Vector.replicate 1024 none
  rejected := Vector.replicate 12 0
  fabricOut := []
  peerAcks := []
  cwins := Vector.replicate 16 none
  ptmo := 100
  throt := Vector.replicate 4 0
  tripped := false
  fwImage := none
  measured := none
  mgmtOut := []
  agenda := []
  deferred := []
  act := none
  asleep := []
  fibCtr := 1
  opCtr := 0
  keyCtr := 1
  freeCtr := 0

/-- Reasons the machine stops with a fault. -/
inductive Fault where
  /-- Raised by an event whose acting unit has nothing of that kind to do (no such command, update or entry): the
  event could not have happened. Safe. -/
  | noSuchEvent
deriving DecidableEq, Repr

/-- Reasons an instruction is refused. -/
inductive Refusal where
  /-- Raised by an arm of the dispatch that has no meaning yet. Safe. -/
  | notModelled (mnemonic : String)
deriving DecidableEq, Repr

end Sys2Proof.Machine
end

