-- ==== Sys2Proof/Machine/Caps.lean ====
section
/-!
DEFINITION. Capabilities (R322-R334): the fields of the 128 bits, the bounds they encode, CapCheck, and the
derivations. Pure functions of capabilities.
-/

namespace Sys2Proof.Machine

/-! ### Fields (R322) -/

def capPerm (c : Cap) : BitVec 12 := c.bits.extractLsb' 116 12
def capWorld (c : Cap) : BitVec 4 := c.bits.extractLsb' 112 4
def capOtype (c : Cap) : BitVec 4 := c.bits.extractLsb' 108 4
/-- The space bit: true for cluster-local (R189). -/
def capLocal (c : Cap) : Bool := c.bits.getLsbD 107
def capExp (c : Cap) : Nat := (c.bits.extractLsb' 101 6).toNat
def capBasem (c : Cap) : Nat := (c.bits.extractLsb' 82 19).toNat
def capLenm (c : Cap) : Nat := (c.bits.extractLsb' 64 18).toNat
def capCursor (c : Cap) : Word := c.bits.extractLsb' 0 64

/-- The capability with another cursor, every other bit kept. -/
def capWithCursor (c : Cap) (a : Word) : Cap := ⟨c.tag, (c.bits.extractLsb' 64 64 ++ a : BitVec 128)⟩
/-- The capability with another object type. -/
def capWithOtype (c : Cap) (t : BitVec 4) : Cap :=
  ⟨c.tag, (c.bits.extractLsb' 112 16 ++ t ++ c.bits.extractLsb' 0 108 : BitVec 128)⟩
/-- The capability with other permissions. -/
def capWithPerm (c : Cap) (p : BitVec 12) : Cap := ⟨c.tag, (p ++ c.bits.extractLsb' 0 116 : BitVec 128)⟩
/-- The capability with another world (R340). -/
def capWithWorld (c : Cap) (w : BitVec 4) : Cap :=
  ⟨c.tag, (c.bits.extractLsb' 116 12 ++ w ++ c.bits.extractLsb' 0 112 : BitVec 128)⟩
def capUntag (c : Cap) : Cap := ⟨false, c.bits⟩

/-! ### Permissions (R323) -/

def pR : BitVec 12 := 0x001
def pW : BitVec 12 := 0x002
def pX : BitVec 12 := 0x004
def pCL : BitVec 12 := 0x008
def pCW : BitVec 12 := 0x010
def pFRAME : BitVec 12 := 0x020
def pSEAL : BitVec 12 := 0x040
def pUNSEAL : BitVec 12 := 0x080
def pLOCAL : BitVec 12 := 0x100
def pFIFO : BitVec 12 := 0x200
def pSYS : BitVec 12 := 0x400
def pGLOBAL : BitVec 12 := 0x800

/-- Whether a capability has every permission of a mask. -/
def capHas (c : Cap) (p : BitVec 12) : Bool := (p &&& ~~~capPerm c) == 0

/-! ### Bounds (R325, R326) -/

/-- E := min(EXP, 45) (R325). -/
def capE (c : Cap) : Nat := min (capExp c) 45

/-- Base (R325). -/
def capBase (c : Cap) : Nat :=
  let e := capE c
  if e == 45 then capBasem c * 2 ^ 45 % 2 ^ 64
  else
    let cur := (capCursor c).toNat
    let hi : Int := (cur / 2 ^ (e + 19) : Nat)
    let hi := if cur / 2 ^ e % 2 ^ 19 < capBasem c then hi - 1 else hi
    ((hi * 2 ^ (e + 19) + capBasem c * 2 ^ e) % 2 ^ 64).toNat

/-- The length LENM << E. -/
def capLen (c : Cap) : Nat := capLenm c * 2 ^ capE c
/-- Top, unbounded (R325). -/
def capTop (c : Cap) : Nat := capBase c + capLen c

/-- Whether a cursor lies in the representable region (R325). -/
def capRepresentable (c : Cap) (a : Word) : Bool :=
  let d := (a.toNat + 2 ^ 64 - capBase c) % 2 ^ 64
  capE c == 45 || d < 2 ^ (capE c + 19)

/-- Enc (R326): the smallest exponent from `e` on that fits, with the rounded region. -/
def capEncFrom (b t : Nat) : Nat → Nat → Option (Nat × Nat × Nat)
  | 0, _ => none
  | n + 1, e =>
    let b2 := b / 2 ^ e * 2 ^ e
    let t2 := (t + 2 ^ e - 1) / 2 ^ e * 2 ^ e
    if (t2 - b2) / 2 ^ e ≤ 2 ^ 18 - 1 then some (e, b2, t2) else capEncFrom b t n (e + 1)

def capEnc (b t : Nat) : Option (Nat × Nat × Nat) := capEncFrom b t 46 0

/-- The capability with the bounds Enc chose and every other field kept (R326). -/
def capWithBounds (c : Cap) (e b2 t2 : Nat) : Cap :=
  ⟨c.tag, (c.bits.extractLsb' 107 21 ++ BitVec.ofNat 6 e ++ BitVec.ofNat 19 (b2 / 2 ^ e) ++
    BitVec.ofNat 18 ((t2 - b2) / 2 ^ e) ++ c.bits.extractLsb' 0 64 : BitVec 128)⟩

/-- A fresh tagged capability (R328, R145, R22). -/
def capMake (perm : BitVec 12) (w : BitVec 4) (ot : BitVec 4) (loc : Bool) (e bm lm : Nat) (cur : Word) : Cap :=
  ⟨true, (perm ++ w ++ ot ++ BitVec.ofBool loc ++ BitVec.ofNat 6 e ++ BitVec.ofNat 19 bm ++ BitVec.ofNat 18 lm ++
    cur : BitVec 128)⟩

/-! ### Causes (R372) -/

def cILL : Nat := 0x01
def cPRIV : Nat := 0x02
def cCAPT : Nat := 0x03
def cCAPB : Nat := 0x04
def cCAPP : Nat := 0x05
def cCAPS : Nat := 0x06
def cCAPW : Nat := 0x07
def cALGN : Nat := 0x08
def cPAGE : Nat := 0x09
def cPROT : Nat := 0x0A
def cCGM : Nat := 0x0B
def cKVPA : Nat := 0x0C
def cFRMD : Nat := 0x0D
def cFRMU : Nat := 0x0E
def cFRMS : Nat := 0x0F
def cFRMV : Nat := 0x10
def cFRMC : Nat := 0x11
def cFMM : Nat := 0x12
def cFPE : Nat := 0x13
def cMEMERR : Nat := 0x14
def cREGERR : Nat := 0x15
def cSTRM : Nat := 0x16
def cMCFG : Nat := 0x17
def cWCFG : Nat := 0x18
def cXCFG : Nat := 0x19
def cSEMO : Nat := 0x1A
def cWSEC : Nat := 0x1B
def cSEAL : Nat := 0x1C
def cMSGD : Nat := 0x1D
def cWTMO : Nat := 0x1E
def cHOSTDN : Nat := 0x1F
def cSWI : Nat := 0x20
def cBRK : Nat := 0x21
def cSLICE : Nat := 0x22

/-! ### Checks -/

/-- The checks of R330 that do not depend on an address. -/
def capCheckKind (w : World) (c : Cap) (perm : BitVec 12) : Option Nat :=
  if !c.tag then some cCAPT
  else if capOtype c != 0 then some cCAPS
  else if (capWorld c).toNat != w.val then some cCAPW
  else if !capHas c perm then some cCAPP
  else none

/-- The first byte of `[a, a + n)` outside the bounds of a capability, if any (R330, R210). -/
def capFirstOut (c : Cap) (a n : Nat) : Option Nat :=
  if n == 0 then none
  else if a < capBase c || capTop c ≤ a then some a
  else if capTop c < a + n then some (capTop c) else none

/-- CapCheck(c, addr, size, perm) of R330: the cause and the first failing byte. -/
def capCheck (w : World) (c : Cap) (a n : Nat) (perm : BitVec 12) : Option Fail :=
  match capCheckKind w c perm with
  | some cause => some ⟨cause, 0, a⟩
  | none => match capFirstOut c a n with
    | some b => some ⟨cCAPB, 0, b % 2 ^ 64⟩
    | none => none

/-- The code-capability checks of R295 and R130: sealed only by `okType`. -/
def codeCheck (w : World) (c : Cap) (entryOk : Bool) : Option Nat :=
  if !c.tag then some cCAPT
  else if capOtype c != 0 && !(entryOk && capOtype c == 3) then some cCAPS
  else if (capWorld c).toNat != w.val then some cCAPW
  else if !capHas c pX then some cCAPP
  else none

/-- Target (R293): an ENTRY capability travels unsealed. -/
def capTarget (c : Cap) : Cap := if c.tag && capOtype c == 3 then capWithOtype c 0 else c

/-- Storing a tagged capability through another (R212, R323): the missing permission, if any. -/
def capStoreMissing (through stored : Cap) : Bool :=
  stored.tag && (!capHas through pCW || (!capHas stored pGLOBAL && !capHas through pLOCAL))

/-! ### Derivations (R333, R334) -/

/-- cseta and cinc: the tag is cleared when the new cursor is not representable. -/
def capMoveCursor (c : Cap) (a : Word) : Cap :=
  if capRepresentable c a then capWithCursor c a else capUntag (capWithCursor c a)

/-- The CAPT, CAPS, CAPW checks on a source (R333). -/
def capDeriveCheck (w : World) (c : Cap) : Option Nat :=
  if !c.tag then some cCAPT else if capOtype c != 0 then some cCAPS
  else if (capWorld c).toNat != w.val then some cCAPW else none

/-- cbnd and cbnde: the new capability, or the aux of CAPB. -/
def capSetBounds (c : Cap) (len : Nat) (exact : Bool) : Except Nat Cap :=
  let b := (capCursor c).toNat
  let t := b + len
  if 2 ^ 64 < t then .error 3
  else match capEnc b t with
    | none => .error 3
    | some (e, b2, t2) =>
      if exact && (b2 != b || t2 != t) then .error 2
      else if b2 < capBase c || capTop c < t2 then .error 1
      else .ok (capWithBounds c e b2 t2)

/-- cgetp (R332). -/
def capInfo (c : Cap) : Word :=
  (0 : BitVec 37) ++ c.bits.extractLsb' 101 6 ++ BitVec.ofBool (capLocal c) ++ capOtype c ++ capWorld c ++ capPerm c

end Sys2Proof.Machine
end

