-- ==== Sys2Proof/Machine/Numbers.lean ====
section
/-!
DEFINITION. Number formats to the bit (R51-R72): decoding, the one rounding at the end (Encode, R63), and exact
arithmetic between. A finite value is a sign, a Nat and a binary exponent. Where a quotient or a root has no finite
binary expansion, `sticky` says that the exact magnitude lies strictly between `m * 2^e` and `(m+1) * 2^e`; the
operations that set it keep at least 60 bits in `m`, more than any destination of this part, or a magnitude below half
of every destination's smallest.
-/

namespace Sys2Proof.Machine

/-- A number on its way between two encodings (R51, R65). -/
inductive Num where
  | nan
  | inf (neg : Bool)
  | fin (neg : Bool) (m : Nat) (e : Int) (sticky : Bool)
deriving DecidableEq, Repr

/-- Positive zero. -/
def Num.zero : Num := .fin false 0 0 false
/-- One. -/
def Num.one : Num := .fin false 1 0 false
/-- An integer as a number. -/
def Num.ofInt (i : Int) : Num := .fin (i < 0) i.natAbs 0 false

/-- The sign of a number; a NaN counts as positive. -/
def Num.isNeg : Num → Bool
  | .nan => false
  | .inf n => n
  | .fin n _ _ _ => n
/-- Whether a number is zero of either sign. -/
def Num.isZero : Num → Bool
  | .fin _ m _ _ => m == 0
  | _ => false
def Num.isNan : Num → Bool
  | .nan => true
  | _ => false
def Num.isInf : Num → Bool
  | .inf _ => true
  | _ => false
def Num.isFin : Num → Bool
  | .fin .. => true
  | _ => false
def Num.neg : Num → Num
  | .nan => .nan
  | .inf n => .inf (!n)
  | .fin n m e s => .fin (!n) m e s
def Num.abs : Num → Num
  | .nan => .nan
  | .inf _ => .inf false
  | .fin _ m e s => .fin false m e s

/-- The five rounding modes (R62). -/
inductive Rm where
  | rne | rtz | rdn | rup | rna
deriving DecidableEq, Repr

/-- The mode of a code of R38 other than 0, 6 and 7. -/
def Rm.ofCode (c : Nat) : Rm :=
  if c == 2 then .rtz else if c == 3 then .rdn else if c == 4 then .rup else if c == 5 then .rna else .rne

/-- Flags in the bit order of FSTAT (R68). -/
abbrev Flags := BitVec 5
def fNV : Flags := 16
def fDZ : Flags := 8
def fOF : Flags := 4
def fUF : Flags := 2
def fNX : Flags := 1

/-- Formats (R37, R52, R57, R61). -/
inductive Fmt where
  | f32 | bf16 | f16 | e5m2 | e4m3 | f4 | t8 | t6
  | int (signed : Bool) (w : Nat)
deriving DecidableEq, Repr

/-- What the top exponent code of a float format means (R52). -/
inductive TopCode where
  | ieee      -- F = 0 infinity, else NaN
  | oneNan    -- only the all-ones code is NaN
  | finite
deriving DecidableEq, Repr

/-- The layout of a binary float format (R52): exponent width, fraction width, bias, top code. -/
structure FloatP where
  eb : Nat
  fb : Nat
  bias : Nat
  top : TopCode
deriving DecidableEq, Repr

/-- The float layout of a format under a reading of the top code (R52, R53); none for tapered and integer formats. -/
def Fmt.float (f : Fmt) (tcx : Bool) : Option FloatP :=
  match f with
  | .f32 => some ⟨8, 23, 127, .ieee⟩
  | .bf16 => some ⟨8, 7, 127, .ieee⟩
  | .f16 => some ⟨5, 10, 15, .ieee⟩
  | .e5m2 => some ⟨5, 2, 15, if tcx then .finite else .ieee⟩
  | .e4m3 => some ⟨4, 3, 7, if tcx then .finite else .oneNan⟩
  | .f4 => some ⟨2, 1, 1, .finite⟩
  | .t8 | .t6 | .int _ _ => none

/-- The width in bits of a code. -/
def Fmt.width : Fmt → Nat
  | .f32 => 32
  | .bf16 | .f16 => 16
  | .e5m2 | .e4m3 | .t8 => 8
  | .t6 => 6
  | .f4 => 4
  | .int _ w => w

def Fmt.isInt : Fmt → Bool
  | .int _ _ => true
  | _ => false

/-- The format of a type code; `isp` gives the reading of code 0xF (R37). -/
def Fmt.ofCode (t isp : BitVec 4) : Fmt :=
  match t.toNat with
  | 0 => .int true 8
  | 1 => .int true 16
  | 2 => .int true 32
  | 3 => .int true 64
  | 4 => .int false 8
  | 5 => .int false 16
  | 6 => .int false 32
  | 7 => .int false 64
  | 8 => .f32
  | 9 => .bf16
  | 10 => .f16
  | 11 => .e4m3
  | 12 => .e5m2
  | 13 => .t8
  | 14 => .t6
  | _ => match (isp &&& 3).toNat with
    | 1 => .int true 4
    | 2 => .int false 4
    | _ => .f4

/-! ### Decoding -/

/-- The value of a float code (R52). -/
def FloatP.decode (p : FloatP) (c : Nat) : Num :=
  let s := c / 2 ^ (p.eb + p.fb) % 2 == 1
  let e := c / 2 ^ p.fb % 2 ^ p.eb
  let f := c % 2 ^ p.fb
  let topE := 2 ^ p.eb - 1
  if e == topE && p.top == .ieee then (if f == 0 then .inf s else .nan)
  else if e == topE && p.top == .oneNan && f == 2 ^ p.fb - 1 then .nan
  else if e == 0 then .fin s f (1 - (p.bias : Int) - p.fb) false
  else .fin s (2 ^ p.fb + f) ((e : Int) - p.bias - p.fb) false

/-- The length of the run of bits equal to `q` from bit `i` down (R57). -/
def runLen (body : Nat) (q : Nat) : Nat → Nat
  | 0 => 0
  | i + 1 => if body / 2 ^ i % 2 == q then 1 + runLen body q i else 0

/-- The magnitude of a nonzero tapered body of `n` bits as a Nat and an exponent (R57). -/
def taperMag (n body : Nat) : Nat × Int :=
  let q := body / 2 ^ (n - 1) % 2
  let m := runLen body q n
  let k : Int := if q == 1 then (m : Int) - 1 else -(m : Int)
  let w := n - m - 1
  let e : Nat := if 1 ≤ w then body / 2 ^ (w - 1) % 2 else 0
  let fw := w - 1
  (2 ^ fw + body % 2 ^ fw, 2 * k + e - fw)

/-- Tapered decode (R57). -/
def taperDecode (n c : Nat) : Num :=
  let s := c / 2 ^ n % 2 == 1
  let body := c % 2 ^ n
  if body == 0 then (if s then .nan else .zero)
  else .fin s (taperMag n body).1 (taperMag n body).2 false

/-- The value of an integer code (R61). -/
def intDecode (signed : Bool) (w c : Nat) : Int :=
  let v := c % 2 ^ w
  if signed && 2 ^ (w - 1) ≤ v then (v : Int) - 2 ^ w else v

/-- The number a code of a format stands for (R52, R57, R61). Bits above the code's width are ignored. -/
def Fmt.decode (f : Fmt) (tcx : Bool) (c : Nat) : Num :=
  match f with
  | .t8 => taperDecode 7 c
  | .t6 => taperDecode 5 c
  | .int sg w => .ofInt (intDecode sg w c)
  | .f4 => if c % 16 == 8 then .fin true 0 0 false else FloatP.decode ⟨2, 1, 1, .finite⟩ c
  | _ => match f.float tcx with
    | some p => p.decode c
    | none => .nan

/-! ### Rounding -/

/-- The number of bits of a Nat; 0 for 0. -/
def bitLen (m : Nat) : Nat := if m == 0 then 0 else Nat.log2 m + 1

/-- Round the magnitude `m * 2^e` (and a bit more when `sticky`) to a multiple of `2^q` (R62): the multiple, and
whether it differs from the exact value. -/
def roundAt (rm : Rm) (neg : Bool) (m : Nat) (e : Int) (sticky : Bool) (q : Int) : Nat × Bool :=
  if q ≤ e then (m * 2 ^ (e - q).toNat, sticky)
  else
    let d := (q - e).toNat
    let r := m / 2 ^ d
    let rest := m % 2 ^ d
    let half := 2 ^ (d - 1)
    let inexact := rest != 0 || sticky
    let up := match rm with
      | .rne => half < rest || (rest == half && (sticky || r % 2 == 1))
      | .rtz => false
      | .rdn => neg && inexact
      | .rup => !neg && inexact
      | .rna => half ≤ rest
    (if up then r + 1 else r, inexact)

/-- Order of two magnitudes `m1 * 2^e1` and `m2 * 2^e2`. -/
def cmpMag (m1 : Nat) (e1 : Int) (m2 : Nat) (e2 : Int) : Ordering :=
  let e := min e1 e2
  compare (m1 * 2 ^ (e1 - e).toNat) (m2 * 2 ^ (e2 - e).toNat)

/-- The largest finite code of a float layout, without sign (R52). -/
def FloatP.maxCode (p : FloatP) : Nat :=
  match p.top with
  | .ieee => (2 ^ p.eb - 1) * 2 ^ p.fb - 1
  | .oneNan => 2 ^ (p.eb + p.fb) - 2
  | .finite => 2 ^ (p.eb + p.fb) - 1

/-- The canonical NaN code of a float layout that has one (R64). -/
def FloatP.nanCode (p : FloatP) : Nat :=
  match p.top with
  | .ieee => (2 ^ p.eb - 1) * 2 ^ p.fb + 2 ^ (p.fb - 1)
  | .oneNan => 2 ^ (p.eb + p.fb) - 1
  | .finite => 0

/-- A code with the sign bit above it. -/
def withSign (neg : Bool) (signBit c : Nat) : Nat := if neg then 2 ^ signBit + c else c

/-- Rows of R63 and rounding for a float destination. -/
def FloatP.encode (p : FloatP) (rm : Rm) (sat : Bool) (x : Num) : Nat × Flags :=
  let sb := p.eb + p.fb
  match x with
  | .nan => if p.top == .finite then (p.maxCode, fNV) else (p.nanCode, 0)
  | .inf n =>
    if sat then (withSign n sb p.maxCode, 0)
    else match p.top with
      | .ieee => (withSign n sb ((2 ^ p.eb - 1) * 2 ^ p.fb), 0)
      | .oneNan => (p.nanCode, fNV)
      | .finite => (withSign n sb p.maxCode, fNV)
  | .fin n m e st =>
    if m == 0 then (withSign n sb 0, 0)
    else
      let eTop := e + bitLen m - 1
      let qMin : Int := 1 - (p.bias : Int) - p.fb
      let qFree := eTop - p.fb
      let q := max qFree qMin
      let (r, inexact) := roundAt rm n m e st q
      let c := r + (q - qMin).toNat * 2 ^ p.fb
      if p.maxCode < c then
        let inf := (2 ^ p.eb - 1) * 2 ^ p.fb
        let c' :=
          if sat then withSign n sb p.maxCode
          else match p.top with
            | .ieee => withSign n sb (match rm with
              | .rne | .rna => inf
              | .rtz => p.maxCode
              | .rdn => if n then inf else p.maxCode
              | .rup => if n then p.maxCode else inf)
            | .oneNan => p.nanCode
            | .finite => withSign n sb p.maxCode
        (c', fOF ||| fNX)
      else
        let tiny := qFree < qMin &&
          (qFree + 1 < qMin || (roundAt rm n m e st qFree).1 < 2 ^ (p.fb + 1))
        (withSign n sb c, if inexact then (if tiny then fNX ||| fUF else fNX) else 0)

/-- The largest body whose value is at most the magnitude, found from the top bit down (R60). -/
def taperBelow (n m : Nat) (e : Int) : Nat → Nat → Nat
  | 0, c => c
  | i + 1, c =>
    let c' := c + 2 ^ i
    let v := taperMag n c'
    if cmpMag v.1 v.2 m e != .gt then taperBelow n m e i c' else taperBelow n m e i c

/-- Encoding into a tapered format (R60, R63). -/
def taperEncode (n : Nat) (sat : Bool) (x : Num) : Nat × Flags :=
  let maxB := 2 ^ n - 1
  match x with
  | .nan => (2 ^ n, 0)
  | .inf s => if sat then (withSign s n maxB, 0) else (2 ^ n, fNV)
  | .fin s m e st =>
    if m == 0 then (0, 0)
    else
      let (mx, ex) := taperMag n maxB
      let (mn, en) := taperMag n 1
      let above := match cmpMag m e mx ex with
        | .gt => true
        | .eq => st
        | .lt => false
      if above then (withSign s n maxB, fOF ||| fNX)
      else if cmpMag m e mn en == .lt then
        if cmpMag m (e + 1) mn en == .lt then (0, fUF ||| fNX) else (withSign s n 1, fUF ||| fNX)
      else
        let c := taperBelow n m e n 0
        let (lm, le) := taperMag n c
        if cmpMag m e lm le == .eq && !st then (withSign s n c, 0)
        else
          let (hm, he) := taperMag n (c + 1)
          let q := min le he
          let sum := lm * 2 ^ (le - q).toNat + hm * 2 ^ (he - q).toNat
          let up := match cmpMag m (e + 1) sum q with
            | .gt => true
            | .eq => st || c % 2 == 1
            | .lt => false
          (withSign s n (if up then c + 1 else c), fNX)

/-- The largest and the smallest integer of an integer format (R61). -/
def intMax (signed : Bool) (w : Nat) : Int := if signed then 2 ^ (w - 1) - 1 else 2 ^ w - 1
def intMin (signed : Bool) (w : Nat) : Int := if signed then -2 ^ (w - 1) else 0

/-- The `w`-bit code of an integer modulo 2^w (R61). -/
def intCode (w : Nat) (i : Int) : Nat := (i % 2 ^ w).toNat

/-- Encoding into an integer format (R62, R63). -/
def intEncode (signed : Bool) (w : Nat) (rm : Rm) (sat : Bool) (x : Num) : Nat × Flags :=
  match x with
  | .nan => (intCode w (intMax signed w), fNV)
  | .inf n => (intCode w (if n then intMin signed w else intMax signed w), if sat then 0 else fNV)
  | .fin n m e st =>
    let (r, inexact) := roundAt rm n m e st 0
    let i : Int := if n then -(r : Int) else r
    if intMax signed w < i then (intCode w (if sat then intMax signed w else i), fNV)
    else if i < intMin signed w then (intCode w (if sat then intMin signed w else i), fNV)
    else (intCode w i, if inexact then fNX else 0)

/-- Encode(fmt, value, rm, sat) of R63. -/
def Fmt.encode (f : Fmt) (tcx : Bool) (rm : Rm) (sat : Bool) (x : Num) : Nat × Flags :=
  match f with
  | .t8 => taperEncode 7 sat x
  | .t6 => taperEncode 5 sat x
  | .int sg w => intEncode sg w rm sat x
  | .f4 =>
    let (c, fl) := FloatP.encode ⟨2, 1, 1, .finite⟩ rm sat x
    (if c % 8 == 0 then 0 else c, fl)
  | _ => match f.float tcx with
    | some p => p.encode rm sat x
    | none => (0, 0)

/-! ### Exact arithmetic -/

/-- A signed dyadic as an integer multiple of `2^q`, for `q` at most its exponent. -/
def dyadInt (n : Bool) (m : Nat) (e q : Int) : Int :=
  let v : Int := (m * 2 ^ (e - q).toNat : Nat)
  if n then -v else v

/-- Exact sum (R62 for the sign of a zero sum); NV for the sum of opposite infinities. -/
def Num.add (rm : Rm) (x y : Num) : Num × Flags :=
  match x, y with
  | .nan, _ => (.nan, 0)
  | _, .nan => (.nan, 0)
  | .inf a, .inf b => if a == b then (.inf a, 0) else (.nan, fNV)
  | .inf a, .fin .. => (.inf a, 0)
  | .fin .., .inf b => (.inf b, 0)
  | .fin n1 m1 e1 s1, .fin n2 m2 e2 s2 =>
    if m1 == 0 && m2 == 0 then (.fin (if n1 == n2 then n1 else rm == .rdn) 0 0 false, 0)
    else if m1 == 0 then (.fin n2 m2 e2 s2, 0)
    else if m2 == 0 then (.fin n1 m1 e1 s1, 0)
    else
      let q := min e1 e2
      let v := dyadInt n1 m1 e1 q + dyadInt n2 m2 e2 q
      if v == 0 then (.fin (rm == .rdn) 0 0 false, 0)
      else (.fin (v < 0) v.natAbs q (s1 || s2), 0)

/-- Exact product; NV for zero times infinity (R66). -/
def Num.mul (x y : Num) : Num × Flags :=
  match x, y with
  | .nan, _ => (.nan, 0)
  | _, .nan => (.nan, 0)
  | .inf a, .inf b => (.inf (a != b), 0)
  | .inf a, .fin n m _ _ => if m == 0 then (.nan, fNV) else (.inf (a != n), 0)
  | .fin n m _ _, .inf b => if m == 0 then (.nan, fNV) else (.inf (n != b), 0)
  | .fin n1 m1 e1 s1, .fin n2 m2 e2 s2 => (.fin (n1 != n2) (m1 * m2) (e1 + e2) (s1 || s2), 0)

/-- Exact product and sum, rounded by nobody (R84). -/
def Num.fma (rm : Rm) (x y z : Num) : Num × Flags :=
  let (p, f1) := x.mul y
  let (r, f2) := p.add rm z
  (r, f1 ||| f2)

/-- Quotient with at least 64 bits and every bit of its integer part, and a sticky bit (R66: DZ, NV): an integer
destination without SAT keeps the rounded integer modulo 2^w (R63). -/
def Num.div (x y : Num) : Num × Flags :=
  match x, y with
  | .nan, _ => (.nan, 0)
  | _, .nan => (.nan, 0)
  | .inf _, .inf _ => (.nan, fNV)
  | .inf a, .fin n _ _ _ => (.inf (a != n), 0)
  | .fin n _ _ _, .inf b => (.fin (n != b) 0 0 false, 0)
  | .fin n1 m1 e1 _, .fin n2 m2 e2 _ =>
    if m2 == 0 then (if m1 == 0 then (.nan, fNV) else (.inf (n1 != n2), fDZ))
    else if m1 == 0 then (.fin (n1 != n2) 0 0 false, 0)
    else
      let k := 64 + bitLen m2 + (e1 - e2).toNat
      let a := m1 * 2 ^ k
      (.fin (n1 != n2) (a / m2) (e1 - e2 - k) (a % m2 != 0), 0)

/-- The integer square root of `a`, found bit by bit from bit `i - 1` down on top of `r`. -/
def isqrtFrom (a : Nat) : Nat → Nat → Nat
  | 0, r => r
  | i + 1, r =>
    let r' := r + 2 ^ i
    if r' * r' ≤ a then isqrtFrom a i r' else isqrtFrom a i r

/-- The integer square root. -/
def isqrt (a : Nat) : Nat := isqrtFrom a (bitLen a / 2 + 1) 0

/-- Square root with at least 64 bits and a sticky bit; NV below zero (R66). -/
def Num.sqrt (x : Num) : Num × Flags :=
  match x with
  | .nan => (.nan, 0)
  | .inf n => if n then (.nan, fNV) else (.inf false, 0)
  | .fin n m e _ =>
    if m == 0 then (.fin n 0 0 false, 0)
    else if n then (.nan, fNV)
    else
      let k : Nat := if e % 2 == 0 then 128 else 129
      let a := m * 2 ^ k
      let r := isqrt a
      (.fin false r ((e - k) / 2) (r * r != a), 0)

/-- Order of two numbers that are no NaN; zeros of either sign are equal. -/
def Num.cmp (x y : Num) : Ordering :=
  match x, y with
  | .nan, _ => .eq
  | _, .nan => .eq
  | .inf a, .inf b => if a == b then .eq else if a then .lt else .gt
  | .inf a, .fin .. => if a then .lt else .gt
  | .fin .., .inf b => if b then .gt else .lt
  | .fin n1 m1 e1 _, .fin n2 m2 e2 _ =>
    let q := min e1 e2
    compare (dyadInt n1 m1 e1 q) (dyadInt n2 m2 e2 q)

/-- RoundUp_E4M3 (R72): the smallest e4m3 code that is at least the value. -/
def roundUpE4m3 (tcx : Bool) (x : Num) : Nat × Flags :=
  match x with
  | .fin _ 0 _ _ => (1, 0)
  | .inf false => (if tcx then 0x7F else 0x7E, fOF ||| fNX)
  | _ => Fmt.encode .e4m3 tcx .rup true x

end Sys2Proof.Machine
end

