-- ==== Sys2Proof/Machine/Elem.lean ====
section
/-!
DEFINITION. What one element operation computes, for a scalar register and for a vector lane alike: the integer group
(R73-R81), the float operations (R84-R87) and the order of floats for minima and maxima (R85).
-/

namespace Sys2Proof.Machine

/-! ### Integers (R73) -/

/-- An integer type: signedness and width. -/
structure IntTy where
  signed : Bool
  w : Nat
deriving DecidableEq, Repr

/-- The integer type of a type code 0x0-0x7 (R37). -/
def IntTy.ofCode (t : BitVec 4) : IntTy :=
  ⟨t.toNat < 4, match t.toNat % 4 with
    | 0 => 8
    | 1 => 16
    | 2 => 32
    | _ => 64⟩

/-- Rd: the low `w` bits read by the type (R73). -/
def IntTy.rd (t : IntTy) (v : Nat) : Int := intDecode t.signed t.w v

def IntTy.maxV (t : IntTy) : Int := intMax t.signed t.w
def IntTy.minV (t : IntTy) : Int := intMin t.signed t.w

/-- The `w`-bit pattern of an exact result: clamped with SAT, else modulo 2^w (R73). -/
def IntTy.reduce (t : IntTy) (sat : Bool) (v : Int) : Nat :=
  if sat then intCode t.w (max t.minV (min v t.maxV)) else intCode t.w v

/-- Ext: a `w`-bit pattern extended to 64 bits by the type (R73). -/
def IntTy.ext (t : IntTy) (c : Nat) : Word := BitVec.ofInt 64 (t.rd c)

/-- Division that truncates toward zero; all bits set for a zero divisor (R76). -/
def IntTy.divV (t : IntTy) (a b : Int) : Int :=
  if b == 0 then (if t.signed then -1 else t.maxV) else a.tdiv b

/-- Remainder with the sign of `a`; `a` for a zero divisor (R76). -/
def IntTy.remV (_ : IntTy) (a b : Int) : Int := if b == 0 then a else a.tmod b

/-- shl on a `w`-bit pattern (R77). -/
def shlPat (w a s : Nat) : Nat := if s < w then a * 2 ^ s % 2 ^ w else 0
/-- shr on a `w`-bit pattern (R77). -/
def shrPat (w a s : Nat) : Nat := if s < w then a % 2 ^ w / 2 ^ s else 0
/-- sra on a `w`-bit pattern (R77). -/
def sraPat (w a s : Nat) : Nat := intCode w (intDecode true w a / 2 ^ (min s (w - 1)))
/-- rotl on a `w`-bit pattern (R77). -/
def rotlPat (w a s : Nat) : Nat :=
  let k := s % w
  (a % 2 ^ w * 2 ^ k % 2 ^ w) + a % 2 ^ w / 2 ^ (w - k)

/-- The one bits among the low `n` (R75). -/
def popBits (v : Nat) : Nat → Nat
  | 0 => 0
  | n + 1 => v / 2 ^ n % 2 + popBits v n

/-- Leading zero bits within `w` (R75). -/
def clzPat (w a : Nat) : Nat := w - bitLen (a % 2 ^ w)

/-- The lowest set bit at or above bit `i`, looking at `n` bits; `i + n` when there is none. -/
def lowestSet (v : Nat) : Nat → Nat → Nat
  | i, 0 => i
  | i, n + 1 => if v / 2 ^ i % 2 == 1 then i else lowestSet v (i + 1) n

/-- Trailing zero bits within `w` (R75). -/
def ctzPat (w a : Nat) : Nat := lowestSet a 0 w

/-- The `n` bytes of a value in reverse order (R75). -/
def bswapPat (n a : Nat) : Nat := leNat (leBytes n a).reverse

/-- bfx (R78): the field of `len` bits (0 means 64) at `pos`, sign-extended for i64. -/
def bfxV (signed : Bool) (a pos len : Nat) : Word :=
  let len := if len == 0 then 64 else len
  let field := a / 2 ^ pos % 2 ^ len
  let n := min len (64 - pos)
  if signed then BitVec.ofInt 64 (intDecode true n field) else BitVec.ofNat 64 field

/-- bfi (R78): the low `len` bits of `a` put at `pos` of `d`. -/
def bfiV (d a : Word) (pos len : Nat) : Word :=
  let len := if len == 0 then 64 else len
  let mask := BitVec.ofNat 64 ((2 ^ len - 1) * 2 ^ pos)
  (d &&& ~~~mask) ||| ((a <<< pos) &&& mask)

/-- The conditions of R79 by SUB. -/
def intCond (sub : Nat) (a b : Int) : Bool :=
  match sub with
  | 0 => a == b
  | 1 => a != b
  | 2 => a < b
  | 3 => a ≤ b
  | 4 => b < a
  | _ => b ≤ a

/-! ### Floats (R84-R87) -/

/-- What an element operation runs under: destination format, reading of the top code, rounding, SAT. -/
structure FpEnv where
  tcx : Bool
  rm : Rm
  sat : Bool
deriving DecidableEq, Repr

/-- Round once and add the flags of the operation (R84). -/
def FpEnv.fin (e : FpEnv) (f : Fmt) (r : Num × Flags) : Nat × Flags :=
  let (c, fl) := f.encode e.tcx e.rm e.sat r.1
  (c, r.2 ||| fl)

def flAdd (e : FpEnv) (f : Fmt) (a b : Nat) : Nat × Flags :=
  e.fin f (Num.add e.rm (f.decode e.tcx a) (f.decode e.tcx b))
def flSub (e : FpEnv) (f : Fmt) (a b : Nat) : Nat × Flags :=
  e.fin f (Num.add e.rm (f.decode e.tcx a) (f.decode e.tcx b).neg)
def flMul (e : FpEnv) (f : Fmt) (a b : Nat) : Nat × Flags :=
  e.fin f (Num.mul (f.decode e.tcx a) (f.decode e.tcx b))
def flFma (e : FpEnv) (f : Fmt) (a b c : Nat) : Nat × Flags :=
  e.fin f (Num.fma e.rm (f.decode e.tcx a) (f.decode e.tcx b) (f.decode e.tcx c))
def flFms (e : FpEnv) (f : Fmt) (a b c : Nat) : Nat × Flags :=
  e.fin f (Num.fma e.rm (f.decode e.tcx a) (f.decode e.tcx b) (f.decode e.tcx c).neg)
def flDiv (e : FpEnv) (f : Fmt) (a b : Nat) : Nat × Flags :=
  e.fin f (Num.div (f.decode e.tcx a) (f.decode e.tcx b))
def flSqrt (e : FpEnv) (f : Fmt) (a : Nat) : Nat × Flags := e.fin f (f.decode e.tcx a).sqrt

/-- The canonical NaN of a format that has one (R64). -/
def Fmt.canonNan (f : Fmt) (tcx : Bool) : Nat := (f.encode tcx .rne false .nan).1

/-- Below in the order of R85: minus zero is below plus zero. -/
def Num.below (x y : Num) : Bool :=
  match Num.cmp x y with
  | .lt => true
  | .eq => x.isNeg && !y.isNeg
  | .gt => false

/-- fmin of R85 on codes: one operand unchanged. -/
def flMin (e : FpEnv) (f : Fmt) (a b : Nat) : Nat :=
  let x := f.decode e.tcx a
  let y := f.decode e.tcx b
  if x.isNan && y.isNan then f.canonNan e.tcx
  else if x.isNan then b else if y.isNan then a
  else if y.below x then b else a

/-- fmax of R85 on codes. -/
def flMax (e : FpEnv) (f : Fmt) (a b : Nat) : Nat :=
  let x := f.decode e.tcx a
  let y := f.decode e.tcx b
  if x.isNan && y.isNan then f.canonNan e.tcx
  else if x.isNan then b else if y.isNan then a
  else if x.below y then b else a

/-- The conditions of R86 by SUB, and NV. -/
def flCond (sub : Nat) (x y : Num) : Bool × Flags :=
  let un := x.isNan || y.isNan
  let c := Num.cmp x y
  match sub with
  | 0 => (!un && c == .eq, 0)
  | 1 => (un || c != .eq, 0)
  | 2 => (!un && c == .lt, if un then fNV else 0)
  | 3 => (!un && c != .gt, if un then fNV else 0)
  | 4 => (!un && c == .gt, if un then fNV else 0)
  | 5 => (!un && c != .lt, if un then fNV else 0)
  | 6 => (un, 0)
  | _ => (!un, 0)

/-- Whether a code of a binary float format is a nonzero subnormal (R52). -/
def Fmt.isSubnormal (f : Fmt) (tcx : Bool) (c : Nat) : Bool :=
  match f.float tcx with
  | some p => c / 2 ^ p.fb % 2 ^ p.eb == 0 && c % 2 ^ p.fb != 0
  | none => false

/-- The class bit of R87. -/
def flClass (f : Fmt) (tcx : Bool) (c : Nat) : Nat :=
  match f.decode tcx c with
  | .nan => if f == .t8 || f == .t6 then 9 else 8
  | .inf n => if n then 0 else 7
  | .fin n m _ _ =>
    if m == 0 then (if n then 3 else 4)
    else if f.isSubnormal tcx c then (if n then 2 else 5)
    else if n then 1 else 6

/-- Clearing the sign of a float code (R94); a NaN becomes canonical. -/
def flAbs (f : Fmt) (tcx : Bool) (c : Nat) : Nat :=
  if (f.decode tcx c).isNan then f.canonNan tcx else c % 2 ^ (f.width - 1)

/-- Inverting the sign of a float code (R94); a NaN becomes canonical. -/
def flNeg (f : Fmt) (tcx : Bool) (c : Nat) : Nat :=
  if (f.decode tcx c).isNan then f.canonNan tcx else (c + 2 ^ (f.width - 1)) % 2 ^ f.width

end Sys2Proof.Machine
end

