-- ==== Sys2Proof/Machine/Ops.lean ====
section
/-!
DEFINITION. Named operations over the state: registers of a slot, semaphores, waiting, trap records, taking a trap
and ending an instruction. `R` is the result of a piece of an instruction: a value, or why the instruction stops
together with the state it leaves.
-/

namespace Sys2Proof.Machine

/-- Why an instruction does not complete: a trap, a wait of a kind of R310, or an interlock, which is not waiting. A
wait on granules says how many (R216). -/
inductive Stop where
  | trap (f : Fail)
  | wait (kind : WaitKind) (obj : Nat) (num : Nat)
  | spin
deriving DecidableEq, Repr

/-- A piece of an instruction's work. -/
abbrev R (α : Type) := Except (Stop × State) α

/-- What a step answers. -/
abbrev Out := Host.Outcome State Fault Refusal

/-- Raise (R7): no further effect. -/
def raise {α : Type} (s : State) (cause aux addr : Nat) : R α := .error (.trap ⟨cause, aux, addr⟩, s)
/-- Raise the first failed check, if any. -/
def check (s : State) (f : Option Fail) : R Unit :=
  match f with
  | none => .ok ()
  | some f => .error (.trap f, s)
/-- Raise when a condition does not hold. -/
def guardR (s : State) (ok : Bool) (cause aux addr : Nat) : R Unit := if ok then .ok () else raise s cause aux addr
/-- Wait (R310). -/
def waitFor {α : Type} (s : State) (k : WaitKind) (obj : Nat) (num : Nat := 0) : R α := .error (.wait k obj num, s)

/-! ### Slots and registers -/

def State.slot (s : State) (i : SlotId) : Slot := s.slots[i]
/-- The slot the instruction executes in. -/
def State.sl (s : State) : Slot := s.slots[s.cur]
def State.modSlot (s : State) (i : SlotId) (f : Slot → Slot) : State :=
  { s with slots := s.slots.set i (f s.slots[i]) }
def State.modCur (s : State) (f : Slot → Slot) : State := s.modSlot s.cur f
/-- The state as an act of slot `i` finds it: that slot's registers are the ones read and written. -/
def State.onSlot (s : State) (i : SlotId) : State := { s with cur := i }
/-- The state with `w` as the word that is executed, which a trap records. -/
def State.withWord (s : State) (w : BitVec 96) : State := { s with word := w }

/-- The world of the slot. -/
def State.world (s : State) : World := s.sl.world
/-- The die of the core (R10). -/
def State.die (s : State) : Nat := s.cluster.val / 16

/-- An index within a file of `n` registers (R43: an index beyond its file is illegal). -/
def ridx (n : Nat) [NeZero n] (r : BitVec 6) : Fin n := Fin.ofNat n r.toNat

/-- A register has been written whole: its ECC holds again (R380). Files as AUX [3:0] numbers them. -/
def Slot.mended (sl : Slot) (file ix : Nat) : Slot := { sl with bad := sl.bad.filter (· != (file, ix)) }

/-- x register of a slot; x0 reads 0 (R15). -/
def Slot.rx (sl : Slot) (r : BitVec 6) : Word := if ridx 32 r = 0 then 0 else sl.x[ridx 32 r]
def Slot.wx (sl : Slot) (r : BitVec 6) (v : Word) : Slot :=
  if ridx 32 r = 0 then sl else { sl with x := sl.x.set (ridx 32 r) v }.mended 0 (ridx 32 r).val
/-- c register of a slot; c0 reads null (R15). -/
def Slot.rc (sl : Slot) (r : BitVec 6) : Cap := if ridx 32 r = 0 then Cap.null else sl.c[ridx 32 r]
/-- Write to a c register: writes to c0 and c29 are discarded (R43). -/
def Slot.wc (sl : Slot) (r : BitVec 6) (v : Cap) : Slot :=
  if ridx 32 r = 0 ∨ ridx 32 r = 29 then sl else { sl with c := sl.c.set (ridx 32 r) v }.mended 1 (ridx 32 r).val
/-- Write to c29 by the frame instructions and by wrpk (R43). -/
def Slot.wcfr (sl : Slot) (v : Cap) : Slot := { sl with c := sl.c.set 29 v }.mended 1 29
/-- k register of a slot; k0 reads all ones (R15). -/
def Slot.rk (sl : Slot) (r : BitVec 6) : Gran := if ridx 8 r = 0 then BitVec.allOnes 128 else sl.k[ridx 8 r]
def Slot.wk (sl : Slot) (r : BitVec 6) (v : Gran) : Slot :=
  if ridx 8 r = 0 then sl else { sl with k := sl.k.set (ridx 8 r) v }.mended 4 (ridx 8 r).val
/-- Predicate of a slot; p0 reads true (R15). -/
def Slot.rp (sl : Slot) (r : Nat) : Bool := r % 8 == 0 || sl.p.getLsbD (r % 8)
/-- Set bit `i` of a byte. -/
def setBit8 (b : BitVec 8) (i : Nat) (v : Bool) : BitVec 8 :=
  if v then b ||| ((1 : BitVec 8) <<< i) else b &&& ~~~((1 : BitVec 8) <<< i)
def Slot.wp (sl : Slot) (r : Nat) (v : Bool) : Slot :=
  if r % 8 == 0 then sl else { sl with p := setBit8 sl.p (r % 8) v }.mended 3 (r % 8)
/-- p7-p0 as a byte, p0 true. -/
def Slot.preds (sl : Slot) : BitVec 8 := sl.p ||| 1

def State.rx (s : State) (r : BitVec 6) : Word := s.sl.rx r
def State.rc (s : State) (r : BitVec 6) : Cap := s.sl.rc r
def State.rk (s : State) (r : BitVec 6) : Gran := s.sl.rk r
def State.rp (s : State) (r : BitVec 6) : Bool := s.sl.rp r.toNat
def State.wx (s : State) (r : BitVec 6) (v : Word) : State := s.modCur (·.wx r v)
def State.wc (s : State) (r : BitVec 6) (v : Cap) : State := s.modCur (·.wc r v)
def State.wk (s : State) (r : BitVec 6) (v : Gran) : State := s.modCur (·.wk r v)
def State.wp (s : State) (r : BitVec 6) (v : Bool) : State := s.modCur (·.wp r.toNat v)
def State.wcfr (s : State) (v : Cap) : State := s.modCur (·.wcfr v)

/-- The pc: the cursor of pcc (R28). -/
def Slot.pc (sl : Slot) : Word := capCursor sl.pcc
/-- Both guards hold (R29). -/
def Slot.guards (sl : Slot) (h : Hdr) : Bool :=
  (sl.rp (h.ga &&& 7).toNat != h.ga.getLsbD 3) && (sl.rp (h.gb &&& 7).toNat != h.gb.getLsbD 3)

/-! ### Worlds -/

def State.wst (s : State) (w : World) : WorldSt := s.worlds[w]
def State.modWorld (s : State) (w : World) (f : WorldSt → WorldSt) : State :=
  { s with worlds := s.worlds.set w (f s.worlds[w]) }

/-! ### The agenda -/

/-- An act of an engine or agent that follows from what has just happened. -/
def State.post (s : State) (i : Act) : State := { s with agenda := s.agenda ++ [i] }
/-- A unit that looks for work: one such act stands for all that are equal. Every other act is an event of its own. -/
def actLooks : Act → Bool
  | .copyChunk | .latchReload | .transformRequestExecute | .transformReservedEntry | .localRefill | .heldMessageDelivery none
  | .towDescriptorActionHeld | .sideLogAdmit | .poolGrant | .drainRowWrite => true
  | _ => false
/-- The act being performed stalls: it is tried again once something it may wait for has changed. -/
def State.stall (s : State) : State :=
  match s.act with
  | some a => if actLooks a && s.deferred.contains a then s else { s with deferred := s.deferred ++ [a] }
  | none => s
/-- Something has changed that a stalled act may have waited for: the stalled acts, which are older than those that have
arrived since, are tried again first. -/
def State.unstall (s : State) : State := { s with agenda := s.deferred ++ s.agenda, deferred := [] }
def State.notice (s : State) (n : Notice) : State := { s with notices := s.notices ++ [n] }

/-- An entry of the audit log (R355): a ring of 1,024, whose overwritten entries are counted. -/
def State.auditEntry (s : State) (fn : World) (port : Bool) (kind : BitVec 3) (addr : Nat) : State :=
  let e : Audit := ⟨s.auditSeq, fn, port, kind, BitVec.ofNat 64 addr⟩
  let full := 1024 ≤ s.auditLog.length
  { s with
    auditLog := (if full then s.auditLog.drop 1 else s.auditLog) ++ [e], auditSeq := s.auditSeq + 1,
    auditOvf := if full && s.auditOvf != BitVec.allOnes 32 then s.auditOvf + 1 else s.auditOvf }
/-- An audit notice to firmware, with its entry (R153, R304, R436). -/
def State.auditIrq (s : State) (w : World) (addr : Nat) : State := (s.notice (.audit w addr)).auditEntry w false 3 addr

/-! ### Waiters (R312, R216, R196) -/

/-- Whether a waiter of this kind and object stands ahead of `who`; an entry that `who` has for something else is no place in
this queue. -/
def aheadIn (who : Who) (kind : WaitKind) (obj : Nat) : List Waiter → Bool
  | [] => false
  | w :: ws =>
    if w.kind == kind && w.obj == obj then w.who != who else aheadIn who kind obj ws

def State.aheadOf (s : State) (who : Who) (kind : WaitKind) (obj : Nat) : Bool := aheadIn who kind obj s.waiters

/-- The key in memory of an offset in a cluster's memory. DEDUCED, safe: log 64. -/
def clKey (cl off : Nat) : Nat := 2 ^ 48 + cl * 2 ^ 22 + off
/-- The key of a cluster-local address (R189). -/
def locKey (a : Nat) : Nat := clKey (a / 2 ^ 58 % 64) (a % 2 ^ 22)
/-- The bank of a cluster-local address, numbered through the module. -/
def fifoIx (a : Nat) : Nat := a / 2 ^ 58 % 64 * 32 + a / 2 ^ 17 % 32

/-- The acts that serve those who wait where a waiter waits. -/
def Waiter.serve (w : Waiter) : List Act :=
  match w.kind with
  | .sem => [.waitsemGrant (BitVec.ofNat 8 w.obj)]
  | .full | .empty => (List.range (max w.thr 1)).map fun i => .fullEmptyServe (locKey w.obj / 16 + i)
  | .fpush | .fpop => [.fifoServe (fifoIx w.obj)]
  | .queue => [.sideLogAdmit]
  | .pool => if w.thr = 0 then [] else [.quayCoreArrival (Fin.ofNat 128 (w.thr - 1))]
  | _ => []

/-- Leave every queue; those who waited behind are served. -/
def State.leaveQueue (s : State) (who : Who) : State :=
  match s.waiters.find? (fun v => v.who == who) with
  | none => s
  | some w =>
    let rest := s.waiters.filter (fun v => v.who != who)
    { s with waiters := rest, agenda := if rest.any (fun v => v.kind == w.kind) then s.agenda ++ w.serve else s.agenda }

/-- A fibre comes home to its slot; its place at the quay core is free (R217, R275). -/
def State.goHome (s : State) (i : SlotId) : State :=
  match (s.slot i).quay with
  | none => s
  | some q =>
    let s := s.modSlot i fun sl =>
      { sl with quay := none, status := match sl.status with
                | .away _ => .ready
                | st => st }
    let s := s.unstall
    if s.waiters.any (fun w => w.kind == .pool && w.thr == q.val + 1) then s.post (.quayCoreArrival q) else s

/-- Join the queue: a restarted wait that never left keeps its place, and one for something else has left it.
DEDUCED, safe: log 50. -/
def State.joinQueue (s : State) (w : Waiter) : State :=
  if s.waiters.contains w then s
  else
    let s := s.leaveQueue w.who
    { s with waiters := s.waiters ++ [w] }

/-- The slots of the core. -/
def allSlots : List SlotId := List.finRange 16

/-- A WAITING slot becomes READY and tests its condition again at its next turn; a repetition block that waits tests
its own (R110). -/
def State.rouse (s : State) (i : SlotId) : State :=
  let s := match (s.slot i).status with
    | .waiting _ _ => if (s.slot i).restoring != RestorePh.none then s.post (.restoreUnitTake i) else s.modSlot i fun sl =>
      { sl with status := match sl.quay with
                | some q => .away q
                | none => .ready }
    | _ => s
  match (s.slot i).rep with
  | some r => if r.wait.isSome then s.post (.repetitionPass i) else s
  | none => s

/-- Whether a slot, or its repetition block, waits with a kind and object. -/
def Slot.waitsFor (sl : Slot) (p : WaitKind → Nat → Bool) : Bool :=
  (match sl.status with
    | .waiting k o => p k o
    | _ => false) ||
  (match sl.rep with
    | some r => match r.wait with
      | some (k, o) => p k o
      | none => false
    | none => false)

/-- Every slot that waits with this kind and object is roused. -/
def State.rouseAll (s : State) (p : WaitKind → Nat → Bool) : State :=
  allSlots.foldl (fun s i => if (s.slot i).waitsFor p then s.rouse i else s) s

/-! ### Trap records (R358-R360) -/

/-- Bits [63:0] of a record's first dword (R358). -/
def recHead (s : State) (sl : SlotId) (cause aux : Nat) (parked : Bool) : Word :=
  BitVec.ofNat 64 (aux % 2 ^ 32 * 2 ^ 32 + (if parked then 2 ^ 21 else 0) + s.cluster.val / 16 * 2 ^ 19 +
    s.cluster.val * 2 ^ 13 + s.core.val * 2 ^ 10 + sl.val * 2 ^ 6 + cause % 64)

def mkRec (s : State) (sl : SlotId) (f : Fail) (pc insn : Word) (parked : Bool) : TrapRec :=
  ⟨recHead s sl f.cause f.aux parked, pc, BitVec.ofNat 64 f.addr, insn⟩

/-- The supervisor, when it waits in wfs, goes on once a record is queued (R365); its yielded turns end (R369). -/
def State.wakeSup (s : State) : State :=
  let s := { s with yielding := false }
  s.modSlot 15 fun sl => if sl.status = .parked .wfs then { sl with status := .ready } else sl

/-- The records of the hold that park no slot (R359). -/
def holdCount (h : List (Option SlotId × TrapRec)) : Nat := (h.filter (·.1.isNone)).length

/-- A record enters the queue, or is held (R359). `sl` is the slot it parks. DEDUCED, safe: log 67. -/
def State.enqueueRec (s : State) (sl : Option SlotId) (r : TrapRec) : State :=
  if s.trapQ.length < 16 ∧ s.hold.isEmpty then State.wakeSup { s with trapQ := s.trapQ ++ [r] }
  else if sl.isSome ∨ holdCount s.hold < 8 then { s with hold := s.hold ++ [(sl, r)] }
  else { s with lost := if s.lost = BitVec.allOnes 32 then s.lost else s.lost + 1 }

/-- An uncorrectable error that an access has met is noted for its quay's list (R376, R377). -/
def State.sawError (s : State) (w : World) (f : Fail) : State :=
  if f.cause == cMEMERR then { s with errSeen := s.errSeen ++ [(w, f.addr)] } else s

/-- A record with PARKED 0 (R357, R372) of an access of world `w` that was made for a slot. -/
def State.postRecOf (s : State) (w : World) (sl : SlotId) (f : Fail) (pc insn : Word) : State :=
  (s.sawError w f).enqueueRec none (mkRec s sl f pc insn false)
/-- A record with PARKED 0 of a slot's own world. -/
def State.postRec (s : State) (sl : SlotId) (f : Fail) (pc insn : Word) : State :=
  s.postRecOf (s.slot sl).world sl f pc insn

/-- A semaphore has changed: those who wait on it are served by WAITSEM_GRANT (R312, R303, R319). -/
def State.semChanged (s : State) (sm : Nat) : State :=
  if s.waiters.any (fun w => w.kind == .sem && w.obj == sm) ||
      s.await.any (fun e => e.any fun e => e.kind == .sem && e.obj == sm) then s.post (.waitsemGrant (BitVec.ofNat 8 sm)) else s

/-- A semaphore takes a value. -/
def State.semSet (s : State) (sm : BitVec 8) (v : Nat) : State :=
  ({ s with sem := s.sem.set sm.toNat (BitVec.ofNat 16 v) sm.isLt } : State).semChanged sm.toNat

def State.semVal (s : State) (sm : BitVec 8) : Nat := (s.sem[sm.toNat]'sm.isLt).toNat

/-- The units the instruction's WAIT has taken are added back, clamped at 65,535 (R33). -/
def State.restoreWait (s : State) : State :=
  match s.sl.taken with
  | none => s
  | some (sm, n) =>
    (s.modCur fun sl => { sl with taken := none }).semSet sm (min (s.semVal sm + n) 65535)

/-- Bits [63:0] of the executing instruction's word. -/
def State.insn (s : State) : Word := s.word.extractLsb' 0 64

/-- A repetition block stops at its next instruction, which has taken nothing (R113, R312). -/
def State.repStop (s : State) (i : SlotId) : State :=
  match (s.slot i).rep with
  | none => s
  | some r =>
    let s := s.leaveQueue (.rep i)
    let s := match r.taken with
      | some (sm, n) => s.semSet sm (min (s.semVal sm + n) 65535)
      | none => s
    s.modSlot i fun sl => { sl with rep := some { r with wait := none, taken := none } }

/-- A trap of a slot 0-14 parks it (R357); the pc stays. -/
def State.parkTrap (s : State) (i : SlotId) (f : Fail) (pc : Word) (word : BitVec 96) : State :=
  let s := s.repStop i
  let r := mkRec s i f pc (word.extractLsb' 0 64) true
  let s := s.modSlot i fun sl =>
    { sl with
      status := .parked .trap, trapRec := some r, trapWord := word.extractLsb' 64 32, begun := false, held := none, taken := none,
      fresh := false }
  (s.leaveQueue (.slot i)).enqueueRec (some i) r

/-- A trap of slot 15 (R360): the record in FREC0-FREC3 and the pc at SVEC; a second one halts the slot. -/
def State.supTrap (s : State) (f : Fail) (pc : Word) (word : BitVec 96) : State :=
  let s := (s.leaveQueue (.slot 15)).modSlot 15 fun sl =>
    { sl with
      begun := false, held := none, taken := none
      status := match sl.status with
        | .waiting _ _ => .ready
        | st => st }
  if s.frec[0] != 0 then ({ s with supHalted := true }).notice .doubleFault
  else
    let r := mkRec s 15 f pc (word.extractLsb' 0 64) false
    let s := { s with frec := #v[r.w0, r.w1, r.w2, r.w3] }
    s.modSlot 15 fun sl => { sl with pcc := capMoveCursor sl.pcc s.svec }

/-- The answers of peers to the slot's instruction are used up. -/
def State.peerEnd (s : State) : State :=
  if s.sl.peer.isEmpty then s else s.modCur fun sl => { sl with peer := sl.peer.filter (·.eng) }

/-- Taking a trap, the one operation every trap of a slot goes through (R357-R360): the WAIT units come back, the
record is made, and the slot parks, or slot 15 goes to its entry. -/
def State.takeTrap (s : State) (f : Fail) : State :=
  let s := ((s.restoreWait.goHome s.cur).peerEnd).sawError s.world f
  if s.cur = 15 then s.supTrap f s.sl.pc s.word else s.parkTrap s.cur f s.sl.pc s.word

/-! ### Ending an instruction -/

/-- The pc moves past a 12-byte instruction (R28). -/
def State.advance (s : State) : State :=
  s.modCur fun sl => { sl with pcc := capMoveCursor sl.pcc (sl.pc + 12) }

/-- The bookkeeping of an instruction that has retired. -/
def State.retired (s : State) : State :=
  (s.leaveQueue (.slot s.cur)).peerEnd.modCur fun sl =>
    { sl with begun := false, held := none, taken := none, fresh := false, startChecks := false }

/-- Add to a semaphore; its waiters are served by WAITSEM_GRANT (R312). The Bool says it would pass 65,535. -/
def State.semAdd (s : State) (sm : BitVec 8) (n : Nat) : State × Bool :=
  (s.semSet sm (min (s.semVal sm + n) 65535), 65535 < s.semVal sm + n)

/-- The logged stores, and the reductions, of a slot's fibre that have not been performed (R222, R269); those of its engines
are not the fibre's (R258). -/
def State.slotLogs (s : State) (i : SlotId) : List LogEntry := s.sideLog.filter (·.who == .fibre (s.slot i).fib)
def State.slotUps (s : State) (i : SlotId) : List Update := s.updates.filter (·.fib == (s.slot i).fib)

/-- Every earlier store and reduction of a slot has been performed: they are visible at core scope. -/
def State.slotDone (s : State) (i : SlotId) : Bool := (s.slotLogs i).isEmpty && (s.slotUps i).isEmpty

/-- The SIG of an instruction stands until the stores and reductions before it have been performed; the slot goes on, but for
its accesses. -/
def State.holdSig (s : State) (h : Hdr) (pc : Word) (gone : Bool) : State :=
  { s with heldSigs := s.heldSigs ++
      [⟨s.cur, s.sl.fib, s.world, h.sigSm, h.sigInc, pc, s.word, gone, (s.slotLogs s.cur).map (·.num),
        (s.slotUps s.cur).map (·.num)⟩] }

/-- The SIG of an instruction of the slot, posted after it has retired, once the slot's earlier writes are visible at core
scope (R32); SEMO aux 4 when it overflows (R230). DEDUCED, unsafe: log 24. -/
def State.signal (s : State) (h : Hdr) : State :=
  if h.sigInc = 0 then s
  else if !s.slotDone s.cur then s.holdSig h s.sl.pc false
  else
    let r := s.semAdd h.sigSm h.sigInc.toNat
    if r.2 then r.1.takeTrap ⟨cSEMO, 4, h.sigSm.toNat⟩ else r.1

/-- AUX of REGERR for a semaphore: [3:0] the file, and the bits of its number that [9:4] has room for (R380).
DEDUCED, unsafe: log 92. -/
def semAux (sm : BitVec 8) : Nat := 7 + 16 * (sm.toNat % 64)

/-- A SIG that has been held is posted. When it overflows, or its semaphore has gone bad, the slot traps at the address at which
it goes on, or at its next boundary when it is parked or being restored; a fibre that has left it is not parked (R230, R380). -/
def State.postHeld (s : State) (h : HeldSig) : State :=
  let bad := s.badSem.contains h.sm
  let r := s.semAdd h.sm h.inc.toNat
  let t := if bad then s else r.1
  let f : Fail := if bad then ⟨cREGERR, semAux h.sm, 0⟩ else ⟨cSEMO, 4, h.sm.toNat⟩
  let sl := s.slot h.sl
  if !bad && !r.2 then t
  else if h.gone || sl.status == .free then t.postRec h.sl f h.pc (h.word.extractLsb' 0 64)
  else if sl.restoring != .none || (match sl.status with
      | .parked _ => true
      | _ => false) then t.modSlot h.sl fun sl => { sl with pending := sl.pending.orElse fun _ => some f }
  else ((((t.onSlot h.sl).withWord h.word).takeTrap f).onSlot s.cur).withWord s.word

/-- Logged stores and reductions, by their numbers, have all been performed. -/
def State.allDone (s : State) (logs ups : List Nat) : Bool :=
  s.sideLog.all (fun e => !logs.contains e.num && e.upd.all fun u => !ups.contains u.num) &&
    s.updates.all fun u => !ups.contains u.num

/-- Nothing that a held SIG follows is still to be performed. -/
def State.sigReady (s : State) (h : HeldSig) : Bool := s.allDone h.logs h.ups

/-- The fibre's next access waits: a SIG of an earlier instruction, or an sc store, is not yet performed (R234). -/
def State.heldBack (s : State) : Bool :=
  s.heldSigs.any (·.fib == s.sl.fib) || s.sideLog.any (fun e => e.sc && e.who == .fibre s.sl.fib) ||
    s.peerOut.any fun p => p.sc && p.fib == s.sl.fib

/-- The held SIGs that nothing holds any more are posted, in the order of their instructions. -/
def State.postSigs (s : State) : State :=
  (s.heldSigs.filter s.sigReady).foldl State.postHeld
    { s with heldSigs := s.heldSigs.filter fun h => !s.sigReady h }

/-- A signal posted by an engine for slot `sl` (R230, aux 5); one to a bad semaphore is dropped (R380). -/
def State.engineSignal (s : State) (sl : SlotId) (sm : BitVec 8) (inc : BitVec 4) (pc insn : Word) : State :=
  if inc = 0 then s
  else if s.badSem.contains sm then s.postRec sl ⟨cREGERR, semAux sm, 0⟩ pc insn
  else
    let r := s.semAdd sm inc.toNat
    if r.2 then r.1.postRec sl ⟨cSEMO, 5, sm.toNat⟩ pc insn else r.1

/-- Why an instruction stopped, made into the state that follows. A waiting instruction has passed its guards and its
WAIT, and is tried again from its own checks when it is roused. DEDUCED, safe: log 22. -/
def stopped (st : Stop) (s : State) : State :=
  match st with
  | .trap f => s.takeTrap f
  | .wait k obj n =>
    let s := s.modCur fun sl => { sl with status := .waiting k obj, begun := true }
    s.joinQueue ⟨.slot s.cur, k, obj, n⟩
  | .spin => s.modCur fun sl => { sl with begun := true }

/-- An instruction whose effects are complete in the slot: SIG, then the next instruction (R31, R32). -/
def finish (h : Hdr) (body : State → R State) (s : State) : Out :=
  match body s with
  | .ok s => .next ((s.retired.advance).signal h)
  | .error (st, s) => .next (stopped st s)

/-- An instruction that has set the pc itself (R44). -/
def finishJump (h : Hdr) (body : State → R State) (s : State) : Out :=
  match body s with
  | .ok s => .next (s.retired.signal h)
  | .error (st, s) => .next (stopped st s)

/-- An instruction that has handed its work, and its SIG, to an engine (R32). -/
def finishHanded (body : State → R State) (s : State) : Out :=
  match body s with
  | .ok s => .next s.retired.advance
  | .error (st, s) => .next (stopped st s)

end Sys2Proof.Machine
end

