-- ==== Sys2Proof/Machine/Mem.lean ====
section
/-!
DEFINITION. Memory as bytes (R195, R197, R261), the page table (R260-R267) and what a write does besides storing
bytes: tags, monitors, repairs. One list holds every byte: HBM and CXL by physical address, cluster memory from 2^48,
host memory from 2^64.
-/

namespace Sys2Proof.Machine

/-! ### Bytes -/

/-- What an unlisted address reads as: device memory is zeroed (R382). DESIGN CHOICE, unsafe: log 7. -/
def unlisted : Byte := 0

/-- The byte at an address of a rising list. -/
def cellGet : List Host.Cell → Nat → Byte
  | [], _ => unlisted
  | (a, b) :: t, k => if k < a then unlisted else if k = a then b else cellGet t k

/-- Store a byte, keeping the list rising and without entries equal to `unlisted`. -/
def cellSet : List Host.Cell → Nat → Byte → List Host.Cell
  | [], k, v => if v = unlisted then [] else [(k, v)]
  | (a, b) :: t, k, v =>
    if k < a then (if v = unlisted then (a, b) :: t else (k, v) :: (a, b) :: t)
    else if k = a then (if v = unlisted then t else (k, v) :: t)
    else (a, b) :: cellSet t k v

/-- The canonical form of a list of cells: addresses rise, and no entry equals `unlisted`. -/
abbrev cellsWf (m : List Host.Cell) : Prop := m.Pairwise (fun a b => a.1 < b.1) ∧ ∀ c ∈ m, c.2 ≠ unlisted

/-- `n` bytes from an address. -/
def cellsRead (m : List Host.Cell) (a : Nat) : Nat → List Byte
  | 0 => []
  | n + 1 => cellGet m a :: cellsRead m (a + 1) n

/-- Bytes stored from an address on. -/
def cellsWrite (m : List Host.Cell) (a : Nat) : List Byte → List Host.Cell
  | [] => m
  | b :: bs => cellsWrite (cellSet m a b) (a + 1) bs

/-- Membership in a rising list of numbers. -/
def natHas : List Nat → Nat → Bool
  | [], _ => false
  | a :: t, k => if k < a then false else if k = a then true else natHas t k
/-- Insert into a rising list of numbers. -/
def natAdd : List Nat → Nat → List Nat
  | [], k => [k]
  | a :: t, k => if k < a then k :: a :: t else if k = a then a :: t else a :: natAdd t k
/-- Remove from a rising list of numbers. -/
def natDel : List Nat → Nat → List Nat
  | [], _ => []
  | a :: t, k => if k < a then a :: t else if k = a then t else a :: natDel t k
def natSet (l : List Nat) (k : Nat) (v : Bool) : List Nat := if v then natAdd l k else natDel l k

/-- The canonical form of memory: cells, T bits and F bits. -/
abbrev Memory.wf (s : State) : Prop := cellsWf s.mem ∧ s.tags.Pairwise (· < ·) ∧ s.full.Pairwise (· < ·)

/-- The byte at a key of memory. -/
def State.byte (s : State) (k : Nat) : Byte := cellGet s.mem k
/-- `n` bytes at a key. -/
def State.bytes (s : State) (k n : Nat) : List Byte := cellsRead s.mem k n
def State.nat (s : State) (k n : Nat) : Nat := leNat (s.bytes k n)
/-! Parts of an area as read. -/
def Img.nat (m : Img) (off n : Nat) : Nat := leNat ((m.bytes.drop off).take n)
def Img.cap (m : Img) (off : Nat) : Cap := ⟨m.tags.contains (off / 16), BitVec.ofNat 128 (m.nat off 16)⟩
def Img.word (m : Img) (off : Nat) : Word := BitVec.ofNat 64 (m.nat off 8)

/-- The T bit of the granule of a key (R195, R197). -/
def State.tagAt (s : State) (k : Nat) : Bool := natHas s.tags (k / 16)
/-- The F bit of the granule of a key (R195). -/
def State.fullAt (s : State) (k : Nat) : Bool := natHas s.full (k / 16)

/-- The key of a host address. -/
def hostKey (port : HostPort) (iova : Nat) : Nat :=
  2 ^ 64 * (match port with
    | .a => 1
    | .b => 2) + iova % 2 ^ 64
/-- Whether a key is of cluster memory. -/
def keyIsCl (k : Nat) : Bool := 2 ^ 48 ≤ k && k < 2 ^ 64
def keyIsHost (k : Nat) : Bool := 2 ^ 64 ≤ k

/-- The mode of a bank of a cluster (R191): 0 scratch, 1 cache, 2 FIFO, 3 scale. -/
def State.bankMode (s : State) (cl : Fin 64) (bank : Nat) : Nat :=
  (s.bmode[cl]).toNat / 2 ^ (2 * (bank % 32)) % 4

/-! ### Windows (R394) and sealed addresses (R342) -/

def winBase (e : BitVec 256) : Nat := (e.extractLsb' 0 64).toNat
def winLimit (e : BitVec 256) : Nat := (e.extractLsb' 64 64).toNat
def winRbase (e : BitVec 256) : Nat := (e.extractLsb' 128 64).toNat
def winKind (e : BitVec 256) : Nat := (e.extractLsb' 192 2).toNat
def winR (e : BitVec 256) : Bool := e.getLsbD 194
def winW (e : BitVec 256) : Bool := e.getLsbD 195
def winDev (e : BitVec 256) : Nat := (e.extractLsb' 196 8).toNat

/-- The lowest-numbered window of a world that a virtual address falls in. -/
def State.window (s : State) (w : World) (va : Nat) : Option (BitVec 256) :=
  (s.wst w).wins.toList.find? fun e => winKind e != 0 && winBase e ≤ va && va < winLimit e

/-- The port of a host window (R394). -/
def winPort (e : BitVec 256) : HostPort := if winKind e == 2 then .b else .a

/-- Where an address of a window lies beyond it. -/
def winThere (e : BitVec 256) (va : Nat) : Nat := (winRbase e + (va - winBase e)) % 2 ^ 64

/-- A world is protected (R341). -/
def State.isProt (s : State) (w : World) : Bool := (s.wst w).wseal.getLsbD 0 && w != 0

/-- An address of a protected world that is sealed (R342): a global address of HBM or CXL outside the open range. -/
def State.sealedVa (s : State) (w : World) (va : Nat) : Bool :=
  let x := (s.wst w).wseal
  s.isProt w && (s.window w va).isNone &&
    !((x.extractLsb' 9 26).toNat * 2 ^ 30 ≤ va && va < (x.extractLsb' 35 26).toNat * 2 ^ 30)

/-! ### Quays and the page table -/

/-- The quay of a virtual address on the requester's die (R198). -/
def quayOf (va : Nat) : Nat :=
  Nat.xor (va / 2 ^ 21 % 32) (Nat.xor (va / 2 ^ 26 % 32) (Nat.xor (va / 2 ^ 31 % 32) (Nat.xor (va / 2 ^ 36 % 32)
    (Nat.xor (va / 2 ^ 41 % 32) (Nat.xor (va / 2 ^ 46 % 32) (va / 2 ^ 51 % 32))))))

/-- OWN(pa) (R261). -/
def ownerOf (pa : Nat) : Nat :=
  Nat.xor (pa / 2 ^ 21 % 32) (Nat.xor (pa / 2 ^ 26 % 32) (Nat.xor (pa / 2 ^ 31 % 32) (pa / 2 ^ 36 % 2)))

/-- A physical address the machine has (R261). -/
def paValid (pa : Nat) : Bool :=
  if pa < 2 ^ 47 then pa < 2 ^ 39 && pa % 2 ^ 37 < 0x1800000000 else pa / 2 ^ 43 % 16 == 0 && pa < 2 ^ 48

/-- What a walk of the page table finds (R262-R265, R172). -/
inductive Walk where
  | malformed (aux : Nat)
  | unmapped
  | leaf (main comp : Nat)
deriving DecidableEq, Repr

def bitN (v i : Nat) : Bool := v / 2 ^ i % 2 == 1
/-- Bits [hi:lo] of a number. -/
def bitsN (v hi lo : Nat) : Nat := v / 2 ^ lo % 2 ^ (hi + 1 - lo)

/-! Fields of a leaf main word (R264). -/
def lfEF (m : Nat) : Nat := bitsN m 13 10
def lfCmp (m : Nat) : Bool := bitN m 14
def lfBG (m : Nat) : Nat := bitsN m 16 15
def lfKV (m : Nat) : Bool := bitN m 17
def lfDup (m : Nat) : Bool := bitN m 18
def lfMP (m : Nat) : Bool := bitN m 19
def lfSize (m : Nat) : Nat := bitsN m 9 8
/-- The page size in bytes. -/
def lfBytes (m : Nat) : Nat := if lfSize m == 0 then 2 ^ 16 else if lfSize m == 1 then 2 ^ 21 else 2 ^ 30
/-- The physical address of the frame. -/
def lfFrame (m : Nat) : Nat := bitsN m 54 24 * 2 ^ 16 + (if bitN m 55 then 2 ^ 47 else 0)

/-- A leaf that R265 calls malformed, at a level. -/
def leafBad (m level : Nat) : Bool :=
  bitsN m 63 56 != 0 || bitsN m 23 20 != 0 || bitN m 2 || level < 2 || lfSize m + level != 4 ||
    lfFrame m % lfBytes m != 0 || !paValid (lfFrame m) || (lfKV m && (lfSize m != 0 || lfDup m)) ||
    (lfDup m && bitN m 55)

/-- Attributes that R172 calls malformed. -/
def attrBad (m : Nat) : Bool :=
  0xB ≤ lfEF m || (lfCmp m && (lfEF m == 0 || lfEF m == 8)) || (lfBG m != 0 && !(4 ≤ lfEF m && lfEF m ≤ 8))

/-- A non-leaf that R265 calls malformed; `size` is the size of the table it names. -/
def nodeBad (m comp size : Nat) : Bool :=
  bitsN m 63 56 != 0 || bitsN m 16 2 != 0 || comp != 0 || bitsN m 55 17 * 512 % size != 0 ||
    2 ^ 39 ≤ bitsN m 55 17 * 512 || !paValid (bitsN m 55 17 * 512)

/-- The walk from a table: each level has the low bit and the width of its index, and the size of the next table
(R262). -/
def walkFrom (mem : List Host.Cell) (va : Nat) : Nat → Nat → List (Nat × Nat × Nat) → Walk
  | _, _, [] => .malformed 17
  | table, level, (lo, wd, next) :: rest =>
    let e := table + 16 * (va / 2 ^ lo % 2 ^ wd)
    let m := leNat (cellsRead mem e 8)
    let comp := leNat (cellsRead mem (e + 8) 8)
    if !bitN m 0 then .unmapped
    else if bitN m 1 then
      if leafBad m level then .malformed 17 else if attrBad m then .malformed 3 else .leaf m comp
    else if level == 4 || nodeBad m comp next then .malformed 17
    else walkFrom mem va (bitsN m 55 17 * 512) (level + 1) rest

/-- The levels of R262. -/
def walkLevels : List (Nat × Nat × Nat) :=
  [(48, 8, 8192), (39, 9, 8192), (30, 9, 8192), (21, 9, 512), (16, 5, 1)]

/-- Walk(TROOT(w), va). -/
def State.walk (s : State) (w : World) (va : Nat) : Walk :=
  walkFrom s.mem va ((s.wst w).troot.toNat / 2 ^ 12 % 2 ^ 35 * 2 ^ 12) 0 walkLevels

/-- Every well-formed leaf under a table: the address of its page and its main word. -/
def leavesFrom (mem : List Host.Cell) : Nat → Nat → Nat → List (Nat × Nat × Nat) → List (Nat × Nat)
  | _, _, _, [] => []
  | table, va, level, (lo, wd, next) :: rest =>
    (List.range (2 ^ wd)).flatMap fun i =>
      let e := table + 16 * i
      let m := leNat (cellsRead mem e 8)
      if !bitN m 0 then []
      else if bitN m 1 then (if leafBad m level then [] else [(va + i * 2 ^ lo, m)])
      else if level == 4 || nodeBad m (leNat (cellsRead mem (e + 8) 8)) next then []
      else leavesFrom mem (bitsN m 55 17 * 512) (va + i * 2 ^ lo) (level + 1) rest

/-- The pages of a world: the address and the main word of each. -/
def State.leaves (s : State) (w : World) : List (Nat × Nat) :=
  if (s.wst w).troot.getLsbD 0 then leavesFrom s.mem ((s.wst w).troot.toNat / 2 ^ 12 % 2 ^ 35 * 2 ^ 12) 0 0 walkLevels else []

/-- The address of the leaf entry that a walk ends at. -/
def leafAddrFrom (mem : List Host.Cell) (va : Nat) : Nat → List (Nat × Nat × Nat) → Option Nat
  | _, [] => none
  | table, (lo, wd, _) :: rest =>
    let e := table + 16 * (va / 2 ^ lo % 2 ^ wd)
    let m := leNat (cellsRead mem e 8)
    if !bitN m 0 then none else if bitN m 1 then some e else leafAddrFrom mem va (bitsN m 55 17 * 512) rest

def State.leafAddr (s : State) (w : World) (va : Nat) : Option Nat :=
  leafAddrFrom s.mem va ((s.wst w).troot.toNat / 2 ^ 12 % 2 ^ 35 * 2 ^ 12) walkLevels

/-! ### Translation caches (R274) -/

/-- The die at whose quays a request of this core is translated (R266): that of the quay core on which the slot's fibre
stands, or the core's own. -/
def State.reqDie (s : State) : Nat :=
  match if s.act.isNone then s.sl.quay else none with
  | some q => q.val / 32
  | none => s.die

/-- The quay that translates an address for a request of this core (R198). -/
def State.askQuay (s : State) (va : Nat) : Fin 128 := Fin.ofNat 128 (32 * s.reqDie + quayOf va)

/-- An entry covers an address of a world. -/
def TransEntry.covers (e : TransEntry) (w : World) (va : Nat) : Bool :=
  e.world == w && e.page == va / lfBytes e.main * lfBytes e.main

/-- The entry of the quay's translation cache for an address. -/
def State.cachedLeaf (s : State) (w : World) (va : Nat) : Option TransEntry :=
  s.tcache.find? fun e => e.quay == s.askQuay va && e.covers w va

/-- The leaf that a request of this core finds: the cached one, which may be older than the table, or a walk's. -/
def State.entry (s : State) (w : World) (va : Nat) : Walk :=
  match s.cachedLeaf w va with
  | some e => .leaf e.main e.comp
  | none => s.walk w va

/-- The leaf of an address enters the quay's cache; a full cache gives up its oldest entry.
DESIGN CHOICE, unsafe: log 13. -/
def State.cacheLeaf (s : State) (w : World) (va : Nat) : State :=
  if (s.cachedLeaf w va).isSome then s
  else match s.walk w va with
    | .leaf m comp =>
      let q := s.askQuay va
      let full := 4096 ≤ (s.tcache.filter (·.quay == q)).length
      let old := if full then s.tcache.eraseP (·.quay == q) else s.tcache
      { s with tcache := old ++ [⟨q, w, va / lfBytes m * lfBytes m, m, comp⟩] }
    | _ => s

/-- What an access needs of a page (R266). -/
structure Need where
  r : Bool := false
  w : Bool := false
  x : Bool := false
  /-- A tagged capability is stored. -/
  cw : Bool := false
deriving DecidableEq, Repr

/-- The outcome of Translate (R266): the physical address and the leaf, a hold, or a fault. -/
inductive Tr where
  | ok (pa main : Nat)
  | hold (why : PageReason)
  | fail (cause aux : Nat)
deriving DecidableEq, Repr

/-- The mapping of an address of a frame's page, which had no entry when it was asked for, has not ended: its rows are not yet
zero (R152). DEDUCED, unsafe: log 37. -/
def State.kvAsked (s : State) (w : World) (va : Nat) : Bool :=
  s.pageReqs.any fun q => q.absent && q.world == w && q.va ≤ va && va < q.va + q.size

/-- Translate(va) for an access of world `w` by cluster `cl`; no cluster for host and fabric accesses (R266, R267), nor for
the device's own, which use the table as it stands. -/
def State.translate (s : State) (w : World) (cl : Option Nat) (va : Nat) (n : Need) : Tr :=
  if !(s.wst w).troot.getLsbD 0 then .fail cPAGE 3
  else match if cl.isSome then s.entry w va else s.walk w va with
    | .malformed aux => .fail cPROT aux
    | .unmapped => .hold .unmapped
    | .leaf m comp =>
      let pa := lfFrame m + va % lfBytes m
      if (n.w && lfMP m) || (lfKV m && s.kvAsked w va) then .hold .unmapped
      else if pa < 2 ^ 47 && ownerOf pa != quayOf va then .hold .colour
      else if (n.r && !bitN m 3) || (n.w && !bitN m 4) || (n.x && !bitN m 5) then .fail cPROT 16
      else if n.cw && !bitN m 7 then .fail cPROT 16
      else match cl with
        | some c => if bitN comp c then .ok pa m else .fail cCGM c
        | none => .ok pa m

/-- Where a line of a slot's monitor lies now (R226, R317): in memory, or in host memory behind a window (R394). -/
def State.monKey (s : State) (w : World) (m : Mon) : Option Nat :=
  if m.loc then some (clKey (m.line / 2 ^ 58 % 64) (m.line % 2 ^ 22))
  else match s.window w m.line with
    | some e => if winKind e == 3 then none else some (hostKey (winPort e) (winThere e m.line))
    | none => match s.entry w m.line with
      | .leaf main _ => some (lfFrame main + m.line % lfBytes main)
      | _ => none

/-- A write as the monitors see it: to `[k, k + n)` of memory, or through a peer window of a world to `[va, va + n)`. -/
inductive Seen where
  | mem (k n : Nat)
  | peer (w : World) (va n : Nat)
deriving DecidableEq, Repr

/-- The bytes `[k, k + n)` meet the line at `l`. -/
def meetsLine (k n l : Nat) : Bool := k / 128 ≤ l / 128 && l / 128 ≤ (k + n - 1) / 128

/-- A write is to the line of a monitor of a world. -/
def State.monSees (s : State) (w : World) (m : Mon) : Seen → Bool
  | .mem k n => match s.monKey w m with
    | some l => meetsLine k n l
    | none => false
  | .peer v va n => v == w && !m.loc && meetsLine va n m.line

/-- The monitors of a slot after a write (R226). -/
def State.trigMons (s : State) (i : SlotId) (e : Seen) : Vector Mon 4 :=
  (s.slot i).mons.map fun m => if m.armed && s.monSees (s.slot i).world m e then { m with trig := true } else m

/-- A parked monitor after a write (R317). -/
def State.trigParked (s : State) (e : Seen) (m : ParkedMon) : ParkedMon :=
  if s.monSees m.world ⟨true, false, m.loc, m.line⟩ e then { m with trig := true } else m

/-- The slots a list names, one by one: their monitors see a write, and a parked slot is woken (R227). -/
def State.trigSlots (s : State) (e : Seen) : List SlotId → State
  | [] => s
  | i :: is =>
    let ms := s.trigMons i e
    let s' := if ms = (s.slot i).mons then s else
      let t := s.modSlot i fun sl => { sl with mons := ms }
      if (s.slot i).status = .parked .park then t.post (.parkWake i) else t
    s'.trigSlots e is

/-- A tow whose marked monitor has been triggered comes back (R319). -/
def State.trigTows (s : State) (old new : List ParkedMon) : State :=
  (new.zip old).foldl (fun s p =>
    if p.1.trig && !p.2.trig && p.1.tow != 0 then s.post (.towReturn p.1.world p.1.tow) else s) s

/-- Every monitor sees a write (R226, R317, R319). -/
def State.triggerBy (s : State) (e : Seen) : State :=
  let s := s.trigSlots e allSlots
  let q := s.quayMons.map (s.trigParked e)
  let c := s.cl.parkedMons.map (s.trigParked e)
  let s := s.trigTows (s.quayMons ++ s.cl.parkedMons) (q ++ c)
  { s with quayMons := q, cl := { s.cl with parkedMons := c } }

/-- Every monitor sees a write to `[k, k + n)`. -/
def State.trigger (s : State) (k n : Nat) : State := s.triggerBy (.mem k n)

/-- The granules of `[k, k + n)`, as byte address / 16. -/
def granules (k n : Nat) : List Nat :=
  if n == 0 then [] else (List.range ((k + n - 1) / 16 - k / 16 + 1)).map (k / 16 + ·)

/-- Clear the T bits of a list of granules. -/
def clearTags (t : List Nat) (gs : List Nat) : List Nat := gs.foldl natDel t

/-- The lines of `[k, k + n)`. -/
def linesOf (k n : Nat) : List Nat := (List.range ((k + n - 1) / 128 - k / 128 + 1)).map (k / 128 + ·)

/-! ### Bad-line lists (R376, R377, R379) -/

/-- The quay whose channels hold a physical line. -/
def lineQuay (l : Nat) : Fin 128 :=
  let pa := 128 * l
  Fin.ofNat 128 (32 * (if pa < 2 ^ 47 then pa / 2 ^ 37 % 4 else pa / 2 ^ 41 % 4) + ownerOf pa)

/-- Saturating addition of 1 to a 32-bit counter. -/
def satInc (v : BitVec 32) : BitVec 32 := if v = BitVec.allOnes 32 then v else v + 1

/-- A line that has been found bad enters its quay's list, on behalf of a world. -/
def State.listBad (s : State) (w : World) (l : Nat) : State :=
  if !s.badLines.contains l || s.blList.any (·.line == l) then s
  else
    let q := lineQuay l
    let s : State := { s with blFound := s.blFound.set q (satInc s.blFound[q]) }
    if (s.blList.filter (·.quay == q)).length < 64 then { s with blList := s.blList ++ [⟨q, l, w⟩] }
    else ({ s with blOvf := s.blOvf.set q true } : State).notice (.blOvf q)

/-- A line is bad no longer: its entry leaves the list, and firmware is told (R378). -/
def State.unlistLine (s : State) (l : Nat) : State :=
  ({ s with badLines := s.badLines.filter (· != l), blList := s.blList.filter (·.line != l) } : State).notice (.blFix l)

/-! ### Sealed lines (R197, R343, R344) -/

/-- The TAG byte of a line: bit n is the tag of its granule n. -/
def State.lineTags (s : State) (l : Nat) : Byte :=
  BitVec.ofNat 8 ((List.range 8).foldl (fun n g => if natHas s.tags (8 * l + g) then n + 2 ^ g else n) 0)

/-- What DRAM holds of a line: the ciphertext of one that has been sealed. -/
def State.dramLine (s : State) (l : Nat) : List Byte :=
  match s.seals.find? (·.line == l) with
  | some r => sealLine r.gen r.va (s.bytes (128 * l) 128)
  | none => s.bytes (128 * l) 128

/-- The metadata word of a line: MACX, ECC and TAG (R197). -/
def State.metaWord (s : State) (l : Nat) : BitVec 128 :=
  let tag := s.lineTags l
  let macx := match s.seals.find? (·.line == l) with
    | some r => r.macx
    | none => Config.eccExtension (s.dramLine l) tag
  macx ++ Config.deviceEcc (s.dramLine l) tag macx ++ tag

/-- The metadata of a line sealed under a key at a virtual line address, as the copy engine writes it. -/
def State.sealOf (s : State) (l gen va : Nat) : Seal :=
  ⟨l, gen, va, sealMac gen va (s.lineTags l) (sealLine gen va (s.bytes (128 * l) 128))⟩

/-- Sealed lines of `[k, k + n)` whose bytes or tags have changed are sealed anew. -/
def State.reseal (s : State) (k n : Nat) : State :=
  { s with seals := s.seals.map fun r => if (linesOf k n).contains r.line then s.sealOf r.line r.gen r.va else r }

/-- The seal of a line, by rising line. -/
def sealPut (r : Seal) : List Seal → List Seal
  | [] => [r]
  | q :: qs => if r.line < q.line then r :: q :: qs else if r.line = q.line then r :: qs else q :: sealPut r qs

/-- World `w` has written `[k, k + n)` of device memory at `va`: lines of sealed addresses are sealed under the world's key, with
their address as tweak; a sealed line that is written as an open one has no MAC any more. -/
def State.sealAt (s : State) (w : World) (va k n : Nat) : State :=
  if keyIsCl k || keyIsHost k || n == 0 || (s.seals.isEmpty && !s.sealedVa w va) then s
  else if s.sealedVa w va then
    (linesOf k n).foldl (fun s l =>
      { s with seals := sealPut (s.sealOf l (s.wst w).keyGen ((va + 128 * l - k) / 128)) s.seals }) s
  else
    { s with seals := s.seals.map fun r =>
        if (linesOf k n).contains r.line then
          { r with macx := Config.eccExtension (s.bytes (128 * r.line) 128) (s.lineTags r.line) }
        else r }

/-- A fill of line `l` at the address `va` of world `w` finds a MAC that does not match. A line that has not been written since
its page was made matches. -/
def State.macBad (s : State) (w : World) (va l : Nat) : Bool :=
  s.sealedVa w va && match s.seals.find? (·.line == l) with
    | some r => sealMac (s.wst w).keyGen (va / 128) (s.lineTags l) (s.dramLine l) != r.macx
    | none => false

/-! ### Writes -/

/-- A bad line or granule is repaired by a store: every byte not stored becomes zero (R378). -/
def State.repair (s : State) (k n : Nat) : State :=
  let s := ((linesOf k n).filter s.badLines.contains).foldl (fun s l =>
    ({ s with mem := cellsWrite s.mem (128 * l) (List.replicate 128 0),
              tags := clearTags s.tags (granules (128 * l) 128) } : State).unlistLine l) s
  ((granules k n).filter s.badGrans.contains).foldl (fun s g =>
    ({ s with mem := cellsWrite s.mem (16 * g) (List.replicate 16 0), tags := natDel s.tags g,
              badGrans := s.badGrans.filter (· != g) } : State).notice (.blFix (g / 8))) s

/-- Data bytes are written at a key: tags of the granules cleared, monitors triggered (R195, R213, R226, R378). -/
def State.writeBytes (s : State) (k : Nat) (bs : List Byte) : State :=
  if bs.isEmpty then s
  else
    let s := s.repair k bs.length
    let s := { s with mem := cellsWrite s.mem k bs,
                      tags := if keyIsHost k then s.tags else clearTags s.tags (granules k bs.length) }
    (s.reseal k bs.length).trigger k bs.length

/-- A range of memory becomes zero, its tags clear; its bad lines are repaired (R378), and it is as new to the engines that
seal. -/
def State.zeroRange (s : State) (k n : Nat) : State :=
  if n == 0 then s
  else
    let s := { s with mem := s.mem.filter fun c => !(k ≤ c.1 && c.1 < k + n),
                      tags := s.tags.filter fun g => !(k / 16 ≤ g && g ≤ (k + n - 1) / 16),
                      badGrans := s.badGrans.filter fun g => !(k / 16 ≤ g && g ≤ (k + n - 1) / 16),
                      seals := s.seals.filter fun r => !(k / 128 ≤ r.line && r.line ≤ (k + n - 1) / 128) }
    ((s.badLines.filter fun l => k / 128 ≤ l && l ≤ (k + n - 1) / 128).foldl State.unlistLine s).trigger k n

/-- A granule is written with its T bit (R195, R213). -/
def State.writeGran (s : State) (k : Nat) (c : Cap) : State :=
  let s := s.writeBytes k (leBytes 16 c.bits.toNat)
  if keyIsHost k then s else ({ s with tags := natSet s.tags (k / 16) c.tag } : State).reseal k 16

/-- The granule at a key with its T bit. -/
def State.readGran (s : State) (k : Nat) : Cap := ⟨s.tagAt k && !keyIsHost k, BitVec.ofNat 128 (s.nat k 16)⟩

/-- The cluster-local address of a key of cluster memory. -/
def keyLoc (k : Nat) : Nat := (k - 2 ^ 48) / 2 ^ 22 * 2 ^ 58 + k % 2 ^ 22

/-- Whether a waiter waits on granule `g`: it waits on `thr` granules from its object on (R216). -/
def Waiter.onGranule (w : Waiter) (g : Nat) : Bool :=
  (w.kind == .full || w.kind == .empty) && locKey w.obj / 16 ≤ g && g < locKey w.obj / 16 + max w.thr 1

/-- Whether an await entry waits on granule `g` (R303, R319). -/
def AwaitEntry.onGranule (e : AwaitEntry) (g : Nat) : Bool :=
  (e.kind == .full || e.kind == .empty) && locKey e.obj / 16 ≤ g && g < locKey e.obj / 16 + max e.thr 1

/-- Waiters on a granule of cluster memory are served after a change of its F bit (R216, R303). -/
def State.fullChanged (s : State) (g : Nat) : State :=
  if s.waiters.any (·.onGranule g) || s.await.any (fun e => e.any (·.onGranule g)) then s.post (.fullEmptyServe g) else s

/-- Set or clear the F bit of a granule. -/
def State.setFull (s : State) (g : Nat) (v : Bool) : State :=
  let s := { s with fullScopes := s.fullScopes.filter (·.1 != g) }
  if natHas s.full g = v then s else State.fullChanged { s with full := natSet s.full g v } g

/-- The scope of the release that set the F bit of a granule (R216): cluster, but for a reply that named a wider one. -/
def State.fullScope (s : State) (g : Nat) : Nat := ((s.fullScopes.find? (·.1 == g)).map (·.2)).getD 1

/-- An engine write of bytes: in cluster memory every granule touched becomes full (R195, R216). -/
def State.engineWrite (s : State) (k : Nat) (bs : List Byte) : State :=
  let s := s.writeBytes k bs
  if keyIsCl k then (granules k bs.length).foldl (fun s g => s.setFull g true) s else s

/-! ### FIFO banks (R196) -/

/-- The granules in a FIFO bank, by its number in the module, oldest first. -/
def State.fifo (s : State) (ix : Nat) : List Cap := ((s.fifos.find? fun p => p.1 == ix).map (·.2)).getD []

/-- The banks that hold granules, by rising number. -/
def fifosSet : List (Nat × List Cap) → Nat → List Cap → List (Nat × List Cap)
  | [], ix, l => if l.isEmpty then [] else [(ix, l)]
  | (j, m) :: t, ix, l =>
    if ix < j then (if l.isEmpty then (j, m) :: t else (ix, l) :: (j, m) :: t)
    else if ix = j then (if l.isEmpty then t else (ix, l) :: t)
    else (j, m) :: fifosSet t ix l

/-- A bank's granules change; those who wait on it are served. -/
def State.setFifo (s : State) (ix : Nat) (l : List Cap) : State :=
  ({ s with fifos := fifosSet s.fifos ix l } : State).post (.fifoServe ix)

/-- The granule of memory that holds granule `i` of a FIFO bank, the oldest being granule 0. DEDUCED, unsafe: log 45. -/
def fifoGran (ix i : Nat) : Nat := clKey (ix / 32) (ix % 32 * 2 ^ 17) / 16 + i

/-- One of the `n` oldest granules of a bank is bad. -/
def State.fifoBad (s : State) (ix n : Nat) : Bool := (List.range n).any fun i => s.badGrans.contains (fifoGran ix i)

/-- The `n` oldest granules of a bank have been taken: those behind them move up. -/
def State.fifoTaken (s : State) (ix n : Nat) : State :=
  let b := fifoGran ix 0
  let s := s.setFifo ix ((s.fifo ix).drop n)
  { s with badGrans := (s.badGrans.filter fun g => !(b ≤ g && g < b + n)).map fun g =>
      if b ≤ g && g < b + 8192 then g - n else g }

/-- Granules are put behind those of a bank; a bad granule that they fill is repaired (R378). -/
def State.fifoPut (s : State) (ix : Nat) (gs : List Cap) : State :=
  let l := s.fifo ix
  let s := ((List.range gs.length).map fun i => fifoGran ix (l.length + i)).foldl (fun s g =>
    if s.badGrans.contains g then ({ s with badGrans := s.badGrans.filter (· != g) } : State).notice (.blFix (g / 8)) else s) s
  s.setFifo ix (l ++ gs)

/-- The first line or granule of `[k, k + n)` whose data world `w` cannot read, the bytes standing at `va`: MEMERR at its first
byte that is read (R376), or SEAL at the line (R344). -/
def State.readError (s : State) (w : World) (k n va : Nat) : Option (Nat × Nat) :=
  match (granules k n).find? s.badGrans.contains with
  | some g => some (cMEMERR, va + (16 * g - k))
  | none => (linesOf k n).findSome? fun l =>
    if s.badLines.contains l then some (cMEMERR, va + (128 * l - k))
    else if s.macBad w (va + 128 * l - k) l then some (cSEAL, va + 128 * l - k) else none

end Sys2Proof.Machine
end

