-- ==== Sys2Proof/Machine/Cache.lean ====
section
/-!
DEFINITION. The caches (R199-R208, R246, R251, R271). The cluster cache holds the bytes it was filled with and may serve
them after another cluster has stored (R246); of a quay cache only the lines it holds matter, for its bytes are those of
memory, but for old copies of DUP lines. Hints, victims and credit never change a value (R188).
-/

namespace Sys2Proof.Machine

/-! ### Distances (R200, R203, R208) -/

/-- The distance of a NUD code other than 0x00 and 0xFF. -/
def nudDistance (n : BitVec 8) : Nat := ((n.extractLsb' 0 5).toNat + 32) * 2 ^ (n.extractLsb' 5 3).toNat - 32

/-- D_w of a world: DNUD of CPOL. -/
def State.worldDistance (s : State) (w : World) : Nat :=
  let n : BitVec 8 := (s.wst w).cpol.extractLsb' 0 8
  nudDistance (if n = 0 ∨ n = 0xFF then 0x30 else n)

/-- The distance of an access of a tow: a fibre without one takes D_w (R203). -/
def State.distance (s : State) (w : World) (tow : BitVec 16) (nud : BitVec 8) : Nat :=
  if tow = 0 ∨ nud = 0xFF then s.worldDistance w else if nud = 0 then 0 else nudDistance nud

/-- CWAYS and QWAYS (R208); 0 is no limit. -/
def State.cways (s : State) (w : World) : Nat := min ((s.wst w).cpol.extractLsb' 8 6).toNat 32
def State.qways (s : State) (w : World) : Nat := min ((s.wst w).cpol.extractLsb' 16 5).toNat 24

/-! ### Almanac and credit (R202, R207) -/

/-- An almanac entry is of a tow. -/
def AlmanacEntry.isOf (e : AlmanacEntry) (tow : BitVec 16) (w : World) : Bool := e.tow == tow && e.world == w

/-- A line is owned by a tow. -/
def CacheLine.ownedBy (l : CacheLine) (tow : BitVec 16) (w : World) : Bool :=
  l.world == w && match l.due with
    | .owed t _ => t == tow
    | _ => false

/-- A of a tow. -/
def Cache.clock (c : Cache) (tow : BitVec 16) (w : World) : Nat :=
  match c.almanac.toList.find? fun e => e.any (·.isOf tow w) with
  | some (some e) => e.clock
  | _ => 0

/-- The lines of an almanac entry; a free entry counts as none. -/
def Cache.entryLines (c : Cache) (i : Fin 64) : Nat :=
  match c.almanac[i] with
  | some e => (c.lines.filter (·.ownedBy e.tow e.world)).length
  | none => 0

/-- The entry that a tow has or takes: its own, the free one of lowest index, or the one with fewest lines. -/
def Cache.entryFor (c : Cache) (tow : BitVec 16) (w : World) : Fin 64 :=
  match (List.finRange 64).find? fun i => (c.almanac[i]).any (·.isOf tow w) with
  | some i => i
  | none => match (List.finRange 64).find? fun i => (c.almanac[i]).isNone with
    | some i => i
    | none => (List.finRange 64).foldl (fun b i => if c.entryLines i < c.entryLines b then i else b) 0

/-- Lines of a tow that has lost its entry become orphans. -/
def Cache.orphan (c : Cache) (e : AlmanacEntry) : Cache :=
  { c with lines := c.lines.map fun l => if l.ownedBy e.tow e.world then { l with due := .orphan } else l }

/-- An access of a tow that carries a clock value. -/
def Cache.note (c : Cache) (tow : BitVec 16) (w : World) (clk : Nat) : Cache :=
  if tow = 0 then c
  else
    let i := c.entryFor tow w
    let put := fun (c : Cache) (a : Nat) => { c with almanac := c.almanac.set i (some ⟨tow, w, a⟩) }
    match c.almanac[i] with
    | none => put c clk
    | some e => if e.isOf tow w then put c (max e.clock clk) else put (c.orphan e) clk

/-- Credit changes and saturates. -/
def Cache.earn (c : Cache) (w : World) (n : Int) : Cache :=
  { c with credit := c.credit.set w (max (-1023) (min 1023 (c.credit[w] + n))) }

/-! ### Victims (R204-R206) -/

/-- The step of R204 that a line falls under, greater first, and its measure within the step. -/
def Cache.rank (c : Cache) (l : CacheLine) : Nat × Nat :=
  match l.due with
  | .dead => (3, 0)
  | .orphan => (2, 0)
  | .owed t due =>
    let a := c.clock t l.world
    if due < a then (2, a - due) else (1, due - a)
  | .fixed d => (1, d)

/-- Line `l` is chosen before line `m`. -/
def Cache.before (c : Cache) (l m : CacheLine) : Bool :=
  let a := c.rank l
  let b := c.rank m
  if a.1 ≠ b.1 then decide (b.1 < a.1)
  else if a.2 ≠ b.2 then decide (b.2 < a.2)
  else if c.credit[l.world] ≠ c.credit[m.world] then decide (c.credit[l.world] < c.credit[m.world])
  else decide (l.way < m.way)

/-- The victim among candidates. DEDUCED, unsafe: log 18. -/
def Cache.victim (c : Cache) : List CacheLine → Option CacheLine
  | [] => none
  | l :: ls => match c.victim ls with
    | none => some l
    | some m => if c.before l m then some l else some m

/-- The line leaves; overdue and not reused, it costs its world credit. -/
def Cache.evict (c : Cache) (l : CacheLine) : Cache :=
  let c' := { c with lines := c.lines.filter fun m => !(m.way == l.way && m.line % 1024 == l.line % 1024) }
  match l.due with
  | .owed t due => if due < c.clock t l.world && !l.reused then c'.earn l.world (-4) else c'
  | _ => c'

/-! ### Touches (R203) -/

/-- An access as a cache sees it. -/
structure Touch where
  /-- The ways of the cache, rising; the quota of the world. -/
  ways : List Nat
  quota : Nat
  world : World
  tow : BitVec 16
  /-- The distance that its hint gives. -/
  dist : Nat
  line : Nat
  dirty : Bool
  data : List Byte
  tags : List Bool

/-- What the line records, the distance scaled while the world's credit is negative. -/
def Cache.record (c : Cache) (t : Touch) : Due :=
  let d := if c.credit[t.world] < 0 then 4 * t.dist else t.dist
  if t.tow = 0 then .fixed d else if d = 0 then .dead else .owed t.tow (c.clock t.tow t.world + d)

/-- A hit on a line. -/
def Cache.hit (c : Cache) (t : Touch) (l : CacheLine) : Cache :=
  let c := match l.due with
    | .owed o due => if c.clock o l.world ≤ due then c.earn t.world 1 else c
    | _ => c
  let new := { l with world := t.world, due := c.record t, reused := true, dirty := l.dirty || t.dirty }
  { c with lines := c.lines.map fun m => if m.way == l.way && m.line == l.line then new else m }

/-- The line takes a way. -/
def Cache.place (c : Cache) (t : Touch) (way : Nat) : Cache :=
  { c with lines := c.lines ++ [⟨way, t.line, t.world, c.record t, false, t.dirty, t.data, t.tags⟩] }

/-- A fill: the lowest invalid way of the set, or a victim's. -/
def Cache.fill (c : Cache) (t : Touch) : Cache :=
  let set := c.lines.filter fun l => l.line % 1024 == t.line % 1024
  match t.ways.find? fun y => !set.any (·.way == y) with
  | some y => c.place t y
  | none =>
    let own := set.filter (·.world == t.world)
    match c.victim (if t.quota ≠ 0 ∧ t.quota ≤ own.length then own else set) with
    | some l => (c.evict l).place t l.way
    | none => c

/-! ### The cluster cache -/

/-- The cache-mode banks of the cluster. -/
def State.cacheWays (s : State) : List Nat := (List.range 32).filter fun b => s.bankMode s.cluster b == 1

/-- The line of a world at an address that the cluster cache holds. DESIGN CHOICE, unsafe: log 14. -/
def State.cached (s : State) (w : World) (va : Nat) : Option CacheLine :=
  s.cl.cache.lines.find? fun l => l.line == va / 128 && l.world == w

/-- A read is served by the cluster cache. -/
def State.hits (s : State) (w : World) (h : Hint) (va : Nat) : Option CacheLine :=
  if h.served = .cache then s.cached w va else none

/-- A cache after an access at a level that applies no hint to it and fills nothing. -/
def Cache.seen (c : Cache) (sl : Slot) (w : World) : Cache := c.note sl.tow w sl.clk.toNat

def State.setCache (s : State) (c : Cache) : State := { s with cl := { s.cl with cache := c } }

/-- The line of a world that a cache holds. -/
def Cache.lineOf (c : Cache) (w : World) (va : Nat) : Option CacheLine :=
  c.lines.find? fun l => l.line == va / 128 && l.world == w

/-- An access of slot `i` as the cluster cache sees it. -/
def State.clusterTouch (s : State) (i : SlotId) (w : World) (h : Hint) (va : Nat) (data : List Byte) (tags : List Bool) :
    Touch :=
  ⟨s.cacheWays, s.cways w, w, (s.slot i).tow, s.distance w (s.slot i).tow (if h.lvl = 2 then 0xFF else h.nud), va / 128, false,
    data, tags⟩

/-- A read of slot `i` touches the cluster cache, hit or filled with a line's bytes (R201). -/
def State.touchCluster (s : State) (i : SlotId) (w : World) (h : Hint) (va : Nat) (data : List Byte)
    (tags : List Bool) : State :=
  if s.cacheWays.isEmpty || h.served != .cache then s
  else
    let c := s.cl.cache.seen (s.slot i) w
    let t := s.clusterTouch i w h va data tags
    if h.lvl = 3 then s.setCache c
    else match c.lineOf w va with
      | some l => s.setCache (c.hit t l)
      | none => s.setCache (c.fill t)

/-- A store of slot `i` to `[va, va + n)` passes the cluster cache: it allocates nothing, and the lines that it meets are touched
(R199, R203). -/
def State.storeTouch (s : State) (i : SlotId) (w : World) (h : Hint) (va n : Nat) : State :=
  if s.cacheWays.isEmpty || h.served != .cache then s
  else
    let seen := s.setCache (s.cl.cache.seen (s.slot i) w)
    if h.lvl = 3 then seen
    else (linesOf va n).foldl (fun s l =>
      let c := s.cl.cache
      match c.lineOf w (128 * l) with
      | some m => s.setCache (c.hit (s.clusterTouch i w h (128 * l) [] []) m)
      | none => s) seen

/-- The lines of a world leave the cluster cache: an acquire at die scope or wider (R199), linv and lflush (R215). -/
def State.dropWorld (s : State) (w : World) : State :=
  s.setCache { s.cl.cache with lines := s.cl.cache.lines.filter (·.world != w) }
def State.dropLine (s : State) (w : World) (va : Nat) : State :=
  s.setCache { s.cl.cache with lines := s.cl.cache.lines.filter fun l => !(l.world == w && l.line == va / 128) }
/-- Lines of banks that are no longer in cache mode are dropped (R194). -/
def State.dropBanks (s : State) : State :=
  let ways := s.cacheWays
  s.setCache { s.cl.cache with lines := s.cl.cache.lines.filter fun l => ways.contains l.way }

/-- Bytes laid over others from an offset, which may be negative. -/
def overlay (old : List Byte) (off : Int) (bs : List Byte) : List Byte :=
  old.zipIdx.map fun p => if off ≤ p.2 ∧ (p.2 : Int) < off + bs.length then bs.getD (p.2 - off).toNat 0 else p.1

/-- A store of an agent of the cluster to `[va, va + n)` updates the lines it meets in place (R199, R245): data clears
the T bits of the granules it touches; `tags` are those that whole granules from `va` on take. -/
def State.cacheStore (s : State) (w : World) (va : Nat) (bs : List Byte) (tags : List Bool) : State :=
  if s.cl.cache.lines.isEmpty || bs.isEmpty then s
  else s.setCache { s.cl.cache with lines := s.cl.cache.lines.map fun l =>
    let a := 128 * l.line
    if l.world = w ∧ a < va + bs.length ∧ va < a + 128 then
      { l with
        data := overlay l.data ((va : Int) - a) bs
        tags := l.tags.zipIdx.map fun t =>
          let g := a + 16 * t.2
          if g < va + bs.length ∧ va < g + 16 then decide (va ≤ g) && tags.getD ((g - va) / 16) false else t.1 }
    else l }

/-- A cached line whose memory `[key, key + n)` meets takes the bytes that stand there now. -/
def State.refreshed (s : State) (key n : Nat) (l : CacheLine) : CacheLine :=
  match s.entry l.world (128 * l.line) with
  | .leaf m _ =>
    let k := lfFrame m + 128 * l.line % lfBytes m
    if !lfCmp m && meetsLine key n k then
      { l with data := s.bytes k 128, tags := (List.range 8).map fun g => natHas s.tags (k / 16 + g) }
    else l
  | _ => l

/-- A write to `[key, key + n)` that names no address of a world, by an agent of the cluster, updates the cached lines that it
meets (R245). -/
def State.cacheRefresh (s : State) (key n : Nat) : State :=
  if s.cl.cache.lines.isEmpty || n == 0 then s
  else s.setCache { s.cl.cache with lines := s.cl.cache.lines.map (s.refreshed key n) }

/-- The T bits of the cluster cache are cleared with those of memory: those of the capabilities `f` names (R337, R383). -/
def State.sweepCache (s : State) (f : Cap → Bool) : State :=
  s.setCache { s.cl.cache with lines := s.cl.cache.lines.map fun l =>
    { l with tags := l.tags.zipIdx.map fun t =>
        t.1 && !f ⟨true, BitVec.ofNat 128 (leNat ((l.data.drop (16 * t.2)).take 16))⟩ } }

/-- What a function-level reset leaves of a world in the caches (R207, R383). -/
def Cache.forget (c : Cache) (w : World) : Cache :=
  { lines := c.lines.filter (·.world != w), almanac := c.almanac.map fun e => e.filter (·.world != w),
    credit := c.credit.set w 0 }
def State.forgetCaches (s : State) (w : World) : State :=
  ({ s with quays := s.quays.map (·.forget w) } : State).setCache (s.cl.cache.forget w)

/-! ### The quay caches (R199, R201, R271) -/

/-- The die of a physical address (R261). -/
def dieOf (pa : Nat) : Nat := if pa < 2 ^ 47 then pa / 2 ^ 37 % 4 else pa / 2 ^ 41 % 4

/-- The ways of a quay cache. -/
def quayWays : List Nat := List.range 24

/-- An access of slot `i` to the line of a key reaches the quay cache `q`. At level 0b01 the line is dead there. A DUP copy
that is evicted is no longer held by its die; a dirty line that is evicted and found bad is listed (R376). -/
def State.touchQuay (s : State) (i : SlotId) (w : World) (h : Hint) (q : Fin 128) (key : Nat) (dirty : Bool) : State :=
  let sl := s.slot i
  let c := (s.quays[q]).seen sl w
  let t : Touch := ⟨quayWays, s.qways w, w, sl.tow, s.distance w sl.tow (if h.lvl = 1 then 0 else h.nud), key / 128, dirty,
    [], []⟩
  let c' := match c.lines.find? (·.line == key / 128) with
    | some l => c.hit t l
    | none => c.fill t
  let gone := c.lines.filter fun l => !c'.lines.any (·.line == l.line)
  let die : Fin 4 := Fin.ofNat 4 (q.val / 32)
  (gone.filter (·.dirty)).foldl (fun s l => s.listBad l.world l.line)
    { s with quays := s.quays.set q c',
             dupHeld := s.dupHeld.filter fun d => !(d.2 == die && gone.any (·.line == d.1)) }

/-- The quay that owns the line of a key, and the quay of the own die that its address names (R198); an engine stands on the
cluster's die. -/
def ownQuay (key va : Nat) : Fin 128 := Fin.ofNat 128 (32 * dieOf key + quayOf va)
def State.nearQuay (s : State) (va : Nat) : Fin 128 := Fin.ofNat 128 (32 * s.die + quayOf va)

/-- Accesses of slot `i` to the lines of `[key, key + n)` reach the quays that own them. -/
def State.touchQuays (s : State) (i : SlotId) (w : World) (h : Hint) (key va n : Nat) (dirty : Bool) : State :=
  if keyIsCl key || keyIsHost key || n == 0 then s
  else (linesOf key n).foldl (fun s l => s.touchQuay i w h (ownQuay key va) (128 * l) dirty) s

/-- The owning quay holds the line of a key dirty. -/
def State.dirtyAt (s : State) (key va : Nat) : Bool :=
  (s.quays[ownQuay key va]).lines.any fun l => l.line == key / 128 && l.dirty

/-- A read that feeds no instruction finds the line of a key: a dirty line that is bad is listed (R376). -/
def State.sawLine (s : State) (w : World) (key va : Nat) : State := if s.dirtyAt key va then s.listBad w (key / 128) else s

/-- The line of a key is written back to DRAM for world `w`, and stays, clean (R215). -/
def State.cleanLine (s : State) (w : World) (key va : Nat) : State :=
  let s := s.sawLine w key va
  let q := ownQuay key va
  { s with quays := s.quays.set q { s.quays[q] with
      lines := (s.quays[q]).lines.map fun l => if l.line == key / 128 then { l with dirty := false } else l } }

/-! ### Copies of DUP lines (R251, R271) -/

/-- The copy of a line leaves the quay cache of a die. -/
def State.dropCopy (s : State) (line : Nat) (die : Fin 4) : State :=
  let q : Fin 128 := Fin.ofNat 128 (32 * die.val + ownerOf (128 * line))
  { s with quays := s.quays.set q { s.quays[q] with lines := (s.quays[q]).lines.filter (·.line != line) } }

/-- The old copy of a line on this die. -/
def State.oldCopy (s : State) (key : Nat) : Option OldCopy :=
  s.dup.find? fun d => d.line == key / 128 && d.die.val == s.die

/-- A read may be served by a copy of a DUP line on the own die: the frame lies on another. -/
def State.dupNear (s : State) (h : Hint) (main key : Nat) : Bool := lfDup main && dieOf key != s.die && h.served != .owner

/-- A read of one line reaches the quays: the copy of the own die, or the owning quay, which may leave a copy there. -/
def State.readQuays (s : State) (i : SlotId) (w : World) (h : Hint) (main key va : Nat) : State :=
  let die : Fin 4 := Fin.ofNat 4 s.die
  if h.rmw then s
  else if !s.dupNear h main key then s.touchQuays i w h key va 1 false
  else if (s.oldCopy key).isSome || s.dupHeld.contains (key / 128, die) then s.touchQuay i w h (s.nearQuay va) key false
  else
    let s := (s.touchQuays i w h key va 1 false).touchQuay i w h (s.nearQuay va) key false
    { s with dupHeld := s.dupHeld ++ [(key / 128, die)] }

/-- A read that passes the cluster cache by, or the copy of the own die, sees the newest value: what they hold of the line
leaves them, so that no later read of this core goes back (R236, R241). DEDUCED, unsafe: log 70. -/
def State.dropOlder (s : State) (w : World) (h : Hint) (key va : Nat) : State :=
  if h.served = .cache then s
  else
    let s := if (s.cached w va).isSome then s.dropLine w va else s
    if h.served = .owner ∧ (s.oldCopy key).isSome then
      { s.dropCopy (key / 128) (Fin.ofNat 4 s.die) with
        dup := s.dup.filter fun d => !(d.line == key / 128 && d.die.val == s.die)
        dupAcks := s.dupAcks ++ [(key / 128, Fin.ofNat 4 s.die)]
        agenda := s.agenda ++ [.dupInvalidationAck (key / 128)] }
    else s

/-- A write to a line waits in the side log: the last invalidations of a line are not all acknowledged. -/
def State.dupBusy (s : State) (main key n : Nat) : Bool :=
  lfDup main && (s.dup.any (fun d => (linesOf key n).contains d.line) || s.dupAcks.any fun d => (linesOf key n).contains d.1)

/-- No invalidation is outstanding. -/
def State.dupQuiet (s : State) : Bool := s.dup.isEmpty && s.dupAcks.isEmpty

/-- Before a write to `[key, key + n)`: an invalidation is sent to every copy of its lines, which keeps its old value
until then. A writer of this core (`own`) never reads an older value again (R238): the copy of its own die is gone. -/
def State.dupWrite (s : State) (own : Bool) (key n : Nat) : State :=
  if keyIsCl key || s.dupHeld.isEmpty || n == 0 then s
  else
    let out := s.dupHeld.filter fun d => (linesOf key n).contains d.1
    let now := out.filter fun d => own && d.2.val == s.die
    let later := out.filter fun d => !(own && d.2.val == s.die)
    { now.foldl (fun s d => s.dropCopy d.1 d.2) s with
      dup := s.dup ++ later.map fun d =>
        ⟨d.1, d.2, s.bytes (128 * d.1) 128, (List.range 8).map fun g => natHas s.tags (8 * d.1 + g)⟩
      dupAcks := s.dupAcks ++ now
      dupHeld := s.dupHeld.filter fun d => !out.contains d
      agenda := s.agenda ++ (later.map fun d => .invalidationApplied d.1 d.2) ++ now.map fun d => .dupInvalidationAck d.1 }

/-- A store of slot `i` to a global address has been performed: the lines of the own cluster are updated, and the quays
that own them touched. DEDUCED, unsafe: log 16. -/
def State.stored (s : State) (i : SlotId) (w : World) (h : Hint) (key va : Nat) (bs : List Byte) (tags : List Bool) : State :=
  if keyIsCl key then s else ((s.cacheStore w va bs tags).storeTouch i w h va bs.length).touchQuays i w h key va bs.length true

/-! ### Reads (R246, R247, R251) -/

/-- A line's bytes and T bits as a read at the quays finds them: the old copy of the own die, or memory. -/
def State.quayLine (s : State) (h : Hint) (line : Nat) : List Byte × List Bool :=
  match if h.served = .owner then none else s.oldCopy (128 * line) with
  | some d => (d.data, d.tags)
  | none => (s.bytes (128 * line) 128, (List.range 8).map fun g => natHas s.tags (8 * line + g))

/-- Where a read finds the granule at `va`, whose key is `key`: its T bit. -/
def State.tagSeen (s : State) (w : World) (h : Hint) (key va : Nat) : Bool :=
  if keyIsCl key || keyIsHost key then s.tagAt key
  else match s.hits w h va with
    | some l => l.tags.getD (va / 16 % 8) false
    | none => (s.quayLine h (key / 128)).2.getD (key / 16 % 8) false

/-- `n` bytes of one line read by slot `i`, or the cause and address of an error. -/
def State.readLine (s : State) (i : SlotId) (w : World) (h : Hint) (key main va n : Nat) :
    Except (Nat × Nat) (List Byte × State) :=
  match s.hits w h va with
  | some l => .ok ((l.data.drop (va % 128)).take n, s.touchCluster i w h va [] [])
  | none => match s.readError w key n va with
    | some e => .error e
    | none =>
      let q := s.quayLine h (key / 128)
      let s' := (s.readQuays i w h main key va).dropOlder w h key va
      .ok ((q.1.drop (key % 128)).take n, s'.touchCluster i w h va q.1 q.2)

/-- The parts of `[va, va + n)` that lie in one line each: address and length. -/
def cutLines : Nat → Nat → Nat → List (Nat × Nat)
  | 0, _, _ => []
  | fuel + 1, va, n =>
    if n == 0 then []
    else (va, min n (128 - va % 128)) :: cutLines fuel (va + min n (128 - va % 128)) (n - min n (128 - va % 128))

/-- The parts of a read one after another; `key` is that of `va`. -/
def State.readLines (s : State) (i : SlotId) (w : World) (h : Hint) (key main va : Nat) :
    List (Nat × Nat) → Except (Nat × Nat) (List Byte × State)
  | [] => .ok ([], s)
  | (a, n) :: rest =>
    match s.readLine i w h (key + (a - va)) main a n with
    | .error e => .error e
    | .ok (bs, s) => match s.readLines i w h key main va rest with
      | .error e => .error e
      | .ok (cs, s) => .ok (bs ++ cs, s)

/-- `n` bytes of a page read by slot `i`: cluster memory at its bank, a global address through the caches.
DEDUCED, unsafe: log 17. -/
def State.readRange (s : State) (i : SlotId) (w : World) (h : Hint) (key main va n : Nat) :
    Except (Nat × Nat) (List Byte × State) :=
  if keyIsCl key then
    match s.readError w key n va with
    | some e => .error e
    | none => .ok (s.bytes key n, s)
  else s.readLines i w h key main va (cutLines (n / 128 + 2) va n)

end Sys2Proof.Machine
end

