-- ==== Sys2Proof/Machine/Access.lean ====
section
/-!
DEFINITION. The accesses of a slot (R209-R213): the checks of R210 in their order, then the bytes. A global access is
cut at 64 KiB boundaries, so that each piece lies in one page or window.
-/

namespace Sys2Proof.Machine

/-- Where a piece of an access is performed. -/
inductive Place where
  /-- At a key of memory; `main` is the leaf of a global address, 0 for cluster memory. -/
  | at (key main : Nat)
  | host (port : HostPort) (iova : Nat)
  | peer (dev : Nat) (va : Nat)
  /-- The page is not mapped. -/
  | hold
  /-- The access faults here, once it no longer holds on an earlier page. -/
  | bad (f : Fail)
deriving DecidableEq, Repr

/-- The place `d` bytes behind another. -/
def Place.behind (p : Place) (d : Nat) : Place :=
  match p with
  | .at k m => .at (k + d) m
  | .host port iova => .host port (iova + d)
  | .peer dev va => .peer dev (va + d)
  | p => p

/-- A piece of an access: where, its first address and its length. -/
structure Piece where
  place : Place
  va : Nat
  len : Nat
deriving DecidableEq, Repr

/-! ### Cluster-local addresses (R189, R190) -/

def winBaseOf (cmwin : Word) : Nat := (cmwin.extractLsb' 0 23).toNat
def winLimitOf (cmwin : Word) : Nat := (cmwin.extractLsb' 32 23).toNat

/-- The space checks of R189 and the window of R190 for `[a, a + n)`; no window for another cluster's operand. -/
def localCheck (cl : Nat) (cmwin : Word) (a n : Nat) : Option Fail :=
  if a / 2 ^ 22 % 2 ^ 36 != 0 then some ⟨cCAPB, 0, a⟩
  else if a / 2 ^ 58 != cl then some ⟨cPROT, 10, a⟩
  else
    let o := a % 2 ^ 22
    if o < winBaseOf cmwin || winLimitOf cmwin ≤ o then some ⟨cCAPB, 0, a⟩
    else if winLimitOf cmwin < o + n then some ⟨cCAPB, 0, a + (winLimitOf cmwin - o)⟩
    else none

/-- How an access meets a bank (R192). -/
inductive BankUse where
  | plain
  | fullEmpty
  | fifoCap
deriving DecidableEq, Repr

/-- The outcome of R192 for a bank mode: the aux of PROT, if it fails. -/
def bankFail (use : BankUse) (mode : Nat) : Option Nat :=
  match use with
  | .plain => if mode == 1 || mode == 2 then some 8 else none
  | .fullEmpty => if mode == 2 then some 9 else if mode == 1 then some 8 else none
  | .fifoCap => if mode == 2 then none else some 8

/-- The bank of a cluster-local address. -/
def bankOf (a : Nat) : Nat := a / 2 ^ 17 % 32

/-- R192 over `[a, a + n)`: an access may reach two banks. -/
def State.bankCheck (s : State) (cl : Fin 64) (use : BankUse) (a n : Nat) : Option Fail :=
  match bankFail use (s.bankMode cl (bankOf a)) with
  | some aux => some ⟨cPROT, aux, a⟩
  | none =>
    let e := a + n - 1
    if bankOf e == bankOf a then none
    else match bankFail use (s.bankMode cl (bankOf e)) with
      | some aux => some ⟨cPROT, aux, e / 2 ^ 17 * 2 ^ 17⟩
      | none => none

/-! ### Page references and KV pages (R140, R153) -/

/-- The reference of the 64 KiB page of an address: a page that is mapped counts 1 until something changes it (R152, R153). -/
def State.pageRef (s : State) (w : World) (va : Nat) : PageRef :=
  (s.refs.find? fun p => p.world == w && p.page == va / 2 ^ 16).getD ⟨w, va / 2 ^ 16, 1, false⟩
def State.refCount (s : State) (w : World) (va : Nat) : Nat := (s.pageRef w va).count

/-- The checks that follow translation (R210 step 7): KVPA by R140, and a write to a compressed page (R173). -/
def State.pageFail (s : State) (n : Need) (kvOk : Bool) (w : World) (va main : Nat) : Option (Nat × Nat) :=
  if lfKV main && !kvOk && (n.r || n.x || (n.w && s.refCount w va != 1)) then some (cKVPA, 0)
  else if n.w && lfCmp main then some (cPROT, 4)
  else none

/-! ### Pieces -/

/-- Cut `[va, va + n)` at 64 KiB boundaries. -/
def cut64 : Nat → Nat → Nat → List (Nat × Nat)
  | 0, _, _ => []
  | fuel + 1, va, n =>
    if n == 0 then []
    else
      let m := min n (2 ^ 16 - va % 2 ^ 16)
      (va, m) :: cut64 fuel (va + m) (n - m)

/-- Where `[va, va + n)` of a global address lies, or the fault of its translation (R210 step 6). -/
def State.spot (s : State) (w : World) (cl : Option Nat) (n : Need) (va : Nat) : Except Fail Place :=
  match s.window w va with
  | some e =>
    if (n.r && !winR e) || (n.w && !winW e) || n.x then .error ⟨cPROT, 16, va⟩
    else if winKind e == 3 then .ok (.peer (winDev e) ((winRbase e + (va - winBase e)) % 2 ^ 64))
    else .ok (.host (winPort e) ((winRbase e + (va - winBase e)) % 2 ^ 64))
  | none => match s.translate w cl va n with
    | .fail c a => .error ⟨c, a, va⟩
    | .hold _ => .ok .hold
    | .ok pa m => .ok (.at pa m)

/-- The fault of step 7 that a place meets. -/
def State.spotFail (s : State) (w : World) (n : Need) (kvOk : Bool) (va : Nat) : Place → Option Fail
  | .at _ m => (s.pageFail n kvOk w va m).map fun f => ⟨f.1, f.2, va⟩
  | _ => none

/-- Where `[va, va + n)` of a global address lies, or its fault (R210 steps 6 and 7). -/
def State.place (s : State) (w : World) (cl : Option Nat) (n : Need) (kvOk : Bool) (va : Nat) : Except Fail Place :=
  match s.spot w cl n va with
  | .error f => .error f
  | .ok p => match s.spotFail w n kvOk va p with
    | some f => .error f
    | none => .ok p

/-- A piece before others that have failed: a read holds on it when its page is not mapped, and meets their fault later. -/
def behind (n : Need) (p : Piece) : Except Fail (List Piece) → Except Fail (List Piece)
  | .ok ps => .ok (p :: ps)
  | .error f => if n.r && p.place == .hold then .ok [p, ⟨.bad f, f.addr, 0⟩] else .error f

/-- Step 6 for each page in ascending order. -/
def State.spots (s : State) (w : World) (cl : Option Nat) (n : Need) : List (Nat × Nat) → Except Fail (List Piece)
  | [] => .ok []
  | (va, len) :: rest =>
    match s.spot w cl n va with
    | .error f => .error f
    | .ok p => behind n ⟨p, va, len⟩ (s.spots w cl n rest)

/-- Step 7 for each page in ascending order. -/
def State.spotsFail (s : State) (w : World) (n : Need) (kvOk : Bool) : List Piece → Except Fail (List Piece)
  | [] => .ok []
  | p :: ps => match s.spotFail w n kvOk p.va p.place with
    | some f => .error f
    | none => behind n p (s.spotsFail w n kvOk ps)

/-- The pieces of a list of cuts, or the first fault: every page is translated before step 7. -/
def State.pieces (s : State) (w : World) (cl : Option Nat) (n : Need) (kvOk : Bool) (cuts : List (Nat × Nat)) :
    Except Fail (List Piece) :=
  match s.spots w cl n cuts with
  | .error f => .error f
  | .ok ps => s.spotsFail w n kvOk ps

/-- The pieces of a global range (R189: bits [63:56] must be zero). -/
def State.globalPieces (s : State) (w : World) (cl : Option Nat) (n : Need) (kvOk : Bool) (va len : Nat) :
    Except Fail (List Piece) :=
  if va / 2 ^ 56 != 0 then .error ⟨cPROT, 7, va⟩
  else if 2 ^ 56 < va + len then .error ⟨cPROT, 7, 2 ^ 56⟩
  else s.pieces w cl n kvOk (cut64 (len / 2 ^ 16 + 2) va len)

/-- The page of an address, as firmware is asked for it: that of its leaf, or 64 KiB where there is none. -/
def State.pageOf (s : State) (w : World) (va : Nat) : Nat × Nat :=
  match s.entry w va with
  | .leaf m _ => (va / lfBytes m * lfBytes m, lfBytes m)
  | _ => (va / 2 ^ 16 * 2 ^ 16, 2 ^ 16)

/-- A quay posts a page request, merged into one already posted for the page and the quay (R268). -/
def State.askPageAt (s : State) (quay : Fin 128) (w : World) (va : Nat) (why : PageReason) : State :=
  let p := s.pageOf w va
  let r : PageReq := ⟨w, p.1, p.2, quay, why, s.walk w va == .unmapped⟩
  if s.pageReqs.any (fun q => q.world == w && q.va == r.va && q.quay == r.quay) then s
  else { s with pageReqs := s.pageReqs ++ [r] }
/-- The quay that translates an address for this core posts a page request. -/
def State.askPage (s : State) (w : World) (va : Nat) (why : PageReason) : State := s.askPageAt (s.askQuay va) w va why

/-- The reason a page holds. -/
def State.holdReason (s : State) (w : World) (cl : Option Nat) (va : Nat) (n : Need) : PageReason :=
  match s.translate w cl va n with
  | .hold why => why
  | _ => .unmapped

/-! ### Reading a page (R172-R175) -/

/-- Element width in bits of an element format (R172). -/
def efBits (ef : Nat) : Nat :=
  match ef with
  | 1 => 32
  | 2 | 3 => 16
  | 6 | 10 => 4
  | 8 => 6
  | _ => 8

/-- The set bits among the first `e` bits of a bitmap. -/
def rankBelow (bm : Nat) : Nat → Nat
  | 0 => 0
  | e + 1 => rankBelow bm e + bm / 2 ^ e % 2

/-- The logical element `e` of a segment with packed values `vals` and bitmap `bm` (R174). -/
def compElem (vals bm w e : Nat) : Nat :=
  if bm / 2 ^ e % 2 == 1 then vals / 2 ^ (w * rankBelow bm e) % 2 ^ w else 0

/-- The 1 KiB of logical image of a segment as a number (R174). -/
def compSegment (vals bm w : Nat) : Nat → Nat
  | 0 => 0
  | m + 1 => compSegment vals bm w m + compElem vals bm w m * 2 ^ (w * m)

/-- The virtual address of the shadow of a page (R175). -/
def State.shadowVa (s : State) (w : World) (pageVa : Nat) : Nat :=
  (pageVa + (s.wst w).sshd.toNat / 2 ^ 16 % 2 ^ 40 * 2 ^ 16) % 2 ^ 56

/-- Raw bytes of a global range read for the device: `none` where a page is not mapped, faults, or is a page of a frame (R140). -/
def State.readVa (s : State) (w : World) (va : Nat) : Nat → Option (List Byte)
  | 0 => some []
  | n + 1 =>
    match s.translate w none va { r := true } with
    | .ok pa m => if lfKV m then none else (s.readVa w (va + 1) n).map (s.byte pa :: ·)
    | _ => none

/-- Revoked(c) (R335): a bitmap byte that cannot be read holds no set bit. -/
def State.revoked (s : State) (c : Cap) : Bool :=
  let w : World := (capWorld c).toFin
  let lo := ((s.wst w).rvrng.extractLsb' 0 32).toNat * 2 ^ 24
  let hi := ((s.wst w).rvrng.extractLsb' 32 32).toNat * 2 ^ 24
  let b := capBase c
  !capLocal c && lo ≤ b && b < hi &&
    match s.readVa w (((s.wst w).rvmap.toNat / 2 ^ 16 % 2 ^ 40 * 2 ^ 16 + (b - lo) / 512) % 2 ^ 56) 1 with
    | some [m] => m.getLsbD ((b - lo) / 64 % 8)
    | _ => false

/-- The filter of R338 on a capability that moves while a sweep of its world runs. -/
def State.filterCap (s : State) (c : Cap) : Cap :=
  if c.tag && (s.wst (capWorld c).toFin).sweep.isSome && s.revoked c then capUntag c else c

/-- The registers that a fibre takes with it, as R338 filters them. -/
def State.filterRegs (s : State) (sl : Slot) : Slot :=
  { sl with pcc := s.filterCap sl.pcc, c := Vector.ofFn fun i => if i.val < 16 then s.filterCap sl.c[i] else sl.c[i] }

/-- The registers of the fibres that stand at quay cores are filtered while a sweep runs, before they go on or come home (R337,
R338). -/
def State.filterAway (s : State) : State :=
  if s.worlds.toList.all (·.sweep.isNone) then s
  else { s with slots := s.slots.map fun sl => if sl.quay.isSome then s.filterRegs sl else sl }

/-- The image of the logical line at an offset of a compressed page: `bm` are the bitmaps from segment `s0` on, and `frame`
the key of the frame (R174). -/
def State.compLine (s : State) (frame main bm s0 o : Nat) : List Byte :=
  let wd := efBits (lfEF main)
  let m := 8192 / wd
  let b := bm / 2 ^ ((o / 1024 - s0) * m) % 2 ^ m
  ((leBytes 1024 (compSegment (s.nat (frame + o / 1024 * 1024) 1024) b wd m)).drop (o % 1024 / 128 * 128)).take 128

/-- The packed bytes that hold the elements of `[o, o + n)`, which lies in one line: offset in the page and length. -/
def packedRange (main bm s0 o n : Nat) : Nat × Nat :=
  let wd := efBits (lfEF main)
  let m := 8192 / wd
  let b := bm / 2 ^ ((o / 1024 - s0) * m) % 2 ^ m
  let r0 := rankBelow b (o % 1024 * 8 / wd)
  let r1 := rankBelow b ((o % 1024 + n) * 8 / wd + if (o % 1024 + n) * 8 % wd == 0 then 0 else 1)
  (o / 1024 * 1024 + wd * r0 / 8, if r1 == r0 then 0 else (wd * r1 + 7) / 8 - wd * r0 / 8)

/-- `n` logical bytes of one line of a compressed page read by slot `i`: through the cluster cache, which holds the logical
image, or expanded at the quays from the packed lines (R173, R174, R199). A logical granule has no tag. -/
def State.compRead (s : State) (i : SlotId) (w : World) (h : Hint) (key main bm s0 va n : Nat) :
    Except (Nat × Nat) (List Byte × State) :=
  match s.hits w h va with
  | some l => .ok ((l.data.drop (va % 128)).take n, s.touchCluster i w h va [] [])
  | none =>
    let o := va % lfBytes main
    let p := packedRange main bm s0 o n
    match if p.2 == 0 then none else s.readError w (key - o + p.1) p.2 (va - o + p.1) with
    | some e => .error e
    | none =>
      let line := s.compLine (key - o) main bm s0 o
      let all := packedRange main bm s0 (o / 128 * 128) 128
      let s' := s.touchQuays i w h (key - o + all.1) va all.2 false
      .ok ((line.drop (o % 128)).take n, s'.touchCluster i w h va line (List.replicate 8 false))

/-- The parts of a read of a compressed page one after another; `key` is that of `va`. -/
def State.compReads (s : State) (i : SlotId) (w : World) (h : Hint) (key main bm s0 va : Nat) :
    List (Nat × Nat) → Except (Nat × Nat) (List Byte × State)
  | [] => .ok ([], s)
  | (a, n) :: rest =>
    match s.compRead i w h (key + (a - va)) main bm s0 a n with
    | .error e => .error e
    | .ok (bs, s) => match s.compReads i w h key main bm s0 va rest with
      | .error e => .error e
      | .ok (cs, s) => .ok (bs ++ cs, s)

/-- The bitmap bytes in the shadow that `n` bytes at `va` of a compressed page of a world need, lowest and length
(R174, R175). -/
def State.bitmapRange (s : State) (w : World) (main va n : Nat) : Nat × Nat :=
  let size := lfBytes main
  let o := va % size
  let mb := 8192 / efBits (lfEF main) / 8
  let s0 := o / 1024
  ((s.shadowVa w (va - o) + size / 4 + s0 * mb) % 2 ^ 56, ((o + n - 1) / 1024 - s0 + 1) * mb)

/-- The logical lines of `[va, va + n)` as a read from outside the device finds them. -/
def State.compOut (s : State) (w : World) (key main va n : Nat) : List Byte :=
  let r := s.bitmapRange w main va n
  let bm := ((s.readVa w r.1 r.2).map leNat).getD 0
  (cutLines (n / 128 + 2) va n).flatMap fun c =>
    let o := c.1 % lfBytes main
    ((s.compLine (key - va % lfBytes main) main bm (va % lfBytes main / 1024) o).drop (o % 128)).take c.2

/-- `n` logical bytes at a piece of a page as an access from outside finds them. -/
def State.pageBytes (s : State) (w : World) (key main va n : Nat) : List Byte :=
  if lfCmp main then s.compOut w key main va n else s.bytes key n

/-! ### Peers, ports and links (R353, R392, R393, R396) -/

/-- A device of the fabric can be reached. -/
def State.reaches (s : State) (dev : Nat) : Bool :=
  let r := s.routes[Fin.ofNat 256 dev]
  s.linkUp[r.1] || s.linkUp[r.2]

/-- A host port is up and its session established (R353). -/
def State.portUp (s : State) (p : HostPort) : Bool :=
  match p with
  | .a => s.sessA
  | .b => s.sessB

/-- The CXL port of a tier-1 address is up (R392). -/
def State.cxlOk (s : State) (pa : Nat) : Bool := keyIsCl pa || keyIsHost pa || pa < 2 ^ 47 ||
  s.cxlUp[Fin.ofNat 4 (pa / 2 ^ 41)]

/-- What a peer has answered to the load at an address that the slot, or an engine for it, makes. -/
def State.peerAns (s : State) (va : Nat) : Option (Option (List Byte × Option Cap)) :=
  (s.sl.peer.find? fun a => a.eng == s.act.isSome && a.va == va).map (·.ans)

/-- The answers that an engine has used for `[a, a + n)` are dropped. -/
def State.peerUsed (s : State) (a n : Nat) : State :=
  if s.sl.peer.isEmpty then s
  else s.modCur fun sl => { sl with peer := sl.peer.filter fun p => !(p.eng && a ≤ p.va && p.va < a + n) }

/-! ### Collective windows (R397-R399) -/

/-- The window of a world that holds an address. -/
def State.cwinAt (s : State) (w : World) (va : Nat) : Option (Fin 16) :=
  (List.finRange 16).find? fun i => match s.cwins[i] with
    | some c => c.world == w && c.va ≤ va && va < c.va + c.len
    | none => false

/-- The key of the first byte of a window. -/
def State.cwinKey (s : State) (c : Cwin) : Option Nat :=
  match s.translate c.world none c.va {} with
  | .ok pa _ => some pa
  | _ => none

/-- The window opens again: `k` is the key of its first byte. -/
def State.cwinOpen (s : State) (i : Fin 16) (k : Nat) : State :=
  let s := (s.writeBytes k (leBytes 8 0)).writeBytes (k + 8) (leBytes 8 ((s.nat (k + 8) 4 + 1) % 2 ^ 32))
  let s := s.writeBytes (k + 16) (leBytes 4 0)
  { s with cwins := s.cwins.set i ((s.cwins[i]).map fun c => { c with timer := false }) }

/-- A store of 0 to ARR, a global address, by the owning world arms the window (R399). -/
def State.cwinArms (s : State) (w : World) (key va : Nat) (bs : List Byte) : Option (Fin 16) :=
  match if keyIsCl key then none else s.cwinAt w va with
  | some i => match s.cwins[i] with
    | some c => if c.va == va && bs.length == 8 && leNat bs == 0 then some i else none
    | none => none
  | none => none

/-! ### A store is performed -/

/-- A write to part of a line of a sealed address needs the line's old bytes: the fault that it meets there, at the first byte
that it cannot write (R343, R378). -/
def State.sealedBad (s : State) (w : World) (va key n : Nat) : Option Fail :=
  if keyIsCl key || !s.sealedVa w va then none
  else (linesOf key n).findSome? fun l =>
    let at_ := max va (va + 128 * l - key)
    if key ≤ 128 * l && 128 * l + 128 ≤ key + n then none
    else if s.badLines.contains l then some ⟨cMEMERR, 4, at_⟩
    else if s.macBad w (va + 128 * l - key) l then some ⟨cSEAL, 2, at_⟩ else none

/-- A store of world `w` at a key is performed, with the tags of whole granules, for slot `i` or, `own` being false, for an
agent outside the core. A line that it repairs is read anew (R378). -/
def State.performAt (s : State) (i : SlotId) (own : Bool) (w : World) (h : Hint) (key va : Nat) (bs : List Byte)
    (tags : List Bool) : State :=
  let bad := (linesOf key bs.length).filter s.badLines.contains
  let s := s.dupWrite own key bs.length
  let s := match s.cwinArms w key va bs with
    | some j => s.cwinOpen j key
    | none => s.writeBytes key bs
  let s := (granules key bs.length).zip tags |>.foldl (fun s g => { s with tags := natSet s.tags g.1 g.2 }) s
  let s := s.sealAt w va key bs.length
  if own then bad.foldl (fun s l => s.dropLine w (va + 128 * l - key)) (s.stored i w h key va bs tags) else s

/-- Bytes stored over others of which some bits are kept: `keep` names them, the first byte first (R103). -/
def mergeKeep : List Byte → List Byte → List Byte → List Byte
  | o :: os, b :: bs, k :: ks => ((o &&& k) ||| (b &&& ~~~k)) :: mergeKeep os bs ks
  | _, bs, _ => bs

/-- What the read of a store that keeps bits meets: an error of the line, or a KV page (R103, R140). -/
def State.keepBad (s : State) (w : World) (va key main : Nat) (keep : List Byte) : Option Fail :=
  if keep.isEmpty then none
  else match s.pageFail { r := true } false w va main with
    | some (c, a) => some ⟨c, a, va⟩
    | none => (s.readError w key keep.length va).map fun e => ⟨e.1, if e.1 == cSEAL then 1 else 0, e.2⟩

/-! ### The side log (R268-R270, R435) -/

/-- The size in bytes of a SIZE code (R41); the capability size has 16. -/
def szBytes (z : BitVec 3) : Nat :=
  match z.toNat with
  | 0 => 1
  | 1 => 2
  | 2 => 4
  | 3 => 8
  | 4 => 16
  | 5 => 128
  | _ => 16

/-- Who makes an access now: a slot's fibre, or, while an act is performed, an engine. -/
def State.writer (s : State) : LogBy := if s.act.isSome then .engine else .fibre s.sl.fib

/-- The youngest logged byte of a fibre for an address (R270). -/
def logByte (fib va : Nat) : List LogEntry → Option Byte
  | [] => none
  | e :: es => match logByte fib va es with
    | some b => some b
    | none => if e.who = .fibre fib ∧ e.upd.isNone ∧ e.va ≤ va ∧ va < e.va + e.data.length then e.data[va - e.va]? else none

/-- The logged bytes of a fibre that cover `[va, va + n)` wholly (R270). -/
def State.logBytes (s : State) (fib va : Nat) : Nat → Option (List Byte)
  | 0 => some []
  | n + 1 => match logByte fib va s.sideLog, s.logBytes fib (va + 1) n with
    | some b, some bs => some (b :: bs)
    | _, _ => none

/-- An entry holds bytes of `[va, va + n)`. -/
def LogEntry.meets (e : LogEntry) (va n : Nat) : Bool := e.upd.isNone && e.va < va + n && va < e.va + e.data.length

/-- Some logged byte of the fibre lies in `[va, va + n)`. -/
def State.logTouches (s : State) (fib va n : Nat) : Bool := s.sideLog.any fun e => e.who == .fibre fib && e.meets va n

/-- The tag of the youngest logged store of a fibre over a granule. -/
def logTag (fib va : Nat) (es : List LogEntry) : Option Bool :=
  (es.filter fun e => e.who == .fibre fib && e.meets va 16).getLast?.map fun e => e.tags.getD ((va - e.va) / 16) false

/-- Entries of a slot and of a quay (R269). -/
def State.logSlotCount (s : State) (sl : SlotId) : Nat := (s.sideLog.filter (·.sl == some sl)).length
def State.logQuayCount (s : State) (q : Fin 128) : Nat := (s.sideLog.filter (·.quay == q)).length

/-- The mark of a store that waits for room in a quay's log, among those that wait on queues. -/
def logMark (q : Fin 128) : Nat := 2 ^ 16 + q.val

/-- A waiter that satisfies a property stands ahead of `who`, whose own place is the first entry of its own that does. -/
def aheadBy (p : Waiter → Bool) (who : Who) : List Waiter → Bool
  | [] => false
  | w :: ws => if p w then w.who != who else aheadBy p who ws

/-- Room for one more entry of the slot at a quay, no store that waits for the quay standing before it (R269). An engine's write
stands behind every store that waits. -/
def State.logAdmits (s : State) (sl : SlotId) (q : Fin 128) : Bool :=
  let here := fun (w : Waiter) => w.kind == .queue && w.thr == logMark q
  s.logSlotCount sl < 64 && s.logQuayCount q < 512 &&
    !(if s.act.isSome then s.waiters.any here else aheadBy here (.slot sl) s.waiters)

/-- The entry of a store that retires now into the log of a quay. DEDUCED, unsafe: log 46. -/
def State.logEntry (s : State) (who : LogBy) (sl : Option SlotId) (w : World) (q : Fin 128) (va : Nat) (data : List Byte)
    (tags : List Bool) : LogEntry :=
  ⟨who, sl, s.opCtr, false, w, q, va, data, [], tags, tags.contains true, {}, none⟩

/-- An entry enters its quay's log as the youngest. DEDUCED, unsafe: log 46. -/
def State.logPut (s : State) (e : LogEntry) : State := { s with sideLog := s.sideLog ++ [e], opCtr := s.opCtr + 1 }

/-- A store retires into the side log, or waits for room in it (R268, R269). -/
def logStore (s : State) (sl : SlotId) (e : LogEntry) : R State :=
  if s.logAdmits sl e.quay then .ok (s.logPut e) else waitFor s .queue e.va (logMark e.quay)

/-- The quay that logs a write which the page of a key has to hold back: the one that owns the line, where invalidations of its
copies are outstanding (R271), and otherwise the one that translates the address. -/
def State.logQuay (s : State) (main key va n : Nat) : Fin 128 := if s.dupBusy main key n then ownQuay key va else s.askQuay va

/-- An older logged entry of the same agent holds bytes of `[va, va + n)`: a younger write to them stands behind it (R238). -/
def State.ownLogged (s : State) (who : LogBy) (sl : Option SlotId) (w : World) (va n : Nat) : Bool :=
  s.sideLog.any fun e => e.who == who && e.sl == sl && e.world == w && e.meets va n

/-- A logged row of the port of a fibre. -/
def LogBy.ofPort (b : LogBy) (fib : Nat) (p : Fin 4) : Bool :=
  match b with
  | .row f q _ => f == fib && q == p
  | _ => false

/-- A row of the same port that retired earlier is still logged: rows are performed in their order (R108). -/
def State.rowBehind (s : State) (who : LogBy) (num : Nat) : Bool :=
  match who with
  | .row f p _ => s.sideLog.any fun e => e.who.ofPort f p && e.num < num
  | _ => false

/-- An older entry of the page stays in the log of the same quay: the entries of a page are handled in the order in which they
retired (R269). -/
def State.entryBehind (s : State) (e : LogEntry) : Bool :=
  s.rowBehind e.who e.num ||
    s.sideLog.any fun d => d.num < e.num && d.world == e.world && d.quay == e.quay && d.va / 2 ^ 16 == e.va / 2 ^ 16

/-- Bytes of a row of a drain, and the address of a row (R129). -/
def Drain.rowLen (d : Drain) : Nat := 32 * (laneBits d.dty / 8)
def Drain.rowAt (d : Drain) (i : Nat) : Nat := (d.ea.toNat + i * d.rowLen) % 2 ^ 64

/-- Rows of drains that a discarded entry held are never written (R129, R435). -/
def State.rowsLost (s : State) (e : LogEntry) : State :=
  if e.who != .engine then s
  else
    let hit := fun (d : Drain) => (List.range d.row).filter fun r => e.meets (d.rowAt r) d.rowLen
    let mine := fun (d : Drain) => e.sl == some d.sl && !capLocal d.cap
    let mark := fun (d : Drain) => if mine d then { d with lost := d.lost ++ hit d } else d
    { s with mat := { s.mat with drains := s.mat.drains.map mark } }

/-- A logged store is discarded: the supervisor of its slot receives a record; one from outside leaves none (R387). -/
def LogEntry.discard (e : LogEntry) (f : Fail) (s : State) : State :=
  match e.sl with
  | some i => (s.rowsLost e).postRecOf e.world i { f with addr := e.va } 0 0
  | none => s

/-- The cluster whose CMASK bit a logged store needs: none for one from outside. -/
def LogEntry.mask (e : LogEntry) (s : State) : Option Nat := e.sl.map fun _ => s.cluster.val

/-- A reduction that leaves the log goes on its way among the others, in the order of issue (R225). -/
def Update.among (u : Update) : List Update → List Update
  | [] => [u]
  | v :: vs => if u.num < v.num then u :: v :: vs else v :: u.among vs
def State.sendUpdate (s : State) (u : Update) : State :=
  ({ s with updates := u.among s.updates } : State).post (.remoteUpdate u.num)

/-- The tags that a logged store still has when it replays (R338). -/
def State.replayTags (s : State) (e : LogEntry) : List Bool :=
  e.tags.zipIdx.map fun t => t.1 && (s.filterCap ⟨true, BitVec.ofNat 128 (leNat ((e.data.drop (16 * t.2)).take 16))⟩).tag

/-- The packets of a store to a peer: the offset and the bytes of each, and the capability that it carries. Every granule with a
tag travels in one of its own (R340). -/
def peerPackets (bs : List Byte) (tags : List Bool) : List (Nat × List Byte × Option Cap) :=
  if !tags.contains true then [(0, bs, none)]
  else (List.range ((bs.length + 15) / 16)).map fun g =>
    let d := (bs.drop (16 * g)).take 16
    (16 * g, d, if tags.getD g false then some ⟨true, BitVec.ofNat 128 (leNat d)⟩ else none)

/-- A packet goes to a peer: `p` without its number. The monitors of its window see it (R226). -/
def State.sendPacket (s : State) (p : PeerStore) : State :=
  ({ s with peerOut := s.peerOut ++ [{ p with num := s.opCtr }], opCtr := s.opCtr + 1 } : State).triggerBy
    (.peer p.world p.lva p.data.length)

/-- A store goes to a peer, packet by packet: `p` is the first of them, `bs` are the bytes of all. -/
def State.sendPeer (s : State) (p : PeerStore) (bs : List Byte) (tags : List Bool) : State :=
  (peerPackets bs tags).foldl (fun s d =>
    s.sendPacket { p with va := p.va + d.1, lva := p.lva + d.1, data := d.2.1, cap := d.2.2 }) s

/-- The number of the fibre that has made a logged store; 0 for an engine's or one from outside. -/
def LogEntry.fib (e : LogEntry) : Nat :=
  match e.who with
  | .fibre f => f
  | _ => 0

/-- What becomes of a logged store now: it is performed or discarded, or stays. -/
def State.replayStore (s : State) (e : LogEntry) : Option State :=
  match s.place e.world (e.mask s) { w := true, cw := e.tags.contains true } false e.va with
  | .error f => some (e.discard f s)
  | .ok .hold | .ok (.bad _) => none
  | .ok (.host port iova) =>
    let k := hostKey port iova
    some (if s.portUp port then s.writeBytes k (mergeKeep (s.bytes k e.keep.length) e.data e.keep)
      else e.discard ⟨cHOSTDN, 0, 0⟩ s)
  | .ok (.peer dev va) =>
    some (if s.reaches dev && e.keep.isEmpty then
        s.sendPeer ⟨0, e.sl.getD 15, e.fib, e.sc, e.world, dev, va, [], none, none, e.va, 0, 0⟩ e.data (s.replayTags e)
      else e.discard ⟨cMEMERR, 7, 0⟩ s)
  | .ok (.at key main) =>
    if s.dupBusy main key e.data.length then none
    else if !s.cxlOk key then some (e.discard ⟨cMEMERR, 7, 0⟩ s)
    else match s.sealedBad e.world e.va key e.data.length with
      | some f => some (e.discard f s)
      | none => match s.keepBad e.world e.va key main e.keep with
        | some f => some (e.discard f s)
        | none => some (s.performAt (e.sl.getD 15) e.sl.isSome e.world e.hint key e.va
            (mergeKeep (s.bytes key e.keep.length) e.data e.keep) (s.replayTags e))

/-- An entry of the log, once its page takes it. -/
def State.replayEntry (s : State) (e : LogEntry) : Option State :=
  match e.upd with
  | none => s.replayStore e
  | some u =>
    match s.place u.world (some s.cluster.val) { r := true, w := true } false u.ea with
    | .ok .hold => none
    | .ok (.at key main) => if s.dupBusy main key (szBytes u.size) then none else some (s.sendUpdate u)
    | _ => some (s.sendUpdate u)

/-- The page of an entry that stays is asked for, with the reason for which it holds now (R267, R268). -/
def State.logAsk (s : State) (e : LogEntry) : State :=
  if e.sl.isNone then s
  else match s.translate e.world (e.mask s) e.va { w := true } with
    | .hold why => s.askPageAt e.quay e.world e.va why
    | _ => s

/-- Remove the first entry equal to one. -/
def dropFirst {α : Type} [DecidableEq α] (x : α) : List α → List α
  | [] => []
  | y :: ys => if y = x then ys else y :: dropFirst x ys

/-- Of a list of entries those that can be performed are, in the order in which they retired. -/
def State.replayThese (s : State) : List LogEntry → State
  | [] => s
  | e :: es =>
    match if s.entryBehind e then none else ({ s with sideLog := dropFirst e s.sideLog } : State).replayEntry e with
    | some t => t.replayThese es
    | none => (s.logAsk e).replayThese es

/-- What the log holds of a page is performed, when the page takes it (R269). -/
def State.replayPage (s : State) (w : World) (va : Nat) : State :=
  let es := s.sideLog.filter fun e => e.world == w && e.va / 2 ^ 16 == va / 2 ^ 16
  if es.isEmpty then s
  else
    let t := s.replayThese es
    if t.sideLog.length == s.sideLog.length then t else t.post .sideLogAdmit

/-! ### Counters of second-tier pages (R272) -/

/-- The threshold of a world (R208). -/
def State.tierThreshold (s : State) (w : World) : Nat :=
  let t := ((s.wst w).cpol.extractLsb' 32 16).toNat
  if t == 0 then 4096 else t

/-- The die of a quay. -/
def quayDie (q : Fin 128) : Fin 4 := Fin.ofNat 4 (q.val / 32)

/-- A counter that reaches its threshold posts its notification, or sets the overflow flag of its die. -/
def State.tierPost (s : State) (c : PageCount) : State × PageCount :=
  if (s.pageNotes.filter fun n => n.1 == quayDie c.quay).length < 512 then
    ({ s with pageNotes := s.pageNotes ++ [(quayDie c.quay, c.world, c.va, c.count)] }, { c with queued := true })
  else ({ s with pageOvf := s.pageOvf.set (quayDie c.quay) true }, { c with count := 65535 })

/-- The counter of a page at a quay after one access more. A quay's table of 1,024 gives up the counter that was raised
longest ago. DESIGN CHOICE, unsafe: log 71. -/
def State.countPage (s : State) (w : World) (q : Fin 128) (page : Nat) : State :=
  let mine := fun (c : PageCount) => c.quay == q && c.world == w && c.va == page
  let old := (s.pageCounts.find? mine).getD ⟨q, w, page, 0, false⟩
  let new := { old with count := min (old.count + 1) 65535 }
  let t := s.tierThreshold w
  let r := if !old.queued && old.count < t && t ≤ new.count then s.tierPost new else (s, new)
  let rest := r.1.pageCounts.filter fun c => !mine c
  let rest := if 1024 ≤ (rest.filter (·.quay == q)).length then rest.eraseP (·.quay == q) else rest
  { r.1 with pageCounts := rest ++ [r.2] }

/-- An access reaches the page of a piece: its leaf stands in the quay's translation cache, and its counter rises when it is a
second-tier page (R272, R274). -/
def State.reachedPiece (s : State) (w : World) (p : Piece) : State :=
  match p.place with
  | .at key _ =>
    if keyIsCl key then s
    else
      let s := s.cacheLeaf w p.va
      if 2 ^ 47 ≤ key then s.countPage w (s.askQuay p.va) (p.va / 2 ^ 16 * 2 ^ 16) else s
  | _ => s
def State.reached (s : State) (w : World) (ps : List Piece) : State := ps.foldl (fun s p => s.reachedPiece w p) s

/-- An engine's access reaches its pages: what the log holds of them comes first (R269). -/
def State.arrived (s : State) (w : World) (ps : List Piece) : State :=
  (ps.foldl (fun s p => match p.place with
    | .at key _ => if keyIsCl key then s else s.replayPage w p.va
    | _ => s) s).reached w ps

/-- The log holds something of the page of a piece that can be performed now. -/
def State.logReady (s : State) (w : World) (p : Piece) : Bool :=
  match p.place with
  | .at key _ => !keyIsCl key && s.sideLog.any fun e =>
      e.world == w && e.va / 2 ^ 16 == p.va / 2 ^ 16 && !s.entryBehind e && (s.replayEntry e).isSome
  | _ => false

/-- A slot's access reaches its pages, after the replay of what the log holds of them (R269). -/
def arrive (s : State) (w : World) (ps : List Piece) : R State :=
  if ps.any (s.logReady w) then .error (.spin, s.post .sideLogAdmit)
  else .ok (s.reached w ps)

/-! ### Reads of a slot and of its engines -/

/-- Who reads: for which slot and fibre, in which world, with what hint, and whether it is a copy engine; and what it asks of a
peer, with the operand. -/
structure Reader where
  sl : SlotId
  fib : Nat
  world : World
  hint : Hint
  copies : Bool
  ask : PeerOp × Nat

/-- The current slot reads: a fibre at a quay core reads at the owning quay (R247, R250). -/
def State.reader (s : State) (h : Hint) (ask : PeerOp × Nat := (.load, 0)) : Reader :=
  ⟨s.cur, s.sl.fib, s.world, if s.act.isNone && s.sl.quay.isSome then { h with served := .owner } else h, false, ask⟩

/-- A peer is asked for a piece, once (R394, R396). -/
def State.askPeer (s : State) (r : Reader) (dev rva : Nat) (p : Piece) : State :=
  let eng := s.act.isSome
  if s.sl.peerAsk.any fun q => q.eng == eng && q.va == p.va then s
  else
    let q : PeerAsk := ⟨s.opCtr, eng, p.va, dev, r.world, rva, r.ask.1, r.ask.2, p.len⟩
    ({ s with opCtr := s.opCtr + 1 } : State).modCur fun sl => { sl with peerAsk := sl.peerAsk ++ [q] }

/-- The bytes of one piece as memory holds them, its page's attributes apart (R210 steps 6 to 8, R270, R353, R392, R396). -/
def rawPiece (s : State) (r : Reader) (p : Piece) : R (List Byte × State) :=
  match p.place with
  | .bad f => raise s f.cause f.aux f.addr
  | .hold =>
    match s.logBytes r.fib p.va p.len with
    | some bs => .ok (bs, s)
    | none => waitFor (s.askPage r.world p.va (s.holdReason r.world (some s.cluster.val) p.va { r := true })) .page p.va
  | .host port iova =>
    if s.portUp port then .ok (s.bytes (hostKey port iova) p.len, s) else raise s cHOSTDN 0 p.va
  | .peer dev rva =>
    if !s.reaches dev then raise s cMEMERR 6 p.va
    else match s.peerAns p.va with
    | some (some (bs, _)) => .ok (bs.take p.len, s)
    | some none => raise s cMEMERR 6 p.va
    | none => .error (.spin, s.askPeer r dev rva p)
  | .at key main =>
    if !keyIsCl key && s.logTouches r.fib p.va p.len then
      match s.logBytes r.fib p.va p.len with
      | some bs => .ok (bs, s)
      | none => waitFor s .queue p.va
    else if !s.cxlOk key then raise s cMEMERR 6 p.va
    else match s.readRange r.sl r.world r.hint key main p.va p.len with
      | .error (c, a) => raise s c (if c == cSEAL then 1 else 0) a
      | .ok x => .ok x

def rawPieces (s : State) (r : Reader) : List Piece → R (List Byte × State)
  | [] => .ok ([], s)
  | p :: ps => do
    let a ← rawPiece s r p
    let b ← rawPieces a.2 r ps
    .ok (a.1 ++ b.1, b.2)

/-- A range of the shadow is read: an ordinary relaxed read of the reader (R175), whose checks have been made. -/
def shadowRead (s : State) (r : Reader) (a n : Nat) : R (List Byte × State) :=
  match s.globalPieces r.world (some s.cluster.val) { r := true } false a n with
  | .error f => .error (.trap f, s)
  | .ok ps => do
    let s ← if r.copies then .ok (s.arrived r.world ps) else arrive s r.world ps
    rawPieces s r ps

/-- The logical bytes of one piece: those of a compressed page are expanded through its bitmaps, unless the fibre's own logged
store gives them (R173, R270). -/
def readPiece (s : State) (r : Reader) (p : Piece) : R (List Byte × State) :=
  match p.place with
  | .at key main =>
    if lfCmp main && !keyIsCl key && !s.logTouches r.fib p.va p.len && s.cxlOk key then do
      let g := s.bitmapRange r.world main p.va p.len
      let b ← shadowRead s r g.1 g.2
      match b.2.compReads r.sl r.world r.hint key main (leNat b.1) (p.va % lfBytes main / 1024) p.va
          (cutLines (p.len / 128 + 2) p.va p.len) with
      | .error (c, a) => raise b.2 c (if c == cSEAL then 1 else 0) a
      | .ok x => .ok x
    else rawPiece s r p
  | _ => rawPiece s r p

def readPieces (s : State) (r : Reader) : List Piece → R (List Byte × State)
  | [] => .ok ([], s)
  | p :: ps => do
    let a ← readPiece s r p
    let b ← readPieces a.2 r ps
    .ok (a.1 ++ b.1, b.2)

/-- A load that reads some bytes of logged stores of its fibre and some of memory holds until the stores have replayed (R238);
the pages of those bytes are asked for. -/
def mixedLog (s : State) (r : Reader) (ps : List Piece) : R Unit :=
  if ps.any (fun p => s.logTouches r.fib p.va p.len) && !ps.all (fun p => (s.logBytes r.fib p.va p.len).isSome) then
    match ps.find? fun p => p.place == .hold with
    | some p => waitFor (s.askPage r.world p.va (s.holdReason r.world (some s.cluster.val) p.va { r := true })) .page p.va
    | none => waitFor s .queue ((ps.map (·.va)).headD 0)
  else .ok ()

/-- The bytes of pieces of a load of slot `s.cur`. DEDUCED, unsafe: log 68. -/
def loadPiece (s : State) (p : Piece) (h : Hint := {}) (ask : PeerOp × Nat := (.load, 0)) : R (List Byte × State) :=
  readPiece s (s.reader h ask) p
def loadPieces (s : State) (ps : List Piece) (h : Hint := {}) : R (List Byte × State) := do
  mixedLog s (s.reader h) ps
  readPieces s (s.reader h) ps

/-! ### Loads of a slot -/

/-- The checks of R210, steps 2 to 5, for an access of slot `s.cur` through a capability; a FIFO capability selects the bank of its
address alone (R196). DEDUCED, unsafe: log 40. -/
def accessChecks (s : State) (c : Cap) (a n : Nat) (perm : BitVec 12) (use : BankUse) (align : Nat) : R Unit := do
  check s (capCheck s.world c a n perm)
  if capLocal c then
    check s (localCheck s.cluster.val s.sl.cmwin a n)
    guardR s (a % align == 0) cALGN 0 a
    check s (s.bankCheck s.cluster (if capHas c pFIFO then .fifoCap else use) a (if capHas c pFIFO then 1 else n))
    guardR s (!capHas c pFIFO || use == .fifoCap) cPROT 9 a
  else
    guardR s (a / 2 ^ 56 == 0) cPROT 7 a
    guardR s (a % align == 0) cALGN 0 a
    guardR s (use != .fullEmpty) cPROT 9 a

/-- Steps 6 and 7: where the bytes lie. -/
def placed (s : State) (c : Cap) (a n : Nat) (need : Need) : R (List Piece) :=
  if capLocal c then .ok [⟨.at (locKey a) 0, a, n⟩]
  else match s.globalPieces s.world (some s.cluster.val) need false a n with
    | .ok ps => .ok ps
    | .error f => .error (.trap f, s)

/-- Steps 2 to 7. -/
def accessPieces (s : State) (c : Cap) (a n : Nat) (perm : BitVec 12) (need : Need) (use : BankUse) (align : Nat) :
    R (List Piece) := do
  accessChecks s c a n perm use align
  placed s c a n need

/-- A range that a load reads besides its own bytes: checked against the capability that the access used, translated,
and held on while a page is not mapped (R175). -/
def readable (s : State) (c : Cap) (a n : Nat) : R Unit := do
  let ps ← accessPieces s c a n pR { r := true } .plain 1
  match ps.find? (fun p => p.place == .hold && (s.logBytes s.sl.fib p.va p.len).isNone) with
  | some p => waitFor (s.askPage s.world p.va (s.holdReason s.world (some s.cluster.val) p.va { r := true })) .page p.va
  | none => .ok ()

/-- The bitmaps of the compressed pieces can be read. -/
def bitmapsReadable (s : State) (c : Cap) : List Piece → R Unit
  | [] => .ok ()
  | p :: ps =>
    match p.place with
    | .at _ main =>
      if lfCmp main && p.len != 0 then do
        let g := s.bitmapRange s.world main p.va p.len
        readable s c g.1 g.2
        bitmapsReadable s c ps
      else bitmapsReadable s c ps
    | .hold => .ok ()
    | _ => bitmapsReadable s c ps

/-- A load of `n` bytes by slot `s.cur` (R210). -/
def loadBytes (s : State) (c : Cap) (a n : Nat) (perm : BitVec 12) (align : Nat) (h : Hint := {}) :
    R (List Byte × State) := do
  let ps ← accessPieces s c a n perm { r := true } .plain align
  bitmapsReadable s c ps
  let s ← arrive s s.world ps
  loadPieces s ps h

/-- Whether the leaf of an address keeps tags on capability loads (R266): a compressed page has none (R174). -/
def pieceCL (p : Piece) : Bool :=
  match p.place with
  | .at key main => keyIsCl key || (bitN main 6 && !lfCmp main)
  | _ => false

/-- The tag of a granule a slot loads, as its bytes are seen, under CL of the page (R195, R266). -/
def loadTag (s : State) (p : Piece) (h : Hint := {}) : Bool :=
  match p.place with
  | .at key _ => s.tagSeen s.world (s.reader h).hint key p.va && pieceCL p
  | .peer _ _ => match s.peerAns p.va with
    | some (some (_, some c)) => c.tag
    | _ => false
  | _ => false

/-! ### Stores of a slot -/

/-- A release at a scope waits for the fibre's side-logged stores to replay, which is WAITING, and for its reductions to be
performed; at package scope and wider for every die, and at system scope for the peers, whatever slot or engine of the core
the stores to them came from, which are interlocks (R222, R225, R240, R249, R252, R256). The writes of the slot's engines are
not the fibre's (R258). DEDUCED, unsafe: log 45. -/
def releaseWait (s : State) (scope : Nat) : R Unit :=
  if !(s.slotLogs s.cur).isEmpty then waitFor s .queue 0
  else if !(s.slotUps s.cur).isEmpty || (s.peerOut.any fun p => p.red.isSome && p.fib == s.sl.fib) ||
      (3 ≤ scope && !s.dupQuiet) || (4 ≤ scope && !s.peerOut.isEmpty) then
    .error (.spin, s)
  else .ok ()

/-- ORD of R41 that releases: release, acq-rel and sc. -/
def ordReleases (ord : BitVec 3) : Bool := 2 ≤ ord.toNat

/-- What a store is besides its bytes: a capability's, an sc access, its hint, the row that it is part of, and the bits that it
keeps. -/
structure StoreAs where
  isCap : Bool := false
  sc : Bool := false
  hint : Hint := {}
  row : Option LogBy := none
  keep : List Byte := []

/-- The hint of a store of slot `s.cur`: a fibre at a quay core passes the cluster cache by. -/
def State.storeHint (s : State) (h : Hint) : Hint := (s.reader h).hint

/-- A piece of a store of slot `s.cur` goes to the side log of a quay. -/
def logPiece (s : State) (q : Fin 128) (p : Piece) (bs : List Byte) (tags : List Bool) (k : StoreAs) : R State :=
  logStore s s.cur { s.logEntry (k.row.getD s.writer) (some s.cur) s.world q p.va bs tags with
    isCap := k.isCap, sc := k.sc, keep := k.keep, hint := k.hint }

/-- A store that fails after its instruction has gone on leaves a record; a row's fault is kept for its port (R106). -/
def storeFails (s : State) (k : StoreAs) (va cause aux : Nat) : R State :=
  if k.row.isNone then .ok (s.postRec s.cur ⟨cause, aux, va⟩ s.sl.pc s.insn)
  else raise s cause (if aux == 7 then 6 else if cause == cSEAL then 1 else 0) va

/-- One piece of a store of slot `s.cur`: performed, logged, sent to a host or a peer (R210, R269, R353, R392). -/
def storePiece (s : State) (p : Piece) (bs : List Byte) (tags : List Bool) (k : StoreAs := {}) : R State :=
  if k.row.any (s.rowBehind · s.opCtr) && p.place != .hold then logPiece s (s.askQuay p.va) p bs tags k
  else match p.place with
  | .bad f => raise s f.cause f.aux f.addr
  | .hold =>
    logPiece (s.askPage s.world p.va (s.holdReason s.world (some s.cluster.val) p.va { w := true })) (s.askQuay p.va) p bs tags k
  | .host port iova =>
    let key := hostKey port iova
    if s.portUp port then .ok (s.writeBytes key (mergeKeep (s.bytes key k.keep.length) bs k.keep)) else raise s cHOSTDN 0 p.va
  | .peer dev va =>
    if !s.reaches dev then storeFails s k p.va cMEMERR 7
    else .ok (s.sendPeer ⟨0, s.cur, s.sl.fib, k.sc, s.world, dev, va, [], none, none, p.va, s.sl.pc, s.insn⟩ bs tags)
  | .at key main =>
    if s.dupBusy main key bs.length || s.ownLogged (k.row.getD s.writer) (some s.cur) s.world p.va bs.length then
      logPiece s (s.logQuay main key p.va bs.length) p bs tags k
    else if !s.cxlOk key then storeFails s k p.va cMEMERR 7
    else match s.sealedBad s.world p.va key bs.length with
    | some f => storeFails s k f.addr f.cause f.aux
    | none => match s.keepBad s.world p.va key main k.keep with
      | some f => raise s f.cause f.aux f.addr
      | none => .ok (s.performAt s.cur true s.world (s.storeHint k.hint) key p.va
          (mergeKeep (s.bytes key k.keep.length) bs k.keep) tags)

def storePieces (s : State) (ps : List Piece) (bs : List Byte) (ts : List Bool) (k : StoreAs := {}) : R State :=
  match ps with
  | [] => .ok s
  | p :: ps => do
    let s ← storePiece s p (bs.take p.len) ts k
    storePieces s ps (bs.drop p.len) (ts.drop (p.len / 16)) k

/-- The state `s` with what `t` has asked firmware, peers and the log for. -/
def State.asking (s t : State) : State :=
  ({ s with
      pageReqs := t.pageReqs
      opCtr := t.opCtr
      agenda := if t.agenda.contains .sideLogAdmit then s.agenda ++ [.sideLogAdmit] else s.agenda } : State).modCur
    fun sl => { sl with peerAsk := t.sl.peerAsk }

/-- A store that stops has stored and logged nothing (R211, R269); the pages that it needs have been asked for. -/
def allOrNone {α : Type} (s : State) (r : R α) : R α :=
  match r with
  | .ok v => .ok v
  | .error (st, t) => .error (st, s.asking t)

/-- A data store of slot `s.cur` (R210): every check before any byte. -/
def storeBytes (s : State) (c : Cap) (a : Nat) (bs : List Byte) (align : Nat) (k : StoreAs := {}) : R State := do
  let ps ← accessPieces s c a bs.length pW { w := true } .plain align
  let t ← arrive s s.world ps
  allOrNone s (storePieces t ps bs [] k)

end Sys2Proof.Machine
end

