-- ==== Sys2Proof/Machine/SpecialFn.lean ====
section
/-!
DEFINITION. The special functions of R100. Where a value is not a dyadic number it is computed below its exact
magnitude in fixed point, to at least 120 bits of relative precision, and marked sticky; Encode then rounds it once.
DEDUCED: R100 asks for the correctly rounded value; that 120 bits decide the rounding for every operand of f32, bf16
and f16 is not proved here (log 29).
-/

namespace Sys2Proof.Machine

/-- floor(2^640 * ln 2). -/
def ln2Fix : Nat :=
  0xb17217f7d1cf79abc9e3b39803f2f6af40f343267298b62d8a0d175b8baafa2be7b876206debac98559552fb4afa1b10ed2eae35c138214427573b291169b8253e96ca16224ae8c51acbda11317c387e
/-- floor(2^640 * pi). -/
def piFix : Nat :=
  0x3243f6a8885a308d313198a2e03707344a4093822299f31d0082efa98ec4e6c89452821e638d01377be5466cf34e90c6cc0ac29b7c97c50dd3f84d5b5b54709179216d5d98979fb1bd1310ba698dfb5ac
/-- floor(2^640 / ln 2). -/
def log2eFix : Nat :=
  0x171547652b82fe1777d0ffda0d23a7d11d6aef551bad2b4b1164a2cd9a342648fbc3887eeaa2ed9ac49b25eeb82d7c167d52173cc1895213f897f5e06a7be73665fc529264c2fb3ab643687aaf3ab440c

/-- The exponential series from term number `k` with `k`-th term `t`, at `p` fraction bits, `x` the argument. -/
def expSeries (p x : Nat) : Nat → Nat → Nat → Nat
  | 0, _, _ => 0
  | n + 1, k, t => if t == 0 then 0 else t + expSeries p x n (k + 1) (t * x / 2 ^ p / (k + 1))

/-- 2^f at `p` fraction bits, for f in [0, 1) given at `p` fraction bits. DEDUCED, unsafe: log 29. -/
def exp2Frac (p f : Nat) : Nat := expSeries p (f * ln2Fix / 2 ^ 640) 400 0 (2 ^ p)

/-- 2^x for a dyadic x that is no integer, as mantissa and exponent, at `p` fraction bits. -/
def exp2Dyad (p : Nat) (neg : Bool) (m : Nat) (e : Int) : Nat × Int :=
  let v := dyadInt neg m e (-(p : Int))
  let fl := v / 2 ^ p
  (exp2Frac p (v % 2 ^ p).toNat, fl - p)

/-- 2^x of a finite x (R100): exact for integers; beyond magnitude 4,096 the result is past every format. -/
def exp2Num (neg : Bool) (m : Nat) (e : Int) (sticky : Bool) : Num :=
  if m == 0 then .one
  else if 12 < e + bitLen m then .fin false 1 (if neg then -4096 else 4096) true
  else
    let q := if e < 0 then (-e).toNat else 0
    if e < 0 && m % 2 ^ q != 0 then
      let (r, x) := exp2Dyad (max 300 q) neg m e
      .fin false r x true
    else
      let n : Int := (if 0 ≤ e then m * 2 ^ e.toNat else m / 2 ^ q : Nat)
      .fin false 1 (if neg then -n else n) sticky

def fnExp2 (x : Num) : Num × Flags :=
  match x with
  | .nan => (.nan, 0)
  | .inf n => (if n then .zero else .inf false, 0)
  | .fin n m e s => (exp2Num n m e s, 0)

/-- vexpd (R100): 2^(a - b) of the exact difference. -/
def fnExpd (a b : Num) : Num × Flags :=
  match a, b with
  | .nan, _ => (.nan, 0)
  | _, .nan => (.nan, 0)
  | .inf true, .inf true => (.zero, 0)
  | .inf false, .inf false => (.nan, fNV)
  | _, _ => fnExp2 (Num.add .rne a b.neg).1

/-- The first `n` bits after the point of log2 y, for y in [1, 2) at `p` fraction bits. -/
def log2Bits (p : Nat) : Nat → Nat → Nat → Nat
  | 0, _, acc => acc
  | n + 1, y, acc =>
    let y2 := y * y / 2 ^ p
    if 2 ^ (p + 1) ≤ y2 then log2Bits p n (y2 / 2) (2 * acc + 1) else log2Bits p n y2 (2 * acc)

def fnLog2 (x : Num) : Num × Flags :=
  match x with
  | .nan => (.nan, 0)
  | .inf n => if n then (.nan, fNV) else (.inf false, 0)
  | .fin n m e _ =>
    if m == 0 then (.inf true, fDZ)
    else if n then (.nan, fNV)
    else
      let l := Nat.log2 m
      let ip : Int := e + l
      if m == 2 ^ l then (.ofInt ip, 0)
      else
        -- log2 x lies strictly between (ip * 2^160 + frac) and one more, over 2^160
        let frac := log2Bits 400 160 (m * 2 ^ 400 / 2 ^ l) 0
        let v : Int := ip * 2 ^ 160 + frac
        if 0 ≤ v then (.fin false v.toNat (-160) true, 0)
        else (.fin true (-(v + 1)).toNat (-160) true, 0)

/-- The sine series of `t` at `p` fraction bits: `term` is t^(2k+1)/(2k+1)!. -/
def sinSeries (p t2 : Nat) : Nat → Nat → Int → Bool → Int
  | 0, _, _, _ => 0
  | n + 1, k, term, neg =>
    if term == 0 then 0
    else (if neg then -term else term) +
      sinSeries p t2 n (k + 1) (term * t2 / 2 ^ p / ((2 * k + 2) * (2 * k + 3))) (!neg)

/-- sin(pi * m * 2^e) for 0 < m * 2^e <= 1/2 other than 1/2. -/
def sinPiSmall (m : Nat) (e : Int) : Num :=
  let lead : Int := e + bitLen m
  let p : Nat := 300 + (if lead < 0 then (-lead).toNat else 0)
  let t := m * piFix * 2 ^ (e - 640 + p + 640).toNat / 2 ^ 640
  let v := sinSeries p (t * t / 2 ^ p) 400 0 t false
  .fin false (v.toNat - 1) (-(p : Int)) true

/-- sin(pi * r) with r = m * 2^e in [0, 2), exact at multiples of 1/2. -/
def sinPiRed (m : Nat) (e : Int) : Num :=
  -- work in units of 2^e with e at most -1
  let (m, e) := if -1 < e then (m * 2 ^ (e + 1).toNat, (-1 : Int)) else (m, e)
  let one := 2 ^ (-e).toNat
  let (neg, m) := if one ≤ m then (true, m - one) else (false, m)
  let m := if one < 2 * m then one - m else m
  if m == 0 then .fin neg 0 0 false
  else if 2 * m == one then .fin neg 1 0 false
  else match sinPiSmall m e with
    | .fin _ r x s => .fin neg r x s
    | y => y

/-- The magnitude modulo 2 (R100: the functions have period 2). -/
def mod2 (m : Nat) (e : Int) : Nat × Int :=
  if 1 ≤ e then (0, 0) else (m % 2 ^ (1 - e).toNat, e)

def fnSin (x : Num) : Num × Flags :=
  match x with
  | .nan => (.nan, 0)
  | .inf _ => (.nan, fNV)
  | .fin n m e _ =>
    let (m, e) := mod2 m e
    match sinPiRed m e with
    | .fin sg r q s => if r == 0 then (.fin n 0 0 false, 0) else (.fin (sg != n) r q s, 0)
    | y => (y, 0)

/-- cos(pi a) = sin(pi (|a| + 1/2)); the zeros at half-integers are +0 (R100). -/
def fnCos (x : Num) : Num × Flags :=
  match x with
  | .nan => (.nan, 0)
  | .inf _ => (.nan, fNV)
  | .fin _ m e _ =>
    let (m, e) := mod2 m e
    let (m, e) := if -1 < e then (m * 2 ^ (e + 1).toNat, (-1 : Int)) else (m, e)
    let half := 2 ^ (-1 - e).toNat
    match sinPiRed ((m + half) % (4 * half)) e with
    | .fin sg r q s => if r == 0 then (.zero, 0) else (.fin sg r q s, 0)
    | y => (y, 0)

/-- e^(-y) for y = m * 2^e > 0, at `p` fraction bits: mantissa and exponent; tiny beyond y = 2,048. -/
def expNeg (p m : Nat) (e : Int) : Nat × Int :=
  if 11 < e + bitLen m then (1, -2900)
  else
    let y : Nat := m * log2eFix * 2 ^ (e + p + 640).toNat / 2 ^ (640 + 640)
    let v : Int := -(y : Int) - 1
    (exp2Frac p (v % 2 ^ p).toNat, v / 2 ^ p - p)

def fnTanh (x : Num) : Num × Flags :=
  match x with
  | .nan => (.nan, 0)
  | .inf n => (.fin n 1 0 false, 0)
  | .fin n m e _ =>
    if m == 0 then (.fin n 0 0 false, 0)
    else
      let lead : Int := e + bitLen m
      if 11 < lead then (.fin n (2 ^ 300 - 1) (-300) true, 0)
      else
        let p : Nat := 300 + (if lead < 0 then (-lead).toNat else 0)
        let (r, q) := expNeg p m (e + 1)
        -- u = e^(-2|a|) at p fraction bits
        let u := if 0 ≤ q + p then r * 2 ^ (q + p).toNat else r / 2 ^ (-(q + p)).toNat
        (.fin n ((2 ^ p - u) * 2 ^ p / (2 ^ p + u) - 1) (-(p : Int)) true, 0)

def fnSigm (x : Num) : Num × Flags :=
  match x with
  | .nan => (.nan, 0)
  | .inf n => (if n then .zero else .one, 0)
  | .fin n m e _ =>
    if m == 0 then (.fin false 1 (-1) false, 0)
    else
      let p : Nat := 400
      let (r, q) := expNeg p m e
      -- u = r * 2^q; 1 = 2^(-q) * 2^q
      let one := 2 ^ (-q).toNat
      let num := if n then r else one
      -- the value is never zero: below 2^(-400) it rounds as any value there does
      (.fin false (max 1 (num * 2 ^ 400 / (one + r))) (-400) true, 0)

/-- 1 / a (R100). -/
def fnRcp (x : Num) : Num × Flags := Num.div .one x

/-- 1 / sqrt a (R100). -/
def fnRsq (x : Num) : Num × Flags :=
  match x with
  | .nan => (.nan, 0)
  | .inf n => if n then (.nan, fNV) else (.zero, 0)
  | .fin n m e _ =>
    if m == 0 then (.inf n, fDZ)
    else if n then (.nan, fNV)
    else
      -- a = m * 2^e with e even; 1/sqrt a = sqrt(2^(2k) / m) * 2^(-k - e/2)
      let (m, e) := if e % 2 == 0 then (m, e) else (2 * m, e - 1)
      let k := 80 + bitLen m
      let r := isqrt (2 ^ (2 * k) / m)
      (.fin false r (-(k : Int) - e / 2) (r * r * m != 2 ^ (2 * k)), 0)

end Sys2Proof.Machine
end

