-- ==== Sys2Proof/Machine/VecOps.lean ====
section
/-!
DEFINITION. What the vector instructions compute, lane by lane, as functions of register contents (R91-R102). The
result of a vector instruction is a line, the bits of it that are written, and the flags; a register keeps the bits
that are not written, and so does the memory under a pushed stream row (R103).
-/

namespace Sys2Proof.Machine

/-- The result of a vector instruction (R91, R103). -/
structure VRes where
  val : Line
  wr : Line
  flags : Flags
deriving DecidableEq, Repr

/-- Lane `i` of `b` bits (R91). -/
def lane (b : Nat) (v : Line) (i : Nat) : Nat := v.toNat / 2 ^ (b * i) % 2 ^ b

/-- Lane `i` of `b` bits as a line, the rest zero. -/
def laneAt (b i c : Nat) : Line := BitVec.ofNat 1024 (c % 2 ^ b * 2 ^ (b * i))

/-- Number of lanes of `b` bits (R91). -/
def laneCount (b : Nat) : Nat := 1024 / b

/-- Write lane `i` of a result. -/
def VRes.put (r : VRes) (b i c : Nat) (fl : Flags) : VRes :=
  ⟨r.val ||| laneAt b i c, r.wr ||| laneAt b i (2 ^ b - 1), r.flags ||| fl⟩

/-- Nothing written. -/
def VRes.empty : VRes := ⟨0, 0, 0⟩

/-- Lanes below `n`: an enabled lane `i` takes `f i` at lane `dst i`; a masked-off lane follows ZM (R91). -/
def buildLanes (b : Nat) (mask : Gran) (zm : Bool) (dst : Nat → Nat) (f : Nat → Nat × Flags) : Nat → VRes
  | 0 => .empty
  | n + 1 =>
    let r := buildLanes b mask zm dst f n
    if mask.getLsbD n then r.put b (dst n) (f n).1 (f n).2
    else if zm then r.put b (dst n) 0 0 else r

/-- All lanes of width `b` in place. -/
def vMap (b : Nat) (mask : Gran) (zm : Bool) (f : Nat → Nat × Flags) : VRes :=
  buildLanes b mask zm id f (laneCount b)

/-- The old contents with the written bits replaced. -/
def VRes.merge (r : VRes) (old : Line) : Line := (old &&& ~~~r.wr) ||| (r.val &&& r.wr)

/-! ### Element operations of R94 -/

def elAdd (t : BitVec 4) (e : FpEnv) (a b : Nat) : Nat × Flags :=
  if tyI t then
    let i := IntTy.ofCode t
    (i.reduce e.sat (i.rd a + i.rd b), 0)
  else flAdd e (.ofCode t 0) a b
def elSub (t : BitVec 4) (e : FpEnv) (a b : Nat) : Nat × Flags :=
  if tyI t then
    let i := IntTy.ofCode t
    (i.reduce e.sat (i.rd a - i.rd b), 0)
  else flSub e (.ofCode t 0) a b
def elMul (t : BitVec 4) (e : FpEnv) (a b : Nat) : Nat × Flags :=
  if tyI t then
    let i := IntTy.ofCode t
    (i.reduce e.sat (i.rd a * i.rd b), 0)
  else flMul e (.ofCode t 0) a b
def elFma (t : BitVec 4) (e : FpEnv) (a b c : Nat) : Nat × Flags :=
  if tyI t then
    let i := IntTy.ofCode t
    (i.reduce e.sat (i.rd a * i.rd b + i.rd c), 0)
  else flFma e (.ofCode t 0) a b c
def elFms (t : BitVec 4) (e : FpEnv) (a b c : Nat) : Nat × Flags :=
  if tyI t then
    let i := IntTy.ofCode t
    (i.reduce e.sat (i.rd a * i.rd b - i.rd c), 0)
  else flFms e (.ofCode t 0) a b c
def elMin (t : BitVec 4) (e : FpEnv) (a b : Nat) : Nat :=
  if tyI t then (if (IntTy.ofCode t).rd b < (IntTy.ofCode t).rd a then b else a) else flMin e (.ofCode t 0) a b
def elMax (t : BitVec 4) (e : FpEnv) (a b : Nat) : Nat :=
  if tyI t then (if (IntTy.ofCode t).rd a < (IntTy.ofCode t).rd b then b else a) else flMax e (.ofCode t 0) a b
def elAbs (t : BitVec 4) (e : FpEnv) (a : Nat) : Nat :=
  if tyI t then (IntTy.ofCode t).reduce e.sat |(IntTy.ofCode t).rd a| else flAbs (.ofCode t 0) e.tcx a
def elNeg (t : BitVec 4) (e : FpEnv) (a : Nat) : Nat :=
  if tyI t then (IntTy.ofCode t).reduce e.sat (-(IntTy.ofCode t).rd a) else flNeg (.ofCode t 0) e.tcx a

/-- min(max(a, b), c) (R94). -/
def elClamp (t : BitVec 4) (e : FpEnv) (a b c : Nat) : Nat := elMin t e (elMax t e a b) c

/-- vshr: arithmetic for i types (R94). -/
def elShr (t : BitVec 4) (w a s : Nat) : Nat := if tySigned t then sraPat w a s else shrPat w a s

/-- The condition of a vcmp lane and its NV (R95). -/
def elCond (t : BitVec 4) (tcx : Bool) (sub a b : Nat) : Bool × Flags :=
  if tyI t then (intCond sub ((IntTy.ofCode t).rd a) ((IntTy.ofCode t).rd b), 0)
  else flCond sub (Fmt.decode (.ofCode t 0) tcx a) (Fmt.decode (.ofCode t 0) tcx b)

/-- vcmp (R95): the bits below `n` of the mask and NV. -/
def vcmpBits (t : BitVec 4) (tcx : Bool) (sub : Nat) (mask : Gran) (zm : Bool) (old : Gran) (a b : Line) :
    Nat → Gran × Flags
  | 0 => (0, 0)
  | n + 1 =>
    let r := vcmpBits t tcx sub mask zm old a b n
    let w := laneBits t
    if mask.getLsbD n then
      let c := elCond t tcx sub (lane w a n) (lane w b n)
      (r.1 ||| (if c.1 then (1 : Gran) <<< n else 0), r.2 ||| c.2)
    else (r.1 ||| (if !zm && old.getLsbD n then (1 : Gran) <<< n else 0), r.2)

/-- vcvt (R96). `ss` and `sd` are the formats, `p` the part. -/
def vcvtLanes (ss sd : Fmt) (bs bd p : Nat) (e : FpEnv) (mask : Gran) (zm : Bool) (a : Line) : VRes :=
  let n := laneCount (max bs bd)
  buildLanes bd mask zm (fun j => if bd < bs then p * n + j else j)
    (fun j => sd.encode e.tcx e.rm e.sat (ss.decode e.tcx (lane bs a (if bs < bd then p * n + j else j)))) n

/-- The exact integer dot product of `r` elements of `w` bits from element `k` (R97). -/
def dotInt (t : IntTy) (a b : Line) (k : Nat) : Nat → Int
  | 0 => 0
  | r + 1 => dotInt t a b k r + t.rd (lane t.w a (k + r)) * t.rd (lane t.w b (k + r))

/-- The sum of a list of numbers under the rule of R101: opposite infinities give NaN and NV, else a NaN gives NaN. -/
def sumNums (rm : Rm) (xs : List Num) : Num × Flags :=
  if xs.contains (.inf true) && xs.contains (.inf false) then (.nan, fNV)
  else if xs.any Num.isNan then (.nan, 0)
  else match xs with
    | [] => (.zero, 0)
    | y :: ys => (ys.foldl (fun acc z => (Num.add rm acc z).1) y, 0)

/-- The products and the accumulator of a float lane of vdot, with the flags of the products (R97). -/
def dotFloat (e : FpEnv) (f : Fmt) (w : Nat) (a b : Line) (i : Nat) (c : Num) : Num × Flags :=
  let r := 32 / w
  let ps := (List.range r).map fun t =>
    Num.mul (f.decode e.tcx (lane w a (r * i + t))) (f.decode e.tcx (lane w b (r * i + t)))
  let s := sumNums e.rm (c :: ps.map (·.1))
  (s.1, ps.foldl (fun acc p => acc ||| p.2) s.2)

/-- vdot lane `i` (R97). -/
def vdotLane (t : BitVec 4) (e : FpEnv) (a b c : Line) (i : Nat) : Nat × Flags :=
  if tyI t then
    let it := IntTy.ofCode t
    let r := 32 / it.w
    ((⟨true, 32⟩ : IntTy).reduce e.sat (intDecode true 32 (lane 32 c i) + dotInt it a b (r * i) r), 0)
  else
    let f := Fmt.ofCode t 0
    e.fin .f32 (dotFloat e f 16 a b i (Fmt.decode .f32 e.tcx (lane 32 c i)))

/-- The enabled lanes among the first `n`, lowest first. -/
def enabledLanes (w : Nat) (mask : Gran) (a : Line) (n : Nat) : List Nat :=
  (List.range n).filterMap fun i => if mask.getLsbD i then some (lane w a i) else none

/-- The sum of lane codes, rounded or reduced once (R101). -/
def sumCodes (t : BitVec 4) (e : FpEnv) (cs : List Nat) : Nat × Flags :=
  if tyI t then
    let i := IntTy.ofCode t
    (i.reduce e.sat (cs.foldl (fun s c => s + i.rd c) 0), 0)
  else e.fin (.ofCode t 0) (sumNums e.rm (cs.map (Fmt.decode (.ofCode t 0) e.tcx)))

/-- The maximum or minimum of lane codes, a lone NaN made canonical (R64); the value of no lane at all (R101). -/
def extremeCodes (t : BitVec 4) (e : FpEnv) (wantMax : Bool) (cs : List Nat) : Nat :=
  match cs with
  | c :: _ => cs.foldl (fun acc x => if wantMax then elMax t e acc x else elMin t e acc x) c
  | [] =>
    if tyI t then
      let i := IntTy.ofCode t
      intCode i.w (if wantMax then i.minV else i.maxV)
    else (Fmt.encode (.ofCode t 0) e.tcx .rne false (.inf wantMax)).1

/-- A line whose lane 0 is `c` and whose other lanes are zero, wholly written. -/
def laneZeroOnly (c : Nat) (fl : Flags) : VRes := ⟨BitVec.ofNat 1024 c, BitVec.allOnes 1024, fl⟩

/-- vscan (R101). -/
def vscanLanes (t : BitVec 4) (e : FpEnv) (mask : Gran) (zm : Bool) (a : Line) : VRes :=
  vMap (laneBits t) mask zm fun i => sumCodes t e (enabledLanes (laneBits t) mask a (i + 1))

/-- vpack (R102): lane `i` of the result. -/
def vpackLane (t : BitVec 4) (sat : Bool) (a b : Line) (i : Nat) : Nat :=
  let d := IntTy.ofCode t
  let s : IntTy := ⟨d.signed, 2 * d.w⟩
  let n := laneCount d.w
  d.reduce sat (s.rd (if i < n / 2 then lane s.w a i else lane s.w b (i - n / 2)))

/-- vunpack (R102): lane `i` of the result. -/
def vunpackLane (t : BitVec 4) (sub : Nat) (a : Line) (i : Nat) : Nat :=
  let d := IntTy.ofCode t
  let h : IntTy := ⟨d.signed, d.w / 2⟩
  intCode d.w (h.rd (lane h.w a (sub * laneCount d.w + i)))

/-- The lowest `n` bits set. -/
def lowMask (n : Nat) : Gran := BitVec.ofNat 128 (2 ^ n - 1)

end Sys2Proof.Machine
end

