-- ==== Sys2Proof/Machine/Flags.lean ====
section
/-!
DEFINITION. FMODE and FSTAT: the rounding mode and reading an instruction runs under, and what becomes of the flags it
raises (R53, R62, R66-R69).
-/

namespace Sys2Proof.Machine

/-! ### Floating-point modes (R67-R69) -/

/-- FMODE.TCX (R53). -/
def Slot.tcx (sl : Slot) : Bool := sl.fmode.getLsbD 11
/-- The rounding code in effect (R38, R62). -/
def Slot.rmCode (sl : Slot) (code : BitVec 3) : BitVec 3 := if code = 0 then sl.fmode.extractLsb' 8 3 else code
/-- What an element operation of the slot runs under. -/
def Slot.fpEnv (sl : Slot) (m : ModF) : FpEnv := ⟨sl.tcx, Rm.ofCode (sl.rmCode m.rm).toNat, m.sat == 1⟩

/-- Flags are ORed into FSTAT, or FPE is taken when one of them is enabled (R68, R69). -/
def raiseFlags (s : State) (fl : Flags) : R State :=
  if fl &&& s.sl.fmode.extractLsb' 0 5 ≠ 0 then raise s cFPE fl.toNat 0
  else .ok (s.modCur fun sl => { sl with fstat := sl.fstat ||| fl.setWidth 64 })

/-- Flags of an engine's work: ORed, never trapped (R220, R124, R129). -/
def State.orFlags (s : State) (i : SlotId) (fl : Flags) : State :=
  s.modSlot i fun sl => { sl with fstat := sl.fstat ||| fl.setWidth 64 }

end Sys2Proof.Machine
end

