-- ==== Sys2Proof/Machine/Operands.lean ====
section
/-!
DEFINITION. Operand forms: the register or immediate operand of the integer group (R73, R77), the address of the M
format (R40), and vector operands, which may name a stream port (R103, R106).
-/

namespace Sys2Proof.Machine

/-! ### Register or immediate -/

def riHdr : RIOp → Hdr
  | .r o => o.hdr
  | .i o => o.hdr
def riMd : RIOp → ModF
  | .r o => o.md
  | .i o => o.md
def riOd : RIOp → BitVec 6
  | .r o => o.od
  | .i o => o.od
def riOa : RIOp → BitVec 6
  | .r o => o.oa
  | .i o => o.oa
/-- x(OB), or IMM32 sign-extended (R73). -/
def riSext (s : State) : RIOp → Word
  | .r o => s.rx o.ob
  | .i o => o.imm.signExtend 64
/-- x(OB), or IMM32 zero-extended (R77). -/
def riZext (s : State) : RIOp → Word
  | .r o => s.rx o.ob
  | .i o => o.imm.setWidth 64
/-- x(OA) in the R form, IMM32 zero-extended in the I form (R152, R307, R308). -/
def riAorImm (s : State) : RIOp → Word
  | .r o => s.rx o.oa
  | .i o => o.imm.setWidth 64
/-- x(OA) in the R form, IMM32 sign-extended in the I form. -/
def riAorImmS (s : State) : RIOp → Word
  | .r o => s.rx o.oa
  | .i o => o.imm.signExtend 64

/-! ### The M format (R40) -/

/-- z = log2(s) (R40). -/
def szLog (z : BitVec 3) : Nat :=
  match z.toNat with
  | 0 => 0
  | 1 => 1
  | 2 => 2
  | 3 => 3
  | 4 => 4
  | 5 => 7
  | _ => 4

/-- cursor + (index << z) + (OFF12 << z), modulo 2^64 (R40). -/
def eaOf (c : Cap) (index : Word) (off : BitVec 12) (z : Nat) : Word :=
  capCursor c + (index <<< z) + ((off.signExtend 64) <<< z)

/-- The address of an M-format access (R40). -/
def mEa (s : State) (o : MOp) : Nat := (eaOf (s.rc o.oa) (s.rx o.ob) o.off (szLog o.size)).toNat
/-- The address of an atomic or a reduction: OB takes no part (R40). -/
def mEaAtomic (s : State) (o : MOp) : Nat := (eaOf (s.rc o.oa) 0 o.off (szLog o.size)).toNat

/-! ### Vector operands (R103, R106) -/

/-- The number of the port a v register stands for, when that port is bound. -/
def portOf (sl : Slot) (r : BitVec 6) : Option (Fin 4) :=
  if h : 60 ≤ r.toNat then
    let p : Fin 4 := ⟨r.toNat - 60, by have := r.isLt; omega⟩
    if sl.ports[p].bound then some p else none
  else none

def Slot.port (sl : Slot) (p : Fin 4) : Port := sl.ports[p]
def Slot.modPort (sl : Slot) (p : Fin 4) (f : Port → Port) : Slot := { sl with ports := sl.ports.set p (f sl.ports[p]) }
/-- The register's own contents (R103). -/
def Slot.rv (sl : Slot) (r : BitVec 6) : Line := sl.v[r.toNat]'r.isLt
def Slot.wv (sl : Slot) (r : BitVec 6) (v : Line) : Slot := { sl with v := sl.v.set r.toNat v r.isLt }.mended 5 r.toNat

/-- Number of rows of a started stream (R105). -/
def Port.total (p : Port) : Nat := p.cnt.toList.foldl (fun n c => n * c.toNat) 1

/-- The exact address of row `i`, before reduction (R105): dimension 0 varies fastest. -/
def rowAddr (base : Int) : Nat → List (Nat × Int) → Int
  | _, [] => base
  | i, (c, st) :: ds => rowAddr (base + (i % c : Nat) * st) (i / c) ds

/-- The dimensions of a port: counts and strides. -/
def Port.dims (p : Port) : List (Nat × Int) := (p.cnt.toList.map BitVec.toNat).zip (p.str.toList.map BitVec.toInt)

/-- The address of row `i` of a port, modulo 2^64. -/
def Port.row (p : Port) (i : Nat) : Nat := (rowAddr (capCursor p.cap).toNat i p.dims % 2 ^ 64).toNat

/-- A port that a non-vector instruction names raises STRM, aux 8 (R103, R106). DEDUCED, unsafe: log 30. -/
def noPort (s : State) (r : BitVec 6) : R Unit :=
  match portOf s.sl r with
  | some p => raise s cSTRM 8 ((s.sl.port p).row (s.sl.port p).next)
  | none => .ok ()

/-- A port that has lost its capability's tag raises CAPT (R337); a pushed row that has failed is reported at the next
instruction that names the port, once (R106). DESIGN CHOICE, unsafe: log 75. -/
def portSound (s : State) (i : Fin 4) : R Unit :=
  let p := s.sl.port i
  if !p.cap.tag then raise s cCAPT 0 (p.row p.next)
  else match p.failed with
    | some f => .error (.trap f, s.modCur fun sl => sl.modPort i fun p => { p with failed := none })
    | none => .ok ()

/-- The checks of R106 on a port that a vector instruction names. DEDUCED, unsafe: log 31. -/
def portUsable (s : State) (i : Fin 4) (write : Bool) : R Unit := do
  let p := s.sl.port i
  guardR s p.started cSTRM 7 (p.row p.next)
  portSound s i
  guardR s (p.write == write) cSTRM 5 (p.row p.next)
  guardR s (p.next < p.total) cSTRM 6 (p.row p.next)

/-- The value of a vector source: a register, or the next row of a read port, which is not popped yet (R93, R103). A
row that could not be fetched raises its own fault, and is fetched again when the instruction is retried (R106). -/
def readV (s : State) (r : BitVec 6) : R Line :=
  match portOf s.sl r with
  | none => .ok (s.sl.rv r)
  | some i => do
    portUsable s i false
    let p := s.sl.port i
    match p.rows with
    | [] => waitFor (s.post (.streamRowFetch s.cur i)) .stream (p.row p.next)
    | .ok v _ :: _ => .ok v
    | .bad f :: _ => .error (.trap f, s.modCur fun sl => sl.modPort i fun p => { p with rows := [] })

/-- The rows a list of vector sources has read are popped, each port once; the engine fetches on (R103, R107). -/
def popPorts (s : State) : List (BitVec 6) → List (Fin 4) → State
  | [], _ => s
  | r :: rs, done =>
    match portOf s.sl r with
    | some i =>
      if done.contains i || (s.sl.port i).write then popPorts s rs done
      else
        let s := s.modCur fun sl => sl.modPort i fun p => { p with next := p.next + 1, rows := p.rows.tail }
        popPorts (s.post (.streamRowFetch s.cur i)) rs (i :: done)
    | none => popPorts s rs done

/-- Rows of a port that stand in the side log. -/
def State.loggedRows (s : State) (i : Fin 4) : List Nat :=
  (s.sideLog.filterMap fun e => match e.who with
    | .row f p n => if f == s.sl.fib && p == i then some n else none
    | _ => none).dedup

/-- Rows pushed to a write port and not yet performed (R107). -/
def State.rowsOpen (s : State) (i : Fin 4) : Nat := (s.sl.port i).rows.length + (s.loggedRows i).length

/-- Whether the destination can take a result (R106, R107). -/
def destReady (s : State) (r : BitVec 6) : R Unit :=
  match portOf s.sl r with
  | none => .ok ()
  | some i => do
    portUsable s i true
    let p := s.sl.port i
    if 8 ≤ s.rowsOpen i then waitFor s .stream (p.row p.next) else .ok ()

/-- Write a vector destination: a register keeps the bits not written; a write port takes the row (R91, R103). -/
def writeV (s : State) (r : BitVec 6) (res : VRes) : State :=
  match portOf s.sl r with
  | none => s.modCur fun sl => sl.wv r (res.merge (sl.rv r))
  | some i =>
    let s := s.modCur fun sl => sl.modPort i fun p =>
      { p with next := p.next + 1, rows := p.rows ++ [.ok res.val res.wr] }
    s.post (.streamRowPerform s.cur i)

/-- A vector instruction: its sources are read, its flags raised, and only then are rows popped and pushed (R93). -/
def vecBody (d : BitVec 6) (srcs : List (BitVec 6)) (f : Slot → List Line → VRes) (s : State) : R State := do
  let vs ← srcs.mapM (readV s)
  destReady s d
  let res := f s.sl vs
  let s ← raiseFlags s res.flags
  .ok (writeV (popPorts s srcs []) d res)

/-- A vector instruction whose destination is no v register. -/
def vecRead (srcs : List (BitVec 6)) (f : Slot → List Line → Flags × (State → State)) (s : State) : R State := do
  let vs ← srcs.mapM (readV s)
  let r := f s.sl vs
  let s ← raiseFlags s r.1
  .ok (r.2 (popPorts s srcs []))

end Sys2Proof.Machine
end

