-- ==== Sys2Proof/Machine/Control.lean ====
section
/-!
DEFINITION. The control group (R292, R293). A transfer is checked at its target (R44).
-/

namespace Sys2Proof.Machine

/-- The pc moved by a displacement in instructions (R28, R292). DEDUCED, unsafe: log 73. -/
def Slot.displaced (sl : Slot) (imm : BitVec 32) : Cap := capMoveCursor sl.pcc (sl.pc + 12 * imm.signExtend 64)
/-- Link (R293). -/
def Slot.link (sl : Slot) : Cap := capMoveCursor sl.pcc (sl.pc + 12)
def State.setPcc (s : State) (c : Cap) : State := s.modCur fun sl => { sl with pcc := c }.mended 2 0

def execBr (o : IOp) (s : State) : Out := finishJump o.hdr (fun s => .ok (s.setPcc (s.sl.displaced o.imm))) s

def execJmp (o : ROp) (s : State) : Out := finishJump o.hdr (fun s => .ok (s.setPcc (capTarget (s.rc o.oa)))) s

/-- call: the target is read before cret is written (R292). -/
def execCall (o : RIOp) (s : State) : Out :=
  finishJump (riHdr o) (fun s =>
    let t := match o with
      | .r r => capTarget (s.rc r.oa)
      | .i r => s.sl.displaced r.imm
    .ok ((s.wc 31 s.sl.link).setPcc t)) s

def execRet (o : ROp) (s : State) : Out := finishJump o.hdr (fun s => .ok (s.setPcc (s.rc o.oa))) s

def execLoop (o : IOp) (s : State) : Out :=
  finishJump o.hdr (fun s =>
    let n := s.rx o.od - 1
    let t := if n != 0 then s.sl.displaced o.imm else s.sl.link
    .ok ((s.wx o.od n).setPcc t)) s

def execNop (o : ROp) (s : State) : Out := finish o.hdr (fun s => .ok s) s

end Sys2Proof.Machine
end

