-- ==== Sys2Proof/Machine/Vector.lean ====
section
/-!
DEFINITION. Vector arithmetic, comparisons, conversions, lane moves and masks (R94-R99). The work of an instruction that
a repetition block may hold (R111) is a body of its own, which the block issues too.
-/

namespace Sys2Proof.Machine

/-! ### Shapes -/

/-- k(KM). -/
def kmOf (sl : Slot) (m : ModF) : Gran := sl.rk (m.km.setWidth 6)
/-- ZM. -/
def zmOf (m : ModF) : Bool := m.zm == 1
/-- The `i`th of the values read. -/
def nth (vs : List Line) (i : Nat) : Line := vs.getD i 0

/-- One lane effect on one source. -/
def lanes1 (o : ROp) (f : FpEnv → Nat → Nat × Flags) : State → R State :=
  vecBody o.od [o.oa] fun sl vs =>
    let w := laneBits o.md.ty
    vMap w (kmOf sl o.md) (zmOf o.md) fun i => f (sl.fpEnv o.md) (lane w (nth vs 0) i)

/-- One lane effect on two sources. -/
def lanes2 (o : ROp) (f : FpEnv → Nat → Nat → Nat × Flags) : State → R State :=
  vecBody o.od [o.oa, o.ob] fun sl vs =>
    let w := laneBits o.md.ty
    vMap w (kmOf sl o.md) (zmOf o.md) fun i => f (sl.fpEnv o.md) (lane w (nth vs 0) i) (lane w (nth vs 1) i)

/-- One lane effect on three sources. -/
def lanes3 (o : ROp) (f : FpEnv → Nat → Nat → Nat → Nat × Flags) : State → R State :=
  vecBody o.od [o.oa, o.ob, o.oc] fun sl vs =>
    let w := laneBits o.md.ty
    vMap w (kmOf sl o.md) (zmOf o.md) fun i =>
      f (sl.fpEnv o.md) (lane w (nth vs 0) i) (lane w (nth vs 1) i) (lane w (nth vs 2) i)

/-! ### Arithmetic (R94) -/

def vaddB (o : ROp) : State → R State := lanes2 o (elAdd o.md.ty)
def vsubB (o : ROp) : State → R State := lanes2 o (elSub o.md.ty)
def vmulB (o : ROp) : State → R State := lanes2 o (elMul o.md.ty)
def vfmaB (o : ROp) : State → R State := lanes3 o (elFma o.md.ty)
def vfmsB (o : ROp) : State → R State := lanes3 o (elFms o.md.ty)
def vminB (o : ROp) : State → R State := lanes2 o fun e a b => (elMin o.md.ty e a b, 0)
def vmaxB (o : ROp) : State → R State := lanes2 o fun e a b => (elMax o.md.ty e a b, 0)
def vabsB (o : ROp) : State → R State := lanes1 o fun e a => (elAbs o.md.ty e a, 0)
def vnegB (o : ROp) : State → R State := lanes1 o fun e a => (elNeg o.md.ty e a, 0)
def vandB (o : ROp) : State → R State := lanes2 o fun _ a b => (a &&& b, 0)
def vorB (o : ROp) : State → R State := lanes2 o fun _ a b => (a ||| b, 0)
def vxorB (o : ROp) : State → R State := lanes2 o fun _ a b => (a ^^^ b, 0)
def vmovB (o : ROp) : State → R State := lanes1 o fun _ a => (a, 0)
def vclampB (o : ROp) : State → R State := lanes3 o fun e a b c => (elClamp o.md.ty e a b c, 0)

/-- A shift: its amount is a lane of v(OB), or IMM32 for every lane (R94). -/
def vshiftB (f : Nat → Nat → Nat → Nat) : RIOp → State → R State
  | .r o => lanes2 o fun _ a b => (f (laneBits o.md.ty) a b, 0)
  | .i o => vecBody o.od [o.oa] fun sl vs =>
      let w := laneBits o.md.ty
      vMap w (kmOf sl o.md) (zmOf o.md) fun i => (f w (lane w (nth vs 0) i) o.imm.toNat, 0)

def vshlB (o : RIOp) : State → R State := vshiftB shlPat o
def vshrB (o : RIOp) : State → R State := vshiftB (elShr (riMd o).ty) o

/-! ### Comparison and selection (R95) -/

def vcmpB (o : ROp) : State → R State :=
  vecRead [o.oa, o.ob] fun sl vs =>
    let r := vcmpBits o.md.ty sl.tcx o.md.sub.toNat (kmOf sl o.md) (zmOf o.md) (sl.rk o.od) (nth vs 0) (nth vs 1)
      (laneCount (laneBits o.md.ty))
    (r.2, fun s => s.wk o.od r.1)

/-- vsel: KM selects, and every lane is written. -/
def vselB (o : ROp) : State → R State :=
  vecBody o.od [o.oa, o.ob] fun sl vs =>
    let w := laneBits o.md.ty
    vMap w (BitVec.allOnes 128) false fun i =>
      (lane w (if (kmOf sl o.md).getLsbD i then nth vs 0 else nth vs 1) i, 0)

/-! ### Conversion and products (R96, R97) -/

def vcvtB (o : ROp) : State → R State :=
  vecBody o.od [o.oa] fun sl vs =>
    vcvtLanes (.ofCode o.md.sub o.md.isp.toNat) (.ofCode o.md.ty o.md.isp.toNat) (laneBits o.md.sub) (laneBits o.md.ty)
      o.ob.toNat (sl.fpEnv o.md) (kmOf sl o.md) (zmOf o.md) (nth vs 0)

def vdotB (o : ROp) : State → R State :=
  vecBody o.od [o.oa, o.ob, o.oc] fun sl vs =>
    vMap 32 (kmOf sl o.md) (zmOf o.md) (vdotLane o.md.ty (sl.fpEnv o.md) (nth vs 0) (nth vs 1) (nth vs 2))

def vsclB (o : ROp) : State → R State :=
  vecBody o.od [o.oa] fun sl vs =>
    let e := sl.fpEnv o.md
    let f := Fmt.ofCode o.md.ty 0
    let w := laneBits o.md.ty
    let k := Fmt.decode .f32 e.tcx ((sl.rx o.ob).toNat % 2 ^ 32)
    vMap w (kmOf sl o.md) (zmOf o.md) fun i => e.fin f (Num.mul (f.decode e.tcx (lane w (nth vs 0) i)) k)

/-! ### Lane moves (R98) -/

def vbcastB (o : RIOp) : State → R State :=
  vecBody (riOd o) [] fun sl _ =>
    let v := (match o with
      | .r r => sl.rx r.oa
      | .i r => r.imm.setWidth 64).toNat
    vMap (laneBits (riMd o).ty) (kmOf sl (riMd o)) (zmOf (riMd o)) fun _ => (v, 0)

def vinsB (o : ROp) : State → R State :=
  vecBody o.od [] fun sl _ =>
    let w := laneBits o.md.ty
    if laneCount w ≤ (sl.rx o.ob).toNat then .empty
    else VRes.put .empty w (sl.rx o.ob).toNat (sl.rx o.oa).toNat 0

def vextB (o : ROp) : State → R State :=
  vecRead [o.oa] fun sl vs =>
    let w := laneBits o.md.ty
    let i := (sl.rx o.ob).toNat
    let v : Word := if laneCount w ≤ i then 0
      else if tySigned o.md.ty then BitVec.ofInt 64 (intDecode true w (lane w (nth vs 0) i))
      else BitVec.ofNat 64 (lane w (nth vs 0) i)
    (0, fun s => s.wx o.od v)

/-! ### Masks (R99) -/

def kop (o : ROp) (f : Gran → Gran → Gran) (s : State) : R State := .ok (s.wk o.od (f (s.rk o.oa) (s.rk o.ob)))
def kandB (o : ROp) : State → R State := kop o fun a b => a &&& b
def korB (o : ROp) : State → R State := kop o fun a b => a ||| b
def kxorB (o : ROp) : State → R State := kop o fun a b => a ^^^ b
def knotB (o : ROp) : State → R State := kop o fun a _ => ~~~a

def kpopB (o : ROp) (s : State) : R State :=
  .ok (s.wx o.od (BitVec.ofNat 64 (popBits (s.rk o.oa).toNat (laneCount (laneBits o.md.ty)))))
def kfirstB (o : ROp) (s : State) : R State :=
  .ok (s.wx o.od (BitVec.ofNat 64 (lowestSet (s.rk o.oa).toNat 0 (laneCount (laneBits o.md.ty)))))
def ksetB (o : RIOp) (s : State) : R State :=
  .ok (s.wk (riOd o) (lowMask (min (riAorImm s o).toNat (laneCount (laneBits (riMd o).ty)))))

/-- kmov in its four forms. -/
def kmovB (o : ROp) (s : State) : R State :=
  .ok (match o.md.sub.toNat with
    | 0 => s.wk o.od (s.rk o.oa)
    | 1 => s.wk o.od (s.rx o.ob ++ s.rx o.oa)
    | 2 => s.wx o.od ((s.rk o.oa).extractLsb' 0 64)
    | _ => s.wx o.od ((s.rk o.oa).extractLsb' 64 64))

/-! ### Meanings -/

def execVadd (o : ROp) (s : State) : Out := finish o.hdr (vaddB o) s
def execVsub (o : ROp) (s : State) : Out := finish o.hdr (vsubB o) s
def execVmul (o : ROp) (s : State) : Out := finish o.hdr (vmulB o) s
def execVfma (o : ROp) (s : State) : Out := finish o.hdr (vfmaB o) s
def execVfms (o : ROp) (s : State) : Out := finish o.hdr (vfmsB o) s
def execVmin (o : ROp) (s : State) : Out := finish o.hdr (vminB o) s
def execVmax (o : ROp) (s : State) : Out := finish o.hdr (vmaxB o) s
def execVabs (o : ROp) (s : State) : Out := finish o.hdr (vabsB o) s
def execVneg (o : ROp) (s : State) : Out := finish o.hdr (vnegB o) s
def execVand (o : ROp) (s : State) : Out := finish o.hdr (vandB o) s
def execVor (o : ROp) (s : State) : Out := finish o.hdr (vorB o) s
def execVxor (o : ROp) (s : State) : Out := finish o.hdr (vxorB o) s
def execVshl (o : RIOp) (s : State) : Out := finish (riHdr o) (vshlB o) s
def execVshr (o : RIOp) (s : State) : Out := finish (riHdr o) (vshrB o) s
def execVcmp (o : ROp) (s : State) : Out := finish o.hdr (vcmpB o) s
def execVsel (o : ROp) (s : State) : Out := finish o.hdr (vselB o) s
def execVcvt (o : ROp) (s : State) : Out := finish o.hdr (vcvtB o) s
def execVdot (o : ROp) (s : State) : Out := finish o.hdr (vdotB o) s
def execVscl (o : ROp) (s : State) : Out := finish o.hdr (vsclB o) s
def execVmov (o : ROp) (s : State) : Out := finish o.hdr (vmovB o) s
def execVbcast (o : RIOp) (s : State) : Out := finish (riHdr o) (vbcastB o) s
def execVins (o : ROp) (s : State) : Out := finish o.hdr (vinsB o) s
def execVext (o : ROp) (s : State) : Out := finish o.hdr (vextB o) s
def execVclamp (o : ROp) (s : State) : Out := finish o.hdr (vclampB o) s
def execKand (o : ROp) (s : State) : Out := finish o.hdr (kandB o) s
def execKor (o : ROp) (s : State) : Out := finish o.hdr (korB o) s
def execKxor (o : ROp) (s : State) : Out := finish o.hdr (kxorB o) s
def execKnot (o : ROp) (s : State) : Out := finish o.hdr (knotB o) s
def execKpop (o : ROp) (s : State) : Out := finish o.hdr (kpopB o) s
def execKfirst (o : ROp) (s : State) : Out := finish o.hdr (kfirstB o) s
def execKset (o : RIOp) (s : State) : Out := finish (riHdr o) (ksetB o) s
def execKmov (o : ROp) (s : State) : Out := finish o.hdr (kmovB o) s

end Sys2Proof.Machine
end

