-- ==== Sys2Proof/Machine/Special.lean ====
section
/-!
DEFINITION. Special functions (R100) and cross-lane instructions (R101, R102).
-/

namespace Sys2Proof.Machine

/-! ### Special functions (R100) -/

/-- A function of the exact operand, rounded once by RM and SAT. -/
def fnLanesRm (o : ROp) (f : Num → Num × Flags) : State → R State :=
  lanes1 o fun e a => e.fin (.ofCode o.md.ty 0) (f (Fmt.decode (.ofCode o.md.ty 0) e.tcx a))
/-- A function of the exact operand, rounded once by RNE. -/
def fnLanes (o : ROp) (f : Num → Num × Flags) : State → R State :=
  lanes1 o fun e a => ({ e with rm := .rne } : FpEnv).fin (.ofCode o.md.ty 0)
    (f (Fmt.decode (.ofCode o.md.ty 0) e.tcx a))

def vrcpB (o : ROp) : State → R State := fnLanesRm o fnRcp
def vrsqB (o : ROp) : State → R State := fnLanesRm o fnRsq
def vsqrtB (o : ROp) : State → R State := fnLanesRm o Num.sqrt
def vexp2B (o : ROp) : State → R State := fnLanes o fnExp2
def vlog2B (o : ROp) : State → R State := fnLanes o fnLog2
def vsinB (o : ROp) : State → R State := fnLanes o fnSin
def vcosB (o : ROp) : State → R State := fnLanes o fnCos
def vtanhB (o : ROp) : State → R State := fnLanes o fnTanh
def vsigmB (o : ROp) : State → R State := fnLanes o fnSigm
def vexpdB (o : ROp) : State → R State :=
  lanes2 o fun e a b => ({ e with rm := .rne } : FpEnv).fin (.ofCode o.md.ty 0)
    (fnExpd (Fmt.decode (.ofCode o.md.ty 0) e.tcx a) (Fmt.decode (.ofCode o.md.ty 0) e.tcx b))

/-! ### Reductions (R101) -/

def vredsumB (o : ROp) : State → R State :=
  vecBody o.od [o.oa] fun sl vs =>
    let w := laneBits o.md.ty
    let r := sumCodes o.md.ty (sl.fpEnv o.md) (enabledLanes w (kmOf sl o.md) (nth vs 0) (laneCount w))
    laneZeroOnly r.1 r.2
/-- vredmax and vredmin. -/
def extremeB (wantMax : Bool) (o : ROp) : State → R State :=
  vecBody o.od [o.oa] fun sl vs =>
    let w := laneBits o.md.ty
    laneZeroOnly (extremeCodes o.md.ty (sl.fpEnv o.md) wantMax
      (enabledLanes w (kmOf sl o.md) (nth vs 0) (laneCount w))) 0
def vredmaxB (o : ROp) : State → R State := extremeB true o
def vredminB (o : ROp) : State → R State := extremeB false o
def vscanB (o : ROp) : State → R State :=
  vecBody o.od [o.oa] fun sl vs => vscanLanes o.md.ty (sl.fpEnv o.md) (kmOf sl o.md) (zmOf o.md) (nth vs 0)

/-! ### Permutes and packs (R102) -/

def vpermB (o : ROp) : State → R State :=
  vecBody o.od [o.oa, o.ob] fun sl vs =>
    let w := laneBits o.md.ty
    vMap w (kmOf sl o.md) (zmOf o.md) fun i => (lane w (nth vs 0) (lane w (nth vs 1) i % laneCount w), 0)

def vshufB (o : ROp) : State → R State :=
  vecBody o.od [o.oa, o.ob, o.oc] fun sl vs =>
    let w := laneBits o.md.ty
    let n := laneCount w
    vMap w (kmOf sl o.md) (zmOf o.md) fun i =>
      let j := lane w (nth vs 1) i % (2 * n)
      (if j < n then lane w (nth vs 0) j else lane w (nth vs 2) (j - n), 0)

def vpackB (o : ROp) : State → R State :=
  vecBody o.od [o.oa, o.ob] fun sl vs =>
    vMap (laneBits o.md.ty) (kmOf sl o.md) (zmOf o.md) fun i =>
      (vpackLane o.md.ty (o.md.sat == 1) (nth vs 0) (nth vs 1) i, 0)

def vunpackB (o : ROp) : State → R State :=
  vecBody o.od [o.oa] fun sl vs =>
    vMap (laneBits o.md.ty) (kmOf sl o.md) (zmOf o.md) fun i =>
      (vunpackLane o.md.ty o.md.sub.toNat (nth vs 0) i, 0)

/-! ### Meanings -/

def execVrcp (o : ROp) (s : State) : Out := finish o.hdr (vrcpB o) s
def execVrsq (o : ROp) (s : State) : Out := finish o.hdr (vrsqB o) s
def execVsqrt (o : ROp) (s : State) : Out := finish o.hdr (vsqrtB o) s
def execVexp2 (o : ROp) (s : State) : Out := finish o.hdr (vexp2B o) s
def execVlog2 (o : ROp) (s : State) : Out := finish o.hdr (vlog2B o) s
def execVsin (o : ROp) (s : State) : Out := finish o.hdr (vsinB o) s
def execVcos (o : ROp) (s : State) : Out := finish o.hdr (vcosB o) s
def execVtanh (o : ROp) (s : State) : Out := finish o.hdr (vtanhB o) s
def execVsigm (o : ROp) (s : State) : Out := finish o.hdr (vsigmB o) s
def execVexpd (o : ROp) (s : State) : Out := finish o.hdr (vexpdB o) s
def execVredsum (o : ROp) (s : State) : Out := finish o.hdr (vredsumB o) s
def execVredmax (o : ROp) (s : State) : Out := finish o.hdr (vredmaxB o) s
def execVredmin (o : ROp) (s : State) : Out := finish o.hdr (vredminB o) s
def execVscan (o : ROp) (s : State) : Out := finish o.hdr (vscanB o) s
def execVperm (o : ROp) (s : State) : Out := finish o.hdr (vpermB o) s
def execVshuf (o : ROp) (s : State) : Out := finish o.hdr (vshufB o) s
def execVpack (o : ROp) (s : State) : Out := finish o.hdr (vpackB o) s
def execVunpack (o : ROp) (s : State) : Out := finish o.hdr (vunpackB o) s

end Sys2Proof.Machine
end

