-- ==== Sys2Proof/Machine/Stream.lean ====
section
/-!
DEFINITION. Stream ports (R103-R109): the stream instructions and the engine's work on a row.
-/

namespace Sys2Proof.Machine

/-! ### Checks -/

/-- Engines of the core's pool in use (R13). -/
def State.enginesUsed (s : State) : Nat :=
  (s.slots.toList.map fun sl =>
    if sl.restoring = RestorePh.none then (sl.ports.toList.filter (·.bound)).length else 0).sum

/-- The counts, strides and number of rows that R106 allows. -/
def Port.limitsOk (p : Port) : Bool :=
  p.cnt.toList.all (fun c => c != 0 && c.toNat < 2 ^ 32) &&
    p.str.toList.all (fun t => -2 ^ 31 ≤ t.toInt && t.toInt < 2 ^ 31) && p.total ≤ 2 ^ 32

/-- The base and the strides are multiples of 16. -/
def Port.aligned (p : Port) : Bool := capCursor p.cap % 16 == 0 && p.str.toList.all fun t => t % 16 == 0

/-- The lowest and the highest exact row address over some dimensions. -/
def rowSpan : List (Nat × Int) → Int × Int
  | [] => (0, 0)
  | (c, st) :: ds =>
    let r := rowSpan ds
    let far := ((c : Int) - 1) * st
    (r.1 + min 0 far, r.2 + max 0 far)

/-- The smallest value `base + i * st`, with `i < c`, that is at least `t`. -/
def leastFrom (base : Int) (c : Nat) (st t : Int) : Option Int :=
  if st = 0 then (if t ≤ base then some base else none)
  else if 0 < st then
    let i : Int := max 0 ((t - base + st - 1) / st)
    if i < c then some (base + i * st) else none
  else
    let i : Int := min ((c : Int) - 1) ((base - t) / (-st))
    if 0 ≤ i then some (base + i * st) else none

/-- The lower of two optional numbers. -/
def optMin : Option Int → Option Int → Option Int
  | some a, some b => some (min a b)
  | some a, none => some a
  | none, b => b

/-- The lowest exact row address that is at least `t`. -/
def leastRow (t : Int) : Int → List (Nat × Int) → Option Int
  | base, [] => if t ≤ base then some base else none
  | base, [(c, st)] => leastFrom base c st t
  | base, (c, st) :: ds =>
    (List.range c).foldl (fun best (i : Nat) => optMin best (leastRow t (base + i * st) ds)) none

/-- The lowest exact byte address of the footprint outside the bounds of the capability (R105). -/
def Port.firstOut (p : Port) : Option Int :=
  let base : Int := (capCursor p.cap).toNat
  let lo : Int := capBase p.cap
  let hi : Int := min (capTop p.cap) (2 ^ 64)
  let sp := rowSpan p.dims
  if base + sp.1 < lo then some (base + sp.1)
  else if base + sp.2 + 128 ≤ hi then none
  else (leastRow (hi - 127) base p.dims.reverse).map fun r => max r hi

/-- The checks of R105 in their order. DESIGN CHOICE, unsafe: log 74. -/
def streamCheck (s : State) (p : Port) : R Unit := do
  guardR s p.limitsOk cSTRM 3 0
  guardR s p.aligned cSTRM 4 0
  match p.firstOut with
  | some a => raise s cCAPB 0 (a % 2 ^ 64).toNat
  | none => .ok ()

/-- The checks of sbind on its capability (R104). -/
def sbindCheck (s : State) (c : Cap) (write : Bool) : R Unit :=
  match capCheckKind s.world c (if write then pW else pR) with
  | some cause => raise s cause 0 (capCursor c).toNat
  | none => .ok ()

/-- The port a stream instruction names. -/
def portIx (r : BitVec 6) : Fin 4 := Fin.ofNat 4 r.toNat

/-- The port is bound, or STRM aux 2. -/
def needBound (s : State) (i : Fin 4) : R Unit :=
  guardR s (s.sl.port i).bound cSTRM 2 ((s.sl.port i).row (s.sl.port i).next)

/-! ### Instructions (R104) -/

/-- sbind. -/
def execSbind (o : ROp) (s : State) : Out :=
  finish o.hdr (fun s => do
    let i := portIx o.od
    let p := s.sl.port i
    guardR s (!p.bound) cSTRM 1 (p.row p.next)
    let write := o.md.sub == 1
    sbindCheck s (s.rc o.oa) write
    if 8 ≤ s.enginesUsed then waitFor s .pool 0
    else
      let k := s.rx o.ob
      .ok (s.modCur fun sl => sl.modPort i fun _ =>
        { Port.unbound with
          bound := true, write := write, cap := s.rc o.oa, cnt := Vector.replicate 4 1,
          nud := if o.ob == 0 then 0xFF else k.extractLsb' 0 8,
          lvl := if o.ob == 0 then 0 else k.extractLsb' 8 2 })) s

/-- The count and the stride that sdim gives. -/
def sdimArgs (s : State) : RIOp → Word × Word
  | .r o => (s.rx o.oa, s.rx o.ob)
  | .i o => ((o.imm.extractLsb' 16 16).setWidth 64, (o.imm.extractLsb' 0 16).signExtend 64)

/-- sdim. -/
def execSdim (o : RIOp) (s : State) : Out :=
  finish (riHdr o) (fun s => do
    let i := portIx (riOd o)
    let p := s.sl.port i
    needBound s i
    guardR s (!p.started) cSTRM 2 (p.row p.next)
    portSound s i
    let a := sdimArgs s o
    let d : Fin 4 := Fin.ofNat 4 (riMd o).sub.toNat
    .ok (s.modCur fun sl => sl.modPort i fun p => { p with cnt := p.cnt.set d a.1, str := p.str.set d a.2 })) s

/-- Post the fetch of a read port's buffer of eight rows. -/
def State.postFetches (s : State) (sl : SlotId) (i : Fin 4) : Nat → State
  | 0 => s
  | n + 1 => (s.post (.streamRowFetch sl i)).postFetches sl i n

/-- sstart. -/
def execSstart (o : ROp) (s : State) : Out :=
  finish o.hdr (fun s => do
    let i := portIx o.od
    let p := s.sl.port i
    needBound s i
    guardR s (!p.started) cSTRM 2 (p.row p.next)
    portSound s i
    streamCheck s p
    let s := s.modCur fun sl => sl.modPort i fun p => { p with started := true }
    .ok (if p.write then s else s.postFetches s.cur i (min p.total 8))) s

/-- A unit of the core's pools is free again (R13). -/
def State.poolFreed (s : State) : State :=
  if s.slots.toList.any (fun sl => sl.waitsFor (fun k _ => k == .pool) || sl.restoring == .units) then s.post .poolGrant else s

/-- A write port with rows not yet performed, the side log's among them: the instruction waits (R104, R108). -/
def rowsDone (s : State) (i : Fin 4) : R Unit :=
  let p := s.sl.port i
  if p.write && s.rowsOpen i != 0 then waitFor s .stream (p.row (p.next - s.rowsOpen i)) else .ok ()

/-- sstop. -/
def execSstop (o : ROp) (s : State) : Out :=
  finish o.hdr (fun s => do
    let i := portIx o.od
    needBound s i
    portSound s i
    rowsDone s i
    .ok (s.modCur fun sl => sl.modPort i fun _ => Port.unbound).poolFreed) s

/-- swait. -/
def execSwait (o : ROp) (s : State) : Out :=
  finish o.hdr (fun s => do
    let i := portIx o.oa
    let p := s.sl.port i
    needBound s i
    portSound s i
    rowsDone s i
    .ok (s.wx o.od (BitVec.ofNat 64 (p.total - p.next)))) s

/-! ### The engine's work on a row (R103, R106-R108) -/

/-- STREAM_ROW_FETCH: the next row of a read port, when there is room for it. -/
def fetchRow (s : State) (i : Fin 4) : State :=
  let p := s.sl.port i
  let n := p.next + p.rows.length
  if p.bound && p.started && !p.write && p.rows.length < 8 && n < p.total then
    let a := p.row n
    match loadBytes s p.cap a 128 pR 1 { nud := p.nud, lvl := p.lvl } with
    | .ok (bs, s) =>
      ((s.peerUsed a 128).modCur fun sl => sl.modPort i fun p =>
        { p with rows := p.rows ++ [.ok (BitVec.ofNat 1024 (leNat bs)) (BitVec.allOnes 1024)] }).rouse s.cur
    | .error (.trap f, s) =>
      (s.modCur fun sl => sl.modPort i fun p => { p with rows := p.rows ++ [.bad { f with addr := a }] }).rouse s.cur
    | .error (_, s) => s.stall
  else s

def execStreamRowFetch (s : State) : Out :=
  match s.act with
  | some (.streamRowFetch sl i) => .next (fetchRow (s.onSlot sl) i)
  | _ => .fault .noSuchEvent

/-- A run of bytes that a row writes wholly: offset and bytes. -/
def rowRuns (v wr : Line) : Nat → List (Nat × List Byte)
  | 0 => []
  | n + 1 =>
    let rs := rowRuns v wr n
    if (wr.extractLsb' (8 * n) 8 : Byte) == 0xFF then
      match rs with
      | (o, bs) :: t => if o + bs.length == n then (o, bs ++ [v.extractLsb' (8 * n) 8]) :: t
          else (n, [v.extractLsb' (8 * n) 8]) :: rs
      | [] => [(n, [v.extractLsb' (8 * n) 8])]
    else rs

/-- The bytes of which a row writes only a nibble. -/
def rowNibbles (wr : Line) : List Nat :=
  (List.range 128).filter fun n => (wr.extractLsb' (8 * n) 8 : Byte) != 0 && (wr.extractLsb' (8 * n) 8 : Byte) != 0xFF

/-- Whole bytes of a row are stored. -/
def storeRuns (s : State) (c : Cap) (a : Nat) (k : StoreAs) : List (Nat × List Byte) → R State
  | [] => .ok s
  | (o, bs) :: rest => do
    let s ← storeBytes s c (a + o) bs 1 k
    storeRuns s c a k rest

/-- The byte of a row of which a nibble is left alone goes where it lies: `w` are the bits that are written. A peer is asked for
the old byte; everywhere else the old byte is read where the new one is performed (R103). -/
def storeNibble (s : State) (ps : List Piece) (v w : Byte) (k : StoreAs) : R State :=
  match ps with
  | [⟨.peer _ _, _, _⟩] => do
    let r ← loadPieces s ps k.hint
    storePieces r.2 ps (mergeKeep r.1 [v] [~~~w]) [] k
  | _ => storePieces s ps [v] [] { k with keep := [~~~w] }

/-- The bytes of which a nibble is left alone are read, changed and written as the row is performed (R103): the engine's own
access, which needs W alone. -/
def storeNibbles (s : State) (c : Cap) (a : Nat) (v wr : Line) (k : StoreAs) : List Nat → R State
  | [] => .ok s
  | n :: rest => do
    let ps ← accessPieces s c (a + n) 1 pW { w := true } .plain 1
    let s ← storeNibble s ps (v.extractLsb' (8 * n) 8) (wr.extractLsb' (8 * n) 8) k
    storeNibbles s c a v wr k rest

/-- STREAM_ROW_PERFORM: the oldest row of a write port is performed; a fault of its own is kept, and the rows behind it
are not written (R106). While its page is not mapped and no log takes it, it waits. -/
def performRow (s : State) (i : Fin 4) : State :=
  let p := s.sl.port i
  match p.rows with
  | .ok v wr :: rest =>
    if p.bound && p.write then
      let n := p.next - p.rows.length
      let a := p.row n
      let k : StoreAs := { hint := { nud := p.nud, lvl := p.lvl }, row := some (.row s.sl.fib i n) }
      let r := allOrNone s do
        let s ← storeNibbles s p.cap a v wr k (rowNibbles wr)
        storeRuns s p.cap a k (rowRuns v wr 128).reverse
      match r with
      | .ok s => ((s.modCur fun sl => sl.modPort i fun p => { p with rows := rest }).rouse s.cur).unstall
      | .error (.trap f, _) =>
        (s.modCur fun sl => sl.modPort i fun p => { p with rows := [], failed := some { f with addr := a } }).rouse s.cur |>.unstall
      | .error (_, s) => s.stall
    else s
  | _ => s

def execStreamRowPerform (s : State) : Out :=
  match s.act with
  | some (.streamRowPerform sl i) => .next (performRow (s.onSlot sl) i)
  | _ => .fault .noSuchEvent

end Sys2Proof.Machine
end

