-- ==== Sys2Proof/Machine/Regerr.lean ====
section
/-!
DEFINITION. Registers whose ECC fails (R380): which registers an instruction reads, and the REGERR of one that is bad.
-/

namespace Sys2Proof.Machine

/-- What a masked vector result reads besides its sources: the mask, and the destination whose lanes it keeps. -/
def maskReads (m : ModF) (f : Fld) (od : BitVec 6) : List (Fld × BitVec 6) :=
  if m.km = 0 then [] else (.k, m.km.setWidth 6) :: (if m.zm = 0 then [(f, od)] else [])

/-- The registers an instruction reads: its sources, a destination of which it keeps a part, c29 of the frame
instructions, x13 where a record is made of it. DEDUCED, unsafe: log 28. -/
def readsOf : Instr → List (Fld × BitVec 6)
  | .add (.r o) => [(.x, o.oa), (.x, o.ob)]
  | .add (.i o) => [(.x, o.oa)]
  | .sub (.r o) => [(.x, o.oa), (.x, o.ob)]
  | .sub (.i o) => [(.x, o.oa)]
  | .mul (.r o) => [(.x, o.oa), (.x, o.ob)]
  | .mul (.i o) => [(.x, o.oa)]
  | .mulh o => [(.x, o.oa), (.x, o.ob)]
  | .mad o => [(.x, o.oa), (.x, o.ob), (.x, o.oc)]
  | .div o => [(.x, o.oa), (.x, o.ob)]
  | .rem o => [(.x, o.oa), (.x, o.ob)]
  | .and (.r o) => [(.x, o.oa), (.x, o.ob)]
  | .and (.i o) => [(.x, o.oa)]
  | .or (.r o) => [(.x, o.oa), (.x, o.ob)]
  | .or (.i o) => [(.x, o.oa)]
  | .xor (.r o) => [(.x, o.oa), (.x, o.ob)]
  | .xor (.i o) => [(.x, o.oa)]
  | .andn (.r o) => [(.x, o.oa), (.x, o.ob)]
  | .andn (.i o) => [(.x, o.oa)]
  | .shl (.r o) => [(.x, o.oa), (.x, o.ob)]
  | .shl (.i o) => [(.x, o.oa)]
  | .shr (.r o) => [(.x, o.oa), (.x, o.ob)]
  | .shr (.i o) => [(.x, o.oa)]
  | .sra (.r o) => [(.x, o.oa), (.x, o.ob)]
  | .sra (.i o) => [(.x, o.oa)]
  | .rotl (.r o) => [(.x, o.oa), (.x, o.ob)]
  | .rotl (.i o) => [(.x, o.oa)]
  | .min (.r o) => [(.x, o.oa), (.x, o.ob)]
  | .min (.i o) => [(.x, o.oa)]
  | .max (.r o) => [(.x, o.oa), (.x, o.ob)]
  | .max (.i o) => [(.x, o.oa)]
  | .abs o => [(.x, o.oa)]
  | .clz o => [(.x, o.oa)]
  | .ctz o => [(.x, o.oa)]
  | .popc o => [(.x, o.oa)]
  | .bfx (.r o) => [(.x, o.oa), (.x, o.ob)]
  | .bfx (.i o) => [(.x, o.oa)]
  | .bfi (.r o) => [(.x, o.od), (.x, o.oa), (.x, o.ob)]
  | .bfi (.i o) => [(.x, o.od), (.x, o.oa)]
  | .shadd (.r o) => [(.x, o.oa), (.x, o.ob)]
  | .shadd (.i o) => [(.x, o.oa)]
  | .sel o => [(.x, o.oa), (.x, o.ob), (.p, o.oc)]
  | .mov o => [(.x, o.oa)]
  | .li o => [(if o.md.sub == 2 then .x else .no, o.od)]
  | .cvt o => [(.x, o.oa)]
  | .cmp (.r o) => [(.x, o.oa), (.x, o.ob)]
  | .cmp (.i o) => [(.x, o.oa)]
  | .bswap o => [(.x, o.oa)]
  | .pand o => [(.p, o.oa), (.p, o.ob)]
  | .por o => [(.p, o.oa), (.p, o.ob)]
  | .pxor o => [(.p, o.oa), (.p, o.ob)]
  | .pnot o => [(.p, o.oa)]
  | .pmov o => if o.md.sub == 3 then [(.p, 1), (.p, 2), (.p, 3), (.p, 4), (.p, 5), (.p, 6), (.p, 7)]
      else [(if o.md.sub == 1 then .x else .p, o.oa)]
  | .fadd o => [(.x, o.oa), (.x, o.ob)]
  | .fsub o => [(.x, o.oa), (.x, o.ob)]
  | .fmul o => [(.x, o.oa), (.x, o.ob)]
  | .ffma o => [(.x, o.oa), (.x, o.ob), (.x, o.oc)]
  | .fdiv o => [(.x, o.oa), (.x, o.ob)]
  | .fsqrt o => [(.x, o.oa)]
  | .fmin o => [(.x, o.oa), (.x, o.ob)]
  | .fmax o => [(.x, o.oa), (.x, o.ob)]
  | .fcmp o => [(.x, o.oa), (.x, o.ob)]
  | .fcvt o => [(.x, o.oa)]
  | .fclass o => [(.x, o.oa)]
  | .vadd o => [(.v, o.oa), (.v, o.ob)] ++ maskReads o.md .v o.od
  | .vsub o => [(.v, o.oa), (.v, o.ob)] ++ maskReads o.md .v o.od
  | .vmul o => [(.v, o.oa), (.v, o.ob)] ++ maskReads o.md .v o.od
  | .vfma o => [(.v, o.oa), (.v, o.ob), (.v, o.oc)] ++ maskReads o.md .v o.od
  | .vfms o => [(.v, o.oa), (.v, o.ob), (.v, o.oc)] ++ maskReads o.md .v o.od
  | .vmin o => [(.v, o.oa), (.v, o.ob)] ++ maskReads o.md .v o.od
  | .vmax o => [(.v, o.oa), (.v, o.ob)] ++ maskReads o.md .v o.od
  | .vabs o => [(.v, o.oa)] ++ maskReads o.md .v o.od
  | .vneg o => [(.v, o.oa)] ++ maskReads o.md .v o.od
  | .vand o => [(.v, o.oa), (.v, o.ob)] ++ maskReads o.md .v o.od
  | .vor o => [(.v, o.oa), (.v, o.ob)] ++ maskReads o.md .v o.od
  | .vxor o => [(.v, o.oa), (.v, o.ob)] ++ maskReads o.md .v o.od
  | .vshl (.r o) => [(.v, o.oa), (.v, o.ob)] ++ maskReads o.md .v o.od
  | .vshl (.i o) => [(.v, o.oa)] ++ maskReads o.md .v o.od
  | .vshr (.r o) => [(.v, o.oa), (.v, o.ob)] ++ maskReads o.md .v o.od
  | .vshr (.i o) => [(.v, o.oa)] ++ maskReads o.md .v o.od
  | .vcmp o => [(.v, o.oa), (.v, o.ob)] ++ maskReads o.md .k o.od
  | .vsel o => [(.v, o.oa), (.v, o.ob)] ++ maskReads o.md .no o.od
  | .vcvt o => [(.v, o.oa)] ++ maskReads o.md .v o.od
  | .vdot o => [(.v, o.oa), (.v, o.ob), (.v, o.oc)] ++ maskReads o.md .v o.od
  | .vscl o => [(.v, o.oa), (.x, o.ob)] ++ maskReads o.md .v o.od
  | .vmov o => [(.v, o.oa)] ++ maskReads o.md .v o.od
  | .vbcast (.r o) => [(.x, o.oa)] ++ maskReads o.md .v o.od
  | .vbcast (.i o) => maskReads o.md .v o.od
  | .vins o => [(.v, o.od), (.x, o.oa), (.x, o.ob)]
  | .vext o => [(.v, o.oa), (.x, o.ob)]
  | .vclamp o => [(.v, o.oa), (.v, o.ob), (.v, o.oc)] ++ maskReads o.md .v o.od
  | .kand o => [(.k, o.oa), (.k, o.ob)]
  | .kor o => [(.k, o.oa), (.k, o.ob)]
  | .kxor o => [(.k, o.oa), (.k, o.ob)]
  | .knot o => [(.k, o.oa)]
  | .kpop o => [(.k, o.oa)]
  | .kfirst o => [(.k, o.oa)]
  | .kset (.r o) => [(.x, o.oa)]
  | .kset (.i _) => []
  | .kmov o => [(if o.md.sub == 1 then .x else .k, o.oa), (if o.md.sub == 1 then .x else .no, o.ob)]
  | .vrcp o => [(.v, o.oa)] ++ maskReads o.md .v o.od
  | .vrsq o => [(.v, o.oa)] ++ maskReads o.md .v o.od
  | .vsqrt o => [(.v, o.oa)] ++ maskReads o.md .v o.od
  | .vexp2 o => [(.v, o.oa)] ++ maskReads o.md .v o.od
  | .vlog2 o => [(.v, o.oa)] ++ maskReads o.md .v o.od
  | .vsin o => [(.v, o.oa)] ++ maskReads o.md .v o.od
  | .vcos o => [(.v, o.oa)] ++ maskReads o.md .v o.od
  | .vtanh o => [(.v, o.oa)] ++ maskReads o.md .v o.od
  | .vsigm o => [(.v, o.oa)] ++ maskReads o.md .v o.od
  | .vexpd o => [(.v, o.oa), (.v, o.ob)] ++ maskReads o.md .v o.od
  | .vredsum o => [(.v, o.oa)] ++ maskReads o.md .v o.od
  | .vredmax o => [(.v, o.oa)] ++ maskReads o.md .v o.od
  | .vredmin o => [(.v, o.oa)] ++ maskReads o.md .v o.od
  | .vscan o => [(.v, o.oa)] ++ maskReads o.md .v o.od
  | .vperm o => [(.v, o.oa), (.v, o.ob)] ++ maskReads o.md .v o.od
  | .vshuf o => [(.v, o.oa), (.v, o.ob), (.v, o.oc)] ++ maskReads o.md .v o.od
  | .vpack o => [(.v, o.oa), (.v, o.ob)] ++ maskReads o.md .v o.od
  | .vunpack o => [(.v, o.oa)] ++ maskReads o.md .v o.od
  | .sbind o => [(.c, o.oa), (.x, o.ob)]
  | .sdim (.r o) => [(.x, o.oa), (.x, o.ob)]
  | .sdim (.i _) => []
  | .sstart _ => []
  | .sstop _ => []
  | .swait _ => []
  | .frep _ => []
  | .mcfg o => [(if o.md.sub == 1 || o.md.sub == 2 then .x else .no, o.oa)]
  | .mzero _ => []
  | .mlda o => [(.c, o.oa), (if o.x == 1 then .v else .x, o.ob)]
  | .mldb o => [(.c, o.oa), (if o.x == 1 then .v else .x, o.ob)]
  | .mscl o => [(.x, o.oa), (if o.md.sub == 2 then .no else .x, o.ob)]
  | .mma o => [(.four, o.od)]
  | .mmas o => [(.four, o.od)]
  | .mdrain o => [(.four, o.od), (.x, 13), (.c, o.oa), (.x, o.ob)]
  | .mhand o => [(.c, o.oa), (.x, o.ob)]
  | .mrowrd o => [(.four, o.oa), (.x, o.ob)] ++ maskReads o.md .v o.od
  | .mrowwr o => [(.x, o.oa), (.v, o.ob)] ++ maskReads o.md .no o.od
  | .msave o => [(.c, o.oa), (.x, o.ob), (.four, 0), (.four, 1), (.four, 2), (.four, 3)]
  | .mrest o => [(.c, o.oa), (.x, o.ob)]
  | .mstat _ => []
  | .fpush o => [(.c, 29), (.c, o.oa), (.x, o.ob), (.c, o.oc), (.c, o.oe)]
  | .fpop _ => [(.c, 29)]
  | .fdrop o => [(.c, o.oa)]
  | .fenter o => [(.c, o.oa)]
  | .farg o => [(.c, 29), (.x, o.oa), (.x, o.ob)]
  | .fkeep o => [(.c, 29), (.x, o.oa), (.x, o.ob)]
  | .fseal o => [(.c, o.oa)]
  | .fshare o => [(.c, o.oa)]
  | .fappend (.r o) => [(.c, 29), (.x, o.oa)]
  | .fappend (.i _) => [(.c, 29)]
  | .fwin (.r o) => [(.c, 29), (.x, o.oa)]
  | .fwin (.i _) => [(.c, 29)]
  | .fvis o => [(.c, 29), (.x, o.oa), (.x, o.ob)]
  | .fdesc (.r o) => [(.c, o.oa), (.x, o.ob)]
  | .fdesc (.i o) => [(.c, o.oa)]
  | .fmask o => [(.c, 29), (.v, o.oa), (.x, o.ob)] ++ maskReads o.md .k o.od
  | .wcfg (.r o) => [(.x, o.oa), (.x, o.ob), (.c, o.oc)]
  | .wcfg (.x _) => []
  | .wband (.r o) => [(.x, o.oa), (.x, o.ob)]
  | .wband (.i _) => []
  | .wseq o => [(.c, o.od), (.v, o.oa), (.v, o.ob), (.x, o.oc)]
  | .wtile o => [(.v, o.oa), (if o.md.isp.getLsbD 0 then .no else .v, o.ob),
      (if o.md.isp.getLsbD 1 then .no else .v, o.oc), (if o.md.isp.getLsbD 0 || o.md.isp.getLsbD 1 then .no else .v, o.oe)]
  | .wbget o => [(.c, o.oa), (.x, o.ob)]
  | .wbput o => [(.v, o.od), (.c, o.oa), (.x, o.ob)]
  | .tbwalk o => [(.x, o.oa), (.c, o.ob), (if o.md.sub == 1 then .v else .no, o.oc),
      (if o.md.sub == 1 then .v else .no, o.oe)]
  | .xexp o => [(.c, o.oa), (.c, o.ob), (.c, o.oc), (.x, o.oe)]
  | .xcmp o => [(.c, o.oa), (.c, o.ob), (.c, o.oc), (.x, o.oe)]
  | .xquant o => [(.c, o.oa), (.c, o.ob), (.c, o.oc), (.x, o.oe)]
  | .xconv o => [(.c, o.oa), (.c, o.ob), (.x, o.oe)]
  | .xpoll _ => []
  | .ld o => [(.c, o.oa), (.x, o.ob)]
  | .st o => [(.x, o.od), (.c, o.oa), (.x, o.ob)]
  | .ldc o => [(.c, o.oa), (.x, o.ob)]
  | .stc o => [(.c, o.od), (.c, o.oa), (.x, o.ob)]
  | .vld o => [(.c, o.oa), (.x, o.ob)]
  | .vst o => [(.v, o.od), (.c, o.oa), (.x, o.ob)]
  | .vldg o => [(.c, o.oa), (.v, o.ob)]
  | .vsts o => [(.v, o.od), (.c, o.oa), (.v, o.ob)]
  | .ldfe o => [(.c, o.oa), (.x, o.ob)]
  | .stfe o => [(if o.size == 6 then .c else .x, o.od), (.c, o.oa), (.x, o.ob)]
  | .pref o => [(.c, o.oa), (.x, o.ob)]
  | .cpy o => [(.c, o.od), (.c, o.oa), (.x, o.ob), (.x, o.oc)]
  | .cpyq o => [(.c, o.oa)]
  | .fence _ => []
  | .lflush o => [(.c, o.oa), (.x, o.ob)]
  | .linv o => [(.c, o.oa), (.x, o.ob)]
  | .ldm o => [(.c, o.oa), (.x, o.ob)]
  | .mig o => [(.c, o.oa), (.x, o.ob)]
  | .home _ => []
  | .amoadd o => [(.c, o.oa), (amoFld o, o.ob)]
  | .amomin o => [(.c, o.oa), (amoFld o, o.ob)]
  | .amomax o => [(.c, o.oa), (amoFld o, o.ob)]
  | .amoand o => [(.c, o.oa), (amoFld o, o.ob)]
  | .amoor o => [(.c, o.oa), (amoFld o, o.ob)]
  | .amoxor o => [(.c, o.oa), (amoFld o, o.ob)]
  | .amoswp o => [(.c, o.oa), (amoFld o, o.ob)]
  | .amocas o => [(amoFld o, o.od), (.c, o.oa), (amoFld o, o.ob)]
  | .amofadd o => [(.c, o.oa), (amoFld o, o.ob)]
  | .redadd o => [(.c, o.oa), (.x, o.ob)]
  | .redmin o => [(.c, o.oa), (.x, o.ob)]
  | .redmax o => [(.c, o.oa), (.x, o.ob)]
  | .redfadd o => [(.c, o.oa), (.x, o.ob)]
  | .mon o => [(.c, o.oa), (.x, o.ob)]
  | .unmon o => [(if o.x == 1 then .no else .c, o.oa), (if o.x == 1 then .no else .x, o.ob)]
  | .park o => [(.x, o.oa)]
  | .smset (.r o) => [(.x, o.oa)]
  | .smset (.i _) => []
  | .smrd _ => []
  | .smadd (.r o) => [(.x, o.oa)]
  | .smadd (.i _) => []
  | .bar o => [(.x, o.oa), (if o.md.sub == 1 then .x else .no, o.ob)]
  | .barmx o => [(.x, o.oa), (.x, o.ob), (if o.md.sub == 1 then .no else .x, o.oc)]
  | .br _ => []
  | .jmp o => [(.c, o.oa)]
  | .call (.r o) => [(.c, o.oa)]
  | .call (.i _) => []
  | .ret o => [(.c, o.oa)]
  | .loop o => [(.x, o.od)]
  | .nop _ => []
  | .spawn o => [(.x, 13), (.c, o.oa), (.c, o.ob), (.x, o.oc)]
  | .yield _ => [(.x, 13)]
  | .awaitSm o => [(.x, 13), (.x, o.oa), (.x, o.ob)]
  | .awaitFull o => [(.x, 13), (.c, o.oa)]
  | .awaitEmpty o => [(.x, 13), (.c, o.oa)]
  | .exit _ => []
  | .callat o => [(.x, 13), (.c, o.oa), (.c, o.ob), (.x, o.oc)]
  | .callatW o => [(.x, 13), (.c, o.oa), (.c, o.ob), (.x, o.oc)]
  | .reply o => [(.x, 13), (.x, o.oa), (.x, o.ob)]
  | .tjoin o => [(.x, o.oa)]
  | .tleave o => [(.x, o.oa)]
  | .tqry o => [(.x, o.oa)]
  | .prio (.r o) => [(.x, 13), (.x, o.oa)]
  | .prio (.i _) => [(.x, 13)]
  | .rclk _ => []
  | .rcadv (.r o) => [(.x, o.oa)]
  | .rcadv (.i _) => []
  | .cgeta o => [(.c, o.oa)]
  | .cgetb o => [(.c, o.oa)]
  | .cgetl o => [(.c, o.oa)]
  | .cgetp o => [(.c, o.oa)]
  | .ctag o => [(.c, o.oa)]
  | .cseta o => [(.c, o.oa), (.x, o.ob)]
  | .cinc (.r o) => [(.c, o.oa), (.x, o.ob)]
  | .cinc (.i o) => [(.c, o.oa)]
  | .cbnd (.r o) => [(.c, o.oa), (.x, o.ob)]
  | .cbnd (.i o) => [(.c, o.oa)]
  | .cbnde (.r o) => [(.c, o.oa), (.x, o.ob)]
  | .cbnde (.i o) => [(.c, o.oa)]
  | .cperm (.r o) => [(.c, o.oa), (.x, o.ob)]
  | .cperm (.i o) => [(.c, o.oa)]
  | .cseal o => [(.c, o.oa), (.c, o.ob)]
  | .cunseal o => [(.c, o.oa), (.c, o.ob)]
  | .cclr o => [(.c, o.oa)]
  | .csub o => [(.c, o.oa), (.c, o.ob)]
  | .cmov o => [(.c, o.oa)]
  | .crvkMark o => [(.c, o.oa)]
  | .crvkClear o => [(.c, o.oa)]
  | .cswpStart o => [(.x, o.oa)]
  | .cswpAck o => [(.x, o.oa)]
  | .trap _ => []
  | .ebrk _ => []
  | .gsr _ => []
  | .ssr o => [(.x, o.oa)]
  | .frec0Rearm o => [(.x, o.oa)]
  | .trqstClear o => [(.x, o.oa)]
  | .bmodeWrite o => [(.x, o.oa)]
  | .trq _ => []
  | .wfs o => [(.x, o.oa)]
  | .sretRetry o => [(.x, o.oa)]
  | .sretSkip o => [(.x, o.oa)]
  | .sretPc o => [(.x, o.oa), (.c, o.ob)]
  | .sretWake o => [(.x, o.oa)]
  | .rdpk o => [(.x, o.oa), (.x, o.ob)]
  | .wrpk o => [(.x, o.oa), (.x, o.ob), (if o.md.sub == 1 then .c else .x, o.oc)]
  | .suspk o => [(.x, o.oa)]
  | .suspkQ o => [(.x, o.oa)]
  | .hint _ => []
  | _ => []

/-- The file of AUX [3:0] that a register kind is of. -/
def Fld.file : Fld → Option Nat
  | .x => some 0
  | .c => some 1
  | .p => some 3
  | .k => some 4
  | .v => some 5
  | .four => some 6
  | .no | .raw => none

/-- REGERR for a register of a file. -/
def regErr (file ix : Nat) : Fail := ⟨cREGERR, file + 16 * ix, 0⟩

/-- A register of the slot is bad: the constant registers never are, a stream port is no register, the accumulators are the
matrix unit's. -/
def State.regBad (s : State) (file : Nat) (r : BitVec 6) : Bool :=
  if file == 6 then s.mat.badAcc.contains (r.toNat % 4)
  else if file == 5 then (portOf s.sl r).isNone && s.sl.bad.contains (5, r.toNat)
  else r != 0 && s.sl.bad.contains (file, r.toNat)

/-- The first bad register among those that an instruction reads. -/
def State.readsBad (s : State) (i : Instr) : Option Fail :=
  if s.sl.bad.isEmpty && s.mat.badAcc.isEmpty then none
  else (readsOf i).findSome? fun p => match Fld.file p.1 with
    | some f => if s.regBad f p.2 then some (regErr f (if f == 6 then p.2.toNat % 4 else p.2.toNat)) else none
    | none => none

/-- The first bad predicate among the guards. -/
def Slot.guardBad (sl : Slot) (h : Hdr) : Option Fail :=
  ([(h.ga &&& 7).toNat, (h.gb &&& 7).toNat].find? fun p => p != 0 && sl.bad.contains (3, p)).map (regErr 3)

/-- The first bad semaphore among those that an instruction waits on or signals. -/
def State.semFail (s : State) (ns : List (BitVec 8)) : Option Fail :=
  (ns.find? s.badSem.contains).map fun n => ⟨cREGERR, semAux n, 0⟩

end Sys2Proof.Machine
end

