-- ==== Sys2Proof/Machine/Issue.lean ====
section
/-!
DEFINITION. What stands around an instruction's own effect (R31): the slot that issues (R287), the fetch (R45), the
checks of a fresh fibre (R20), legality and privilege (R48, R49), guards (R29), the way home from a quay core (R275),
the interlock behind a repetition block (R112), the semaphore window (R228) and the WAIT (R33).
-/

namespace Sys2Proof.Machine

/-! ### Classes of instructions, by opcode (R47) -/

/-- Whether gsr reads a register in any slot (R430). -/
def sysregUser (n : Nat) : Bool :=
  !(n == 0x012 || n == 0x042 || (0x044 ≤ n && n ≤ 0x048) || (0x088 ≤ n && n ≤ 0x08B))

/-- The privileged forms (R47, R48). -/
def privileged (opc : Nat) (b : Body) : Bool :=
  opc == 0x250 || (0x283 ≤ opc && opc ≤ 0x28A) ||
    (opc == 0x282 && match b with
      | .i o => !sysregUser (o.imm.toNat % 4096)
      | _ => false)

/-- What the main port issues while a repetition block runs (R112). -/
def goesOn (opc : Nat) : Bool :=
  (0x001 ≤ opc && opc ≤ 0x01E) || (0x040 ≤ opc && opc ≤ 0x044) || (0x200 ≤ opc && opc ≤ 0x205) ||
    (0x180 ≤ opc && opc ≤ 0x183) || opc == 0x188 || opc == 0x189 || opc == 0x18A || opc == 0x18D ||
    (0x1C9 ≤ opc && opc ≤ 0x1CC) || (0x1E3 ≤ opc && opc ≤ 0x1E5) || (0x240 ≤ opc && opc ≤ 0x250)

/-- The instructions that access memory, or have an engine do so. -/
def accesses (opc : Nat) : Bool :=
  (0x100 ≤ opc && opc ≤ 0x1E2) || (0x1E6 ≤ opc && opc ≤ 0x1FF) || (0x220 ≤ opc && opc ≤ 0x23F) || opc == 0x250

/-- The quay core's subset (R275). -/
def quaySubset (opc : Nat) : Bool :=
  (0x001 ≤ opc && opc ≤ 0x01E) || (0x040 ≤ opc && opc ≤ 0x044) || (0x200 ≤ opc && opc ≤ 0x205) ||
    (0x240 ≤ opc && opc ≤ 0x24F) || (0x180 ≤ opc && opc ≤ 0x183) || opc == 0x18A ||
    (0x18D ≤ opc && opc ≤ 0x192) || (0x1C0 ≤ opc && opc ≤ 0x1CC) || (0x220 ≤ opc && opc ≤ 0x22B)

/-- c16-c31 stay in the home slot. -/
def highC (r : BitVec 6) : Bool := 16 ≤ r.toNat

/-- The instruction names one of c16-c31; call names cret (R293). -/
def namesHigh (opc : Nat) (b : Body) : Bool :=
  match b with
  | .r o =>
    if opc == 0x202 then true
    else if opc == 0x201 || opc == 0x203 then highC o.oa
    else if 0x240 ≤ opc && opc ≤ 0x244 then highC o.oa
    else if opc == 0x24D then highC o.oa || highC o.ob
    else if opc == 0x24A || opc == 0x24B then highC o.od || highC o.oa || highC o.ob
    else if 0x245 ≤ opc && opc ≤ 0x24F then highC o.od || highC o.oa
    else if opc == 0x220 || opc == 0x224 then highC o.oa || highC o.ob
    else if opc == 0x222 then o.md.sub != 0 && highC o.oa
    else false
  | .i o => opc == 0x202 || (0x246 ≤ opc && opc ≤ 0x249 && (highC o.od || highC o.oa))
  | .m o =>
    highC o.oa || ((opc == 0x182 || opc == 0x183) && highC o.od) ||
      (0x1C0 ≤ opc && opc ≤ 0x1C8 && o.size == 6 && (highC o.od || highC o.ob))
  | .x _ => false

def bodyHdr : Body → Hdr
  | .r o => o.hdr
  | .i o => o.hdr
  | .m o => o.hdr
  | .x o => o.hdr
def bodyWait : Body → WaitF
  | .r o => o.wait
  | .m o => o.wait
  | .i _ | .x _ => ⟨0, 0⟩

/-- The semaphore number in MOD (R229). -/
def semOf (m : ModF) : BitVec 8 := m.isp ++ m.sub

/-- The semaphores an instruction names (R228). -/
def semNames (opc : Nat) (b : Body) : List (BitVec 8) :=
  (if (bodyWait b).thr = 0 then [] else [(bodyWait b).sm]) ++
    (if (bodyHdr b).sigInc = 0 then [] else [(bodyHdr b).sigSm]) ++
    (if 0x1E3 ≤ opc && opc ≤ 0x1E5 then
      match b with
      | .r o => [semOf o.md]
      | .i o => [semOf o.md]
      | _ => []
    else [])

/-- The semaphores whose values an instruction needs: smset mends its own (R380). -/
def semReads (opc : Nat) (b : Body) : List (BitVec 8) := if opc == 0x1E3 then semNames 0 b else semNames opc b

/-- Semaphore `n` lies in the slot's window (R228). -/
def Slot.semIn (sl : Slot) (n : Nat) : Bool :=
  let base := (sl.smwin.extractLsb' 0 8).toNat
  base ≤ n && n < base + (sl.smwin.extractLsb' 8 9).toNat

/-! ### Fetch (R45) -/

/-- Stage 3: every page can be translated; an unmapped page holds the fetch (R268). -/
def fetchTranslate (s : State) : List (Nat × Nat) → R Unit
  | [] => .ok ()
  | (va, _) :: rest =>
    if (s.window s.world va).isSome then fetchTranslate s rest
    else match s.translate s.world none va {} with
      | .fail c a => raise s c a va
      | .hold why => waitFor (s.askPage s.world va why) .page va
      | .ok _ _ => fetchTranslate s rest

/-- The leaf of a fetched page. -/
def State.leafOf (s : State) (va : Nat) : Option (Nat × Nat) :=
  match s.entry s.world va with
  | .leaf m comp => some (m, comp)
  | _ => none

/-- Stage 4: X, and a raw page. A window has no X (R394). DEDUCED, unsafe: log 23. -/
def fetchPerm (s : State) (va : Nat) : Option Fail :=
  match if (s.window s.world va).isSome then none else s.leafOf va with
  | none => some ⟨cPROT, 16, va⟩
  | some (m, _) => if !bitN m 5 then some ⟨cPROT, 16, va⟩
      else if lfEF m != 0 || lfCmp m then some ⟨cPROT, 3, va⟩ else none
/-- Stage 5: CMASK. -/
def fetchMask (s : State) (va : Nat) : Option Fail :=
  match s.leafOf va with
  | some (_, comp) => if bitN comp s.cluster.val then none else some ⟨cCGM, s.cluster.val, va⟩
  | none => none
/-- Stage 6: KV. -/
def fetchKv (s : State) (va : Nat) : Option Fail :=
  match s.leafOf va with
  | some (m, _) => if lfKV m then some ⟨cKVPA, 0, va⟩ else none
  | none => none

/-- A stage over every page, in ascending address. -/
def fetchStage (s : State) (f : State → Nat → Option Fail) : List (Nat × Nat) → R Unit
  | [] => .ok ()
  | (va, _) :: rest => do
    check s (f s va)
    fetchStage s f rest

/-- Stage 7 and the bytes of one piece. -/
def fetchRead (s : State) (va n : Nat) : R (List Byte × State) :=
  match s.leafOf va with
  | none => raise s cPROT 16 va
  | some (m, _) =>
    let pa := lfFrame m + va % lfBytes m
    if !s.cxlOk pa then raise s cMEMERR 6 va
    else match s.readRange s.cur s.world {} pa m va n with
      | .error (c, a) => raise s c (if c == cSEAL then 1 else 0) a
      | .ok r => .ok (r.1, r.2.reachedPiece s.world ⟨.at pa m, va, n⟩)

def fetchReads (s : State) : List (Nat × Nat) → R (List Byte × State)
  | [] => .ok ([], s)
  | (va, n) :: rest => do
    let a ← fetchRead s va n
    let b ← fetchReads a.2 rest
    .ok (a.1 ++ b.1, b.2)

/-- The twelve bytes at the pc, after the checks of R45 in their order: a relaxed read through the caches (R46).
DEDUCED, unsafe: log 23. -/
def fetch (s : State) : R (List Byte × State) := do
  guardR s (!s.sl.bad.contains (2, 0)) cREGERR 2 0
  let pcc := s.sl.pcc
  let pc := s.sl.pc.toNat
  guardR s (pc % 4 == 0) cALGN 0 pc
  check s (capCheck s.world pcc pc 12 pX)
  if capLocal pcc then
    check s (localCheck s.cluster.val s.sl.cmwin pc 12)
    check s (s.bankCheck s.cluster .plain pc 12)
    match s.readError s.world (locKey pc) 12 pc with
    | some (c, a) => raise s c 0 a
    | none => .ok (s.bytes (locKey pc) 12, s)
  else
    guardR s (pc + 12 ≤ 2 ^ 56) cPROT 7 (max pc (2 ^ 56))
    let ps := cut64 3 pc 12
    fetchTranslate s ps
    fetchStage s fetchPerm ps
    fetchStage s fetchMask ps
    fetchStage s fetchKv ps
    fetchReads s ps

/-! ### The checks of a fresh fibre (R20) -/

/-- The reserved bits of the control word (R17). -/
def ctlReserved (ctl : Word) : Bool := ctl &&& 0x7FC00000C0800000 != 0

def startFail (s : State) : Option Fail :=
  if !s.sl.startChecks then none
  else if (s.sl.startRec.ctl.getLsbD 22) != s.ctcx.getLsbD s.world.val then some ⟨cFMM, 0, 0⟩
  else if ctlReserved s.sl.startRec.ctl then some ⟨cPROT, 1, 0⟩
  else none

/-! ### Issue -/

/-- The fibre of a slot is a member of a tow whose swap has been decided: it does not go on (R320). -/
def State.swaps (s : State) (i : SlotId) : Bool :=
  i != 15 && s.swapping.any fun t => t.1 == (s.slot i).world && t.2 == (s.slot i).tow

/-- The slot may take a turn (R14, R287, R313, R320, R361, R369). -/
def State.issuable (s : State) (i : SlotId) : Bool :=
  let sl := s.slot i
  !sl.dbgHalt && !s.tripped && !s.swaps i &&
    (match sl.status with
      | .ready | .away _ => true
      | _ => false) &&
    (i != 15 || (s.supStarted && !s.supHalted && !s.yielding))

/-- The next slot in round-robin order after the one that last issued (R287). DEDUCED, unsafe: log 5. -/
def State.nextSlot (s : State) : Option SlotId :=
  ((List.range 16).map fun k => s.last + Fin.ofNat 16 (k + 1)).find? s.issuable

/-- The instruction at the pc is a no-op, its guard having failed (R29, R31). -/
def State.passOver (s : State) : State := s.retired.advance

/-- WaitSem (R33): the state with the units taken, or none while the slot must wait. -/
def State.waitSem (s : State) (who : Who) (sm : BitVec 8) (thr : Nat) : Option State :=
  let v := (s.sem[sm.toNat]'sm.isLt).toNat
  if s.aheadOf who .sem sm.toNat || v < thr then none
  else some (({ s with sem := s.sem.set sm.toNat (BitVec.ofNat 16 (v - thr)) sm.isLt } : State).leaveQueue who)

/-- The first named semaphore outside the window. -/
def semOut (sl : Slot) (ns : List (BitVec 8)) : Option Fail :=
  (ns.find? fun n => !sl.semIn n.toNat).map fun n => ⟨cPROT, 13, n.toNat⟩

/-- An instruction issues where its fibre stands when the quay core's subset has it and it names nothing that stays at home;
else at home (R34, R48, R275). -/
def issuesAt (opc : Nat) (b : Body) (s : State) : State :=
  let s := s.filterAway
  if quaySubset opc && !namesHigh opc b && semNames opc b == [] then s else s.goHome s.cur

/-- Guards, window and WAIT have not been passed yet: pass them, or say what follows instead.
DEDUCED, unsafe: log 21. -/
def passGuards (s : State) (opc : Nat) (b : Body) : Except State State :=
  match s.sl.guardBad (bodyHdr b) with
  | some f => .error (s.takeTrap f)
  | none =>
  if !s.sl.guards (bodyHdr b) then .error s.passOver
  else match (semOut s.sl (semNames opc b)).orElse fun _ => s.semFail (semReads opc b) with
    | some f => .error (s.takeTrap f)
    | none =>
      let w := bodyWait b
      if w.thr = 0 then .ok s
      else match s.waitSem (.slot s.cur) w.sm w.thr.toNat with
        | some s => .ok (s.modCur fun sl => { sl with begun := true, taken := some (w.sm, w.thr.toNat) })
        | none =>
          let s := s.modCur fun sl => { sl with status := .waiting .sem w.sm.toNat }
          .error (s.joinQueue ⟨.slot s.cur, .sem, w.sm.toNat, w.thr.toNat⟩)

/-- A fibre that has come home for its instruction takes a pending WSEC before it (R373). -/
def arrivedHome (s t : State) : Option State :=
  match s.sl.quay, t.sl.quay, t.sl.pendWsec with
  | some _, none, some aux => some ((t.modCur fun sl => { sl with pendWsec := none }).takeTrap ⟨cWSEC, aux, 0⟩)
  | _, _, _ => none

/-- The instruction executes, or a register that it reads is bad (R380). -/
def regsSound (i : Instr) (s : State) : Except State (Instr × State) :=
  match s.readsBad i with
  | some f => .error (s.takeTrap f)
  | none => .ok (i, s)

/-- The fibre issues: the copies of a restored one go on from its first instruction (R221, R282). -/
def State.issued (s : State) : State :=
  let t := s.modCur fun sl => { sl with fresh := false }
  if s.sl.fresh && s.sl.copies.any (·.own) then t.post .copyChunk else t

/-- The slot holds the word that it has fetched (R31). -/
def State.holding (s : State) (bs : List Byte) : State :=
  (s.withWord (wordOfBytes bs)).issued.modCur fun sl => { sl with held := some (wordOfBytes bs) }

/-- The way home, the guards and the WAIT, which an instruction that has begun has behind it. -/
def passed (s : State) (opc : Nat) (b : Body) : Except State State :=
  if s.sl.begun then .ok s.filterAway
  else match arrivedHome s (issuesAt opc b s) with
    | some t => .error t
    | none => passGuards (issuesAt opc b s) opc b

/-- The stages of R31 before Execute, on a fetched word: the instruction to execute and its state, or what follows
instead. -/
def readyFor (s : State) (bs : List Byte) : Except State (Instr × State) :=
  match startFail s with
  | some f => .error (s.takeTrap f)
  | none => match decodeBytes bs with
    | .error n => .error (s.takeTrap ⟨cILL, n, 0⟩)
    | .ok i => match i.parts with
      | none => .error s
      | some (opc, b) =>
        if privileged opc b && s.cur != 15 then .error (s.takeTrap ⟨cPRIV, 0, 0⟩)
        else if s.sl.rep.isSome && !goesOn opc then .error (s.modCur fun sl => { sl with behind := true })
        else match passed s opc b with
          | .ok s => if accesses opc && s.heldBack then .error (s.modCur fun sl => { sl with begun := true }) else regsSound i s
          | .error s => .error s

/-- Faults that wait for an instruction boundary (R109, R221, R314, R373, R375). -/
def boundaryFail (s : State) : Option (Fail × State) :=
  match s.sl.pendWsec, s.sl.status with
  | some aux, .ready => some (⟨cWSEC, aux, 0⟩, s.modCur fun sl => { sl with pendWsec := none })
  | _, _ => match s.sl.pending with
    | some f => some (f, s.modCur fun sl => { sl with pending := none })
    | none => if s.sl.pendSlice then some (⟨cSLICE, 0, 0⟩, s.modCur fun sl => { sl with pendSlice := false }) else none

/-- Slot `i` has the turn; nothing has been fetched yet. -/
def State.onTurn (s : State) (i : SlotId) : State := { s with cur := i, last := i, act := none, word := 0 }
/-- The act `a` is performed, and `rest` are those that remain. -/
def State.onAct (s : State) (a : Act) (rest : List Act) : State := { s with agenda := rest, act := some a }

/-- The bytes at the pc, fetched once for each instruction: one that has been fetched and waits keeps its word (R31). -/
def fetchOnce (s : State) : R (List Byte × State) :=
  match s.sl.held with
  | some w => .ok (leBytes 12 w.toNat, s)
  | none => fetch s

/-- The turn of slot `s.cur`: the instruction to execute and the state it executes in, or the state that follows when
none does. -/
def turn (s : State) : Except State (Instr × State) :=
  match boundaryFail s with
  | some (f, s) => .error (s.takeTrap f)
  | none => match fetchOnce s with
    | .ok r => readyFor (r.2.holding r.1) r.1
    | .error (.trap f, s) => .error (s.takeTrap f)
    | .error (.wait k obj n, s) =>
      .error ((s.modCur fun sl => { sl with status := .waiting k obj }).joinQueue ⟨.slot s.cur, k, obj, n⟩)
    | .error (.spin, s) => .error s

/-- The work of the units of the core, which goes on beside its slots (R403, R404). -/
def actWorks : Act → Bool
  | .streamRowFetch _ _ | .streamRowPerform _ _ | .repetitionPass _ | .latchDataArrival _ | .drainRowWrite | .wtileComplete
  | .transformRequestExecute | .copyChunk | .remoteUpdate _ | .replyGranuleWrite none | .accumulatorComplete
  | .sideLogAdmit => true
  | _ => false

/-- The act that ends the state in which a trip holds the module (R385). -/
def actRevives (a : Act) : Bool := a == .coldReset

/-- An act goes before the slots: one that works beside them goes first or not, which nothing constrains. DESIGN CHOICE, safe:
log 69. -/
def State.actFirst (s : State) (a : Act) : Bool := !actWorks a || s.nextSlot.isNone || Config.freeBit s.freeCtr

/-- The agent that acts next: the oldest act that has arrived, or the slot whose turn it is. A module that a trip holds in reset
does nothing of what arrives (R385). -/
def nextTurn (s : State) : Except State (Instr × State) :=
  match s.agenda with
  | a :: rest =>
    if s.tripped && !actRevives a then .error { s with agenda := rest }
    else if s.actFirst a then .ok (a.instr, { s with freeCtr := s.freeCtr + 1 }.onAct a rest)
    else match s.nextSlot with
      | none => .ok (a.instr, s.onAct a rest)
      | some i => turn ({ s with freeCtr := s.freeCtr + 1 }.onTurn i)
  | [] => match s.nextSlot with
    | none => .error s
    | some i => turn (s.onTurn i)

/-! ### Placing one instruction -/

/-- The cluster-local address of a core's cluster at offset 0. -/
def State.codeBase (s : State) : Nat := s.cluster.val * 2 ^ 58

/-- A code capability over the whole of the core's cluster memory (R322), its cursor at offset 0. -/
def State.codeCap (s : State) : Cap :=
  capMake pX 0 0 true 5 (s.codeBase / 2 ^ 5 % 2 ^ 19) (2 ^ 17) (BitVec.ofNat 64 s.codeBase)

/-- Slot 15 ready to issue at a pc. -/
def Slot.readyAt (sl : Slot) (pcc : Cap) : Slot :=
  { sl with
    status := .ready, pcc := pcc, world := 0, cmwin := 0x0040000000000000, startChecks := false, pending := none,
    begun := false, held := none, taken := none, pendSlice := false, pendWsec := none, rep := none, dbgHalt := false,
    quay := none }

/-- The state in which slot 15 has the next turn and the twelve bytes stand at its pc, in a scratch bank. -/
def State.placeWord (s : State) (nbits w : Nat) : State :=
  let k := clKey s.cluster.val 0
  let sl := (s.slot 15).readyAt s.codeCap
  { s with
    slots := s.slots.set 15 sl, last := 14, supStarted := true, supHalted := false, yielding := false, tripped := false,
    agenda := [], bmode := s.bmode.set s.cluster (s.bmode[s.cluster] &&& ~~~3),
    badGrans := s.badGrans.filter (· != k / 16), mem := cellsWrite s.mem k (leBytes 12 (w % 2 ^ nbits)) }

end Sys2Proof.Machine
end

