-- ==== Sys2Proof/Machine/Repeat.lean ====
section
/-!
DEFINITION. frep (R110-R112): the capture of the block. Its passes stand in Passes.
-/

namespace Sys2Proof.Machine

/-- The instructions a block may hold (R111). -/
def blockAllows (opc : Nat) : Bool :=
  (0x080 ≤ opc && opc ≤ 0x09F) || (0x0E0 ≤ opc && opc ≤ 0x0F1) || (0x121 ≤ opc && opc ≤ 0x126)

/-- The twelve bytes at an address, fetched as code of the slot. -/
def fetchAt (s : State) (pc : Word) : R (List Byte × State) :=
  match fetch (s.setPcc (capMoveCursor s.sl.pcc pc)) with
  | .ok r => .ok (r.1, r.2.setPcc s.sl.pcc)
  | .error (st, t) => .error (st, t.setPcc s.sl.pcc)

/-- The word of a block at an address, checked against R49 and R111. -/
def captureWord (s : State) (pc : Word) : R (Instr × State) := do
  let r ← fetchAt s pc
  match decodeBytes r.1 with
  | .error n => raise s cILL n pc.toNat
  | .ok i => match i.parts with
    | some (opc, _) => if blockAllows opc then .ok (i, r.2) else raise s cILL 11 pc.toNat
    | none => raise s cILL 11 pc.toNat

/-- `n` words of a block from an address on. -/
def captureBlock (s : State) (pc : Word) : Nat → R (List Instr × State)
  | 0 => .ok ([], s)
  | n + 1 => do
    let i ← captureWord s pc
    let rest ← captureBlock i.2 (pc + 12) n
    .ok (i.1 :: rest.1, rest.2)

/-- Repetition buffers in use (R13). -/
def State.buffersUsed (s : State) : Nat := 
  (s.slots.toList.filter fun sl => sl.rep.isSome && sl.restoring == RestorePh.none).length

/-- frep. DEDUCED, unsafe: log 32. -/
def execFrep (o : XOp) (s : State) : Out :=
  finishJump o.hdr (fun s => do
    let pc := s.sl.pc
    let n := o.sub.toNat + 1
    let (block, s) ← captureBlock s (pc + 12) n
    let past := capMoveCursor s.sl.pcc (pc + 12 * BitVec.ofNat 64 (n + 1))
    if o.imm.extractLsb' 0 16 = 0 then .ok (s.setPcc past)
    else if 4 ≤ s.buffersUsed then waitFor s .pool 0
    else
      let s := s.modCur fun sl => { sl with
        behind := false, rep := some ⟨pc, o.imm, n, block, sl.preds, 0, 0, false, none, none, false, false⟩ }
      .ok ((s.setPcc past).post (.repetitionPass s.cur))) s

end Sys2Proof.Machine
end

