-- ==== Sys2Proof/Machine/Units.lean ====
section
/-!
DEFINITION. What the units of a slot leave in memory: the matrix state (R128), the wavefront state (R159) and the copy
table (R218), and the checks of a copy command (R219), which a resumed one passes again.
-/

namespace Sys2Proof.Machine

/-! ### Areas of memory -/

/-- A piece of an area: its offset, its bytes, and its tag when it is one whole granule. -/
abbrev Blob := List (Nat × List Byte × Bool)

def blobCap (off : Nat) (c : Cap) : Blob := [(off, leBytes 16 c.bits.toNat, c.tag)]
def blobNat (off n v : Nat) : Blob := [(off, leBytes n v, false)]

/-- The bytes of an area of `n` bytes, zero where no piece stands. -/
def blobBytes (b : Blob) (n : Nat) : List Byte :=
  b.foldl (fun l p => l.take p.1 ++ p.2.1 ++ l.drop (p.1 + p.2.1.length)) (List.replicate n 0)
/-- The tagged granules of an area. -/
def blobTags (b : Blob) : List Nat := (b.filter (·.2.2)).map (·.1 / 16)

/-- MACX of line `i` of an image at an address, sealed under a key (R343). -/
def Img.macx (m : Img) (gen base i : Nat) : Word :=
  let tag := BitVec.ofNat 8 ((m.tags.filter fun g => g / 8 == i).map fun g => 2 ^ (g % 8)).sum
  sealMac gen (base / 128 + i) tag (sealLine gen (base / 128 + i) ((m.bytes.drop (128 * i)).take 128))

/-- The image MAC of an image at an address under a sealing key: over its first 64 bytes and MACX of each of its lines (R347). -/
def Img.mac (m : Img) (gen base : Nat) : Word :=
  kmac64 (Config.macKey gen) (m.bytes.take 64 ++ (List.range 256).flatMap fun i => leBytes 8 (m.macx gen base i).toNat)


/-! ### MSTAT (R116) -/

/-- The latch parts that are valid. -/
def Matrix.lv (m : Matrix) : Nat :=
  (List.range 6).foldl (fun n i => if (m.parts.toList.getD i Part.zero).desc.valid then n + 2 ^ i else n) 0

/-- A drain is reading an accumulator. -/
def Matrix.reads (m : Matrix) (a : Fin 4) : Bool := m.drains.any fun d => d.reading && d.acc == a
def Matrix.dbusy (m : Matrix) : Nat := (List.finRange 4).foldl (fun n i => if m.reads i then n + 2 ^ i.val else n) 0

/-- MSTAT of the unit's holder. -/
def Matrix.mstat (m : Matrix) : Word :=
  let p := match m.stopped with
    | none => 0
    | some t => t.koff.toNat * 2 ^ 34 + 2 ^ 33 + t.acc.toNat * 2 ^ 31 + t.sub.toNat * 2 ^ 29 + t.apart.toNat * 2 ^ 27 +
        (if t.sat then 2 ^ 26 else 0)
  BitVec.ofNat 64 (p + m.lv * 2 ^ 20 + m.dbusy * 2 ^ 16 + m.r4.toNat * 2 ^ 8 + m.ty.toNat * 2 ^ 4 + m.kind.toNat * 4 + 1)

/-- MSTAT of a slot. -/
def State.mstat (s : State) (i : SlotId) : Word := if s.mat.holder = some i then s.mat.mstat else 0

/-- The stopped product that an MSTAT names. -/
def stoppedOf (v : Word) : Option Stopped :=
  if v.getLsbD 33 then
    some ⟨v.extractLsb' 34 6, v.extractLsb' 31 2, v.extractLsb' 29 2, v.extractLsb' 27 2, v.getLsbD 26⟩
  else none

/-! ### The matrix state (R128) -/

def descFlags (d : LatchDesc) : Nat :=
  (if d.valid then 1 else 0) + (if d.gather then 2 else 0) + (if d.token then 4 else 0) + (if d.kgather then 8 else 0) +
    (if d.scales then 16 else 0)

/-- A descriptor at an offset, without its lanes. -/
def descBlob (off : Nat) (d : LatchDesc) : Blob :=
  blobCap off d.base ++ blobNat (off + 16) 8 d.off.toNat ++ blobNat (off + 24) 4 (descFlags d) ++
    blobNat (off + 28) 4 d.qbase.toNat
def lanesBlob (off : Nat) (d : LatchDesc) : Blob := if d.gather then blobNat off 128 d.lanes.toNat else []

/-- The descriptor at an offset, its lanes at another. -/
def descOf (m : Img) (off lanes : Nat) : LatchDesc :=
  let f := m.nat (off + 24) 4
  ⟨bitN f 0, bitN f 1, bitN f 2, bitN f 3, bitN f 4, m.cap off, m.word (off + 16), BitVec.ofNat 32 (m.nat (off + 28) 4),
    BitVec.ofNat 1024 (m.nat lanes 128)⟩

/-- The descriptors of the parts: five of 160 bytes and, for B1, one whose lanes stand at `b1`. -/
def partsBlob (off b1 : Nat) (m : Matrix) : Blob :=
  let d := fun i => (m.parts.toList.getD i Part.zero).desc
  ((List.range 5).flatMap fun i => descBlob (off + 0x80 + 160 * i) (d i) ++ lanesBlob (off + 0x80 + 160 * i + 32) (d i)) ++
    descBlob (off + 0x3A0) (d 5) ++ lanesBlob b1 (d 5)

/-- The wavefront state (R159). DESIGN CHOICE, unsafe: log 98. -/
def waveBlob (off : Nat) (w : Wave) : Blob :=
  blobNat (off + 0x80) 4 w.rule.toNat ++ blobNat (off + 0x84) 4 w.gap.toNat ++ blobNat (off + 0x88) 4 w.lo.toNat ++
    blobNat (off + 0x8C) 4 w.hi.toNat ++ blobCap (off + 0x90) w.tableCap ++
    match w.staged with
    | none => []
    | some t => blobCap (off + 0xA0) t.cap ++ blobNat (off + 0xB0) 8 t.word.toNat ++ blobNat (off + 0xB8) 8 1 ++
        blobNat (off + 0xC0) 32 t.a.toNat ++ blobNat (off + 0xE0) 32 t.b.toNat

def waveOf (m : Img) (off : Nat) : Wave :=
  { Wave.reset with
    rule := BitVec.ofNat 32 (m.nat (off + 0x80) 4), gap := BitVec.ofNat 32 (m.nat (off + 0x84) 4),
    lo := BitVec.ofNat 32 (m.nat (off + 0x88) 4), hi := BitVec.ofNat 32 (m.nat (off + 0x8C) 4),
    tableCap := m.cap (off + 0x90),
    staged := if bitN (m.nat (off + 0xB8) 8) 0 then
        some ⟨m.cap (off + 0xA0), m.word (off + 0xB0), BitVec.ofNat 256 (m.nat (off + 0xC0) 32),
          BitVec.ofNat 256 (m.nat (off + 0xE0) 32)⟩
      else none }

/-- The matrix-state region at an offset, the lanes of B1 at another. -/
def matrixBlob (off b1 : Nat) (m : Matrix) (w : Wave) : Blob :=
  blobNat off 8 m.mstat.toNat ++ blobNat (off + 8) 8 m.cfg.toNat ++ blobNat (off + 0x10) 4 m.tsa.toNat ++
    blobNat (off + 0x14) 4 m.tsb.toNat ++ blobNat (off + 0x18) 2 m.fp4xa.toNat ++ blobNat (off + 0x1A) 2 m.fp4xb.toNat ++
    blobNat (off + 0x1C) 4 m.qbase.toNat ++
    ((List.finRange 4).flatMap fun i => blobCap (off + 0x20 + 16 * i.val) m.hcode[i]) ++
    ((List.finRange 4).flatMap fun i => blobNat (off + 0x60 + 8 * i.val) 8 m.hword[i].toNat) ++
    if m.kind = 3 then waveBlob off w else partsBlob off b1 m

/-- The unit as a region describes it, its parts to be reloaded. -/
def matrixOf (img : Img) (off b1 : Nat) (old : Matrix) : Matrix :=
  let st := img.word off
  let kind : BitVec 2 := st.extractLsb' 2 2
  { old with
    kind := kind, ty := st.extractLsb' 4 4, r4 := st.extractLsb' 8 2, cfg := img.word (off + 8),
    tsa := BitVec.ofNat 32 (img.nat (off + 0x10) 4), tsb := BitVec.ofNat 32 (img.nat (off + 0x14) 4),
    fp4xa := BitVec.ofNat 16 (img.nat (off + 0x18) 2), fp4xb := BitVec.ofNat 16 (img.nat (off + 0x1A) 2),
    qbase := BitVec.ofNat 32 (img.nat (off + 0x1C) 4),
    hcode := Vector.ofFn fun i => img.cap (off + 0x20 + 16 * i.val),
    hword := Vector.ofFn fun i => img.word (off + 0x60 + 8 * i.val),
    parts := if kind = 3 then Vector.replicate 6 Part.zero else
      Vector.ofFn fun i => { Part.zero with
        desc := descOf img (if i.val = 5 then off + 0x3A0 else off + 0x80 + 160 * i.val)
          (if i.val = 5 then b1 else off + 0x80 + 160 * i.val + 32) },
    stopped := stoppedOf st, reload := true }

/-- The cells of an accumulator, row-major, as bytes. -/
def accBytes (a : Acc) : List Byte := a.toList.flatMap fun c => leBytes 4 c.toNat
def accOf (img : Img) (off : Nat) : Acc := Vector.ofFn fun i => BitVec.ofNat 32 (img.nat (off + 4 * i.val) 4)

/-! ### Copy commands (R218, R219) -/

/-- The bytes that `n` elements of a type fill in memory: t6 is packed four to three bytes (R61). -/
def sideBytes (ty : BitVec 4) (n : Nat) : Nat := if ty == 14 then n / 4 * 3 else n * (laneBits ty / 8)

def CopyCmd.raw (c : CopyCmd) : Bool := c.sty == c.dty
/-- Bytes of a row at the source and at the destination. -/
def CopyCmd.srcRow (c : CopyCmd) : Nat := if c.raw then c.len else sideBytes c.sty c.len
def CopyCmd.dstRow (c : CopyCmd) : Nat := if c.raw then c.len else sideBytes c.dty c.len

/-- The address of row `r` of an operand. -/
def copyRow (c : Cap) (stride : Int) (r : Nat) : Nat := (((capCursor c).toNat + r * stride) % 2 ^ 64).toNat

/-- A type that cpy takes. -/
def copyTyOk (t : BitVec 4) : Bool := tyI t || tyFloat t

/-- A command is malformed (R219). -/
def CopyCmd.malformed (c : CopyCmd) : Bool :=
  c.len == 0 || 2 ^ 24 < c.len || c.rows == 0 || 2 ^ 16 < c.rows || !copyTyOk c.sty || !copyTyOk c.dty ||
    ((c.sty == 14 || c.dty == 14) && c.len % 4 != 0) || (c.raw && (c.rm != 0 || c.sat)) || 5 < c.rm.toNat

/-- The command in 64 bytes of memory, or none when its reserved bits are not zero. -/
def copyOf (m : Img) (off : Nat) : Option CopyCmd :=
  if m.nat (off + 53) 11 != 0 || m.nat (off + 49) 1 / 16 != 0 || m.nat (off + 52) 1 / 16 != 0 then none
  else
    some {
      dst := m.cap off, src := m.cap (off + 16), len := m.nat (off + 32) 4, rows := m.nat (off + 36) 4,
      dstr := intDecode true 32 (m.nat (off + 40) 4), sstr := intDecode true 32 (m.nat (off + 44) 4),
      sty := BitVec.ofNat 4 (m.nat (off + 48) 1), dty := BitVec.ofNat 4 (m.nat (off + 48) 1 / 16),
      rm := BitVec.ofNat 3 (m.nat (off + 49) 1), sat := bitN (m.nat (off + 49) 1) 3,
      dnud := BitVec.ofNat 8 (m.nat (off + 50) 1), snud := BitVec.ofNat 8 (m.nat (off + 51) 1),
      dlvl := BitVec.ofNat 2 (m.nat (off + 52) 1), slvl := BitVec.ofNat 2 (m.nat (off + 52) 1 / 4),
      sigSm := 0, sigInc := 0, tcx := false, rowsDone := 0, partDone := 0, flags := 0, own := true, fib := 0,
      check := false, fenced := false, pc := 0, insn := 0 }

/-- An entry of the copy table at an offset. -/
def copyBlob (off : Nat) (c : CopyCmd) : Blob :=
  blobCap off c.dst ++ blobCap (off + 16) c.src ++ blobNat (off + 32) 4 c.len ++ blobNat (off + 36) 4 c.rows ++
    blobNat (off + 40) 4 (intCode 32 c.dstr) ++ blobNat (off + 44) 4 (intCode 32 c.sstr) ++
    blobNat (off + 48) 1 (c.sty.toNat + 16 * c.dty.toNat) ++ blobNat (off + 49) 1 (c.rm.toNat + if c.sat then 8 else 0) ++
    blobNat (off + 50) 1 c.dnud.toNat ++ blobNat (off + 51) 1 c.snud.toNat ++
    blobNat (off + 52) 1 (c.dlvl.toNat + 4 * c.slvl.toNat) ++ blobNat (off + 53) 1 c.sigSm.toNat ++
    blobNat (off + 54) 1 (c.sigInc.toNat + (if c.tcx then 16 else 0) + 128) ++ blobNat (off + 56) 4 c.rowsDone ++
    blobNat (off + 60) 4 c.partDone

/-- The valid entry of a saved copy table at an offset, for the fibre that resumes. -/
def copyEntryOf (m : Img) (off : Nat) (pc : Word) (fib : Nat) : Option CopyCmd :=
  if !bitN (m.nat (off + 54) 1) 7 then none
  else
    let z : Img := ⟨(m.bytes.drop off).take 53 ++ List.replicate 11 0, (m.tags.filter (off / 16 ≤ ·)).map (· - off / 16)⟩
    (copyOf z 0).map fun c =>
      { c with
        sigSm := BitVec.ofNat 8 (m.nat (off + 53) 1), sigInc := BitVec.ofNat 4 (m.nat (off + 54) 1),
        tcx := bitN (m.nat (off + 54) 1) 4, rowsDone := m.nat (off + 56) 4, partDone := m.nat (off + 60) 4, pc := pc,
        fib := fib, check := true }

/-- The bank modes that an engine meets over `[a, a + n)` (R193). -/
def State.engineBank (s : State) (cl : Fin 64) (c : Cap) (a n : Nat) (fifoOk : Bool) : Option Fail :=
  (List.range (bankOf (a + n - 1) - bankOf a + 1)).findSome? fun i =>
    let mode := s.bankMode cl (bankOf a + i)
    if (if capHas c pFIFO then fifoOk && mode == 2 else mode == 0 || mode == 3) then none
    else some ⟨cPROT, 8, if i == 0 then a else a / 2 ^ 17 * 2 ^ 17 + i * 2 ^ 17⟩

/-- The scale bank and the place in it of the scale granule of a cluster-local line (R176). -/
def State.scalePlace (s : State) (l : Nat) : Nat × Nat :=
  let b := l / 2 ^ 17 % 32
  let e := (s.cl.smap[Fin.ofNat 4 (b / 8)]).toNat / 2 ^ (8 * (b % 8)) % 256
  (e % 32, e % 32 * 2 ^ 17 + 16384 * (e / 32) + 16 * (l / 2 ^ 7 % 2 ^ 10))

/-- The first byte of `[a, a + n)` of the own cluster's memory whose line has its scale granule in no scale bank. -/
def State.scaleMiss (s : State) (a n : Nat) : Option Nat :=
  (List.range (bankOf (a + n - 1) - bankOf a + 1)).findSome? fun i =>
    if s.bankMode s.cluster (s.scalePlace (a + i * 2 ^ 17)).1 == 3 then none
    else some (if i == 0 then a else a / 2 ^ 17 * 2 ^ 17 + i * 2 ^ 17)
def State.scalesPlaced (s : State) (a n : Nat) : Bool := (s.scaleMiss a n).isNone

/-- A FIFO operand (R220). -/
def capFifo (c : Cap) : Bool := capLocal c && capHas c pFIFO

/-- The address of row `r` of an operand: the stride of a FIFO operand is ignored (R220). -/
def operandRow (c : Cap) (stride : Int) (r : Nat) : Nat := copyRow c (if capFifo c then 0 else stride) r

/-- A check on every row of an operand, in row order. -/
def rowsFail (f : Nat → Option Fail) (c : Cap) (stride : Int) (rows : Nat) : Option Fail :=
  (List.range (if capFifo c || stride == 0 then min rows 1 else rows)).findSome? fun r => f (operandRow c stride r)

/-- The space and the window of an operand in the slot's own cluster (R189, R190). -/
def State.copySpace (s : State) (c : Cap) (a n : Nat) : Option Fail :=
  if !capLocal c then (if a / 2 ^ 56 == 0 then none else some ⟨cPROT, 7, a⟩)
  else if a / 2 ^ 58 != s.cluster.val then none
  else localCheck s.cluster.val s.sl.cmwin a n

/-- The banks of an operand in the slot's own cluster (R193). -/
def State.copyBanks (s : State) (c : Cap) (a n : Nat) : Option Fail :=
  if !capLocal c || a / 2 ^ 58 != s.cluster.val then none else s.engineBank s.cluster c a n true

/-- The conversion reads or writes e4m3 or e5m2 (R70). -/
def CopyCmd.narrow (c : CopyCmd) : Bool :=
  !c.raw && (c.sty == 11 || c.sty == 12 || c.dty == 11 || c.dty == 12)

/-- Checks 2 to 5 of R219, which a resumed command passes again (R221). -/
def copyCheck (s : State) (c : CopyCmd) : R Unit := do
  check s (rowsFail (fun a => capCheck s.world c.src a c.srcRow pR) c.src c.sstr c.rows)
  check s (rowsFail (fun a => capCheck s.world c.dst a c.dstRow pW) c.dst c.dstr c.rows)
  check s (rowsFail (fun a => s.copySpace c.src a c.srcRow) c.src c.sstr c.rows)
  check s (rowsFail (fun a => s.copySpace c.dst a c.dstRow) c.dst c.dstr c.rows)
  check s (rowsFail (fun a => s.copyBanks c.src a c.srcRow) c.src c.sstr c.rows)
  check s (rowsFail (fun a => s.copyBanks c.dst a c.dstRow) c.dst c.dstr c.rows)
  guardR s (!(capFifo c.src && c.srcRow % 16 != 0)) cPROT 15 (capCursor c.src).toNat
  guardR s (!(capFifo c.dst && c.dstRow % 16 != 0)) cPROT 15 (capCursor c.dst).toNat
  guardR s (!c.narrow || c.tcx == s.ctcx.getLsbD s.world.val) cFMM 0 0

end Sys2Proof.Machine
end

