-- ==== Sys2Proof/Machine/Memory.lean ====
section
/-!
DEFINITION. Loads, stores, gathers, full/empty granules, migration, copies and fences (R209-R222).
-/

namespace Sys2Proof.Machine

/-! ### Where a fibre stands (R209, R217, R275, R345) -/

/-- The quay that owns the line of a global address: quay q on the die of its frame (R198, R217, R261). -/
def State.quayFor (s : State) (va : Nat) : Fin 128 :=
  let die := match s.entry s.world va with
    | .leaf m _ => if bitN m 55 then lfFrame m / 2 ^ 41 % 4 else (lfFrame m + va % lfBytes m) / 2 ^ 37 % 4
    | _ => match s.sl.quay with
      | some q => q.val / 32
      | none => s.die
  Fin.ofNat 128 (32 * die + quayOf va)

/-- The slots of this core whose fibres stand at a quay core. -/
def State.quayCount (s : State) (q : Fin 128) : Nat := (s.slots.toList.filter (·.quay == some q)).length

/-- The fibre moves to a quay core, or waits for one of its eight slots (R217). -/
def moveTo (s : State) (q : Fin 128) : R State :=
  if s.sl.quay = some q then .ok s
  else if 8 ≤ s.quayCount q || aheadBy (fun w => w.kind == .pool && w.thr == q.val + 1) (.slot s.cur) s.waiters then
    waitFor s .pool 0 (q.val + 1)
  else
    let s := s.goHome s.cur
    .ok (s.modCur fun sl => { s.filterRegs sl with quay := some q, status := .away q })

/-- Where an access through a capability is performed. `atHome` says that the line is reached at its quay whatever the
instruction: ldm, mig and the atomics. DEDUCED, unsafe: log 41. DEDUCED, unsafe: log 42. -/
def travel (s : State) (c : Cap) (ea : Nat) (toQuay : Bool) : R State :=
  if capLocal c || s.sealedVa s.world ea then .ok (s.goHome s.cur)
  else if (s.window s.world ea).isSome then .ok (if toQuay then s.goHome s.cur else s)
  else if toQuay || s.sl.quay.isSome then moveTo s (s.quayFor ea)
  else .ok s

/-! ### FIFO capabilities (R196, R213) -/

def fifoUse (c : Cap) : Bool := capLocal c && capHas c pFIFO

/-- A waiter of a kind on the bank stands ahead of the slot. -/
def State.fifoBehind (s : State) (kind : WaitKind) (ix : Nat) : Bool :=
  aheadBy (fun w => w.kind == kind && fifoIx w.obj == ix) (.slot s.cur) s.waiters

/-- Pop `n` granules, none of which is bad (R376). -/
def fifoPop (s : State) (a n : Nat) : R (List Cap × State) :=
  let l := s.fifo (fifoIx a)
  if s.fifoBehind .fpop (fifoIx a) || l.length < n then waitFor s .fpop a n
  else if s.fifoBad (fifoIx a) n then raise s cMEMERR 0 a
  else .ok ((l.take n).map s.filterCap, s.fifoTaken (fifoIx a) n)

/-- Push granules, which is a release (R196). -/
def fifoPush (s : State) (a : Nat) (gs : List Cap) : R State := do
  releaseWait s 1
  let l := s.fifo (fifoIx a)
  if s.fifoBehind .fpush (fifoIx a) || 8192 < l.length + gs.length then waitFor s .fpush a gs.length
  else .ok (s.fifoPut (fifoIx a) (gs.map s.filterCap))

/-- The checks of an access through a FIFO capability. -/
def fifoChecks (s : State) (c : Cap) (a n : Nat) (perm : BitVec 12) (ord : BitVec 3) : R Unit := do
  accessChecks s c a n perm .fifoCap 16
  guardR s (ord == 0) cPROT 9 a

/-- Bytes as granules without tags, and back. -/
def granulesOf (v : Line) : List Cap := (List.range 8).map fun i => ⟨false, v.extractLsb' (128 * i) 128⟩
def lineOf (gs : List Cap) : Line :=
  BitVec.ofNat 1024 ((gs.zipIdx.map fun p => p.1.bits.toNat * 2 ^ (128 * p.2)).sum)

/-! ### Loads and stores (R212, R213) -/

/-- An sc access is ordered behind the slot's earlier writes, as a release is (R234). -/
def scWait (s : State) (ord scope : BitVec 3) : R Unit :=
  if ordReleases ord then releaseWait s scope.toNat else .ok ()

/-- ORD of R41 that acquires: acquire, acq-rel and sc. -/
def ordAcquires (ord : BitVec 3) : Bool := ord == 1 || ord == 3 || ord == 4

/-- The hint of an instruction, and where its read is served: an acquire at die scope reads at the quay, at package scope
and wider at the owning quay, as do atomics, ldm and mon (R246, R247, R251). -/
def mHint (o : MOp) (owner : Bool := false) : Hint :=
  ⟨o.nud, o.lvl,
    if owner || (ordAcquires o.ord && 3 ≤ o.scope.toNat) then .owner
    else if ordAcquires o.ord && 2 ≤ o.scope.toNat then .quay else .cache, false⟩

/-- The store that an instruction makes. -/
def mStore (o : MOp) : StoreAs := { sc := o.ord == 4, hint := mHint o }

/-- An acquire at die scope or wider invalidates the world's lines in the cluster cache (R199).
DEDUCED, unsafe: log 15. -/
def State.acquired (s : State) (ord scope : BitVec 3) : State :=
  if ordAcquires ord && 2 ≤ scope.toNat then s.dropWorld s.world else s

/-- x(OD) from `n` bytes: sign-extended with X. -/
def extBytes (bs : List Byte) (sign : Bool) : Word :=
  let n := 8 * bs.length
  if sign then BitVec.ofInt 64 (intDecode true n (leNat bs)) else BitVec.ofNat 64 (leNat bs)

/-- ld and ldm. -/
def ldBody (o : MOp) (toQuay : Bool) (s : State) : R State := do
  let c := s.rc o.oa
  let ea := mEa s o
  let n := szBytes o.size
  let al := if o.ord == 0 then 1 else n
  accessChecks s c ea n pR .plain al
  let s ← travel s c ea toQuay
  scWait s o.ord o.scope
  let r ← loadBytes s c ea n pR al (mHint o toQuay)
  .ok ((r.2.acquired o.ord o.scope).wx o.od (extBytes r.1 (o.x == 1)))

def execLd (o : MOp) (s : State) : Out := finish o.hdr (ldBody o false) s
def execLdm (o : MOp) (s : State) : Out := finish o.hdr (ldBody o true) s

def execSt (o : MOp) (s : State) : Out :=
  finish o.hdr (fun s => do
    let c := s.rc o.oa
    let ea := mEa s o
    let n := szBytes o.size
    let al := if o.ord == 0 then 1 else n
    accessChecks s c ea n pW .plain al
    let s ← travel s c ea false
    scWait s o.ord o.scope
    storeBytes s c ea (leBytes n (s.rx o.od).toNat) al (mStore o)) s

/-- The tag of a granule that slot `s.cur` loads from a piece: its own logged store's, where the page, once it is mapped,
lets tags be loaded, or memory's (R195, R266, R270). -/
def granTag (s : State) (p : Piece) (h : Hint) : Bool :=
  match p.place with
  | .hold => (logTag s.sl.fib p.va s.sideLog).getD false
  | .at key _ => match if keyIsCl key then none else logTag s.sl.fib p.va s.sideLog with
    | some t => t && pieceCL p
    | none => loadTag s p h
  | _ => loadTag s p h

/-- A granule with its tag as slot `s.cur` loads it. DEDUCED, unsafe: log 44. -/
def loadGran (s : State) (c : Cap) (a : Nat) (perm : BitVec 12) (use : BankUse) (h : Hint := {}) : R (Cap × State) := do
  let ps ← accessPieces s c a 16 perm { r := true } use 16
  bitmapsReadable s c ps
  let s ← arrive s s.world ps
  let tag := ps.any fun p => granTag s p h
  let r ← loadPieces s ps h
  .ok (⟨tag && capHas c pCL, BitVec.ofNat 128 (leNat r.1)⟩, r.2)

/-- The permissions that storing a capability needs (R212, R323). -/
def stcPerm (v : Cap) : BitVec 12 := pW ||| if v.tag then pCW ||| (if capHas v pGLOBAL then 0 else pLOCAL) else 0

/-- A granule is stored with its tag. -/
def storeGran (s : State) (c : Cap) (a : Nat) (v : Cap) (use : BankUse) (k : StoreAs := {}) : R State := do
  let ps ← accessPieces s c a 16 (stcPerm v) { w := true, cw := v.tag } use 16
  let f := s.filterCap v
  let t ← arrive s s.world ps
  allOrNone s (storePieces t ps (leBytes 16 v.bits.toNat) [f.tag] { k with isCap := true })

/-- The capability size keeps the tag; SIZE 16 does not (R212). -/
def keepTag (z : BitVec 3) (v : Cap) : Cap := if z == 6 then v else capUntag v

def execLdc (o : MOp) (s : State) : Out :=
  finish o.hdr (fun s => do
    let c := s.rc o.oa
    let ea := mEa s o
    if fifoUse c then
      fifoChecks s c ea 16 pR o.ord
      let s := s.goHome s.cur
      let r ← fifoPop s ea 1
      let v := r.1.headD Cap.null
      .ok (r.2.wc o.od (keepTag o.size ⟨v.tag && capHas c pCL, v.bits⟩))
    else
      accessChecks s c ea 16 pR .plain 16
      let s ← travel s c ea false
      scWait s o.ord o.scope
      let r ← loadGran s c ea pR .plain (mHint o)
      .ok ((r.2.acquired o.ord o.scope).wc o.od (keepTag o.size (s.filterCap r.1)))) s

def execStc (o : MOp) (s : State) : Out :=
  finish o.hdr (fun s => do
    let c := s.rc o.oa
    let ea := mEa s o
    let v := keepTag o.size (s.rc o.od)
    if fifoUse c then
      fifoChecks s c ea 16 (stcPerm v) o.ord
      fifoPush (s.goHome s.cur) ea [v]
    else
      accessChecks s c ea 16 (stcPerm v) .plain 16
      let s ← travel s c ea false
      scWait s o.ord o.scope
      storeGran s c ea v .plain (mStore o)) s

def execVld (o : MOp) (s : State) : Out :=
  finish o.hdr (fun s => do
    noPort s o.od
    let c := s.rc o.oa
    let ea := mEa s o
    if fifoUse c then
      fifoChecks s c ea 128 pR o.ord
      let r ← fifoPop s ea 8
      .ok (r.2.modCur (·.wv o.od (lineOf r.1)))
    else
      let r ← loadBytes s c ea 128 pR 16 (mHint o)
      .ok ((r.2.acquired o.ord o.scope).modCur (·.wv o.od (BitVec.ofNat 1024 (leNat r.1))))) s

def execVst (o : MOp) (s : State) : Out :=
  finish o.hdr (fun s => do
    noPort s o.od
    let c := s.rc o.oa
    let ea := mEa s o
    let v := s.sl.rv o.od
    if fifoUse c then
      fifoChecks s c ea 128 pW o.ord
      fifoPush s ea (granulesOf v)
    else
      accessChecks s c ea 128 pW .plain 16
      scWait s o.ord o.scope
      storeBytes s c ea (leBytes 128 v.toNat) 16 (mStore o)) s

/-! ### Gather and scatter (R214) -/

/-- The lanes of a gather or scatter: number and address. -/
def gatherLanes (s : State) (o : MOp) : List (Nat × Nat) :=
  let n := szBytes o.size
  let ix := (s.sl.rv o.ob).toNat
  (List.range (128 / n)).map fun i =>
    (i, (eaOf (s.rc o.oa) (BitVec.ofNat 64 (ix / 2 ^ (8 * n * i) % 2 ^ (8 * n))) o.off (szLog o.size)).toNat)

/-- What a lane meets in steps 2 and 3: CAPB outside the bounds, the space or the window, or PROT (R189, R190). -/
def laneOut (s : State) (c : Cap) (a n : Nat) : Option Nat :=
  if (capFirstOut c a n).isSome then some cCAPB
  else if capLocal c then (localCheck s.cluster.val s.sl.cmwin a n).map (·.cause)
  else if a / 2 ^ 56 != 0 then some cPROT else none

/-- The aux of a per-lane fault: the mask of failing lanes, folded to 32 bits. DEDUCED, unsafe: log 34. -/
def laneMask (total : Nat) (ls : List Nat) : Nat :=
  (List.range 32).foldl (fun m b => if ls.any (fun i => i * 32 / total == b) then m + 2 ^ b else m) 0

/-- The fault of one lane that lies within its bounds. -/
def laneFail (s : State) (c : Cap) (n : Nat) (perm : BitVec 12) (need : Need) (a : Nat) : Option Fail :=
  match accessPieces s c a n perm need .plain 1 with
  | .error (.trap f, _) => some f
  | _ => none

/-- The lanes that meet a cause in steps 2 and 3. -/
def lanesOut (s : State) (c : Cap) (n cause : Nat) (lanes : List (Nat × Nat)) : List (Nat × Nat) :=
  lanes.filter fun l => laneOut s c l.2 n == some cause

/-- A per-lane fault of some lanes, at the address of the lowest (R210, R214). -/
def laneRaise (s : State) (cause total : Nat) (ls : List (Nat × Nat)) : R Unit :=
  match ls with
  | [] => .ok ()
  | l :: _ => raise s cause (laneMask total (ls.map (·.1))) (l.2 % 2 ^ 64)

/-- The lanes that a gather or scatter performs, and those it suppresses, after every check. -/
def lanesChecked (s : State) (o : MOp) (perm : BitVec 12) (need : Need) : R (List (Nat × Nat) × List Nat) := do
  let c := s.rc o.oa
  let n := szBytes o.size
  let lanes := gatherLanes s o
  let total := 128 / n
  match capCheckKind s.world c perm with
  | some cause => raise s cause 0 (capCursor c).toNat
  | none => .ok ()
  let out := lanesOut s c n cCAPB lanes
  laneRaise s cCAPB total (if o.x == 1 then [] else out)
  laneRaise s cPROT total (lanesOut s c n cPROT lanes)
  guardR s ((capCursor c).toNat % n == 0) cALGN 0 (capCursor c).toNat
  let live := lanes.filter fun l => out.all (·.1 != l.1)
  let bad := live.filterMap fun l => (laneFail s c n perm need l.2).map fun f => (l, f)
  match bad.head? with
  | some (l, f) =>
    if fifoUse c && bad.all (·.2.aux == 9) then raise s f.cause 9 l.2
    else
      laneRaise s f.cause total ((bad.filter fun x => x.2.cause == f.cause).map (·.1))
      .ok ([], [])
  | none => .ok (live, out.map (·.1))

/-- k7 after a suppressing form. -/
def supMask (o : MOp) (sup : List Nat) (s : State) : State :=
  if o.x == 1 then s.wk 7 (BitVec.ofNat 128 ((sup.map (2 ^ ·)).sum)) else s

/-- The lanes of a gather, lowest first: the bytes of each in its place. -/
def gatherLoad (s : State) (c : Cap) (n : Nat) (h : Hint) : List (Nat × Nat) → R (Nat × State)
  | [] => .ok (0, s)
  | l :: ls => do
    let r ← loadBytes s c l.2 n pR 1 h
    let t ← gatherLoad r.2 c n h ls
    .ok (leNat r.1 * 2 ^ (8 * n * l.1) + t.1, t.2)

def execVldg (o : MOp) (s : State) : Out :=
  finish o.hdr (fun s => do
    noPort s o.od
    noPort s o.ob
    let r ← lanesChecked s o pR { r := true }
    let t ← gatherLoad s (s.rc o.oa) (szBytes o.size) (mHint o) r.1
    .ok (supMask o r.2 (t.2.modCur (·.wv o.od (BitVec.ofNat 1024 t.1))))) s

/-- The lanes of a scatter, written in ascending order. -/
def scatterStore (s : State) (c : Cap) (n v : Nat) (k : StoreAs) : List (Nat × Nat) → R State
  | [] => .ok s
  | l :: ls => do
    let s ← storeBytes s c l.2 (leBytes n (v / 2 ^ (8 * n * l.1))) 1 k
    scatterStore s c n v k ls

def execVsts (o : MOp) (s : State) : Out :=
  finish o.hdr (fun s => do
    noPort s o.od
    noPort s o.ob
    let r ← lanesChecked s o pW { w := true }
    let s' ← allOrNone s (scatterStore s (s.rc o.oa) (szBytes o.size) (s.sl.rv o.od).toNat (mStore o) r.1)
    .ok (supMask o r.2 s')) s

/-! ### Full/empty granules (R216) -/

/-- The granule is in the state the access waits for, and nobody of its kind waits ahead of it. -/
def granuleWait (s : State) (kind : WaitKind) (a : Nat) : R Unit :=
  let g := locKey a / 16
  if s.fullAt (locKey a) == (kind == .full) &&
      !aheadBy (fun w => w.kind == kind && w.onGranule g) (.slot s.cur) s.waiters then .ok ()
  else waitFor s kind (a / 16 * 16) 1

def execLdfe (o : MOp) (s : State) : Out :=
  finish o.hdr (fun s => do
    let c := s.rc o.oa
    let ea := mEa s o
    let n := szBytes o.size
    accessChecks s c ea n pR .fullEmpty n
    granuleWait s .full ea
    let s' ← (if o.size == 6 then do
        let r ← loadGran s c ea pR .fullEmpty
        .ok (r.2.wc o.od (s.filterCap r.1))
      else do
        let ps ← placed s c ea n { r := true }
        let r ← loadPieces s ps
        .ok (r.2.wx o.od (extBytes r.1 false)))
    let g := locKey ea / 16
    let s' := if 2 ≤ s.fullScope g then s'.dropWorld s.world else s'
    .ok (if o.x == 1 then s'.setFull g false else s')) s

def execStfe (o : MOp) (s : State) : Out :=
  finish o.hdr (fun s => do
    let c := s.rc o.oa
    let ea := mEa s o
    let n := szBytes o.size
    let perm := if o.size == 6 then stcPerm (s.rc o.od) else pW
    accessChecks s c ea n perm .fullEmpty n
    if o.x == 1 then releaseWait s 1
    granuleWait s .empty ea
    let s' ← (if o.size == 6 then storeGran s c ea (s.rc o.od) .fullEmpty
      else do
        let ps ← placed s c ea n { w := true }
        storePieces s ps (leBytes n (s.rx o.od).toNat) [])
    .ok (if o.x == 1 then s'.setFull (locKey ea / 16) true else s')) s

/-! ### Lines (R215) -/

/-- The checks that pref, lflush and linv share. -/
def lineChecks (s : State) (o : MOp) : R State := do
  let c := s.rc o.oa
  let ea := mEa s o
  accessChecks s c ea 1 pR .plain 1
  travel s c ea false

/-- The line of an address is touched as by a load that returns nothing; a line that cannot be read is not (R215, R376). -/
def prefLine (s : State) (c : Cap) (h : Hint) (p : Piece) : State :=
  let s := s.reached s.world [p]
  match (do
    bitmapsReadable s c [p]
    loadPiece s p h : R (List Byte × State)) with
  | .ok r => r.2
  | .error _ => match p.place with
    | .at key _ => s.sawLine s.world key p.va
    | _ => s

/-- pref: of the faults of translation only KVPA is taken. -/
def execPref (o : MOp) (s : State) : Out :=
  finish o.hdr (fun s => do
    let s ← lineChecks s o
    match placed s (s.rc o.oa) (mEa s o) 1 { r := true } with
    | .error (.trap f, _) => if f.cause == cKVPA then .error (.trap f, s) else .ok s
    | .ok [⟨.at key main, va, n⟩] => .ok (if keyIsCl key then s else prefLine s (s.rc o.oa) (mHint o) ⟨.at key main, va, n⟩)
    | _ => .ok s) s

/-- lflush: the line is written back and dropped from the cluster cache, unless its page is not mapped or faults. -/
def execLflush (o : MOp) (s : State) : Out :=
  finish o.hdr (fun s => do
    let s ← lineChecks s o
    match placed s (s.rc o.oa) (mEa s o) 1 { r := true } with
    | .ok [⟨.at key _, va, _⟩] => .ok (if keyIsCl key then s else (s.cleanLine s.world key va).dropLine s.world va)
    | _ => .ok s) s

/-- linv: the line is dropped from the cluster cache. -/
def execLinv (o : MOp) (s : State) : Out :=
  finish o.hdr (fun s => do
    let s ← lineChecks s o
    match placed s (s.rc o.oa) (mEa s o) 1 { r := true } with
    | .ok [⟨.at key _, va, _⟩] => .ok (if keyIsCl key then s else s.dropLine s.world va)
    | _ => .ok s) s

/-! ### Migration (R217) -/

/-- The page of an address is mapped, or the fibre holds. -/
def mapped (s : State) (c : Cap) (a n : Nat) (need : Need) : R Unit := do
  let ps ← placed s c a n need
  match ps.find? (fun p => p.place == .hold) with
  | some p => waitFor (s.askPage s.world p.va (s.holdReason s.world (some s.cluster.val) p.va need)) .page p.va
  | none => .ok ()

def execMig (o : MOp) (s : State) : Out :=
  finish o.hdr (fun s => do
    let c := s.rc o.oa
    let ea := mEa s o
    accessChecks s c ea 1 pR .plain 1
    if !capLocal c && s.sealedVa s.world ea then .ok s
    else
      let s ← travel s c ea true
      mapped s c ea 1 { r := true }
      .ok s) s

def execHome (o : ROp) (s : State) : Out := finish o.hdr (fun s => .ok (s.goHome s.cur)) s

/-! ### Copies (R218, R219) -/

/-- Step 6 of R219: translation of the first source page; a page with block geometry needs whole lines (R177), and scale
banks for the lines of the own cluster that it goes to (R176). -/
def copyFirstPage (s : State) (c : CopyCmd) : R Unit := do
  if capLocal c.src then .ok ()
  else
    let a := (capCursor c.src).toNat
    mapped s c.src a 1 { r := true }
    let bg := match s.entry s.world a with
      | .leaf m _ => if (s.window s.world a).isSome then 0 else lfBG m
      | _ => 0
    guardR s (bg == 0 || (a % 128 == 0 && (capCursor c.dst).toNat % 128 == 0 && c.len % 128 == 0)) cPROT 6 a
    if bg != 0 && capLocal c.dst && !capFifo c.dst && (capCursor c.dst).toNat / 2 ^ 58 == s.cluster.val then
      check s (rowsFail (fun d => if s.scalesPlaced d c.dstRow then none else some ⟨cPROT, 5, d⟩) c.dst c.dstr c.rows)

/-- A command enters the copy table (R219). -/
def copyIssue (s : State) (at_ : Nat) (c : CopyCmd) : R State := do
  guardR s (!c.malformed) cPROT 15 at_
  let c := if c.raw then c else { c with rm := s.sl.rmCode c.rm }
  copyCheck s c
  copyFirstPage s c
  if 8 ≤ s.sl.copies.length then waitFor s .pool 0
  else .ok ((s.modCur fun sl => { sl with copies := sl.copies ++ [c] }).post .copyChunk)

/-- The command of a cpy. -/
def cpyCommand (s : State) (o : ROp) : CopyCmd :=
  let h := s.rx o.oc
  { dst := s.rc o.od, src := s.rc o.oa, len := (s.rx o.ob).toNat, rows := 1, dstr := 0, sstr := 0, sty := o.md.sub,
    dty := o.md.ty, rm := o.md.rm, sat := o.md.sat == 1, dnud := if o.oc == 0 then 0xFF else h.extractLsb' 0 8,
    snud := if o.oc == 0 then 0xFF else h.extractLsb' 16 8, dlvl := if o.oc == 0 then 0 else h.extractLsb' 8 2,
    slvl := if o.oc == 0 then 0 else h.extractLsb' 24 2, sigSm := o.hdr.sigSm, sigInc := o.hdr.sigInc, tcx := s.sl.tcx,
    rowsDone := 0, partDone := 0, flags := 0, own := true, fib := s.sl.fib, check := false, fenced := false,
    pc := s.sl.pc, insn := s.insn }

def execCpy (o : ROp) (s : State) : Out :=
  finishHanded (fun s => copyIssue s (capCursor (s.rc o.oa)).toNat (cpyCommand s o)) s

/-- Granules with their tags, loaded as ordinary loads. -/
def loadGrans (s : State) (c : Cap) (a : Nat) (h : Hint := {}) : Nat → R (List Cap × State)
  | 0 => .ok ([], s)
  | n + 1 => do
    let r ← loadGran s c a pR .plain h
    let t ← loadGrans r.2 c (a + 16) h n
    .ok (r.1 :: t.1, t.2)

/-- Loaded granules as an area. -/
def imgOf (gs : List Cap) : Img :=
  ⟨gs.flatMap fun g => leBytes 16 g.bits.toNat, gs.zipIdx.filterMap fun p => if p.1.tag then some p.2 else none⟩

def execCpyq (o : ROp) (s : State) : Out :=
  finishHanded (fun s => do
    let c := s.rc o.oa
    let a := (capCursor c).toNat
    accessChecks s c a 64 pR .plain 64
    let r ← loadGrans s c a {} 4
    match copyOf (imgOf r.1) 0 with
    | none => raise r.2 cPROT 15 a
    | some d =>
      copyIssue r.2 a { d with
        sigSm := o.hdr.sigSm, sigInc := o.hdr.sigInc, tcx := r.2.sl.tcx, fib := r.2.sl.fib, pc := r.2.sl.pc, insn := r.2.insn }) s

/-! ### Fences (R222) -/

/-- Scope codes stand in ISP. A fence that acquires drops the lines of the world from the cluster cache (R199, R222); one that
releases first waits for the slot's writes. -/
def execFence (o : ROp) (s : State) : Out :=
  finish o.hdr (fun s => do
    if 2 ≤ o.md.sub.toNat % 8 then releaseWait s (o.md.isp.toNat % 8)
    .ok (s.acquired (o.md.sub.extractLsb' 0 3) (o.md.isp.extractLsb' 0 3))) s

end Sys2Proof.Machine
end

