-- ==== Sys2Proof/Machine/Atomic.lean ====
section
/-!
DEFINITION. Atomics and reductions (R223-R225), and their part in collective windows (R398).
-/

namespace Sys2Proof.Machine

/-! ### The operations (R223) -/

/-- The smaller or the larger of two codes of `n` bytes, signed with `x`. -/
def minCode (n : Nat) (x : Bool) (m b : Nat) : Nat := if intDecode x (8 * n) b < intDecode x (8 * n) m then b else m
def maxCode (n : Nat) (x : Bool) (m b : Nat) : Nat := if intDecode x (8 * n) m < intDecode x (8 * n) b then b else m
def addCode (n : Nat) (m b : Nat) : Nat := (m + b) % 2 ^ (8 * n)

/-- The format of a float atomic: 2 bytes bf16 or, with X, f16; 4 bytes f32. -/
def atomicFmt (n : Nat) (x : Bool) : Fmt := if n == 4 then .f32 else if x then .f16 else .bf16

/-- The sum of two codes rounded once, without SAT. -/
def faddCode (rm : Rm) (n : Nat) (x : Bool) (m b : Nat) : Nat × Flags := flAdd ⟨false, rm, false⟩ (atomicFmt n x) m b

/-! ### Collective windows (R398) -/

/-- STATE of the window whose first byte has key `k`: open. -/
def State.cwinIsOpen (s : State) (k : Nat) : Bool := s.nat (k + 8) 8 / 2 ^ 32 % 4 == 0
/-- A contribution or an arrival is discarded and counted. -/
def State.cwinDrop (s : State) (k : Nat) : State :=
  s.writeBytes (k + 16) (leBytes 4 (min (s.nat (k + 16) 4 + 1) (2 ^ 32 - 1)))

/-- An arrival at a window is counted, and may complete it. -/
def State.cwinCount (s : State) (i : Fin 16) (c : Cwin) (k k0 : Nat) (bs : List Byte) : State :=
  let s := { (s.writeBytes k bs) with cwins := s.cwins.set i (some { c with timer := true }) }
  if leNat bs == c.expect then
    let cst := s.nat (k0 + 8) 8
    s.writeBytes (k0 + 8) (leBytes 8 (cst % 2 ^ 32 + 2 ^ 32))
  else s

/-- What becomes of a read-modify-write at key `k` and address `va` of world `w`: an arrival at an open window is counted
and may complete it; arrivals and contributions to a closed one are discarded. `bs` are the new bytes, and the Bool says
whether they have been written. DEDUCED, unsafe: log 47. -/
def State.cwinWrite (s : State) (w : World) (va k : Nat) (arrival contribution : Bool) (bs : List Byte) : State × Bool :=
  match (if keyIsCl k then none else s.cwinAt w va).bind fun i => (s.cwins[i]).map fun c => (i, c) with
  | none => (s.writeBytes k bs, true)
  | some (i, c) =>
    let k0 := (s.cwinKey c).getD (k - (va - c.va))
    let arrives := arrival && va == c.va
    if !arrives && !(contribution && c.va + 128 ≤ va) then (s.writeBytes k bs, true)
    else if !s.cwinIsOpen k0 then (s.cwinDrop k0, false)
    else (if arrives then s.cwinCount i c k k0 bs else s.writeBytes k bs, true)

/-- A read-modify-write of slot `i` is written: a value that its window discards reaches no cache (R236). -/
def State.rmwWrite (s : State) (i : SlotId) (w : World) (h : Hint) (va k : Nat) (arrival contribution : Bool)
    (bs : List Byte) : State :=
  let r := (s.dupWrite true k bs.length).cwinWrite w va k arrival contribution bs
  if r.2 then (r.1.sealAt w va k bs.length).stored i w h k va bs [] else r.1.touchQuays i w h k va bs.length false

/-! ### Atomics (R224) -/

/-- An address of host memory cannot be the operand of an atomic or a reduction. -/
def State.hostVa (s : State) (c : Cap) (ea : Nat) : Bool :=
  !capLocal c && match s.window s.world ea with
    | some e => winKind e != 3
    | none => false

/-- The checks of an atomic, and the way to where it is performed. DEDUCED, unsafe: log 43. -/
def atomicGo (s : State) (o : MOp) (perm : BitVec 12) : R State := do
  let c := s.rc o.oa
  let ea := mEaAtomic s o
  let n := szBytes o.size
  accessChecks s c ea n perm .plain n
  guardR s (!s.hostVa c ea) cPROT 11 ea
  let s ← travel s c ea true
  scWait s o.ord o.scope
  .ok s

/-- The operand of an atomic: its bytes and its tag, read at the owning quay; a peer is asked for the whole atomic. It is not
forwarded from the side log: the atomic holds until the page is mapped and the fibre's logged stores to it have replayed. A
fibre waits for a peer's answer at home, as it does for a page (R224). -/
def atomicRead (s : State) (p : Piece) (need : Need) (h : Hint) (ask : PeerOp × Nat) : R (List Byte × Bool × State) :=
  match p.place with
  | .hold => waitFor (s.askPage s.world p.va (s.holdReason s.world (some s.cluster.val) p.va need)) .page p.va
  | .at key main =>
    if !keyIsCl key && (s.logTouches s.sl.fib p.va p.len || s.dupBusy main key p.len) then waitFor s .queue p.va
    else do
      let tag := loadTag s p h
      let r ← loadPiece s p { h with rmw := true }
      .ok (r.1, tag, r.2)
  | _ =>
    match loadPiece s p {} ask with
    | .ok r => .ok (r.1, loadTag s p, r.2)
    | .error (.spin, t) => waitFor t .page p.va
    | .error e => .error e

/-- The result of an atomic is written where it is performed, or the line has only been read; a peer writes it itself, and the
monitors of its window see that. -/
def atomicWrite (s : State) (p : Piece) (h : Hint) (arrival : Bool) (bs : Option (List Byte)) : State :=
  match p.place, bs with
  | .at key _, some bs => s.rmwWrite s.cur s.world h p.va key arrival false bs
  | .at key _, none => s.touchQuays s.cur s.world h key p.va p.len false
  | .peer _ _, some _ => s.triggerBy (.peer s.world p.va p.len)
  | _, _ => s

/-- An atomic on data: `f` gives the new value, with flags, or none when nothing is written; `op` is what a peer is asked for. -/
def amoBody (o : MOp) (ext : Bool) (arrives : Bool) (op : AmoOp) (f : Nat → Nat → Nat → Option Nat × Flags) (s : State) :
    R State := do
  let s ← atomicGo s o (pR ||| pW)
  let n := szBytes o.size
  let ea := mEaAtomic s o
  let need : Need := { r := true, w := true }
  match ← placed s (s.rc o.oa) ea n need with
  | [p] => do
    let b := (s.rx o.ob).toNat % 2 ^ (8 * n)
    let (bs, _, t) ← atomicRead (← arrive s s.world [p]) p need (mHint o true) (.atomic op (o.x == 1), b)
    let r := f n (leNat bs) b
    let t ← raiseFlags t r.2
    let t := atomicWrite t p (mHint o true) (arrives && n == 8 && b == 1) (r.1.map (leBytes n))
    .ok ((t.acquired o.ord o.scope).wx o.od (extBytes bs (ext && o.x == 1)))
  | _ => .ok s

def execAmoadd (o : MOp) (s : State) : Out := finish o.hdr (amoBody o true true .add fun n m b => (some (addCode n m b), 0)) s
def execAmomin (o : MOp) (s : State) : Out :=
  finish o.hdr (amoBody o true false .min fun n m b => (some (minCode n (o.x == 1) m b), 0)) s
def execAmomax (o : MOp) (s : State) : Out :=
  finish o.hdr (amoBody o true false .max fun n m b => (some (maxCode n (o.x == 1) m b), 0)) s
def execAmoand (o : MOp) (s : State) : Out := finish o.hdr (amoBody o true false .and fun _ m b => (some (m &&& b), 0)) s
def execAmoor (o : MOp) (s : State) : Out := finish o.hdr (amoBody o true false .or fun _ m b => (some (m ||| b), 0)) s
def execAmoxor (o : MOp) (s : State) : Out := finish o.hdr (amoBody o true false .xor fun _ m b => (some (m ^^^ b), 0)) s

/-- amofadd rounds by FMODE.RM; an enabled exception traps before anything is written. -/
def execAmofadd (o : MOp) (s : State) : Out :=
  finish o.hdr (amoBody o false false (.fadd (s.sl.rmCode 0)) fun n m b =>
    let r := faddCode (Rm.ofCode (s.sl.rmCode 0).toNat) n (o.x == 1) m b
    (some r.1, r.2)) s

/-- A capability is written by an atomic where its line is at home. -/
def State.capWrite (s : State) (h : Hint) (key va : Nat) (c : Cap) : State :=
  (((s.dupWrite true key 16).writeGran key c).sealAt s.world va key 16).stored s.cur s.world h key va (leBytes 16 c.bits.toNat)
    [c.tag]

/-- An atomic on a granule with its tag: the new capability is written unless another than `expected` is found. -/
def amoCapBody (o : MOp) (expected : Option Cap) (s : State) : R State := do
  let new := s.rc o.ob
  let s ← atomicGo s o (pR ||| pCL ||| pCW ||| stcPerm new)
  let ea := mEaAtomic s o
  let c := s.rc o.oa
  let need : Need := { r := true, w := true, cw := new.tag }
  match ← placed s c ea 16 need with
  | [p] => do
    let (bs, tag, t) ← atomicRead (← arrive s s.world [p]) p need (mHint o true) (.atomicCap expected (s.filterCap new), 0)
    let old : Cap := ⟨tag, BitVec.ofNat 128 (leNat bs)⟩
    let t := match p.place with
      | .at key _ =>
        if expected.all (· == old) then t.capWrite (mHint o true) key p.va (t.filterCap new)
        else atomicWrite t p (mHint o true) false none
      | _ => atomicWrite t p (mHint o true) false (if expected.all (· == old) then some [] else none)
    .ok ((t.acquired o.ord o.scope).wc o.od (t.filterCap old))
  | _ => .ok s

def execAmoswp (o : MOp) (s : State) : Out :=
  finish o.hdr (if o.size == 6 then amoCapBody o none else amoBody o true false .swap fun _ _ b => (some b, 0)) s

/-- amocas: the expected value stands in the destination register. -/
def execAmocas (o : MOp) (s : State) : Out :=
  finish o.hdr (if o.size == 6 then amoCapBody o (some (s.rc o.od))
    else amoBody o true false (.cas ((s.rx o.od).toNat % 2 ^ (8 * szBytes o.size))) fun n m b =>
      (if m = (s.rx o.od).toNat % 2 ^ (8 * n) then some b else none, 0)) s

/-! ### Reductions (R225) -/

/-- The reductions of a slot that have not been performed. -/
def State.redCount (s : State) (i : SlotId) : Nat :=
  (s.updates.filter (·.sl == i)).length + (s.sideLog.filter fun e => e.upd.any (·.sl == i)).length +
    (s.peerOut.filter fun p => p.red.isSome && p.sl == i).length

/-- The reduction as its remote-update fibre carries it. -/
def updateOf (s : State) (o : MOp) (op : BitVec 4) : Update :=
  ⟨s.cur, s.sl.fib, s.opCtr, s.world, s.rc o.oa, mEaAtomic s o, op, o.size, o.x == 1, s.rx o.ob, mHint o true, s.sl.pc, s.insn⟩

/-- An entry among those of the log, in the order in which they retired. -/
def LogEntry.among (e : LogEntry) : List LogEntry → List LogEntry
  | [] => [e]
  | d :: ds => if e.num < d.num then e :: d :: ds else d :: e.among ds

/-- A reduction that its page does not take now is logged at a quay. -/
def State.logUpdate (s : State) (q : Fin 128) (u : Update) : State :=
  let e : LogEntry := ⟨.fibre u.fib, some u.sl, u.num, false, u.world, q, u.ea, [], [], [], false, {}, some u⟩
  { s with sideLog := e.among s.sideLog }

/-- A reduction: the checks at issue, then its update is on its way. -/
def redBody (o : MOp) (op : BitVec 4) (s : State) : R State := do
  let c := s.rc o.oa
  let ea := mEaAtomic s o
  let n := szBytes o.size
  accessChecks s c ea n (pR ||| pW) .plain n
  guardR s (!s.hostVa c ea) cPROT 11 ea
  let u := updateOf s o op
  let need : Need := { r := true, w := true }
  let num : State → State := fun s => { s with opCtr := s.opCtr + 1 }
  let log : State → R State := fun s =>
    if s.logAdmits s.cur (s.askQuay ea) then .ok (num (s.logUpdate (s.askQuay ea) u))
    else waitFor s .queue ea (logMark (s.askQuay ea))
  if 16 ≤ s.redCount s.cur then waitFor s .queue 0
  else if capLocal c || (s.window s.world ea).isSome then .ok (num (s.sendUpdate u))
  else match s.translate s.world (some s.cluster.val) ea need with
    | .hold why => log (s.askPage s.world ea why)
    | .fail _ _ => .ok (num (s.sendUpdate u))
    | .ok pa main => match s.pageFail need false s.world ea main with
      | some (cause, aux) => raise s cause aux ea
      | none => do
        let s ← arrive s s.world [⟨.at pa main, ea, n⟩]
        if s.logTouches s.sl.fib ea n then log s else .ok (num (s.sendUpdate u))

def execRedadd (o : MOp) (s : State) : Out := finish o.hdr (redBody o 0) s
def execRedmin (o : MOp) (s : State) : Out := finish o.hdr (redBody o 1) s
def execRedmax (o : MOp) (s : State) : Out := finish o.hdr (redBody o 2) s
def execRedfadd (o : MOp) (s : State) : Out := finish o.hdr (redBody o 3) s

/-- The new value of a reduction (R223, R225): floats round by RNE and discard their flags. -/
def Update.new (u : Update) (m : Nat) : Nat :=
  let n := szBytes u.size
  let b := u.src.toNat % 2 ^ (8 * n)
  match u.op.toNat with
  | 0 => addCode n m b
  | 1 => minCode n u.x m b
  | 2 => maxCode n u.x m b
  | _ => (faddCode .rne n u.x m b).1

/-- An update that is dropped leaves a record: aux 5 (R225), or 2 where a MAC does not match (R344). -/
def State.updateFail (s : State) (u : Update) (cause : Nat) : State :=
  s.postRecOf u.world u.sl ⟨cause, if cause == cSEAL then 2 else 5, u.ea⟩ u.pc u.insn

/-- The update acts on the bytes at a key; behind a CXL link that is down it leaves a record (R392). -/
def State.updateAt (s : State) (u : Update) (key : Nat) : State :=
  let n := szBytes u.size
  if !s.cxlOk key then s.postRecOf u.world u.sl ⟨cMEMERR, 7, u.ea⟩ u.pc u.insn
  else match s.readError u.world key n u.ea with
    | some (c, _) => s.updateFail u c
    | none =>
      s.rmwWrite u.sl u.world u.hint u.ea key false true (leBytes n (u.new (s.nat key n)))

/-- An update that its page does not take is logged, or waits for room (R269). -/
def State.updateLog (s : State) (q : Fin 128) (u : Update) : Except State State :=
  if s.logAdmits u.sl q then .ok (s.logUpdate q u) else .error s

/-- A reduction's remote-update fibre runs where its line is at home: the state after it, or the state in which it waits. -/
def State.perform (s : State) (u : Update) : Except State State :=
  let n := szBytes u.size
  if capLocal u.cap then .ok (s.updateAt u (locKey u.ea))
  else match s.place u.world (some s.cluster.val) { r := true, w := true } false u.ea with
    | .error f => .ok (s.updateFail u f.cause)
    | .ok .hold =>
      (s.askPage u.world u.ea (s.holdReason u.world (some s.cluster.val) u.ea { r := true, w := true })).updateLog
        (s.askQuay u.ea) u
    | .ok (.bad f) => .ok (s.updateFail u f.cause)
    | .ok (.host _ _) => .ok (s.updateFail u cPROT)
    | .ok (.peer dev va) => .ok (
        if !s.reaches dev then s.postRecOf u.world u.sl ⟨cMEMERR, 7, u.ea⟩ u.pc u.insn
        else s.sendPacket ⟨0, u.sl, u.fib, false, u.world, dev, va, leBytes n u.src.toNat, none, some (u.op, u.size, u.x), u.ea,
          u.pc, u.insn⟩)
    | .ok (.at key main) =>
      if s.dupBusy main key n then s.updateLog (ownQuay key u.ea) u else .ok (s.updateAt u key)

/-- An earlier update of the same slot, logged ones among them, acts on the same address. -/
def State.updateBehind (s : State) (u : Update) : Bool :=
  let ahead := fun (v : Update) => v.sl == u.sl && v.num < u.num && capLocal v.cap == capLocal u.cap && v.ea / 16 == u.ea / 16
  s.updates.any ahead || s.sideLog.any fun e => e.upd.any ahead

/-- An answer to a peer, with the capability where the bytes are one. -/
def State.answer (s : State) (dev : BitVec 8) (w : World) (d : Option (List Byte)) (c : Option Cap := none) : State :=
  { s with fabricOut := s.fabricOut ++ [⟨dev, w, d, c⟩] }

/-- Stores of peers that the log held and that have been performed are acknowledged (R256). -/
def State.postAcks (s : State) : State :=
  let done := fun (a : PeerAck) => s.allDone a.logs []
  (s.peerAcks.filter done).foldl (fun s a => s.answer a.dev a.world (some []))
    { s with peerAcks := s.peerAcks.filter (!done ·) }

/-- Writes have been performed: the SIGs that follow them are posted (R32), peers are answered, and those that wait for them try
again. -/
def State.writesDone (s : State) : State :=
  (s.filterAway.postSigs.postAcks.rouseAll fun k _ => k == .queue || k == .stream || k == .frame).unstall

/-- Logs replay; those that wait for room in them or for their end go on. -/
def State.replay (s : State) : State := (s.replayThese s.sideLog).writesDone

/-- REMOTE_UPDATE (R225). -/
def execRemoteUpdate (s : State) : Out :=
  match s.act with
  | some (.remoteUpdate n) =>
    match s.updates.find? (·.num == n) with
    | none => .next s
    | some u =>
      if s.updateBehind u then .next s.stall
      else
        match s.perform u with
        | .ok t => .next ({ t with updates := t.updates.filter (·.num != n) } : State).writesDone
        | .error t => .next t.stall
  | _ => .fault .noSuchEvent

end Sys2Proof.Machine
end

