-- ==== Sys2Proof/Machine/Cap.lean ====
section
/-!
DEFINITION. The capability group (R331-R337). The pure derivations stand in Caps.
-/

namespace Sys2Proof.Machine

/-! ### Reading (R332) -/

def execCgeta (o : ROp) (s : State) : Out := finish o.hdr (fun s => .ok (s.wx o.od (capCursor (s.rc o.oa)))) s
def execCgetb (o : ROp) (s : State) : Out :=
  finish o.hdr (fun s => .ok (s.wx o.od (BitVec.ofNat 64 (capBase (s.rc o.oa))))) s
def execCgetl (o : ROp) (s : State) : Out :=
  finish o.hdr (fun s => .ok (s.wx o.od (BitVec.ofNat 64 (capLen (s.rc o.oa))))) s
def execCgetp (o : ROp) (s : State) : Out := finish o.hdr (fun s => .ok (s.wx o.od (capInfo (s.rc o.oa)))) s
def execCtag (o : ROp) (s : State) : Out :=
  finish o.hdr (fun s =>
    let c := s.rc o.oa
    .ok (s.wp o.od (c.tag && !(o.md.sub == 1 && s.revoked c)))) s
def execCsub (o : ROp) (s : State) : Out :=
  finish o.hdr (fun s => .ok (s.wx o.od (capCursor (s.rc o.oa) - capCursor (s.rc o.ob)))) s
def execCmov (o : ROp) (s : State) : Out := finish o.hdr (fun s => .ok (s.wc o.od (s.rc o.oa))) s
def execCclr (o : ROp) (s : State) : Out := finish o.hdr (fun s => .ok (s.wc o.od (capUntag (s.rc o.oa)))) s

/-! ### Deriving (R333) -/

/-- A failed check of a capability that accesses nothing, its cursor as the fault address. -/
def capRaise (s : State) (c : Cap) : Option Nat → R Unit
  | none => .ok ()
  | some cause => raise s cause 0 (capCursor c).toNat

def execCseta (o : ROp) (s : State) : Out :=
  finish o.hdr (fun s => do
    let c := s.rc o.oa
    capRaise s c (capDeriveCheck s.world c)
    .ok (s.wc o.od (capMoveCursor c (s.rx o.ob)))) s

def execCinc (o : RIOp) (s : State) : Out :=
  finish (riHdr o) (fun s => do
    let c := s.rc (riOa o)
    capRaise s c (capDeriveCheck s.world c)
    .ok (s.wc (riOd o) (capMoveCursor c (capCursor c + riSext s o)))) s

/-- cbnd and cbnde. -/
def boundsBody (o : RIOp) (exact : Bool) (s : State) : R State := do
  let c := s.rc (riOa o)
  capRaise s c (capDeriveCheck s.world c)
  match capSetBounds c (riZext s o).toNat exact with
  | .ok n => .ok (s.wc (riOd o) n)
  | .error aux => raise s cCAPB aux (capCursor c).toNat

def execCbnd (o : RIOp) (s : State) : Out := finish (riHdr o) (boundsBody o false) s
def execCbnde (o : RIOp) (s : State) : Out := finish (riHdr o) (boundsBody o true) s

def execCperm (o : RIOp) (s : State) : Out :=
  finish (riHdr o) (fun s => do
    let c := s.rc (riOa o)
    capRaise s c (capDeriveCheck s.world c)
    .ok (s.wc (riOd o) (capWithPerm c (capPerm c &&& (riZext s o).extractLsb' 0 12)))) s

/-! ### Sealing (R334) -/

/-- The authority of cseal and cunseal: CAPT, CAPS, CAPW, CAPP, then its cursor. -/
def sealAuth (s : State) (a : Cap) (perm : BitVec 12) : R (BitVec 4) := do
  capRaise s a (capCheckKind s.world a perm)
  let t := (capCursor a).toNat
  guardR s (capBase a ≤ t && t < capTop a && 3 ≤ t && t ≤ 15) cCAPB 4 t
  .ok (BitVec.ofNat 4 t)

def execCseal (o : ROp) (s : State) : Out :=
  finish o.hdr (fun s => do
    let c := s.rc o.oa
    guardR s c.tag cCAPT 0 (capCursor c).toNat
    guardR s (capOtype c == 0) cCAPS 1 (capCursor c).toNat
    guardR s ((capWorld c).toNat == s.world.val) cCAPW 0 (capCursor c).toNat
    let t ← sealAuth s (s.rc o.ob) pSEAL
    .ok (s.wc o.od (capWithOtype c t))) s

def execCunseal (o : ROp) (s : State) : Out :=
  finish o.hdr (fun s => do
    let c := s.rc o.oa
    guardR s c.tag cCAPT 0 (capCursor c).toNat
    guardR s ((capWorld c).toNat == s.world.val) cCAPW 0 (capCursor c).toNat
    let t ← sealAuth s (s.rc o.ob) pUNSEAL
    guardR s (capOtype c == t) cCAPS 1 (capCursor c).toNat
    .ok (s.wc o.od (capWithOtype c 0))) s

/-! ### Revocation (R335-R337) -/

/-- The address of the revocation bitmap of the slot's world. -/
def State.rvMap (s : State) : Nat := (s.wst s.world).rvmap.toNat / 2 ^ 16 % 2 ^ 40 * 2 ^ 16
def State.rvLo (s : State) : Nat := ((s.wst s.world).rvrng.extractLsb' 0 32).toNat * 2 ^ 24
def State.rvHi (s : State) : Nat := ((s.wst s.world).rvrng.extractLsb' 32 32).toNat * 2 ^ 24

/-- The bits of bitmap byte `j` that stand for the region of bits `[i0, i1)`. -/
def rvMask (i0 i1 j : Nat) : Byte :=
  BitVec.ofNat 8 ((2 ^ (min 8 (i1 - 8 * j)) - 1) / 2 ^ (i0 - 8 * j) * 2 ^ (i0 - 8 * j))

/-- Change the bits of the region in the bytes of a bitmap from byte `j` on. -/
def rvChange (i0 i1 : Nat) (set : Bool) : Nat → List Byte → List Byte
  | _, [] => []
  | j, b :: bs => (if set then b ||| rvMask i0 i1 j else b &&& ~~~rvMask i0 i1 j) :: rvChange i0 i1 set (j + 1) bs

/-- The bytes of a bitmap can be changed at once: no logged store of the slot, and no invalidation, is outstanding for them. -/
def mapFree (s : State) (ps : List Piece) : R Unit :=
  match ps.find? fun p => match p.place with
    | .at key main => s.logTouches s.sl.fib p.va p.len || s.dupBusy main key p.len
    | _ => false with
  | some p => waitFor s .queue p.va
  | none => .ok ()

/-- The bitmap bytes of a region, read at the owning quay and written as an acq-rel access of the slot at package scope
(R210, R336). -/
def crvkBody (o : ROp) (set : Bool) (s : State) : R State := do
  let c := s.rc o.oa
  check s (capCheck s.world c (capBase c) (capLen c) pSYS)
  let b := capBase c
  guardR s (b % 64 == 0 && capLen c % 64 == 0 && !capLocal c && s.rvLo ≤ b && capTop c ≤ s.rvHi) cPROT 25 b
  if capLen c == 0 then .ok s
  else do
    releaseWait s 3
    let i0 := (b - s.rvLo) / 64
    let i1 := i0 + capLen c / 64
    let va := (s.rvMap + i0 / 8) % 2 ^ 56
    let n := (i1 - 1) / 8 - i0 / 8 + 1
    match s.globalPieces s.world (some s.cluster.val) { r := true, w := true } false va n with
    | .error f => .error (.trap f, s)
    | .ok ps =>
      match ps.find? (fun p => p.place == .hold) with
      | some p => waitFor (s.askPage s.world p.va (s.holdReason s.world (some s.cluster.val) p.va { w := true })) .page p.va
      | none => do
        mapFree s ps
        let r ← loadPieces (← arrive s s.world ps) ps { served := .owner }
        let t ← storePieces r.2 ps (rvChange i0 i1 set (i0 / 8) r.1) []
        .ok (t.dropWorld s.world)

def execCrvkMark (o : ROp) (s : State) : Out := finish o.hdr (crvkBody o true) s
def execCrvkClear (o : ROp) (s : State) : Out := finish o.hdr (crvkBody o false) s

/-- The world that cswp names, or PROT aux 24. -/
def sweepWorld (s : State) (o : ROp) : R World := do
  guardR s ((s.rx o.oa).toNat ≤ 15) cPROT 24 0
  .ok (Fin.ofNat 16 (s.rx o.oa).toNat)

/-- cswp: the sweep starts, the supervisor of this core is asked to sweep its registers, and memory is swept. Its SIG
is posted when the sweep completes (R337). -/
def execCswpStart (o : ROp) (s : State) : Out :=
  finishHanded (fun s => do
    let w ← sweepWorld s o
    if (s.wst w).sweep.isSome then waitFor s .pool 0
    else
      let s' := s.modWorld w fun x =>
        { x with sweep := some ⟨s.cur, o.hdr.sigSm, o.hdr.sigInc, s.sl.pc, s.insn, false, false⟩ }
      .ok ((s'.postRec 15 ⟨cSWI, 1 + 256 * w.val, 0⟩ 0 0).post (.sweepMemory w))) s

/-- The tag cleared of a Revoked capability of a world. -/
def State.sweepCap (s : State) (w : World) (c : Cap) : Cap :=
  if c.tag && (capWorld c).toNat == w.val && s.revoked c then capUntag c else c

/-- The latch descriptors and the handlers of a matrix unit after the acknowledgement, those of its drains among them. -/
def State.sweepMat (s : State) (w : World) (m : Matrix) : Matrix :=
  let f := s.sweepCap w
  { m with
    hcode := m.hcode.map f, drains := m.drains.map fun d => { d with handler := f d.handler },
    parts := m.parts.map fun p => { p with desc := { p.desc with base := f p.desc.base } } }

/-- The capabilities that the wavefront array holds, swept. -/
def State.sweepWave (s : State) (w : World) (v : Wave) : Wave :=
  let f := s.sweepCap w
  { v with tableCap := f v.tableCap, staged := v.staged.map fun x => { x with cap := f x.cap } }

/-- The records, stream ports, copy commands and held units of a slot after the acknowledgement. -/
def State.sweepSlot (s : State) (w : World) (sl : Slot) : Slot :=
  let f := s.sweepCap w
  let r := fun (r : Rec) => { r with g0 := f r.g0, g1 := f r.g1 }
  { sl with
    ports := sl.ports.map fun p => { p with cap := f p.cap },
    copies := sl.copies.map fun c => { c with dst := f c.dst, src := f c.src },
    heldMat := sl.heldMat.map fun m => (s.sweepMat w m.1, m.2),
    startRec := r sl.startRec, entry := { sl.entry with record := r sl.entry.record } }

/-- cswp.ack (R337 step 3). -/
def execCswpAck (o : ROp) (s : State) : Out :=
  finish o.hdr (fun s => do
    let w ← sweepWorld s o
    match (s.wst w).sweep with
    | none => .ok s
    | some x =>
      if x.acked then .ok s
      else
        let t : State := { s with slots := s.slots.map (s.sweepSlot w), mat := s.sweepMat w s.mat }
        .ok (t.modWorld w fun y => { y with sweep := some { x with acked := true } })) s

/-! ### The sweep of memory (R337 step 2) -/

/-- The lines of granules whose tags have changed are sealed anew. -/
def State.reseals (s : State) (gs : List Nat) : State := gs.foldl (fun s g => s.reseal (16 * g) 16) s

/-- SWEEP_MEMORY: tags in memory and FIFO banks, and the registers that quay cores hold. Clearing the tag of a DUP line is a
write, which invalidates its copies (R251). -/
def sweepMemory (s : State) (w : World) : State :=
  let f := s.sweepCap w
  let gone := s.tags.filter fun g => !(f ⟨true, BitVec.ofNat 128 (s.nat (16 * g) 16)⟩).tag
  let s := gone.foldl (fun s g => s.dupWrite false (16 * g) 16) (s.sweepCache fun c => !(f c).tag)
  ({ s with
    tags := s.tags.filter (!gone.contains ·),
    fifos := s.fifos.map fun p => (p.1, p.2.map f),
    slots := s.slots.map fun sl =>
      if sl.quay.isSome then
        { sl with pcc := f sl.pcc, c := Vector.ofFn fun i => if i.val < 16 then f sl.c[i] else sl.c[i] }
      else sl } : State).reseals gone

def execSweepMemory (s : State) : Out :=
  match s.act with
  | some (.sweepMemory w) =>
    match (s.wst w).sweep with
    | some x => .next ((sweepMemory s w).modWorld w fun y => { y with sweep := some { x with swept := true } })
    | none => .next s
  | _ => .fault .noSuchEvent

/-- No record in a queue, no logged store and no unit keeps a Revoked capability of the world behind a sweep (R339).
DEDUCED, unsafe: log 84. -/
def State.sweepHeld (s : State) (w : World) : State :=
  let f := s.sweepCap w
  let r := fun (r : Rec) => { r with g0 := f r.g0, g1 := f r.g1 }
  let q := fun (q : Queued) => { q with rcd := r q.rcd }
  let ring := fun (x : Ring) => { x with recs := x.recs.map r }
  { s with
    clq := s.clq.map q, heldQ := s.heldQ.map q, lrq := s.lrq.map r, heldMsgs := s.heldMsgs.map r,
    cmq := s.cmq.map ring, susp := s.susp.map fun x => (x.1, x.2.1, q x.2.2),
    swapped := s.swapped.map fun x => (x.1, x.2.1, r x.2.2),
    await := s.await.map fun e => e.map fun e => { e with rcd := r e.rcd },
    wave := s.sweepWave w s.wave, slots := s.slots.map fun sl =>
      { sl with heldMat := sl.heldMat.map fun m => (s.sweepMat w m.1, s.sweepWave w m.2)
                image := sl.image.map fun m => { m with tags := m.tags.filter fun g => (f (m.cap (16 * g))).tag } }
    sideLog := s.sideLog.map fun e => { e with tags := s.replayTags e } }

/-- SWEEP_COMPLETE: every core has acknowledged, every unit has finished, and every die sees what has been cleared (R337 step
4). -/
def execSweepComplete (s : State) : Out :=
  match s.act with
  | some (.sweepComplete w) =>
    match (s.wst w).sweep with
    | some x =>
      if !s.dupQuiet then .next s.stall
      else if x.acked && x.swept then
        let s := (s.sweepHeld w).modWorld w fun y => { y with sweep := none }
        .next ((s.engineSignal x.sl x.sigSm x.sigInc x.pc x.insn).post .poolGrant)
      else .next s
    | none => .next s
  | _ => .fault .noSuchEvent

end Sys2Proof.Machine
end

