-- ==== Sys2Proof/Machine/Frame.lean ====
section
/-!
DEFINITION. Attention frames (R134-R156): descriptors, visibility, the KV pages a frame holds, and the frame
instructions.
-/

namespace Sys2Proof.Machine

/-! ### Descriptors (R135, R136) -/

/-- A descriptor: its 1,024 bits and the tags of KV, PARENT and ROT. -/
structure FDesc where
  bits : Line
  tKv : Bool
  tPar : Bool
  tRot : Bool
deriving DecidableEq, Repr

def FDesc.zero : FDesc := ⟨0, false, false, false⟩

namespace FDesc

/-- Bits `[lo + w - 1 : lo]`. -/
def fld (d : FDesc) (lo w : Nat) : Nat := (d.bits.extractLsb' lo w).toNat
def setFld (d : FDesc) (lo w v : Nat) : FDesc :=
  { d with bits := (d.bits &&& ~~~(BitVec.ofNat 1024 ((2 ^ w - 1) * 2 ^ lo))) ||| BitVec.ofNat 1024 (v % 2 ^ w * 2 ^ lo) }

def kv (d : FDesc) : Cap := ⟨d.tKv, d.bits.extractLsb' 0 128⟩
def parent (d : FDesc) : Cap := ⟨d.tPar, d.bits.extractLsb' 128 128⟩
def rot (d : FDesc) : Cap := ⟨d.tRot, d.bits.extractLsb' 896 128⟩
def len (d : FDesc) : Nat := d.fld 256 32
def cap (d : FDesc) : Nat := d.fld 288 32
def posb (d : FDesc) : Nat := d.fld 320 32
def win (d : FDesc) : Nat := d.fld 352 32
def depth (d : FDesc) : Nat := d.fld 384 8
def limit (d : FDesc) : Nat := d.fld 392 4
def sealedB (d : FDesc) : Bool := d.bits.getLsbD 396
def sharedB (d : FDesc) : Bool := d.bits.getLsbD 397
def keepset (d : FDesc) : Bool := d.bits.getLsbD 398
def live (d : FDesc) : Bool := d.bits.getLsbD 399
def sharers (d : FDesc) : Nat := d.fld 400 8
def slot (d : FDesc) : Nat := d.fld 408 8
def kstart (d : FDesc) : Nat := d.fld 416 32
def klen (d : FDesc) : Nat := d.fld 448 32
def rowb (d : FDesc) : Nat := d.fld 480 32

/-! Argument span `n` (R136). -/
def argBase (n : Nat) : Nat := 512 + 128 * n
def argSlot (d : FDesc) (n : Nat) : Nat := d.fld (argBase n) 6
def argValid (d : FDesc) (n : Nat) : Bool := d.bits.getLsbD (argBase n + 6)
def argStart (d : FDesc) (n : Nat) : Nat := d.fld (argBase n + 64) 32
def argLen (d : FDesc) (n : Nat) : Nat := d.fld (argBase n + 96) 32
def setArg (d : FDesc) (n slot : Nat) (valid : Bool) (start len : Nat) : FDesc :=
  d.setFld (argBase n) 128 (slot % 64 + (if valid then 64 else 0) + start % 2 ^ 32 * 2 ^ 64 + len % 2 ^ 32 * 2 ^ 96)

/-- Edge (R137). -/
def edge (d : FDesc) : Nat := if d.win == 0 then 0 else d.len - d.win

/-- The spans that name a slot lose VALID (R146, R149). -/
def dropSpan (d : FDesc) (n slot : Nat) : FDesc :=
  if d.argValid n && d.argSlot n == slot then d.setFld (argBase n + 6) 1 0 else d
def dropSpans (d : FDesc) (slot : Nat) : FDesc := ((d.dropSpan 0 slot).dropSpan 1 slot).dropSpan 2 slot

end FDesc

/-- The null capability (R15). -/
def capIsNull (c : Cap) : Bool := !c.tag && c.bits == 0

/-! ### The table -/

/-- A frame table: its address, where it lies in memory, and its 64 descriptors as read. -/
structure FTable where
  base : Nat
  key : Nat
  descs : List FDesc
deriving DecidableEq, Repr

def FTable.addr (t : FTable) (i : Nat) : Nat := t.base + 128 * i
def FTable.get (t : FTable) (i : Nat) : FDesc := t.descs.getD i .zero
def FTable.put (t : FTable) (i : Nat) (d : FDesc) : FTable := { t with descs := t.descs.set i d }

/-- The descriptor at a key. -/
def State.descAt (s : State) (k : Nat) : FDesc :=
  ⟨BitVec.ofNat 1024 (s.nat k 128), s.tagAt k, s.tagAt (k + 16), s.tagAt (k + 112)⟩

/-- Bounds of exactly 8 KiB, 8 KiB-aligned, and a cursor that is a multiple of 128 within them (R134). -/
def tableShape (c : Cap) : Bool :=
  capLen c == 8192 && capBase c % 8192 == 0 && capCursor c % 128 == 0 &&
    capBase c ≤ (capCursor c).toNat && (capCursor c).toNat < capTop c

/-- A frame instruction: an acq-rel access at package scope (R141), so the world's lines leave the cluster cache. -/
def finishFrame (h : Hdr) (body : State → R State) (s : State) : Out := finish h (fun s => body (s.dropWorld s.world)) s

/-- Read the table of a checked capability: an access of the slot that reads and writes (R141).
DEDUCED, unsafe: log 37. -/
def readTable (s : State) (c : Cap) : R FTable := do
  releaseWait s 3
  let a := capBase c
  let k ← (if capLocal c then do
      check s (localCheck s.cluster.val s.sl.cmwin a 8192)
      check s (s.bankCheck s.cluster .plain a 8192)
      .ok (locKey a)
    else match s.globalPieces s.world (some s.cluster.val) { r := true, w := true } false a 8192 with
      | .ok [⟨.at k _, _, _⟩] => .ok k
      | .ok _ => waitFor (s.askPage s.world a (s.holdReason s.world (some s.cluster.val) a { w := true })) .page a
      | .error f => .error (.trap f, s) : R Nat)
  match s.readError s.world k 8192 a with
  | some (cause, at_) => raise s cause (if cause == cSEAL then 1 else 0) at_
  | none => .ok ⟨a, k, (List.range 64).map fun i => s.descAt (k + 128 * i)⟩

/-- The slot a frame capability names. -/
def FTable.slotOf (t : FTable) (c : Cap) : Nat := ((capCursor c).toNat - t.base) / 128 % 64

/-- The checks of R134 on a frame capability: the table and the slot it names. -/
def frameCheck (s : State) (c : Cap) : R (FTable × Nat) := do
  let at_ := (capCursor c).toNat
  guardR s c.tag cCAPT 0 at_
  guardR s (capOtype c == 2) cCAPS 0 at_
  guardR s ((capWorld c).toNat == s.world.val) cCAPW 0 at_
  guardR s (capHas c pFRAME) cCAPP 0 at_
  guardR s (tableShape c) cCAPB 0 at_
  let t ← readTable s c
  let i := t.slotOf c
  guardR s (t.get i).live cFRMV 1 (t.addr i)
  .ok (t, i)

/-- cfr (R15). -/
def State.cfr (s : State) : Cap := s.rc 29

/-- cfr for an instruction that acts on it (R143). -/
def cfrCheck (s : State) : R (FTable × Nat) := do
  guardR s (!capIsNull s.cfr) cFRMU 2 0
  frameCheck s s.cfr

/-- A field of a descriptor that must not have lost its tag (R156). -/
def keepsTag (s : State) (addr : Nat) (c : Cap) : R Cap := do
  guardR s (c.tag || capIsNull c) cCAPT 0 addr
  .ok c

/-- Write the descriptors that differ from memory back. -/
def FTable.store (t : FTable) (s : State) : Nat → State
  | 0 => s
  | n + 1 =>
    let s := t.store s n
    let k := t.key + 128 * n
    let d := t.get n
    if s.descAt k = d then s
    else
      let s := s.writeBytes k (leBytes 128 d.bits.toNat)
      let g := k / 16
      ({ s with tags := natSet (natSet (natSet s.tags g d.tKv) (g + 1) d.tPar) (g + 7) d.tRot } : State).sealAt s.world
        (t.addr n) k 128

def FTable.flush (t : FTable) (s : State) : State := t.store s 64

/-- Slot `i` has no live child among the first `n` descriptors; each live one's PARENT is read. -/
def childless (s : State) (t : FTable) (i : Nat) : Nat → R Unit
  | 0 => .ok ()
  | n + 1 => do
    childless s t i n
    if (t.get n).live then do
      let p ← keepsTag s (t.addr n) (t.get n).parent
      guardR s (capIsNull p || t.slotOf p != i) cFRMV 3 (t.addr i)
    else .ok ()

/-! ### Visibility (R138) -/

/-- A frame and its ancestors, youngest first. -/
def ancestors (t : FTable) : Nat → Nat → List Nat
  | 0, _ => []
  | fuel + 1, i => i :: if capIsNull (t.get i).parent then [] else ancestors t fuel (t.slotOf (t.get i).parent)

/-- Seen through an ancestor of `d`: present at the push of the frame below it. -/
def seenAbove (s : State) (t : FTable) (si j : Nat) : Nat → Nat → R Bool
  | 0, _ => .ok false
  | fuel + 1, d => do
    let p ← keepsTag s (t.addr d) (t.get d).parent
    if capIsNull p then .ok false
    else
      let g := t.slotOf p
      if g == si && (t.get si).posb + j < (t.get d).posb then .ok true else seenAbove s t si j fuel g

/-- Seen through an argument span of one of the frames. -/
def seenByArg (t : FTable) (si j : Nat) (chain : List Nat) : Bool :=
  chain.any fun i => (List.range 3).any fun n =>
    let d := t.get i
    d.argValid n && d.argSlot n == (t.get si).slot && d.argStart n ≤ j && j < d.argStart n + d.argLen n

/-- Visible(F, ref, qpos) of R138. -/
def visible (s : State) (t : FTable) (f ref qpos : Nat) : R Bool := do
  let si := ref / 2 ^ 26 % 64
  let j := ref % 2 ^ 26
  let d := t.get si
  if !d.live || d.len ≤ j || j < d.edge then .ok false
  else if si == f then
    let i : Int := qpos - (d.posb : Int)
    .ok ((j : Int) ≤ i && (d.win == 0 || i - j < d.win))
  else do
    let above ← seenAbove s t si j 65 f
    .ok (above || seenByArg t si j (ancestors t 65 f))

/-! ### Pages (R152, R153) -/

/-- The addresses of the 64 KiB pages that cover the bytes of tokens `[lo, hi)` of a frame. -/
def FDesc.pages (d : FDesc) (lo hi : Nat) : List Nat :=
  if hi ≤ lo || d.rowb == 0 || capLocal d.kv then []
  else
    let b := capBase d.kv
    let p0 := lo * d.rowb / 2 ^ 16
    (List.range ((hi * d.rowb - 1) / 2 ^ 16 - p0 + 1)).map fun i => (b + (p0 + i) * 2 ^ 16) % 2 ^ 64

/-- The reference of a page becomes another: only one that differs from that of a page just mapped is listed. -/
def State.setRef (s : State) (r : PageRef) : State :=
  let rest := s.refs.filter fun p => !(p.world == r.world && p.page == r.page)
  { s with refs := if r.count == 1 && !r.pinned then rest else rest ++ [r] }

/-- The physical address a mapped KV page has. -/
def State.kvPa (s : State) (w : World) (va : Nat) : Option Nat :=
  match s.translate w none va {} with
  | .ok pa main => if lfKV main then some pa else none
  | _ => none

/-- The mapped pages of a frame. -/
def State.framePages (s : State) (w : World) (d : FDesc) : List Nat :=
  (d.pages 0 d.cap).filter fun va => (s.kvPa w va).isSome

/-- A page is unmapped and returned to the pool: V of its leaf becomes 0, and no quay keeps the leaf.
DESIGN CHOICE, unsafe: log 95. -/
def State.unmap (s : State) (w : World) (va : Nat) : State :=
  let s := { s with tcache := s.tcache.filter fun e => !e.covers w va }
  match s.leafAddr w va with
  | some e => s.writeBytes e [s.byte e &&& 0xFE]
  | none => s

/-- A release of a page (R153): a count at 255 or at 0 stays, the page is pinned, and firmware is told.
DESIGN CHOICE, unsafe: log 95. -/
def State.releasePage (s : State) (w : World) (va : Nat) : State :=
  let r := s.pageRef w va
  if (s.kvPa w va).isNone then s
  else if r.count == 255 || r.count == 0 then (s.setRef { r with pinned := true }).auditIrq w va
  else
    let s := s.setRef { r with count := r.count - 1 }
    if r.count == 1 && !r.pinned then s.unmap w va else s

/-- Another holder of a page (R151). -/
def State.sharePage (s : State) (w : World) (va : Nat) : State :=
  let r := s.pageRef w va
  if (s.kvPa w va).isNone then s
  else if r.count == 255 then (s.setRef { r with pinned := true }).auditIrq w va
  else s.setRef { r with count := r.count + 1 }

def State.releasePages (s : State) (w : World) (vas : List Nat) : State := vas.foldl (·.releasePage w ·) s

/-- A page that firmware has mapped for a request that found no entry: a KV page then counts 1 and reads as zero (R152). -/
def State.pageFresh (s : State) (w : World) (va : Nat) : State :=
  let va := va / 2 ^ 16 * 2 ^ 16
  match s.kvPa w va with
  | some pa => (s.zeroRange pa (2 ^ 16)).setRef { s.pageRef w va with count := 1 }
  | none => s

/-- Pages of new tokens are mapped on demand; while firmware has not mapped one, the instruction waits (R146, R152). -/
def mapPages (s : State) (addr : Nat) : List Nat → R State
  | [] => .ok s
  | va :: rest =>
    match s.translate s.world none va {} with
    | .ok _ _ => mapPages s addr rest
    | .hold why => waitFor (s.askPage s.world va why) .frame addr
    | .fail cause aux => raise s cause aux va

/-- A load of a latch whose data has not arrived. -/
def Part.pending (p : Part) : Bool := p.desc.valid && p.rows.isNone && p.err.isNone && !p.plan.isEmpty

/-- An instruction that frees a page completes only after every token gather that resolved against the older state of the
table has read its rows (R141). -/
def gathersRead (s : State) (vas : List Nat) : R Unit :=
  if vas.any (fun va => s.refCount s.world va == 1) &&
      s.mat.parts.any (fun p => p.desc.token && p.pending) then
    .error (.spin, s)
  else .ok ()

/-- Side-logged stores to pages have replayed (R152). -/
def pagesReplayed (s : State) (addr : Nat) (vas : List Nat) : R Unit :=
  if s.sideLog.any fun e => e.world == s.world && vas.contains (e.va / 2 ^ 16 * 2 ^ 16) then waitFor s .frame addr
  else .ok ()

/-- The pages that the window has passed and whose count is 1, which are released (R152). -/
def State.pagesBehind (s : State) (w : World) (d : FDesc) : List Nat :=
  if d.win == 0 || d.rowb == 0 then []
  else (d.pages 0 d.cap).zipIdx.filterMap fun p =>
    if (p.2 + 1) * (2 ^ 16 / d.rowb) ≤ d.edge && (s.kvPa w p.1).isSome && s.refCount w p.1 == 1 then some p.1 else none

/-! ### Re-rotation (R147) -/

/-- The formats a rotated key may have. -/
def keyFmt (ef : Nat) : Option Fmt :=
  match ef with
  | 1 => some .f32
  | 2 => some .bf16
  | 3 => some .f16
  | _ => none

/-- One key pair: the two codes, with their flags. -/
def rotatePair (f : Fmt) (tcx pos : Bool) (x y c sn : Num) : Nat × Nat × Flags :=
  let xc := Num.mul x c
  let ys := Num.mul y sn
  let xs := Num.mul x sn
  let yc := Num.mul y c
  let a := Num.add .rne xc.1 (if pos then ys.1.neg else ys.1)
  let b := Num.add .rne (if pos then xs.1 else xs.1.neg) yc.1
  let ea := f.encode tcx .rne false a.1
  let eb := f.encode tcx .rne false b.1
  (ea.1, eb.1, xc.2 ||| ys.2 ||| xs.2 ||| yc.2 ||| a.2 ||| b.2 ||| ea.2 ||| eb.2)

/-- The key half of a row, `m` pairs of it rotated, with the flags. -/
def rotateKey (f : Fmt) (tcx pos : Bool) (key rotary : Nat) : Nat → Nat × Flags
  | 0 => (0, 0)
  | m + 1 =>
    let r := rotateKey f tcx pos key rotary m
    let w := f.width
    let at_ := fun v b i => v / 2 ^ (b * i) % 2 ^ b
    let p := rotatePair f tcx pos (f.decode tcx (at_ key w (2 * m))) (f.decode tcx (at_ key w (2 * m + 1)))
      (Fmt.decode .f32 tcx (at_ rotary 32 (2 * m))) (Fmt.decode .f32 tcx (at_ rotary 32 (2 * m + 1)))
    (r.1 + (p.1 + p.2.1 * 2 ^ w) * 2 ^ (2 * w * m), r.2 ||| p.2.2)

/-! ### Row copies of fpop (R146) -/

/-- The fibre of fpop waits for a page in its copy as it does for its frame: PAGE never arises there (R148, R310). -/
def asFrame {α : Type} (addr : Nat) (r : R α) : R α :=
  match r with
  | .error (.wait .page _ _, s) => waitFor s .frame addr
  | r => r

/-- Where a row of a frame lies, for a read that may reach KV pages or for a write of the engine. -/
def rowPieces (s : State) (need : Need) (kv : Cap) (a n addr : Nat) : R (List Piece) :=
  if capLocal kv then do
    check s (localCheck s.cluster.val s.sl.cmwin a n)
    check s (s.bankCheck s.cluster .plain a n)
    .ok [⟨.at (locKey a) 0, a, n⟩]
  else match s.globalPieces s.world (some s.cluster.val) need need.r a n with
  | .error f => .error (.trap f, s)
  | .ok ps => match ps.find? fun p => p.place == .hold with
    | some p => waitFor (s.askPage s.world p.va (s.holdReason s.world (some s.cluster.val) p.va need)) .frame addr
    | none => .ok ps

/-- Token row `j` of a frame, with the element format of its page. -/
def readRow (s : State) (d : FDesc) (j addr : Nat) : R (Nat × Nat × State) := do
  let a := capBase d.kv + j * d.rowb
  let ps ← rowPieces s { r := true } d.kv a d.rowb addr
  let r ← asFrame addr (do loadPieces (← arrive s s.world ps) ps)
  let ef := match ps with
    | ⟨.at key m, _, _⟩ :: _ => if keyIsCl key then 0 else lfEF m
    | _ => 0
  .ok (leNat r.1, ef, r.2)

/-- A row is written by the engine: a line that cannot be written is a fault of the copy (R148). -/
def writeRow (s : State) (d : FDesc) (j addr : Nat) (bs : List Byte) : R State := do
  let a := capBase d.kv + j * d.rowb
  let ps ← rowPieces s { w := true } d.kv a d.rowb addr
  match ps.findSome? fun p => match p.place with
    | .at key _ =>
      if !s.cxlOk key then some ⟨cMEMERR, 6, p.va⟩ else s.sealedBad s.world p.va key p.len
    | .peer dev _ => if s.reaches dev then none else some ⟨cMEMERR, 6, p.va⟩
    | _ => none with
  | some f => .error (.trap f, s)
  | none =>
    if capLocal d.kv then .ok (s.engineWrite (locKey a) bs)
    else do
      let t ← arrive s s.world ps
      allOrNone s (storePieces t ps bs [])

/-- The rows `[t, t + n)` of the kept span written to the parent: state and flags. -/
def copyRows (s : State) (c g : FDesc) (dlt : Int) (addr t : Nat) : Nat → R (State × Flags)
  | 0 => .ok (s, 0)
  | n + 1 => do
    let (row, ef, s) ← readRow s c (c.kstart + t) addr
    let half := c.rowb / 2
    let (key, fl, s) ← (if dlt == 0 then .ok (row % 2 ^ (8 * half), (0 : Flags), s)
      else match keyFmt ef with
        | none => raise s cFRMC 3 addr
        | some f => do
          let m := half * 8 / (2 * f.width)
          let rot ← keepsTag s addr c.rot
          let at_ := ((capCursor rot).toNat + dlt.natAbs * (8 * m)) % 2 ^ 64
          let rr ← asFrame addr (loadBytes s rot at_ (8 * m) pR 1)
          let r := rotateKey f s.sl.tcx (0 < dlt) row (leNat rr.1) m
          .ok (r.1, r.2, rr.2) : R (Nat × Flags × State))
    let out := key + row / 2 ^ (8 * half) * 2 ^ (8 * half)
    let s ← writeRow s g (g.len + t) addr (leBytes g.rowb out)
    let (s, fl') ← copyRows s c g dlt addr (t + 1) n
    .ok (s, fl ||| fl')

/-! ### The instructions -/

/-- A register read as 32-bit unsigned (R144). -/
def reg32 (s : State) (r : BitVec 6) (addr : Nat) : R Nat := do
  guardR s ((s.rx r).toNat < 2 ^ 32) cFRMV 2 addr
  .ok (s.rx r).toNat

/-- x(OA) of 32 bits, or IMM32 (R144). DESIGN CHOICE, unsafe: log 93. -/
def regOrImm32 (s : State) (o : RIOp) (addr : Nat) : R Nat :=
  match o with
  | .r r => reg32 s r.oa addr
  | .i r => .ok r.imm.toNat

/-- cfr, not null and not sealed (R150, R152). -/
def openFrame (s : State) : R (FTable × Nat) := do
  let (t, i) ← cfrCheck s
  guardR s (!(t.get i).sealedB) cFRMS 2 (t.addr i)
  .ok (t, i)

/-- A frame instruction writes a c register, cfr included (R43). -/
def State.wcFrame (s : State) (r : BitVec 6) (c : Cap) : State := if r == 29 then s.wcfr c else s.wc r c

/-- Row sizes (R135). -/
def rowbOk (n : Nat) : Bool := n == 128 || n == 256 || n == 512 || n == 1024 || n == 2048 || n == 4096

/-- A check of fpush on its pool or rotary capability, without bounds. -/
def kindCheck (s : State) (c : Cap) (perm : BitVec 12) : R Unit :=
  match capCheckKind s.world c perm with
  | some cause => raise s cause 0 (capCursor c).toNat
  | none => .ok ()

/-- What a push takes from its parent or from its root operands. -/
structure PushFrom where
  t : FTable
  tabCap : Cap
  parent : Cap
  rot : Cap
  depth : Nat
  posb : Nat
  limit : Nat
  rowb : Nat
  wordOk : Bool
  addr : Nat
deriving DecidableEq, Repr

/-- The root operands of fpush (R145). -/
def pushRoot (s : State) (o : ROp) : R PushFrom := do
  let tc := s.rc o.oc
  kindCheck s tc pFRAME
  guardR s (tableShape tc && (capCursor tc).toNat == capBase tc) cCAPB 0 (capCursor tc).toNat
  kindCheck s (s.rc o.oe) pR
  let t ← readTable s tc
  let p := (s.rx o.ob).toNat
  let rb := p / 2 ^ 48
  .ok ⟨t, tc, Cap.null, s.rc o.oe, 0, 0, p / 2 ^ 32 % 16, if rb == 0 then 512 else rb, p / 2 ^ 36 % 2 ^ 12 == 0, t.base⟩

/-- The parent of a child push (R145). -/
def pushChild (s : State) (o : ROp) : R PushFrom := do
  let (t, i) ← cfrCheck s
  let d := t.get i
  let rot ← keepsTag s (t.addr i) d.rot
  guardR s (d.depth + 1 ≤ d.limit) cFRMD 1 (t.addr i)
  .ok ⟨t, s.cfr, s.cfr, rot, d.depth + 1, (d.posb + d.len) % 2 ^ 32, d.limit, d.rowb,
    (s.rx o.ob).toNat / 2 ^ 32 == 0, t.addr i⟩

/-- The descriptor of a new frame (R145). DESIGN CHOICE, unsafe: log 94. -/
def newDesc (p : PushFrom) (i cap : Nat) (kv : Cap) : FDesc :=
  let d : FDesc := ⟨p.rot.bits ++ (0 : BitVec 640) ++ p.parent.bits ++ kv.bits, kv.tag, p.parent.tag, p.rot.tag⟩
  ((((((((d.setFld 288 32 cap).setFld 320 32 p.posb).setFld 384 8 p.depth).setFld 392 4 p.limit).setFld 399 1 1).setFld
    400 8 1).setFld 408 8 i).setFld 480 32 p.rowb)

/-- The KV capability of a slice: R and W over CAP rows (R145). DESIGN CHOICE, unsafe: log 82. -/
def kvCap (s : State) (pool : Cap) (base n : Nat) : Cap :=
  match capEnc base (base + n) with
  | some (e, b2, t2) =>
    capMake (pR ||| pW) (BitVec.ofNat 4 s.world.val) 0 (capLocal pool) e (b2 / 2 ^ e) ((t2 - b2) / 2 ^ e)
      (BitVec.ofNat 64 base)
  | none => Cap.null

/-- fpush (R145). DESIGN CHOICE, unsafe: log 80. DESIGN CHOICE, unsafe: log 94. -/
def execFpush (o : ROp) (s : State) : Out :=
  finishFrame o.hdr (fun s => do
    let pool := s.rc o.oa
    kindCheck s pool (pR ||| pW)
    let p ← if o.oc == 0 then pushChild s o else pushRoot s o
    match (List.range 64).find? fun i => !(p.t.get i).live with
    | none => raise s cFRMD 2 p.addr
    | some i =>
      let slice := capLen pool / 64
      let fits := if rowbOk p.rowb then slice / p.rowb else 0
      let req := (s.rx o.ob).toNat % 2 ^ 32
      let base := capBase pool + i * slice
      guardR s (p.wordOk && rowbOk p.rowb && capLen pool % 2 ^ 22 == 0 && capBase pool % 2 ^ 16 == 0 &&
        req ≤ fits) cFRMC 2 (p.t.addr i)
      let cap := if req == 0 then fits else req
      let t := p.t.put i (newDesc p i cap (kvCap s pool base (cap * p.rowb)))
      let fc := capWithOtype (capWithCursor p.tabCap (BitVec.ofNat 64 (p.t.addr i))) 2
      .ok (((t.flush s).wcFrame o.od fc).wcfr fc)) s

/-- fpop (R146-R148). DESIGN CHOICE, unsafe: log 80. -/
def execFpop (o : ROp) (s : State) : Out :=
  finishFrame o.hdr (fun s => do
    let (t, ci) ← cfrCheck s
    let c := t.get ci
    let addr := t.addr ci
    let par ← keepsTag s addr c.parent
    guardR s (!capIsNull par) cFRMU 1 addr
    guardR s (c.sharers ≤ 1) cFRMS 4 addr
    childless s t ci 64
    let gi := t.slotOf par
    let g := t.get gi
    let kl := if c.keepset then c.klen else 0
    guardR s (kl == 0 || !g.sealedB) cFRMS 1 addr
    guardR s (kl == 0 || c.edge ≤ c.kstart) cFRMV 2 addr
    guardR s (g.len + kl ≤ g.cap) cFRMC 1 addr
    let _ ← keepsTag s addr c.kv
    let _ ← keepsTag s (t.addr gi) g.kv
    let dlt : Int := ((g.posb + g.len : Nat) : Int) - (c.posb + c.kstart : Nat)
    let s1 ← mapPages s (t.addr gi) (g.pages g.len (g.len + kl))
    let (s2, fl) ← copyRows s1 c g (if kl == 0 then 0 else dlt) addr 0 kl
    let g2 := g.setFld 256 32 (g.len + kl)
    let t := t.put gi g2
    gathersRead s2 (s2.pagesBehind s.world g2 ++ s2.framePages s.world c)
    let s3 := s2.releasePages s.world (s2.pagesBehind s.world g2)
    let s3 := s3.releasePages s.world (s3.framePages s.world c)
    let t := t.put ci .zero
    let t : FTable := { t with descs := t.descs.map fun d => d.dropSpans ci }
    let s4 := (t.flush s3).wcfr par
    .ok ((s4.orFlags s4.cur fl).wx o.od (BitVec.ofNat 64 g.len))) s

/-- cfr, which must be a frame when it is not null, names slot `i` of a table (R142, R149). -/
def cfrNames (s : State) (t : FTable) (i : Nat) : R Bool :=
  if capIsNull s.cfr then .ok false
  else do
    let (u, j) ← cfrCheck s
    .ok (u.key == t.key && j == i)

/-- fdrop (R149). DESIGN CHOICE, unsafe: log 91. -/
def execFdrop (o : ROp) (s : State) : Out :=
  finishFrame o.hdr (fun s => do
    let (t, i) ← frameCheck s (s.rc o.oa)
    let same ← cfrNames s t i
    let d := t.get i
    let par ← if same then keepsTag s (t.addr i) d.parent else .ok Cap.null
    let s' ← (if d.sharers == 255 then .ok s
      else do
        let _ ← keepsTag s (t.addr i) d.kv
        if 2 ≤ d.sharers then
          let d2 := (d.setFld 400 8 (d.sharers - 1)).setFld 397 1 (if 2 < d.sharers then 1 else 0)
          .ok ((t.put i d2).flush (s.releasePages s.world (s.framePages s.world d)))
        else do
          childless s t i 64
          gathersRead s (s.framePages s.world d)
          let t := t.put i .zero
          let t : FTable := { t with descs := t.descs.map fun x => x.dropSpans i }
          .ok (t.flush (s.releasePages s.world (s.framePages s.world d))) : R State)
    .ok (if same then s'.wcfr par else s')) s

/-- fenter (R149). -/
def execFenter (o : ROp) (s : State) : Out :=
  finishFrame o.hdr (fun s => do
    let _ ← frameCheck s (s.rc o.oa)
    .ok (s.wcfr (s.rc o.oa))) s

/-- farg (R150). -/
def execFarg (o : ROp) (s : State) : Out :=
  finishFrame o.hdr (fun s => do
    let (t, i) ← openFrame s
    let ref ← reg32 s o.oa (t.addr i)
    let n ← reg32 s o.ob (t.addr i)
    let d := t.get i
    let k := o.md.sub.toNat
    if n == 0 then .ok ((t.put i (d.setFld (FDesc.argBase k + 6) 1 0)).flush s)
    else do
      let si := ref / 2 ^ 26
      let j := ref % 2 ^ 26
      let x := t.get si
      guardR s x.live cFRMV 1 (t.addr si)
      guardR s (x.edge ≤ j && j + n ≤ x.len) cFRMV 2 (t.addr i)
      .ok ((t.put i (d.setArg k si true j n)).flush s)) s

/-- fkeep (R150). -/
def execFkeep (o : ROp) (s : State) : Out :=
  finishFrame o.hdr (fun s => do
    let (t, i) ← openFrame s
    let ks ← reg32 s o.oa (t.addr i)
    let kl ← reg32 s o.ob (t.addr i)
    let d := t.get i
    guardR s (kl == 0 || (ks + kl ≤ d.len && d.edge ≤ ks)) cFRMV 2 (t.addr i)
    .ok ((t.put i (((d.setFld 416 32 ks).setFld 448 32 kl).setFld 398 1 1)).flush s)) s

/-- fseal (R151). -/
def execFseal (o : ROp) (s : State) : Out :=
  finishFrame o.hdr (fun s => do
    let (t, i) ← frameCheck s (s.rc o.oa)
    .ok ((t.put i ((t.get i).setFld 396 1 1)).flush s)) s

/-- fshare (R151). -/
def execFshare (o : ROp) (s : State) : Out :=
  finishFrame o.hdr (fun s => do
    let (t, i) ← frameCheck s (s.rc o.oa)
    let d := t.get i
    guardR s d.sealedB cFRMS 3 (t.addr i)
    let _ ← keepsTag s (t.addr i) d.kv
    let d2 := (d.setFld 400 8 (min (d.sharers + 1) 255)).setFld 397 1 1
    .ok ((t.put i d2).flush ((s.framePages s.world d).foldl (·.sharePage s.world ·) s))) s

/-- fappend (R152). DESIGN CHOICE, unsafe: log 93. -/
def execFappend (o : RIOp) (s : State) : Out :=
  finishFrame (riHdr o) (fun s => do
    let (t, i) ← openFrame s
    let n ← regOrImm32 s o (t.addr i)
    let d := t.get i
    guardR s (d.len + n ≤ d.cap) cFRMC 1 (t.addr i)
    let _ ← keepsTag s (t.addr i) d.kv
    let ps := d.pages d.len (d.len + n)
    let s1 ← mapPages s (t.addr i) ps
    pagesReplayed s1 (t.addr i) ps
    let d2 := d.setFld 256 32 (d.len + n)
    gathersRead s1 (s1.pagesBehind s.world d2)
    let s2 := ((t.put i d2).flush s1).releasePages s.world (s1.pagesBehind s.world d2)
    .ok (s2.wx (riOd o) (BitVec.ofNat 64 (d.len + n)))) s

/-- fwin (R152). -/
def execFwin (o : RIOp) (s : State) : Out :=
  finishFrame (riHdr o) (fun s => do
    let (t, i) ← openFrame s
    let v ← regOrImm32 s o (t.addr i)
    let d := t.get i
    guardR s (d.win == 0 || (v != 0 && v ≤ d.win)) cFRMV 4 (t.addr i)
    .ok ((t.put i (d.setFld 352 32 v)).flush s)) s

/-- fvis (R154). -/
def execFvis (o : ROp) (s : State) : Out :=
  finishFrame o.hdr (fun s =>
    if capIsNull s.cfr then .ok (s.wp o.od false)
    else do
      let (t, i) ← cfrCheck s
      let v ← visible s t i ((s.rx o.oa).toNat % 2 ^ 32) ((s.rx o.ob).toNat % 2 ^ 32)
      .ok (s.wp o.od v)) s

/-- The visibility bits of the enabled lanes below `n` (R154). -/
def maskLanes (s : State) (t : FTable) (f : Nat) (mask : Gran) (zm : Bool) (old : Gran) (v : Line) (q : Nat) :
    Nat → R Gran
  | 0 => .ok 0
  | n + 1 => do
    let r ← maskLanes s t f mask zm old v q n
    let b ← if mask.getLsbD n then visible s t f (lane 32 v n) q else .ok (!zm && old.getLsbD n)
    .ok (if b then r ||| ((1 : Gran) <<< n) else r)

/-- fmask (R154). -/
def execFmask (o : ROp) (s : State) : Out :=
  finishFrame o.hdr (fun s => do
    noPort s o.oa
    let km := kmOf s.sl o.md
    let old := s.rk o.od
    let q := (s.rx o.ob).toNat % 2 ^ 32
    if capIsNull s.cfr then
      .ok (s.wk o.od (if zmOf o.md then 0 else old &&& ~~~km &&& lowMask 32))
    else do
      let (t, i) ← cfrCheck s
      let r ← maskLanes s t i km (zmOf o.md) old (s.sl.rv o.oa) q 32
      .ok (s.wk o.od r)) s

/-- The number fdesc reads (R155). -/
def FDesc.number (d : FDesc) (n : Nat) : Nat :=
  match n with
  | 0 => d.len
  | 1 => d.cap
  | 2 => d.posb
  | 3 => d.win
  | 4 => d.depth
  | 5 => d.limit
  | 6 => (if d.live then 8 else 0) + (if d.keepset then 4 else 0) + (if d.sharedB then 2 else 0) +
      (if d.sealedB then 1 else 0)
  | 7 => d.sharers
  | 8 => d.slot
  | 9 => d.kstart
  | 10 => d.klen
  | 11 => d.rowb
  | _ => d.edge

/-- The tail capability: W only, over the rows `[LEN, CAP)` of KV (R155). DESIGN CHOICE, unsafe: log 83. -/
def FDesc.tail (d : FDesc) : Cap :=
  let lo := capBase d.kv + d.len * d.rowb
  match capEnc lo (capBase d.kv + d.cap * d.rowb) with
  | some (e, b2, t2) =>
    capWithBounds (capWithCursor (capWithPerm d.kv (capPerm d.kv &&& pW)) (BitVec.ofNat 64 lo)) e b2 t2
  | none => Cap.null

/-- fdesc (R155). DESIGN CHOICE, unsafe: log 81. -/
def execFdesc (o : RIOp) (s : State) : Out :=
  finishFrame (riHdr o) (fun s => do
    let (t, i) ← frameCheck s (s.rc (riOa o))
    let d := t.get i
    let n := match o with
      | .r r => (s.rx r.ob).toNat
      | .i r => r.imm.toNat
    if (riMd o).sub == 0 then do
      guardR s (n ≤ 12) cFRMV 6 (t.addr i)
      .ok (s.wx (riOd o) (BitVec.ofNat 64 (d.number n)))
    else do
      guardR s (n ≤ 2) cFRMV 6 (t.addr i)
      let c ← (match n with
        | 0 => keepsTag s (t.addr i) d.parent
        | 1 => do
          let _ ← keepsTag s (t.addr i) d.kv
          .ok d.tail
        | _ => do
          let r ← keepsTag s (t.addr i) d.rot
          .ok (capWithPerm r (capPerm r &&& pR)) : R Cap)
      .ok (s.wcFrame (riOd o) c)) s

end Sys2Proof.Machine
end

