-- ==== Sys2Proof/Machine/MatUnit.lean ====
section
/-!
DEFINITION. The matrix unit (R114-R128): its geometry, what a latch load checks and reads, products, the reload of a
restored unit, and the table of the wavefront array.
-/

namespace Sys2Proof.Machine

/-! ### Geometry (R115) -/

/-- Bits of an element in a latch. -/
def matBits (ty : BitVec 4) : Nat := if ty == 14 then 6 else laneBits ty
/-- Bytes of a latch row. -/
def matRow (ty : BitVec 4) : Nat := if ty == 14 then 384 else 512
/-- Elements along K (E). -/
def matE (ty : BitVec 4) : Nat := matRow ty * 8 / matBits ty
/-- Elements of a group (G), and chunks of a group. -/
def matG (ty : BitVec 4) : Nat := if matBits ty ≤ 6 then 64 else 32
def matCpg (ty : BitVec 4) : Nat := if matBits ty == 16 then 4 else 2

/-- The format of the operands. -/
def Matrix.fmt (m : Matrix) : Fmt := Fmt.ofCode m.ty (m.r4.setWidth 4)

/-- The element format of a page that fits a format, beside raw (R122, R172). -/
def fmtEF : Fmt → Nat
  | .bf16 => 2
  | .f16 => 3
  | .e4m3 => 4
  | .e5m2 => 5
  | .f4 => 6
  | .t8 => 7
  | .t6 => 8
  | .int true 8 => 9
  | .int true 4 => 10
  | _ => 0

/-- Elements of a block (R71). -/
def bgElems (bg : Nat) : Nat := if bg == 2 then 16 else if bg == 3 then 64 else 32

def Matrix.part (m : Matrix) (i : Fin 6) : Part := m.parts[i]
def State.modMat (s : State) (f : Matrix → Matrix) : State := { s with mat := f s.mat }
def State.setPart (s : State) (i : Fin 6) (p : Part) : State := s.modMat fun m => { m with parts := m.parts.set i p }

/-- Bytes of a row of a part: B1 holds 512 bytes of bitmaps whatever the type. DEDUCED, unsafe: log 36. -/
def partRow (ty : BitVec 4) (i : Fin 6) : Nat := if i == 5 then 512 else matRow ty

/-- The slot holds the unit, in one of the kinds an instruction allows (R117). -/
def heldCheck (s : State) (at_ : Nat) (kinds : List Nat) : R Unit := do
  guardR s (s.mat.holder = some s.cur) cMCFG 1 at_
  guardR s (kinds.contains s.mat.kind.toNat) cMCFG 2 at_

/-! ### What a load reads (R121, R123) -/

/-- A run of bytes that a load wants: through which capability, for which lane, and whether some pair of a token gather
sees it (R139). -/
structure Want where
  cap : Cap
  line : LatchLine
  lane : Nat
  seen : Bool
deriving DecidableEq, Repr

def plainWants (m : Matrix) (i : Fin 6) (d : LatchDesc) : List Want :=
  let n := partRow m.ty i
  let st := (if i.val < 4 then m.cfg.extractLsb' 0 12 else m.cfg.extractLsb' 12 12).toNat
  let stride := if st == 0 then matRow m.ty else 16 * st
  (List.range 32).map fun l => ⟨d.base, ⟨capLocal d.base, (d.off.toNat + l * stride) % 2 ^ 64, n⟩, l, true⟩

def indexWants (m : Matrix) (i : Fin 6) (d : LatchDesc) : List Want :=
  (List.range 32).map fun l =>
    ⟨d.base, ⟨capLocal d.base, (capCursor d.base + BitVec.ofNat 64 (lane 32 d.lanes l * 128) + d.off).toNat,
      partRow m.ty i⟩, l, true⟩

/-- The mask of the lanes of a list. -/
def maskOf (ls : List Nat) : Nat := (List.range 32).foldl (fun n i => if ls.contains i then n + 2 ^ i else n) 0

/-- The fault with the lowest address among those of some lanes: its cause, with, where it is `masked`, the mask of its lanes as
aux. -/
def lowestFail (masked : Fail → Bool) (fs : List (Nat × Fail)) : Option Fail :=
  match fs with
  | [] => none
  | (_, f) :: rest =>
    let g := rest.foldl (fun g x => if x.2.addr < g.addr then x.2 else g) f
    some (if masked g then { g with aux := maskOf ((fs.filter fun x => x.2.cause == g.cause).map (·.1)) } else g)

/-- A token of a gather: its lane, the frame slot and the index. -/
structure Tok where
  lane : Nat
  si : Nat
  j : Nat
deriving DecidableEq, Repr

/-- The tokens of a gather: one for each lane, or E/32 consecutive ones from each lane of a K-gather. -/
def gatherToks (m : Matrix) (d : LatchDesc) : List Tok :=
  let per := if d.kgather then matE m.ty / 32 else 1
  (List.range (32 * per)).map fun k =>
    let ref := lane 32 d.lanes (k / per)
    ⟨k / per, ref / 2 ^ 26, ref % 2 ^ 26 + k % per⟩

/-- The queries that see a token, as bits. -/
def seenBy (s : State) (t : FTable) (f : Nat) (d : LatchDesc) (k : Tok) : Nat → R Nat
  | 0 => .ok 0
  | n + 1 => do
    let r ← seenBy s t f d k n
    let v ← visible s t f (k.si * 2 ^ 26 + k.j) (d.qbase.toNat + n)
    .ok (r + if v then 2 ^ n else 0)

/-- A token gather: what it wants and the visibility bits (R123). DESIGN CHOICE, unsafe: log 78. -/
def tokenWants (s : State) (m : Matrix) (i : Fin 6) (d : LatchDesc) : R (List Want × Nat) := do
  guardR s (!capIsNull d.base) cFRMU 2 0
  let (t, f) ← frameCheck s d.base
  let n := if d.kgather then 4 * matBits m.ty else partRow m.ty i
  let off : Int := if d.kgather then d.off.toInt / 128 * n else d.off.toInt
  let toks := gatherToks m d
  check s (lowestFail (fun _ => true) ((toks.filter fun k => !(t.get k.si).live || (t.get k.si).len ≤ k.j).map fun k =>
    (k.lane, ⟨cFRMV, 0, t.addr k.si⟩)))
  let kvs ← toks.mapM fun k => keepsTag s (t.addr k.si) (t.get k.si).kv
  let rowAt := fun (k : Tok) (kv : Cap) => (capBase kv : Int) + k.j * (t.get k.si).rowb
  check s (lowestFail (fun _ => true) ((toks.zip kvs).filterMap fun p =>
    let r : Int := (t.get p.1.si).rowb
    if off < 0 || r < off + n then
      some (p.1.lane, ⟨cCAPB, 0, ((rowAt p.1 p.2 + (if off < 0 then off else max off r)) % 2 ^ 64).toNat⟩)
    else none))
  let bits ← toks.mapM fun k => seenBy s t f d k 32
  .ok (((toks.zip kvs).zip bits).map fun p =>
      ⟨p.1.2, ⟨capLocal p.1.2, ((rowAt p.1.1 p.1.2 + off) % 2 ^ 64).toNat, n⟩, p.1.1.lane, p.2 != 0⟩,
    bits.foldr (fun b v => b + v * 2 ^ 32) 0)

def latchWants (s : State) (m : Matrix) (i : Fin 6) (d : LatchDesc) : R (List Want × Nat) :=
  if d.token then tokenWants s m i d
  else .ok (if d.gather then indexWants m i d else plainWants m i d, 0)

/-! ### Its checks (R121, R122) -/

/-- Where a line lies. -/
def linePieces (s : State) (kv : Bool) (l : LatchLine) : R (List Piece) :=
  if l.loc then .ok [⟨.at (locKey l.addr) 0, l.addr, l.len⟩]
  else match s.globalPieces s.world (some s.cluster.val) { r := true } kv l.addr l.len with
    | .ok ps => .ok ps
    | .error f => .error (.trap f, s)

/-- The checks of one line beside CapCheck. -/
def wantPieces (s : State) (kv : Bool) (w : Want) : R (List Piece) := do
  accessChecks s w.cap w.line.addr w.line.len pR .plain 1
  linePieces s kv w.line

/-- The faults of a list of checks, with their lanes. -/
def failsOf {α : Type} (f : Want → R α) (ws : List Want) : List (Nat × Fail) :=
  ws.filterMap fun w => match f w with
    | .error (.trap g, _) => some (w.lane, g)
    | _ => none

/-- The block geometries under a piece: of its page, or of the lines of cluster memory. -/
def State.pieceBgs (s : State) (p : Piece) : List Nat :=
  match p.place with
  | .at key main =>
    if keyIsCl key then (linesOf key p.len).map fun l => ((s.cl.lineBg.find? fun b => b.1 == l % 2 ^ 21).map (·.2)).getD 0
    else [lfBG main]
  | _ => [0]
def pieceEF (p : Piece) : Nat :=
  match p.place with
  | .at key main => if keyIsCl key then 0 else lfEF main
  | _ => 0

/-- The block of the element at bit `8 a + t` of a page, and the line of the page where the block starts. -/
def blockOf (bits bg bit : Nat) : Nat × Nat :=
  let b := bit / bits / bgElems bg
  (b, b * bgElems bg * bits / 1024)

/-- The scale granules that a line needs can be read, through the same capability. -/
def scalesReadable (s : State) (m : Matrix) (bg : Nat) (c : Cap) : List Piece → R Unit
  | [] => .ok ()
  | p :: ps =>
    match p.place with
    | .at key main =>
      if keyIsCl key then do
        check s ((s.scaleMiss p.va p.len).map fun a => ⟨cPROT, 5, a⟩)
        scalesReadable s m bg c ps
      else do
        let size := lfBytes main
        let l0 := (blockOf (matBits m.ty) bg (8 * (p.va % size))).2
        let l1 := (blockOf (matBits m.ty) bg (8 * (p.va % size + p.len) - 1)).2
        readable s c ((s.shadowVa s.world (p.va - p.va % size) + 16 * l0) % 2 ^ 56) (16 * (l1 - l0 + 1))
        scalesReadable s m bg c ps
    | _ => scalesReadable s m bg c ps

/-- What each line needs beside its own bytes can be read: bitmaps and scales. -/
def shadowsReadable (s : State) (m : Matrix) (bg : Nat) : List (Want × List Piece) → R Unit
  | [] => .ok ()
  | (w, ps) :: rest => do
    bitmapsReadable s w.cap ps
    if bg == 0 then .ok () else scalesReadable s m bg w.cap ps
    shadowsReadable s m bg rest

/-- Every check of a load: the block geometry of the part. -/
def wantsChecked (s : State) (m : Matrix) (i : Fin 6) (d : LatchDesc) (ws : List Want) : R Nat := do
  check s (lowestFail (fun _ => d.gather)
    (ws.filterMap fun w => (capCheck s.world w.cap w.line.addr w.line.len pR).map (w.lane, ·)))
  let ws := ws.filter (·.seen)
  check s (lowestFail (fun f => d.gather && f.cause == cCAPB) (failsOf (wantPieces s d.token) ws))
  let pss ← ws.mapM (wantPieces s d.token)
  let ps := pss.flatten
  match ps.find? (fun p => p.place == .hold) with
  | some p => waitFor (s.askPage s.world p.va (s.holdReason s.world (some s.cluster.val) p.va { r := true })) .page p.va
  | none => .ok ()
  match ps.find? (fun p => !(pieceEF p == 0 || (i != 5 && pieceEF p == fmtEF m.fmt))) with
  | some p => raise s cMCFG 5 p.va
  | none => .ok ()
  let bgs := if i == 5 then [] else ps.flatMap fun p => (s.pieceBgs p).map (p.va, ·)
  let bg := (bgs.head?.map (·.2)).getD 0
  match bgs.find? (fun b => b.2 != bg || (b.2 != 0 && m.fmt.isInt)) with
  | some b => raise s cMCFG 5 b.1
  | none => .ok ()
  shadowsReadable s m bg (ws.zip pss)
  .ok bg

/-- A part as a load leaves it at its retirement. -/
def latchPart (s : State) (m : Matrix) (i : Fin 6) (d : LatchDesc) (h : Hint) : R Part := do
  let (ws, vis) ← latchWants s m i d
  let bg ← wantsChecked s m i d ws
  .ok { desc := { d with scales := bg != 0 }, bg := bg, plan := ws.map fun w => if w.seen then some w.line else none,
        rows := none, vis := vis, err := none, hint := h }

/-! ### Its data -/

/-- The scale of the element that begins at a bit of its page, among the granules of the lines from `l0` on (R175, R176). -/
def scaleOf (bits bg l0 : Nat) (gs : List Byte) (bit : Nat) : Byte :=
  let (b, l) := blockOf bits bg bit
  gs.getD (16 * (l - l0) + (b - (1024 * l + bgElems bg * bits - 1) / (bgElems bg * bits))) 0

/-- The scale granules of `n` lines of cluster memory, the first at an address, as their banks hold them (R176, R376). -/
def localScales (s : State) (w : World) (a n : Nat) : R (List Byte × State) :=
  let ks := (List.range n).map fun i => clKey (a / 2 ^ 58 % 64) ((s.scalePlace (a % 2 ^ 22 + 128 * i)).2 % 2 ^ 22)
  match ks.findSome? fun k => s.readError w k 16 (keyLoc k) with
  | some (c, at_) => raise s c 0 at_
  | none => .ok (ks.flatMap fun k => s.bytes k 16, s)

/-- The scales of the elements of a run at `a` that begin in one piece of it. -/
def pieceScales (s : State) (r : Reader) (bits bg a len : Nat) (p : Piece) : R (List Byte × State) :=
  match p.place with
  | .at key main => do
    let loc := keyIsCl key
    let o := if loc then p.va % 2 ^ 22 else p.va % lfBytes main
    let l0 := (blockOf bits bg (8 * o)).2
    let l1 := (blockOf bits bg (8 * (o + p.len) - 1)).2
    let gs ← if loc then localScales s r.world (p.va - o + 128 * l0) (l1 - l0 + 1)
      else shadowRead s r ((s.shadowVa r.world (p.va - o) + 16 * l0) % 2 ^ 56) (16 * (l1 - l0 + 1))
    let mine := (List.range (8 * len / bits)).filter fun k => p.va ≤ a + bits * k / 8 && a + bits * k / 8 < p.va + p.len
    .ok (mine.map fun k => scaleOf bits bg l0 gs.1 (8 * o + (8 * a + bits * k - 8 * p.va)), gs.2)
  | _ => .ok ([], s)

def piecesScales (s : State) (r : Reader) (bits bg a len : Nat) : List Piece → R (List Byte × State)
  | [] => .ok ([], s)
  | p :: ps => do
    let x ← pieceScales s r bits bg a len p
    let y ← piecesScales x.2 r bits bg a len ps
    .ok (x.1 ++ y.1, y.2)

/-- One run of bytes as it is read now, with a scale for each element when its pages have block geometry. -/
def readRun (s : State) (m : Matrix) (kv : Bool) (bg : Nat) (h : Hint) (l : LatchLine) : R (LatchRow × State) := do
  let ps ← linePieces s kv l
  let r ← loadPieces (← arrive s s.world ps) ps h
  let sc ← if bg == 0 then .ok ([], r.2) else piecesScales r.2 (s.reader h) (matBits m.ty) bg l.addr l.len ps
  .ok (⟨leNat r.1, sc.1⟩, sc.2.peerUsed l.addr l.len)

def readRuns (s : State) (m : Matrix) (kv : Bool) (bg : Nat) (h : Hint) : List (Option LatchLine) → R (List LatchRow × State)
  | [] => .ok ([], s)
  | none :: ls => do
    let r ← readRuns s m kv bg h ls
    .ok (⟨0, []⟩ :: r.1, r.2)
  | some l :: ls => do
    let a ← readRun s m kv bg h l
    let r ← readRuns a.2 m kv bg h ls
    .ok (a.1 :: r.1, r.2)

/-- The columns of a K-gather, from the runs of its tokens. -/
def kColumns (bits : Nat) (toks : List LatchRow) (bg : Nat) : List LatchRow :=
  (List.range 32).map fun c =>
    ⟨toks.foldr (fun t n => t.data / 2 ^ (bits * c) % 2 ^ bits + n * 2 ^ bits) 0,
      if bg == 0 then [] else toks.map fun t => t.scales.getD c 0⟩

/-- The rows of a part are read. -/
def readPart (s : State) (m : Matrix) (p : Part) : R (List LatchRow × State) := do
  let r ← readRuns s m p.desc.token p.bg p.hint p.plan
  .ok (if p.desc.kgather then kColumns (matBits m.ty) r.1 p.bg else r.1, r.2)

/-! ### Products (R124, R125) -/

/-- An element's number in a latch; f4 code 1000 reads FP4XA or FP4XB (R55). -/
def Matrix.elem (m : Matrix) (tcx isA : Bool) (c : Nat) : Num :=
  if m.fmt == .f4 && c == 8 then Fmt.decode .bf16 tcx (if isA then m.fp4xa else m.fp4xb).toNat else m.fmt.decode tcx c

/-- An element: its code and, when there is one, its block scale. -/
abbrev Elem := Nat × Option Byte

/-- Elements `[k0, k0 + n)` of a row. -/
def rowElems (bits : Nat) (r : LatchRow) (k0 n : Nat) : List Elem :=
  (List.range n).map fun t => (r.data / 2 ^ (bits * (k0 + t)) % 2 ^ bits, r.scales[k0 + t]?)

/-- An element times its scale. -/
def Matrix.scaled (m : Matrix) (tcx isA : Bool) (e : Elem) : Num × Flags :=
  match e.2 with
  | some b => Num.mul (m.elem tcx isA e.1) (Fmt.decode .e4m3 tcx b.toNat)
  | none => (m.elem tcx isA e.1, 0)

/-- A float group of a cell: the masked products summed exactly, the accumulator added, one rounding. -/
def dotGroup (sat : Bool) (acc : Nat) (as bs : List (Num × Flags)) (vs : List Bool) : Nat × Flags :=
  let ps := ((as.zip bs).zip vs).map fun p =>
    if p.2 then
      let r := Num.mul p.1.1.1 p.1.2.1
      (r.1, r.2 ||| p.1.1.2 ||| p.1.2.2)
    else (Num.zero, 0)
  let s := sumNums .rne (Num.zero :: ps.map (·.1))
  let t := Num.add .rne (Fmt.decode .f32 false acc) s.1
  let r := Fmt.encode .f32 false .rne sat t.1
  (r.1, ps.foldl (fun f p => f ||| p.2) (s.2 ||| t.2 ||| r.2))

/-- An integer group of a cell. -/
def dotInts (sat : Bool) (acc : Nat) (as bs : List Int) (vs : List Bool) : Nat :=
  (⟨true, 32⟩ : IntTy).reduce sat (intDecode true 32 acc +
    (((as.zip bs).zip vs).map fun p => if p.2 then p.1.1 * p.1.2 else 0).sum)

/-- An integer operand's value. -/
def Matrix.intElem (m : Matrix) (c : Nat) : Int :=
  match m.fmt with
  | .int sg w => intDecode sg w c
  | _ => 0

/-- A cell with a clear line-visibility bit, which becomes −∞ (R124). -/
def Matrix.hidden (m : Matrix) (sub apart : BitVec 2) (n : Nat) : Bool :=
  let a := m.part (Fin.ofNat 6 apart.toNat)
  let b := m.part 4
  m.kind = 2 && sub = 0 &&
    ((a.desc.token && !bitN a.vis n) || (b.desc.token && !b.desc.kgather && !bitN b.vis (32 * (n % 32) + n / 32)))

/-- One group added into every cell: the elements of rows and columns, and the masks by row. A hidden cell raises no flag. -/
def Matrix.addGroup (m : Matrix) (tcx sat : Bool) (hid : Nat → Bool) (acc : Acc) (as bs : List (List Elem))
    (vs : List (List Bool)) : Acc × Flags :=
  if m.fmt.isInt then
    let a := as.map (·.map fun e => m.intElem e.1)
    let b := bs.map (·.map fun e => m.intElem e.1)
    (Vector.ofFn fun (n : Fin 1024) => BitVec.ofNat 32 (dotInts sat acc[n].toNat (a.getD (n.val / 32) [])
      (b.getD (n.val % 32) []) (vs.getD (n.val / 32) [])), 0)
  else
    let a := as.map (·.map (m.scaled tcx true))
    let b := bs.map (·.map (m.scaled tcx false))
    let r : Vector (Nat × Flags) 1024 := Vector.ofFn fun n =>
      dotGroup sat acc[n].toNat (a.getD (n.val / 32) []) (b.getD (n.val % 32) []) (vs.getD (n.val / 32) [])
    (r.map fun c => BitVec.ofNat 32 c.1, r.toList.zipIdx.foldl (fun f c => if hid c.2 then f else f ||| c.1.2) 0)

/-- The rows of a part that has arrived. -/
def Matrix.rows (m : Matrix) (i : Fin 6) : List LatchRow := (m.part i).rows.getD []

/-- The dense column that a compressed one stands for, `d` positions, the compressed value of position 0 being `n`. -/
def expandCol (bits : Nat) (r : LatchRow) (bitmap : Nat) : Nat → Nat → Nat → List Elem
  | 0, _, _ => []
  | d + 1, k, n =>
    if bitN bitmap k then (r.data / 2 ^ (bits * n) % 2 ^ bits, r.scales[n]?) :: expandCol bits r bitmap d (k + 1) (n + 1)
    else (0, none) :: expandCol bits r bitmap d (k + 1) n

/-- Elements `[g G, g G + G)` of each dense row of A. -/
def Matrix.aGroup (m : Matrix) (sub apart : BitVec 2) (g : Nat) : List (List Elem) :=
  let e := matE m.ty
  let k0 := g * matG m.ty
  let i : Fin 6 := if sub = 0 then Fin.ofNat 6 apart.toNat else Fin.ofNat 6 (k0 / e)
  (m.rows i).map fun r => rowElems (matBits m.ty) r (k0 % e) (matG m.ty)

/-- The dense columns of B. -/
def Matrix.bCols (m : Matrix) (sub : BitVec 2) : List (List Elem) :=
  if sub = 0 then (m.rows 4).map fun r => rowElems (matBits m.ty) r 0 (matE m.ty)
  else ((m.rows 4).zip (m.rows 5)).map fun p =>
    expandCol (matBits m.ty) p.1 p.2.data (2 ^ sub.toNat * matE m.ty) 0 0

/-- V(i, j, k) of a group for each row i: the products that a K-gather leaves. -/
def Matrix.vGroup (m : Matrix) (sub : BitVec 2) (g : Nat) : List (List Bool) :=
  let b := m.part 4
  (List.range 32).map fun i => (List.range (matG m.ty)).map fun t =>
    !(sub = 0 && b.desc.kgather) || bitN b.vis (32 * (g * matG m.ty + t) + i)

/-- Groups `g` on of a product, `n` of them. -/
def Matrix.groups (m : Matrix) (tcx sat : Bool) (sub apart : BitVec 2) (bs : List (List Elem)) (acc : Acc) (fl : Flags) :
    Nat → Nat → Acc × Flags
  | _, 0 => (acc, fl)
  | g, n + 1 =>
    let G := matG m.ty
    let r := m.addGroup tcx sat (m.hidden sub apart) acc (m.aGroup sub apart g) (bs.map fun c => (c.drop (g * G)).take G) (m.vGroup sub g)
    m.groups tcx sat sub apart bs r.1 (fl ||| r.2) (g + 1) n

/-- The hidden cells become −∞ (R124). -/
def Matrix.maskCells (m : Matrix) (sub apart : BitVec 2) (acc : Acc) : Acc :=
  Vector.ofFn fun (n : Fin 1024) => if m.hidden sub apart n.val then 0xFF800000 else acc[n]

/-- Groups of a product (R115, R125), and the groups and chunks of one step of it: a chunk of mmas covers 2 or 4 times the
dense positions of one of mma. -/
def Matrix.total (m : Matrix) (sub : BitVec 2) : Nat := 2 ^ sub.toNat * matE m.ty / matG m.ty
def Matrix.stepGroups (m : Matrix) (sub : BitVec 2) : Nat := max 1 (2 ^ sub.toNat / matCpg m.ty)
def Matrix.stepChunks (m : Matrix) (sub : BitVec 2) : Nat := max 1 (matCpg m.ty / 2 ^ sub.toNat)

/-- The group at which a product stands (R127). -/
def Matrix.groupAt (m : Matrix) (p : Stopped) : Nat := p.koff.toNat * 2 ^ p.sub.toNat / matCpg m.ty

/-- A product goes on to its next group boundary; none is left of it after the last. -/
def Matrix.onward (m : Matrix) (tcx : Bool) (p : Stopped) : Matrix × Option Stopped :=
  let g := m.groupAt p
  let n := m.stepGroups p.sub
  let r := m.groups tcx p.sat p.sub p.apart (m.bCols p.sub) m.acc[p.acc.toNat] 0 g n
  let last := decide (m.total p.sub ≤ g + n)
  ({ m with
     acc := m.acc.set p.acc.toNat (if last then m.maskCells p.sub p.apart r.1 else r.1), flags := m.flags ||| r.2 },
    if last then none else some { p with koff := p.koff + BitVec.ofNat 6 (m.stepChunks p.sub) })

/-- The product in flight goes on. -/
def Matrix.advanced (m : Matrix) : Matrix :=
  match m.busy with
  | none => m
  | some b =>
    let r := m.onward b.tcx b.at_
    { r.1 with busy := r.2.map fun p => { b with at_ := p } }

/-- A drain reads its accumulator (R129). -/
def Matrix.readDrain (m : Matrix) (d : Drain) : Matrix × Drain :=
  ({ m with acc := if d.zero then m.acc.set d.acc (Vector.replicate 1024 0) else m.acc },
    { d with reading := false, cells := m.acc[d.acc] })

/-- The drains that are still reading read. -/
def Matrix.readDrains (m : Matrix) : List Drain → Matrix × List Drain
  | [] => (m, [])
  | d :: ds =>
    let r := if d.reading then m.readDrain d else (m, d)
    let q := r.1.readDrains ds
    (q.1, r.2 :: q.2)

/-- The unit comes to a stop (R127): the group in progress is completed, and drains finish their reads. -/
def Matrix.halted (m : Matrix) : Matrix :=
  let m := m.advanced
  let r := m.readDrains m.drains
  { r.1 with
    drains := r.2, busy := none, stopped := match m.busy with
      | some b => some b.at_
      | none => m.stopped }

/-! ### The reload of a restored unit (R127, R159) -/

/-- The substitution table of the wavefront array as it stands in memory (R160). DESIGN CHOICE, unsafe: log 97. -/
def readTableOf (s : State) (c : Cap) : R (List Byte × State) := do
  let a := (capCursor c).toNat
  check s (capCheck s.world c a 1024 pR)
  guardR s (capLocal c && a % 128 == 0) cWCFG 3 a
  loadBytes s c a 1024 pR 1

/-- Parts whose descriptors are valid are loaded again. -/
def reloadParts (s : State) (m : Matrix) : List (Fin 6) → R (Matrix × State)
  | [] => .ok (m, s)
  | i :: is => do
    let d := (m.part i).desc
    if d.valid then
      let p ← latchPart s m i d {}
      let r ← readPart s m p
      reloadParts r.2 { m with parts := m.parts.set i { p with rows := some r.1 } } is
    else reloadParts s m is

/-- The reload, after which a stopped product goes on. -/
def reloadAll (s : State) : R State := do
  let r ← reloadParts s s.mat (if s.mat.kind = 3 then [] else List.finRange 6)
  let w ← (if s.mat.kind = 3 && !capIsNull s.wave.tableCap then do
      let t ← readTableOf r.2 s.wave.tableCap
      .ok ({ s.wave with table := t.1 }, t.2)
    else .ok (s.wave, r.2) : R (Wave × State))
  let go := r.1.stopped.map fun p => (⟨p, s.sl.tcx, true⟩ : Busy)
  let s : State := { w.2 with mat := { r.1 with reload := false, stopped := none, busy := go }, wave := w.1 }
  .ok (if go.isSome then s.post .accumulatorComplete else s)

/-- The reload and the continuation have been done before any instruction of the holder that needs the matrix state. -/
def matReady (s : State) : R State := do
  let s ← if s.mat.holder = some s.cur && s.mat.reload then reloadAll s else .ok s
  if s.mat.holder = some s.cur && s.mat.busy.any (·.resumed) then .error (.spin, s) else .ok s

/-- The product in flight, when it meets a condition, is complete. -/
def matFree (s : State) (p : Stopped → Bool) : R Unit := if s.mat.busy.any fun b => p b.at_ then .error (.spin, s) else .ok ()
/-- No product writes an accumulator, and no drain reads it. -/
def accFree (s : State) (a : Fin 4) : R Unit := do
  matFree s fun p => p.acc.toNat == a.val
  if s.mat.reads a then .error (.spin, s) else .ok ()

end Sys2Proof.Machine
end

