-- ==== Sys2Proof/Machine/Resume.lean ====
section
/-!
DEFINITION. A fibre starts in a slot (R20, R24, R437) and leaves it: at exit and on voluntary suspension with nothing
kept but its record, on involuntary suspension with a resume image (R22, R23, R317, R374, R375).
-/

namespace Sys2Proof.Machine

/-! ### Areas read and written by the device -/

/-- The place of `[a, a + n)` for an access of the device on behalf of a world through a capability. -/
def State.devPieces (s : State) (w : World) (c : Cap) (a n : Nat) (need : Need) : Except Fail (List Piece) :=
  if capLocal c then .ok [⟨.at (locKey a) 0, a, n⟩] else s.globalPieces w (some s.cluster.val) need false a n

/-- The bytes of pieces that are mapped. -/
def State.devRead (s : State) (ps : List Piece) : List Byte :=
  ps.flatMap fun p => match p.place with
    | .at k _ => s.bytes k p.len
    | .host port iova => s.bytes (hostKey port iova) p.len
    | _ => List.replicate p.len 0

/-- The tagged granules of pieces that are mapped, numbered from the start of the area. -/
def State.devTags (s : State) (a : Nat) (ps : List Piece) : List Nat :=
  ps.flatMap fun p => match p.place with
    | .at k _ => (List.range (p.len / 16)).filterMap fun i =>
        if s.tagAt (k + 16 * i) then some ((p.va - a) / 16 + i) else none
    | _ => []

/-- Bytes with tags are written for a world over pieces that are mapped; copies and cached lines of them follow, and sealed lines
are sealed (R245, R251, R343). -/
def State.devWrite (s : State) (w : World) (a : Nat) (bs : List Byte) (tags : List Nat) (ps : List Piece) : State :=
  ps.foldl (fun s p => match p.place with
    | .at k _ =>
      let s := (s.dupWrite true k p.len).writeBytes k ((bs.drop (p.va - a)).take p.len)
      let s := (tags.filter fun t => (p.va - a) / 16 ≤ t && t < (p.va - a + p.len) / 16).foldl
        (fun s t => { s with tags := natSet s.tags ((k + 16 * t - (p.va - a)) / 16) true }) s
      (s.sealAt w p.va k p.len).cacheRefresh k p.len
    | .host port iova => s.writeBytes (hostKey port iova) ((bs.drop (p.va - a)).take p.len)
    | _ => s) s

/-- Some piece is not mapped. -/
def piecesHold (ps : List Piece) : Option Piece := ps.find? fun p => p.place == .hold

/-! ### Values that nothing constrains -/

def State.takeFree (s : State) : Word × State := (Config.freeWord s.freeCtr, { s with freeCtr := s.freeCtr + 1 })

/-! ### Tows -/

/-- TOWBASE(w) + 256 t (R288). -/
def State.towVa (s : State) (w : World) (t : BitVec 16) : Nat :=
  ((s.wst w).towbase.toNat / 2 ^ 24 * 2 ^ 24 + 256 * t.toNat) % 2 ^ 56

/-- Where the device finds a descriptor (R436): no CMASK, and R and W. -/
def State.towTr (s : State) (w : World) (t : BitVec 16) : Tr := s.translate w none (s.towVa w t) { r := true, w := true }

/-- RCLK of a tow, rounded down to a multiple of 16 (R202, R308); 0 when the descriptor cannot be read. -/
def State.towClock (s : State) (w : World) (t : BitVec 16) : BitVec 32 :=
  if t = 0 then 0
  else match s.towTr w t with
    | .ok pa _ => BitVec.ofNat 32 (s.nat (pa + 8) 4 / 16 * 16)
    | _ => 0

/-! ### Leaving a slot -/

/-- A slot's part in STAT and its notice (R282). -/
def State.setStat (s : State) (i : SlotId) (code : BitVec 8) : State :=
  (s.modSlot i fun sl => { sl with stat := code, statCause := 0 }).notice (.slotStat i code)

/-- What a slot keeps when its fibre has left: its parameters, its registers as they stood, and its copy commands. -/
def Slot.emptied (sl : Slot) : Slot :=
  { sl with
    status := .free, tow := 0, tjn := 0, fresh := false, startChecks := false, pending := none, restoring := .none,
    suspAsk := none, pendTrap := none, heldMat := none, image := none, held := none,
    begun := false, taken := none, mons := Vector.replicate 4 Mon.none, parkTmo := 0,
    wake := 0, trapRec := none, trapWord := 0, pendSlice := false, pendWsec := none,
    ports := Vector.replicate 4 Port.unbound, rep := none, copies := sl.copies.map fun c => { c with own := false },
    quay := none, peer := [], peerAsk := [] }

/-- A fibre leaves its slot: the shared units are released (R12, R13), the slot is FREE. -/
def State.vacate (s : State) (i : SlotId) (code : BitVec 8) : State :=
  let s := (((s.goHome i).leaveQueue (.slot i)).leaveQueue (.rep i)).modSlot i Slot.emptied
  let s := { s with
    heldSigs := s.heldSigs.map fun (h : HeldSig) => if h.sl = i then { h with gone := true } else h,
    mat := { s.mat with
      holder := if s.mat.holder = some i then none else s.mat.holder,
      busy := if s.mat.holder = some i then none else s.mat.busy,
      drains := s.mat.drains.map fun (d : Drain) => if d.sl = i then { d with own := false } else d },
    cl := { s.cl with
      xreqs := s.cl.xreqs.map fun (x : Xreq) => if x.sl = i then { x with own := false } else x } }
  ((s.setStat i code).poolFreed.post .localRefill).unstall

/-! ### The image (R23) -/

def kindCode (k : WaitKind) : Nat :=
  match k with
  | .none => 0
  | .sem => 1
  | .full => 2
  | .empty => 3
  | .fpush => 4
  | .fpop => 5
  | .bar => 6
  | .mon => 7
  | .stream => 8
  | .pool => 9
  | .queue => 10
  | .page => 11
  | .frame => 12

/-- The wait of the repetition block while the main port waits for the block: the slot is then WAITING (R110). -/
def Slot.blockWait (sl : Slot) : Option (WaitKind × Nat) := if sl.behind then sl.rep.bind (·.wait) else none

/-- The wait a slot is in: kind and object (R310). -/
def Slot.waitNow (sl : Slot) : WaitKind × Nat :=
  match sl.status with
  | .waiting k o => (k, o)
  | .parked .park => (.mon, 0)
  | .ready | .away _ => sl.blockWait.getD (.none, 0)
  | _ => (.none, 0)

/-- The threshold or count a waiter of the slot stands with. -/
def State.waitThr (s : State) (i : SlotId) : Nat :=
  let who : Who := if (s.slot i).blockWait.isSome then .rep i else .slot i
  ((s.waiters.find? (·.who == who)).map (·.thr)).getD 0

def armedBits (ms : Vector Mon 4) : Nat :=
  (List.finRange 4).foldl (fun n (i : Fin 4) => if ms[i].armed then n + 2 ^ i.val else n) 0

/-- WAITON (R317), with the armed monitors whatever the kind; the cycles waited are not stated.
DEDUCED, unsafe: log 58. -/
def State.waitOn (s : State) (i : SlotId) (cycles : Word) : Nat :=
  let sl := s.slot i
  let (k, o) := sl.waitNow
  armedBits sl.mons * 2 ^ 8 + if k = .none then 0
  else kindCode k + (if k = .sem then s.waitThr i % 2 ^ 16 * 2 ^ 16 else 0) +
    cycles.toNat % 2 ^ 32 * 2 ^ 32 + o % 2 ^ 64 * 2 ^ 64

def monWord (m : Mon) : Nat :=
  if m.armed then m.line / 128 * 128 + (if m.loc then 4 else 0) + (if m.trig then 2 else 0) + 1 else 0

/-- Stream state of a port (R109). -/
def portBlob (off : Nat) (p : Port) : Blob :=
  if !p.bound then []
  else
    blobCap off p.cap ++
    ((List.finRange 4).flatMap fun i => blobNat (off + 16 + 4 * i.val) 4 p.cnt[i].toNat) ++
    ((List.finRange 4).flatMap fun i => blobNat (off + 32 + 4 * i.val) 4 (p.str[i].toNat % 2 ^ 32)) ++
    blobNat (off + 48) 8 p.next ++
    blobNat (off + 56) 8 (1 + (if p.write then 2 else 0) + (if p.started then 4 else 0) + p.nud.toNat * 2 ^ 8 +
      p.lvl.toNat * 2 ^ 16)

def portFrom (m : Img) (off : Nat) : Port :=
  let f := m.nat (off + 56) 8
  if !bitN f 0 then Port.unbound
  else
    { Port.unbound with
      bound := true, write := bitN f 1, started := bitN f 2, cap := m.cap off,
      cnt := Vector.ofFn fun i => BitVec.ofNat 64 (m.nat (off + 16 + 4 * i.val) 4),
      str := Vector.ofFn fun i => (BitVec.ofNat 32 (m.nat (off + 32 + 4 * i.val) 4)).signExtend 64,
      next := m.nat (off + 48) 8, nud := BitVec.ofNat 8 (f / 2 ^ 8), lvl := BitVec.ofNat 2 (f / 2 ^ 16) }

/-- Repetition state (R113). -/
def repBlob (off : Nat) (r : Rep) (pc : Word) : Blob :=
  blobNat off 8 r.addr.toNat ++ blobNat (off + 8) 8 pc.toNat ++ blobNat (off + 16) 4 r.imm.toNat ++
    blobNat (off + 20) 1 (r.len - 1) ++ blobNat (off + 21) 1 r.preds.toNat ++ blobNat (off + 22) 2 r.pass ++
    blobNat (off + 24) 1 r.idx ++ blobNat (off + 25) 1 (1 + if r.skip then 2 else 0)

/-- The address of the block's next instruction. -/
def Rep.nextPc (r : Rep) : Word := r.addr + 12 * BitVec.ofNat 64 (1 + r.idx)

/-- The repetition state at an offset; its block is fetched again. -/
def repFrom (m : Img) (off : Nat) : Rep :=
  { addr := m.word off, imm := BitVec.ofNat 32 (m.nat (off + 16) 4), len := m.nat (off + 20) 1 + 1, block := [],
    preds := BitVec.ofNat 8 (m.nat (off + 21) 1), pass := m.nat (off + 22) 2, idx := m.nat (off + 24) 1,
    skip := bitN (m.nat (off + 25) 1) 1, wait := none, taken := none, trapped := false, passed := false }

/-- Bytes 0x40-0x3FF: the small registers, the monitors and pcc. -/
def Slot.regBlob (sl : Slot) : Blob :=
  ((List.finRange 32).flatMap fun i => if i.val = 0 then [] else blobNat (0x38 + 8 * i.val) 8 sl.x[i].toNat) ++
    blobNat 0x140 1 sl.preds.toNat ++
    ((List.finRange 8).flatMap fun i =>
      blobNat (0x150 + 16 * i.val) 16 (if i.val = 0 then 2 ^ 128 - 1 else sl.k[i].toNat)) ++
    ((List.finRange 4).flatMap fun i => blobNat (0x1D0 + 8 * i.val) 8 (monWord sl.mons[i])) ++
    ((List.finRange 32).flatMap fun i => if i.val = 0 then [] else blobCap (0x1F0 + 16 * i.val) sl.c[i]) ++
    blobCap 0x3F0 sl.pcc

/-- The flags byte of the header (R23). -/
def State.imageFlags (s : State) (i : SlotId) : Nat :=
  let sl := s.slot i
  (if s.mat.holder = some i then 1 else 0) + (if sl.ports.toList.any (·.bound) then 2 else 0) +
    (if sl.rep.isSome then 4 else 0) + (if s.isProt sl.world then 8 else 0) + (if sl.trapRec.isSome then 16 else 0)

/-- The image of a slot (R23), for a cause and a save counter. -/
def State.imageBlob (s : State) (i : SlotId) (cause ctr : Nat) (cycles : Word) : Blob :=
  let sl := s.slot i
  blobNat 0 4 0x4C583949 ++ blobNat 4 2 1 ++ blobNat 6 1 cause ++ blobNat 7 1 (s.imageFlags i) ++
    blobNat 8 8 sl.fmode.toNat ++ blobNat 0x10 8 sl.fstat.toNat ++ blobNat 0x18 2 sl.tow.toNat ++ blobNat 0x20 8 ctr ++
    blobNat 0x28 8 sl.tjn.toNat ++ blobNat 0x30 16 (s.waitOn i cycles) ++ sl.regBlob ++
    ((List.finRange 64).flatMap fun j => blobNat (0x400 + 128 * j.val) 128 sl.v[j].toNat) ++
    ((List.finRange 4).flatMap fun j => portBlob (0x2400 + 64 * j.val) sl.ports[j]) ++
    (((sl.copies.filter (·.own)).take 8).zipIdx.flatMap fun p => copyBlob (0x2500 + 64 * p.2) p.1) ++
    (match sl.rep with
      | some r => repBlob 0x2700 r sl.pc
      | none => []) ++
    (if s.mat.holder = some i then matrixBlob 0x2800 0x6C00 s.mat s.wave else []) ++
    (if s.mat.holder = some i then
      (List.finRange 4).flatMap fun j => [(0x2C00 + 4096 * j.val, accBytes s.mat.acc[j], false)] else []) ++
    (match sl.trapRec with
      | some r => blobNat 0x6C80 8 r.w0.toNat ++ blobNat 0x6C88 8 r.w1.toNat ++ blobNat 0x6C90 8 r.w2.toNat ++
          blobNat 0x6C98 8 r.w3.toNat ++ blobNat 0x6CA0 4 sl.trapWord.toNat
      | none => [])

/-! ### Involuntary suspension -/

/-- The record of a parked slot is withdrawn from the queue and the hold (R366, R375). -/
def State.withdraw (s : State) (i : SlotId) : State :=
  match (s.slot i).trapRec with
  | none => s
  | some r =>
    ({ s with trapQ := dropFirst r s.trapQ, hold := s.hold.filter fun h => h.1 != some i } : State).post .trapRecordEnqueue

/-- sret and suspk.q leave no record of the park behind. -/
def Slot.unparked (sl : Slot) : Slot := { sl with trapRec := none, trapWord := 0 }

/-- Units that a WAIT has taken come back (R33). -/
def State.giveBack (s : State) (t : Option (BitVec 8 × Nat)) : State :=
  match t with
  | none => s
  | some (sm, n) => (s.semAdd sm n).1

/-- Nothing of the slot's work is left that must first come to an end: rows pushed, tiles in flight, transform requests
(R109, R159, R184). -/
def State.workDone (s : State) (i : SlotId) : Bool :=
  (s.slot i).ports.toList.all (fun p => !(p.bound && p.write) || p.rows.isEmpty) && s.wave.tiles.all (·.sl != i) &&
    s.cl.xreqs.all (fun x => x.sl != i || !x.own)

/-- Where a suspension writes the slot's image: through SAVECAP, or, while a restore waits for units, where the image was read
(R22, R437). -/
def Slot.imageCap (sl : Slot) : Cap := if sl.restoring == .units then sl.startRec.g0 else sl.savecap

/-- The pages of an image take it now: they are mapped, and no invalidation of a line of theirs is outstanding (R251). -/
def State.imageFree (s : State) (i : SlotId) : Bool :=
  let c := (s.slot i).imageCap
  match s.devPieces (s.slot i).world c (capCursor c).toNat 0x8000 { w := true } with
  | .ok ps => ps.all fun p => match p.place with
    | .hold => false
    | .at k m => !s.dupBusy m k p.len
    | _ => true
  | .error _ => true

/-- The armed monitors of slots: the quays of the global lines, and the number of cluster-local ones (R317). -/
def State.armedMons (s : State) (is : List SlotId) : List Nat × Nat :=
  let ms := is.flatMap fun i => (s.slot i).mons.toList.filter (·.armed)
  ((ms.filter fun m => !m.loc).map fun m => quayOf m.line, (ms.filter (·.loc)).length)

/-- The parked-monitor tables have room for the monitors of slots (R317, R434). DESIGN CHOICE, unsafe: log 87. -/
def State.monsRoom (s : State) (is : List SlotId) : Bool :=
  let ms := s.armedMons is
  (ms.1.all fun q => (s.quayMons.filter fun m => quayOf m.line == q).length + (ms.1.filter (· == q)).length ≤ 1024) &&
    s.cl.parkedMons.length + ms.2 ≤ 256

/-- The fibre of a slot can be suspended now: one that has issued nothing, or whose image is still to be read, at once (R282). -/
def State.suspendsNow (s : State) (i : SlotId) : Bool :=
  let sl := s.slot i
  sl.quay.isNone && s.monsRoom [i] &&
    (if sl.restoring == .units then s.imageFree i
     else sl.fresh || sl.restoring == .image || (s.workDone i && s.imageFree i))

/-- The pages of the image that a suspension of the slot will write are asked for. -/
def State.askImage (s : State) (i : SlotId) : State :=
  let sl := s.slot i
  match s.devPieces sl.world sl.imageCap (capCursor sl.imageCap).toNat 0x8000 { w := true } with
  | .ok ps => match piecesHold ps with
    | some p => s.askPage sl.world p.va (s.holdReason sl.world (some s.cluster.val) p.va { w := true })
    | none => s
  | .error _ => s

/-- The armed monitors of a slot move to the parked-monitor tables (R317). -/
def State.parkMons (s : State) (i : SlotId) (image : Nat) (tow : BitVec 16) : State :=
  let sl := s.slot i
  sl.mons.toList.foldl (fun s m =>
    if !m.armed then s
    else
      let e : ParkedMon := ⟨sl.world, image, m.loc, m.line, m.trig, tow⟩
      if m.loc then { s with cl := { s.cl with parkedMons := s.cl.parkedMons ++ [e] } }
      else { s with quayMons := s.quayMons ++ [e] }) s

/-- A RESUME capability for an image (R22). -/
def resumeCap (savecap : Cap) : Cap :=
  let b := (capCursor savecap).toNat
  match capEnc b (b + 0x8000) with
  | some (e, b2, t2) => capWithOtype (capWithBounds savecap e b2 t2) 1
  | none => capWithOtype savecap 1

/-- The first bad register of a slot, as its REGERR. -/
def Slot.firstBad (sl : Slot) : Option Fail := sl.bad.head?.map fun p => regErr p.1 p.2

/-- A bad register as an image carries it: zero (R380). -/
def Slot.zeroReg (sl : Slot) (p : Nat × Nat) : Slot :=
  match p.1 with
  | 0 => { sl with x := sl.x.set (Fin.ofNat 32 p.2) 0 }
  | 1 => { sl with c := sl.c.set (Fin.ofNat 32 p.2) Cap.null }
  | 2 => { sl with pcc := Cap.null }
  | 3 => { sl with p := setBit8 sl.p (p.2 % 8) (p.2 % 8 == 0) }
  | 4 => { sl with k := sl.k.set (Fin.ofNat 8 p.2) 0 }
  | 5 => { sl with v := sl.v.set (Fin.ofNat 64 p.2) 0 }
  | _ => sl
def Matrix.zeroBad (m : Matrix) : Matrix :=
  { m with acc := m.badAcc.foldl (fun a i => a.set (Fin.ofNat 4 i) (Vector.replicate 1024 0)) m.acc, badAcc := [] }

/-- The first bad register of a slot or of the matrix unit that it holds. -/
def State.badReg (s : State) (i : SlotId) : Option Fail :=
  (s.slot i).firstBad.orElse fun _ => if s.mat.holder = some i then s.mat.badAcc.head?.map (regErr 6) else none

/-- A fault that stands at the next boundary: WSEC, one of a restore, or that of a pushed row (R106). -/
def Slot.standing (sl : Slot) : Option Fail :=
  ((sl.pendWsec.map fun aux => ⟨cWSEC, aux, 0⟩).orElse fun _ => sl.pending).orElse fun _ => sl.ports.toList.findSome? (·.failed)

/-- The image carries one trap: REGERR of a bad register first (R380), then the trap that has parked the slot (R375), then a fault
that stands. DESIGN CHOICE, unsafe: log 88. -/
def State.settleFaults (s : State) (i : SlotId) : State :=
  let sl := s.slot i
  match s.badReg i, sl.trapRec, sl.standing with
  | some f, _, _ => (s.withdraw i).parkTrap i f sl.pc 0
  | none, none, some f => s.parkTrap i f sl.pc 0
  | _, _, _ => s

/-- The slot's copy commands other than those of its fibre, which an image holds. -/
def State.dropCopies (s : State) (i : SlotId) : State :=
  (s.leaveQueue (.copy i)).modSlot i fun sl => { sl with copies := sl.copies.filter fun c => !c.own }

/-- Writes that a fibre has made and that are still to be performed: logged stores and rows, SIGs, reductions, stores to peers. -/
def State.leavesWork (s : State) (f : Nat) : Bool :=
  (s.sideLog.any fun e => match e.who with
    | .fibre g | .row g _ _ => g == f
    | _ => false) || s.heldSigs.any (·.fib == f) || s.updates.any (·.fib == f) || s.peerOut.any (·.fib == f)

/-- A fibre that leaves work behind is known again by its image (R234, R238, R270, R289). -/
def State.sleep (s : State) (i : SlotId) (image : Nat) : State :=
  let sl := s.slot i
  let copies := sl.copies.any (·.own)
  if copies || s.leavesWork sl.fib then { s with asleep := s.asleep ++ [⟨sl.world, image, sl.fib, copies⟩] } else s

/-- An image is written at the cursor of a capability: without the accumulators, unless it is `whole` (R23). Where its pages do not
take it, nothing is written. DESIGN CHOICE, unsafe: log 86. -/
def State.writeImage (s : State) (w : World) (c : Cap) (whole : Bool) (m : Img) : State :=
  let base := (capCursor c).toNat
  let need : Need := { w := true }
  if whole then match s.devPieces w c base 0x8000 need with
    | .ok ps => s.devWrite w base m.bytes m.tags ps
    | .error _ => s
  else match s.devPieces w c base 0x2C00 need, s.devPieces w c (base + 0x6C00) 0x1400 need with
    | .ok lo, .ok hi => (s.devWrite w base m.bytes m.tags lo).devWrite w base m.bytes [] hi
    | _, _ => s

/-- A restore that waits for units writes the image that it has read again (R437). DESIGN CHOICE, unsafe: log 86. -/
def State.rewriteImage (s : State) (i : SlotId) : State :=
  let sl := s.slot i
  match sl.image with
  | some m => s.writeImage sl.world sl.startRec.g0 sl.heldMat.isSome m
  | none => s

/-- Involuntary suspension (R22, R374, R375): the image is written, the slot is FREE, and the fresh record results. A slot
whose fibre has issued nothing yet, or whose restore has not ended, keeps the record of its start, and its image as it was
(R282, R437). -/
def State.suspend (s : State) (i : SlotId) (cause : Nat) (tow : BitVec 16) (code : BitVec 8) : State × Rec :=
  let s := s.filterAway.goHome i
  let sl := s.slot i
  if sl.fresh || sl.restoring != RestorePh.none then
    let image := (capCursor sl.startRec.g0).toNat
    (((((s.giveBack sl.taken).rewriteImage i).parkMons i image 0).sleep i image).dropCopies i |>.vacate i code, sl.startRec)
  else
    let s := (s.giveBack sl.taken).giveBack (match sl.rep with
      | some r => r.taken
      | none => none)
    let s := if s.mat.holder = some i then { s with mat := s.mat.halted } else s
    let s := s.settleFaults i
    let s := s.modSlot i fun sl => { sl.bad.foldl Slot.zeroReg sl with bad := [] }
    let s := if s.mat.holder = some i then { s with mat := s.mat.zeroBad } else s
    let fl := (sl.copies.filter (·.own)).foldl (fun f c => f ||| c.flags) (if s.mat.holder = some i then s.mat.flags else 0)
    let s := s.modSlot i fun sl => { sl with fstat := sl.fstat ||| fl.setWidth 64 }
    let s := if s.mat.holder = some i then { s with mat := { s.mat with flags := 0 } } else s
    let sl := s.slot i
    let cause := if sl.trapRec.isSome then 3 else cause
    let prot := s.isProt sl.world
    let s := if prot then s.modWorld sl.world fun x => { x with rctr := x.rctr + 1 } else s
    let ctr := if prot then (s.wst sl.world).rctr.toNat else 0
    let (cycles, s) := s.takeFree
    let base := (capCursor sl.savecap).toNat
    let b := s.imageBlob i cause ctr cycles
    let s := s.writeImage sl.world sl.savecap (s.mat.holder == some i) ⟨blobBytes b 0x8000, blobTags b⟩
    let img : Img := match s.devPieces sl.world sl.savecap base 0x8000 { r := true } with
      | .ok ps => ⟨s.devRead ps, s.devTags base ps⟩
      | .error _ => ⟨[], []⟩
    let mac := img.mac (s.wst sl.world).keyGen base
    let r := { sl.startRec with
      g0 := resumeCap sl.savecap,
      x10 := if prot then BitVec.ofNat 64 ctr else sl.startRec.x10,
      x11 := if prot then mac else sl.startRec.x11 }
    ((((s.withdraw i).parkMons i base tow).sleep i base).dropCopies i |>.vacate i code, r)

/-- REC of a slot's table entry (R281). -/
def State.putRec (s : State) (i : SlotId) (r : Rec) : State := s.modSlot i fun sl => { sl with entry := { sl.entry with record := r } }

/-- PREEMPT (R282): the fresh record goes to REC of the slot table, and the slot is FREE. -/
def State.preemptSlot (s : State) (i : SlotId) : State :=
  let r := s.suspend i 1 0 4
  r.1.putRec i r.2

/-! ### Starting -/

/-- What every start gives a slot (R15): the registers at their start values, the parameters as they stand. -/
def Slot.started (sl : Slot) (r : Rec) : Slot :=
  { Slot.reset with
    fib := sl.fib, world := sl.world, cmwin := sl.cmwin, smwin := sl.smwin, savecap := sl.savecap, tslice := sl.tslice, wlim := sl.wlim,
    isLocal := sl.isLocal, stat := sl.stat, statCause := sl.statCause, entry := sl.entry, op := sl.op, startRec := r,
    copies := sl.copies, dbgHalt := sl.dbgHalt, status := .ready, fresh := true }

/-- A fresh record starts (R20). -/
def State.startFresh (s : State) (i : SlotId) (r : Rec) : State :=
  let w := (s.slot i).world
  let tow : BitVec 16 := r.ctl.extractLsb' 0 16
  let clk := s.towClock w tow
  s.modSlot i fun sl =>
    { sl.started r with
      pcc := r.g0, c := (Vector.replicate 32 Cap.null).set 10 r.g1,
      x := ((((Vector.replicate 32 0).set 10 r.x10).set 11 r.x11).set 12 r.x12).set 13 r.ctl,
      fmode := if s.ctcx.getLsbD w.val then 0x900 else 0x100, tow := tow, clk := clk, startChecks := true }

/-- The trap that an image carries is raised again from its record (R375). -/
def State.raiseStored (s : State) (i : SlotId) (r : TrapRec) (word : BitVec 32) : State :=
  let f : Fail := ⟨r.w0.toNat % 64, r.w0.toNat / 2 ^ 32, r.w2.toNat⟩
  let t := mkRec s i f r.w1 r.w3 true
  let s := s.modSlot i fun sl =>
    { sl with
      status := .parked .trap, trapRec := some t, trapWord := word, pendTrap := none
      rep := sl.rep.map fun p =>
        { p with trapped := r.w1 == p.nextPc && r.w1 != sl.pc, passed := f.cause == cSEMO && f.aux == 4 } }
  s.enqueueRec (some i) t

/-- The state of a slot whose restore has ended: parked before its first instruction, when suspk has asked for it (R368). -/
def Slot.afterRestore (sl : Slot) : SlotStatus := if sl.suspAsk.isSome then .parked .suspk else .ready

/-- The restore ends: the fibre is READY, or its pending trap is delivered first (R24). -/
def State.restored (s : State) (i : SlotId) : State :=
  let s := s.modSlot i fun sl => { sl with status := sl.afterRestore, restoring := .none, image := none, fresh := sl.pendTrap.isNone }
  match (s.slot i).pendTrap with
  | some (r, w) => s.raiseStored i r w
  | none => s

/-- A restore that cannot take anything in: the fault is taken at the first instruction (R24, R344). -/
def State.restoreFail (s : State) (i : SlotId) (f : Fail) : State :=
  s.modSlot i fun sl => { sl with status := sl.afterRestore, restoring := .none, pcc := sl.startRec.g0, pending := some f }

/-- The checks that streams and copy commands pass again on resume (R109, R221), as the slot's. -/
def resumeFail (s : State) (i : SlotId) : Option Fail :=
  let s := s.onSlot i
  let sl := s.slot i
  let f := fun (r : R Unit) => match r with
    | .error (.trap f, _) => some f
    | _ => none
  match (sl.ports.toList.filter (·.bound)).findSome? fun p => f (do
      sbindCheck s p.cap p.write
      if p.started then streamCheck s p) with
  | some e => some e
  | none => (sl.copies.filter (·.own)).findSome? fun c => f (copyCheck s c)

/-- What a restored fibre's units are asked to do next. -/
def State.resumeUnits (s : State) (i : SlotId) : State :=
  let sl := s.slot i
  let s := (List.finRange 4).foldl (fun s p =>
    let q := sl.ports[p]
    if q.bound && q.started && !q.write then s.postFetches i p (min (q.total - q.next) 8) else s) s
  let s := (sl.copies.filter (·.own)).foldl (fun s _ => s.post .copyChunk) s
  if sl.rep.isSome then s.post (.repetitionPass i) else s

/-- The shared units that an image holds are taken, or the restore waits for them (R437). -/
def State.takeUnits (s : State) (i : SlotId) : State :=
  let sl := s.slot i
  let engines := (sl.ports.toList.filter (·.bound)).length
  if 8 < s.enginesUsed + engines && engines != 0 || (sl.rep.isSome && 4 ≤ s.buffersUsed) ||
      (sl.heldMat.isSome && s.mat.holder.isSome) then
    s.modSlot i fun sl => { sl with status := .waiting .pool 0 }
  else
    let s := match sl.heldMat with
      | some (m, w) =>
        let m := { m with holder := some i, drains := s.mat.drains }
        ({ s with mat := m, wave := { w with tiles := s.wave.tiles } } : State).post .latchReload
      | none => s
    let s := s.modSlot i fun sl => { sl with heldMat := none, pending := resumeFail s i }
    (s.resumeUnits i).restored i

/-- The bits that writes have set in the parked monitors come back (R317). -/
def State.unparkMons (s : State) (i : SlotId) (image : Nat) : State :=
  let of := fun (e : ParkedMon) => e.image == image && e.world == (s.slot i).world
  let mine := (s.quayMons ++ s.cl.parkedMons).filter of
  let s := s.modSlot i fun sl =>
    { sl with mons := sl.mons.map fun m =>
        if m.armed && mine.any (fun e => e.line == m.line && e.loc == m.loc && e.trig) then { m with trig := true } else m }
  { s with quayMons := s.quayMons.filter (!of ·), cl := { s.cl with parkedMons := s.cl.parkedMons.filter (!of ·) } }

/-- The fibre of an image is the one that left it: the writes that it has left behind are its own again (R234, R238, R270). -/
def State.wakeFib (s : State) (i : SlotId) (image : Nat) : State :=
  let of := fun (a : Asleep) => a.world == (s.slot i).world && a.image == image
  match s.asleep.find? of with
  | none => s
  | some a => { s.modSlot i fun sl => { sl with fib := a.fib } with asleep := s.asleep.filter (!of ·) }

def monFrom (m : Img) (off : Nat) : Mon :=
  let v := m.nat off 8
  if bitN v 0 then ⟨true, bitN v 1, bitN v 2, v / 128 * 128⟩ else Mon.none

/-- FMODE as a write stores it (R67). -/
def fmodeOf (v : Word) : Word :=
  let rm : BitVec 3 := v.extractLsb' 8 3
  let rm := if rm = 0 ∨ rm = 6 ∨ rm = 7 then 1 else rm
  (v &&& 0x81F) ||| (rm.setWidth 64 <<< 8)

/-- The registers of an image (R24); reserved bits read zero (R6, R67, R68, R305). -/
def Slot.fromImage (sl : Slot) (m : Img) : Slot :=
  { sl with
    fmode := fmodeOf (m.word 8), fstat := m.word 0x10 &&& 0x1F, tow := BitVec.ofNat 16 (m.nat 0x18 2),
    tjn := m.word 0x28 &&& 0xFFFFFFFF,
    x := Vector.ofFn fun i => if i.val = 0 then 0 else m.word (0x38 + 8 * i.val),
    p := BitVec.ofNat 8 (m.nat 0x140 1) ||| 1,
    k := Vector.ofFn fun i => if i.val = 0 then BitVec.allOnes 128 else BitVec.ofNat 128 (m.nat (0x150 + 16 * i.val) 16),
    mons := Vector.ofFn fun i => monFrom m (0x1D0 + 8 * i.val),
    c := Vector.ofFn fun i => if i.val = 0 then Cap.null else m.cap (0x1F0 + 16 * i.val),
    pcc := m.cap 0x3F0, v := Vector.ofFn fun i => BitVec.ofNat 1024 (m.nat (0x400 + 128 * i.val) 128),
    ports := Vector.ofFn fun i => portFrom m (0x2400 + 64 * i.val),
    copies := sl.copies ++ (List.range 8).filterMap fun j => copyEntryOf m (0x2500 + 64 * j) (m.word 0x3F0) sl.fib,
    rep := if bitN (m.nat 7 1) 2 then some (repFrom m 0x2700) else none,
    pendTrap := if bitN (m.nat 7 1) 4 then
        some (⟨m.word 0x6C80, m.word 0x6C88, m.word 0x6C90, m.word 0x6C98⟩, BitVec.ofNat 32 (m.nat 0x6CA0 4))
      else none,
    startChecks := false }

/-- An image that has been read is taken in. -/
def State.takeImage (s : State) (i : SlotId) (base : Nat) (m : Img) : State :=
  let s := (s.wakeFib i base).modSlot i fun sl => { (sl.fromImage m) with restoring := .units, image := some m }
  let w := (s.slot i).world
  let clk := s.towClock w (s.slot i).tow
  let s := s.modSlot i fun sl =>
    { sl with
      clk := clk,
      heldMat := if bitN (m.nat 7 1) 0 then
          let u := matrixOf m 0x2800 0x6C00 { Matrix.reset with
            acc := Vector.ofFn fun j => accOf m (0x2C00 + 4096 * j.val) }
          some (u, if u.kind = 3 then waveOf m 0x2800 else Wave.reset)
        else none }
  (s.unparkMons i base).takeUnits i

/-- The image of a protected world fits its record (R347). -/
def State.imageSealOk (s : State) (w : World) (r : Rec) (base : Nat) (m : Img) : Bool :=
  if s.isProt w then
    bitN (m.nat 7 1) 3 && m.word 0x20 == r.x10 && m.mac (s.wst w).keyGen base == r.x11
  else !bitN (m.nat 7 1) 3

/-- A part of an image is read, with its offset in front: its bytes and its tagged granules, or why it is not (R344). -/
def State.imagePart (s : State) (w : World) (c : Cap) (off n : Nat) : Except Stop Blob :=
  let base := (capCursor c).toNat
  match s.devPieces w c (base + off) n { r := true } with
  | .error f => .error (.trap f)
  | .ok ps => match piecesHold ps with
    | some p => .error (.wait .page p.va 0)
    | none => match ps.findSome? fun p => match p.place with
        | .at k _ => s.readError w k p.len p.va
        | _ => none with
      | some (e, a) => .error (.trap (if e == cSEAL then ⟨e, 4, base⟩ else ⟨e, 0, a⟩))
      | none =>
        let bs := s.devRead ps
        .ok ((off, bs, false) :: (s.devTags (base + off) ps).map fun g => (off + 16 * g, (bs.drop (16 * g)).take 16, true))

/-- The image of a record: its header is looked at first, and the accumulators of a unit that was not held are not read, but
in a protected world, whose image MAC covers every line (R23, R24, R347). -/
def State.readImage (s : State) (w : World) (c : Cap) : Except Stop Img := do
  let head ← s.imagePart w c 0 0x40
  let h : Img := ⟨blobBytes head 0x40, []⟩
  if h.nat 0 4 != 0x4C583949 || h.nat 4 2 != 1 then .error (.trap ⟨cPROT, 2, (capCursor c).toNat⟩)
  else
    let lo ← s.imagePart w c 0x40 0x2BC0
    let acc ← if s.isProt w || bitN (h.nat 7 1) 0 then s.imagePart w c 0x2C00 0x4000 else .ok []
    let hi ← s.imagePart w c 0x6C00 0x1400
    let all := head ++ lo ++ acc ++ hi
    .ok ⟨blobBytes all 0x8000, blobTags all⟩

/-- An image as it is taken in: its capabilities filtered (R338). -/
def State.filterImg (s : State) (m : Img) : Img :=
  { m with tags := m.tags.filter fun g => (s.filterCap (m.cap (16 * g))).tag }

/-- A restore reads its image: header, then everything else (R24, R344, R347). -/
def State.restoreImage (s : State) (i : SlotId) : State :=
  let sl := s.slot i
  let r := sl.startRec
  let base := (capCursor r.g0).toNat
  match s.readImage sl.world r.g0 with
  | .error (.trap f) => s.restoreFail i f
  | .error (.wait _ va _) =>
    (s.askPage sl.world va (s.holdReason sl.world (some s.cluster.val) va { r := true })).modSlot i fun sl =>
      { sl with status := .waiting .page va }
  | .error .spin => s
  | .ok m => if !s.imageSealOk sl.world r base m then s.restoreFail i ⟨cSEAL, 4, base⟩ else s.takeImage i base (s.filterImg m)

/-- A record starts in a slot, its capabilities filtered (R338), fresh or by restoring its image (R20, R24). Its first
instruction acquires at a scope that the record does not hold (R299), so the world's lines leave the cluster cache. -/
def State.startRecord (s : State) (i : SlotId) (r : Rec) : State :=
  let s := (s.dropWorld (s.slot i).world).modSlot i fun sl => { sl with fib := s.fibCtr }
  let s := { s with fibCtr := s.fibCtr + 1 }
  let r := { r with g0 := s.filterCap r.g0, g1 := s.filterCap r.g1 }
  if r.g0.tag && capOtype r.g0 == 1 then
    (s.modSlot i fun sl => { sl.started r with restoring := .image, status := .waiting .pool 0 }).restoreImage i
  else s.startFresh i r

/-- RESTORE_UNIT_TAKE (R437): a restore that waits, for its image's pages or for units, is tried again. -/
def execRestoreUnitTake (s : State) : Out :=
  match s.act with
  | some (.restoreUnitTake i) =>
    .next (match (s.slot i).restoring with
      | .image => s.restoreImage i
      | .units => s.takeUnits i
      | .none => s)
  | _ => .fault .noSuchEvent

end Sys2Proof.Machine
end

