-- ==== Sys2Proof/Machine/Tow.lean ====
section
/-!
DEFINITION. Tows and queues: the device's own actions on a tow descriptor (R288, R318, R436), barriers (R231), the way
of a record into a queue or a slot (R279, R285, R294), and the await table (R303).
-/

namespace Sys2Proof.Machine

/-! ### Records (R16-R18, R294) -/

def recWorld (r : Rec) : World := (r.ctl.extractLsb' 18 4).toFin
def recPri (r : Rec) : Nat := (r.ctl.extractLsb' 16 2).toNat
def recTow (r : Rec) : BitVec 16 := r.ctl.extractLsb' 0 16
/-- A record that hardware enqueues for a party of a world (R18). -/
def recIn (w : World) (r : Rec) : Rec :=
  { r with ctl := (r.ctl &&& ~~~0x3C0000) ||| BitVec.ofNat 64 (w.val * 2 ^ 18) }

/-- The priority floor of a world (R356). -/
def State.pflr (s : State) (w : World) : Nat := ((s.wst w).wqos.extractLsb' 8 2).toNat
/-- LQ of a world (R356). -/
def State.lq (s : State) (w : World) : Nat :=
  let n := ((s.wst w).wqos.extractLsb' 40 4).toNat
  if n == 0 then 2 else n

/-- The control word of a record that an instruction of slot `sl` builds from a source word (R294). -/
def State.buildCtl (s : State) (sl : Slot) (src : Word) (tow : BitVec 16) : Word :=
  let pri := max (src.extractLsb' 16 2).toNat (s.pflr sl.world)
  src.extractLsb' 23 41 ++ BitVec.ofBool sl.tcx ++ BitVec.ofNat 4 sl.world.val ++ BitVec.ofNat 2 pri ++ tow

/-! ### Launches (R289, R290) -/

/-- A port of the host by its bit (R288). -/
def portOfBit (b : Bool) : HostPort := if b then .b else .a

/-- A message to the host, held in order while its session is down (R353). -/
def State.sendHost (s : State) (p : HostPort) (m : HostMsg) : State :=
  if s.portUp p then
    let s := match m with
      | .write port iova data => s.writeBytes (hostKey port iova) data
      | _ => s
    { s with hostOut := s.hostOut ++ [m] }
  else { s with hostHeld := s.hostHeld ++ [m] }

/-- An entry of a function's user-interrupt table: the address and the data, when it is valid (R391). -/
def State.uitEntry (s : State) (p : HostPort) (fn : World) (vec : Nat) : Option (Nat × List Byte) :=
  match (s.wst fn).uit with
  | none => none
  | some base =>
    let k := hostKey p (base + 16 * vec)
    if vec < 256 && bitN (s.nat (k + 12) 1) 0 then some (s.nat k 8, s.bytes (k + 8) 4) else none

/-- The interrupt of a completion: a posted write that the table names, or a vector of the function (R290, R391). -/
def State.interrupt (s : State) (p : HostPort) (uli : Bool) (fn : World) (vec : Nat) : State :=
  let lost := s.modWorld fn fun x => { x with intlost := x.intlost + 1 }
  if uli then
    match s.uitEntry p fn vec with
    | some (a, d) => s.sendHost p (.write p a d)
    | none => lost
  else if vec < 64 then s.sendHost p (.msix p fn vec) else lost

/-- Completions of one port and vector are coalesced (R290). -/
def State.coalesced (s : State) (p : HostPort) (uli : Bool) (fn : World) (vec win : Nat) : State :=
  if win == 0 then s.interrupt p uli fn vec
  else if s.coalesce.any fun c => c.port = p ∧ c.uli = uli ∧ c.fn = fn ∧ c.vec = vec then
    { s with coalesce := s.coalesce.map fun c =>
        if c.port = p ∧ c.uli = uli ∧ c.fn = fn ∧ c.vec = vec then { c with pending := true } else c }
  else
    let s := s.interrupt p uli fn vec
    { s with coalesce := s.coalesce ++ [⟨p, uli, fn, vec, false⟩] }

/-! ### Descriptors (R288) -/

def State.towNat (s : State) (k off n : Nat) : Nat := s.nat (k + off) n
/-- A write of a field: copies and cached lines of it follow (R245, R251). -/
def State.towSet (s : State) (k off n v : Nat) : State :=
  ((s.dupWrite true (k + off) n).writeBytes (k + off) (leBytes n v)).cacheRefresh (k + off) n
/-- FLAGS, whose other bits are written as zero. -/
def State.towFlags (s : State) (k : Nat) (f : Nat → Nat) : State := s.towSet k 4 4 (f (s.towNat k 4 4 % 64))
/-- FLAGS with a bit set or clear. -/
def flagSet (b : Nat) (v : Bool) (f : Nat) : Nat := f - (if bitN f b then 2 ^ b else 0) + (if v then 2 ^ b else 0)

/-! ### Barriers (R231, R187) -/

def State.barScale (s : State) (w : World) (t : BitVec 16) : BarScale :=
  (s.barScales.find? fun b => b.world == w && b.tow == t).getD ⟨w, t, 0, 0, false, false⟩
def State.putBarScale (s : State) (b : BarScale) : State :=
  { s with barScales := (s.barScales.filter fun c => !(c.world == b.world && c.tow == b.tow)) ++ [b] }

/-- The scale of a generation whose descriptor stands at `k` (R187). -/
def State.formScale (s : State) (b : BarScale) (k : Nat) : Nat × Flags :=
  if b.any then
    let q := Num.div (Fmt.decode .f32 b.tcx (s.towNat k 0x14 4)) (Fmt.decode .f32 b.tcx (s.towNat k 0x18 4))
    let r := roundUpE4m3 b.tcx q.1
    (r.1, q.2 ||| r.2)
  else (0, 0)

/-- The acts that serve those who wait on a barrier. -/
def State.barServe (s : State) (w : World) (t : BitVec 16) : List Act :=
  (allSlots.filter fun i => (s.slot i).world == w && (s.slot i).waitsFor (fun k o => k == .bar && o == t.toNat)).map
      (.barrierWaitReturn ·) ++
    ((List.finRange 32).filter fun i => match s.await[i] with
      | some e => e.kind == .bar && e.world == w && e.obj == t.toNat
      | none => false).map (.awaitConditionHolds ·.val)

/-- A generation completes. -/
def State.completeBar (s : State) (w : World) (t : BitVec 16) (k : Nat) : State :=
  let b := s.barScale w t
  let r := s.formScale b k
  let s := s.putBarScale { b with scale := BitVec.ofNat 8 r.1, flags := r.2, any := false }
  let s := (s.towSet k 0x0C 4 0).towSet k 0x10 4 (s.towNat k 0x10 4 + 1)
  { s with agenda := s.agenda ++ s.barServe w t }

/-! ### The device's own actions (R436) -/

/-- MEMBERS falls by 1 (R304, R306, R231, R289). -/
def State.towDecr (s : State) (w : World) (t : BitVec 16) (k : Nat) : State :=
  let m := s.towNat k 0 4
  if m == 0 then s.auditIrq w (s.towVa w t)
  else
    let s := s.towSet k 0 4 (m - 1)
    let a := s.towNat k 0x0C 4
    let s := if 1 ≤ a && m - 1 ≤ a then s.completeBar w t k else s
    let f := s.towNat k 4 4
    if m == 1 && bitN f 0 then
      let s := s.towFlags k (flagSet 3 true)
      ({ s with launches := s.launches ++ [(w, t, 1)] }).post (.launchCompletion w t)
    else s

/-- An action on the descriptor at `k`. -/
def State.towDo (s : State) (w : World) (t : BitVec 16) (k : Nat) : TowAct → State
  | .decr => s.towDecr w t k
  | .incr => s.towSet k 0 4 (s.towNat k 0 4 + 1)
  | .charge n =>
    let c := s.towNat k 0x28 8 + n
    let s := s.towSet k 0x28 8 c
    let b := s.towNat k 0x20 8
    if b != 0 && b ≤ c && !bitN (s.towNat k 4 4) 5 then
      ((s.towFlags k (flagSet 5 true)).notice (.budget w t)).post (.budgetCharge w t 0)
    else s
  | .counts b wt lg =>
    let add := fun (off : Nat) (d : Int) => intCode 32 ((s.towNat k off 4 : Int) + d)
    let s := ((s.towSet k 0x50 4 (add 0x50 b)).towSet k 0x54 4 (add 0x54 wt)).towSet k 0x58 4 (add 0x58 lg)
    let n := s.towNat k 0x50 4
    if s.towNat k 0x30 8 != 0 && n != 0 && n == s.towNat k 0x54 4 && s.towNat k 0x58 4 != 0 then s.post (.towSwap w t)
    else s
  | .swap => s.post (.towSwap w t)

/-- Actions on a tow's descriptor are held. -/
def State.actsHeld (s : State) (w : World) (t : BitVec 16) : Bool := s.heldActs.any fun h => h.world == w && h.tow == t

/-- An action on a tow's descriptor: performed, held on an unmapped page or while invalidations of the line are outstanding
(R251), or discarded with a notice. -/
def State.towAct (s : State) (w : World) (t : BitVec 16) (a : TowAct) : State :=
  if t = 0 then s
  else if s.actsHeld w t then { s with heldActs := s.heldActs ++ [⟨w, t, a⟩] }
  else match s.towTr w t with
    | .ok pa m => if s.dupBusy m pa 256 then { s with heldActs := s.heldActs ++ [⟨w, t, a⟩] } else s.towDo w t pa a
    | .hold why => { (s.askPage w (s.towVa w t) why) with heldActs := s.heldActs ++ [⟨w, t, a⟩] }
    | .fail _ _ => s.auditIrq w (s.towVa w t)

/-- The held actions are tried again, in order. -/
def State.retryHeld (s : State) : State :=
  s.heldActs.foldl (fun s h => s.towAct h.world h.tow h.act) { s with heldActs := [] }

/-! ### What the home tow is told of a slot (R318) -/

/-- The tally of a slot as it stands. -/
def State.tallyNow (s : State) (i : SlotId) : Tally :=
  let sl := s.slot i
  if sl.status = .free ∨ sl.tow = 0 then ⟨none, false, false⟩
  else
    let wt := match sl.waitNow.1 with
      | .sem | .full | .empty | .fpush | .fpop | .bar | .mon => true
      | _ => false
    ⟨some (sl.world, sl.tow), wt, wt && s.tally[i].wait && s.tally[i].long⟩

def one (b : Bool) : Int := if b then 1 else 0

/-- A slot's descriptor is told of a change in the slot. -/
def State.settleSlot (s : State) (i : SlotId) : State :=
  let old := s.tally[i]
  let new := s.tallyNow i
  if new = old then s
  else
    let s := { s with tally := s.tally.set i new }
    match old.member, new.member with
    | some (w, t), some (w', t') =>
      if w = w' ∧ t = t' then s.towAct w t (.counts 0 (one new.wait - one old.wait) (one new.long - one old.long))
      else (s.towAct w t (.counts (-1) (- one old.wait) (- one old.long))).towAct w' t' (.counts 1 (one new.wait) (one new.long))
    | some (w, t), none => s.towAct w t (.counts (-1) (- one old.wait) (- one old.long))
    | none, some (w', t') => s.towAct w' t' (.counts 1 (one new.wait) (one new.long))
    | none, none => s

/-! ### Bad-line lists (R376, R377, R379) -/

/-- The errors that the step has met enter the lists. -/
def State.listErrors (s : State) : State :=
  s.errSeen.foldl (fun s e => match s.entry e.1 e.2 with
    | .leaf main _ => s.listBad e.1 ((lfFrame main + e.2 % lfBytes main) / 128)
    | _ => s) { s with errSeen := [] }

/-- After a step, the home tows are told what has changed, and the quays of the errors that it has met. -/
def settle (s : State) : State := (allSlots.foldl State.settleSlot s).listErrors

/-- What a step makes of an instruction's outcome: the tests and counts that follow every instruction. -/
def settled : Out → Out
  | .next t => .next (settle t)
  | .fault r => .fault r
  | .refused r => .refused r

/-! ### Cluster ready queues (R279) -/

/-- Records of a world and priority in a cluster's ready queue. -/
def State.crqLen (s : State) (c : Fin 64) (w : World) (p : Nat) : Nat :=
  (s.clq.filter fun q => q.cluster == c && recWorld q.rcd == w && recPri q.rcd == p).length

/-- Records of a world in the spill ring of a cluster: those beyond the eight that each queue holds in hardware. -/
def State.crqSpilled (s : State) (c : Fin 64) (w : World) : Nat :=
  ((List.range 4).map fun p => s.crqLen c w p - 8).sum

/-- The size of the spill ring of a world in a cluster. -/
def State.crqSize (s : State) (c : Fin 64) (w : World) : Nat := s.crq[16 * c.val + w.val]'(by omega)

/-- A record's queue has room. -/
def State.crqRoom (s : State) (c : Fin 64) (r : Rec) : Bool :=
  s.crqLen c (recWorld r) (recPri r) < 8 || s.crqSpilled c (recWorld r) < s.crqSize c (recWorld r)

def State.crqPut (s : State) (c : Fin 64) (r : Rec) : State := { s with clq := s.clq ++ [⟨c, r⟩] }

/-- Some of the records go to the queue of a record of a cluster. -/
def inQueue (c : Fin 64) (r : Rec) (qs : List Queued) : Bool :=
  qs.any fun q => q.cluster == c && recWorld q.rcd == recWorld r && recPri q.rcd == recPri r

/-- A record that is never refused: Torud holds it while its queue is full. -/
def State.requeue (s : State) (c : Fin 64) (r : Rec) : State :=
  if !inQueue c r s.heldQ && s.crqRoom c r then s.crqPut c r else { s with heldQ := s.heldQ ++ [⟨c, r⟩] }

/-- Held records enter their queues as soon as there is room there. -/
def State.requeueAll (s : State) : List Queued → State
  | [] => s
  | q :: qs => (s.requeue q.cluster q.rcd).requeueAll qs

/-- Room in the queues may have appeared: the held records are tried again, in order, and those who wait for room. -/
def State.crqDrain (s : State) : State := (({ s with heldQ := [] } : State).requeueAll s.heldQ).rouseAll fun k _ => k == .queue

/-- A record has been taken from a cluster's ready queue by the scheduler. -/
def State.crqTake (s : State) (r : Rec) : State :=
  if s.clq.contains ⟨s.cluster, r⟩ then
    ({ s with clq := dropFirst ⟨s.cluster, r⟩ s.clq } : State).crqDrain
  else s

/-! ### Delivery to the core (R284, R285) -/

def State.ring (s : State) (w : World) : Ring := s.cmq[w]

/-- Entries of the local ready queue at a priority, of one world or of all. -/
def State.lrqCount (s : State) (w : Option World) (p : Nat) : Nat :=
  (s.lrq.filter fun r => recPri r == p && w.all (· == recWorld r)).length

/-- An act that binds a slot. -/
def bindsSlot (i : SlotId) (a : Act) : Bool :=
  match a with
  | .bind j _ => i == j
  | _ => false

/-- The lowest FREE slot that accepts local refills of a world: none whose entry has an OP, or that a BIND has arrived for
(R283, R284). -/
def State.localSlot (s : State) (w : World) : Option SlotId :=
  allSlots.find? fun i => i != 15 && (s.slot i).status = .free && (s.slot i).isLocal && (s.slot i).world == w &&
    (s.slot i).op == 0 && !s.agenda.any (bindsSlot i)

/-- The local queue takes a record of a world and priority. -/
def State.lrqRoom (s : State) (w : World) (p : Nat) : Bool := s.lrqCount (some w) p < s.lq w && s.lrqCount none p < 32

/-- A record starts in a slot, whose STAT then reads RUNNING (R282). -/
def State.startIn (s : State) (i : SlotId) (r : Rec) : State := (s.startRecord i r).setStat i 1

/-- The first place of R285 that takes a record, or none. -/
def State.deliver (s : State) (r : Rec) : Option State :=
  let w := recWorld r
  let p := recPri r
  match if s.lrq.all (fun q => recWorld q != w) && (s.ring w).recs.isEmpty then s.localSlot w else none with
  | some i => some (s.startIn i r)
  | none =>
    if s.lrqRoom w p && (s.ring w).recs.all (fun q => recPri q != p) then some { s with lrq := s.lrq ++ [r] }
    else if (s.ring w).recs.length < (s.ring w).size then
      some { s with cmq := s.cmq.set w { s.ring w with recs := (s.ring w).recs ++ [r] } }
    else none

/-- A wake or an engine's message: held by its sender until room frees. -/
def State.deliverHeld (s : State) (r : Rec) : State :=
  match if s.heldMsgs.any (fun q => recWorld q == recWorld r && recPri q == recPri r) then none else s.deliver r with
  | some s => s
  | none => { s with heldMsgs := s.heldMsgs ++ [r] }

/-! ### Descriptors reached by an instruction (R306, R436) -/

/-- Where the descriptor of a tow lies, for an instruction of slot `s.cur`: an ordinary global access, which follows the slot's
logged stores to it and the invalidations of its line (R251, R273). -/
def towReach (s : State) (t : BitVec 16) (need : Need) : R Nat :=
  let va := s.towVa s.world t
  match s.place s.world (some s.cluster.val) need false va with
  | .error f => .error (.trap f, s)
  | .ok .hold => waitFor (s.askPage s.world va (s.holdReason s.world (some s.cluster.val) va need)) .page va
  | .ok (.at k m) =>
    if s.logTouches s.sl.fib va 256 then waitFor s .queue va
    else if need.w && s.dupBusy m k 256 then .error (.spin, s)
    else if !s.cxlOk k then raise s cMEMERR 6 va
    else match s.readError s.world k 128 va with
      | some (c, _) => raise s c (if c == cSEAL then 1 else 0) va
      | none => .ok k
  | .ok _ => raise s cPROT 11 va

/-- A fibre belongs to a tow (R305). -/
def Slot.belongs (sl : Slot) (t : BitVec 16) : Bool :=
  t != 0 && (t == sl.tow || t == sl.tjn.extractLsb' 0 16 || t == sl.tjn.extractLsb' 16 16)

/-- The tow id in an x register: its upper bits must be zero (R306). DEDUCED, unsafe: log 52. -/
def towArg (s : State) (r : BitVec 6) : R (BitVec 16) := do
  guardR s ((s.rx r).toNat < 2 ^ 16) cPROT 18 0
  .ok ((s.rx r).extractLsb' 0 16)

/-! ### The await table (R303) -/

/-- The condition of an entry on granules of cluster memory. -/
def State.granulesAre (s : State) (v : Bool) (e : AwaitEntry) : Bool :=
  (List.range (max e.thr 1)).all fun i => s.fullAt (locKey e.obj + 16 * i) == v

/-- The condition of an entry holds. -/
def State.awaitHolds (s : State) (i : Fin 32) (e : AwaitEntry) : Bool :=
  match e.kind with
  | .sem => e.thr ≤ (s.sem[e.obj % 256]'(Nat.mod_lt _ (by decide))).toNat &&
      (e.swap || e.thr == 0 || !s.aheadOf (.await i) .sem e.obj)
  | .full => s.granulesAre true e
  | .empty => s.granulesAre false e
  | .fpush => (s.fifo (fifoIx e.obj)).length + e.thr ≤ 8192
  | .fpop => e.thr ≤ (s.fifo (fifoIx e.obj)).length
  | .bar => match s.towTr e.world (BitVec.ofNat 16 e.obj) with
    | .ok pa _ => s.towNat pa 0x10 4 != e.thr
    | _ => false
  | _ => false

/-- A free entry of the table. -/
def State.freeAwait (s : State) : Option (Fin 32) := (List.finRange 32).find? fun i => s.await[i].isNone

/-- An entry is made, and its condition is tested (R303). -/
def State.putAwait (s : State) (i : Fin 32) (e : AwaitEntry) : State :=
  let s := { s with await := s.await.set i (some e) }
  let s := if e.kind == .sem && !e.swap then s.joinQueue ⟨.await i, .sem, e.obj, e.thr⟩ else s
  s.post (.awaitConditionHolds i.val)

/-- An entry is freed; those who wait for one try again. -/
def State.dropAwait (s : State) (i : Fin 32) : State :=
  let s := ({ s with await := s.await.set i none } : State).leaveQueue (.await i)
  s.rouseAll fun k o => k == .queue && o == 0

/-- AWAIT_CONDITION_HOLDS: an entry whose condition holds is freed and its record delivered; a swapped tow comes back
(R303, R319). -/
def execAwaitConditionHolds (s : State) : Out :=
  match s.act with
  | some (.awaitConditionHolds n) =>
    let i : Fin 32 := Fin.ofNat 32 n
    match s.await[i] with
    | none => .next s
    | some e =>
      if !s.awaitHolds i e then .next s
      else if e.swap then .next (s.post (.towReturn e.world e.tow))
      else
        let s := if e.kind == .sem then
            let v := (s.sem[e.obj % 256]'(Nat.mod_lt _ (by decide))).toNat
            { s with sem := s.sem.set (e.obj % 256) (BitVec.ofNat 16 (v - e.thr)) (Nat.mod_lt _ (by decide)) }
          else s
        .next ((s.dropAwait i).deliverHeld e.rcd)
  | _ => .fault .noSuchEvent

end Sys2Proof.Machine
end

