-- ==== Sys2Proof/Machine/Sync.lean ====
section
/-!
DEFINITION. Monitors, park, semaphores and barriers (R226-R231), and the events that serve those who wait (R196, R216,
R217, R311, R312, R314).
-/

namespace Sys2Proof.Machine

/-! ### Monitors (R226) -/

/-- The number a line's monitor has or takes, if any is left. -/
def Slot.monNumber (sl : Slot) (loc : Bool) (line : Nat) : Option (Fin 4) :=
  match (List.finRange 4).find? fun i => sl.mons[i].armed && sl.mons[i].loc == loc && sl.mons[i].line == line with
  | some i => some i
  | none => (List.finRange 4).find? fun i => !sl.mons[i].armed

/-- DEDUCED, unsafe: log 49. -/
def execMon (o : MOp) (s : State) : Out :=
  finish o.hdr (fun s => do
    let c := s.rc o.oa
    let ea := mEa s o
    let n := szBytes o.size
    let line := ea / 128 * 128
    let ps ← accessPieces s c ea n pR { r := true } .plain (if o.ord == 0 then 1 else n)
    match s.sl.monNumber (capLocal c) line with
    | none => raise s cPROT 12 ea
    | some i => do
      bitmapsReadable s c ps
      let r ← loadPieces (← arrive s s.world ps) ps (mHint o true)
      let t := (r.2.acquired o.ord o.scope).wx o.od (extBytes r.1 (o.x == 1))
      .ok (t.modCur fun sl => { sl with mons := sl.mons.set i ⟨true, false, capLocal c, line⟩ })) s

def execUnmon (o : MOp) (s : State) : Out :=
  finish o.hdr (fun s => do
    if o.x == 1 then .ok (s.modCur fun sl => { sl with mons := Vector.replicate 4 Mon.none })
    else
      let c := s.rc o.oa
      let ea := mEa s o
      let _ ← accessPieces s c ea 1 pR { r := true } .plain 1
      .ok (s.modCur fun sl =>
        { sl with mons := sl.mons.map fun m =>
            if m.armed && m.loc == capLocal c && m.line == ea / 128 * 128 then Mon.none else m })) s

/-! ### park (R227) -/

/-- The triggered monitors of a slot, one bit each. -/
def trigBits (ms : Vector Mon 4) : Nat :=
  (List.finRange 4).foldl (fun n (i : Fin 4) => if ms[i].armed && ms[i].trig then n + 2 ^ i.val else n) 0

/-- The events that end a park: monitors, timeout, supervisor. -/
def Slot.parkEvents (sl : Slot) : Nat := trigBits sl.mons + 16 * sl.wake.toNat

/-- park: at once when an event stands, else PARKED; an event makes the slot READY, and it then completes here. -/
def execPark (o : ROp) (s : State) : Out :=
  if s.sl.parkEvents = 0 then
    .next (s.modCur fun sl => { sl with status := .parked .park, begun := true, parkTmo := s.rx o.oa })
  else
    finish o.hdr (fun s =>
      .ok ((s.wx o.od (BitVec.ofNat 64 s.sl.parkEvents)).modCur fun sl =>
        { sl with wake := 0, parkTmo := 0, mons := sl.mons.map fun m => { m with trig := false } })) s

/-- A slot parked by park goes on. -/
def State.unpark (s : State) (i : SlotId) (bits : BitVec 2) : State :=
  if (s.slot i).status = .parked .park then
    s.modSlot i fun sl => { sl with status := .ready, wake := sl.wake ||| bits }
  else s

/-- PARK_WAKE: a monitor of a parked slot has been triggered. -/
def execParkWake (s : State) : Out :=
  match s.act with
  | some (.parkWake i) => .next (if trigBits (s.slot i).mons = 0 then s else s.unpark i 0)
  | _ => .fault .noSuchEvent

/-- PARK_TIMEOUT: the timeout given to park has elapsed. -/
def execParkTimeout (s : State) : Out :=
  match s.act with
  | some (.parkTimeout i) => .next (if (s.slot i).parkTmo = 0 ∨ (s.slot i).dbgHalt then s else s.unpark i 1)
  | _ => .fault .noSuchEvent

/-! ### Semaphores (R229)

smset and smadd are releases at core scope. -/

def execSmset (o : RIOp) (s : State) : Out :=
  finish (riHdr o) (fun s => do
    let sm := semOf (riMd o)
    let v := (riAorImm s o).toNat
    guardR s (v ≤ 65535) cSEMO 3 sm.toNat
    releaseWait s 1
    .ok (({ s with badSem := s.badSem.filter (· != sm) } : State).semSet sm v)) s

def execSmrd (o : ROp) (s : State) : Out :=
  finish o.hdr (fun s => .ok (s.wx o.od (BitVec.ofNat 64 (s.semVal (semOf o.md))))) s

def execSmadd (o : RIOp) (s : State) : Out :=
  finish (riHdr o) (fun s => do
    let sm := semOf (riMd o)
    let t : Int := s.semVal sm + (riAorImmS s o).toInt
    guardR s (t ≤ 65535) cSEMO 1 sm.toNat
    guardR s (0 ≤ t) cSEMO 2 sm.toNat
    releaseWait s 1
    .ok ((s.wx (riOd o) (BitVec.ofNat 64 (s.semVal sm))).semSet sm t.toNat)) s

/-- WAITSEM_GRANT (R312): the head of a semaphore's queue takes its units when they are there. -/
def State.grantSem (s : State) (sm : BitVec 8) : State :=
  match s.waiters.find? fun w => w.kind == .sem && w.obj == sm.toNat with
  | none => s
  | some w =>
    if s.semVal sm < w.thr then s
    else match w.who with
      | .await i => s.post (.awaitConditionHolds i.val)
      | .slot i =>
        let s := { s with sem := s.sem.set sm.toNat (BitVec.ofNat 16 (s.semVal sm - w.thr)) sm.isLt }
        let s := (s.leaveQueue w.who).modSlot i fun sl => { sl with taken := some (sm, w.thr), begun := true }
        s.rouse i
      | .rep i =>
        let s := { s with sem := s.sem.set sm.toNat (BitVec.ofNat 16 (s.semVal sm - w.thr)) sm.isLt }
        let s := (s.leaveQueue w.who).modSlot i fun sl =>
          { sl with rep := sl.rep.map fun r => { r with taken := some (sm, w.thr), wait := none } }
        s.post (.repetitionPass i)
      | .copy _ => s

/-- Swap entries on a semaphore (R319). -/
def State.serveSwaps (s : State) (p : AwaitEntry → Bool) : State :=
  (List.finRange 32).foldl (fun s i => match s.await[i] with
    | some e => if e.swap && p e then s.post (.awaitConditionHolds i.val) else s
    | none => s) s

def execWaitsemGrant (s : State) : Out :=
  match s.act with
  | some (.waitsemGrant sm) => .next ((s.grantSem sm).serveSwaps fun e => e.kind == .sem && e.obj == sm.toNat)
  | _ => .fault .noSuchEvent

/-! ### Granules, FIFO banks, quay cores, barriers -/

/-- Rouse the slots among the waiters that satisfy a property. -/
def State.rouseWaiters (s : State) (p : Waiter → Bool) : State :=
  s.waiters.foldl (fun s w => if p w then
      match w.who with
      | .slot i => s.rouse i
      | _ => s
    else s) s

/-- Await entries that satisfy a property test their condition. -/
def State.testAwait (s : State) (p : AwaitEntry → Bool) : State :=
  (List.finRange 32).foldl (fun s i => match s.await[i] with
    | some e => if p e then s.post (.awaitConditionHolds i.val) else s
    | none => s) s

/-- FULL_EMPTY_SERVE (R216). -/
def execFullEmptyServe (s : State) : Out :=
  match s.act with
  | some (.fullEmptyServe g) => .next ((s.rouseWaiters (·.onGranule g)).testAwait (·.onGranule g))
  | _ => .fault .noSuchEvent

def kindFifo (k : WaitKind) : Bool := k == .fpush || k == .fpop

/-- FIFO_SERVE (R196). -/
def execFifoServe (s : State) : Out :=
  match s.act with
  | some (.fifoServe b) =>
    .next (((s.rouseWaiters fun w => kindFifo w.kind && fifoIx w.obj == b).testAwait fun e =>
      kindFifo e.kind && fifoIx e.obj == b).unstall)
  | _ => .fault .noSuchEvent

/-- QUAY_CORE_ARRIVAL (R217): a place at a quay core is free. -/
def execQuayCoreArrival (s : State) : Out :=
  match s.act with
  | some (.quayCoreArrival q) => .next (s.rouseWaiters fun w => w.kind == .pool && w.thr == q.val + 1)
  | _ => .fault .noSuchEvent

/-- BARRIER_WAIT_RETURN (R231). -/
def execBarrierWaitReturn (s : State) : Out :=
  match s.act with
  | some (.barrierWaitReturn i) => .next (if (s.slot i).waitsFor (fun k _ => k == .bar) then s.rouse i else s)
  | _ => .fault .noSuchEvent

/-! ### Barriers (R231, R187) -/

/-- The tow that a barrier names. -/
def barTow (s : State) (r : BitVec 6) : R (BitVec 16) := do
  let t ← towArg s r
  let t := if t = 0 then s.sl.tow else t
  guardR s (s.sl.belongs t) cPROT 14 0
  .ok t

/-- An arrival: the generation before it. -/
def State.arrive (s : State) (t : BitVec 16) (k : Nat) : State :=
  let a := s.towNat k 0x0C 4 + 1
  if s.towNat k 0 4 ≤ a then s.completeBar s.world t k else s.towSet k 0x0C 4 (a % 2 ^ 32)

/-- bar.arr and barmx.arr; `f` records the contribution. -/
def arriveBody (o : ROp) (f : State → BitVec 16 → Nat → State) (s : State) : R State := do
  let t ← barTow s o.oa
  releaseWait s (o.md.isp.toNat % 8)
  let k ← towReach s t { r := true, w := true }
  let g := s.towNat k 0x10 4
  .ok (((f s t k).arrive t k).wx o.od (BitVec.ofNat 64 g))

/-- bar.w and barmx.w: the tow, once its generation differs. -/
def barWait (o : ROp) (s : State) : R (BitVec 16) := do
  let t ← barTow s o.oa
  let k ← towReach s t { r := true }
  if s.towNat k 0x10 4 == (s.rx o.ob).toNat % 2 ^ 32 then waitFor s .bar t.toNat (s.towNat k 0x10 4) else .ok t

def execBar (o : ROp) (s : State) : Out :=
  finish o.hdr (fun s =>
    if o.md.sub == 1 then do
      let _ ← barWait o s
      .ok (s.acquired 1 (o.md.isp.extractLsb' 0 3))
    else arriveBody o (fun s _ _ => s) s) s

/-- M over the contributions of the generation so far and one more: the code of a magnitude, or a NaN. -/
def maxMag (any : Bool) (old new : Nat) : Nat :=
  let x := (Fmt.decode .f32 false new).abs
  let m := Fmt.decode .f32 false old
  if x.isNan then Fmt.canonNan .f32 false
  else if !any then new % 2 ^ 31
  else if m.isNan || m.cmp x != .lt then old else new % 2 ^ 31

/-- A contribution is recorded in the descriptor. -/
def contribute (o : ROp) (s : State) (t : BitVec 16) (k : Nat) : State :=
  let b := s.barScale s.world t
  let m := maxMag b.any (s.towNat k 0x14 4) ((s.rx o.ob).toNat % 2 ^ 32)
  let s' := (s.towSet k 0x14 4 m).towSet k 0x18 4 ((s.rx o.oc).toNat % 2 ^ 32)
  s'.putBarScale { b with any := true, tcx := s.sl.tcx }

def execBarmx (o : ROp) (s : State) : Out :=
  finish o.hdr (fun s =>
    if o.md.sub == 1 then do
      let t ← barWait o s
      let b := s.barScale s.world t
      .ok (((s.acquired 1 (o.md.isp.extractLsb' 0 3)).wx o.od (b.scale.setWidth 64)).orFlags s.cur b.flags)
    else arriveBody o (contribute o) s) s

/-! ### Limits (R311, R314) -/

/-- Kinds that count against WLIM (R310). -/
def kindLimited (k : WaitKind) : Bool :=
  match k with
  | .none | .mon | .page | .frame => false
  | _ => true

/-- The word of the instruction at which a slot stands, for a record: the one it has fetched, or the one at its pc; zero when
that cannot be fetched. -/
def State.wordAt (s : State) (i : SlotId) : BitVec 96 :=
  match fetchOnce (s.onSlot i) with
  | .ok r => wordOfBytes r.1
  | .error _ => 0

/-- A trap of a slot at its pc, with the word that stands there. -/
def State.trapAt (s : State) (i : SlotId) (f : Fail) : State :=
  ((s.onSlot i).withWord (s.wordAt i)).takeTrap f

/-- A limit of the slot's wait falls in the same cycle. -/
def wtmoOf (i : SlotId) (a : Act) : Bool :=
  match a with
  | .wtmo j _ => i == j
  | _ => false

/-- SLICE (R314): the slot's time is up; a wait is interrupted with nothing taken. A WTMO of the same cycle is taken before it
(R320). Behind a trap it stays pending (R371). A restore goes on, and the trap follows it (R437). -/
def execSlice (s : State) : Out :=
  match s.act with
  | some (.slice i) =>
    let sl := s.slot i
    let s' := s.modSlot i fun sl => { sl with pendSlice := true }
    if sl.tslice = 0 ∨ sl.dbgHalt then .next s
    else if s.agenda.any (wtmoOf i) then .next (s.post (.slice i))
    else if sl.restoring ≠ .none then .next s'
    else match sl.status with
      | .ready | .away _ => .next s'
      | .waiting _ _ => .next ((s'.leaveQueue (.slot i)).rouse i)
      | .parked .park => .next (s'.modSlot i fun sl => { sl with status := .ready })
      | .parked .trap => .next s'
      | _ => .next s
  | _ => .fault .noSuchEvent

end Sys2Proof.Machine
end

