-- ==== Sys2Proof/Machine/EngineOps.lean ====
section
/-!
DEFINITION. Writes of the engines on behalf of a slot (R129, R166, R220): to cluster memory, where the granules become
full, through the page table, into the side log, to a host or to a peer.
-/

namespace Sys2Proof.Machine

/-- Why an engine's access is not made: its fault, or it must wait, in the state that has asked for what it waits for. -/
inductive Held where
  | fail (f : Fail)
  | wait (t : State)

/-- What an engine's access answers. -/
abbrev Got (α : Type) := Except Held α
/-- The state after an engine's write, if it can be made. -/
abbrev Put := Got State

/-- The answer of a slot's access, as an engine takes it. -/
def got {α : Type} (r : R α) : Got α :=
  match r with
  | .ok x => .ok x
  | .error (.trap f, _) => .error (.fail { f with aux := 4 })
  | .error (_, t) => .error (.wait t)

/-- A check of an engine. -/
def Held.check (f : Option Fail) : Got Unit :=
  match f with
  | some f => .error (.fail f)
  | none => .ok ()

/-- The failure of a command in flight as its record names it: a bank that does not take it has aux 8 (R193), a peer that cannot
be written aux 7 (R396), a MAC that does not match aux 2 (R344), everything else aux 4 (R221).
DESIGN CHOICE, unsafe: log 85. -/
def Fail.inFlight (f : Fail) : Fail :=
  { f with aux := if f.cause == cPROT && f.aux == 8 then 8 else if f.cause == cMEMERR && f.aux == 7 then 7
      else if f.cause == cSEAL then 2 else 4 }

/-- Tags are put on the granules from a key on. -/
def State.putTags (s : State) (k : Nat) (tags : List Bool) : State :=
  tags.zipIdx.foldl (fun s t => { s with tags := natSet s.tags (k / 16 + t.2) (t.1 && !keyIsHost k) }) s

/-- An engine's write that its page does not take now retires into the side log of a quay, an entry for each line (R268, R269);
where a log has no room it waits. -/
def State.engineLog (s : State) (i : SlotId) (w : World) (q : Nat → Fin 128) (h : Hint) (tags : List Bool) (va : Nat)
    (bs : List Byte) : List (Nat × Nat) → Put
  | [] => .ok s
  | (a, n) :: rest =>
    if s.logAdmits i (q a) then
      let ts := (tags.drop ((a - va) / 16)).take (n / 16)
      let e := s.logEntry .engine (some i) w (q a) a ((bs.drop (a - va)).take n) ts
      (s.logPut { e with hint := h }).engineLog i w q h tags va bs rest
    else .error (.wait s)

/-- An engine's write to memory is performed. -/
def State.engineAt (s : State) (i : SlotId) (w : World) (h : Hint) (key va : Nat) (bs : List Byte) (tags : List Bool) : Put :=
  if !s.cxlOk key then .error (.fail ⟨cMEMERR, 4, va⟩)
  else match s.sealedBad w va key bs.length with
  | some f => .error (.fail { f with aux := 4 })
  | none => .ok (s.performAt i true w h key va bs tags)

/-- An engine's write to some lines has to stand behind others: invalidations are outstanding, or the log holds an older write
to them. -/
def State.engineBehind (s : State) (i : SlotId) (w : World) (main key va n : Nat) : Bool :=
  s.dupBusy main key n || s.ownLogged .engine (some i) w va n

/-- The lines of a write of which some are held back, each performed or logged. -/
def State.engineLines (s : State) (i : SlotId) (w : World) (h : Hint) (key main va : Nat) (bs : List Byte) (tags : List Bool) :
    List (Nat × Nat) → Put
  | [] => .ok s
  | (a, n) :: rest => do
    let k := key + (a - va)
    let d := (bs.drop (a - va)).take n
    let ts := (tags.drop ((a - va) / 16)).take (n / 16)
    let s ← if s.engineBehind i w main k a n then s.engineLog i w (fun _ => s.logQuay main k a n) h ts a d [(a, n)]
      else s.engineAt i w h k a d ts
    s.engineLines i w h key main va bs tags rest

/-- One piece of an engine's write; tags are those of whole granules, of a piece that begins at one. -/
def State.enginePiece (s : State) (i : SlotId) (w : World) (pc insn : Word) (p : Piece) (bs : List Byte)
    (tags : List Bool) (h : Hint := {}) : Put :=
  let cuts := cutLines (bs.length / 128 + 2) p.va bs.length
  match p.place with
  | .bad f => .error (.fail f)
  | .hold =>
    (s.askPage w p.va (s.holdReason w (some s.cluster.val) p.va { w := true })).engineLog i w s.askQuay h tags p.va bs cuts
  | .host port iova => if s.portUp port then .ok (s.writeBytes (hostKey port iova) bs) else .error (.fail ⟨cHOSTDN, 4, p.va⟩)
  | .peer dev va =>
    if s.reaches dev then .ok (s.sendPeer ⟨0, i, 0, false, w, dev, va, [], none, none, p.va, pc, insn⟩ bs tags)
    else .error (.fail ⟨cMEMERR, 7, p.va⟩)
  | .at key main =>
    if s.engineBehind i w main key p.va bs.length then s.engineLines i w h key main p.va bs tags cuts
    else s.engineAt i w h key p.va bs tags

def State.enginePieces (s : State) (i : SlotId) (w : World) (pc insn : Word) (h : Hint) :
    List Piece → List Byte → List Bool → Put
  | [], _, _ => .ok s
  | p :: ps, bs, ts => do
    let s ← s.enginePiece i w pc insn p (bs.take p.len) (ts.take (p.len / 16)) h
    s.enginePieces i w pc insn h ps (bs.drop p.len) (ts.drop (p.len / 16))

/-- An engine writes bytes, with the tags of whole granules, on behalf of a slot. Nothing is written when it fails. -/
def State.enginePut (s : State) (i : SlotId) (w : World) (loc : Bool) (a : Nat) (bs : List Byte) (tags : List Bool)
    (pc insn : Word) (h : Hint := {}) : Put :=
  if loc then
    match s.engineBank (Fin.ofNat 64 (a / 2 ^ 58)) Cap.null a bs.length false with
    | some f => .error (.fail f)
    | none => .ok ((s.engineWrite (locKey a) bs).putTags (locKey a) tags)
  else match s.globalPieces w (some s.cluster.val) { w := true, cw := tags.contains true } false a bs.length with
    | .error f => .error (.fail f)
    | .ok ps => (s.arrived w ps).enginePieces i w pc insn h ps bs tags

/-- Writes of a slot's engines to `[a, a + n)` have not all been performed: a side log holds one, or a peer has not
acknowledged one. -/
def State.logHolds (s : State) (i : SlotId) (loc : Bool) (a n : Nat) : Bool :=
  !loc && (s.sideLog.any (fun e => e.who == .engine && e.sl == some i && e.meets a n) ||
    s.peerOut.any fun p => p.sl == i && p.fib == 0 && p.lva < a + n && a < p.lva + p.data.length)

/-- The earlier work of the matrix unit and of the wavefront array for the slot is complete: latch data, the product in flight,
drain reads, tiles (R118). -/
def matIdle (s : State) : R Unit :=
  if s.wave.tiles.any (·.sl == s.cur) || s.mat.busy.isSome || s.mat.drains.any (·.reading) ||
      (!s.mat.reload && s.mat.parts.toList.any Part.pending) then .error (.spin, s)
  else .ok ()

end Sys2Proof.Machine
end

