-- ==== Sys2Proof/Machine/Fibre.lean ====
section
/-!
DEFINITION. The fibre and tow group (R294-R308, R438), and the writing of reply granules (R300).
-/

namespace Sys2Proof.Machine

/-! ### Records (R294) -/

/-- The record that spawn and callat build. -/
def sentRecord (s : State) (o : ROp) : Rec :=
  let ctl := s.rx o.oc
  ⟨capTarget (s.rc o.oa), s.rc o.ob, s.sl.rx 10, s.sl.rx 11, s.sl.rx 12, s.buildCtl s.sl ctl (ctl.extractLsb' 0 16)⟩

/-- The record of a fibre that suspends. -/
def ownRecord (s : State) : Rec :=
  ⟨s.sl.link, s.sl.rc 10, s.sl.rx 10, s.sl.rx 11, s.sl.rx 12, s.buildCtl s.sl (s.sl.rx 13) s.sl.tow⟩

/-- The code capability of spawn and callat (R295). -/
def sendCheck (s : State) (o : ROp) : R Unit :=
  match codeCheck s.world (s.rc o.oa) true with
  | some cause => raise s cause 0 (capCursor (s.rc o.oa)).toNat
  | none => .ok ()

/-- For a record with a tow the sender must belong to it. -/
def sendTow (s : State) (o : ROp) : R (BitVec 16) := do
  let t : BitVec 16 := (s.rx o.oc).extractLsb' 0 16
  guardR s (t == 0 || s.sl.belongs t) cPROT 14 0
  .ok t

/-- The descriptor whose MEMBERS the record raises, reached before anything is sent. -/
def memberReach (s : State) (t : BitVec 16) : R (Option Nat) :=
  if t = 0 then .ok none
  else do
    let k ← towReach s t { r := true, w := true }
    .ok (some k)

/-- MEMBERS rises by 1. -/
def State.memberUp (s : State) : Option Nat → State
  | none => s
  | some k => s.towSet k 0 4 ((s.towNat k 0 4 + 1) % 2 ^ 32)

/-! ### spawn (R297) -/

/-- The cluster that spawn names. -/
def spawnTarget (s : State) (o : ROp) : R (Fin 64) := do
  let v := s.rx o.od
  if v = BitVec.allOnes 64 then .ok s.cluster
  else do
    guardR s (v.toNat < 64) cPROT 18 0
    .ok (Fin.ofNat 64 v.toNat)

/-- The mark of a spawn that waits for a queue. -/
def spawnMark (c : Fin 64) (r : Rec) : Nat := 1 + 64 * c.val + 4 * (recWorld r).val + recPri r

def execSpawn (o : ROp) (s : State) : Out :=
  finish o.hdr (fun s => do
    sendCheck s o
    let c ← spawnTarget s o
    let t ← sendTow s o
    releaseWait s (o.md.isp.toNat % 8)
    let k ← memberReach s t
    let r := sentRecord s o
    if !s.crqRoom c r || inQueue c r s.heldQ ||
        aheadBy (fun w => w.kind == .queue && w.thr == spawnMark c r) (.slot s.cur) s.waiters then
      waitFor s .queue 0 (spawnMark c r)
    else .ok ((s.memberUp k).crqPut c r)) s

/-! ### callat (R298, R438) -/

/-- The core that callat names. -/
def callTarget (s : State) (o : ROp) : R Nat := do
  guardR s ((s.rx o.od).toNat < 512) cPROT 18 0
  .ok (s.rx o.od).toNat

/-- This core's number in the module (R10). -/
def State.coreNumber (s : State) : Nat := 8 * s.cluster.val + s.core.val

/-- Delivery to a core of the module, or MSGD. -/
def sendTo (s : State) (core : Nat) (r : Rec) : R State :=
  if core = s.coreNumber then
    match s.deliver r with
    | some s => .ok s
    | none => raise s cMSGD 0 0
  else if Config.farHasRoom s.freeCtr then
    .ok { s with freeCtr := s.freeCtr + 1, farMsgs := s.farMsgs ++ [(core, r)] }
  else raise { s with freeCtr := s.freeCtr + 1 } cMSGD 0 0

def execCallat (o : ROp) (s : State) : Out :=
  finish o.hdr (fun s => do
    sendCheck s o
    let c ← callTarget s o
    let t ← sendTow s o
    releaseWait s (o.md.isp.toNat % 8)
    let k ← memberReach s t
    let s' ← sendTo s c (sentRecord s o)
    .ok (s'.memberUp k)) s

/-! ### Suspension (R301-R303) -/

/-- The fibre holds nothing that would be lost (R301). -/
def mayLeave (s : State) : R Unit :=
  guardR s (!(s.mat.holder = some s.cur || s.sl.ports.toList.any (·.bound) || s.sl.tjn != 0)) cPROT 19 0

/-- The SIG of an instruction after which no fibre stays (R230). -/
def State.signalGone (s : State) (h : Hdr) (pc : Word) : State :=
  if h.sigInc = 0 then s
  else if !s.slotDone s.cur then s.holdSig h pc true
  else
    let r := s.semAdd h.sigSm h.sigInc.toNat
    if r.2 then r.1.postRec s.cur ⟨cSEMO, 4, h.sigSm.toNat⟩ pc s.insn else r.1

/-- An instruction after which the slot is FREE. -/
def finishGone (h : Hdr) (body : State → R State) (s : State) : Out :=
  match body s with
  | .ok t => .next (t.signalGone h s.sl.pc)
  | .error (st, t) => .next (stopped st t)

def execYield (o : ROp) (s : State) : Out :=
  finishGone o.hdr (fun s => do
    let s := s.goHome s.cur
    mayLeave s
    releaseWait s 1
    let r := ownRecord s
    let t := s.vacate s.cur 3
    .ok (if o.md.sub == 1 then t.requeue s.cluster r else t.deliverHeld r)) s

/-- The fibre's record enters the await table: a release at core scope comes before (R286). -/
def State.awaitIn (s : State) (i : Fin 32) (kind : WaitKind) (obj thr : Nat) : State :=
  let r := ownRecord s
  let e : AwaitEntry := ⟨kind, obj, thr, r, s.sl.tow, s.world, false⟩
  (s.vacate s.cur 3).putAwait i e

/-- A free entry of the table, or a wait for one. -/
def awaitRoom (s : State) : R (Fin 32) :=
  match s.freeAwait with
  | some i => .ok i
  | none => waitFor s .queue 0

def execAwaitSm (o : ROp) (s : State) : Out :=
  finishGone o.hdr (fun s => do
    let s := s.goHome s.cur
    let n := (s.rx o.oa).toNat
    guardR s (n < 256) cPROT 18 0
    guardR s (s.sl.semIn n) cPROT 13 n
    guardR s ((s.rx o.ob).toNat ≤ 65535) cSEMO 3 n
    guardR s (!s.badSem.contains (BitVec.ofNat 8 n)) cREGERR (semAux (BitVec.ofNat 8 n)) 0
    mayLeave s
    let i ← awaitRoom s
    releaseWait s 1
    .ok (s.awaitIn i .sem n (s.rx o.ob).toNat)) s

/-- await.full and await.empty: the granule at the cursor. -/
def awaitGran (o : ROp) (kind : WaitKind) (s : State) : R State := do
  let s := s.goHome s.cur
  let c := s.rc o.oa
  let a := (capCursor c).toNat
  accessChecks s c a 16 pR .fullEmpty 1
  mayLeave s
  let i ← awaitRoom s
  releaseWait s 1
  .ok (s.awaitIn i kind (a / 16 * 16) 1)

def execAwaitFull (o : ROp) (s : State) : Out := finishGone o.hdr (awaitGran o .full) s
def execAwaitEmpty (o : ROp) (s : State) : Out := finishGone o.hdr (awaitGran o .empty) s

/-- ROFF, RCL and RV of a control word (R17). -/
def ctlRoff (c : Word) : Nat := (c.extractLsb' 32 22).toNat
def ctlRcl (c : Word) : Nat := (c.extractLsb' 24 6).toNat
def ctlRv (c : Word) : Bool := c.getLsbD 63

/-- callat.w: the reply granule's checks stand between those of the record and its sending (R438). -/
def execCallatW (o : ROp) (s : State) : Out :=
  finishGone o.hdr (fun s => do
    let s := s.goHome s.cur
    sendCheck s o
    let c ← callTarget s o
    let ctl := s.rx o.oc
    guardR s (ctlRv ctl && ctlRcl ctl == s.cluster.val) cPROT 21 0
    let t ← sendTow s o
    let a := s.cluster.val * 2 ^ 58 + 16 * ctlRoff ctl
    guardR s (ctlRoff ctl < 262144) cCAPB 0 a
    check s (localCheck s.cluster.val s.sl.cmwin a 16)
    check s (s.bankCheck s.cluster .fullEmpty a 16)
    mayLeave s
    let i ← awaitRoom s
    releaseWait s (o.md.isp.toNat % 8)
    let k ← memberReach s t
    let s' ← sendTo s c (sentRecord s o)
    .ok ((s'.memberUp k).awaitIn i .full a 1)) s

/-! ### exit (R304) -/

/-- What exit waits for: matrix and wavefront work, and rows pushed, those in a side log among them. A row that has failed is
taken here. -/
def exitWait (s : State) : R Unit :=
  match s.sl.ports.toList.findIdx? fun p => p.bound && p.write && p.failed.isSome with
  | some i => portSound s (Fin.ofNat 4 i)
  | none =>
    if (List.finRange 4).any (fun i => (s.sl.port i).bound && (s.sl.port i).write && s.rowsOpen i != 0) ||
        s.wave.tiles.any (·.sl == s.cur) then
      .error (.spin, s)
    else if s.mat.holder = some s.cur then matIdle s
    else .ok ()

/-- The decrements of exit: joined tows, then the home tow. -/
def State.leaveTows (s : State) (sl : Slot) : State :=
  [sl.tjn.extractLsb' 0 16, sl.tjn.extractLsb' 16 16, sl.tow].foldl (fun s t => s.towAct sl.world t .decr) s

def execExit (o : ROp) (s : State) : Out :=
  finishGone o.hdr (fun s => do
    let s ← matReady s
    exitWait s
    .ok ((s.vacate s.cur 2).leaveTows s.sl)) s

/-! ### reply (R300) -/

def execReply (o : ROp) (s : State) : Out :=
  finish o.hdr (fun s => do
    let ctl := s.sl.rx 13
    let a := ctlRcl ctl * 2 ^ 58 + 16 * ctlRoff ctl
    guardR s (ctlRv ctl) cPROT 22 0
    guardR s (ctlRoff ctl < 262144) cCAPB 0 a
    let r : Reply := ⟨s.cur, s.sl.fib, s.world, Fin.ofNat 64 (ctlRcl ctl), 16 * ctlRoff ctl, s.rx o.oa, s.rx o.ob,
      o.md.isp.toNat % 8, (s.slotLogs s.cur).map (·.num), (s.slotUps s.cur).map (·.num), s.sl.pc, s.insn⟩
    .ok (({ s with cl := { s.cl with replies := s.cl.replies ++ [r] } } : State).post (.replyGranuleWrite none))) s

/-- RPWIN of a world in a cluster. -/
def State.rpwinOf (s : State) (c : Fin 64) (w : World) : Word := s.rpwin[16 * c.val + w.val]'(by omega)

/-- The earlier writes of the replying fibre have been performed at the reply's scope. -/
def State.replyReady (s : State) (r : Reply) : Bool :=
  s.allDone r.logs r.ups && (r.scope < 3 || s.dupQuiet) && (r.scope < 4 || s.peerOut.isEmpty)

/-- The oldest reply that can be written now: the replies of one fibre keep their order. -/
def State.nextReply (s : State) (behind : List Nat) : List Reply → Option Reply
  | [] => none
  | r :: rs => if !behind.contains r.fib && s.replyReady r then some r else s.nextReply (r.fib :: behind) rs

/-- The reply cluster takes a reply of a world at an offset. -/
def State.replyLands (s : State) (c : Fin 64) (w : World) (off : Nat) : Bool :=
  let win := s.rpwinOf c w
  let mode := s.bankMode c (off / 2 ^ 17)
  winBaseOf win ≤ off && off + 16 ≤ winLimitOf win && (mode == 0 || mode == 3)

/-- A reply granule is written; a release at die scope or wider is kept for the ldfe that sees it (R216). -/
def State.putReply (s : State) (c : Fin 64) (off : Nat) (lo hi : Word) (scope : Nat) : State :=
  let k := clKey c.val off
  let t := s.engineWrite k (leBytes 8 lo.toNat ++ leBytes 8 hi.toNat)
  if 2 ≤ scope then { t with fullScopes := t.fullScopes ++ [(k / 16, scope)] } else t

/-- A reply of the core is written, or a record says why not. -/
def State.writeReply (s : State) (r : Reply) : State :=
  if s.replyLands r.cluster r.world r.off then s.putReply r.cluster r.off r.lo r.hi r.scope
  else s.postRec r.sl ⟨cPROT, 23, r.cluster.val * 2 ^ 58 + r.off⟩ r.pc r.insn

/-- A transfer from another cluster whose MAC does not match is dropped, and a supervisor of the cluster is told (R343, R344).
DEDUCED, unsafe: log 89. -/
def State.transferFails (s : State) (w : World) (addr : Nat) : State := s.postRecOf w 15 ⟨cSEAL, 3, addr⟩ 0 0

/-- A transfer of a protected world from another cluster arrives as it was sent. -/
def State.transferOk (s : State) (w : World) (sealOk : Bool) : Bool := !s.isProt w || sealOk

/-- REPLY_GRANULE_WRITE: a reply of the core, once its release allows; or one from another core, whose supervisor is told when
it does not land. -/
def execReplyGranuleWrite (s : State) : Out :=
  match s.act with
  | some (.replyGranuleWrite none) =>
    match s.nextReply [] s.cl.replies with
    | none => .next (if s.cl.replies.isEmpty then s else s.stall)
    | some r => .next (({ s with cl := { s.cl with replies := dropFirst r s.cl.replies } } : State).writeReply r)
  | some (.replyGranuleWrite (some r)) =>
    .next (if !s.transferOk r.world r.sealOk then s.transferFails r.world (r.cluster.val * 2 ^ 58 + r.off)
      else if s.replyLands r.cluster r.world r.off && r.off % 16 == 0 then s.putReply r.cluster r.off r.lo r.hi r.scope
      else s)
  | _ => .fault .noSuchEvent

/-! ### Tows (R306)

A change of a descriptor is an acq-rel action at package scope: it waits for the slot's writes and drops the world's lines. -/

/-- tjoin and tjoin.h. -/
def execTjoin (o : ROp) (s : State) : Out :=
  finish o.hdr (fun s => do
    let t ← towArg s o.oa
    let home := o.md.sub == 1
    let ja : BitVec 16 := s.sl.tjn.extractLsb' 0 16
    let jb : BitVec 16 := s.sl.tjn.extractLsb' 16 16
    guardR s (t != 0 && !s.sl.belongs t && (if home then s.sl.tow == 0 else ja == 0 || jb == 0)) cPROT 20 0
    releaseWait s 3
    let k ← towReach s t { r := true, w := true }
    let s := (s.memberUp (some k)).dropWorld s.world
    .ok (s.modCur fun sl =>
      if home then { sl with tow := t }
      else if ja == 0 then { sl with tjn := sl.tjn ||| t.setWidth 64 }
      else { sl with tjn := sl.tjn ||| (t.setWidth 64 <<< 16) })) s

/-- The tow leaves TJN, or is no home tow any more. -/
def Slot.leave (sl : Slot) (t : BitVec 16) : Slot :=
  if sl.tjn.extractLsb' 0 16 == t then { sl with tjn := sl.tjn &&& 0xFFFFFFFFFFFF0000 }
  else if sl.tjn.extractLsb' 16 16 == t then { sl with tjn := sl.tjn &&& 0xFFFFFFFF0000FFFF }
  else { sl with tow := 0 }

def execTleave (o : ROp) (s : State) : Out :=
  finish o.hdr (fun s => do
    let t ← towArg s o.oa
    guardR s (s.sl.belongs t) cPROT 14 0
    releaseWait s 3
    let k ← towReach s t { r := true, w := true }
    .ok (((s.modCur (·.leave t)).towDecr s.world t k).dropWorld s.world)) s

/-- The field of a descriptor that tqry names: offset and size. -/
def tqryField (sub : Nat) : Nat × Nat :=
  match sub with
  | 0 => (0, 4)
  | 1 => (0x10, 4)
  | 2 => (0x0C, 4)
  | 3 => (8, 4)
  | 4 => (0x28, 8)
  | 5 => (0x20, 8)
  | _ => (4, 4)

/-- A field as tqry gives it: the reserved bits of FLAGS are ignored (R288). -/
def tqryMask (sub v : Nat) : Nat := if sub == 6 then v % 64 else v

def execTqry (o : ROp) (s : State) : Out :=
  finish o.hdr (fun s => do
    let t ← towArg s o.oa
    let t := if t = 0 then s.sl.tow else t
    guardR s (t != 0) cPROT 14 0
    let sub := o.md.sub.toNat
    if sub == 7 then .ok (s.wx o.od s.sl.tjn)
    else if sub == 8 then .ok (s.wx o.od (s.sl.tow.setWidth 64))
    else do
      let k ← towReach s t { r := true }
      let f := tqryField sub
      .ok (s.wx o.od (BitVec.ofNat 64 (tqryMask sub (s.towNat k f.1 f.2))))) s

def execPrio (o : RIOp) (s : State) : Out :=
  finish (riHdr o) (fun s =>
    let p := max ((riAorImm s o).toNat % 4) (s.pflr s.world)
    .ok (s.wx 13 ((s.sl.rx 13 &&& ~~~0x30000) ||| BitVec.ofNat 64 (p * 2 ^ 16)))) s

/-- The home tow's descriptor. -/
def homeReach (s : State) (need : Need) : R Nat := do
  guardR s (s.sl.tow != 0) cPROT 14 0
  towReach s s.sl.tow need

/-- The slot's copy of the clock. -/
def State.setClk (s : State) (v : Nat) : State := s.modCur fun sl => { sl with clk := BitVec.ofNat 32 (v / 16 * 16) }

def execRclk (o : ROp) (s : State) : Out :=
  finish o.hdr (fun s => do
    let k ← homeReach s { r := true }
    let v := s.towNat k 8 4
    .ok ((s.wx o.od (BitVec.ofNat 64 v)).setClk v)) s

def execRcadv (o : RIOp) (s : State) : Out :=
  finish (riHdr o) (fun s => do
    let k ← homeReach s { r := true, w := true }
    let v := max (s.towNat k 8 4) ((riAorImm s o).toNat % 2 ^ 32)
    .ok ((s.towSet k 8 4 v).setClk v)) s

end Sys2Proof.Machine
end

