-- ==== Sys2Proof/Machine/System.lean ====
section
/-!
DEFINITION. The system group (R362-R369), the system registers (R429-R431) and the events around slot 15.
-/

namespace Sys2Proof.Machine

/-! ### trap and ebrk (R363) -/

def execTrap (o : XOp) (s : State) : Out := .next (s.takeTrap ⟨cSWI, o.imm.toNat, 0⟩)
def execEbrk (o : XOp) (s : State) : Out := .next (s.takeTrap ⟨cBRK, o.imm.toNat, 0⟩)

/-! ### System registers (R430, R431) -/

/-- The per-slot registers, except TSW. -/
def State.slotReg (s : State) (i : SlotId) (n : Nat) : Word :=
  let sl := s.slot i
  match n with
  | 0x000 => BitVec.ofNat 64 i.val
  | 0x001 => BitVec.ofNat 64 sl.world.val
  | 0x008 => sl.fmode
  | 0x009 => sl.fstat
  | 0x00A => if s.mat.holder = some i then s.mat.fp4xa.setWidth 64 else 0x8000
  | 0x00B => if s.mat.holder = some i then s.mat.fp4xb.setWidth 64 else 0x8000
  | 0x00C => s.mstat i
  | 0x010 => sl.cmwin
  | 0x011 => sl.smwin
  | 0x012 => capCursor sl.savecap
  | 0x013 => sl.tjn
  | 0x020 => sl.tslice.setWidth 64
  | 0x021 => sl.wlim.setWidth 64
  | _ => 0

/-- TRQST (R359). -/
def State.trqst (s : State) : Word :=
  BitVec.ofNat 64 (s.lost.toNat * 2 ^ 32 + holdCount s.hold * 2 ^ 5 + s.trapQ.length)

/-- CTCX as gsr reads it: in slots 0-14 only the bit of the slot's world. -/
def State.ctcxSeen (s : State) : Word :=
  if s.cur = 15 then s.ctcx.setWidth 64 else (s.ctcx &&& ((1 : BitVec 16) <<< s.world.val)).setWidth 64

/-- The registers of the core, the cluster, the module and the world. -/
def State.sharedReg (s : State) (n : Nat) : Word :=
  let w := s.wst s.world
  match n with
  | 0x040 => BitVec.ofNat 64 s.core.val
  | 0x041 => s.ctcxSeen
  | 0x042 => s.svec
  | 0x044 => s.frec[0]
  | 0x045 => s.frec[1]
  | 0x046 => s.frec[2]
  | 0x047 => s.frec[3]
  | 0x048 => s.trqst
  | 0x080 => BitVec.ofNat 64 s.cluster.val
  | 0x081 => s.bmode[s.cluster]
  | 0x084 => s.cl.smap[0]
  | 0x085 => s.cl.smap[1]
  | 0x086 => s.cl.smap[2]
  | 0x087 => s.cl.smap[3]
  | 0x088 => s.cl.expsrc
  | 0x089 => s.cl.expdst
  | 0x08A => s.cl.expctl
  | 0x08B => s.cl.expst
  | 0x0C0 => BitVec.ofNat 64 s.die
  | 0x0C1 => s.device.setWidth 64
  | 0x100 => w.sctr
  | 0x101 => w.wseal
  | 0x102 => w.rvmap
  | 0x103 => w.rvrng
  | _ => 0

/-- TSW of a slot's home tow, read in one access for the slot's world. -/
def readTsw (s : State) (i : SlotId) : R Word :=
  if (s.slot i).tow = 0 then .ok 0
  else match towReach (s.onSlot i) (s.slot i).tow { r := true } with
    | .ok k => .ok (BitVec.ofNat 64 (s.towNat k 0x30 8))
    | .error (e, t) => .error (e, t.onSlot s.cur)

/-- A system register as gsr reads it. -/
def readSys (s : State) (n : Nat) : R Word :=
  if n == 0x022 then readTsw s s.cur else .ok (if n < 0x40 then s.slotReg s.cur n else s.sharedReg n)

def execGsr (o : IOp) (s : State) : Out :=
  finish o.hdr (fun s => do
    let v ← readSys s (o.imm.toNat % 4096)
    .ok (s.wx o.od v)) s

/-- FP4XA and FP4XB belong to the slot that holds the matrix unit (R56). -/
def State.setFp4 (s : State) (i : SlotId) (b : Bool) (v : Word) : State :=
  if s.mat.holder = some i then
    { s with mat := if b then { s.mat with fp4xb := v.extractLsb' 0 16 } else { s.mat with fp4xa := v.extractLsb' 0 16 } }
  else s

/-- A write of a per-slot register that the supervisor may write; other writes have no effect. -/
def State.setSlotReg (s : State) (i : SlotId) (n : Nat) (v : Word) : State :=
  match n with
  | 0x008 => s.modSlot i fun sl => { sl with fmode := fmodeOf v }
  | 0x009 => s.modSlot i fun sl => { sl with fstat := v &&& 0x1F }
  | 0x00A => s.setFp4 i false v
  | 0x00B => s.setFp4 i true v
  | 0x020 => s.modSlot i fun sl => { sl with tslice := v.extractLsb' 0 32 }
  | 0x021 => s.modSlot i fun sl => { sl with wlim := v.extractLsb' 0 32 }
  | _ => s

/-- Registers written only at bind or by firmware (R364). -/
def sysBound (n : Nat) : Bool :=
  n == 0x00C || n == 0x010 || n == 0x011 || n == 0x012 || n == 0x013 || n == 0x100 || n == 0x101

/-! ### Export and import start here (R349) -/

/-- The region of EXPSRC: whole lines in scratch or scale banks. -/
def State.expRegionOk (s : State) (src : Word) : Bool :=
  let b := winBaseOf src
  let l := winLimitOf src
  b % 128 == 0 && l % 128 == 0 && b < l && l ≤ 2 ^ 22 &&
    (List.range 32).all fun k => !(k * 2 ^ 17 < l && b < (k + 1) * 2 ^ 17) ||
      s.bankMode s.cluster k == 0 || s.bankMode s.cluster k == 3

/-- Why an operation is refused: the status, or 0. -/
def State.expRefused (s : State) (w : World) (op : BitVec 2) (port : HostPort) : Nat :=
  let x := s.wst w
  if x.expBusy || s.cl.exp.isSome then 6
  else if x.wseal.getLsbD 1 then 8
  else if !x.wseal.getLsbD 0 || w == 0 || !s.expRegionOk s.cl.expsrc || s.cl.expdst.toNat % 4096 != 0 ||
      x.sctr == BitVec.allOnes 64 || (op == 3 && x.sctr != 0) then 7
  else if !s.portUp port then 5
  else 0

/-- The bits of EXPCTL that a write keeps. -/
def expctlOf (v : Word) : Word := v &&& 0x0FFF007F

/-- A write of EXPCTL. -/
def State.expWrite (s : State) (v : Word) : State :=
  let s := { s with cl := { s.cl with expctl := expctlOf v } }
  let op : BitVec 2 := v.extractLsb' 4 2
  let w : World := (v.extractLsb' 0 4).toFin
  let port := portOfBit (v.getLsbD 6)
  if op = 0 then s
  else match s.expRefused w op port with
    | 0 =>
      let s := s.modWorld w fun x => { x with expBusy := true, sctr := if op = 1 then x.sctr + 1 else x.sctr }
      let e : ExpOp := ⟨op, w, port, v.extractLsb' 16 8, v.extractLsb' 24 4, s.cl.expsrc, s.cl.expdst, 0, none⟩
      ({ s with cl := { s.cl with expst := 1, exp := some e } } : State).post
        (if op = 1 then .exportImage else if op = 2 then .importImage else .migrationImport)
    | c => ({ s with cl := { s.cl with expst := BitVec.ofNat 64 c } } : State).engineSignal 15 (v.extractLsb' 16 8)
        (v.extractLsb' 24 4) s.sl.pc s.insn

/-! ### ssr (R364) -/

/-- EXPSRC, like CMWIN. -/
def windowBits (v : Word) : Word := v &&& 0x007FFFFF007FFFFF

/-- A write by ssr of a register that is not per slot. -/
def State.setShared (s : State) (n : Nat) (v : Word) : State :=
  match n with
  | 0x041 => { s with ctcx := v.extractLsb' 0 16 }
  | 0x042 => { s with svec := v &&& ~~~3 }
  | 0x084 => { s with cl := { s.cl with smap := s.cl.smap.set 0 v } }
  | 0x085 => { s with cl := { s.cl with smap := s.cl.smap.set 1 v } }
  | 0x086 => { s with cl := { s.cl with smap := s.cl.smap.set 2 v } }
  | 0x087 => { s with cl := { s.cl with smap := s.cl.smap.set 3 v } }
  | 0x088 => { s with cl := { s.cl with expsrc := windowBits v } }
  | 0x089 => { s with cl := { s.cl with expdst := v } }
  | 0x08A => s.expWrite v
  | _ => s

/-- A write of FP4XA or FP4XB comes after the product that the unit runs for the slot. -/
def fp4Idle (s : State) (i : SlotId) (n : Nat) : R Unit :=
  if (n == 0x00A || n == 0x00B) && s.mat.holder == some i && s.mat.busy.isSome then .error (.spin, s) else .ok ()

/-- ssr is a release at cluster scope where it writes a register of the cluster. -/
def execSsr (o : IOp) (s : State) : Out :=
  finish o.hdr (fun s => do
    let n := o.imm.toNat % 4096
    let v := s.rx o.oa
    guardR s (!sysBound n) cPROT 26 0
    fp4Idle s s.cur n
    if n < 0x40 then .ok (s.setSlotReg s.cur n v)
    else do
      if 0x080 ≤ n then releaseWait s 1
      .ok (s.setShared n v)) s

/-- ssr of FREC0 clears all four (R360). -/
def execFrec0Rearm (o : IOp) (s : State) : Out :=
  finish o.hdr (fun s => .ok { s with frec := Vector.replicate 4 0 }) s

/-- ssr of TRQST: a write of 0 clears LOST (R359). -/
def execTrqstClear (o : IOp) (s : State) : Out :=
  finish o.hdr (fun s => .ok (if s.rx o.oa = 0 then { s with lost := 0 } else s)) s

/-! ### BMODE (R194) -/

/-- Bank `b` lies wholly or partly in the window of a bound slot 0-14 of this core. -/
def State.bankHeld (s : State) (b : Nat) : Bool :=
  allSlots.any fun i => i != 15 && (s.slot i).status != .free &&
    b * 2 ^ 17 < winLimitOf (s.slot i).cmwin && winBaseOf (s.slot i).cmwin < (b + 1) * 2 ^ 17

/-- A FIFO bank that holds granules, or on which an access of this core waits. -/
def State.fifoBusy (s : State) (b : Nat) : Bool :=
  let ix := s.cluster.val * 32 + b
  !(s.fifo ix).isEmpty || s.waiters.any (fun w => kindFifo w.kind && fifoIx w.obj == ix)

/-- A bank that the new modes take out of scratch, scale or FIFO mode. -/
def State.bankLeaves (s : State) (v : Word) (b : Nat) : Bool :=
  s.bankMode s.cluster b != 1 && v.toNat / 2 ^ (2 * b) % 4 != s.bankMode s.cluster b

/-- A bank that the new modes change in a way that is refused. -/
def State.bankRefuses (s : State) (v : Word) (b : Nat) : Bool :=
  s.bankLeaves v b && (s.bankHeld b || (s.bankMode s.cluster b == 2 && s.fifoBusy b))

/-- A bank enters its new mode. -/
def State.enterMode (s : State) (v : Word) (b : Nat) : State :=
  let old := s.bankMode s.cluster b
  let new := v.toNat / 2 ^ (2 * b) % 4
  if new == old || !(new == 0 || new == 3) then s
  else
    let k := clKey s.cluster.val (b * 2 ^ 17)
    let s := s.zeroRange k (2 ^ 17)
    let s := { s with full := s.full.filter fun g => !(k / 16 ≤ g && g < k / 16 + 8192) }
    s.testAwait fun e => e.kind == .empty && fifoIx e.obj == s.cluster.val * 32 + b

/-- A write of BMODE: refused whole, or performed for every bank. Nothing constrains whether the slots of the cluster's other cores
hold a bank that it changes. DESIGN CHOICE, safe: log 48. -/
def State.writeBmode (s : State) (v : Word) : State :=
  let t := { s with freeCtr := s.freeCtr + 1 }
  if (List.range 32).any (s.bankRefuses v) then s
  else if (List.range 32).any (s.bankLeaves v) && Config.freeBit s.freeCtr then t
  else
    let s := t
    let s := (List.range 32).foldl (fun s b => s.enterMode v b) s
    (({ s with bmode := s.bmode.set s.cluster v } : State).dropBanks).post .bankModeSwitchComplete

def execBmodeWrite (o : IOp) (s : State) : Out :=
  finish o.hdr (fun s => do
    releaseWait s 1
    .ok (s.writeBmode (s.rx o.oa))) s

/-- BANK_MODE_SWITCH_COMPLETE: accesses that waited for the change, an interlock, go on. -/
def execBankModeSwitchComplete (s : State) : Out :=
  match s.act with
  | some .bankModeSwitchComplete => .next s.unstall
  | _ => .fault .noSuchEvent

/-! ### Records (R359, R365) -/

/-- The records that have waited enter the queue, in the order in which they were produced. -/
def State.drainHold (s : State) : List (Option SlotId × TrapRec) → State
  | [] => s
  | h :: hs =>
    if s.trapQ.length < 16 then State.drainHold { s.wakeSup with trapQ := s.trapQ ++ [h.2], hold := hs } hs else s

/-- TRAP_RECORD_ENQUEUE. -/
def execTrapRecordEnqueue (s : State) : Out :=
  match s.act with
  | some .trapRecordEnqueue => .next (s.drainHold s.hold)
  | _ => .fault .noSuchEvent

def execTrq (o : ROp) (s : State) : Out :=
  finish o.hdr (fun s =>
    let r := s.trapQ.headD TrapRec.zero
    let s := ((((s.wx o.od r.w0).wx (o.od + 1) r.w1).wx (o.od + 2) r.w2).wx (o.od + 3) r.w3)
    .ok (({ s with trapQ := s.trapQ.tail } : State).post .trapRecordEnqueue)) s

/-- wfs: at once when a record is queued or the timeout has elapsed; else slot 15 parks and completes here later. -/
def execWfs (o : ROp) (s : State) : Out :=
  if s.trapQ.isEmpty && s.sl.wake == 0 then
    .next (s.modCur fun sl => { sl with status := .parked .wfs, begun := true, parkTmo := s.rx o.oa })
  else
    finish o.hdr (fun s =>
      let v := (if s.trapQ.isEmpty then 0 else 1) + 2 * (s.sl.wake.toNat % 2)
      .ok ((s.wx o.od (BitVec.ofNat 64 v)).modCur fun sl => { sl with wake := 0, parkTmo := 0 })) s

/-- WFS_TIMEOUT. -/
def execWfsTimeout (s : State) : Out :=
  match s.act with
  | some .wfsTimeout =>
    if (s.slot 15).status = .parked .wfs ∧ (s.slot 15).parkTmo ≠ 0 then
      .next (s.modSlot 15 fun sl => { sl with status := .ready, wake := 1 })
    else .next s
  | _ => .fault .noSuchEvent

/-! ### The target of a supervisor instruction (R362) -/

/-- The slot that x(OA) names. -/
def targetSlot (s : State) (r : BitVec 6) : R SlotId := do
  guardR s ((s.rx r).toNat < 15) cPROT 18 0
  .ok (Fin.ofNat 16 (s.rx r).toNat)

/-- Parked by a trap or by suspk. -/
def Slot.stoppedHere (sl : Slot) : Bool := sl.status == .parked .trap || sl.status == .parked .suspk

/-- Parked by a trap with WSEC, which sret cannot end. -/
def Slot.wsecHeld (sl : Slot) : Bool :=
  match sl.trapRec with
  | some r => r.w0.toNat % 64 == cWSEC
  | none => false

/-! ### sret (R366) -/

/-- A stopped slot goes on: its instruction is fetched again. DEDUCED, unsafe: log 65. -/
def State.resume (s : State) (i : SlotId) (f : Slot → Slot) : State :=
  let s := (s.withdraw i).modSlot i fun sl =>
    let sl := f sl
    { sl.unparked with status := .ready, begun := false, held := none, taken := none,
                       rep := sl.rep.map fun r => { r with trapped := false, passed := false } }
  if (s.slot i).rep.isSome then s.post (.repetitionPass i) else s

/-- sret of the modes 0 to 2, a release at core scope over slot 15's accesses (R370). -/
def sretBody (o : ROp) (f : Slot → Slot) (s : State) : R State := do
  let i ← targetSlot s o.oa
  let sl := s.slot i
  guardR s (sl.stoppedHere && !sl.wsecHeld) cPROT 27 0
  releaseWait s 1
  .ok (s.resume i f)

def execSretRetry (o : ROp) (s : State) : Out := finish o.hdr (sretBody o id) s

/-- The trap came from the repetition block. -/
def Slot.repTrapped (sl : Slot) : Bool := sl.rep.any (·.trapped)

def execSretSkip (o : ROp) (s : State) : Out :=
  finish o.hdr (sretBody o fun sl =>
    if sl.repTrapped then { sl with rep := sl.rep.map fun r => { r with skip := !r.passed } }
    else { sl with startChecks := false, pcc := capMoveCursor sl.pcc (sl.pc + 12), wake := 0 }) s

def execSretPc (o : ROp) (s : State) : Out :=
  finish o.hdr (sretBody o fun sl => { sl with startChecks := false, pcc := s.rc o.ob, wake := 0 }.mended 2 0) s

def execSretWake (o : ROp) (s : State) : Out :=
  finish o.hdr (fun s => do
    let i ← targetSlot s o.oa
    releaseWait s 1
    .ok (s.unpark i 2)) s

/-! ### rdpk and wrpk (R367) -/

/-- A register selector. -/
structure Sel where
  file : Nat
  part : Nat
  index : Nat
  num : Nat
deriving DecidableEq, Repr

/-- Per-slot system registers that R430 assigns. -/
def slotRegNumbers : List Nat := [0x000, 0x001, 0x008, 0x009, 0x00A, 0x00B, 0x00C, 0x010, 0x011, 0x012, 0x013, 0x020, 0x021, 0x022]

/-- The selector in a word, unless it is malformed. -/
def selOf (v : Word) (capForm write : Bool) : Option Sel :=
  let x : Sel := ⟨(v.extractLsb' 12 4).toNat, (v.extractLsb' 8 4).toNat, (v.extractLsb' 0 6).toNat,
    (v.extractLsb' 16 12).toNat⟩
  let ok := (v.extractLsb' 28 36) == 0 && (v.extractLsb' 6 2) == 0 && x.file < 8 &&
    capForm == (x.file == 1 || x.file == 2) && !(write && x.file == 7) && (x.file == 6 || x.num == 0) &&
    match x.file with
    | 0 | 1 => x.index < 32 && x.part == 0
    | 4 => x.index < 8 && x.part < 2
    | 5 => true
    | 6 => slotRegNumbers.contains x.num && x.index == 0 && x.part == 0
    | _ => x.index == 0 && x.part == 0
  if ok then some x else none

/-- The target and the selector of rdpk and wrpk. DEDUCED, unsafe: log 26. -/
def pkArgs (s : State) (o : ROp) (write : Bool) : R (SlotId × Sel) := do
  let i ← targetSlot s o.oa
  guardR s (s.slot i).stoppedHere cPROT 27 0
  match selOf (s.rx o.ob) (o.md.sub == 1) write with
  | none => raise s cPROT 28 0
  | some x => .ok (i, x)

/-- A selector names v60-v63 while the port in its place is bound: the register's own contents are neither readable nor
written (R103). -/
def Slot.selPort (sl : Slot) (x : Sel) : Bool := x.file == 5 && 60 ≤ x.index && (sl.ports.get (Fin.ofNat 4 (x.index - 60))).bound

/-- A register of a stopped slot, but for TSW. -/
def State.readPk (s : State) (i : SlotId) (x : Sel) : Word :=
  let sl := s.slot i
  let ix := BitVec.ofNat 6 x.index
  match x.file with
  | 0 => sl.rx ix
  | 3 => sl.preds.setWidth 64
  | 4 => (sl.rk ix).extractLsb' (64 * x.part) 64
  | 5 => (sl.rv ix).extractLsb' (64 * x.part) 64
  | 6 => s.slotReg i x.num
  | _ => sl.trapWord.setWidth 64

/-- The register of a stopped slot that a selector names, when it is bad: the index of a predicate is that of the first
bad one (R380). -/
def Slot.selBad (sl : Slot) (x : Sel) : Option Fail :=
  if x.file == 3 then (sl.bad.find? (·.1 == 3)).map fun p => ⟨cREGERR, 3 + 16 * p.2, 0⟩
  else if !sl.selPort x && (x.index != 0 || x.file == 2 || x.file == 5) && x.file != 6 && x.file != 7 && sl.bad.contains (x.file, x.index) then
    some ⟨cREGERR, x.file + 16 * x.index, 0⟩
  else none

/-- rdpk (R367): while its port is bound, v60-v63 read as a free value. DESIGN CHOICE, safe: log 72. -/
def execRdpk (o : ROp) (s : State) : Out :=
  finish o.hdr (fun s => do
    let (i, x) ← pkArgs s o false
    check s ((s.slot i).selBad x)
    if o.md.sub == 1 then
      let sl := s.slot i
      .ok (s.wc o.od (if x.file == 2 then sl.pcc else sl.rc (BitVec.ofNat 6 x.index)))
    else if (s.slot i).selPort x then .ok (s.takeFree.2.wx o.od s.takeFree.1)
    else if x.file == 6 && x.num == 0x022 then do
      let v ← readTsw s i
      .ok (s.wx o.od v)
    else .ok (s.wx o.od (s.readPk i x))) s

/-- A dword of a wider register. -/
def setDword {n : Nat} (v : BitVec n) (part : Nat) (w : Word) : BitVec n :=
  (v &&& ~~~((BitVec.allOnes 64).setWidth n <<< (64 * part))) ||| (w.setWidth n <<< (64 * part))

/-- Write a register of a stopped slot. -/
def State.writePk (s : State) (i : SlotId) (x : Sel) (v : Word) : State :=
  let ix := BitVec.ofNat 6 x.index
  match x.file with
  | 0 => s.modSlot i (·.wx ix v)
  | 3 => s.modSlot i fun sl => { sl with p := v.extractLsb' 0 8 ||| 1, bad := sl.bad.filter (·.1 != 3) }
  | 4 => s.modSlot i fun sl => sl.wk ix (setDword (sl.rk ix) x.part v)
  | 5 => s.modSlot i fun sl => sl.wv ix (setDword (sl.rv ix) x.part v)
  | 6 => s.setSlotReg i x.num v
  | _ => s

/-- Write a c register or pcc of a stopped slot: only c0 discards it. -/
def State.writePkCap (s : State) (i : SlotId) (x : Sel) (c : Cap) : State :=
  if x.file == 2 then s.modSlot i fun sl => { sl with pcc := c, wake := 0 }.mended 2 0
  else if x.index == 0 then s
  else s.modSlot i fun sl => { sl with c := sl.c.set (Fin.ofNat 32 x.index) c }.mended 1 x.index

def execWrpk (o : ROp) (s : State) : Out :=
  finish o.hdr (fun s => do
    let (i, x) ← pkArgs s o true
    if o.md.sub == 1 then .ok (s.writePkCap i x (s.rc o.oc))
    else do
      guardR s (!(x.file == 6 && sysBound x.num)) cPROT 26 0
      fp4Idle s i (if x.file == 6 then x.num else 0)
      .ok (if (s.slot i).selPort x then s else s.writePk i x (s.rx o.oc))) s

/-! ### suspk (R368) -/

/-- The code of a slot's state. -/
def Slot.stateCode (sl : Slot) : Nat :=
  match sl.status with
  | .free => 0
  | .ready => if sl.blockWait.isSome then 2 else 1
  | .waiting _ _ => 2
  | .parked _ => 3
  | .away _ => 4

/-- A slot is parked for the supervisor: waits are left with nothing taken, and both ports stop. An event that has ended a park
already stands (R371). -/
def State.parkSlot (s : State) (i : SlotId) : State :=
  let s := s.filterAway.goHome i
  let sl := s.slot i
  let s := ((s.giveBack sl.taken).giveBack (sl.rep.bind (·.taken))).leaveQueue (.slot i)
  (s.leaveQueue (.rep i)).modSlot i fun sl =>
    { sl with status := .parked .suspk, begun := false, held := none, taken := none, trapWord := 0,
              rep := sl.rep.map fun r => { r with wait := none, taken := none } }

/-- suspk: a slot whose restore has not ended parks when it ends. DEDUCED, safe: log 27. -/
def execSuspk (o : ROp) (s : State) : Out :=
  finish o.hdr (fun s => do
    let i ← targetSlot s o.oa
    let sl := s.slot i
    let found := sl.suspAsk.getD (BitVec.ofNat 3 sl.stateCode)
    if sl.restoring != .none then .error (.spin, s.modSlot i fun sl => { sl with suspAsk := some found })
    else
      let s' := match sl.status with
        | .free | .parked .trap | .parked .suspk | .parked .wfs => s
        | _ => s.parkSlot i
      .ok ((s'.modSlot i fun sl => { sl with suspAsk := none }).wx o.od (found.setWidth 64))) s

def execSuspkQ (o : ROp) (s : State) : Out :=
  finish o.hdr (fun s => do
    let i ← targetSlot s o.oa
    let sl := s.slot i
    if sl.status = .free then .ok (s.wx o.od 0)
    else if !s.suspendsNow i then .error (.spin, s.askImage i)
    else .ok ((s.preemptSlot i).wx o.od (BitVec.ofNat 64 sl.stateCode))) s

/-! ### hint (R369) -/

/-- DEDUCED, safe: log 25. -/
def execHint (o : XOp) (s : State) : Out :=
  finish o.hdr (fun s =>
    .ok (if o.sub == 1 && o.imm != 0 && s.cur == 15 && s.trapQ.isEmpty then { s with yielding := true } else s)) s

/-- HINT_YIELD_END. -/
def execHintYieldEnd (s : State) : Out :=
  match s.act with
  | some .hintYieldEnd => .next { s with yielding := false }
  | _ => .fault .noSuchEvent

/-! ### The debugger (R313) -/

def execDebuggerHalt (s : State) : Out :=
  match s.act with
  | some (.debuggerHalt i) => .next (s.modSlot i fun sl => { sl with dbgHalt := true })
  | _ => .fault .noSuchEvent

def execDebuggerResume (s : State) : Out :=
  match s.act with
  | some (.debuggerResume i) =>
    let t := s.modSlot i fun sl => { sl with dbgHalt := false }
    .next (if (s.slot i).rep.isSome then t.post (.repetitionPass i) else t)
  | _ => .fault .noSuchEvent

/-! ### SUPERVISOR_START (R361) -/

/-- A root of a world (R328). -/
def rootCap (w : World) (ix : Nat) : Cap :=
  let wb := BitVec.ofNat 4 w.val
  match ix with
  | 0 => capMake (pR ||| pW ||| pCL ||| pCW ||| pLOCAL ||| pGLOBAL) wb 0 false 39 0 0x20000 0
  | 1 => capMake (pR ||| pX ||| pCL ||| pGLOBAL) wb 0 false 39 0 0x20000 0
  | 2 => capMake (pSEAL ||| pUNSEAL ||| pGLOBAL) wb 0 false 0 3 13 3
  | 3 => capMake (pFRAME ||| pGLOBAL) wb 0 false 39 0 0x20000 0
  | 4 => capMake (pSYS ||| pGLOBAL) wb 0 false 39 0 0x20000 0
  | _ =>
    if ix < 8 then Cap.null
    else
      let b := (ix - 8) * 2 ^ 58
      capMake (pR ||| pW ||| pCL ||| pCW ||| pLOCAL ||| pFIFO ||| pGLOBAL) wb 0 true 5 (b / 2 ^ 5 % 2 ^ 19) 0x20000
        (BitVec.ofNat 64 b)

/-- Slot 15 as it starts. -/
def Slot.supervisor (s : State) : Slot :=
  { Slot.reset15 with
    pcc := capMoveCursor (rootCap 0 1) s.svec,
    c := (((((Vector.replicate 32 Cap.null).set 1 (rootCap 0 0)).set 2 (rootCap 0 2)).set 3 (rootCap 0 3)).set 4
      (rootCap 0 4)).set 5 (rootCap 0 (8 + s.cluster.val)),
    fmode := if s.ctcx.getLsbD 0 then 0x900 else 0x100 }

/-- SUPERVISOR_START: Torud has written SVEC and sets the start bit of the core. -/
def execSupervisorStart (s : State) : Out :=
  match s.act with
  | some (.supervisorStart v) =>
    if s.supStarted then .next s
    else
      let s := { s with svec := v &&& ~~~3 }
      .next { s with supStarted := true, slots := s.slots.set 15 (Slot.supervisor s) }
  | _ => .fault .noSuchEvent

end Sys2Proof.Machine
end

