-- ==== Sys2Proof/Machine/Transform.lean ====
section
/-!
DEFINITION. The transform coprocessor (R178-R186): its port, its checks and what a request computes.
-/

namespace Sys2Proof.Machine

/-! ### Requests -/

def xExp : BitVec 2 := 0
def xCmp : BitVec 2 := 1
def xQuant : BitVec 2 := 2
def xConv : BitVec 2 := 3

/-- The format of an element format code (R172). -/
def efFmt (ef : Nat) : Fmt :=
  match ef with
  | 1 => .f32
  | 2 => .bf16
  | 3 => .f16
  | 4 => .e4m3
  | 5 => .e5m2
  | 6 => .f4
  | 7 => .t8
  | 8 => .t6
  | 9 => .int true 8
  | _ => .int true 4

namespace Xreq

def n (q : Xreq) : Nat := (q.len.extractLsb' 0 32).toNat
def wid (q : Xreq) : Nat := (q.len.extractLsb' 32 2).toNat
def bg (q : Xreq) : Nat := (q.len.extractLsb' 34 2).toNat
def srcEF (q : Xreq) : Nat := q.md.sub.toNat
def dstEF (q : Xreq) : Nat := q.md.isp.toNat
def expands (q : Xreq) : Bool := q.op = xExp || q.op = xCmp
/-- Bits of an element at the source and at the destination. -/
def srcBits (q : Xreq) : Nat := if q.expands then 4 * 2 ^ q.wid else efBits q.srcEF
def dstBits (q : Xreq) : Nat := if q.expands then 4 * 2 ^ q.wid else efBits q.dstEF

/-- Footprints in bytes (R181): of the elements at each side, and of the third operand. -/
def foot (n w : Nat) : Nat := (n * w + 127) / 128 * 16
def srcLen (q : Xreq) : Nat := foot q.n q.srcBits
def dstLen (q : Xreq) : Nat := foot q.n q.dstBits
def sclLen (q : Xreq) : Nat :=
  if q.expands then (q.n + 127) / 128 * 16
  else if q.op = xQuant then ((q.n + bgElems q.bg - 1) / bgElems q.bg + 15) / 16 * 16
  else 0

/-- The operands in the order OA, OB, OC: capability, length and permission. -/
def operands (q : Xreq) : List (Cap × Nat × BitVec 12) :=
  [(q.dst, q.dstLen, pW), (q.src, q.srcLen, pR)] ++
    if q.op = xConv then [] else [(q.scl, q.sclLen, if q.op = xCmp then pW else pR)]

/-- XCFG aux 1. -/
def paramOk (q : Xreq) : Bool :=
  q.len.extractLsb' 36 28 == 0 && 1 ≤ q.n && q.n ≤ 65536 && (if q.op = xQuant then q.bg != 0 else q.bg == 0) &&
    (q.expands || q.wid == 0)
/-- XCFG aux 2. -/
def efOk (q : Xreq) : Bool :=
  if q.op = xQuant then 1 ≤ q.srcEF && q.srcEF ≤ 3 && 4 ≤ q.dstEF && q.dstEF ≤ 10
  else if q.op = xConv then 1 ≤ q.srcEF && q.srcEF ≤ 10 && 1 ≤ q.dstEF && q.dstEF ≤ 10 && q.srcEF != q.dstEF
  else true
/-- XCFG aux 6. -/
def countOk (q : Xreq) : Bool :=
  q.expands || (!(q.srcEF == 8 || q.dstEF == 8) || q.n % 4 == 0) &&
    (!(efBits q.srcEF == 4 || efBits q.dstEF == 4) || q.n % 2 == 0)

end Xreq

/-- Two ranges of cluster-local addresses meet. -/
def rangesMeet (a : Cap × Nat × BitVec 12) (b : Cap × Nat × BitVec 12) : Bool :=
  (capCursor a.1).toNat < (capCursor b.1).toNat + b.2.1 && (capCursor b.1).toNat < (capCursor a.1).toNat + a.2.1

/-- A capability is cluster-local to the slot's own cluster. -/
def State.ownLocal (s : State) (c : Cap) : Bool := capLocal c && (capCursor c).toNat / 2 ^ 58 == s.cluster.val

/-- A footprint lies wholly within scratch-mode banks, and not behind a FIFO permission (R193). -/
def State.scratchOnly (s : State) (c : Cap) (n : Nat) : Bool :=
  let a := (capCursor c).toNat
  !capHas c pFIFO && (List.range (bankOf (a + n - 1) - bankOf a + 1)).all fun i => s.bankMode s.cluster (bankOf a + i) == 0

/-- The checks of R182. DEDUCED, unsafe: log 39. -/
def xChecks (s : State) (q : Xreq) : R Unit := do
  let ops := q.operands
  check s (ops.findSome? fun p => capCheck s.world p.1 (capCursor p.1).toNat p.2.1 p.2.2)
  check s (ops.findSome? fun p =>
    if s.ownLocal p.1 then localCheck s.cluster.val s.sl.cmwin (capCursor p.1).toNat p.2.1 else none)
  guardR s q.paramOk cXCFG 1 0
  guardR s q.efOk cXCFG 2 0
  check s ((ops.find? fun p => !(s.ownLocal p.1 && s.scratchOnly p.1 p.2.1)).map fun p => ⟨cXCFG, 3, (capCursor p.1).toNat⟩)
  check s ((ops.find? fun p => (capCursor p.1).toNat % 16 != 0).map fun p => ⟨cXCFG, 4, (capCursor p.1).toNat⟩)
  check s ((ops.find? fun p => p.2.2 == pW && ops.any fun r => r.2.2 == pR && rangesMeet p r).map fun p =>
    ⟨cXCFG, 5, (capCursor p.1).toNat⟩)
  guardR s q.countOk cXCFG 6 0

/-! ### The port (R178, R179) -/

/-- The request of an instruction. -/
def xRequest (s : State) (o : ROp) (op : BitVec 2) : Xreq :=
  { sl := s.cur, world := s.world, op := op, dst := s.rc o.oa, src := s.rc o.ob, scl := s.rc o.oc, len := s.rx o.oe,
    md := o.md, rm := s.sl.rmCode o.md.rm, tcx := s.sl.tcx, sigSm := o.hdr.sigSm, sigInc := o.hdr.sigInc, own := true,
    pc := s.sl.pc, insn := s.insn }

def State.modCl (s : State) (f : Cluster → Cluster) : State := { s with cl := f s.cl }

/-- A request at the port: accepted, answered busy, or waiting for the entry reserved for the core. -/
def xPresent (s : State) (o : ROp) (op : BitVec 2) : R State := do
  let q := xRequest s o op
  xChecks s q
  if s.cl.xreqs.length < 4 then
    let s := s.modCl fun c => { c with xreqs := c.xreqs ++ [q], xbusy := 0, xresv := false }
    .ok ((s.wp o.od true).post .transformRequestExecute)
  else if 7 ≤ s.cl.xbusy then waitFor s .pool 0
  else .ok ((s.restoreWait.modCl fun c => { c with xbusy := c.xbusy + 1, xresv := true }).wp o.od false)

def execXexp (o : ROp) (s : State) : Out := finishHanded (xPresent · o xExp) s
def execXcmp (o : ROp) (s : State) : Out := finishHanded (xPresent · o xCmp) s
def execXquant (o : ROp) (s : State) : Out := finishHanded (xPresent · o xQuant) s
def execXconv (o : ROp) (s : State) : Out := finishHanded (xPresent · o xConv) s

/-- xpoll. -/
def execXpoll (o : ROp) (s : State) : Out :=
  finish o.hdr (fun s => .ok (s.wx o.od (BitVec.ofNat 64 (s.cl.xreqs.filter fun q => q.sl == s.cur && q.own).length))) s

/-- TRANSFORM_RESERVED_ENTRY: an entry has become free for the core; those who wait at the port present again. -/
def execTransformReservedEntry (s : State) : Out :=
  match s.act with
  | some .transformReservedEntry => .next (if s.cl.xreqs.length < 4 then s.rouseAll fun k _ => k == .pool else s)
  | _ => .fault .noSuchEvent

/-! ### What a request computes (R183) -/

/-- Elements of `w` bits of a byte string. -/
def elemsOf (w : Nat) (bs : List Byte) (n : Nat) : List Nat :=
  let v := leNat bs
  (List.range n).map fun e => v / 2 ^ (w * e) % 2 ^ w
/-- Elements packed into a footprint, zeros behind the last. -/
def packElems (w len : Nat) (es : List Nat) : List Byte := leBytes len (es.foldr (fun e n => e % 2 ^ w + 2 ^ w * n) 0)

/-- xexp: the elements whose bits are set, taken in order from the packed ones. -/
def expandElems : List Nat → List Nat → List Nat
  | [], _ => []
  | b :: bs, es => if b == 1 then es.headD 0 :: expandElems bs es.tail else 0 :: expandElems bs es

/-- A converted element. -/
def xEncode (q : Xreq) (x : Num) : Nat × Flags := (efFmt q.dstEF).encode q.tcx (Rm.ofCode q.rm.toNat) (q.md.sat == 1) x

/-- The bytes that a request writes: at its destination, and at its bitmap; with the flags. -/
def xCompute (q : Xreq) (src scl : List Byte) : List Byte × List Byte × Flags :=
  let es := elemsOf q.srcBits src q.n
  if q.op = xExp then (packElems q.dstBits q.dstLen (expandElems (elemsOf 1 scl q.n) es), [], 0)
  else if q.op = xCmp then
    (packElems q.dstBits q.dstLen (es.filter (· != 0)), packElems 1 q.sclLen (es.map fun e => if e == 0 then 0 else 1), 0)
  else
    let f := efFmt q.srcEF
    let rs := es.zipIdx.map fun p =>
      let x := f.decode q.tcx p.1
      if q.op = xConv then xEncode q x
      else
        let sc := Fmt.decode .e4m3 q.tcx (scl.getD (p.2 / bgElems q.bg) 0).toNat
        if sc.isZero then (0, 0)
        else
          let d := Num.div x sc
          let r := xEncode q d.1
          (r.1, d.2 ||| r.2)
    (packElems q.dstBits q.dstLen (rs.map (·.1)), [], rs.foldl (fun a r => a ||| r.2) 0)

/-- The sources of a request: address and length. -/
def Xreq.sources (q : Xreq) : List (Nat × Nat) := (q.operands.filter fun p => p.2.2 == pR).map fun p => ((capCursor p.1).toNat, p.2.1)

/-- An entry is free again. -/
def State.xFreed (s : State) : State :=
  let s := (s.modCl fun c => { c with xreqs := c.xreqs.tail }).unstall
  if s.cl.xresv then s.post .transformReservedEntry else s

/-- Why the oldest request does not run: a bank that has changed under it (R193), or a source that cannot be read. -/
def State.xFail (s : State) (q : Xreq) : Option Fail :=
  match q.operands.find? fun p => !s.scratchOnly p.1 p.2.1 with
  | some p => some ⟨cPROT, 8, (capCursor p.1).toNat⟩
  | none => (q.sources.findSome? fun p => s.readError q.world (locKey p.1) p.2 p.1).map fun e => ⟨cMEMERR, 3, e.2⟩

/-- The oldest request runs. -/
def State.xRun (s : State) (q : Xreq) : State :=
  match s.xFail q with
  | some f => (s.postRecOf q.world q.sl f q.pc q.insn).xFreed
  | none =>
    let rd := fun (c : Cap) (n : Nat) => s.bytes (locKey (capCursor c).toNat) n
    let r := xCompute q (rd q.src q.srcLen) (rd q.scl q.sclLen)
    let s := (s.engineWrite (locKey (capCursor q.dst).toNat) r.1).engineWrite (locKey (capCursor q.scl).toNat) r.2.1
    let s := if q.own then s.orFlags q.sl r.2.2 else s
    (s.engineSignal q.sl q.sigSm q.sigInc q.pc q.insn).xFreed

/-- TRANSFORM_REQUEST_EXECUTE. -/
def execTransformRequestExecute (s : State) : Out :=
  match s.act with
  | some .transformRequestExecute =>
    match s.cl.xreqs with
    | [] => .next s
    | q :: _ => .next (s.xRun q)
  | _ => .fault .noSuchEvent

end Sys2Proof.Machine
end

