-- ==== Sys2Proof/Machine/Engines.lean ====
section
/-!
DEFINITION. The copy engine (R177, R218-R221), exports and imports of protected contexts (R350-R352, R407), copies
of DUP lines (R251) and stores of other agents (R247).
-/

namespace Sys2Proof.Machine

/-! ### Reads of an engine -/

/-- A range of the shadow may be read through a capability: its checks, and what a walk refuses (R175). -/
def State.shadowOk (s : State) (w : World) (c : Cap) (a n : Nat) : Got Unit := do
  Held.check (capCheck w c a n pR)
  match s.globalPieces w (some s.cluster.val) { r := true } false a n with
  | .error f => .error (.fail f)
  | .ok _ => .ok ()

/-! ### A chunk of a copy (R220) -/

/-- The world of a command: that of its operands. -/
def CopyCmd.world (c : CopyCmd) : World := (capWorld c.src).toFin

/-- The hints of a command's reads and writes (R218). -/
def CopyCmd.srcHint (c : CopyCmd) : Hint := { nud := c.snud, lvl := c.slvl }
def CopyCmd.dstHint (c : CopyCmd) : Hint := { nud := c.dnud, lvl := c.dlvl }

/-- Bytes at the source and at the destination of `n` units: bytes when raw, elements when converting. -/
def CopyCmd.srcOf (c : CopyCmd) (n : Nat) : Nat := if c.raw then n else sideBytes c.sty n
def CopyCmd.dstOf (c : CopyCmd) (n : Nat) : Nat := if c.raw then n else sideBytes c.dty n

/-- The smallest step of a chunk: whole groups of t6, whole granules of a FIFO. -/
def CopyCmd.unit (c : CopyCmd) : Nat :=
  (((List.range 64).map (· + 1)).find? fun u =>
    (c.raw || !(c.sty == 14 || c.dty == 14) || u % 4 == 0) && (!capFifo c.src || c.srcOf u % 16 == 0) &&
      (!capFifo c.dst || c.dstOf u % 16 == 0)).getD 64

/-- The addresses of the next chunk; a FIFO operand keeps its own. -/
def CopyCmd.srcAt (c : CopyCmd) : Nat :=
  (operandRow c.src c.sstr c.rowsDone + if capFifo c.src then 0 else c.srcOf c.partDone) % 2 ^ 64
def CopyCmd.dstAt (c : CopyCmd) : Nat :=
  (operandRow c.dst c.dstr c.rowsDone + if capFifo c.dst then 0 else c.dstOf c.partDone) % 2 ^ 64

/-- A waiter of a kind stands before the command at a FIFO bank. -/
def State.fifoAhead (s : State) (i : SlotId) (kind : WaitKind) (a : Nat) : Bool :=
  aheadBy (fun w => w.kind == kind && fifoIx w.obj == fifoIx a) (.copy i) s.waiters

/-- The bytes that a FIFO source has for the command, and those that a FIFO destination takes. -/
def State.fifoHas (s : State) (i : SlotId) (a : Nat) : Nat :=
  if s.fifoAhead i .fpop a then 0 else 16 * (s.fifo (fifoIx a)).length
def State.fifoRoom (s : State) (i : SlotId) (a : Nat) : Nat :=
  if s.fifoAhead i .fpush a then 0 else 16 * (8192 - (s.fifo (fifoIx a)).length)

/-- The units of the next chunk: up to a 4 KiB boundary of the destination, within the row; 0 when a FIFO has no granule or
no room for one. -/
def State.chunkUnits (s : State) (i : SlotId) (c : CopyCmd) : Nat :=
  let u := c.unit
  let rem := c.len - c.partDone
  let fit := fun (cap : Nat) (of : Nat → Nat) =>
    ((List.range (rem / u)).filter fun k => of (u * (k + 1)) ≤ cap).length
  let room := max 1 (fit (if capFifo c.dst then 4096 else 4096 - c.dstAt % 4096) c.dstOf)
  let room := if capFifo c.src then min room (fit (s.fifoHas i c.srcAt) c.srcOf) else room
  let room := if capFifo c.dst then min room (fit (s.fifoRoom i c.dstAt) c.dstOf) else room
  if rem < u then (if capFifo c.src || capFifo c.dst then 0 else rem) else u * room

/-- The banks of an operand in cluster memory, as a chunk meets them (R193). -/
def State.chunkBank (s : State) (c : Cap) (a n : Nat) : Got Unit :=
  Held.check (s.engineBank (Fin.ofNat 64 (a / 2 ^ 58)) c a n true)

/-- The reader of a command: its own fibre's stores are forwarded to it (R220). -/
def CopyCmd.reader (c : CopyCmd) (i : SlotId) : Reader := ⟨i, c.fib, c.world, c.srcHint, true, (.load, 0)⟩

/-- The bytes of a chunk before the first whole granule of its destination. -/
def CopyCmd.head (c : CopyCmd) (n : Nat) : Nat := min ((16 - c.dstAt % 16) % 16) (c.dstOf n)

/-- The tag of a source granule at `g`, whose bytes are `d`. -/
def State.srcTag (s : State) (c : CopyCmd) (r : Reader) (ps : List Piece) (g : Nat) (d : List Byte) : Bool :=
  capHas c.src pCL && (ps.any fun p =>
    p.va ≤ g && g < p.va + p.len && match p.place with
      | .peer _ _ => (s.peerAns g).any fun a => a.any fun b => b.2.any (·.tag)
      | .at key _ => pieceCL p && match if keyIsCl key then none else logTag r.fib g s.sideLog with
        | some t => t
        | none => s.tagSeen c.world r.hint (key + (g - p.va)) g
      | _ => false) &&
    (s.filterCap ⟨true, BitVec.ofNat 128 (leNat d)⟩).tag

/-- The tags of the source granules that stand where whole granules of the destination do. -/
def State.srcTags (s : State) (i : SlotId) (c : CopyCmd) (n : Nat) (ps : List Piece) (bs : List Byte) : List Bool :=
  let o := c.head n
  if !c.raw || c.srcAt % 16 != c.dstAt % 16 then []
  else (List.range ((bs.length - o) / 16)).map fun g =>
    s.srcTag c (c.reader i) ps (c.srcAt + o + 16 * g) ((bs.drop (o + 16 * g)).take 16)

/-- The bitmaps of compressed pieces can be read through the source capability. -/
def State.copyBitmaps (s : State) (c : CopyCmd) : List Piece → Got Unit
  | [] => .ok ()
  | p :: ps => do
    match p.place with
    | .at _ main => if lfCmp main then
        let g := s.bitmapRange c.world main p.va p.len
        s.shadowOk c.world c.src g.1 g.2
    | _ => .ok ()
    s.copyBitmaps c ps

/-- A copy that moves tags asks a peer for its granules one by one, each with its tag (R329, R340). -/
def CopyCmd.cutPeer (c : CopyCmd) (p : Piece) : List Piece :=
  match p.place with
  | .peer dev va =>
    if c.raw && capHas c.src pCL then
      (List.range ((p.va % 16 + p.len + 15) / 16)).map fun g =>
        let lo := max p.va (p.va / 16 * 16 + 16 * g)
        ⟨.peer dev (va + (lo - p.va)), lo, min (p.va + p.len) (p.va / 16 * 16 + 16 * g + 16) - lo⟩
    else [p]
  | _ => [p]

/-- The first byte of `[a, a + n)` that lies behind a fenced host port (R353). -/
def State.fencedAt (s : State) (w : World) (loc : Bool) (a n : Nat) : Option Nat :=
  if loc then none
  else match s.globalPieces w (some s.cluster.val) {} false a n with
    | .ok ps => (ps.find? fun p => match p.place with
        | .host port _ => !s.portUp port
        | _ => false).map (·.va)
    | .error _ => none

/-- The source of a chunk is read whole: its bytes with the tags of whole granules, or its granules from a FIFO. -/
def State.chunkRead (s : State) (i : SlotId) (c : CopyCmd) (n : Nat) : Got (List Byte × List Bool × State) := do
  let a := c.srcAt
  let len := c.srcOf n
  if capFifo c.src then
    s.chunkBank c.src a len
    Held.check (if s.fifoBad (fifoIx a) (len / 16) then some ⟨cMEMERR, 4, a⟩ else none)
    let gs := ((s.fifo (fifoIx a)).take (len / 16)).map s.filterCap
    .ok (gs.flatMap fun g => leBytes 16 g.bits.toNat,
      if c.raw && c.dstAt % 16 == 0 then gs.map fun g => g.tag && capHas c.src pCL else [],
      s.fifoTaken (fifoIx a) (len / 16))
  else if capLocal c.src then
    s.chunkBank c.src a len
    let ps : List Piece := [⟨.at (locKey a) 0, a, len⟩]
    let r ← got (readPieces s (c.reader i) ps)
    .ok (r.1, s.srcTags i c n ps r.1, r.2)
  else
    match s.globalPieces c.world (some s.cluster.val) { r := true } false a len with
    | .error f => .error (.fail f)
    | .ok ps =>
      let ps := ps.flatMap c.cutPeer
      s.copyBitmaps c ps
      let s := s.arrived c.world ps
      let r ← got (readPieces s (c.reader i) ps)
      .ok (r.1, s.srcTags i c n ps r.1, r.2.peerUsed a len)

/-- The bytes that a chunk writes, with the flags of its conversions. -/
def CopyCmd.convert (c : CopyCmd) (n : Nat) (bs : List Byte) : List Byte × Flags :=
  if c.raw then (bs, 0)
  else
    let sb := if c.sty == 14 then 6 else laneBits c.sty
    let db := if c.dty == 14 then 6 else laneBits c.dty
    let fs := Fmt.ofCode c.sty 0
    let fd := Fmt.ofCode c.dty 0
    let rs := (elemsOf sb bs n).map fun e => fd.encode c.tcx (Rm.ofCode c.rm.toNat) c.sat (fs.decode c.tcx e)
    (packElems db (c.dstOf n) (rs.map (·.1)), rs.foldl (fun f r => f ||| r.2) 0)

/-- The command writes to a granule again behind the chunk of `n` units. -/
def CopyCmd.writesAgain (c : CopyCmd) (n g : Nat) : Bool :=
  let meets := fun (a len : Nat) => len != 0 && a / 16 ≤ g && g ≤ (a + len - 1) / 16
  meets (c.dstAt + c.dstOf n) (c.dstOf c.len - c.dstOf (c.partDone + n)) ||
    (List.range (c.rows - c.rowsDone - 1)).any fun k => meets (operandRow c.dst c.dstr (c.rowsDone + 1 + k)) c.dstRow

/-- Tags that the whole granules of a destination take: CW of the capability and of a mapped page (R329). `a` is the first
granule. -/
def State.dstTags (s : State) (c : CopyCmd) (a : Nat) (tags : List Bool) : List Bool :=
  let page := capLocal c.dst || match s.entry c.world a with
    | .leaf main _ => bitN main 7
    | _ => true
  tags.map fun t => t && page && capHas c.dst pCW

/-- The pieces of a destination are written; those behind a fenced host port are passed over (R353). -/
def State.copyPieces (s : State) (i : SlotId) (c : CopyCmd) : List Piece → List Byte → List Bool → Put
  | [], _, _ => .ok s
  | p :: ps, bs, ts => do
    let s ← if (s.fencedAt c.world false p.va p.len).isSome then .ok s
      else s.enginePiece i c.world c.pc c.insn p (bs.take p.len) (ts.take (p.len / 16)) c.dstHint
    s.copyPieces i c ps (bs.drop p.len) (ts.drop (p.len / 16))

/-- A global part of a chunk is written from `a` on. -/
def State.copyPut (s : State) (i : SlotId) (c : CopyCmd) (a : Nat) (bs : List Byte) (tags : List Bool) : Put :=
  match s.globalPieces c.world (some s.cluster.val) { w := true, cw := tags.contains true } false a bs.length with
  | .error f => .error (.fail f)
  | .ok ps => (s.arrived c.world ps).copyPieces i c ps bs tags

/-- The destination of a chunk is written. Granules that the command writes again stay as they were (R220). -/
def State.chunkWrite (s : State) (i : SlotId) (c : CopyCmd) (n : Nat) (bs : List Byte) (tags : List Bool) : Put := do
  let a := c.dstAt
  if capFifo c.dst then
    s.chunkBank c.dst a bs.length
    let tags := s.dstTags c a tags
    let gs := (List.range (bs.length / 16)).map fun k =>
      s.filterCap ⟨tags.getD k false, BitVec.ofNat 128 (leNat ((bs.drop (16 * k)).take 16))⟩
    .ok (s.fifoPut (fifoIx a) gs)
  else
    let o := c.head n
    let rest := bs.drop o
    let tags := s.dstTags c (a + o) tags
    if capLocal c.dst then
      s.chunkBank c.dst a bs.length
      let k := locKey a
      let s := (s.writeBytes k bs).putTags (k + o) tags
      .ok ((granules k bs.length).foldl (fun s g =>
        if c.writesAgain n (a / 16 + g - k / 16) then s else s.setFull g true) s)
    else
      let s ← s.copyPut i c a (bs.take o) []
      s.copyPut i c (a + o) rest tags

/-! ### Scales (R177) -/

/-- A number is stored under a key in a rising list without zeros. -/
def pairPut : List (Nat × Nat) → Nat → Nat → List (Nat × Nat)
  | [], k, v => if v == 0 then [] else [(k, v)]
  | (j, u) :: t, k, v =>
    if k < j then (if v == 0 then (j, u) :: t else (k, v) :: (j, u) :: t)
    else if k = j then (if v == 0 then t else (k, v) :: t)
    else (j, u) :: pairPut t k v

/-- The block geometry of line `l` of cluster memory is remembered, or forgotten. -/
def State.setLineBg (s : State) (l bg : Nat) : State := s.modCl fun c => { c with lineBg := pairPut c.lineBg (l % 2 ^ 21) bg }

/-- The page of a source address with its block geometry: its leaf's, or none. -/
def State.srcLeaf (s : State) (c : CopyCmd) (va : Nat) : Option Nat :=
  if capLocal c.src || (s.window c.world va).isSome then none
  else match s.entry c.world va with
    | .leaf main _ => if lfBG main == 0 then none else some main
    | _ => none

/-- The scale granule of the line of a source address goes to the place of the line `l` that is written; a line without
one is remembered as such. -/
def State.lineScales (s : State) (i : SlotId) (c : CopyCmd) (l va : Nat) : Put :=
  match s.srcLeaf c va with
  | none => .ok (s.setLineBg l 0)
  | some main => do
    let o := va % lfBytes main
    let sh := (s.shadowVa c.world (va - o) + o / 128 * 16) % 2 ^ 56
    s.shadowOk c.world c.src sh 16
    let r ← got (shadowRead s (c.reader i) sh 16)
    let cl := c.dstAt / 2 ^ 58 % 64
    let p := s.scalePlace (128 * l)
    if s.bankMode (Fin.ofNat 64 cl) p.1 != 3 then .error (.fail ⟨cPROT, 8, c.dstAt⟩)
    else .ok ((r.2.engineWrite (clKey cl (p.2 % 2 ^ 22)) r.1).setLineBg l (lfBG main))

/-- The byte of a row's source that a byte of its destination comes from. -/
def CopyCmd.srcByte (c : CopyCmd) (d : Nat) : Nat :=
  if c.raw then d else sideBytes c.sty ((List.range (d + 1)).filter fun e => sideBytes c.dty (e + 1) ≤ d).length

/-- The scales of the lines that a chunk writes, each from the source line its first byte comes from. -/
def State.chunkScales (s : State) (i : SlotId) (c : CopyCmd) (n : Nat) : Put :=
  if !capLocal c.dst || capFifo c.dst then .ok s
  else
    let k := locKey c.dstAt
    (linesOf k (c.dstOf n)).foldlM (fun s l => s.lineScales i c l (c.srcAt + c.srcByte (128 * l - k))) s

/-! ### Commands -/

/-- The oldest command of a slot becomes another, or leaves the table. -/
def State.setCopy (s : State) (i : SlotId) (c : Option CopyCmd) : State :=
  let s := (s.leaveQueue (.copy i)).modSlot i fun sl => { sl with copies := c.toList ++ sl.copies.tail }
  if c.isNone then s.poolFreed.unstall else s

/-- A command stops (R221). -/
def State.copyFail (s : State) (i : SlotId) (c : CopyCmd) (f : Fail) : State :=
  (s.postRecOf c.world i f.inFlight c.pc c.insn).setCopy i none

/-- A command meets a fenced host port: one record for the command, which goes on (R353). -/
def State.copyFence (s : State) (i : SlotId) (c : CopyCmd) (at_ : Option Nat) : State × CopyCmd :=
  match at_ with
  | some a => (if c.fenced then s else s.postRecOf c.world i ⟨cHOSTDN, 4, a⟩ c.pc c.insn, { c with fenced := true })
  | none => (s, c)

/-- Every row is written: flags and SIG, once every write has been performed (R220, R32); none while it must wait. -/
def State.copyEnd (s : State) (i : SlotId) (c : CopyCmd) : Option State :=
  if (List.range c.rows).any fun r => s.logHolds i (capLocal c.dst) (copyRow c.dst c.dstr r) c.dstRow then none
  else
    let s := if c.own then s.orFlags i c.flags else s
    some ((s.setCopy i none).engineSignal i c.sigSm c.sigInc c.pc c.insn)

/-- Progress by a chunk. -/
def CopyCmd.advance (c : CopyCmd) (n : Nat) (fl : Flags) : CopyCmd :=
  let c := { c with flags := c.flags ||| fl }
  if c.partDone + n < c.len then { c with partDone := c.partDone + n }
  else { c with rowsDone := c.rowsDone + 1, partDone := 0 }

/-- One chunk. A chunk whose source lies behind a fenced host port is passed over, and so is the part of a destination that does
(R353). DESIGN CHOICE, unsafe: log 51. -/
def State.copyTurn (s : State) (i : SlotId) (c : CopyCmd) (n : Nat) : Put :=
  match s.fencedAt c.world (capLocal c.src) c.srcAt (c.srcOf n) with
  | some a =>
    let t := s.copyFence i c (some a)
    .ok (t.1.setCopy i (some (t.2.advance n 0)))
  | none => do
    let r ← s.chunkRead i c n
    let v := c.convert n r.1
    let s ← r.2.2.chunkScales i c n
    let s ← s.chunkWrite i c n v.1 r.2.1
    let t := s.copyFence i c (s.fencedAt c.world (capLocal c.dst) c.dstAt (c.dstOf n))
    .ok (t.1.setCopy i (some (t.2.advance n v.2)))

/-- The next chunk waits for a FIFO, in whose queue the command stands (R196). -/
def State.copyWaits (s : State) (i : SlotId) (c : CopyCmd) : State :=
  if capFifo c.src && s.fifoHas i c.srcAt < c.srcOf c.unit then s.joinQueue ⟨.copy i, .fpop, c.srcAt, 0⟩
  else s.joinQueue ⟨.copy i, .fpush, c.dstAt, 0⟩

/-- A resumed command passes checks 2 to 5 of R219 again before it goes on: their fault is the slot's (R221). -/
def State.copyRecheck (s : State) (i : SlotId) (c : CopyCmd) : State :=
  match copyCheck s c with
  | .error (.trap f, _) => if c.own then s.modSlot i fun sl => { sl with pending := some f } else s.copyFail i c f
  | _ => s.setCopy i (some { c with check := false })

/-- The command may go on: its fibre is neither being restored nor about to take a fault, and, when its checks are outstanding,
not parked by one. Once they are passed it goes on with the fibre's first instruction (R221, R282). -/
def Slot.copyRuns (sl : Slot) (c : CopyCmd) : Bool :=
  !(c.own && (sl.restoring != RestorePh.none || sl.pending.isSome || (c.check && sl.status == .parked .trap) ||
    (sl.fresh && !c.check)))

/-- A command that has lost a capability stops (R337). -/
def CopyCmd.lost (c : CopyCmd) : Option Fail :=
  if !c.src.tag then some ⟨cCAPT, 4, (capCursor c.src).toNat⟩
  else if !c.dst.tag then some ⟨cCAPT, 4, (capCursor c.dst).toNat⟩ else none

/-- The oldest command of a slot takes a turn: the state, and whether anything has been done.
DESIGN CHOICE, unsafe: log 51. -/
def State.copyStep (s : State) (i : SlotId) : State × Bool :=
  let s := s.onSlot i
  match (s.slot i).copies with
  | [] => (s, false)
  | c :: _ =>
    if !(s.slot i).copyRuns c then (s, false)
    else if c.check then (s.copyRecheck i c, true)
    else match c.lost with
      | some f => (s.copyFail i c f, true)
      | none =>
        if c.rows ≤ c.rowsDone then
          match s.copyEnd i c with
          | some s => (s, true)
          | none => (s, false)
        else
          let n := s.chunkUnits i c
          if n == 0 then (s.copyWaits i c, false)
          else match s.copyTurn i c n with
            | .ok s => (s, true)
            | .error (.fail f) => (s.copyFail i c f, true)
            | .error (.wait t) => (s.asking t, false)

/-- The slots in the engine's round-robin order: the first that can do something takes the turn. -/
def State.copyRound (s : State) : List SlotId → State
  | [] => s.stall
  | i :: is =>
    let r := s.copyStep i
    if r.2 then (r.1.modCl fun c => { c with copyLast := i }).post .copyChunk else r.1.copyRound is

/-- COPY_CHUNK (R220). -/
def execCopyChunk (s : State) : Out :=
  match s.act with
  | some .copyChunk =>
    if s.slots.toList.all (·.copies.isEmpty) then .next s
    else .next (s.copyRound ((List.range 16).map fun k => s.cl.copyLast + Fin.ofNat 16 (k + 1)))
  | _ => .fault .noSuchEvent

/-! ### Export and import (R350-R352, R407) -/

def ExpOp.base (e : ExpOp) : Nat := winBaseOf e.src
def ExpOp.lines (e : ExpOp) : Nat := (winLimitOf e.src - winBaseOf e.src) / 128
/-- The key in host memory of an offset of the image. -/
def ExpOp.at (e : ExpOp) (off : Nat) : Nat := hostKey e.port (e.dst.toNat + off)

/-- The header of an image without its MAC. -/
def imageHead (w ctr n : Nat) : List Byte := leBytes 4 0x4C583943 ++ leBytes 2 1 ++ leBytes 2 w ++ leBytes 8 ctr ++ leBytes 8 n

/-- The ciphertext and the entry of each line. -/
def State.exportLine (s : State) (e : ExpOp) (gen ctr ix : Nat) : List Byte × Byte × Word :=
  let k := clKey s.cluster.val (e.base + 128 * ix)
  let ct := exportCipher gen ctr ix (s.bytes k 128)
  let t := s.lineTags (k / 128)
  (ct, t, lineMac gen ctr ix t ct)

/-- An operation ends with a code. -/
def State.expEnd (s : State) (code : Nat) : State :=
  (s.modCl fun c => { c with exp := c.exp.map fun e => { e with code := BitVec.ofNat 8 code } }).post .exportImportComplete

/-- EXPORT: the image is written through the port. -/
def State.doExport (s : State) (e : ExpOp) : State :=
  if !s.portUp e.port then s.expEnd 5
  else
    let x := s.wst e.world
    let ctr := x.sctr.toNat
    let ls := (List.range e.lines).map (s.exportLine e x.kcGen ctr)
    let head := imageHead e.world.val ctr e.lines
    let mac := imageMac x.kcGen head (ls.map (·.2.2))
    let s := s.writeBytes (e.at 0) (head ++ leBytes 8 mac.toNat ++ List.replicate 96 0)
    let s := ls.zipIdx.foldl (fun s l =>
      (s.writeBytes (e.at (128 + 128 * l.2)) l.1.1).writeBytes (e.at (128 + 128 * e.lines + 16 * l.2))
        (l.1.2.1 :: List.replicate 7 0 ++ leBytes 8 l.1.2.2.toNat)) s
    s.expEnd 2

/-- The MAC of a line of an image matches. -/
def State.imageLineOk (s : State) (e : ExpOp) (gen ctr ix : Nat) : Bool :=
  let k := e.at (128 + 128 * e.lines + 16 * ix)
  BitVec.ofNat 64 (s.nat (k + 8) 8) == lineMac gen ctr ix (s.byte k) (s.bytes (e.at (128 + 128 * ix)) 128)

/-- A line of an image is decrypted and written with its T bits, its granules full. -/
def State.importLine (s : State) (e : ExpOp) (gen ctr ix : Nat) : State :=
  let pt := exportPlain gen ctr ix (s.bytes (e.at (128 + 128 * ix)) 128)
  let t := s.byte (e.at (128 + 128 * e.lines + 16 * ix))
  let k := clKey s.cluster.val (e.base + 128 * ix)
  (s.engineWrite k pt).putTags k ((List.range 8).map t.getLsbD)

/-- The region of a cluster's memory is zero, F and T bits included (R351). -/
def State.zeroRegion (s : State) (e : ExpOp) : State :=
  let k := clKey s.cluster.val e.base
  let s := (s.writeBytes k (List.replicate (128 * e.lines) 0)).putTags k (List.replicate (8 * e.lines) false)
  (List.range (8 * e.lines)).foldl (fun s g => s.setFull (k / 16 + g) false) s

/-- The first pass of R351: the checks in their order. It writes nothing; the second pass is an act of its own, so the host
can change the image between the two. -/
def State.importCheck (s : State) (e : ExpOp) (migration : Bool) : State :=
  let x := s.wst e.world
  let n := e.lines
  let ctr := s.nat (e.at 8) 8
  if s.nat (e.at 0) 4 != 0x4C583943 || s.nat (e.at 4) 2 != 1 || s.nat (e.at 6) 2 != e.world.val || s.nat (e.at 16) 8 != n then
    s.expEnd 7
  else if !migration && ctr < x.sctr.toNat then s.expEnd 3
  else
    let macs := (List.range n).map fun ix => BitVec.ofNat 64 (s.nat (e.at (128 + 128 * n + 16 * ix) + 8) 8)
    if !(List.range n).all (s.imageLineOk e x.kcGen ctr) ||
        BitVec.ofNat 64 (s.nat (e.at 24) 8) != imageMac x.kcGen (s.bytes (e.at 0) 24) macs then s.expEnd 4
    else
      (s.modCl fun c => { c with exp := some { e with passed := some ctr } }).post
        (if migration then .migrationImport else .importImage)

/-- The second pass of R351: each line is checked again against the counter that the first pass accepted. -/
def State.importWrite (s : State) (e : ExpOp) (migration : Bool) (ctr : Nat) : State :=
  let x := s.wst e.world
  if !(List.range e.lines).all (s.imageLineOk e x.kcGen ctr) then (s.zeroRegion e).expEnd 4
  else
    let s := (List.range e.lines).foldl (fun s ix => s.importLine e x.kcGen ctr ix) s
    let s := if migration then
        { (s.modWorld e.world fun x => { x with sctr := BitVec.ofNat 64 ctr, kcGen := s.keyCtr }) with keyCtr := s.keyCtr + 1 }
      else s
    s.expEnd 2

/-- IMPORT and MIGRATION_IMPORT: one of the two passes. -/
def State.doImport (s : State) (e : ExpOp) (migration : Bool) : State :=
  if !s.portUp e.port then s.expEnd 5
  else match e.passed with
    | none => s.importCheck e migration
    | some ctr => s.importWrite e migration ctr

/-- An act of the export engine on the operation that runs. -/
def State.expAct (s : State) (f : ExpOp → State) : State :=
  match s.cl.exp with
  | some e => if e.code = 0 then f e else s
  | none => s

def execExportImage (s : State) : Out :=
  match s.act with
  | some .exportImage => .next (s.expAct s.doExport)
  | _ => .fault .noSuchEvent
def execImportImage (s : State) : Out :=
  match s.act with
  | some .importImage => .next (s.expAct (s.doImport · false))
  | _ => .fault .noSuchEvent
def execMigrationImport (s : State) : Out :=
  match s.act with
  | some .migrationImport => .next (s.expAct (s.doImport · true))
  | _ => .fault .noSuchEvent

/-- EXPORT_IMPORT_COMPLETE: the final code stands in EXPST before the increment is posted. -/
def execExportImportComplete (s : State) : Out :=
  match s.act with
  | some .exportImportComplete =>
    match s.cl.exp with
    | some e =>
      if e.code = 0 then .next s
      else
        let s := s.modWorld e.world fun x => { x with expBusy := false }
        let s := s.modCl fun c => { c with exp := none, expst := e.code.setWidth 64 }
        .next (s.engineSignal 15 e.sm e.inc 0 0)
    | none => .next s
  | _ => .fault .noSuchEvent

/-! ### DUP lines (R251, R271) and other agents' stores (R247) -/

/-- INVALIDATION_APPLIED: a die's copy is gone; its acknowledgement is on its way. -/
def execInvalidationApplied (s : State) : Out :=
  match s.act with
  | some (.invalidationApplied line die) =>
    if s.dup.any (fun d => d.line == line && d.die == die) then
      .next (({ s.dropCopy line die with
        dup := s.dup.filter fun d => !(d.line == line && d.die == die), dupAcks := s.dupAcks ++ [(line, die)] } : State).post
          (.dupInvalidationAck line))
    else .next s
  | _ => .fault .noSuchEvent

/-- DUP_INVALIDATION_ACK: acknowledgements of a line arrive; the writes that waited for them are performed. -/
def execDupInvalidationAck (s : State) : Out :=
  match s.act with
  | some (.dupInvalidationAck line) =>
    .next ({ s with dupAcks := s.dupAcks.filter fun d => d.1 != line } : State).retryHeld.replay
  | _ => .fault .noSuchEvent

/-- A store of another agent of the module writes a granule; one from this cluster updates the line in its cache (R199, R245). -/
def State.otherStore (s : State) (c : Fin 64) (g : Nat) (data : List Byte) : State :=
  if data.isEmpty then s
  else
    let s := (s.dupWrite false (16 * g) data.length).writeBytes (16 * g) data
    if c = s.cluster then s.cacheRefresh (16 * g) data.length else s

/-- The F bit of a granule of cluster memory, when another agent changes it (R216). -/
def State.otherFull (s : State) (g : Nat) (full : Option Bool) : State :=
  match full with
  | some v => if keyIsCl (16 * g) then s.setFull g v else s
  | none => s

/-- STORE_PERFORMED: an access of another agent of the module reaches its granule, at the quay or the bank: a store, a copy, a
reply, an stfe or an ldfe. A transfer from another cluster whose MAC does not match is dropped (R343, R344). -/
def execStorePerformed (s : State) : Out :=
  match s.act with
  | some (.storePerformed c g data full sealOk) =>
    if 16 < data.length then .next s
    else if keyIsCl (16 * g) && !sealOk then .next (s.transferFails 0 (keyLoc (16 * g)))
    else if s.dup.any (·.line == g / 8) || s.dupAcks.any (·.1 == g / 8) then .next s.stall
    else .next ((s.otherStore c g data).otherFull g full).unstall
  | _ => .fault .noSuchEvent

end Sys2Proof.Machine
end

