-- ==== Sys2Proof/Machine/Matrix.lean ====
section
/-!
DEFINITION. The instructions of the matrix unit (R114-R133) and the acts of its latches and of its drain engine.
-/

namespace Sys2Proof.Machine

/-! ### Configuration (R118-R120) -/

/-- Codes of DTYPE that the configuration word may hold (R119). -/
def cfgOk (isInt : Bool) (cfg : Word) : Bool :=
  let d := (cfg.extractLsb' 24 4).toNat
  cfg.extractLsb' 29 35 == 0 && (d == 0 || d == 8 || d == 9 || d == 10 || (d == 2 && isInt))

/-- The unit as a slot takes it (R118). -/
def Matrix.taken (m : Matrix) (i : SlotId) : Matrix :=
  { Matrix.reset with holder := some i, tsa := 0x3F800000, tsb := 0x3F800000, drains := m.drains }

/-- What both a take and a reconfiguration do. -/
def Matrix.configured (m : Matrix) (kind : BitVec 2) (ty : BitVec 4) (r4 : BitVec 2) (cfg : Word) : Matrix :=
  { m with kind := kind, ty := ty, r4 := r4, cfg := cfg, parts := Vector.replicate 6 Part.zero, stopped := none }

/-- The unit is released. -/
def State.matRelease (s : State) : State := (s.modMat fun m => { Matrix.reset with drains := m.drains }).poolFreed

/-- The unit is taken or configured again. -/
def State.matConfigure (s : State) (kind : BitVec 2) (ty : BitVec 4) (r4 : BitVec 2) (cfg : Word) : State :=
  let s := if s.mat.holder = some s.cur then s else s.modMat fun m => m.taken s.cur
  let s := s.modMat fun m => m.configured kind ty r4 cfg
  if kind = 3 then { s with wave := { Wave.reset with tiles := s.wave.tiles } } else s

def execMcfg (o : ROp) (s : State) : Out :=
  finish o.hdr (fun s => do
    let kind : BitVec 2 := o.md.sub.extractLsb' 0 2
    if kind = 0 then
      if s.mat.holder = some s.cur then
        let s ← matReady s
        matIdle s
        .ok s.matRelease
      else .ok s
    else
      let s ← matReady s
      let cfg := if kind = 3 then 0 else s.rx o.oa
      let r4 : BitVec 2 := if o.md.ty = 15 then o.md.isp.extractLsb' 0 2 else 0
      guardR s (cfgOk (Fmt.ofCode o.md.ty (r4.setWidth 4)).isInt cfg) cMCFG 3 0
      if s.mat.holder = some s.cur then matIdle s
      if s.mat.holder.isSome && s.mat.holder != some s.cur then waitFor s .pool 0
      else .ok (s.matConfigure kind o.md.ty r4 cfg)) s

/-- mscl. -/
def msclB (o : ROp) (s : State) : R State := do
  let s ← matReady s
  heldCheck s 0 [1, 2, 3]
  matFree s fun _ => true
  let a := s.rx o.oa
  let b := s.rx o.ob
  .ok (s.modMat fun m => match o.md.sub.toNat with
    | 0 => { m with tsa := a.extractLsb' 0 32, tsb := b.extractLsb' 0 32 }
    | 1 => { m with fp4xa := a.extractLsb' 0 16, fp4xb := b.extractLsb' 0 16 }
    | _ => { m with qbase := a.extractLsb' 0 32 })

def execMscl (o : ROp) (s : State) : Out := finish o.hdr (msclB o) s

/-- The number of an accumulator. -/
def accIx (r : BitVec 6) : Fin 4 := Fin.ofNat 4 r.toNat

/-- mzero. -/
def mzeroB (o : ROp) (s : State) : R State := do
  let s ← matReady s
  heldCheck s 0 [1, 2]
  accFree s (accIx o.od)
  .ok (s.modMat fun m =>
    { m with acc := m.acc.set (accIx o.od) (Vector.replicate 1024 0), badAcc := m.badAcc.filter (· != (accIx o.od).val) })

def execMzero (o : ROp) (s : State) : Out := finish o.hdr (mzeroB o) s

/-! ### Latches (R121-R123) -/

/-- The parts a product reads. -/
def partsRead (sub apart : BitVec 2) : List (Fin 6) :=
  if sub = 0 then [Fin.ofNat 6 apart.toNat, 4] else (List.range (2 ^ sub.toNat)).map (Fin.ofNat 6 ·) ++ [4, 5]

/-- The part that a load names. -/
def partIx (b : Bool) (od : BitVec 6) : Fin 6 :=
  if b then (if od.getLsbD 0 then 5 else 4) else Fin.ofNat 6 (od.toNat % 4)

/-- mlda and mldb. -/
def mldB (b : Bool) (o : MOp) (s : State) : R State := do
  let s ← matReady s
  let c := s.rc o.oa
  let ea := mEa s o
  let g := o.x == 1
  let at_ := if g then (capCursor c).toNat else ea
  heldCheck s at_ [1, 2]
  let kg := b && o.od.getLsbD 2
  guardR s (!g || (if s.mat.kind = 2 then o.oa == 29 else o.oa != 29 && !kg)) cMCFG 7 at_
  if g then noPort s o.ob
  let d : LatchDesc :=
    { valid := true, gather := g, token := g && s.mat.kind = 2, kgather := kg, scales := false, base := c,
      off := if g then (o.off.signExtend 64) <<< 7 else BitVec.ofNat 64 ea, qbase := if g then s.mat.qbase else 0,
      lanes := if g then s.sl.rv o.ob else 0 }
  let i := partIx b o.od
  let p ← latchPart s s.mat i d { nud := o.nud, lvl := o.lvl }
  matFree s fun b => (partsRead b.sub b.apart).contains i
  .ok ((s.setPart i p).post (.latchDataArrival i))

def mldaB (o : MOp) (s : State) : R State := mldB false o s
def mldbB (o : MOp) (s : State) : R State := mldB true o s
def execMlda (o : MOp) (s : State) : Out := finish o.hdr (mldaB o) s
def execMldb (o : MOp) (s : State) : Out := finish o.hdr (mldbB o) s

/-- LATCH_DATA_ARRIVAL: the rows of a part are read; an error is kept for the first instruction that reads them. -/
def execLatchDataArrival (s : State) : Out :=
  match s.act with
  | some (.latchDataArrival i) =>
    let p := s.mat.part i
    match s.mat.holder with
    | none => .next s
    | some h =>
      if p.pending && !s.mat.reload then
        match readPart (s.onSlot h) s.mat p with
        | .ok (rows, s) => .next (s.setPart i { p with rows := some rows }).unstall
        | .error (.trap f, s) => .next (s.setPart i { p with err := some f }).unstall
        | .error (_, s) => .next s.stall
      else .next s
  | _ => .fault .noSuchEvent

/-- LATCH_RELOAD: the reload of a restored unit runs, or is left for the instruction that will find its fault (R127). -/
def execLatchReload (s : State) : Out :=
  match s.act with
  | some .latchReload =>
    match s.mat.holder with
    | none => .next s
    | some h =>
      if s.mat.reload then
        match reloadAll (s.onSlot h) with
        | .ok s => .next s
        | .error (.trap _, _) => .next s
        | .error (_, s) => .next s.stall
      else .next s
  | _ => .fault .noSuchEvent

/-! ### Products (R124, R125) -/

/-- The parts a product reads have arrived. An error in one is raised, and the retry makes its load again, checks and
translations included. -/
def partsHere (s : State) : List (Fin 6) → R Unit
  | [] => .ok ()
  | i :: is =>
    let p := s.mat.part i
    match p.err with
    | some f => .error (.trap f, s.setPart i { p with err := none, plan := [] })
    | none =>
      if p.rows.isSome then partsHere s is
      else if p.pending then .error (.spin, s)
      else do
        let q ← latchPart s s.mat i p.desc p.hint
        .error (.spin, (s.setPart i q).post (.latchDataArrival i))

/-- Every bitmap of the columns marks its count of positions (R125). -/
def Matrix.bitmapsOk (m : Matrix) (sub : BitVec 2) : Bool :=
  (m.rows 5).all fun r => (List.range (2 ^ sub.toNat * matE m.ty / 64)).all fun h =>
    popBits (r.data / 2 ^ (64 * h)) 64 == 64 / 2 ^ sub.toNat

/-- mma and mmas. DEDUCED, unsafe: log 33. -/
def productB (o : ROp) (sub apart : BitVec 2) (s : State) : R State := do
  let s ← matReady s
  heldCheck s 0 [1, 2]
  guardR s (o.md.ty == s.mat.ty && (o.md.ty != 15 || o.md.isp.extractLsb' 0 2 == s.mat.r4)) cMCFG 3 0
  let is := partsRead sub apart
  guardR s (is.all fun i => (s.mat.part i).desc.valid) cMCFG 4 0
  guardR s (sub = 0 || (s.mat.part 4).bg == 0) cMCFG 5 0
  let tok := (is.filter fun i => (s.mat.part i).desc.token).length
  if sub = 0 then
    guardR s (tok ≤ 1) cMCFG 7 0
    partsHere s is
  else
    partsHere s is
    guardR s (s.mat.bitmapsOk sub) cMCFG 6 0
    guardR s (tok == 0) cMCFG 7 0
  matFree s fun _ => true
  accFree s (accIx o.od)
  let p : Stopped := ⟨0, (accIx o.od).val, sub, apart, o.md.sat == 1⟩
  .ok ((s.modMat fun m => { m with busy := some ⟨p, s.sl.tcx, false⟩ }).post .accumulatorComplete)

def mmaB (o : ROp) (s : State) : R State := productB o 0 (o.md.isp.extractLsb' 2 2) s
/-- DESIGN CHOICE, unsafe: log 79. -/
def mmasB (o : ROp) (s : State) : R State := productB o (o.md.sub.extractLsb' 0 2) 0 s
def execMma (o : ROp) (s : State) : Out := finish o.hdr (mmaB o) s
def execMmas (o : ROp) (s : State) : Out := finish o.hdr (mmasB o) s

/-- ACCUMULATOR_COMPLETE: the product in flight goes on to its next group boundary; behind its last group the accumulator is
complete and the flags reach FSTAT (R124, R126). -/
def execAccumulatorComplete (s : State) : Out :=
  match s.act with
  | some .accumulatorComplete =>
    match s.mat.holder with
    | none => .next s
    | some h =>
      let s := s.modMat Matrix.advanced
      if s.mat.busy.isSome then .next (s.post .accumulatorComplete)
      else .next ((s.orFlags h s.mat.flags).modMat fun m => { m with flags := 0 }).unstall
  | _ => .fault .noSuchEvent

/-! ### Drains (R129, R130) -/

/-- DTYPE as resolved. -/
def Matrix.dty (m : Matrix) : BitVec 4 :=
  let d := m.cfg.extractLsb' 24 4
  if d = 0 then (if m.fmt.isInt then 2 else 8) else d

/-- The checks of mdrain on its footprint. DEDUCED, unsafe: log 35. -/
def drainChecks (s : State) (c : Cap) (ea n : Nat) : R Unit := do
  check s (capCheck s.world c ea n pW)
  if capLocal c then
    check s (localCheck s.cluster.val s.sl.cmwin ea n)
    guardR s (!capHas c pFIFO) cPROT 8 ea
    check s (s.engineBank s.cluster c ea n false)
  else
    guardR s (ea / 2 ^ 56 == 0) cPROT 7 ea
    let ps ← placed s c ea n { w := true }
    match ps.find? fun p => match p.place with
      | .at _ main => lfKV main
      | _ => false with
    | some p => raise s cKVPA 0 p.va
    | none => .ok ()

def execMdrain (o : MOp) (s : State) : Out :=
  finishHanded (fun s => do
    let s ← matReady s
    let c := s.rc o.oa
    let ea := mEa s o
    heldCheck s ea [1, 2]
    let m := s.mat
    let a := accIx o.od
    drainChecks s c ea (1024 * (laneBits m.dty / 8))
    accFree s a
    let d : Drain :=
      { sl := s.cur, world := s.world, acc := a, reading := true, zero := o.x == 1, cells := Vector.replicate 1024 0,
        row := 0, spawned := 0, halted := false, lost := [], cap := c,
        ea := BitVec.ofNat 64 ea, dty := m.dty, dsat := m.cfg.getLsbD 28, isInt := m.fmt.isInt, tsa := m.tsa, tsb := m.tsb,
        sigSm := o.hdr.sigSm, sigInc := o.hdr.sigInc, handler := m.hcode[a], hword := m.hword[a],
        ctl := s.buildCtl s.sl (s.sl.rx 13 &&& 0x30000) s.sl.tow, flags := 0, own := true,
        hint := { nud := o.nud, lvl := o.lvl }, pc := s.sl.pc, insn := s.insn }
    .ok ((s.modMat fun m => { m with drains := m.drains ++ [d] }).post .drainRowWrite)) s

/-- The bytes of a cell as it is drained, with the flags. -/
def Drain.cell (d : Drain) (j : Nat) : List Byte × Flags :=
  let c := ((d.cells.toList.drop (32 * d.row)).getD j 0).toNat
  if d.dty = 2 then (leBytes 4 c, 0)
  else
    let v := if d.isInt then Num.ofInt (intDecode true 32 c) else Fmt.decode .f32 false c
    let x := Num.mul v (Fmt.decode .f32 false d.tsa.toNat)
    let y := Num.mul x.1 (Fmt.decode .f32 false d.tsb.toNat)
    let r := Fmt.encode (Fmt.ofCode d.dty 0) false .rne d.dsat y.1
    (leBytes (laneBits d.dty / 8) r.1, x.2 ||| y.2 ||| r.2)

/-- The fibre of a row (R130). -/
def Drain.record (d : Drain) : Rec :=
  ⟨d.handler, capMoveCursor d.cap (BitVec.ofNat 64 (d.rowAt d.spawned)), BitVec.ofNat 64 d.spawned, d.hword,
    BitVec.ofNat 64 d.acc.val, d.ctl⟩

/-- A row has not been performed: it stands in a side log, or a peer has not acknowledged it (R259). -/
def State.rowHeld (s : State) (d : Drain) (r : Nat) : Bool := s.logHolds d.sl (capLocal d.cap) (d.rowAt r) d.rowLen

/-- The handlers of the rows that have been performed are spawned, in row order; a row that never reaches memory has none
(R129, R130). -/
def State.spawnRows (s : State) (d : Drain) : Nat → State × Drain
  | 0 => (s, d)
  | n + 1 =>
    if capIsNull d.handler then (s, { d with spawned := d.row })
    else if d.row ≤ d.spawned || s.rowHeld d d.spawned then (s, d)
    else
      let t := if d.lost.contains d.spawned then s
        else (s.towAct d.world (d.ctl.extractLsb' 0 16) .incr).requeue s.cluster d.record
      t.spawnRows { d with spawned := d.spawned + 1 } n

/-- The oldest drain becomes another, or is over. -/
def State.setDrain (s : State) (d : Option Drain) : State :=
  s.modMat fun m => { m with drains := d.toList ++ m.drains.tail }

/-- The next act of the drain engine, while there is work. -/
def State.drainOn (s : State) : State := if s.mat.drains.isEmpty then s else s.post .drainRowWrite

/-- A row that fails ends the writing with a record (R129), of aux 8 for a bank whose mode has changed (R193). -/
def State.drainFail (s : State) (d : Drain) (f : Fail) : State :=
  let g : Fail := { f with aux := if f.cause == cPROT && f.aux == 8 then 8 else 4 }
  ((s.postRecOf d.world d.sl g d.pc d.insn).setDrain (some { d with halted := true })).drainOn

/-- A row is written, or the drain writes no more. -/
def State.drainRow (s : State) (d : Drain) : State :=
  let cs := (List.range 32).map d.cell
  match s.enginePut d.sl d.world (capLocal d.cap) (d.rowAt d.row) (cs.flatMap (·.1)) [] d.pc d.insn d.hint with
  | .error (.wait t) => (s.asking t).stall
  | .error (.fail f) => s.drainFail d f
  | .ok s =>
    let d := { d with row := d.row + 1, flags := cs.foldl (fun f c => f ||| c.2) d.flags }
    let r := s.spawnRows d 32
    (r.1.setDrain (some r.2)).drainOn

/-- A drain that writes no more, once its rows have been performed: its flags and, when every row has been written, its SIG. -/
def State.drainEnd (s : State) (d : Drain) : State :=
  let r := s.spawnRows d 32
  if (List.range d.row).any (s.rowHeld d) then (r.1.setDrain (some r.2)).stall
  else
    let s := r.1.setDrain none
    if d.halted || !d.lost.isEmpty then s.drainOn
    else
      let s := if d.own then s.orFlags d.sl d.flags else s
      (s.engineSignal d.sl d.sigSm d.sigInc d.pc d.insn).drainOn

/-- The first drain that is still reading reads its accumulator. -/
def State.drainRead (s : State) : State :=
  (s.modMat fun m =>
    let r := m.readDrains m.drains
    { r.1 with drains := r.2 }).unstall.drainOn

/-- DRAIN_ROW_WRITE: accumulators that are still to be read are read; then a row is written, or a drain ends. -/
def execDrainRowWrite (s : State) : Out :=
  match s.act with
  | some .drainRowWrite =>
    if s.mat.drains.any (·.reading) then .next s.drainRead
    else match s.mat.drains with
    | [] => .next s
    | d :: _ => .next (if d.row < 32 && !d.halted then s.drainRow d else s.drainEnd d)
  | _ => .fault .noSuchEvent

def execMhand (o : ROp) (s : State) : Out :=
  finish o.hdr (fun s => do
    let s ← matReady s
    let c := s.rc o.oa
    heldCheck s (capCursor c).toNat [1, 2]
    let a := accIx o.od
    if s.mat.reads a then .error (.spin, s)
    else if o.oa = 0 then .ok (s.modMat fun m => { m with hcode := m.hcode.set a Cap.null, hword := m.hword.set a 0 })
    else
      match codeCheck s.world c false with
      | some cause => raise s cause 0 (capCursor c).toNat
      | none => .ok (s.modMat fun m => { m with hcode := m.hcode.set a c, hword := m.hword.set a (s.rx o.ob) })) s

/-! ### Rows (R131) -/

/-- The checks of mrowrd and mrowwr, with the row's number. -/
def rowCheck (s : State) (o : ROp) (x : BitVec 6) : R Nat := do
  heldCheck s 0 [1, 2]
  guardR s (o.md.ty == (if s.mat.fmt.isInt then 2 else 8)) cMCFG 3 0
  guardR s ((s.rx x).toNat < 32) cMCFG 8 0
  .ok (s.rx x).toNat

def execMrowrd (o : ROp) (s : State) : Out :=
  finish o.hdr (fun s => do
    let s ← matReady s
    let r ← rowCheck s o o.ob
    noPort s o.od
    accFree s (accIx o.oa)
    let cells := (s.mat.acc[accIx o.oa].toList.drop (32 * r)).take 32
    let res := vMap 32 (kmOf s.sl o.md) (zmOf o.md) fun j => ((cells.getD j 0).toNat, 0)
    .ok (s.modCur fun sl => sl.wv o.od (res.merge (sl.rv o.od)))) s

def execMrowwr (o : ROp) (s : State) : Out :=
  finish o.hdr (fun s => do
    let s ← matReady s
    let r ← rowCheck s o o.oa
    noPort s o.ob
    let a := accIx o.od
    accFree s a
    let km := kmOf s.sl o.md
    let v := s.sl.rv o.ob
    .ok (s.modMat fun m =>
      { m with badAcc := m.badAcc.filter (· != a.val), acc := m.acc.set a (Vector.ofFn fun (n : Fin 1024) =>
          if n.val / 32 = r then
            (if km.getLsbD (n.val % 32) then BitVec.ofNat 32 (lane 32 v (n.val % 32))
              else if zmOf o.md then 0 else m.acc[a][n])
          else m.acc[a][n]) })) s

/-! ### msave, mrest, mstat (R132) -/

/-- The accumulators of a mask. -/
def maskAccs (od : BitVec 6) : List (Fin 4) := (List.finRange 4).filter fun i => od.getLsbD i.val

/-- The granules of an area that keep their tags when they are stored through a capability at a piece.
DESIGN CHOICE, unsafe: log 77. -/
def keptTags (c : Cap) (p : Piece) (b : List Byte) (tags : List Nat) : List Bool :=
  (List.range (b.length / 16)).map fun i =>
    tags.contains i &&
      !capStoreMissing c ⟨true, BitVec.ofNat 128 (leNat ((b.drop (16 * i)).take 16))⟩ &&
      match p.place with
      | .at key main => keyIsCl key || bitN main 7
      | .hold => true
      | _ => false

/-- Bytes and tags of an area stored as the slot's relaxed stores, line by line. -/
def storeArea (s : State) (c : Cap) (h : Hint) (a : Nat) (b : List Byte) (tags : List Nat) : R State := do
  let ps ← placed s c a b.length { w := true }
  let t ← arrive s s.world ps
  let lines := ps.flatMap fun p => (cutLines (p.len / 128 + 2) p.va p.len).map fun l => (p, l)
  lines.foldlM (fun s x =>
    let (p, va, n) := x
    let bs := (b.drop (va - a)).take n
    let ts := (tags.filter ((va - a) / 16 ≤ ·)).map (· - (va - a) / 16)
    let q : Piece := ⟨p.place.behind (va - p.va), va, n⟩
    storePiece s q bs (keptTags c q bs ts) { hint := h }) t

/-- The accumulators of a mask are stored in their places. -/
def storeAccs (s : State) (c : Cap) (h : Hint) (a : Nat) : List (Fin 4) → R State
  | [] => .ok s
  | i :: is => do
    let s ← storeArea s c h (a + 1024 + 4096 * i.val) (accBytes s.mat.acc[i]) []
    storeAccs s c h a is

def execMsave (o : MOp) (s : State) : Out :=
  finish o.hdr (fun s => do
    let s ← matReady s
    let c := s.rc o.oa
    let ea := mEa s o
    heldCheck s ea [1, 2, 3]
    matIdle s
    accessChecks s c ea 17536 pW .plain 128
    let _ ← placed s c ea 17536 { w := true }
    let b := matrixBlob 0 1024 s.mat s.wave
    let bytes := blobBytes b 1152
    allOrNone s (do
      let s ← storeArea s c (mHint o) ea (bytes.take 1024) (blobTags b)
      let s ← storeAccs s c (mHint o) ea (maskAccs o.od)
      storeArea s c (mHint o) (ea + 17408) (bytes.drop 1024) [])) s

/-- A saved state that mrest takes: HELD, and reserved bits zero. -/
def savedOk (m : Img) : Bool :=
  let st := m.nat 0 8
  let cfg := m.nat 8 8
  let wave := bitsN st 3 2 == 3
  bitN st 0 && !bitN st 1 && bitsN st 15 10 == 0 && bitsN st 63 40 == 0 && bitsN cfg 63 29 == 0 &&
    m.nat 0x3C0 64 == 0 &&
    (if wave then m.nat 0xB8 8 ≤ 1 && m.nat 0x100 704 == 0
     else (List.range 6).all fun i => m.nat (0x80 + 160 * i + 24) 4 < 32)

/-- The masked accumulators are loaded. -/
def loadAccs (s : State) (c : Cap) (h : Hint) (a : Nat) (m : Matrix) : List (Fin 4) → R (Matrix × State)
  | [] => .ok (m, s)
  | i :: is => do
    let r ← loadBytes s c (a + 1024 + 4096 * i.val) 4096 pR 1 h
    loadAccs r.2 c h a { m with acc := m.acc.set i (accOf ⟨r.1, []⟩ 0), badAcc := m.badAcc.filter (· != i.val) } is

def execMrest (o : MOp) (s : State) : Out :=
  finish o.hdr (fun s => do
    let s ← matReady s
    let c := s.rc o.oa
    let ea := mEa s o
    heldCheck s ea [1, 2, 3]
    matIdle s
    accessChecks s c ea 17536 pR .plain 128
    let _ ← placed s c ea 17536 { r := true }
    let g ← loadGrans s c ea (mHint o) 64
    let l ← loadBytes g.2 c (ea + 17408) 128 pR 1 (mHint o)
    let st := imgOf g.1
    let img : Img := ⟨st.bytes ++ l.1, st.tags⟩
    guardR s (savedOk img) cMCFG 9 ea
    let m := matrixOf img 0 1024 s.mat
    let w := if m.kind = 3 then { waveOf img 0 with tiles := s.wave.tiles } else s.wave
    let r ← loadAccs l.2 c (mHint o) ea m (maskAccs o.od)
    .ok (({ r.2 with mat := r.1, wave := w } : State).post .latchReload)) s

def execMstat (o : ROp) (s : State) : Out :=
  finish o.hdr (fun s => do
    let s ← matReady s
    heldCheck s 0 [0, 1, 2, 3]
    .ok (s.wx o.od s.mat.mstat)) s

end Sys2Proof.Machine
end

