-- ==== Sys2Proof/Machine/Passes.lean ====
section
/-!
DEFINITION. The passes of a repetition block (R110-R113) and WTMO (R311).
-/

namespace Sys2Proof.Machine

/-! ### The block's instructions (R111) -/

/-- What an instruction of a block does besides its guards, WAIT and SIG. -/
def blockBody (i : Instr) : Option (State → R State) :=
  match i with
  | .vadd o => some (vaddB o)
  | .vsub o => some (vsubB o)
  | .vmul o => some (vmulB o)
  | .vfma o => some (vfmaB o)
  | .vfms o => some (vfmsB o)
  | .vmin o => some (vminB o)
  | .vmax o => some (vmaxB o)
  | .vabs o => some (vabsB o)
  | .vneg o => some (vnegB o)
  | .vand o => some (vandB o)
  | .vor o => some (vorB o)
  | .vxor o => some (vxorB o)
  | .vshl o => some (vshlB o)
  | .vshr o => some (vshrB o)
  | .vcmp o => some (vcmpB o)
  | .vsel o => some (vselB o)
  | .vcvt o => some (vcvtB o)
  | .vdot o => some (vdotB o)
  | .vscl o => some (vsclB o)
  | .vmov o => some (vmovB o)
  | .vbcast o => some (vbcastB o)
  | .vins o => some (vinsB o)
  | .vext o => some (vextB o)
  | .vclamp o => some (vclampB o)
  | .kand o => some (kandB o)
  | .kor o => some (korB o)
  | .kxor o => some (kxorB o)
  | .knot o => some (knotB o)
  | .kpop o => some (kpopB o)
  | .kfirst o => some (kfirstB o)
  | .kset o => some (ksetB o)
  | .kmov o => some (kmovB o)
  | .vrcp o => some (vrcpB o)
  | .vrsq o => some (vrsqB o)
  | .vsqrt o => some (vsqrtB o)
  | .vexp2 o => some (vexp2B o)
  | .vlog2 o => some (vlog2B o)
  | .vsin o => some (vsinB o)
  | .vcos o => some (vcosB o)
  | .vtanh o => some (vtanhB o)
  | .vsigm o => some (vsigmB o)
  | .vexpd o => some (vexpdB o)
  | .vredsum o => some (vredsumB o)
  | .vredmax o => some (vredmaxB o)
  | .vredmin o => some (vredminB o)
  | .vscan o => some (vscanB o)
  | .vperm o => some (vpermB o)
  | .vshuf o => some (vshufB o)
  | .vpack o => some (vpackB o)
  | .vunpack o => some (vunpackB o)
  | .mzero o => some (mzeroB o)
  | .mlda o => some (mldaB o)
  | .mldb o => some (mldbB o)
  | .mscl o => some (msclB o)
  | .mma o => some (mmaB o)
  | .mmas o => some (mmasB o)
  | _ => none

/-- Which of OD, OA, OB and OC name v registers. -/
def vFields (opc : Nat) (b : Body) : List Bool :=
  if opc == 0x122 || opc == 0x123 then
    match b with
    | .m o => [false, false, o.x == 1, false]
    | _ => []
  else if opc == 0x08E then [false, true, true, false]
  else if opc == 0x096 then [false, true, false, false]
  else if opc == 0x094 || opc == 0x095 then [true, false, false, false]
  else if (0x098 ≤ opc && opc ≤ 0x09F) || 0x120 ≤ opc then []
  else if [0x083, 0x084, 0x091, 0x097, 0x0EF].contains opc then [true, true, true, true]
  else if [0x087, 0x088, 0x090, 0x092, 0x093, 0x0F1].contains opc || (0x0E0 ≤ opc && opc ≤ 0x0E8) ||
      (0x0EA ≤ opc && opc ≤ 0x0ED) then [true, true, false, false]
  else match b with
    | .i _ => [true, true, false, false]
    | _ => [true, true, true, false]

/-- The fields with those that a mask selects moved on, and the registers that result in them. -/
def staggerBody (sel : List Bool) (off : BitVec 6) (b : Body) : Body × List (BitVec 6) :=
  let d := sel.getD 0 false
  let a := sel.getD 1 false
  let c := sel.getD 2 false
  let e := sel.getD 3 false
  let mv := fun (on : Bool) (r : BitVec 6) => if on then r + off else r
  let used := fun (on : Bool) (r : BitVec 6) => if on then [r + off] else []
  match b with
  | .r o => (.r { o with od := mv d o.od, oa := mv a o.oa, ob := mv c o.ob, oc := mv e o.oc },
      used d o.od ++ used a o.oa ++ used c o.ob ++ used e o.oc)
  | .i o => (.i { o with od := mv d o.od, oa := mv a o.oa }, used d o.od ++ used a o.oa)
  | .m o => (.m { o with ob := mv c o.ob }, used c o.ob)
  | .x o => (.x o, [])

/-- What a pass adds to the fields it staggers. -/
def Rep.offset (r : Rep) : BitVec 6 :=
  BitVec.ofNat 6 (r.pass % 2 ^ (r.imm.extractLsb' 24 3).toNat * (r.imm.extractLsb' 20 4).toNat)

/-- An instruction of the block as its pass issues it, with the registers that the stagger gives it. -/
def Rep.staggered (r : Rep) (i : Instr) : Instr × List (BitVec 6) :=
  match i.parts with
  | none => (i, [])
  | some (opc, b) =>
    let mask := r.imm.extractLsb' 16 4
    let sel := (vFields opc b).zipIdx.map fun p => p.1 && mask.getLsbD p.2
    let t := staggerBody sel r.offset b
    match decodeRaw (t.1.bits opc) with
    | .ok j => (j, t.2)
    | .error _ => (i, t.2)

/-! ### One instruction of a pass -/

/-- The repetition as it goes on: its wait is over. -/
def Rep.going (r : Rep) : Rep := { r with wait := none }

def Slot.modRep (sl : Slot) (f : Rep → Rep) : Slot := { sl with rep := sl.rep.map f }

/-- The passes may run: the slot is neither parked nor halted, nor being restored. -/
def State.repRuns (s : State) (i : SlotId) : Bool :=
  let sl := s.slot i
  !sl.dbgHalt && !s.tripped && !s.swaps i && sl.restoring == RestorePh.none && !(i == 15 && s.supHalted) &&
    (match sl.status with
      | .free | .parked _ => false
      | _ => true)

/-- A trap in the block whose record gives `pc`; `passed` when the instruction has retired.
DESIGN CHOICE, unsafe: log 76. -/
def State.repTrapAt (s : State) (i : SlotId) (pc : Word) (f : Fail) (passed : Bool) : State :=
  let s := ((s.onSlot i).restoreWait.filterAway.goHome i).repStop i
  if i = 15 then (s.supTrap f pc s.word).modSlot 15 fun sl => { sl with rep := none }
  else (s.parkTrap i f pc s.word).modSlot i fun sl => sl.modRep fun r => { r with trapped := true, passed := passed }

/-- A trap in the block (R113): the record names the block's instruction. DESIGN CHOICE, unsafe: log 76. -/
def State.repTrap (s : State) (i : SlotId) (r : Rep) (f : Fail) : State := s.repTrapAt i r.nextPc f false

/-- A trap that a SIG of the block makes when its instruction has retired (R230): the record gives the address at which the block,
or the slot when the block is over, goes on. -/
def State.repOver (s : State) (i : SlotId) (f : Fail) : State :=
  s.repTrapAt i (((s.slot i).rep.map Rep.nextPc).getD (s.slot i).pc) f true

/-- The block's instruction has retired: the next one, the next pass, or the end of the block (R110, R112). -/
def State.repNext (s : State) (i : SlotId) (r : Rep) : State :=
  let r := { r with wait := none, taken := none, skip := false }
  let s := s.leaveQueue (.rep i)
  if r.idx + 1 < r.len then (s.modSlot i fun sl => { sl with rep := some { r with idx := r.idx + 1 } }).post (.repetitionPass i)
  else if r.pass + 1 < (r.imm.extractLsb' 0 16).toNat then
    (s.modSlot i fun sl => { sl with rep := some { r with idx := 0, pass := r.pass + 1 } }).post (.repetitionPass i)
  else ((s.modSlot i fun sl => { sl with rep := none }).poolFreed).unstall

/-- The block's instruction stops: it traps, waits with a place in the queue of its own, or is tried again. -/
def State.repStopped (s : State) (i : SlotId) (r : Rep) (st : Stop) : State :=
  match st with
  | .trap f => s.repTrap i r f
  | .wait k o n =>
    (s.modSlot i fun sl => { sl with rep := some { r with wait := some (k, o) } }).joinQueue ⟨.rep i, k, o, n⟩
  | .spin =>
    let s := s.modSlot i fun sl => { sl with rep := some r }
    if s.agenda.isEmpty then s.stall else s.post (.repetitionPass i)

/-- The SIG of the block's instruction. -/
def State.repSignal (s : State) (i : SlotId) (r : Rep) (h : Hdr) : State :=
  if h.sigInc = 0 then s.repNext i r
  else if !s.slotDone i then
    ((s.onSlot i).holdSig h r.nextPc false).repNext i r
  else
    let t := s.semAdd h.sigSm h.sigInc.toNat
    let n := t.1.repNext i r
    if t.2 then n.repOver i ⟨cSEMO, 4, h.sigSm.toNat⟩ else n

/-- The instruction's own effect, its WAIT being over. -/
def State.repExec (s : State) (i : SlotId) (r : Rep) (ins : Instr) (h : Hdr) : State :=
  let t := r.staggered ins
  match t.2.findSome? (portOf (s.slot i)) with
  | some p => s.repTrap i r ⟨cSTRM, 8, ((s.slot i).port p).row ((s.slot i).port p).next⟩
  | none => match blockBody t.1 with
    | none => s.repTrap i r ⟨cILL, 11, 0⟩
    | some f => match f s with
      | .ok s => s.repSignal i r h
      | .error (st, s) => s.repStopped i r st

/-- The instructions of a block that read memory (R234). -/
def repLoads (opc : Nat) : Bool := opc == 0x122 || opc == 0x123

/-- The block's next instruction: its guards by the record, its window and its WAIT. -/
def State.repIssue (s : State) (i : SlotId) (r : Rep) (ins : Instr) : State :=
  match ins.parts with
  | none => s.repNext i r
  | some (opc, b) =>
    let s := s.withWord ((encode ins).getD 0)
    if r.skip || !({ s.slot i with p := r.preds } : Slot).guards (bodyHdr b) then s.repNext i r
    else match ((semOut (s.slot i) (semNames opc b)).orElse fun _ => s.semFail (semReads opc b)).orElse fun _ =>
        (s.onSlot i).readsBad (r.staggered ins).1 with
      | some f => s.repTrap i r f
      | none =>
        let w := bodyWait b
        let go := fun (s : State) (r : Rep) =>
          if repLoads opc && (s.onSlot i).heldBack then s.repStopped i r .spin else s.repExec i r ins (bodyHdr b)
        if w.thr = 0 || r.taken.isSome then go s r
        else match s.waitSem (.rep i) w.sm w.thr.toNat with
          | some s =>
            let r := { r with taken := some (w.sm, w.thr.toNat), wait := none }
            go (s.modSlot i fun sl => { sl with rep := some r }) r
          | none => s.repStopped i r (.wait .sem w.sm.toNat w.thr.toNat)

/-- One turn of the repetition port. A block that has been restored is fetched again first. -/
def State.repTurn (s : State) (i : SlotId) (r : Rep) : State :=
  match r.block with
  | [] => match captureBlock s (r.addr + 12) r.len with
    | .ok (block, s) => (s.modSlot i fun sl => { sl with rep := some { r with block := block } }).post (.repetitionPass i)
    | .error (st, s) => s.repStopped i r st
  | b :: bs => s.repIssue i r.going ((b :: bs).getD r.idx b)

/-- REPETITION_PASS (R110). -/
def execRepetitionPass (s : State) : Out :=
  match s.act with
  | some (.repetitionPass i) =>
    match (s.slot i).rep with
    | none => .next s
    | some r =>
      if s.repRuns i then .next ((s.onSlot i).issued.repTurn i r) else .next s
  | _ => .fault .noSuchEvent

/-! ### WTMO (R311) -/

/-- What a waiter waits for has just changed, and its wait is about to be tested: it may be satisfied (R33, R320). -/
def State.beingServed (s : State) (who : Who) : Bool :=
  s.waiters.any fun w => w.who == who && ((match w.kind, w.who with
    | .bar, .slot i | .bar, .rep i => [Act.barrierWaitReturn i]
    | .pool, _ => if w.thr == 0 then [Act.poolGrant] else w.serve
    | _, _ => w.serve).any s.agenda.contains)

/-- WTMO: the wait of the main port, or of the repetition block, has lasted WLIM. A wait that is satisfied at the same time
is satisfied. DESIGN CHOICE, unsafe: log 4. -/
def execWtmo (s : State) : Out :=
  match s.act with
  | some (.wtmo i block) =>
    let sl := s.slot i
    if sl.wlim = 0 ∨ sl.restoring ≠ .none ∨ sl.dbgHalt then .next s
    else if s.beingServed (if block then .rep i else .slot i) then .next (s.post (.wtmo i block))
    else if block then
      match sl.rep.bind fun r => r.wait.map fun w => (r, w) with
      | some (r, k, o) =>
        if kindLimited k then .next ((s.withWord ((r.block[r.idx]?.bind encode).getD 0)).repTrap i r ⟨cWTMO, kindCode k, o⟩)
        else .next s
      | none => .next s
    else match sl.status with
      | .waiting k o => if kindLimited k then .next (s.trapAt i ⟨cWTMO, kindCode k, o⟩) else .next s
      | _ => .next s
  | _ => .fault .noSuchEvent

end Sys2Proof.Machine
end

