-- ==== Sys2Proof/Machine/Sched.lean ====
section
/-!
DEFINITION. The way of a record to a slot (R276-R285), the device's actions on tows (R289, R290, R315, R316, R319, R436),
and what firmware answers to page requests (R268, R269, R272, R274).
-/

namespace Sys2Proof.Machine

/-! ### The slot table (R281, R282) -/

/-- Every address of a range of a world is sealed (R342, R347). -/
def State.sealedRange (s : State) (w : World) (lo hi : Nat) : Bool :=
  let x := (s.wst w).wseal
  let a := (x.extractLsb' 9 26).toNat * 2 ^ 30
  let b := (x.extractLsb' 35 26).toNat * 2 ^ 30
  (b ≤ a || hi ≤ a || b ≤ lo) && (s.wst w).wins.toList.all fun e => winKind e == 0 || winLimit e ≤ lo || hi ≤ winBase e

/-- A SAVECAP that a bind is refused for (R22, R347). -/
def State.saveBad (s : State) (w : World) (c : Cap) : Bool :=
  let cur := (capCursor c).toNat
  (capCheckKind w c (pR ||| pW)).isSome || cur % 128 != 0 || cur < capBase c || capTop c < cur + 0x8000 ||
    (s.isProt w && (capLocal c || !s.sealedRange w (capBase c) (capTop c)))

/-- A CMWIN that a bind is refused for (R190). -/
def winBad (v : Word) : Bool :=
  winBaseOf v % 16 != 0 || winLimitOf v % 16 != 0 || winLimitOf v < winBaseOf v || 2 ^ 22 < winLimitOf v

/-- An SMWIN that a bind is refused for (R228). -/
def semBad (v : Word) : Bool := 256 < (v.extractLsb' 0 8).toNat + (v.extractLsb' 8 9).toNat

/-- The code of a refused bind, in the order of its checks. -/
def State.bindRefused (s : State) (i : SlotId) (e : BindEntry) : Option (BitVec 8) :=
  if i = 15 ∨ (s.slot i).status ≠ .free then some 5
  else if s.saveBad e.world e.savecap then some 6
  else if winBad e.cmwin then some 7
  else if semBad e.smwin then some 8
  else none

/-- The parameters of an entry are a slot's. -/
def Slot.given (sl : Slot) (e : BindEntry) : Slot :=
  { sl with world := e.world, cmwin := windowBits e.cmwin, smwin := e.smwin &&& 0x1FFFF, savecap := e.savecap,
            tslice := e.tslice, wlim := e.wlim, isLocal := e.isLocal }

/-- The entry of a slot is written; entry 15 is read-only (R281). -/
def State.writeEntry (s : State) (i : SlotId) (e : BindEntry) : State :=
  if i = 15 then s else s.modSlot i fun sl => { sl with entry := e }

/-- BIND and STAND, on an entry as it has been written: refused with a code, or the parameters are set and the slot goes on. -/
def State.bindWith (s : State) (i : SlotId) (e : BindEntry) (f : State → State) : State :=
  let s := s.writeEntry i e
  match s.bindRefused i e with
  | some code => (s.setStat i code).post .localRefill
  | none => f (s.modSlot i (·.given e))

/-- BIND: a record that stood in the cluster's ready queue leaves it. DEDUCED, unsafe: log 54. -/
def execBind (s : State) : Out :=
  match s.act with
  | some (.bind i e) => .next (s.bindWith i e fun s => (s.crqTake e.record).startIn i e.record)
  | _ => .fault .noSuchEvent

/-- STAND. -/
def execStand (s : State) : Out :=
  match s.act with
  | some (.stand i e) => .next (s.bindWith i e fun s => (s.setStat i 9).post .localRefill)
  | _ => .fault .noSuchEvent

/-- The fibres of slots can be suspended now, one after another. -/
def State.allSuspend (s : State) (is : List SlotId) : Bool := is.all s.suspendsNow && s.monsRoom is

/-- The act waits until the fibres of slots can be suspended. -/
def State.suspendLater (s : State) (is : List SlotId) : State := (is.foldl State.askImage s).stall

/-- OP returns to 0 (R282); local refills of the slot are possible again (R283). -/
def State.opEnds (s : State) (i : SlotId) : State :=
  if (s.slot i).op = 0 then s else (s.modSlot i fun sl => { sl with op := 0 }).post .localRefill

/-- PREEMPT: an away fibre is suspended when it reaches home, and OP stands until then. -/
def execPreempt (s : State) : Out :=
  match s.act with
  | some (.preempt i) =>
    if i = 15 ∨ (s.slot i).status = .free then .next (s.opEnds i)
    else if s.suspendsNow i then .next ((s.preemptSlot i).opEnds i)
    else .next ((s.modSlot i fun sl => { sl with op := 2 }).suspendLater [i])
  | _ => .fault .noSuchEvent

/-- POOL_GRANT (R13): units of the core's pools are free; those who wait for them try again. -/
def execPoolGrant (s : State) : Out :=
  match s.act with
  | some .poolGrant => .next (s.rouseAll fun k _ => k == .pool)
  | _ => .fault .noSuchEvent

/-! ### The aperture (R276-R278) -/

/-- The granule of the launch capability table at an index; null where it lies outside, or cannot be read: a page of a frame
cannot (R140). DEDUCED, unsafe: log 55. -/
def State.launchCap (s : State) (w : World) (i : Nat) : Cap :=
  let t := (s.wst w).lctc
  let a := (capCursor t).toNat + 16 * i
  if !t.tag || a < capBase t || capTop t < a + 16 then Cap.null
  else if capLocal t then s.filterCap (s.readGran (locKey a))
  else match s.translate w none a { r := true } with
    | .ok pa main =>
      let g := s.readGran pa
      if lfKV main then Cap.null else s.filterCap (if bitN main 6 then g else capUntag g)
    | _ => Cap.null

/-- The record that an aperture write of 64 bytes stores. -/
def State.apertureRecord (s : State) (w : World) (pri : Nat) (data : List Byte) : Rec :=
  let d := fun (off : Nat) => leNat ((data.drop off).take 8)
  let ctl := BitVec.ofNat 64 (d 56)
  ⟨s.launchCap w (d 0), if d 16 == 2 ^ 64 - 1 then Cap.null else s.launchCap w (d 16), BitVec.ofNat 64 (d 32),
    BitVec.ofNat 64 (d 40), BitVec.ofNat 64 (d 48),
    (ctl &&& 0xFFFFFFFFFFC0FFFF) ||| BitVec.ofNat 64 (w.val * 2 ^ 18 + pri * 2 ^ 16)⟩

/-- An access of a host port that keeps its place in the port's order (R253, R254). -/
def portAct (p : HostPort) (a : Act) : Bool :=
  match a with
  | .hostBar2Read q _ _ _ | .hostBar2Write q _ _ _ _ | .enqueueApertureWrite q _ _ _ | .counterGroupRead q _ _ _ => q == p
  | _ => false

/-- An access that arrived earlier at the port, or a logged write of it, has not been performed. -/
def State.portBehind (s : State) (p : HostPort) : Bool := s.deferred.any (portAct p) || s.sideLog.any (·.who == .port p)

/-- A release at system scope over the earlier writes of the port waits for them and for their invalidations (R252, R253). -/
def State.portWaits (s : State) (p : HostPort) : Bool := s.portBehind p || !s.dupQuiet

/-- A write of the aperture enqueues one record, when it is one of 64 bytes at a multiple of 64 (R276, R279). -/
def State.apertureWrite (s : State) (fn : World) (off : Nat) (data : List Byte) : State :=
  if data.length ≠ 64 ∨ off % 64 ≠ 0 then s.modWorld fn fun x => { x with enqbad := x.enqbad + 1 }
  else
    let r := s.apertureRecord fn (off / 2 ^ 12) data
    let c : Fin 64 := Fin.ofNat 64 (off / 64)
    if s.crqRoom c r then s.crqPut c r else s.modWorld fn fun x => { x with enqlost := satInc x.enqlost }

/-! ### Local queues (R283-R285) -/

/-- The record that a local refill takes: of those with a slot, the first of the highest priority. -/
def State.refillRec (s : State) : Option Rec :=
  (List.range 4).findSome? fun p => s.lrq.find? fun r => recPri r == p && (s.localSlot (recWorld r)).isSome

/-- Promotions and deliveries that a freed entry allows. -/
def State.lrqFreed (s : State) : State :=
  { s with agenda := s.agenda ++
      ((List.finRange 16).filter fun w => !(s.ring w).recs.isEmpty).map (.cmqPromote ·) ++
      (if s.heldMsgs.isEmpty then [] else [.heldMessageDelivery none]) }

/-- LOCAL_REFILL. -/
def execLocalRefill (s : State) : Out :=
  match s.act with
  | some .localRefill =>
    match s.refillRec with
    | none => .next (if s.heldMsgs.isEmpty then s else s.post (.heldMessageDelivery none))
    | some r => match s.localSlot (recWorld r) with
      | none => .next s
      | some i => .next ((({ s with lrq := dropFirst r s.lrq } : State).startIn i r).lrqFreed.post .localRefill)
  | _ => .fault .noSuchEvent

/-- The oldest records of each priority move from the memory queue while the local queue takes them; `kept` are those
that stay, in order. -/
def State.promote (s : State) (w : World) (kept : List Rec) : List Rec → State
  | [] => { s with cmq := s.cmq.set w { s.ring w with recs := kept } }
  | r :: rs =>
    if kept.all (fun q => recPri q != recPri r) && s.lrqRoom w (recPri r) then
      ({ s with lrq := s.lrq ++ [r] } : State).promote w kept rs
    else s.promote w (kept ++ [r]) rs

/-- CMQ_PROMOTE. -/
def execCmqPromote (s : State) : Out :=
  match s.act with
  | some (.cmqPromote w) =>
    let t := s.promote w [] (s.ring w).recs
    .next (if t.lrq = s.lrq then t
      else
        let t := t.post .localRefill
        if t.heldMsgs.isEmpty then t else t.post (.heldMessageDelivery none))
  | _ => .fault .noSuchEvent

/-- HELD_MESSAGE_DELIVERY: held records go where there is room, in their order; or the record that another core has sent to this
one arrives (R286, R298), unless its transfer is dropped (R344). -/
def execHeldMessageDelivery (s : State) : Out :=
  match s.act with
  | some (.heldMessageDelivery none) => .next (s.heldMsgs.foldl State.deliverHeld { s with heldMsgs := [] })
  | some (.heldMessageDelivery (some (r, sealOk))) =>
    .next (if s.transferOk (recWorld r) sealOk then s.deliverHeld r else s.transferFails (recWorld r) 0)
  | _ => .fault .noSuchEvent

/-! ### Budgets (R315, R316) -/

/-- The members of a tow on this core. -/
def State.members (s : State) (w : World) (t : BitVec 16) : List SlotId :=
  allSlots.filter fun i => i != 15 && (s.slot i).status != .free && (s.slot i).world == w && (s.slot i).tow == t

/-- A record of a tow. -/
def ofTow (w : World) (t : BitVec 16) (r : Rec) : Bool := recWorld r == w && recTow r == t

/-- Bytes 0-7 of an entry of the snapshot: where the member is. -/
def State.snapWhere (s : State) (i : SlotId) (bound : Bool) (c : Fin 64) : Nat :=
  (if bound then 2 ^ 21 else 0) + c.val / 16 * 2 ^ 19 + c.val * 2 ^ 13 + s.core.val * 2 ^ 10 + i.val * 2 ^ 6

/-- An entry of the snapshot. -/
def snapEntry (place : Nat) (pc : Word) (waiton : Nat) : List Byte := leBytes 8 place ++ leBytes 8 pc.toNat ++ leBytes 16 waiton

/-- The await entries of a tow. -/
def State.towAwaits (s : State) (w : World) (t : BitVec 16) : List (Fin 32 × AwaitEntry) :=
  (List.finRange 32).filterMap fun i => match s.await[i] with
    | some e => if e.world == w && e.tow == t && !e.swap then some (i, e) else none
    | none => none

/-- WAITON of an await entry; the cycles waited are not stated. -/
def awaitOn (e : AwaitEntry) (cycles : Word) : Nat :=
  kindCode e.kind + (if e.kind = .sem then e.thr % 2 ^ 16 * 2 ^ 16 else 0) + cycles.toNat % 2 ^ 32 * 2 ^ 32 + e.obj % 2 ^ 64 * 2 ^ 64

/-- The queued records of a tow, with the cluster in whose queue they are. -/
def State.towQueued (s : State) (w : World) (t : BitVec 16) : List (Fin 64 × Rec) :=
  ((s.clq ++ s.heldQ).filter fun q => ofTow w t q.rcd).map (fun q => (q.cluster, q.rcd)) ++
    ((s.lrq ++ (s.ring w).recs ++ s.heldMsgs).filter (ofTow w t)).map fun r => (s.cluster, r)

/-- The queues without the records of a tow. -/
def State.dropQueued (s : State) (w : World) (t : BitVec 16) : State :=
  let s := { s with
    clq := s.clq.filter fun q => !ofTow w t q.rcd, heldQ := s.heldQ.filter fun q => !ofTow w t q.rcd,
    lrq := s.lrq.filter fun r => !ofTow w t r, heldMsgs := s.heldMsgs.filter fun r => !ofTow w t r,
    cmq := s.cmq.set w { s.ring w with recs := (s.ring w).recs.filter fun r => !ofTow w t r } }
  s.crqDrain.lrqFreed

/-- The swap entries of a tow and its marks on monitors are removed. -/
def State.unmarkTow (s : State) (w : World) (t : BitVec 16) : State :=
  let un := fun (m : ParkedMon) => if m.world == w && m.tow == t then { m with tow := 0 } else m
  let s := { s with quayMons := s.quayMons.map un, cl := { s.cl with parkedMons := s.cl.parkedMons.map un } }
  (List.finRange 32).foldl (fun s i => match s.await[i] with
    | some e => if e.swap && e.world == w && e.tow == t then s.dropAwait i else s
    | none => s) s

/-- The PC at which a record's fibre resumes: that of its image, which nothing constrains while it cannot be read, or its G0's
cursor. -/
def State.recPc (s : State) (w : World) (r : Rec) : Word × State :=
  if r.g0.tag && capOtype r.g0 == 1 then
    match s.devPieces w r.g0 ((capCursor r.g0).toNat + 0x3F0) 16 { r := true } with
    | .ok ps => if (piecesHold ps).isNone then (capCursor ⟨true, BitVec.ofNat 128 (leNat (s.devRead ps))⟩, s) else s.takeFree
    | .error _ => s.takeFree
  else (capCursor r.g0, s)

/-- A record of a tow is held, for its cluster's queue. -/
def State.hold1 (s : State) (w : World) (t : BitVec 16) (c : Fin 64) (r : Rec) : State :=
  { s with susp := s.susp ++ [(w, t, ⟨c, r⟩)] }

/-- A state in which members have been held, with their entries of the snapshot. -/
abbrev Snap := State × List (List Byte)

/-- A member is pre-empted: its record is held and its entry of the snapshot made. -/
def holdMember (w : World) (t : BitVec 16) (p : Snap) (i : SlotId) : Snap :=
  let s := p.1
  let pc := if (s.slot i).restoring = .none then ((s.slot i).pc, s) else s.recPc w (s.slot i).startRec
  let wo := if (s.slot i).waitNow.1 = .none then 0 else pc.2.waitOn i (Config.freeWord pc.2.freeCtr)
  let r := pc.2.suspend i 1 0 4
  ((r.1.putRec i r.2).hold1 w t s.cluster r.2, p.2 ++ [snapEntry (s.snapWhere i true s.cluster) pc.1 wo])

/-- The snapshot's entry of an await or swap entry. -/
def snapAwait (w : World) (p : Snap) (e : AwaitEntry) : Snap :=
  let f := p.1.takeFree
  let pc := f.2.recPc w e.rcd
  (pc.2, p.2 ++ [snapEntry (p.1.snapWhere 0 false p.1.cluster) pc.1 (awaitOn e f.1)])

/-- An await entry of the tow is removed and its record held. -/
def holdAwait (w : World) (t : BitVec 16) (p : Snap) (e : Fin 32 × AwaitEntry) : Snap :=
  let q := snapAwait w p e.2
  ((q.1.hold1 w t q.1.cluster e.2.rcd).dropAwait e.1, q.2)

/-- The records of a swapped tow are held; its swap entries stand in the await table. -/
def holdSwapped (w : World) (t : BitVec 16) (k : Nat) (p : Snap) : Snap :=
  let mine := p.1.swapped.filter fun r => r.1 == w && r.2.1 == t
  if mine.isEmpty then p
  else
    let es := (p.1.await.toList.filterMap id).filter fun e => e.swap && e.world == w && e.tow == t
    let q := es.foldl (snapAwait w) p
    let s := (q.1.unmarkTow w t).towFlags k (flagSet 4 false)
    let s : State := { s with swapped := s.swapped.filter fun r => !(r.1 == w && r.2.1 == t) }
    (mine.foldl (fun (s : State) r => s.hold1 w t s.cluster (recIn w r.2.2)) s, q.2)

/-- A queued record of the tow is held. -/
def holdQueued (w : World) (t : BitVec 16) (p : Snap) (r : Fin 64 × Rec) : Snap :=
  let pc := p.1.recPc w r.2
  (pc.2.hold1 w t r.1 r.2, p.2 ++ [snapEntry (pc.2.snapWhere 0 false r.1) pc.1 0])

/-- A swap that has been decided ends: SWAPPED is cleared. -/
def State.swapEnds (s : State) (w : World) (t : BitVec 16) (k : Nat) : State :=
  ({ s with swapping := s.swapping.filter (· != (w, t)) } : State).towFlags k (flagSet 4 false)

/-- The members in slots, the await entries, the swapped and the queued records of a tow are held; the snapshot's entries. -/
def State.holdTow (s : State) (w : World) (t : BitVec 16) (k : Nat) : Snap :=
  let s := if s.swapping.contains (w, t) then s.swapEnds w t k else s
  let a := (s.members w t).foldl (holdMember w t) (s, [])
  let b := holdSwapped w t k ((a.1.towAwaits w t).foldl (holdAwait w t) a)
  let q := (b.1.towQueued w t).foldl (holdQueued w t) b
  (q.1.dropQueued w t, q.2)

/-- The snapshot goes to STADDR + 16, through the route's port; without a route, to firmware. -/
def State.writeSnapshot (s : State) (w : World) (t : BitVec 16) (k : Nat) (es : List (List Byte)) : State :=
  let data := leBytes 8 es.length ++ List.replicate 8 0 ++ (es.take 256).flatten
  if bitN (s.towNat k 4 4) 0 then
    let port := portOfBit (bitN (s.towNat k 4 4) 2)
    s.sendHost port (.write port (s.towNat k 0x38 8 + 16) data)
  else s.notice (.snapshot w t data)

/-- What Torud does with a tow whose budget is exceeded, once every member can be pre-empted.
DEDUCED, unsafe: log 53. -/
def State.syncSuspect (s : State) (w : World) (t : BitVec 16) (k : Nat) : State :=
  if !bitN (s.towNat k 4 4) 5 then s
  else if s.allSuspend (s.members w t) then
    let r := s.holdTow w t k
    let s := r.1.writeSnapshot w t k r.2
    ({ s with launches := s.launches ++ [(w, t, 2)] }).post (.launchCompletion w t)
  else s.suspendLater (s.members w t)

/-- BUDGET_CHARGE: cycles that a member has waited are added; with none, Torud acts on the event. -/
def execBudgetCharge (s : State) : Out :=
  match s.act with
  | some (.budgetCharge w t n) =>
    if 1024 < n then .next s
    else if 0 < n then .next (s.towAct w t (.charge n))
    else if t = 0 then .next s
    else match s.towTr w t with
      | .ok k m => .next (if s.dupBusy m k 256 then s.stall else s.syncSuspect w t k)
      | .hold why => .next (s.askPage w (s.towVa w t) why).stall
      | .fail _ _ => .next (s.auditIrq w (s.towVa w t))
  | _ => .fault .noSuchEvent

/-! ### Tow swaps (R318, R319) -/

/-- The wait of a member as a swap entry: kinds 1 to 6. -/
def State.swapEntry (s : State) (i : SlotId) : Option AwaitEntry :=
  let sl := s.slot i
  let k := sl.waitNow
  let n := kindCode k.1
  if 1 ≤ n && n ≤ 6 then some ⟨k.1, k.2, s.waitThr i, Rec.zero, sl.tow, sl.world, true⟩ else none

/-- The await table and the parked-monitor tables have room for the members. -/
def State.swapRoom (s : State) (is : List SlotId) : Bool :=
  (is.filter fun i => (s.swapEntry i).isSome).length ≤ ((List.finRange 32).filter fun i => s.await[i].isNone).length && s.monsRoom is

/-- A member is suspended and its wait entered. -/
def State.swapMember (s : State) (w : World) (t : BitVec 16) (i : SlotId) : State :=
  let e := s.swapEntry i
  let r := s.suspend i 2 t 4
  let s := r.1.putRec i r.2
  let s := { s with swapped := s.swapped ++ [(w, t, r.2)] }
  match e, s.freeAwait with
  | some e, some j => s.putAwait j { e with rcd := r.2 }
  | _, _ => s

/-- The event of a member has come after the decision: its wait is over, or its park is about to be (R319, R320). -/
def State.swapOver (s : State) (i : SlotId) : Bool :=
  !(s.tallyNow i).wait || ((s.slot i).status == .parked .park && ((s.slot i).mons.toList.any fun m => m.armed && m.trig))

/-- The members are suspended; an event that has come meanwhile brings the tow back. -/
def State.doSwap (s : State) (w : World) (t : BitVec 16) : State :=
  let is := s.members w t
  let back := is.any s.swapOver
  let s := is.foldl (fun s i => s.swapMember w t i) { s with swapping := s.swapping.filter (· != (w, t)) }
  if back then s.post (.towReturn w t) else s

/-- A swap that has been decided goes on once every member can be suspended; until then none of them goes on (R319, R320). A budget
that is exceeded meanwhile ends it, and so does the end of its last member. -/
def State.goSwap (s : State) (w : World) (t : BitVec 16) (k : Nat) : State :=
  let is := s.members w t
  if is.isEmpty || bitN (s.towNat k 4 4) 5 then s.swapEnds w t k
  else if s.allSuspend is then s.doSwap w t else s.suspendLater is

/-- The indivisible action that decides a swap (R318). -/
def State.decideSwap (s : State) (w : World) (t : BitVec 16) (k : Nat) : State :=
  let n := s.towNat k 0x5C 4
  (({ s with swapping := s.swapping ++ [(w, t)] } : State).towFlags k (flagSet 4 true)).towSet k 0x5C 4 (min (n + 1) (2 ^ 32 - 1))

/-- The members of a tow are all waiting, and the wait of one is older than TSW. -/
def State.swapDue (s : State) (is : List SlotId) : Bool :=
  !is.isEmpty && is.all (fun i => s.tally[i].wait) && is.any (fun i => s.tally[i].long)

/-- TOW_SWAP on the descriptor at `k`: the members of the tow are counted again; without a swap, the wait of a further member has come
to exceed TSW. An exceeded budget wins (R320). -/
def State.swapAct (s : State) (w : World) (t : BitVec 16) (k : Nat) : State :=
  let is := s.members w t
  if s.swapping.contains (w, t) then s.goSwap w t k
  else if t = 0 || s.towNat k 0x30 8 == 0 || bitN (s.towNat k 4 4) 4 || bitN (s.towNat k 4 4) 5 then s
  else if s.swapDue is && s.swapRoom is then (s.decideSwap w t k).goSwap w t k
  else match is.find? fun i => s.tally[i].wait && !s.tally[i].long && !(s.slot i).dbgHalt with
    | some i => ({ s with tally := s.tally.set i { s.tally[i] with long := true } } : State).towAct w t (.counts 0 0 1)
    | none => s

/-- TOW_SWAP: behind held actions the decision is held as well, and while invalidations of the descriptor's line are outstanding
(R251, R436). -/
def execTowSwap (s : State) : Out :=
  match s.act with
  | some (.towSwap w t) =>
    if s.actsHeld w t then .next (s.towAct w t .swap)
    else match s.towTr w t with
      | .ok k m => .next (if s.dupBusy m k 256 then s.towAct w t .swap else s.swapAct w t k)
      | .hold _ => .next (s.towAct w t .swap)
      | .fail _ _ => .next (s.auditIrq w (s.towVa w t))
  | _ => .fault .noSuchEvent

/-- TOW_RETURN: the first event ends the swap; every member's record goes back to its cluster's ready queue, in the world of the
slot it left (R18); that of a suspended tow is held (R315). -/
def execTowReturn (s : State) : Out :=
  match s.act with
  | some (.towReturn w t) =>
    let mine := s.swapped.filter fun r => r.1 == w && r.2.1 == t
    if mine.isEmpty then .next s
    else match s.towTr w t with
      | .hold why => .next (s.askPage w (s.towVa w t) why).stall
      | .ok k m =>
        if s.dupBusy m k 256 then .next s.stall
        else
          let s := (s.unmarkTow w t).towFlags k (flagSet 4 false)
          let s := { s with swapped := s.swapped.filter fun r => !(r.1 == w && r.2.1 == t) }
          let held := bitN (s.towNat k 4 4) 5
          .next (mine.foldl (fun s r =>
            if held then s.hold1 w t s.cluster (recIn w r.2.2) else s.requeue s.cluster (recIn w r.2.2)) s)
      | .fail _ _ => .next (s.auditIrq w (s.towVa w t))
  | _ => .fault .noSuchEvent

/-! ### Launches (R289, R290) -/

/-- Every write and copy that a fibre of the world has issued has been performed, those of suspended fibres among them.
DEDUCED, safe: log 56. -/
def State.worldQuiet (s : State) (w : World) : Bool :=
  s.sideLog.all (·.world != w) && s.updates.all (·.world != w) && s.dupQuiet && s.peerOut.isEmpty &&
    s.asleep.all (fun a => !(a.world == w && a.copies)) && s.slots.toList.all fun sl => sl.copies.all fun c => c.world != w

/-- The status write and the interrupt of a completion. -/
def State.completeLaunch (s : State) (w : World) (k : Nat) (status : Nat) : State :=
  let f := s.towNat k 4 4
  if !bitN f 0 then s
  else
    let port := portOfBit (bitN f 2)
    let s := s.sendHost port (.write port (s.towNat k 0x38 8) (leBytes 8 (s.towNat k 0x48 8) ++ leBytes 8 status))
    s.coalesced port (bitN f 1) w (s.towNat k 0x40 4) (s.towNat k 0x44 4)

/-- LAUNCH_COMPLETION: once the writes of the launch are performed, behind the tow's held actions (R436). -/
def execLaunchCompletion (s : State) : Out :=
  match s.act with
  | some (.launchCompletion w t) =>
    match s.launches.find? fun l => l.1 == w && l.2.1 == t with
    | none => .next s
    | some l =>
      let rest := dropFirst l s.launches
      if s.actsHeld w t then .next s.stall
      else match s.towTr w t with
      | .hold why => .next (s.askPage w (s.towVa w t) why).stall
      | .fail _ _ => .next (({ s with launches := rest } : State).auditIrq w (s.towVa w t))
      | .ok k _ =>
        if s.worldQuiet w then .next (({ s with launches := rest } : State).completeLaunch w k l.2.2) else .next s.stall
  | _ => .fault .noSuchEvent

/-- COALESCING_WINDOW_END. -/
def execCoalescingWindowEnd (s : State) : Out :=
  match s.act with
  | some (.coalescingWindowEnd p uli fn vec) =>
    let is := fun (c : Coalesce) => c.port == p && c.uli == uli && c.fn == fn && c.vec == vec
    match s.coalesce.find? is with
    | none => .next s
    | some c =>
      if c.pending then
        .next (({ s with coalesce := s.coalesce.map fun d => if is d then { d with pending := false } else d } : State).interrupt
          p uli fn vec)
      else .next { s with coalesce := s.coalesce.filter fun d => !is d }
  | _ => .fault .noSuchEvent

/-- TOW_DESCRIPTOR_ACTION_HELD (R436). -/
def execTowDescriptorActionHeld (s : State) : Out :=
  match s.act with
  | some .towDescriptorActionHeld => .next s.retryHeld
  | _ => .fault .noSuchEvent

/-! ### Pages (R268, R269, R274) -/

/-- What waited for a page tries again: fibres, held actions, logged stores and the engines. -/
def State.pagesChanged (s : State) : State :=
  (s.rouseAll fun k _ => k == .page || k == .frame).retryHeld.replay

/-- A request is for the page of an address. -/
def PageReq.covers (q : PageReq) (w : World) (va : Nat) : Bool := q.world == w && q.va ≤ va && va < q.va + q.size

/-- PAGE_REQUEST_MAPPED: a KV page that was mapped for the request is fresh (R152). -/
def execPageRequestMapped (s : State) : Out :=
  match s.act with
  | some (.pageRequestMapped w va) =>
    let mine := s.pageReqs.filter (·.covers w va)
    let s : State := { s with pageReqs := s.pageReqs.filter fun q => !q.covers w va }
    .next (if mine.any (·.absent) then s.pageFresh w va else s).pagesChanged
  | _ => .fault .noSuchEvent

/-- An entry of a translation cache that an invalidation of an address, or of a whole world, removes. -/
def TransEntry.stale (e : TransEntry) (w : World) (va : Option Nat) : Bool := e.world == w && va.all (e.covers w ·)

/-- TRANSLATION_INVALIDATE: from here on every access uses the table as it stands, held and logged ones included. -/
def execTranslationInvalidate (s : State) : Out :=
  match s.act with
  | some (.translationInvalidate w va) =>
    .next (({ s with tcache := s.tcache.filter fun e => !e.stale w va } : State).dropWorld w).pagesChanged
  | _ => .fault .noSuchEvent

/-- SIDE_LOG_ADMIT: the logs replay what their pages take, and stores that waited for room in one try again, in the order in
which they began to wait. -/
def execSideLogAdmit (s : State) : Out :=
  match s.act with
  | some .sideLogAdmit => .next s.replay
  | _ => .fault .noSuchEvent

/-- Some piece waits on one of the addresses that a request named. -/
def holdsOn (hit : Nat → Bool) (ps : Except Fail (List Piece)) : Option Nat :=
  match ps with
  | .ok ps => (ps.find? fun p => p.place == .hold && hit p.va).map (·.va)
  | .error _ => none

/-- What a read of a piece reads besides: the bitmaps of a compressed page, and the scale granules of its lines (R174, R175). -/
def State.alsoRead (s : State) (w : World) (p : Piece) : List (Nat × Nat) :=
  match p.place with
  | .at key main =>
    let o := p.va % lfBytes main
    if keyIsCl key then []
    else (if lfCmp main then [s.bitmapRange w main p.va p.len] else []) ++
      (if lfBG main == 0 then [] else
        [((s.shadowVa w (p.va - o) + o / 128 * 16) % 2 ^ 56, 16 * ((o + p.len - 1) / 128 - o / 128 + 1))])
  | _ => []

/-- A read of world `w` at a global range waits on one of them: where. -/
def State.readHolds (s : State) (w : World) (hit : Nat → Bool) (a n : Nat) : Option Nat :=
  let at_ := fun (a n : Nat) => s.globalPieces w (some s.cluster.val) { r := true } false a n
  (holdsOn hit (at_ a n)).orElse fun _ => match at_ a n with
    | .ok ps => (ps.flatMap (s.alsoRead w)).findSome? fun g => holdsOn hit (at_ g.1 g.2)
    | .error _ => none

/-- The world for which a slot's instruction reaches memory: that of its target for rdpk of TSW (R431). -/
def State.pageWorld (s : State) (i : SlotId) : World :=
  match (s.slot i).held.map fun w => decodeBytes (leBytes 12 w.toNat) with
  | some (.ok (.rdpk o)) => (s.slot (Fin.ofNat 16 ((s.slot i).rx o.oa).toNat)).world
  | _ => (s.slot i).world

/-- The requests of a quay that firmware refuses; an address is one of theirs for an agent of a die. -/
structure Refused where
  quay : Fin 128
  reqs : List PageReq
def Refused.hits (r : Refused) (w : World) (die a : Nat) : Bool :=
  r.quay.val == 32 * die + quayOf a && r.reqs.any (·.covers w a)

/-- The die at whose quays a slot asks. -/
def State.slotDie (s : State) (i : SlotId) : Nat := ((s.slot i).quay.map fun q => q.val / 32).getD s.die

/-- The accesses of a slot that a refused page stops: its instruction, or its block's, and a restore's image. -/
def State.refuseSlot (s : State) (w : World) (r : Refused) (i : SlotId) : State :=
  let sl := s.slot i
  let hit := r.hits w (s.slotDie i)
  if s.pageWorld i != w then s
  else
    let s := match sl.status with
      | .waiting .page o =>
        if !hit o then s
        else if sl.restoring != RestorePh.none then s.restoreFail i ⟨cPAGE, 1, o⟩
        else s.trapAt i ⟨cPAGE, 1, o⟩
      | _ => s
    match sl.rep with
    | some r => match r.wait with
      | some (.page, o) =>
        if hit o then
          (s.withWord ((r.block[r.idx]?.bind encode).getD 0)).repTrap i r ⟨cPAGE, 1, o⟩
        else s
      | _ => s
    | none => s

/-- A row of a read port whose page is refused: the fault is the row's. -/
def State.refuseRow (s : State) (w : World) (hit : Nat → Bool) (i : SlotId) (j : Fin 4) : State :=
  let sl := s.slot i
  let p := sl.port j
  let n := p.next + p.rows.length
  if sl.world == w && p.bound && p.started && !p.write && p.rows.length < 8 && n < p.total && !capLocal p.cap &&
      (s.readHolds w hit (p.row n) 128).isSome then
    (s.modSlot i fun sl => sl.modPort j fun p => { p with rows := p.rows ++ [.bad ⟨cPAGE, 1, p.row n⟩] }).rouse i
  else s

/-- A latch part whose page is refused keeps the fault for the instruction that reads it. -/
def State.refusePart (s : State) (w : World) (hit : Nat → Bool) (i : Fin 6) : State :=
  match s.mat.holder with
  | none => s
  | some h =>
    let p := s.mat.part i
    if (s.slot h).world != w || !p.pending then s
    else match p.plan.findSome? fun l => l.bind fun l => if l.loc then none else s.readHolds w hit l.addr l.len with
      | some va => s.setPart i { p with err := some ⟨cPAGE, 1, va⟩ }
      | none => s

/-- A copy command whose source waits on the page stops. -/
def State.refuseCopy (s : State) (w : World) (hit : Nat → Bool) (i : SlotId) : State :=
  match (s.slot i).copies with
  | [] => s
  | c :: _ =>
    if c.world != w || capLocal c.src || c.rows ≤ c.rowsDone then s
    else match s.readHolds w hit c.srcAt (c.srcOf (s.chunkUnits i c)) with
      | some va => s.copyFail i c ⟨cPAGE, 4, va⟩
      | none => s

/-- The logged entries of a page are discarded, with a record for each. -/
def State.refuseLog (s : State) (w : World) (r : Refused) : State :=
  let gone := fun (e : LogEntry) => e.world == w && e.quay == r.quay && r.reqs.any (·.covers w e.va)
  (s.sideLog.filter gone).foldl (fun s e => e.discard ⟨cPAGE, 2, e.va⟩ s)
    { s with sideLog := s.sideLog.filter (!gone ·) }

/-- The held actions on descriptors of a page are discarded, launch completions among them (R436). -/
def State.refuseActs (s : State) (w : World) (r : Refused) : State :=
  let hit := fun a => r.reqs.any (·.covers w a)
  let act := fun (h : HeldAct) => h.world == w && hit (s.towVa w h.tow)
  let launch := fun (l : World × BitVec 16 × Nat) => l.1 == w && hit (s.towVa w l.2.1) && (match s.towTr w l.2.1 with
    | .hold _ => true
    | _ => false)
  ((s.heldActs.filter act).map (·.tow) ++ (s.launches.filter launch).map (·.2.1)).foldl
    (fun t h => t.auditIrq w (s.towVa w h))
    { s with heldActs := s.heldActs.filter (!act ·), launches := s.launches.filter (!launch ·) }

/-- Everything that waits for a page is told that there is none. DEDUCED, unsafe: log 57. -/
def State.refusePage (s : State) (w : World) (r : Refused) : State :=
  let hit := r.hits w s.die
  let s := allSlots.foldl (fun s i => s.refuseSlot w r i) s
  let s := allSlots.foldl (fun s i => (List.finRange 4).foldl (fun s j => s.refuseRow w hit i j) s) s
  let s := (List.finRange 6).foldl (fun s i => s.refusePart w hit i) s
  let s := allSlots.foldl (fun s i => s.refuseCopy w hit i) s
  ((s.refuseLog w r).refuseActs w r).writesDone

/-- PAGE_REQUEST_REFUSAL, of a request that a quay has posted. -/
def execPageRequestRefusal (s : State) : Out :=
  match s.act with
  | some (.pageRequestRefusal w va quay) =>
    let is := fun (q : PageReq) => q.covers w va && q.quay == quay
    let mine := s.pageReqs.filter is
    if mine.isEmpty then .next s
    else .next (({ s with pageReqs := s.pageReqs.filter fun q => !is q } : State).refusePage w ⟨quay, mine⟩)
  | _ => .fault .noSuchEvent

/-! ### Counters of second-tier pages (R272) -/

/-- One counter at a rescan of its die: a saturated one whose notification was not queued posts it. -/
def State.recount (s : State) (die : Fin 4) (c : PageCount) : State :=
  if quayDie c.quay == die && c.count == 65535 && !c.queued then
    let r := s.tierPost c
    { r.1 with pageCounts := r.1.pageCounts ++ [r.2] }
  else { s with pageCounts := s.pageCounts ++ [c] }

/-- COUNTER_TABLE_RESCAN: firmware has drained the die's queue and cleared its flag; saturated counters post again. -/
def execCounterTableRescan (s : State) : Out :=
  match s.act with
  | some (.counterTableRescan die) =>
    .next (s.pageCounts.foldl (fun s c => s.recount die c)
      { s with pageNotes := s.pageNotes.filter (·.1 != die), pageOvf := s.pageOvf.set die false, pageCounts := [] })
  | _ => .fault .noSuchEvent

end Sys2Proof.Machine
end

