-- ==== Sys2Proof/Machine/Host.lean ====
section
/-!
DEFINITION. The host ports: accesses to device memory and to counters (R254, R253, R354, R387), PSEM (R388), the mailbox and its
commands (R389, R390), the registers of the management path (R432) and the collective windows' own actions (R397-R399).
-/

namespace Sys2Proof.Machine

/-! ### BAR 2 (R387) -/

/-- Where a byte range of one page of a world lies for an access of a host or a peer: none where it is treated as
unmapped. -/
def State.outsidePlace (s : State) (w : World) (va : Nat) (n : Need) : Option Place :=
  if (s.window w va).isSome then none
  else match s.translate w none va n with
    | .fail _ _ => none
    | .hold .colour => none
    | .hold .unmapped =>
      match s.translate w none va { n with w := false } with
      | .ok _ main => if lfMP main && bitN main 4 && (!n.cw || bitN main 7) then some .hold else none
      | _ => none
    | .ok pa main => match s.pageFail n false w va main with
      | some _ => none
      | none => some (.at pa main)

/-- The pieces of a range, each in one 64 KiB page. -/
def outsideCuts (va n : Nat) : List (Nat × Nat) := cut64 (n / 2 ^ 16 + 2) va n

/-- An access from outside reaches a page: its counter rises when it is a second-tier page (R272). -/
def State.outsideCounts (s : State) (w : World) (key va : Nat) : State :=
  if 2 ^ 47 ≤ key && !keyIsCl key && !keyIsHost key then s.countPage w (s.askQuay va) (va / 2 ^ 16 * 2 ^ 16) else s

/-- A read from outside reaches a page: a bad line that it finds is listed (R376). -/
def State.outsideSees (s : State) (w : World) (key va n : Nat) : State :=
  let s := s.outsideCounts w key va
  match s.readError w key n va with
  | some (c, a) => s.sawError w ⟨c, 0, a⟩
  | none => s

/-- The bytes of a piece as an access from outside reads them, and the state after it: zero at a sealed address, none at an
error. -/
def State.outsideGet (s : State) (w : World) (va n : Nat) : Option (List Byte) × State :=
  match s.outsidePlace w va { r := true } with
  | some (.at key main) =>
    if s.sealedVa w va then (some (List.replicate n 0), s)
    else
      let t := s.outsideSees w key va n
      (if !s.cxlOk key || (s.readError w key n va).isSome then none else some (s.pageBytes w key main va n), t)
  | _ => (none, s)

/-- The pieces of a read, or none. -/
def State.outsideGets (s : State) (w : World) : List (Nat × Nat) → Option (List Byte) × State
  | [] => (some [], s)
  | (va, n) :: rest =>
    let a := s.outsideGet w va n
    let b := a.2.outsideGets w rest
    (a.1.bind fun x => b.1.map fun y => x ++ y, b.2)

/-- Accesses to sealed addresses are recorded (R346, R355). -/
def State.auditSealed (s : State) (w : World) (p : HostPort) (cuts : List (Nat × Nat)) : State :=
  match cuts.find? fun c => s.sealedVa w c.1 with
  | some c => s.auditEntry w (p == .b) 2 c.1
  | none => s

/-- The offset and length of an access lie in BAR 2. -/
def inBar2 (off n : Nat) : Bool := 0 < n && off + n ≤ 2 ^ 36

/-- HOST_BAR2_READ, after every earlier write of its port. -/
def execHostBar2Read (s : State) : Out :=
  match s.act with
  | some (.hostBar2Read p fn off n) =>
    if !inBar2 off n then .next s
    else if s.portBehind p then .next s.stall
    else
      let cuts := outsideCuts ((s.wst fn).hbase.toNat + off) n
      let r := (s.auditSealed fn p cuts).outsideGets fn cuts
      .next { r.2 with hostOut := r.2.hostOut ++ [.readReply p fn r.1] }
  | _ => .fault .noSuchEvent

/-- Entries of the side log of a quay without a slot, one for each line (R387); none while the log has no room for them. -/
def State.logOutside (s : State) (q : Fin 128) (who : LogBy) (w : World) (va : Nat) (bs : List Byte) (tags : List Bool) :
    Option State :=
  let cuts := cutLines (bs.length / 128 + 2) va bs.length
  if s.logQuayCount q + cuts.length ≤ 512 then
    some (cuts.foldl (fun s c => s.logPut (s.logEntry who none w q c.1 ((bs.drop (c.1 - va)).take c.2) tags)) s)
  else none

/-- A piece of a write from outside: performed, logged or discarded; none while the log is full. -/
def State.outsidePut (s : State) (who : LogBy) (w : World) (va : Nat) (bs : List Byte) : Option State :=
  if s.sealedVa w va then some s
  else match s.outsidePlace w va { w := true } with
    | some (.at key main) =>
      if s.dupBusy main key bs.length then s.logOutside (s.logQuay main key va bs.length) who w va bs []
      else if !s.cxlOk key then some s
      else some ((s.outsideCounts w key va).performAt 15 false w {} key va bs [])
    | some .hold => s.logOutside (s.askQuay va) who w va bs []
    | _ => some s

def State.outsidePuts (s : State) (who : LogBy) (w : World) : List (Nat × Nat) → List Byte → Option State
  | [], _ => some s
  | (va, n) :: rest, bs =>
    match s.outsidePut who w va (bs.take n) with
    | none => none
    | some s => s.outsidePuts who w rest (bs.drop n)

/-- HOST_BAR2_WRITE: a release at system scope over the earlier writes of its port, but for the relaxed-ordering attribute. A
write that finds a log full waits at the port. -/
def execHostBar2Write (s : State) : Out :=
  match s.act with
  | some (.hostBar2Write p fn off data ro) =>
    if !inBar2 off data.length || (s.wst fn).inFlr then .next s
    else if !ro && s.portWaits p then .next s.stall
    else
      let cuts := outsideCuts ((s.wst fn).hbase.toNat + off) data.length
      match s.outsidePuts (.port p) fn cuts data with
      | some t => .next (t.auditSealed fn p cuts)
      | none => .next s.stall
  | _ => .fault .noSuchEvent

/-! ### Counters (R354, R433) -/

/-- The bytes of a function's mailbox (R389). -/
def WorldSt.mailbox (x : WorldSt) : List Byte := leBytes 8 x.mbcmd.toNat ++ x.mbargs ++ leBytes 8 x.mbst.toNat ++ x.mbres

/-- The counts of a bank. -/
def State.errCount (s : State) (b : Bank) : ErrCount := (s.errCounts.find? (·.bank == b)).getD ⟨b, 0, 0⟩

/-- The bank whose counts stand at dwords `2 i` and `2 i + 1` of a group (R381, R433). -/
def groupBank (g i : Nat) : Option Bank :=
  if 4 ≤ g && g < 8 then some (.channel (Fin.ofNat 1024 (256 * (g - 4) + i % 256)))
  else if 8 ≤ g && g < 40 && i < 64 then some (.cluster (Fin.ofNat 64 (2 * (g - 8) + i / 32)) (Fin.ofNat 32 i))
  else if 40 ≤ g && g < 56 then some (.quay (Fin.ofNat 128 (8 * (g - 40) + i / 32 % 8)) (i % 32))
  else none

/-- Dword `k` of a counter group; none where it is a sensor's or a traffic count, whose values no rule states.
DESIGN CHOICE, unsafe: log 90. -/
def State.groupWord (s : State) (g k : Nat) : Option Word :=
  match groupBank g (k / 2) with
  | some b => some (if k % 2 == 0 then (s.errCount b).corrected.setWidth 64 else (s.errCount b).fatal.setWidth 64)
  | none =>
    if g < 4 then (if k < 24 then none else if k == 24 then some s.throt[Fin.ofNat 4 g] else some 0)
    else if 56 ≤ g && g < 60 then
      (if 9 ≤ k then some 0 else if k % 3 == 2 then some (BitVec.ofNat 64 s.rejected[Fin.ofNat 12 (3 * (g - 56) + k / 3)]) else none)
    else if (g == 60 && k < 8) || (g == 61 && k < 4) then none
    else some 0

/-- The group of counters at an offset of BAR 0. -/
def groupAt (off : Nat) : Option Nat := if 0x100000 ≤ off && off < 0x140000 then some ((off - 0x100000) / 0x1000) else none

/-- The pending bits of a function: the vectors that wait for the session of their port (R353, R387). -/
def State.pending (s : State) (fn : World) : Word :=
  s.hostHeld.foldl (fun v m => match m with
    | .msix _ f vec => if f == fn && vec < 64 then v ||| (1 <<< vec) else v
    | _ => v) 0

/-- The dword at an offset of a function's BAR 0, or none where nothing states it (R276, R279, R383, R387-R391). -/
def State.bar0Word (s : State) (fn : World) (off : Nat) : Option Word :=
  let x := s.wst fn
  let dword := fun (bs : List Byte) (base : Nat) => some (BitVec.ofNat 64 (leNat ((bs.drop (off - base)).take 8)))
  if off < 0x4000 then some 0
  else if off < 0x4100 then dword x.mailbox 0x4000
  else if off == 0x4100 then some x.enqbad
  else if off == 0x4108 then some (x.enqlost.setWidth 64)
  else if off == 0x4110 then some x.intlost
  else if off == 0x4118 then some x.flrst
  else if off == 0x5000 then some (if fn = 0 then s.psem else 0)
  else if 0x8000 ≤ off && off < 0x8400 then dword x.msix 0x8000
  else if off == 0x8400 then some (s.pending fn)
  else match groupAt off with
    | some g => if x.allow[g]?.getD false then s.groupWord g ((off - 0x100000) % 0x1000 / 8) else some 0
    | none => some 0

/-- The bytes of `n` dwords. -/
def State.bar0Words (s : State) (fn : World) (off : Nat) : Nat → List Byte × State
  | 0 => ([], s)
  | n + 1 =>
    let v := match s.bar0Word fn off with
      | some v => (v, s)
      | none => s.takeFree
    let r := v.2.bar0Words fn (off + 8) n
    (leBytes 8 v.1.toNat ++ r.1, r.2)

/-- A read of a group outside ALLOW is recorded (R354, R355). -/
def State.auditGroups (s : State) (p : HostPort) (fn : World) (off n : Nat) : State :=
  match (List.range n).find? fun i => (groupAt (off + 8 * i)).any fun g => !((s.wst fn).allow[g]?.getD false) with
  | some i => s.auditEntry fn (p == .b) 1 (off + 8 * i)
  | none => s

/-- COUNTER_GROUP_READ: a read of BAR 0, in the order of its port. -/
def execCounterGroupRead (s : State) : Out :=
  match s.act with
  | some (.counterGroupRead p fn off len) =>
    if len = 0 ∨ 2 ^ 21 < off + len then .next s
    else if s.portBehind p then .next s.stall
    else
      let a := off / 8 * 8
      let n := (off + len - a + 7) / 8
      let r := (s.auditGroups p fn a n).bar0Words fn a n
      .next { r.2 with hostOut := r.2.hostOut ++ [.readReply p fn (some ((r.1.drop (off - a)).take len))] }
  | _ => .fault .noSuchEvent

/-! ### PSEM (R388) -/

/-- A port's id. -/
def portId (p : HostPort) : Word :=
  match p with
  | .a => 1
  | .b => 2

/-- A port takes PSEM while it is free, which clears LOST; its holder releases it. -/
def State.psemTake (s : State) (p : HostPort) : State := if s.psem &&& 3 = 0 then { s with psem := portId p } else s
def State.psemRelease (s : State) (p : HostPort) : State :=
  if s.psem &&& 3 = portId p then { s with psem := s.psem &&& ~~~3 } else s

/-- PSEM_TAKE. -/
def execPsemTake (s : State) : Out :=
  match s.act with
  | some (.psemTake p) => .next (s.psemTake p)
  | _ => .fault .noSuchEvent

/-- PSEM_RELEASE. -/
def execPsemRelease (s : State) : Out :=
  match s.act with
  | some (.psemRelease p) => .next (s.psemRelease p)
  | _ => .fault .noSuchEvent

/-! ### Writes of BAR 0 (R276-R278, R387, R433) -/

/-- A write of a function's BAR 0: a record, arguments of the mailbox, PSEM, or the MSI-X table; everything else discards it. A
write of MBCMD is the event of its command. DESIGN CHOICE, unsafe: log 90. -/
def State.bar0Write (s : State) (p : HostPort) (fn : World) (off : Nat) (data : List Byte) : State :=
  if off < 0x4000 then s.apertureWrite fn off data
  else if off < 0x4100 then s.modWorld fn fun x => { x with mbargs := overlay x.mbargs (off - 0x4008) data }
  else if off = 0x5000 ∧ fn = 0 ∧ data.length ≤ 8 then
    if leNat data = (portId p).toNat then s.psemTake p else if leNat data = 0 then s.psemRelease p else s
  else if 0x8000 ≤ off ∧ off < 0x8400 then s.modWorld fn fun x => { x with msix := overlay x.msix (off - 0x8000) data }
  else s

/-- ENQUEUE_APERTURE_WRITE: a write of BAR 0, a release over the earlier writes of its port (R278). -/
def execEnqueueApertureWrite (s : State) : Out :=
  match s.act with
  | some (.enqueueApertureWrite p fn off data) =>
    if (s.wst fn).inFlr then .next s
    else if s.portWaits p then .next s.stall
    else .next (s.bar0Write p fn off data)
  | _ => .fault .noSuchEvent

/-! ### The mailbox (R389, R390) -/

/-- Statuses of MBST. -/
def mbOk : Nat := 2
def mbBadArg : Nat := 3
def mbDenied : Nat := 4
def mbNoSem : Nat := 5

/-- A function's mailbox can take a command. DEDUCED, unsafe: log 60. -/
def State.mbFree (s : State) (fn : World) : Bool := !((s.wst fn).mbst.extractLsb' 0 8 == 1 || (s.wst fn).inFlr)

/-- The 120 bytes of an area of the mailbox. -/
def mbArea (bs : List Byte) : List Byte := (bs ++ List.replicate 120 0).take 120

/-- A command has begun: MBST is BUSY under the command's tag. -/
def State.mbBegin (s : State) (m : MbCmd) (code : Nat) : State :=
  let tag := m.tag.toNat
  s.modWorld m.fn fun x =>
    { x with mbcmd := BitVec.ofNat 64 (tag * 2 ^ 16 + code), mbst := BitVec.ofNat 64 (tag * 2 ^ 16 + 1), mbPort := some m.port,
             mbargs := mbArea m.args }

/-- A command will end with a status. -/
def State.mbEnds (s : State) (fn : World) (status : Nat) : State :=
  (s.modWorld fn fun x => { x with mbEnd := status }).post (.mailboxCompletion fn)

/-- A command of a function: BUSY, its effect, and the status it will end with; ignored while another runs. -/
def State.command (s : State) (m : MbCmd) (code : Nat) (f : State → State × Nat) : State :=
  if !s.mbFree m.fn then s
  else
    let t := f (s.mbBegin m code)
    t.1.mbEnds m.fn t.2

/-- A command of the physical function that needs PSEM. -/
def State.exclusive (s : State) (m : MbCmd) (code : Nat) (f : State → State × Nat) : State :=
  s.command m code fun s =>
    if m.fn ≠ 0 then (s, mbDenied) else if s.psem &&& 3 ≠ portId m.port then (s, mbNoSem) else f s

/-- `n` dwords that nothing states. -/
def State.freeBytes (s : State) : Nat → List Byte × State
  | 0 => ([], s)
  | n + 1 =>
    let r := s.takeFree.2.freeBytes n
    (leBytes 8 s.takeFree.1.toNat ++ r.1, r.2)

/-- MAILBOX_COMPLETION: the results, which no rule states, then MBST, then MSI-X vector 0 of the function. -/
def execMailboxCompletion (s : State) : Out :=
  match s.act with
  | some (.mailboxCompletion fn) =>
    let x := s.wst fn
    if x.mbst.extractLsb' 0 8 != 1 then .next s
    else
      let r := s.freeBytes 15
      let s := r.2.modWorld fn fun x =>
        { x with mbst := (x.mbcmd &&& 0xFFFF0000) ||| BitVec.ofNat 64 x.mbEnd, mbres := r.1 }
      let p := x.mbPort.getD .a
      .next (s.sendHost p (.msix p fn 0))
  | _ => .fault .noSuchEvent

/-- The digests of the measurement log: the boot firmware as it was measured last, Torud, and the loader of each world (R352). -/
def State.measurements (s : State) : List (BitVec 256) :=
  s.measured.getD Config.bootDigest :: Config.torudDigest :: (s.worlds.toList.filter (·.created)).map (·.loader)

/-- ATTEST: the signed log is written to the host. -/
def execAttest (s : State) : Out :=
  match s.act with
  | some (.attest m nonce iova) =>
    .next (s.command m 0x01 fun s =>
      (s.sendHost m.port (.write m.port iova (Config.signedLog Config.identity nonce s.measurements)), mbOk))
  | _ => .fault .noSuchEvent

/-- The records of a suspended tow. -/
def State.heldOf (s : State) (w : World) (t : BitVec 16) : List Queued :=
  (s.susp.filter fun r => r.1 == w && r.2.1 == t).map (·.2.2)

/-- The records of a tow are held no longer. -/
def State.unhold (s : State) (w : World) (t : BitVec 16) : State :=
  { s with susp := s.susp.filter fun r => !(r.1 == w && r.2.1 == t) }

/-- A suspended tow of a world: its descriptor. -/
def State.suspendedTow (s : State) (w : World) (t : BitVec 16) : Option Nat :=
  match s.towTr w t with
  | .ok k _ => if t != 0 && bitN (s.towNat k 4 4) 5 then some k else none
  | _ => none

/-- TOW_RESUME: the records go back to their cluster's queues under the new budget. -/
def execTowResume (s : State) : Out :=
  match s.act with
  | some (.towResume m t budget) =>
    let fn := m.fn
    .next (s.command m 0x02 fun s => match s.suspendedTow fn t with
      | none => (s, mbBadArg)
      | some k =>
        let rs := s.heldOf fn t
        let s := ((s.unhold fn t).towSet k 0x20 8 budget.toNat).towFlags k (flagSet 5 false)
        (rs.foldl (fun s r => s.requeue r.cluster (recIn fn r.rcd)) s, mbOk))
  | _ => .fault .noSuchEvent

/-- TOW_DISCARD: the records are dropped and MEMBERS is 0; no status follows. -/
def execTowDiscard (s : State) : Out :=
  match s.act with
  | some (.towDiscard m t) =>
    let fn := m.fn
    .next (s.command m 0x03 fun s => match s.suspendedTow fn t with
      | none => (s, mbBadArg)
      | some k => ((s.unhold fn t).towSet k 0 4 0, mbOk))
  | _ => .fault .noSuchEvent

/-- UIT_SET. -/
def execUitSet (s : State) : Out :=
  match s.act with
  | some (.uitSet m iova) => .next (s.command m 0x04 fun s => (s.modWorld m.fn fun x => { x with uit := some iova }, mbOk))
  | _ => .fault .noSuchEvent

/-! ### Collective windows (R397-R399) -/

/-- Every 64 KiB of a window lies on a mapped page without KV. -/
def State.cwinPages (s : State) (w : World) (va len : Nat) : Bool :=
  (outsideCuts va len).all fun c => match s.translate w none c.1 {} with
    | .ok _ main => !lfKV main
    | _ => false

/-- Another world has a window at an index. -/
def State.cwinTaken (s : State) (w : World) (i : Fin 16) : Bool := s.cwins[i].any fun c => c.world != w

/-- CWIN_SET: its owner defines a window of its own world (R390). -/
def execCwinSet (s : State) : Out :=
  match s.act with
  | some (.cwinSet m w i va len expect tmo) =>
    .next (s.command m 0x05 fun s =>
      if w ≠ m.fn || s.cwinTaken w i then (s, mbDenied)
      else if va % 128 != 0 || len % 128 != 0 || len < 256 || 2 ^ 16 < len || expect < 1 || 256 < expect || tmo < 1 ||
          65535 < tmo || !s.cwinPages w va len then (s, mbBadArg)
      else ({ s with cwins := s.cwins.set i (some ⟨w, va, len, expect, tmo, false⟩) }, mbOk))
  | _ => .fault .noSuchEvent

/-- CWIN_ARM. -/
def execCwinArm (s : State) : Out :=
  match s.act with
  | some (.cwinArm m i) =>
    .next (s.command m 0x06 fun s =>
      if s.cwinTaken m.fn i then (s, mbDenied)
      else match s.cwins[i].bind s.cwinKey with
        | some k => (s.cwinOpen i k, mbOk)
        | none => (s, mbBadArg))
  | _ => .fault .noSuchEvent

/-- CWIN_TIMEOUT: STATE becomes failed when it is still open. -/
def execCwinTimeout (s : State) : Out :=
  match s.act with
  | some (.cwinTimeout i) =>
    match s.cwins[i] with
    | none => .next s
    | some c =>
      if !c.timer then .next s
      else
        let s := { s with cwins := s.cwins.set i (some { c with timer := false }) }
        match s.cwinKey c with
        | none => .next s
        | some k => .next (if s.cwinIsOpen k then s.writeBytes (k + 8) (leBytes 8 (s.nat (k + 8) 4 + 2 * 2 ^ 32)) else s)
  | _ => .fault .noSuchEvent

/-! ### Worlds (R328, R343, R348, R352) -/

/-- Fresh keys of a world. -/
def State.newKeys (s : State) (w : World) : State :=
  { (s.modWorld w fun x => { x with keys := true, keyGen := s.keyCtr, kcGen := s.keyCtr + 1, sctr := 0, rctr := 0 }) with
    keyCtr := s.keyCtr + 2 }

/-- The keys and the save counter of a world are destroyed (R353, R382). -/
def State.dropKeys (s : State) (w : World) : State :=
  { (s.modWorld w fun x => { x with keys := false, keyGen := s.keyCtr, kcGen := s.keyCtr + 1, sctr := 0, rctr := 0 }) with
    keyCtr := s.keyCtr + 2 }

/-- The roots are written into granules 0-71 of the launch capability table, where it can be reached. -/
def State.writeRoots (s : State) (w : World) : State :=
  let t := (s.wst w).lctc
  (List.range 72).foldl (fun s i =>
    let a := (capCursor t).toNat + 16 * i
    if !t.tag || a < capBase t || capTop t < a + 16 then s
    else if capLocal t then s.writeGran (locKey a) (rootCap w i)
    else match s.translate w none a { w := true } with
      | .ok pa _ => s.writeGran pa (rootCap w i)
      | _ => s) s

/-- WORLD_CREATE, which registers the tenant's key and measures the loader's image (R352). DEDUCED, unsafe: log 59. -/
def execWorldCreate (s : State) : Out :=
  match s.act with
  | some (.worldCreate m w tenant loader) =>
    .next (s.exclusive m 0x10 fun s =>
      if w = 0 ∨ (s.wst w).created then (s, mbBadArg)
      else (((s.newKeys w).modWorld w fun x => { x with created := true, tenant := tenant, loader := loader }).writeRoots w, mbOk))
  | _ => .fault .noSuchEvent

/-- WORLD_DESTROY. -/
def execWorldDestroy (s : State) : Out :=
  match s.act with
  | some (.worldDestroy m w) =>
    .next (s.exclusive m 0x11 fun s =>
      if w = 0 ∨ !(s.wst w).created then (s, mbBadArg)
      else ((s.dropKeys w).modWorld w fun x => { x with created := false, tenant := 0, loader := 0 }, mbOk))
  | _ => .fault .noSuchEvent

/-- WSEC is raised in every slot of a world (R373). -/
def State.raiseWsec (s : State) (w : World) (reason : Nat) : State :=
  allSlots.foldl (fun s i =>
    let sl := s.slot i
    if i = 15 || sl.world != w || sl.status = .free then s
    else
      let s := s.modSlot i fun sl => { sl with pendWsec := some (reason * 16 + w.val) }
      match sl.status with
      | .waiting _ _ =>
        if sl.restoring != RestorePh.none then s
        else (s.leaveQueue (.slot i)).modSlot i fun sl => { sl with status := match sl.quay with
          | some q => .away q
          | none => .ready }
      | .parked .park => s.modSlot i fun sl => { sl with status := .ready }
      | _ => s) s

/-- The transport key that two modules have agreed (R352 step 2). -/
def State.transportKey (s : State) (w : World) : State :=
  let r := s.takeFree
  r.2.modWorld w fun x => { x with kcGen := 2 ^ 64 + r.1.toNat }

/-- A policy that the tenant has signed names this device and the peer, each with its measurements (R352 step 3). -/
def State.policyOk (s : State) (w : World) (peer : Nat) (peerLog : List (BitVec 256)) (p : Policy) : Bool :=
  p.signer == (s.wst w).tenant && p.devices.contains (Config.identity, s.measurements) && p.devices.contains (peer, peerLog)

/-- MIG_EXPORT: with the policy, the region that EXPSRC names is exported under the transport key to EXPDST, and the world is
frozen. -/
def execMigExport (s : State) : Out :=
  match s.act with
  | some (.migExport m w peer peerLog policy) =>
    let p := m.port
    .next (s.exclusive m 0x12 fun s =>
      if !s.policyOk w peer peerLog policy then (s, mbDenied)
      else match s.expRefused w 1 p with
        | 0 =>
          let s := s.transportKey w
          let s := s.modWorld w fun x => { x with expBusy := true, sctr := x.sctr + 1 }
          let e : ExpOp := ⟨1, w, p, 0, 0, s.cl.expsrc, s.cl.expdst, 0, none⟩
          let s := ({ s with cl := { s.cl with expst := 1, exp := some e } } : State).post .exportImage
          ((s.modWorld w fun x => { x with wseal := x.wseal ||| 2 }).raiseWsec w 2, mbOk)
        | _ => (s, mbBadArg))
  | _ => .fault .noSuchEvent

/-- MIG_IMPORT: with the policy, the transport key takes the place of KC until the import of OP 3. -/
def execMigImport (s : State) : Out :=
  match s.act with
  | some (.migImport m w peer peerLog policy) =>
    .next (s.exclusive m 0x13 fun s =>
      if !s.policyOk w peer peerLog policy then (s, mbDenied)
      else if !s.isProt w || (s.wst w).sctr ≠ 0 then (s, mbBadArg)
      else (s.transportKey w, mbOk))
  | _ => .fault .noSuchEvent

/-! ### Firmware, routes, windows and imports (R390, R393-R395) -/

/-- FW_UPDATE: the image is read from the host's memory and written to flash. -/
def execFwUpdate (s : State) : Out :=
  match s.act with
  | some (.fwUpdate m iova len) =>
    .next (s.exclusive m 0x14 fun s => ({ s with fwImage := some (s.bytes (hostKey m.port iova) len) }, mbOk))
  | _ => .fault .noSuchEvent

/-- ROUTE_SET. -/
def execRouteSet (s : State) : Out :=
  match s.act with
  | some (.routeSet m dest pri alt) =>
    .next (s.exclusive m 0x15 fun s => ({ s with routes := s.routes.set dest (pri, alt) }, mbOk))
  | _ => .fault .noSuchEvent

/-- XWIN_SET. -/
def execXwinSet (s : State) : Out :=
  match s.act with
  | some (.xwinSet m w i e) =>
    .next (s.exclusive m 0x16 fun s =>
      if winBase e % 2 ^ 21 != 0 || winLimit e % 2 ^ 21 != 0 || e.extractLsb' 204 52 != 0 then (s, mbBadArg)
      else ((s.modWorld w fun x => { x with wins := x.wins.set i e }).pagesChanged, mbOk))
  | _ => .fault .noSuchEvent

/-- IMPORT_SET. -/
def execImportSet (s : State) : Out :=
  match s.act with
  | some (.importSet m i sd sw w lo hi perm) =>
    .next (s.exclusive m 0x16 fun s => ({ s with imports := s.imports.set i (some ⟨sd, sw, w, lo, hi, perm⟩) }, mbOk))
  | _ => .fault .noSuchEvent

/-! ### The management path (R432) -/

/-- The world has no bound slot, no queued record and no line in any cache (R342). -/
def State.worldIdle (s : State) (w : World) : Bool :=
  s.slots.toList.all (fun sl => sl.status == .free || sl.world != w) && (s.clq ++ s.heldQ).all (fun q => recWorld q.rcd != w) &&
    (s.lrq ++ (s.ring w).recs ++ s.heldMsgs).all (fun r => recWorld r != w) &&
    (s.cl.cache :: s.quays.toList).all fun c => c.lines.all (·.world != w)

/-- PROT takes a value: a world that becomes protected gets a context key, and its counters are 0 (R347, R348). -/
def State.setProt (s : State) (w : World) (v : Bool) : State :=
  let old := (s.wst w).wseal.getLsbD 0
  let s := s.modWorld w fun x => { x with wseal := (x.wseal &&& ~~~1) ||| (if v then 1 else 0), protNext := none }
  if v && !old then
    { (s.modWorld w fun x => { x with kcGen := s.keyCtr, sctr := 0, rctr := 0 }) with keyCtr := s.keyCtr + 1 }
  else s

/-- A write of WSEAL. A change of PROT while the world is in use waits for its next function-level reset. -/
def State.writeWseal (s : State) (w : World) (v : Word) : State :=
  let prot := (s.wst w).wseal.getLsbD 0
  let s := s.modWorld w fun x => { x with wseal := (v &&& 0x1FFFFFFFFFFFFE02) ||| (x.wseal &&& 1) }
  if v.getLsbD 0 == prot then s.modWorld w fun x => { x with protNext := none }
  else if s.worldIdle w then s.setProt w (v.getLsbD 0)
  else s.modWorld w fun x => { x with protNext := some (v.getLsbD 0) }

/-- A size of a ring: a power of two between two bounds. -/
def ringSizeOk (n lo hi : Nat) : Bool := lo ≤ n && n ≤ hi && (List.range 17).any fun k => n == 2 ^ k

/-- The counts of a bank are cleared: `unit` is the number of one of its dwords among those of the counter groups (R381). -/
def State.clearErrors (s : State) (unit : Nat) : State :=
  match groupBank (unit / 512) (unit % 512 / 2) with
  | some b => { s with errCounts := s.errCounts.filter (·.bank != b) }
  | none => s

/-- A write of a management register of a world, or of the unit that holds it. DEDUCED, unsafe: log 61. -/
def State.mgmtWrite (s : State) (reg : MgmtReg) (w : World) (unit : Nat) (v : Word) : State :=
  match reg with
  | .troot => (s.modWorld w fun x => { x with troot := v &&& 0x00007FFFFFFFF001 }).pagesChanged
  | .sshd => s.modWorld w fun x => { x with sshd := v &&& 0x00FFFFFFFFFF0000 }
  | .towbase => (s.modWorld w fun x => { x with towbase := v &&& 0x00FFFFFFFF000000 }).retryHeld
  | .hbase => s.modWorld w fun x => { x with hbase := v &&& 0x00FFFFF000000000 }
  | .lctcCursor => s.modWorld w fun x => { x with lctc := ⟨true, (x.lctc.bits.extractLsb' 64 64 ++ v : BitVec 128)⟩ }
  | .lctcMeta => s.modWorld w fun x => { x with lctc := ⟨true, (v ++ x.lctc.bits.extractLsb' 0 64 : BitVec 128)⟩ }
  | .cpol => s.modWorld w fun x => { x with cpol := v &&& 0x0000FFFF001F3FFF }
  | .wqos => (s.modWorld w fun x => { x with wqos := v &&& 0x00000FFFFFFF03FF }).lrqFreed
  | .allow => s.modWorld w fun x => { x with allow := v }
  | .wseal => s.writeWseal w v
  | .rvmap => s.modWorld w fun x => { x with rvmap := v &&& 0x00FFFFFFFFFF0000 }
  | .rvrng => s.modWorld w fun x => { x with rvrng := v }
  | .rpwin => { s with rpwin := s.rpwin.set (16 * (unit % 64) + w.val) (windowBits v) (by omega) }
  | .crq =>
    if ringSizeOk v.toNat 64 65536 then
      ({ s with crq := s.crq.set (16 * (unit % 64) + w.val) v.toNat (by omega) } : State).crqDrain
    else s
  | .cmq =>
    if ringSizeOk v.toNat 16 4096 then
      ({ s with cmq := s.cmq.set w { s.ring w with size := v.toNat } } : State).lrqFreed
    else s
  | .ptmo => if 1 ≤ v.toNat ∧ v.toNat ≤ 1000 then { s with ptmo := v.toNat } else s
  | .blstat => if v.getLsbD 7 then s else { s with blOvf := s.blOvf.set (Fin.ofNat 128 unit) false }
  | .crqBase => { s with crqBase := s.crqBase.set (16 * (unit % 64) + w.val) v (by omega) }
  | .cmqBase => { s with cmqBase := s.cmqBase.set w v }
  | .throt => { s with throt := s.throt.set (Fin.ofNat 4 unit) (v &&& 0xFFFFFFFF0F) }
  | .svec => { s with svec := v &&& ~~~3 }
  | .softErrors => s.clearErrors unit

/-- BLSTAT of a quay (R379). -/
def State.blstat (s : State) (q : Fin 128) : Word :=
  BitVec.ofNat 64 (s.blFound[q].toNat * 2 ^ 32 + (if s.blOvf[q] then 2 ^ 7 else 0) + (s.blList.filter (·.quay == q)).length)

/-- A register as world 0 reads it through the management path; none where nothing states its value. -/
def State.mgmtRead (s : State) (reg : MgmtReg) (w : World) (unit : Nat) : Option Word :=
  let x := s.wst w
  match reg with
  | .troot => some x.troot
  | .sshd => some x.sshd
  | .towbase => some x.towbase
  | .hbase => some x.hbase
  | .lctcCursor => some (x.lctc.bits.extractLsb' 0 64)
  | .lctcMeta => some (x.lctc.bits.extractLsb' 64 64)
  | .cpol => some x.cpol
  | .wqos => some x.wqos
  | .allow => some x.allow
  | .wseal => some x.wseal
  | .rvmap => some x.rvmap
  | .rvrng => some x.rvrng
  | .rpwin => some (s.rpwin[16 * (unit % 64) + w.val]'(by omega))
  | .crq => some (BitVec.ofNat 64 (s.crq[16 * (unit % 64) + w.val]'(by omega)))
  | .cmq => some (BitVec.ofNat 64 (s.ring w).size)
  | .crqBase => some (s.crqBase[16 * (unit % 64) + w.val]'(by omega))
  | .cmqBase => some s.cmqBase[w]
  | .ptmo => some (BitVec.ofNat 64 s.ptmo)
  | .blstat => some (s.blstat (Fin.ofNat 128 unit))
  | .throt => some s.throt[Fin.ofNat 4 unit]
  | .svec => some s.svec
  | .softErrors => s.groupWord (unit / 512) (unit % 512)

/-- World 0 reads a register. -/
def State.mgmtReads (s : State) (reg : MgmtReg) (w : World) (unit : Nat) : State :=
  match s.mgmtRead reg w unit with
  | some v => { s with mgmtOut := s.mgmtOut ++ [v] }
  | none => { s.takeFree.2 with mgmtOut := s.mgmtOut ++ [s.takeFree.1] }

/-- MGMT_REGISTER_WRITE, or a read by world 0. -/
def execMgmtRegisterWrite (s : State) : Out :=
  match s.act with
  | some (.mgmtRegisterWrite reg w unit (some v)) => .next (s.mgmtWrite reg w unit v)
  | some (.mgmtRegisterWrite reg w unit none) => .next (s.mgmtReads reg w unit)
  | _ => .fault .noSuchEvent

end Sys2Proof.Machine
end

