-- ==== Sys2Proof/Machine/Fabric.lean ====
section
/-!
DEFINITION. The fabric and the CXL ports (R340, R392-R396), the host sessions (R353), the resets (R382, R383), and the events of
the monitors (R379, R384, R385).
-/

namespace Sys2Proof.Machine

/-! ### Capabilities in packets (R340) -/

/-- An entry of the import table for a device and a world of it. -/
def State.importFor (s : State) (dev : BitVec 8) (w : World) (p : Import → Bool) : Option Import :=
  (s.imports.toList.filterMap id).find? fun e => e.srcDev == dev && e.srcWorld == w && p e

/-- A capability that a packet brings: rewritten to the local world, or its tag clear. DEDUCED, unsafe: log 62. -/
def State.packetCap (s : State) (port : Fin 12) (dev : BitVec 8) (c : Cap) : State × Cap :=
  if !c.tag then (s, c)
  else match s.importFor dev (capWorld c).toFin fun e => e.lo ≤ capBase c && capTop c ≤ e.hi with
    | some e => (s, s.filterCap (capWithWorld c (BitVec.ofNat 4 e.world.val)))
    | none => ({ s with rejected := s.rejected.set port (s.rejected[port] + 1) }, capUntag c)

/-! ### Accesses of peers (R395) -/

/-- The permissions that an access needs of its entry: R, W and CW, lowest bit first. -/
def peerNeeds (op : PeerOp) : BitVec 3 :=
  match op with
  | .load => 1
  | .store => 2
  | .storeCap c => if c.tag then 6 else 2
  | .atomicCap _ c => if c.tag then 7 else 3
  | .atomic _ _ | .reduction _ _ => 3

/-- An access that is not performed. -/
def State.reject (s : State) (port : Fin 12) (dev : BitVec 8) (w : World) : State :=
  ({ s with rejected := s.rejected.set port (s.rejected[port] + 1) } : State).answer dev w none

/-- A read-modify-write of a peer in one page: what `f` makes of the state with the key, once the page and the line take it, or an
error; none while they make it wait (R251, R268). -/
def State.peerAt (s : State) (dev : BitVec 8) (sw w : World) (va n : Nat) (need : Need) (f : State → Nat → Nat → State) :
    Option State :=
  match s.outsidePlace w va need with
  | some (.at key main) =>
    if s.dupBusy main key n then none
    else
      let t := s.outsideSees w key va n
      some (if !s.cxlOk key || (s.readError w key n va).isSome then t.answer dev sw none else f t key main)
  | some .hold => none
  | _ => some (s.answer dev sw none)

/-- What an atomic on data of `n` bytes writes, if it writes (R223). -/
def amoNew (op : AmoOp) (x : Bool) (n m b : Nat) : Option Nat :=
  match op with
  | .add => some (addCode n m b)
  | .swap => some b
  | .min => some (minCode n x m b)
  | .max => some (maxCode n x m b)
  | .and => some (m &&& b)
  | .or => some (m ||| b)
  | .xor => some (m ^^^ b)
  | .fadd rm => some (faddCode (Rm.ofCode rm.toNat) n x m b).1
  | .cas e => if m = e then some b else none

/-- An atomic or a reduction of a peer on `n` bytes, answered with the bytes that `g` gives of the old value. -/
def State.peerUpdate (s : State) (dev : BitVec 8) (sw w : World) (va n : Nat) (arrival contribution : Bool) (f : Nat → Option Nat)
    (g : Nat → List Byte) : Option State :=
  s.peerAt dev sw w va n { r := true, w := true } fun s key _ =>
    let old := s.nat key n
    let t := match f old with
      | some v => ((s.dupWrite false key n).cwinWrite w va key arrival contribution (leBytes n v)).1
      | none => s
    t.answer dev sw (some (g old))

/-- The granule at a key of a page, as a peer loads it: a page without CL gives no tag (R266). -/
def State.peerGran (s : State) (key main : Nat) : Cap :=
  let c := s.filterCap (s.readGran key)
  if bitN main 6 && !lfCmp main then c else capUntag c

/-- An atomic of a peer on a granule with its tag. -/
def State.peerCapUpdate (s : State) (dev : BitVec 8) (sw w : World) (va : Nat) (expected : Option Cap) (new : Cap) : Option State :=
  s.peerAt dev sw w va 16 { r := true, w := true, cw := new.tag } fun s key main =>
    let old := s.peerGran key main
    let t := if expected.all (· == old) then (s.dupWrite false key 16).writeGran key new else s
    t.answer dev sw (some (leBytes 16 old.bits.toNat)) (some old)

/-- A load of a peer; a whole granule is answered with its tag (R340). -/
def State.peerLoad (s : State) (dev : BitVec 8) (sw w : World) (va n : Nat) : State :=
  let r := s.outsideGets w (outsideCuts va n)
  let c := match r.1, s.outsidePlace w va { r := true } with
    | some _, some (.at key main) => if n == 16 && va % 16 == 0 then some (s.peerGran key main) else none
    | _, _ => none
  r.2.answer dev sw r.1 c

/-- A store of a peer has been made: it is acknowledged when its logged entries, those from number `n0` on, are performed. -/
def State.peerStored (s : State) (dev : BitVec 8) (sw : World) (n0 : Nat) : State :=
  if s.opCtr = n0 then s.answer dev sw (some [])
  else { s with peerAcks := s.peerAcks ++ [⟨dev, sw, (List.range (s.opCtr - n0)).map (n0 + ·)⟩] }

/-- A capability that a peer stores, with the tag it keeps. -/
def State.outsideCap (s : State) (who : LogBy) (w : World) (va : Nat) (c : Cap) : Option State :=
  match s.outsidePlace w va { w := true, cw := c.tag } with
  | some (.at key main) =>
    if s.dupBusy main key 16 then s.logOutside (s.logQuay main key va 16) who w va (leBytes 16 c.bits.toNat) [c.tag]
    else if !s.cxlOk key then some s
    else some ((s.outsideCounts w key va).performAt 15 false w {} key va (leBytes 16 c.bits.toNat) [c.tag])
  | some .hold => s.logOutside (s.askQuay va) who w va (leBytes 16 c.bits.toNat) [c.tag]
  | _ => some s

/-- An access of the peer that arrived earlier at the fabric port, or a logged store of it, has not been performed (R256). -/
def State.peerBehind (s : State) (port : Fin 12) (dev : BitVec 8) : Bool :=
  s.sideLog.any (·.who == .peer dev) || s.deferred.any fun a => match a with
    | .peerAccessArrival q d _ _ _ _ => q == port && d == dev
    | _ => false

/-- An access that its entry admits, as one of a host (R387); none while it must wait. -/
def State.peerDo (s : State) (port : Fin 12) (dev : BitVec 8) (sw w : World) (op : PeerOp) (va : Nat) (data : List Byte) :
    Option State :=
  let n := data.length
  let b := leNat data
  match op with
  | .load => some (s.peerLoad dev sw w va n)
  | .store => (s.outsidePuts (.peer dev) w (outsideCuts va n) data).map fun t => t.peerStored dev sw s.opCtr
  | .storeCap c =>
    let r := s.packetCap port dev c
    (r.1.outsideCap (.peer dev) w va r.2).map fun t => t.peerStored dev sw s.opCtr
  | .atomic op x => s.peerUpdate dev sw w va n (op == .add && n == 8 && b == 1) false (fun m => amoNew op x n m b) (leBytes n)
  | .atomicCap e c =>
    let e := e.map fun e => (s.packetCap port dev e).2
    let r := s.packetCap port dev c
    r.1.peerCapUpdate dev sw w va e r.2
  | .reduction rop x =>
    let u : Update := ⟨15, 0, 0, w, Cap.null, va, rop, if n == 1 then 0 else if n == 2 then 1 else if n == 4 then 2 else 3, x,
      BitVec.ofNat 64 b, {}, 0, 0⟩
    s.peerUpdate dev sw w va n false true (fun m => some (u.new m)) fun _ => []

/-- The sizes that an access may have (R223). -/
def peerSizeOk (op : PeerOp) (va n : Nat) : Bool :=
  match op with
  | .load | .store => 0 < n && n ≤ 4096
  | .storeCap _ | .atomicCap _ _ => n == 16 && va % 16 == 0
  | .atomic (.fadd _) _ | .reduction 3 _ => (n == 2 || n == 4) && va % n == 0
  | .atomic _ _ | .reduction _ _ => (n == 4 || n == 8) && va % n == 0

/-- Some byte of a range lies at a sealed address. -/
def State.sealedAny (s : State) (w : World) (va n : Nat) : Bool := (outsideCuts va n).any fun c => s.sealedVa w c.1

/-- PEER_ACCESS_ARRIVAL, in the order of its peer: the length of a load is that of its data. -/
def execPeerAccessArrival (s : State) : Out :=
  match s.act with
  | some (.peerAccessArrival port dev sw op va data) =>
    if !peerSizeOk op va data.length then .next s
    else
      let need := peerNeeds op
      match s.importFor dev sw fun e => e.lo ≤ va && va + data.length ≤ e.hi && need &&& ~~~e.perm == 0 with
      | none => .next (s.reject port dev sw)
      | some e =>
        if s.sealedAny e.world va data.length then .next (s.reject port dev sw)
        else if s.peerBehind port dev then .next s.stall
        else match s.peerDo port dev sw e.world op va data with
          | some t => .next t
          | none => .next s.stall
  | _ => .fault .noSuchEvent

/-! ### Answers of peers (R396) -/

/-- A question of a slot is answered. -/
def State.answered (s : State) (i : SlotId) (q : PeerAsk) (ans : Option (List Byte × Option Cap)) : State :=
  ((s.modSlot i fun sl => { sl with peerAsk := dropFirst q sl.peerAsk, peer := sl.peer ++ [⟨q.eng, q.va, ans⟩] }).rouse i).unstall

/-- The question with a number, and its slot. -/
def State.askOf (s : State) (num : Nat) : Option (SlotId × PeerAsk) :=
  allSlots.findSome? fun i => ((s.slot i).peerAsk.find? (·.num == num)).map fun q => (i, q)

/-- A store that no peer has acknowledged is outstanding no longer. -/
def State.storeEnded (s : State) (p : PeerStore) : State := { s with peerOut := dropFirst p s.peerOut }

/-- PEER_RESPONSE: the bytes of a load, followed by zeros where it is short, or the acknowledgement of a store. One that arrives
after its timeout is discarded. -/
def execPeerResponse (s : State) : Out :=
  match s.act with
  | some (.peerResponse num data c) =>
    match s.askOf num with
    | some (i, q) =>
      let r := match c with
        | some c =>
          let r := s.packetCap s.routes[Fin.ofNat 256 q.dev].1 (BitVec.ofNat 8 q.dev) c
          (r.1, some r.2)
        | none => (s, none)
      let data := match r.2 with
        | some c => leBytes 16 c.bits.toNat
        | none => data
      .next (r.1.answered i q (some (data ++ List.replicate (4096 - data.length) 0, r.2)))
    | none => match s.peerOut.find? (·.num == num) with
      | some p => .next (s.storeEnded p).writesDone
      | none => .next s
  | _ => .fault .noSuchEvent

/-- PTMO: a load fails; a store leaves a record, and the release that waited for it completes. -/
def execPtmo (s : State) : Out :=
  match s.act with
  | some (.ptmo num) =>
    match s.askOf num with
    | some (i, q) => .next (s.answered i q none)
    | none => match s.peerOut.find? (·.num == num) with
      | some p => .next ((s.storeEnded p).postRecOf p.world p.sl ⟨cMEMERR, 7, p.lva⟩ p.pc p.insn).writesDone
      | none => .next s
  | _ => .fault .noSuchEvent

/-! ### Links (R392, R393) -/

/-- FABRIC_FAILOVER: the packets of the lost link go by their alternates, in their order. -/
def execFabricFailover (s : State) : Out :=
  match s.act with
  | some (.fabricFailover p) => .next { s with linkUp := s.linkUp.set p false }
  | _ => .fault .noSuchEvent
def execFabricLinkUp (s : State) : Out :=
  match s.act with
  | some (.fabricLinkUp p) => .next { s with linkUp := s.linkUp.set p true }
  | _ => .fault .noSuchEvent
def execCxlLinkDown (s : State) : Out :=
  match s.act with
  | some (.cxlLinkDown p) => .next { s with cxlUp := s.cxlUp.set p false }
  | _ => .fault .noSuchEvent
def execCxlLinkUp (s : State) : Out :=
  match s.act with
  | some (.cxlLinkUp p) => .next { s with cxlUp := s.cxlUp.set p true }
  | _ => .fault .noSuchEvent

/-! ### Host sessions (R353) -/

/-- The session of a port. -/
def State.setSession (s : State) (p : HostPort) (v : Bool) : State :=
  match p with
  | .a => { s with sessA := v }
  | .b => { s with sessB := v }

/-- HOT_RESET, or a link-down, of a port: its mappings are fenced and PSEM is released (R388). -/
def execHotReset (s : State) : Out :=
  match s.act with
  | some (.hotReset p) =>
    let s := s.setSession p false
    .next (if s.psem &&& 3 = portId p then { s with psem := (s.psem &&& ~~~3) ||| 0x100 } else s)
  | _ => .fault .noSuchEvent

/-- The port of a message. -/
def HostMsg.port : HostMsg → HostPort
  | .write p _ _ => p
  | .msix p _ _ => p
  | .readReply p _ _ => p

/-- HOST_SESSION_ESTABLISHED: what was held is sent, in order. -/
def execHostSessionEstablished (s : State) : Out :=
  match s.act with
  | some (.hostSessionEstablished p) =>
    let s := s.setSession p true
    let mine := s.hostHeld.filter (·.port == p)
    .next (mine.foldl (fun (s : State) m => s.sendHost p m) { s with hostHeld := s.hostHeld.filter (·.port != p) }).unstall
  | _ => .fault .noSuchEvent

/-! ### Cold and warm reset (R382) -/

/-- An act that the outside world or firmware makes, or another core: it is none of a unit, a slot or a queue that a reset clears. -/
def actArrives : Act → Bool
  | .enqueueApertureWrite _ _ _ _ | .bind _ _ | .stand _ _ | .preempt _ | .heldMessageDelivery (some _)
  | .replyGranuleWrite (some _) | .hostBar2Read _ _ _ _ | .hostBar2Write _ _ _ _ _ | .counterGroupRead _ _ _ _ | .psemTake _
  | .psemRelease _ | .attest _ _ _ | .towResume _ _ _ | .towDiscard _ _ | .uitSet _ _ | .cwinSet _ _ _ _ _ _ _ | .cwinArm _ _
  | .worldCreate _ _ _ _ | .worldDestroy _ _ | .migExport _ _ _ _ _ | .migImport _ _ _ _ _ | .fwUpdate _ _ _ | .routeSet _ _ _ _
  | .xwinSet _ _ _ _ | .importSet _ _ _ _ _ _ _ _ | .mgmtRegisterWrite _ _ _ _ | .peerAccessArrival _ _ _ _ _ _
  | .fabricFailover _ | .fabricLinkUp _ | .cxlLinkDown _ | .cxlLinkUp _ | .hotReset _ | .hostSessionEstablished _ | .coldReset
  | .warmReset | .functionLevelReset _ | .supervisorStart _ | .throttleStep _ _ | .thermalTrip | .supplyDroop
  | .vrefRecalibration _ | .patrolScrub _ _ | .storePerformed _ _ _ _ _ | .debuggerHalt _ | .debuggerResume _ => true
  | _ => false

/-- What stands outside the module or in flash, and what arrives from there behind the reset, survives every reset. The boot
firmware is measured again (R352). DEDUCED, unsafe: log 63. -/
def State.resetAll (s : State) : State :=
  { State.reset with
    core := s.core, cluster := s.cluster, mem := s.mem.filter fun c => keyIsHost c.1, hostOut := s.hostOut, mgmtOut := s.mgmtOut,
    fabricOut := s.fabricOut, fwImage := s.fwImage, measured := s.measured, agenda := s.agenda.filter actArrives, keyCtr := s.keyCtr,
    freeCtr := s.freeCtr }

/-- Cold reset: the image in flash is measured (R390). -/
def State.coldReset (s : State) : State := { s.resetAll with measured := s.fwImage.map sha3_256 }

/-- COLD_RESET. -/
def execColdReset (s : State) : Out :=
  match s.act with
  | some .coldReset => .next s.coldReset
  | _ => .fault .noSuchEvent

/-- WARM_RESET: the bad-line lists and the error counters stay. -/
def execWarmReset (s : State) : Out :=
  match s.act with
  | some .warmReset =>
    .next { s.resetAll with
      badLines := s.badLines, blList := s.blList, blOvf := s.blOvf, blFound := s.blFound, errCounts := s.errCounts }
  | _ => .fault .noSuchEvent

/-- THERMAL_TRIP: the module is held in cold reset, and the event is posted to both host mailboxes. -/
def execThermalTrip (s : State) : Out :=
  match s.act with
  | some .thermalTrip =>
    let s := ({ s.coldReset with tripped := true } : State).notice .trip
    .next { s with hostOut := s.hostOut ++ [.msix .a 0 0, .msix .b 0 0] }
  | _ => .fault .noSuchEvent

/-! ### Function-level reset (R383) -/

/-- The tows that the world's fibres belong to: those of its slots, queues, await entries and held records. -/
def State.worldTows (s : State) (w : World) : List (BitVec 16) :=
  let rs := (s.clq ++ s.heldQ).map (·.rcd) ++ s.lrq ++ (s.ring w).recs ++ s.heldMsgs ++ s.farMsgs.map (·.2) ++
    s.susp.map (·.2.2.rcd) ++ s.swapped.map (·.2.2) ++ (s.await.toList.filterMap id).map (·.rcd)
  let ts := (s.slots.toList.filter fun sl => sl.status != .free && sl.world == w).flatMap fun sl =>
      [sl.tow, sl.tjn.extractLsb' 0 16, sl.tjn.extractLsb' 16 16]
  ((ts ++ (rs.filter fun r => recWorld r == w).map recTow).filter (· != 0)).dedup

/-- The bound fibres of a world are discarded; its copy commands and transform requests are cancelled. -/
def State.discardSlots (s : State) (w : World) : State :=
  let s : State := allSlots.foldl (fun (s : State) i =>
    if i != 15 && (s.slot i).world == w && (s.slot i).status != .free then (s.withdraw i).vacate i 0 else s) s
  let s : State := { s with slots := s.slots.map fun (sl : Slot) =>
    { sl with copies := sl.copies.filter fun c => c.world != w, isLocal := sl.isLocal && sl.world != w } }
  { s with cl := { s.cl with xreqs := s.cl.xreqs.filter fun x => x.world != w },
           mat := { s.mat with drains := s.mat.drains.filter fun d => d.world != w },
           wave := { s.wave with tiles := s.wave.tiles.filter fun t => (s.slot t.sl).world != w } }

/-- Queued, awaiting, swapped and held fibres of a world are discarded, and what its stores have not yet performed. -/
def State.discardQueues (s : State) (w : World) : State :=
  let q := fun (x : Queued) => recWorld x.rcd != w
  let r := fun (x : Rec) => recWorld x != w
  let s : State := (List.finRange 32).foldl (fun (s : State) i => match s.await[i] with
    | some e => if e.world == w then s.dropAwait i else s
    | none => s) s
  { s with
    clq := s.clq.filter q, heldQ := s.heldQ.filter q, lrq := s.lrq.filter r, heldMsgs := s.heldMsgs.filter r,
    cmq := s.cmq.set w { s.ring w with recs := [] }, susp := s.susp.filter (·.1 != w), swapped := s.swapped.filter (·.1 != w),
    farMsgs := s.farMsgs.filter fun m => r m.2, sideLog := s.sideLog.filter (·.world != w),
    heldSigs := s.heldSigs.filter (·.world != w), updates := s.updates.filter (·.world != w),
    asleep := s.asleep.filter (·.world != w), swapping := s.swapping.filter (·.1 != w),
    pageReqs := s.pageReqs.filter (·.world != w), quayMons := s.quayMons.filter (·.world != w),
    cl := { s.cl with parkedMons := s.cl.parkedMons.filter (·.world != w), replies := s.cl.replies.filter (·.world != w) },
    pageCounts := s.pageCounts.filter (·.world != w), barScales := s.barScales.filter (·.world != w) }

/-- The launches of a world that a reset ends: those whose status is still to be written, and the tows that have not completed. -/
def State.flrTows (s : State) (w : World) : List (BitVec 16) :=
  let due := (s.launches.filter (·.1 == w)).map (·.2.1)
  (due ++ (s.worldTows w).filter fun t => !due.contains t && match s.towTr w t with
    | .ok k _ => !bitN (s.towNat k 4 4) 3
    | _ => true).dedup

/-- They complete with status FLR where they have a route. -/
def State.flrLaunches (s : State) (w : World) : State :=
  (s.launches.filter (·.1 == w)).foldl (fun (s : State) l => match s.towTr w l.2.1 with
    | .ok k _ => if bitN (s.towNat k 4 4) 0 then (s.towFlags k (flagSet 3 true)).completeLaunch w k 3 else s
    | _ => s) { s with launches := s.launches.filter (·.1 != w) }

/-- The tag of every granule that holds a capability of the world is cleared, in memory and in FIFO banks. -/
def State.sweepTags (s : State) (w : World) : State :=
  let is := fun (c : Cap) => (capWorld c).toNat == w.val
  let s := s.sweepCache is
  { s with
    tags := s.tags.filter fun g => !is ⟨true, BitVec.ofNat 128 (s.nat (16 * g) 16)⟩,
    fifos := s.fifos.map fun p => (p.1, p.2.map fun c => if is c then capUntag c else c) }

/-- Every sealed line of the world is zeroed: those of its mapped pages that stand in memory, 64 KiB by 64 KiB, since windows and the
open range begin and end at multiples of it (R342, R394). -/
def State.zeroSealed (s : State) (w : World) : State :=
  if !s.isProt w then s
  else
    (s.leaves w).foldl (fun s p => (List.range (lfBytes p.2 / 2 ^ 16)).foldl (fun s j =>
      if s.sealedVa w (p.1 + j * 2 ^ 16) then s.zeroRange (lfFrame p.2 + j * 2 ^ 16) (2 ^ 16) else s) s) s

/-- FUNCTION_LEVEL_RESET starts: WSEC is raised, host writes are discarded, and the fibres that stand in no slot, with what
engines do for the world, are discarded. -/
def execFunctionLevelReset (s : State) : Out :=
  match s.act with
  | some (.functionLevelReset w) =>
    if w = 0 then .next s
    else
      let s := s.modWorld w fun x => { x with inFlr := true, flrst := 0 }
      let s := s.raiseWsec w 1
      let s : State := { s with launches := s.launches.filter (·.1 != w) ++ (s.flrTows w).map fun t => (w, t, 3) }
      .next (s.discardQueues w).unstall
  | _ => .fault .noSuchEvent

/-- FUNCTION_LEVEL_RESET_COMPLETE: the bound fibres are discarded, the launches complete, memory is swept and the keys are
destroyed; a change of PROT that waited takes effect (R342). -/
def execFunctionLevelResetComplete (s : State) : Out :=
  match s.act with
  | some (.functionLevelResetComplete w) =>
    if !(s.wst w).inFlr then .next s
    else
      let s := ((s.discardSlots w).discardQueues w).flrLaunches w
      let s := (((s.sweepTags w).zeroSealed w).dropKeys w).forgetCaches w
      let s := s.modWorld w fun x => { x with inFlr := false, flrst := 1, wseal := 0 }
      .next (match (s.wst w).protNext with
        | some v => s.setProt w v
        | none => s).unstall
  | _ => .fault .noSuchEvent

/-! ### Monitors, training and scrubbing (R379, R384, R385) -/

/-- THROTTLE_STEP; the milliseconds that TCYC counts are not stated. -/
def execThrottleStep (s : State) : Out :=
  match s.act with
  | some (.throttleStep die up) =>
    let v := s.throt[die]
    let step := (v.extractLsb' 0 4).toNat
    let r := s.takeFree
    let ms := min ((v.extractLsb' 8 32).toNat + (if step == 0 then 0 else r.1.toNat % 2 ^ 32)) (2 ^ 32 - 1)
    let step := if up then min (step + 1) 8 else step - 1
    .next { r.2 with throt := r.2.throt.set die (BitVec.ofNat 64 (ms * 2 ^ 8 + step)) }
  | _ => .fault .noSuchEvent

/-- SUPPLY_DROOP: a stretched cycle is no cycle. -/
def execSupplyDroop (s : State) : Out :=
  match s.act with
  | some .supplyDroop => .next s
  | _ => .fault .noSuchEvent

/-- VREF_RECALIBRATION changes only timing. -/
def execVrefRecalibration (s : State) : Out :=
  match s.act with
  | some (.vrefRecalibration _) => .next s
  | _ => .fault .noSuchEvent

/-- A count of a bank changes (R381). -/
def State.countError (s : State) (b : Bank) (f : ErrCount → ErrCount) : State :=
  { s with errCounts := s.errCounts.filter (·.bank != b) ++ [f (s.errCount b)] }

/-- A record of a ready queue whose entry fails is lost, and firmware is told (R376). -/
def State.loseRecord (s : State) (n : Nat) : State :=
  let s := s.notice .lostRecord
  if n < s.lrq.length then ({ s with lrq := s.lrq.eraseIdx n } : State).lrqFreed
  else ({ s with clq := s.clq.eraseIdx (n - s.lrq.length) } : State).crqDrain

/-- A soft error: corrected, which no program sees; in a line or a granule, which is bad from then on; in a queue; or in a register, an
accumulator or a semaphore, whose waiters read it again (R376, R380, R381). -/
def State.softError (s : State) : SoftError → State
  | .corrected b => s.countError b fun c => { c with corrected := satInc c.corrected }
  | .cell b key =>
    let s := s.countError b fun c => { c with fatal := if c.fatal = BitVec.allOnes 16 then c.fatal else c.fatal + 1 }
    if keyIsHost key then s
    else if keyIsCl key then (if s.badGrans.contains (key / 16) then s else { s with badGrans := s.badGrans ++ [key / 16] })
    else if s.badLines.contains (key / 128) then s else { s with badLines := s.badLines ++ [key / 128] }
  | .record n => s.loseRecord n
  | .reg i file ix => s.modSlot i fun sl => { sl with bad := sl.bad.filter (· != (file.val, ix)) ++ [(file.val, ix)] }
  | .acc n => { s with mat := { s.mat with badAcc := s.mat.badAcc.filter (· != n.val) ++ [n.val] } }
  | .sem n => ({ s with badSem := s.badSem.filter (· != n) ++ [n] } : State).rouseAll fun k o => k == .sem && o == n.toNat

/-- PATROL_SCRUB: the soft errors that reads have found are counted, and a bad line enters its quay's list; no value changes. -/
def execPatrolScrub (s : State) : Out :=
  match s.act with
  | some (.patrolScrub line soft) => .next ((soft.foldl State.softError s).listBad 0 line)
  | _ => .fault .noSuchEvent

end Sys2Proof.Machine
end

