-- ==== Sys2Proof/Machine/Integer.lean ====
section
/-!
DEFINITION. The integer and address group (R73-R81).
-/

namespace Sys2Proof.Machine

/-- The common integer operation of R73 on a and b. -/
def intBody (o : RIOp) (f : IntTy → Int → Int → Int) (s : State) : R State :=
  let t := IntTy.ofCode (riMd o).ty
  let v := f t (t.rd (s.rx (riOa o)).toNat) (t.rd (riSext s o).toNat)
  .ok (s.wx (riOd o) (t.ext (t.reduce ((riMd o).sat == 1) v)))

/-- The R-form operations on a, b and c. -/
def intBody3 (o : ROp) (f : IntTy → Int → Int → Int → Int) (s : State) : R State :=
  let t := IntTy.ofCode o.md.ty
  let v := f t (t.rd (s.rx o.oa).toNat) (t.rd (s.rx o.ob).toNat) (t.rd (s.rx o.oc).toNat)
  .ok (s.wx o.od (t.ext (t.reduce (o.md.sat == 1) v)))

/-- Operations on the `w`-bit patterns of a and b. -/
def patBody (o : RIOp) (f : IntTy → Nat → Nat → Nat) (s : State) : R State :=
  let t := IntTy.ofCode (riMd o).ty
  .ok (s.wx (riOd o) (t.ext (f t ((s.rx (riOa o)).toNat % 2 ^ t.w) ((riSext s o).toNat % 2 ^ t.w))))

/-- The shifts of R77: the amount is the whole of x(OB) or IMM32 zero-extended. -/
def shiftBody (o : RIOp) (f : Nat → Nat → Nat → Nat) (s : State) : R State :=
  let t := IntTy.ofCode (riMd o).ty
  .ok (s.wx (riOd o) (t.ext (f t.w ((s.rx (riOa o)).toNat % 2 ^ t.w) (riZext s o).toNat)))

/-- Operations on the `w`-bit pattern of a alone. -/
def unaryBody (o : ROp) (f : IntTy → Nat → Nat) (s : State) : R State :=
  let t := IntTy.ofCode o.md.ty
  .ok (s.wx o.od (t.ext (f t ((s.rx o.oa).toNat % 2 ^ t.w))))

/-- Position and length of bfx and bfi (R78). -/
def fieldPos (s : State) (o : RIOp) : Nat := (riZext s o).toNat % 64
def fieldLen (s : State) (o : RIOp) : Nat := (riZext s o).toNat / 256 % 64

def execAdd (o : RIOp) (s : State) : Out := finish (riHdr o) (intBody o fun _ a b => a + b) s
def execSub (o : RIOp) (s : State) : Out := finish (riHdr o) (intBody o fun _ a b => a - b) s
def execMul (o : RIOp) (s : State) : Out := finish (riHdr o) (intBody o fun _ a b => a * b) s
def execMulh (o : ROp) (s : State) : Out := finish o.hdr (intBody3 o fun t a b _ => a * b / 2 ^ t.w) s
def execMad (o : ROp) (s : State) : Out := finish o.hdr (intBody3 o fun _ a b c => a * b + c) s
def execDiv (o : ROp) (s : State) : Out := finish o.hdr (intBody3 o fun t a b _ => t.divV a b) s
def execRem (o : ROp) (s : State) : Out := finish o.hdr (intBody3 o fun t a b _ => t.remV a b) s
def execAnd (o : RIOp) (s : State) : Out := finish (riHdr o) (patBody o fun _ a b => a &&& b) s
def execOr (o : RIOp) (s : State) : Out := finish (riHdr o) (patBody o fun _ a b => a ||| b) s
def execXor (o : RIOp) (s : State) : Out := finish (riHdr o) (patBody o fun _ a b => a ^^^ b) s
def execAndn (o : RIOp) (s : State) : Out :=
  finish (riHdr o) (patBody o fun t a b => a &&& (2 ^ t.w - 1 - b)) s
def execShl (o : RIOp) (s : State) : Out := finish (riHdr o) (shiftBody o shlPat) s
def execShr (o : RIOp) (s : State) : Out := finish (riHdr o) (shiftBody o shrPat) s
def execSra (o : RIOp) (s : State) : Out := finish (riHdr o) (shiftBody o sraPat) s
def execRotl (o : RIOp) (s : State) : Out := finish (riHdr o) (shiftBody o rotlPat) s
def execMin (o : RIOp) (s : State) : Out := finish (riHdr o) (intBody o fun _ a b => min a b) s
def execMax (o : RIOp) (s : State) : Out := finish (riHdr o) (intBody o fun _ a b => max a b) s
def execAbs (o : ROp) (s : State) : Out := finish o.hdr (intBody3 o fun _ a _ _ => |a|) s
def execClz (o : ROp) (s : State) : Out := finish o.hdr (unaryBody o fun t a => clzPat t.w a) s
def execCtz (o : ROp) (s : State) : Out := finish o.hdr (unaryBody o fun t a => ctzPat t.w a) s
def execPopc (o : ROp) (s : State) : Out := finish o.hdr (unaryBody o fun t a => popBits a t.w) s
def execBswap (o : ROp) (s : State) : Out := finish o.hdr (unaryBody o fun t a => bswapPat (t.w / 8) a) s

/-- bfx (R78). -/
def execBfx (o : RIOp) (s : State) : Out :=
  finish (riHdr o) (fun s =>
    .ok (s.wx (riOd o) (bfxV ((riMd o).ty == 3) (s.rx (riOa o)).toNat (fieldPos s o) (fieldLen s o)))) s

/-- bfi (R78): x(OD) is also a source. -/
def execBfi (o : RIOp) (s : State) : Out :=
  finish (riHdr o) (fun s =>
    .ok (s.wx (riOd o) (bfiV (s.rx (riOd o)) (s.rx (riOa o)) (fieldPos s o) (fieldLen s o)))) s

/-- shadd (R75): the shift is SUB. -/
def execShadd (o : RIOp) (s : State) : Out :=
  finish (riHdr o) (intBody o fun _ a b => a * 2 ^ (riMd o).sub.toNat + b) s

/-- sel (R79). -/
def execSel (o : ROp) (s : State) : Out :=
  finish o.hdr (fun s =>
    let t := IntTy.ofCode o.md.ty
    .ok (s.wx o.od (t.ext (if s.rp o.oc then s.rx o.oa else s.rx o.ob).toNat))) s

/-- mov (R81). -/
def execMov (o : ROp) (s : State) : Out := finish o.hdr (unaryBody o fun _ a => a) s

/-- li (R80). -/
def execLi (o : IOp) (s : State) : Out :=
  finish o.hdr (fun s =>
    .ok (s.wx o.od (match o.md.sub.toNat with
      | 0 => o.imm.signExtend 64
      | 1 => o.imm.setWidth 64
      | _ => o.imm ++ (s.rx o.od).extractLsb' 0 32))) s

/-- cvt (R81): SUB holds the source type. -/
def execCvt (o : ROp) (s : State) : Out :=
  finish o.hdr (fun s =>
    let t := IntTy.ofCode o.md.ty
    let a := (IntTy.ofCode o.md.sub).rd (s.rx o.oa).toNat
    .ok (s.wx o.od (t.ext (t.reduce (o.md.sat == 1) a)))) s

/-- cmp (R79). -/
def execCmp (o : RIOp) (s : State) : Out :=
  finish (riHdr o) (fun s =>
    let t := IntTy.ofCode (riMd o).ty
    .ok (s.wp (riOd o) (intCond (riMd o).sub.toNat (t.rd (s.rx (riOa o)).toNat) (t.rd (riSext s o).toNat)))) s

end Sys2Proof.Machine
end

