-- ==== Sys2Proof/Machine/Scalar.lean ====
section
/-!
DEFINITION. Predicates (R82) and scalar floats (R83-R89).
-/

namespace Sys2Proof.Machine

/-! ### Predicates (R82) -/

def predBody (o : ROp) (f : Bool → Bool → Bool) (s : State) : R State :=
  .ok (s.wp o.od (f (s.rp o.oa) (s.rp o.ob)))

def execPand (o : ROp) (s : State) : Out := finish o.hdr (predBody o and) s
def execPor (o : ROp) (s : State) : Out := finish o.hdr (predBody o or) s
def execPxor (o : ROp) (s : State) : Out := finish o.hdr (predBody o xor) s
def execPnot (o : ROp) (s : State) : Out := finish o.hdr (predBody o fun a _ => !a) s

/-- pmov in its four forms. -/
def execPmov (o : ROp) (s : State) : Out :=
  finish o.hdr (fun s => .ok (match o.md.sub.toNat with
    | 0 => s.wp o.od (s.rp o.oa)
    | 1 => s.wp o.od (s.rx o.oa != 0)
    | 2 => s.wx o.od (if s.rp o.oa then 1 else 0)
    | _ => s.wx o.od (s.sl.preds.setWidth 64))) s

/-! ### Scalar floats -/

/-- The low bits of an x register that hold a value of TYPE (R83). -/
def flCode (f : Fmt) (v : Word) : Nat := v.toNat % 2 ^ f.width

/-- A float operation on the codes of up to three operands: result, then flags or FPE (R84, R89). -/
def floatBody (o : ROp) (f : FpEnv → Fmt → Nat → Nat → Nat → Nat × Flags) (s : State) : R State :=
  let t := Fmt.ofCode o.md.ty 0
  let r := f (s.sl.fpEnv o.md) t (flCode t (s.rx o.oa)) (flCode t (s.rx o.ob)) (flCode t (s.rx o.oc))
  do
    let s ← raiseFlags s r.2
    .ok (s.wx o.od (BitVec.ofNat 64 r.1))

def execFadd (o : ROp) (s : State) : Out := finish o.hdr (floatBody o fun e t a b _ => flAdd e t a b) s
def execFsub (o : ROp) (s : State) : Out := finish o.hdr (floatBody o fun e t a b _ => flSub e t a b) s
def execFmul (o : ROp) (s : State) : Out := finish o.hdr (floatBody o fun e t a b _ => flMul e t a b) s
def execFfma (o : ROp) (s : State) : Out := finish o.hdr (floatBody o flFma) s
def execFdiv (o : ROp) (s : State) : Out := finish o.hdr (floatBody o fun e t a b _ => flDiv e t a b) s
def execFsqrt (o : ROp) (s : State) : Out := finish o.hdr (floatBody o fun e t a _ _ => flSqrt e t a) s
def execFmin (o : ROp) (s : State) : Out := finish o.hdr (floatBody o fun e t a b _ => (flMin e t a b, 0)) s
def execFmax (o : ROp) (s : State) : Out := finish o.hdr (floatBody o fun e t a b _ => (flMax e t a b, 0)) s

/-- fcmp (R86). -/
def execFcmp (o : ROp) (s : State) : Out :=
  finish o.hdr (fun s =>
    let t := Fmt.ofCode o.md.ty 0
    let r := flCond o.md.sub.toNat (t.decode s.sl.tcx (s.rx o.oa).toNat) (t.decode s.sl.tcx (s.rx o.ob).toNat)
    do
      let s ← raiseFlags s r.2
      .ok (s.wp o.od r.1)) s

/-- fcvt (R88): SUB holds the source code. -/
def execFcvt (o : ROp) (s : State) : Out :=
  finish o.hdr (fun s =>
    let t := Fmt.ofCode o.md.ty 0
    let e := s.sl.fpEnv o.md
    let r := t.encode e.tcx e.rm e.sat ((Fmt.ofCode o.md.sub 0).decode e.tcx (s.rx o.oa).toNat)
    do
      let s ← raiseFlags s r.2
      .ok (s.wx o.od (if t.isInt then (IntTy.ofCode o.md.ty).ext r.1 else BitVec.ofNat 64 r.1))) s

/-- fclass (R87). -/
def execFclass (o : ROp) (s : State) : Out :=
  finish o.hdr (fun s =>
    let t := Fmt.ofCode o.md.ty 0
    .ok (s.wx o.od (BitVec.ofNat 64 (2 ^ flClass t s.sl.tcx (flCode t (s.rx o.oa)))))) s

end Sys2Proof.Machine
end

