-- ==== Sys2Proof/Machine/Wave.lean ====
section
/-!
DEFINITION. The wavefront array (R158-R171): cells, tiles, boundaries through memory and traceback.
-/

namespace Sys2Proof.Machine

/-! ### The rule (R160, R162) -/

/-- What a tile is computed under. -/
structure WRule where
  isMin : Bool
  mode : Nat
  aff : Bool
  w32 : Bool
  subt : Bool
  matchC : Int
  mismC : Int
  gopen : Int
  gext : Int
  lo : Int
  hi : Int
  table : List Byte
deriving DecidableEq, Repr

def Wave.aff (w : Wave) : Bool := w.rule.getLsbD 3
def Wave.w32 (w : Wave) : Bool := w.rule.getLsbD 4

def Wave.wrule (w : Wave) : WRule where
  isMin := w.rule.getLsbD 0
  mode := (w.rule.extractLsb' 1 2).toNat
  aff := w.aff
  w32 := w.w32
  subt := w.rule.getLsbD 5
  matchC := (w.rule.extractLsb' 16 8).toInt
  mismC := (w.rule.extractLsb' 24 8).toInt
  gopen := (w.gap.extractLsb' 16 16).toInt
  gext := (w.gap.extractLsb' 0 16).toInt
  lo := w.lo.toInt
  hi := w.hi.toInt
  table := w.table

namespace WRule

def bits (r : WRule) : Nat := if r.w32 then 32 else 16
/-- The infinity that loses every comparison. -/
def worst (r : WRule) : Int := if r.isMin then 2 ^ (r.bits - 1) - 1 else -2 ^ (r.bits - 1)
/-- Clamped into the finite range. -/
def clamp (r : WRule) (v : Int) : Int := max (-2 ^ (r.bits - 1) + 1) (min v (2 ^ (r.bits - 1) - 2))
/-- A cell plus a cost. -/
def plus (r : WRule) (v c : Int) : Int := if v = r.worst then v else r.clamp (v + c)
/-- An input cell: the other infinity reads as the nearest finite limit. -/
def input (r : WRule) (code : Nat) : Int :=
  let v := intDecode true r.bits code
  if v = r.worst then v else r.clamp v
def better (r : WRule) (a b : Int) : Bool := if r.isMin then a < b else b < a

/-- The best of a list of candidates and its index; an equal later one never wins (R163). -/
def best (r : WRule) (v : Int) (n : Nat) : Nat → List Int → Int × Nat
  | _, [] => (v, n)
  | i, c :: cs => if r.better c v then r.best c i (i + 1) cs else r.best v n (i + 1) cs

/-- The cost of two symbols. -/
def cost (r : WRule) (a b : Byte) : Int :=
  if r.subt then (r.table.getD (32 * (a.toNat % 32) + b.toNat % 32) 0).toInt
  else if a = b then r.matchC else r.mismC

/-- The diagonal of a cell is inside the band (R164). -/
def inBand (r : WRule) (i j : Int) : Bool := r.lo ≤ j - i && j - i ≤ r.hi

end WRule

/-- A cell: H, E and F, and its code in the plane (R167). -/
structure WCell where
  h : Int
  e : Int
  f : Int
  code : Nat
deriving DecidableEq, Repr

/-- A cell from its neighbours (R163): the diagonal, upper and left H, the upper F and the left E. -/
def WRule.cell (r : WRule) (band : Bool) (s hd hu fu hl el : Int) : WCell :=
  if !band then ⟨r.worst, r.worst, r.worst, 3⟩
  else
    let zero := if r.mode = 1 then [0] else []
    if r.aff then
      let e1 := r.plus hl (r.gopen + r.gext)
      let e2 := r.plus el r.gext
      let f1 := r.plus hu (r.gopen + r.gext)
      let f2 := r.plus fu r.gext
      let e := if r.better e2 e1 then e2 else e1
      let f := if r.better f2 f1 then f2 else f1
      let b := r.best (r.plus hd s) 0 1 ([f, e] ++ zero)
      ⟨b.1, e, f, b.2 + (if r.better e2 e1 then 4 else 0) + (if r.better f2 f1 then 8 else 0)⟩
    else
      let b := r.best (r.plus hd s) 0 1 ([r.plus hu r.gext, r.plus hl r.gext] ++ zero)
      ⟨b.1, r.worst, r.worst, b.2⟩

/-! ### Tiles (R166) -/

/-- The inputs of a tile: where it stands, its symbols, the corner, and H with the gap plane along its edges. -/
structure WIn where
  i0 : Nat
  j0 : Nat
  a : List Byte
  b : List Byte
  corner : Int
  top : List (Int × Int)
  left : List (Int × Int)
deriving DecidableEq, Repr

/-- The cells of a row from column `j` on. -/
def wRow (r : WRule) (i : Int) (a : Byte) : Int → Int → Int → Int → List Byte → List (Int × Int) → List WCell
  | j, hd, hl, el, b :: bs, (hu, fu) :: us =>
    let c := r.cell (r.inBand i j) (r.cost a b) hd hu fu hl el
    c :: wRow r i a (j + 1) hu c.h c.e bs us
  | _, _, _, _, _, _ => []

/-- The rows of a tile from row `i` on. -/
def wRows (r : WRule) (t : WIn) : Int → Int → List (Int × Int) → List Byte → List (Int × Int) → List (List WCell)
  | i, hd, up, a :: as, (hl, el) :: ls =>
    let row := wRow r i a (t.j0 + 1) hd hl el t.b up
    row :: wRows r t (i + 1) hl (row.map fun c => (c.h, c.f)) as ls
  | _, _, _, _, _ => []

def wTile (r : WRule) (t : WIn) : List (List WCell) := wRows r t (t.i0 + 1) t.corner t.top t.a t.left

/-- The plane (R167). -/
def wPlane (r : WRule) (rows : List (List WCell)) : List Byte :=
  rows.flatMap fun row =>
    if r.aff then leBytes 16 (row.foldr (fun c n => c.code % 16 + 16 * n) 0)
    else leBytes 8 (row.foldr (fun c n => c.code % 4 + 4 * n) 0)

/-- The synthesised edge at an absolute index. DEDUCED, unsafe: log 38. -/
def WRule.edge (r : WRule) (t : Nat) : Int :=
  if r.mode = 0 && t != 0 then r.clamp ((if r.aff then r.gopen else 0) + r.gext * t) else 0

/-- The registers that a boundary fills: H, and the gap plane behind it or in the next register. -/
def wOut (r : WRule) (n : BitVec 6) (hs gs : List Int) : List (Fin 64 × Line) :=
  let pack := fun (l : List Int) => l.foldr (fun v m => intCode r.bits v + 2 ^ r.bits * m) 0
  let ix : Fin 64 := n.toFin
  if r.w32 then
    (ix, BitVec.ofNat 1024 (pack hs)) :: if r.aff then [(ix + 1, BitVec.ofNat 1024 (pack gs))] else []
  else [(ix, BitVec.ofNat 1024 (pack hs + if r.aff then 2 ^ 512 * pack gs else 0))]

/-- A boundary register read: H and the gap plane of each of 32 cells. -/
def Slot.edgeIn (sl : Slot) (r : WRule) (n : BitVec 6) : List (Int × Int) :=
  (List.range 32).map fun t =>
    let h := r.input (lane r.bits (sl.rv n) t)
    let g := if !r.aff then r.worst else if r.w32 then r.input (lane 32 (sl.rv (n + 1)) t) else r.input (lane 16 (sl.rv n) (32 + t))
    (h, g)

/-! ### wcfg, wband (R160, R164) -/

/-- The array is the slot's, in kind wave (R158), and its tiles are complete. -/
def waveHeld (s : State) (at_ : Nat) : R State := do
  let s ← matReady s
  heldCheck s at_ [3]
  .ok s

/-- WCFG aux 1 on a rule word. -/
def ruleOk (v : BitVec 32) : Bool := v.extractLsb' 1 2 != 3 && v.extractLsb' 6 10 == 0

def State.modWave (s : State) (f : Wave → Wave) : State := { s with wave := f s.wave }

/-- The R form of wcfg. DESIGN CHOICE, unsafe: log 96. -/
def wcfgR (o : ROp) (s : State) : R State := do
  let c := s.rc o.oc
  let a := if o.oc = 0 then 0 else (capCursor c).toNat
  let s ← waveHeld s a
  matIdle s
  let rule : BitVec 32 := (s.rx o.oa).extractLsb' 0 32
  let subt := rule.getLsbD 5
  if subt && o.oc != 0 then check s (capCheck s.world c a 1024 pR)
  guardR s (ruleOk rule) cWCFG 1 a
  guardR s (subt == (o.oc != 0)) cWCFG 2 a
  let t ← (if subt then readTableOf s c else .ok ([], s) : R (List Byte × State))
  .ok (t.2.modWave fun w =>
    { w with rule := rule, gap := (s.rx o.ob).extractLsb' 0 32, tableCap := if subt then c else Cap.null, table := t.1 })

/-- The X form of wcfg. -/
def wcfgX (o : XOp) (s : State) : R State := do
  let s ← waveHeld s 0
  matIdle s
  if o.sub = 0 then
    guardR s (ruleOk o.imm) cWCFG 1 0
    guardR s (!(o.imm.getLsbD 5 && capIsNull s.wave.tableCap)) cWCFG 2 0
    .ok (s.modWave fun w => { w with rule := o.imm })
  else .ok (s.modWave fun w => { w with gap := o.imm })

def execWcfg (o : RXOp) (s : State) : Out :=
  match o with
  | .r o => finish o.hdr (wcfgR o) s
  | .x o => finish o.hdr (wcfgX o) s

def execWband (o : RIOp) (s : State) : Out :=
  finish (riHdr o) (fun s => do
    let s ← waveHeld s 0
    matIdle s
    let (lo, hi) : BitVec 32 × BitVec 32 := match o with
      | .r o => ((s.rx o.oa).extractLsb' 0 32, (s.rx o.ob).extractLsb' 0 32)
      | .i o => ((o.imm.extractLsb' 0 16).signExtend 32, (o.imm.extractLsb' 16 16).signExtend 32)
    guardR s (lo.toInt ≤ hi.toInt) cWCFG 4 0
    .ok (s.modWave fun w => { w with lo := lo, hi := hi })) s

/-! ### wseq, wtile (R165, R166) -/

def Wave.planeBytes (w : Wave) : Nat := if w.aff then 512 else 256

/-- The checks on a plane for its writes by the array; `v64` says that a boundary register would need v64 (R161).
DESIGN CHOICE, unsafe: log 97. -/
def planeWrite (s : State) (c : Cap) (v64 : Bool) : R Unit := do
  let a := (capCursor c).toNat
  let n := s.wave.planeBytes
  check s (capCheck s.world c a n pW)
  guardR s (capLocal c && a % n == 0) cWCFG 6 a
  guardR s (!v64) cWCFG 7 a
  check s (localCheck s.cluster.val s.sl.cmwin a n)
  guardR s (!capHas c pFIFO) cPROT 8 a
  check s (s.engineBank s.cluster c a n false)

def execWseq (o : ROp) (s : State) : Out :=
  finish o.hdr (fun s => do
    let c := s.rc o.od
    let s ← waveHeld s (capCursor c).toNat
    noPort s o.oa
    noPort s o.ob
    planeWrite s c false
    .ok (s.modWave fun w =>
      { w with staged := some ⟨c, s.rx o.oc, (s.sl.rv o.oa).extractLsb' 0 256, (s.sl.rv o.ob).extractLsb' 0 256⟩ })) s

/-- The symbols of a staged sequence. -/
def symbols (v : BitVec 256) : List Byte := leBytes 32 v.toNat

/-- The inputs of a staged tile, edges outside the band read as the worst value. -/
def wInputs (sl : Slot) (r : WRule) (t : Staged) (o : ROp) : WIn :=
  let i0 := 32 * (t.word.extractLsb' 0 16).toNat
  let j0 := 32 * (t.word.extractLsb' 16 16).toNat
  let top := o.md.isp.getLsbD 0
  let left := o.md.isp.getLsbD 1
  let synth := fun (n0 : Nat) => (List.range 32).map fun t => (r.edge (n0 + t + 1), r.worst)
  let seed := fun (i j : Nat) (c : Int × Int) => if r.inBand i j then c else (r.worst, r.worst)
  let corner := if top && left then 0 else if top then r.edge j0 else if left then r.edge i0
    else r.input (lane r.bits (sl.rv o.oe) 31)
  { i0 := i0, j0 := j0, a := symbols t.a, b := symbols t.b, corner := (seed i0 j0 (corner, 0)).1,
    top := ((if top then synth j0 else sl.edgeIn r o.ob).zipIdx).map fun p => seed i0 (j0 + p.2 + 1) p.1,
    left := ((if left then synth i0 else sl.edgeIn r o.oc).zipIdx).map fun p => seed (i0 + p.2 + 1) j0 p.1 }

/-- The registers that a tile writes. -/
def wOutputs (r : WRule) (o : ROp) (rows : List (List WCell)) : List (Fin 64 × Line) :=
  let bottom := rows.getLastD []
  let right := rows.map fun row => row.getLastD ⟨0, 0, 0, 0⟩
  wOut r o.od (bottom.map (·.h)) (bottom.map (·.f)) ++ wOut r o.oa (right.map (·.h)) (right.map (·.e))

/-- The boundary registers that a wtile names, and those with the ones behind them. -/
def wEdges (o : ROp) : List (BitVec 6) :=
  [o.od, o.oa] ++ (if o.md.isp.getLsbD 0 then [] else [o.ob]) ++ if o.md.isp.getLsbD 1 then [] else [o.oc]
def wRegs (w : Wave) (o : ROp) : List (BitVec 6) := wEdges o ++ if w.aff && w.w32 then (wEdges o).map (· + 1) else []

def execWtile (o : ROp) (s : State) : Out :=
  finishHanded (fun s => do
    let s ← waveHeld s 0
    match s.wave.staged with
    | none => raise s cWCFG 5 0
    | some t =>
      let w := s.wave
      (wRegs w o ++ if o.md.isp.extractLsb' 0 2 = 0 then [o.oe] else []).forM (noPort s)
      planeWrite s t.cap (w.aff && w.w32 && (wEdges o).contains 63)
      if 2 ≤ w.tiles.length then .error (.spin, s)
      else
        let r := w.wrule
        let rows := wTile r (wInputs s.sl r t o)
        let tile : Tile := ⟨s.cur, wOutputs r o rows, t.cap, wPlane r rows, o.hdr.sigSm, o.hdr.sigInc, s.sl.pc, s.insn⟩
        .ok ((s.modWave fun w => { w with staged := none, tiles := w.tiles ++ [tile] }).post .wtileComplete)) s

/-- WTILE_COMPLETE: the oldest tile writes its registers and its plane, then posts its SIG. -/
def execWtileComplete (s : State) : Out :=
  match s.act with
  | some .wtileComplete =>
    match s.wave.tiles with
    | [] => .next s
    | t :: rest =>
      let s := s.modWave fun w => { w with tiles := rest }
      let s := s.modSlot t.sl fun sl => { sl with v := t.regs.foldl (fun v p => v.set p.1 p.2) sl.v }
      let a := (capCursor t.cap).toNat
      .next (match s.enginePut t.sl (s.slot t.sl).world true a t.plane [] t.pc t.insn with
        | .ok s => s.engineSignal t.sl t.sigSm t.sigInc t.pc t.insn
        | .error (.fail f) => s.postRec t.sl f.inFlight t.pc t.insn
        | .error (.wait _) => s)
  | _ => .fault .noSuchEvent

/-! ### Boundaries through memory (R170) -/

/-- The eight granules of a line are all in a state, and nobody of that kind waits ahead on one of them. -/
def lineWait (s : State) (kind : WaitKind) (a : Nat) : R Unit :=
  let g := locKey a / 16
  if (List.range 8).all (fun i => s.fullAt (locKey a + 16 * i) == (kind == .full) &&
      !aheadBy (fun w => w.kind == kind && w.onGranule (g + i)) (.slot s.cur) s.waiters) then .ok ()
  else waitFor s kind a 8

/-- The F bits of the eight granules of a line. -/
def State.setLineFull (s : State) (a : Nat) (v : Bool) : State :=
  (List.range 8).foldl (fun s i => s.setFull (locKey a / 16 + i) v) s

def execWbget (o : MOp) (s : State) : Out :=
  finish o.hdr (fun s => do
    let ea := mEa s o
    let s ← waveHeld s ea
    noPort s o.od
    let c := s.rc o.oa
    accessChecks s c ea 128 pR .fullEmpty 128
    lineWait s .full ea
    let ps ← placed s c ea 128 { r := true }
    let r ← loadPieces s ps
    let s := r.2.modCur (·.wv o.od (BitVec.ofNat 1024 (leNat r.1)))
    .ok (if o.x == 1 then s.setLineFull ea false else s)) s

/-- With X = 0 it waits for nothing and writes as an engine does. -/
def execWbput (o : MOp) (s : State) : Out :=
  finish o.hdr (fun s => do
    let ea := mEa s o
    let s ← waveHeld s ea
    noPort s o.od
    let c := s.rc o.oa
    accessChecks s c ea 128 pW .fullEmpty 128
    if o.x == 1 then
      releaseWait s 1
      lineWait s .empty ea
    let ps ← placed s c ea 128 { w := true }
    let s ← storePieces s ps (leBytes 128 (s.sl.rv o.od).toNat) []
    .ok (s.setLineFull ea true)) s

/-! ### Traceback (R171) -/

/-- Where a walk stands. -/
structure Walker where
  row : Nat
  col : Nat
  ti : Nat
  tj : Nat
  st : Nat
  stop : Bool
  out : List Byte
deriving DecidableEq, Repr

/-- The code of a cell in a plane (R167). -/
def planeCode (aff : Bool) (plane : List Byte) (row col : Nat) : Nat :=
  if aff then leNat ((plane.drop (16 * row)).take 16) / 2 ^ (4 * col) % 16
  else leNat ((plane.drop (8 * row)).take 8) / 2 ^ (2 * col) % 4

/-- A step with its op: the walker moved, and whether it has left the tile. -/
def Walker.move (w : Walker) (op : Byte) (dr dc : Bool) (st : Nat) : Walker × Bool :=
  let outR := dr && w.row == 0
  let outC := dc && w.col == 0
  ({ w with
    out := w.out ++ [op], st := st,
    row := if outR then 31 else if dr then w.row - 1 else w.row,
    col := if outC then 31 else if dc then w.col - 1 else w.col,
    ti := if outR then (w.ti + 65535) % 65536 else w.ti,
    tj := if outC then (w.tj + 65535) % 65536 else w.tj }, outR || outC)

/-- The loop of R171; each turn but one in two emits, so 130 turns are enough for 64 steps. -/
def walkTile (aff : Bool) (plane : List Byte) (mism : Nat → Nat → Bool) : Nat → Walker → Walker
  | 0, w => w
  | n + 1, w =>
    if 64 ≤ w.out.length then w
    else
      let code := planeCode aff plane w.row w.col
      let ch := code % 4
      if w.st == 0 && ch == 3 then { w with out := w.out ++ [0x03], stop := true }
      else if w.st == 0 && aff && ch == 1 then walkTile aff plane mism n { w with st := 2 }
      else if w.st == 0 && aff && ch == 2 then walkTile aff plane mism n { w with st := 1 }
      else
        let r :=
          if w.st == 1 then w.move 0x02 false true (if bitN code 2 then 1 else 0)
          else if w.st == 2 then w.move 0x01 true false (if bitN code 3 then 2 else 0)
          else if ch == 0 then w.move (if mism w.row w.col then 0x04 else 0x00) true true 0
          else if ch == 1 then w.move 0x01 true false 0
          else w.move 0x02 false true 0
        if r.2 then r.1 else walkTile aff plane mism n r.1

/-- The walker that an x register names, and the register that a walker leaves. -/
def walkerOf (v : Word) : Walker :=
  ⟨(v.extractLsb' 0 8).toNat, (v.extractLsb' 8 8).toNat, (v.extractLsb' 16 16).toNat, (v.extractLsb' 32 16).toNat,
    (v.extractLsb' 48 2).toNat, false, []⟩
def Walker.word (w : Walker) : Word :=
  BitVec.ofNat 64 ((if w.stop then 2 ^ 63 else 0) + w.out.length * 2 ^ 56 + w.st * 2 ^ 48 + w.tj * 2 ^ 32 + w.ti * 2 ^ 16 +
    w.col * 2 ^ 8 + w.row)

def execTbwalk (o : ROp) (s : State) : Out :=
  finish o.hdr (fun s => do
    let c := s.rc o.ob
    let a := (capCursor c).toNat
    let s ← waveHeld s a
    noPort s o.od
    if o.md.sub = 1 then
      noPort s o.oc
      noPort s o.oe
    matIdle s
    let n := s.wave.planeBytes
    check s (capCheck s.world c a n pR)
    guardR s (capLocal c && a % n == 0) cWCFG 6 a
    let w := walkerOf (s.rx o.oa)
    guardR s (w.row < 32 && w.col < 32 && (w.st == 0 || (w.st < 3 && s.wave.aff))) cWCFG 8 a
    let r ← loadBytes s c a n pR 1
    let sa := s.sl.rv o.oc
    let sb := s.sl.rv o.oe
    let w := walkTile s.wave.aff r.1 (fun i j => o.md.sub = 1 && lane 8 sa i != lane 8 sb j) 130 w
    let out := w.out ++ List.replicate (128 - w.out.length) 0xFF
    .ok ((r.2.modCur (·.wv o.od (BitVec.ofNat 1024 (leNat out)))).wx o.oa w.word)) s

end Sys2Proof.Machine
end

