-- ==== Sys2Proof/Machine/Dispatch.lean ====
section
/-! DEFINITION. The dispatch: one arm for each constructor of Instr. -/

namespace Sys2Proof.Machine

def exec (i : Instr) (s : State) : Host.Outcome State Fault Refusal :=
  match i with
  | .add o => Sys2Proof.Machine.execAdd o s
  | .sub o => Sys2Proof.Machine.execSub o s
  | .mul o => Sys2Proof.Machine.execMul o s
  | .mulh o => Sys2Proof.Machine.execMulh o s
  | .mad o => Sys2Proof.Machine.execMad o s
  | .div o => Sys2Proof.Machine.execDiv o s
  | .rem o => Sys2Proof.Machine.execRem o s
  | .and o => Sys2Proof.Machine.execAnd o s
  | .or o => Sys2Proof.Machine.execOr o s
  | .xor o => Sys2Proof.Machine.execXor o s
  | .andn o => Sys2Proof.Machine.execAndn o s
  | .shl o => Sys2Proof.Machine.execShl o s
  | .shr o => Sys2Proof.Machine.execShr o s
  | .sra o => Sys2Proof.Machine.execSra o s
  | .rotl o => Sys2Proof.Machine.execRotl o s
  | .min o => Sys2Proof.Machine.execMin o s
  | .max o => Sys2Proof.Machine.execMax o s
  | .abs o => Sys2Proof.Machine.execAbs o s
  | .clz o => Sys2Proof.Machine.execClz o s
  | .ctz o => Sys2Proof.Machine.execCtz o s
  | .popc o => Sys2Proof.Machine.execPopc o s
  | .bfx o => Sys2Proof.Machine.execBfx o s
  | .bfi o => Sys2Proof.Machine.execBfi o s
  | .shadd o => Sys2Proof.Machine.execShadd o s
  | .sel o => Sys2Proof.Machine.execSel o s
  | .mov o => Sys2Proof.Machine.execMov o s
  | .li o => Sys2Proof.Machine.execLi o s
  | .cvt o => Sys2Proof.Machine.execCvt o s
  | .cmp o => Sys2Proof.Machine.execCmp o s
  | .bswap o => Sys2Proof.Machine.execBswap o s
  | .pand o => Sys2Proof.Machine.execPand o s
  | .por o => Sys2Proof.Machine.execPor o s
  | .pxor o => Sys2Proof.Machine.execPxor o s
  | .pnot o => Sys2Proof.Machine.execPnot o s
  | .pmov o => Sys2Proof.Machine.execPmov o s
  | .fadd o => Sys2Proof.Machine.execFadd o s
  | .fsub o => Sys2Proof.Machine.execFsub o s
  | .fmul o => Sys2Proof.Machine.execFmul o s
  | .ffma o => Sys2Proof.Machine.execFfma o s
  | .fdiv o => Sys2Proof.Machine.execFdiv o s
  | .fsqrt o => Sys2Proof.Machine.execFsqrt o s
  | .fmin o => Sys2Proof.Machine.execFmin o s
  | .fmax o => Sys2Proof.Machine.execFmax o s
  | .fcmp o => Sys2Proof.Machine.execFcmp o s
  | .fcvt o => Sys2Proof.Machine.execFcvt o s
  | .fclass o => Sys2Proof.Machine.execFclass o s
  | .vadd o => Sys2Proof.Machine.execVadd o s
  | .vsub o => Sys2Proof.Machine.execVsub o s
  | .vmul o => Sys2Proof.Machine.execVmul o s
  | .vfma o => Sys2Proof.Machine.execVfma o s
  | .vfms o => Sys2Proof.Machine.execVfms o s
  | .vmin o => Sys2Proof.Machine.execVmin o s
  | .vmax o => Sys2Proof.Machine.execVmax o s
  | .vabs o => Sys2Proof.Machine.execVabs o s
  | .vneg o => Sys2Proof.Machine.execVneg o s
  | .vand o => Sys2Proof.Machine.execVand o s
  | .vor o => Sys2Proof.Machine.execVor o s
  | .vxor o => Sys2Proof.Machine.execVxor o s
  | .vshl o => Sys2Proof.Machine.execVshl o s
  | .vshr o => Sys2Proof.Machine.execVshr o s
  | .vcmp o => Sys2Proof.Machine.execVcmp o s
  | .vsel o => Sys2Proof.Machine.execVsel o s
  | .vcvt o => Sys2Proof.Machine.execVcvt o s
  | .vdot o => Sys2Proof.Machine.execVdot o s
  | .vscl o => Sys2Proof.Machine.execVscl o s
  | .vmov o => Sys2Proof.Machine.execVmov o s
  | .vbcast o => Sys2Proof.Machine.execVbcast o s
  | .vins o => Sys2Proof.Machine.execVins o s
  | .vext o => Sys2Proof.Machine.execVext o s
  | .vclamp o => Sys2Proof.Machine.execVclamp o s
  | .kand o => Sys2Proof.Machine.execKand o s
  | .kor o => Sys2Proof.Machine.execKor o s
  | .kxor o => Sys2Proof.Machine.execKxor o s
  | .knot o => Sys2Proof.Machine.execKnot o s
  | .kpop o => Sys2Proof.Machine.execKpop o s
  | .kfirst o => Sys2Proof.Machine.execKfirst o s
  | .kset o => Sys2Proof.Machine.execKset o s
  | .kmov o => Sys2Proof.Machine.execKmov o s
  | .vrcp o => Sys2Proof.Machine.execVrcp o s
  | .vrsq o => Sys2Proof.Machine.execVrsq o s
  | .vsqrt o => Sys2Proof.Machine.execVsqrt o s
  | .vexp2 o => Sys2Proof.Machine.execVexp2 o s
  | .vlog2 o => Sys2Proof.Machine.execVlog2 o s
  | .vsin o => Sys2Proof.Machine.execVsin o s
  | .vcos o => Sys2Proof.Machine.execVcos o s
  | .vtanh o => Sys2Proof.Machine.execVtanh o s
  | .vsigm o => Sys2Proof.Machine.execVsigm o s
  | .vexpd o => Sys2Proof.Machine.execVexpd o s
  | .vredsum o => Sys2Proof.Machine.execVredsum o s
  | .vredmax o => Sys2Proof.Machine.execVredmax o s
  | .vredmin o => Sys2Proof.Machine.execVredmin o s
  | .vscan o => Sys2Proof.Machine.execVscan o s
  | .vperm o => Sys2Proof.Machine.execVperm o s
  | .vshuf o => Sys2Proof.Machine.execVshuf o s
  | .vpack o => Sys2Proof.Machine.execVpack o s
  | .vunpack o => Sys2Proof.Machine.execVunpack o s
  | .sbind o => Sys2Proof.Machine.execSbind o s
  | .sdim o => Sys2Proof.Machine.execSdim o s
  | .sstart o => Sys2Proof.Machine.execSstart o s
  | .sstop o => Sys2Proof.Machine.execSstop o s
  | .swait o => Sys2Proof.Machine.execSwait o s
  | .frep o => Sys2Proof.Machine.execFrep o s
  | .mcfg o => Sys2Proof.Machine.execMcfg o s
  | .mzero o => Sys2Proof.Machine.execMzero o s
  | .mlda o => Sys2Proof.Machine.execMlda o s
  | .mldb o => Sys2Proof.Machine.execMldb o s
  | .mscl o => Sys2Proof.Machine.execMscl o s
  | .mma o => Sys2Proof.Machine.execMma o s
  | .mmas o => Sys2Proof.Machine.execMmas o s
  | .mdrain o => Sys2Proof.Machine.execMdrain o s
  | .mhand o => Sys2Proof.Machine.execMhand o s
  | .mrowrd o => Sys2Proof.Machine.execMrowrd o s
  | .mrowwr o => Sys2Proof.Machine.execMrowwr o s
  | .msave o => Sys2Proof.Machine.execMsave o s
  | .mrest o => Sys2Proof.Machine.execMrest o s
  | .mstat o => Sys2Proof.Machine.execMstat o s
  | .fpush o => Sys2Proof.Machine.execFpush o s
  | .fpop o => Sys2Proof.Machine.execFpop o s
  | .fdrop o => Sys2Proof.Machine.execFdrop o s
  | .fenter o => Sys2Proof.Machine.execFenter o s
  | .farg o => Sys2Proof.Machine.execFarg o s
  | .fkeep o => Sys2Proof.Machine.execFkeep o s
  | .fseal o => Sys2Proof.Machine.execFseal o s
  | .fshare o => Sys2Proof.Machine.execFshare o s
  | .fappend o => Sys2Proof.Machine.execFappend o s
  | .fwin o => Sys2Proof.Machine.execFwin o s
  | .fvis o => Sys2Proof.Machine.execFvis o s
  | .fdesc o => Sys2Proof.Machine.execFdesc o s
  | .fmask o => Sys2Proof.Machine.execFmask o s
  | .wcfg o => Sys2Proof.Machine.execWcfg o s
  | .wband o => Sys2Proof.Machine.execWband o s
  | .wseq o => Sys2Proof.Machine.execWseq o s
  | .wtile o => Sys2Proof.Machine.execWtile o s
  | .wbget o => Sys2Proof.Machine.execWbget o s
  | .wbput o => Sys2Proof.Machine.execWbput o s
  | .tbwalk o => Sys2Proof.Machine.execTbwalk o s
  | .xexp o => Sys2Proof.Machine.execXexp o s
  | .xcmp o => Sys2Proof.Machine.execXcmp o s
  | .xquant o => Sys2Proof.Machine.execXquant o s
  | .xconv o => Sys2Proof.Machine.execXconv o s
  | .xpoll o => Sys2Proof.Machine.execXpoll o s
  | .ld o => Sys2Proof.Machine.execLd o s
  | .st o => Sys2Proof.Machine.execSt o s
  | .ldc o => Sys2Proof.Machine.execLdc o s
  | .stc o => Sys2Proof.Machine.execStc o s
  | .vld o => Sys2Proof.Machine.execVld o s
  | .vst o => Sys2Proof.Machine.execVst o s
  | .vldg o => Sys2Proof.Machine.execVldg o s
  | .vsts o => Sys2Proof.Machine.execVsts o s
  | .ldfe o => Sys2Proof.Machine.execLdfe o s
  | .stfe o => Sys2Proof.Machine.execStfe o s
  | .pref o => Sys2Proof.Machine.execPref o s
  | .cpy o => Sys2Proof.Machine.execCpy o s
  | .cpyq o => Sys2Proof.Machine.execCpyq o s
  | .fence o => Sys2Proof.Machine.execFence o s
  | .lflush o => Sys2Proof.Machine.execLflush o s
  | .linv o => Sys2Proof.Machine.execLinv o s
  | .ldm o => Sys2Proof.Machine.execLdm o s
  | .mig o => Sys2Proof.Machine.execMig o s
  | .home o => Sys2Proof.Machine.execHome o s
  | .amoadd o => Sys2Proof.Machine.execAmoadd o s
  | .amomin o => Sys2Proof.Machine.execAmomin o s
  | .amomax o => Sys2Proof.Machine.execAmomax o s
  | .amoand o => Sys2Proof.Machine.execAmoand o s
  | .amoor o => Sys2Proof.Machine.execAmoor o s
  | .amoxor o => Sys2Proof.Machine.execAmoxor o s
  | .amoswp o => Sys2Proof.Machine.execAmoswp o s
  | .amocas o => Sys2Proof.Machine.execAmocas o s
  | .amofadd o => Sys2Proof.Machine.execAmofadd o s
  | .redadd o => Sys2Proof.Machine.execRedadd o s
  | .redmin o => Sys2Proof.Machine.execRedmin o s
  | .redmax o => Sys2Proof.Machine.execRedmax o s
  | .redfadd o => Sys2Proof.Machine.execRedfadd o s
  | .mon o => Sys2Proof.Machine.execMon o s
  | .unmon o => Sys2Proof.Machine.execUnmon o s
  | .park o => Sys2Proof.Machine.execPark o s
  | .smset o => Sys2Proof.Machine.execSmset o s
  | .smrd o => Sys2Proof.Machine.execSmrd o s
  | .smadd o => Sys2Proof.Machine.execSmadd o s
  | .bar o => Sys2Proof.Machine.execBar o s
  | .barmx o => Sys2Proof.Machine.execBarmx o s
  | .br o => Sys2Proof.Machine.execBr o s
  | .jmp o => Sys2Proof.Machine.execJmp o s
  | .call o => Sys2Proof.Machine.execCall o s
  | .ret o => Sys2Proof.Machine.execRet o s
  | .loop o => Sys2Proof.Machine.execLoop o s
  | .nop o => Sys2Proof.Machine.execNop o s
  | .spawn o => Sys2Proof.Machine.execSpawn o s
  | .yield o => Sys2Proof.Machine.execYield o s
  | .awaitSm o => Sys2Proof.Machine.execAwaitSm o s
  | .awaitFull o => Sys2Proof.Machine.execAwaitFull o s
  | .awaitEmpty o => Sys2Proof.Machine.execAwaitEmpty o s
  | .exit o => Sys2Proof.Machine.execExit o s
  | .callat o => Sys2Proof.Machine.execCallat o s
  | .callatW o => Sys2Proof.Machine.execCallatW o s
  | .reply o => Sys2Proof.Machine.execReply o s
  | .tjoin o => Sys2Proof.Machine.execTjoin o s
  | .tleave o => Sys2Proof.Machine.execTleave o s
  | .tqry o => Sys2Proof.Machine.execTqry o s
  | .prio o => Sys2Proof.Machine.execPrio o s
  | .rclk o => Sys2Proof.Machine.execRclk o s
  | .rcadv o => Sys2Proof.Machine.execRcadv o s
  | .cgeta o => Sys2Proof.Machine.execCgeta o s
  | .cgetb o => Sys2Proof.Machine.execCgetb o s
  | .cgetl o => Sys2Proof.Machine.execCgetl o s
  | .cgetp o => Sys2Proof.Machine.execCgetp o s
  | .ctag o => Sys2Proof.Machine.execCtag o s
  | .cseta o => Sys2Proof.Machine.execCseta o s
  | .cinc o => Sys2Proof.Machine.execCinc o s
  | .cbnd o => Sys2Proof.Machine.execCbnd o s
  | .cbnde o => Sys2Proof.Machine.execCbnde o s
  | .cperm o => Sys2Proof.Machine.execCperm o s
  | .cseal o => Sys2Proof.Machine.execCseal o s
  | .cunseal o => Sys2Proof.Machine.execCunseal o s
  | .cclr o => Sys2Proof.Machine.execCclr o s
  | .csub o => Sys2Proof.Machine.execCsub o s
  | .cmov o => Sys2Proof.Machine.execCmov o s
  | .crvkMark o => Sys2Proof.Machine.execCrvkMark o s
  | .crvkClear o => Sys2Proof.Machine.execCrvkClear o s
  | .cswpStart o => Sys2Proof.Machine.execCswpStart o s
  | .cswpAck o => Sys2Proof.Machine.execCswpAck o s
  | .trap o => Sys2Proof.Machine.execTrap o s
  | .ebrk o => Sys2Proof.Machine.execEbrk o s
  | .gsr o => Sys2Proof.Machine.execGsr o s
  | .ssr o => Sys2Proof.Machine.execSsr o s
  | .frec0Rearm o => Sys2Proof.Machine.execFrec0Rearm o s
  | .trqstClear o => Sys2Proof.Machine.execTrqstClear o s
  | .bmodeWrite o => Sys2Proof.Machine.execBmodeWrite o s
  | .trq o => Sys2Proof.Machine.execTrq o s
  | .wfs o => Sys2Proof.Machine.execWfs o s
  | .sretRetry o => Sys2Proof.Machine.execSretRetry o s
  | .sretSkip o => Sys2Proof.Machine.execSretSkip o s
  | .sretPc o => Sys2Proof.Machine.execSretPc o s
  | .sretWake o => Sys2Proof.Machine.execSretWake o s
  | .rdpk o => Sys2Proof.Machine.execRdpk o s
  | .wrpk o => Sys2Proof.Machine.execWrpk o s
  | .suspk o => Sys2Proof.Machine.execSuspk o s
  | .suspkQ o => Sys2Proof.Machine.execSuspkQ o s
  | .hint o => Sys2Proof.Machine.execHint o s
  | .streamRowFetch => Sys2Proof.Machine.execStreamRowFetch s
  | .streamRowPerform => Sys2Proof.Machine.execStreamRowPerform s
  | .repetitionPass => Sys2Proof.Machine.execRepetitionPass s
  | .latchDataArrival => Sys2Proof.Machine.execLatchDataArrival s
  | .drainRowWrite => Sys2Proof.Machine.execDrainRowWrite s
  | .latchReload => Sys2Proof.Machine.execLatchReload s
  | .wtileComplete => Sys2Proof.Machine.execWtileComplete s
  | .transformRequestExecute => Sys2Proof.Machine.execTransformRequestExecute s
  | .transformReservedEntry => Sys2Proof.Machine.execTransformReservedEntry s
  | .fullEmptyServe => Sys2Proof.Machine.execFullEmptyServe s
  | .fifoServe => Sys2Proof.Machine.execFifoServe s
  | .quayCoreArrival => Sys2Proof.Machine.execQuayCoreArrival s
  | .copyChunk => Sys2Proof.Machine.execCopyChunk s
  | .remoteUpdate => Sys2Proof.Machine.execRemoteUpdate s
  | .parkWake => Sys2Proof.Machine.execParkWake s
  | .parkTimeout => Sys2Proof.Machine.execParkTimeout s
  | .waitsemGrant => Sys2Proof.Machine.execWaitsemGrant s
  | .barrierWaitReturn => Sys2Proof.Machine.execBarrierWaitReturn s
  | .awaitConditionHolds => Sys2Proof.Machine.execAwaitConditionHolds s
  | .replyGranuleWrite => Sys2Proof.Machine.execReplyGranuleWrite s
  | .sweepMemory => Sys2Proof.Machine.execSweepMemory s
  | .sweepComplete => Sys2Proof.Machine.execSweepComplete s
  | .exportImage => Sys2Proof.Machine.execExportImage s
  | .importImage => Sys2Proof.Machine.execImportImage s
  | .migrationImport => Sys2Proof.Machine.execMigrationImport s
  | .exportImportComplete => Sys2Proof.Machine.execExportImportComplete s
  | .wfsTimeout => Sys2Proof.Machine.execWfsTimeout s
  | .hintYieldEnd => Sys2Proof.Machine.execHintYieldEnd s
  | .trapRecordEnqueue => Sys2Proof.Machine.execTrapRecordEnqueue s
  | .wtmo => Sys2Proof.Machine.execWtmo s
  | .slice => Sys2Proof.Machine.execSlice s
  | .enqueueApertureWrite => Sys2Proof.Machine.execEnqueueApertureWrite s
  | .bind => Sys2Proof.Machine.execBind s
  | .stand => Sys2Proof.Machine.execStand s
  | .preempt => Sys2Proof.Machine.execPreempt s
  | .restoreUnitTake => Sys2Proof.Machine.execRestoreUnitTake s
  | .poolGrant => Sys2Proof.Machine.execPoolGrant s
  | .localRefill => Sys2Proof.Machine.execLocalRefill s
  | .cmqPromote => Sys2Proof.Machine.execCmqPromote s
  | .heldMessageDelivery => Sys2Proof.Machine.execHeldMessageDelivery s
  | .budgetCharge => Sys2Proof.Machine.execBudgetCharge s
  | .towSwap => Sys2Proof.Machine.execTowSwap s
  | .towReturn => Sys2Proof.Machine.execTowReturn s
  | .launchCompletion => Sys2Proof.Machine.execLaunchCompletion s
  | .coalescingWindowEnd => Sys2Proof.Machine.execCoalescingWindowEnd s
  | .towDescriptorActionHeld => Sys2Proof.Machine.execTowDescriptorActionHeld s
  | .pageRequestMapped => Sys2Proof.Machine.execPageRequestMapped s
  | .pageRequestRefusal => Sys2Proof.Machine.execPageRequestRefusal s
  | .sideLogAdmit => Sys2Proof.Machine.execSideLogAdmit s
  | .dupInvalidationAck => Sys2Proof.Machine.execDupInvalidationAck s
  | .translationInvalidate => Sys2Proof.Machine.execTranslationInvalidate s
  | .hostBar2Read => Sys2Proof.Machine.execHostBar2Read s
  | .hostBar2Write => Sys2Proof.Machine.execHostBar2Write s
  | .counterGroupRead => Sys2Proof.Machine.execCounterGroupRead s
  | .psemTake => Sys2Proof.Machine.execPsemTake s
  | .psemRelease => Sys2Proof.Machine.execPsemRelease s
  | .attest => Sys2Proof.Machine.execAttest s
  | .towResume => Sys2Proof.Machine.execTowResume s
  | .towDiscard => Sys2Proof.Machine.execTowDiscard s
  | .uitSet => Sys2Proof.Machine.execUitSet s
  | .cwinSet => Sys2Proof.Machine.execCwinSet s
  | .cwinArm => Sys2Proof.Machine.execCwinArm s
  | .worldCreate => Sys2Proof.Machine.execWorldCreate s
  | .worldDestroy => Sys2Proof.Machine.execWorldDestroy s
  | .migExport => Sys2Proof.Machine.execMigExport s
  | .migImport => Sys2Proof.Machine.execMigImport s
  | .fwUpdate => Sys2Proof.Machine.execFwUpdate s
  | .routeSet => Sys2Proof.Machine.execRouteSet s
  | .xwinSet => Sys2Proof.Machine.execXwinSet s
  | .importSet => Sys2Proof.Machine.execImportSet s
  | .mailboxCompletion => Sys2Proof.Machine.execMailboxCompletion s
  | .mgmtRegisterWrite => Sys2Proof.Machine.execMgmtRegisterWrite s
  | .cwinTimeout => Sys2Proof.Machine.execCwinTimeout s
  | .peerAccessArrival => Sys2Proof.Machine.execPeerAccessArrival s
  | .peerResponse => Sys2Proof.Machine.execPeerResponse s
  | .ptmo => Sys2Proof.Machine.execPtmo s
  | .fabricFailover => Sys2Proof.Machine.execFabricFailover s
  | .cxlLinkDown => Sys2Proof.Machine.execCxlLinkDown s
  | .hotReset => Sys2Proof.Machine.execHotReset s
  | .hostSessionEstablished => Sys2Proof.Machine.execHostSessionEstablished s
  | .coldReset => Sys2Proof.Machine.execColdReset s
  | .warmReset => Sys2Proof.Machine.execWarmReset s
  | .functionLevelReset => Sys2Proof.Machine.execFunctionLevelReset s
  | .supervisorStart => Sys2Proof.Machine.execSupervisorStart s
  | .throttleStep => Sys2Proof.Machine.execThrottleStep s
  | .thermalTrip => Sys2Proof.Machine.execThermalTrip s
  | .supplyDroop => Sys2Proof.Machine.execSupplyDroop s
  | .vrefRecalibration => Sys2Proof.Machine.execVrefRecalibration s
  | .patrolScrub => Sys2Proof.Machine.execPatrolScrub s
  | .accumulatorComplete => Sys2Proof.Machine.execAccumulatorComplete s
  | .bankModeSwitchComplete => Sys2Proof.Machine.execBankModeSwitchComplete s
  | .storePerformed => Sys2Proof.Machine.execStorePerformed s
  | .invalidationApplied => Sys2Proof.Machine.execInvalidationApplied s
  | .debuggerHalt => Sys2Proof.Machine.execDebuggerHalt s
  | .debuggerResume => Sys2Proof.Machine.execDebuggerResume s
  | .fabricLinkUp => Sys2Proof.Machine.execFabricLinkUp s
  | .cxlLinkUp => Sys2Proof.Machine.execCxlLinkUp s
  | .functionLevelResetComplete => Sys2Proof.Machine.execFunctionLevelResetComplete s
  | .counterTableRescan => Sys2Proof.Machine.execCounterTableRescan s

end Sys2Proof.Machine
end

