-- ==== Sys2Proof/Machine/Step.lean ====
section
/-!
DEFINITION. One step: the oldest act that has arrived is performed, or else the slot whose turn it is issues one
instruction.
-/

namespace Sys2Proof.Machine

/-- One step of the machine. DESIGN CHOICE, unsafe: log 3. -/
def step (s : State) : Host.Outcome State Fault Refusal :=
  match nextTurn s with
  | .error s' => .next s'
  | .ok (i, s') => settled (exec i s')

/-- The state with an instruction placed where the next step fetches. -/
def State.withFetchWord (s : State) (nbits w : Nat) : State := s.placeWord nbits w

end Sys2Proof.Machine
end

