-- ==== Sys2Proof/Safety.lean ====
section
/-!
DEFINITION. The terms in which claims about a run are stated: how an instruction that has had its effect ends (R28, R31,
R32, R44), the operands it reads and the results it leaves, and what a safe state is.
-/

namespace Sys2Proof.Machine

/-! ### How an instruction ends -/

/-- The instruction has had its effect, state `t`: it retires, the pc moves past it, and its SIG is posted (R28, R31, R32). -/
def ended (h : Hdr) (t : State) : State := (t.retired.advance).signal h
/-- An instruction that has set the pc itself (R44). -/
def jumped (h : Hdr) (t : State) : State := t.retired.signal h
/-- An instruction whose SIG has gone with its work to an engine (R32). -/
def handed (t : State) : State := t.retired.advance

/-! ### Words written out -/

/-- No guard and no SIG; no WAIT; MOD zero, or TYPE, RM and SUB alone. -/
def noHdr : Hdr := ⟨0, 0, 0, 0⟩
def noWait : WaitF := ⟨0, 0⟩
def md0 : ModF := ⟨0, 0, 0, 0, 0, 0, 0⟩
def mdTy (ty : BitVec 4) : ModF := { md0 with ty := ty }
def mdSub (sub : BitVec 4) : ModF := { md0 with sub := sub }
/-- A word from its three parts, the one at the lowest address first (R27). -/
def word3 (w0 w1 w2 : BitVec 32) : BitVec 96 := w2 ++ w1 ++ w0

/-! ### A turn of a slot (R31) -/

/-- No act has arrived, slot `n` has the turn, nothing waits for its instruction boundary, and the twelve bytes at its pc pass
the checks of the fetch and of a fresh fibre, or have passed them before: `bs`, in state `w`. -/
structure Fetches (s : State) (n : SlotId) (bs : List Byte) (w : State) : Prop where
  idle : s.agenda = []
  turn : s.nextSlot = some n
  quiet : boundaryFail (s.onTurn n) = none
  fetched : ∃ v, fetchOnce (s.onTurn n) = .ok (bs, v) ∧ w = v.holding bs
  started : startFail w = none
/-- Those bytes are instruction `i`, with the opcode and the fields `opc` and `b`, which the slot may issue and the main port takes
now (R48, R112), with no WSEC that waits for it to come home (R373), and no access of it held behind a SIG or an sc store (R234). -/
structure Comes (s : State) (n : SlotId) (i : Instr) (opc : Nat) (b : Body) (w : State) : Prop where
  fetches : ∃ bs, Fetches s n bs w ∧ decodeBytes bs = .ok i
  parts : i.parts = some (opc, b)
  allowed : privileged opc b = false ∨ w.cur = 15
  port : w.sl.rep = none ∨ goesOn opc = true
  home : w.sl.begun = true ∨ arrivedHome w (issuesAt opc b w) = none
  free : accesses opc = false ∨ w.heldBack = false
/-- No register that the guards, the semaphores or the operands of an instruction need is bad (R380), and the semaphores it names
lie in its window (R228). -/
structure Admitted (i : Instr) (opc : Nat) (b : Body) (y : State) : Prop where
  guards : y.sl.guardBad (bodyHdr b) = none
  window : semOut y.sl (semNames opc b) = none
  sems : y.semFail (semReads opc b) = none
  operands : y.readsBad i = none

/-! ### The integer group (R73) -/

/-- The integer that TYPE reads in a word. -/
def srcInt (m : ModF) (v : Word) : Int := (IntTy.ofCode m.ty).rd v.toNat
/-- The low bits of a word that TYPE selects. -/
def srcPat (m : ModF) (v : Word) : Nat := v.toNat % 2 ^ (IntTy.ofCode m.ty).w
/-- The width that TYPE gives. -/
def tyWidth (m : ModF) : Nat := (IntTy.ofCode m.ty).w
/-- An exact result, reduced under SAT and extended by TYPE. -/
def intResult (m : ModF) (v : Int) : Word := (IntTy.ofCode m.ty).ext ((IntTy.ofCode m.ty).reduce (m.sat == 1) v)
/-- A bit pattern extended by TYPE. -/
def patResult (m : ModF) (c : Nat) : Word := (IntTy.ofCode m.ty).ext c

/-! ### Floats (R68, R69) -/

/-- Flags have been ORed into FSTAT. -/
def flagged (s : State) (fl : Flags) : State := s.modCur fun sl => { sl with fstat := sl.fstat ||| fl.setWidth 64 }
/-- None of the flags is enabled in FMODE.FTE. -/
def masked (s : State) (fl : Flags) : Prop := fl &&& s.sl.fmode.extractLsb' 0 5 = 0
/-- The format of a scalar float operation, and the code it reads in a register. -/
def flFmt (m : ModF) : Fmt := Fmt.ofCode m.ty 0
def flSrc (m : ModF) (v : Word) : Nat := flCode (flFmt m) v
/-- What a scalar float operation runs under. -/
def flEnv (s : State) (m : ModF) : FpEnv := s.sl.fpEnv m
/-- A scalar float operation with result `r` has ended: x(OD) and FSTAT (R84, R68). -/
def floatEnded (o : ROp) (s : State) (r : Nat × Flags) : State :=
  ended o.hdr ((flagged s r.2).wx o.od (BitVec.ofNat 64 r.1))

/-! ### Vectors (R91, R93, R103) -/

/-- The sources of a vector instruction have the values `vs`, a stream's next row included, and its destination can take a
row. -/
def vecSources (s : State) (d : BitVec 6) (srcs : List (BitVec 6)) (vs : List Line) : Prop :=
  srcs.mapM (readV s) = .ok vs ∧ destReady s d = .ok ()
/-- A vector instruction with the result `res` has ended: flags, rows popped, the destination written or its row pushed. -/
def vecEnded (h : Hdr) (s : State) (d : BitVec 6) (srcs : List (BitVec 6)) (res : VRes) : State :=
  ended h (writeV (popPorts (flagged s res.flags) srcs []) d res)
/-- A vector instruction with sources `srcs` and the result `res`: it ends, or takes FPE when a raised flag is enabled (R68,
R69, R93). -/
def vecRuns (i : Instr) (h : Hdr) (s : State) (d : BitVec 6) (srcs : List (BitVec 6)) (res : VRes) : Prop :=
  (masked s res.flags → exec i s = .next (vecEnded h s d srcs res)) ∧
  (¬ masked s res.flags → exec i s = .next (s.takeTrap ⟨cFPE, res.flags.toNat, 0⟩))
/-- Lane `i` of the `j`th source, in lanes of TYPE's width. -/
def laneIn (m : ModF) (vs : List Line) (j i : Nat) : Nat := lane (laneBits m.ty) (nth vs j) i
/-- One lane effect under KM and ZM. -/
def laneMap (s : State) (m : ModF) (f : Nat → Nat × Flags) : VRes := vMap (laneBits m.ty) (kmOf s.sl m) (zmOf m) f

/-- A started read port that is sound has the row `v` next, and `rest` behind it (R103, R106). -/
structure Gives (p : Port) (v : Line) (rest : List Row) : Prop where
  started : p.started = true
  sound : p.cap.tag = true ∧ p.failed = none
  reads : p.write = false
  left : p.next < p.total
  row : ∃ wr, p.rows = .ok v wr :: rest

/-- The vector instructions in the R form that read v registers, each with the registers it reads. -/
def vecSourced (o : ROp) : List (Instr × List (BitVec 6)) :=
  ([.vabs o, .vneg o, .vmov o, .vcvt o, .vscl o, .vext o, .vrcp o, .vrsq o, .vsqrt o, .vexp2 o, .vlog2 o, .vsin o, .vcos o, .vtanh o,
      .vsigm o, .vredsum o, .vredmax o, .vredmin o, .vscan o, .vunpack o].map fun i => (i, [o.oa])) ++
  ([.vadd o, .vsub o, .vmul o, .vmin o, .vmax o, .vand o, .vor o, .vxor o, .vshl (.r o), .vshr (.r o), .vcmp o, .vsel o, .vexpd o,
      .vperm o, .vpack o].map fun i => (i, [o.oa, o.ob])) ++
  ([.vfma o, .vfms o, .vclamp o, .vdot o, .vshuf o].map fun i => (i, [o.oa, o.ob, o.oc]))

/-! ### The matrix unit (R117) -/

/-- The slot holds the unit, which has nothing to reload, in one of some kinds. -/
def holdsMat (s : State) (kinds : List Nat) : Prop :=
  s.mat.holder = some s.cur ∧ s.mat.reload = false ∧ s.mat.kind.toNat ∈ kinds ∧ s.mat.busy.any (·.resumed) = false

/-- The whole of a product from its first group on (R124, R125): the accumulator with every group added and the cells that
are hidden at minus infinity, and the flags. -/
def Matrix.product (m : Matrix) (tcx : Bool) (p : Stopped) : Matrix :=
  let r := m.groups tcx p.sat p.sub p.apart (m.bCols p.sub) m.acc[p.acc.toNat] 0 0 (m.total p.sub)
  { m with
    acc := m.acc.set p.acc.toNat (m.maskCells p.sub p.apart r.1), flags := m.flags ||| r.2, busy := none }

/-! ### Safe states -/

/-- What holds of every state that a run reaches: memory has its canonical form, and the trap queue holds at most 16 records
(R359). -/
def State.safe (s : State) : Prop := Memory.wf s ∧ s.trapQ.length ≤ 16

/-! ### What an instruction leaves alone -/

/-- Every register of a slot is the same. -/
structure SameRegs (a b : Slot) : Prop where
  x : ∀ r, a.rx r = b.rx r
  c : ∀ r, a.rc r = b.rc r
  k : ∀ r, a.rk r = b.rk r
  v : ∀ r, a.rv r = b.rv r
  p : ∀ r, a.rp r = b.rp r

/-- A register of a slot, by its file and number. -/
inductive Reg where
  | x (r : BitVec 6)
  | c (r : BitVec 6)
  | k (r : BitVec 6)
  | v (r : BitVec 6)
  | p (r : BitVec 6)
deriving DecidableEq, Repr

/-- Every register but some is the same: a number names the register that its low bits give in its file (R43). -/
structure SameRegsBut (ds : List Reg) (a b : Slot) : Prop where
  x : ∀ r, (∀ d, Reg.x d ∈ ds → ridx 32 d ≠ ridx 32 r) → a.rx r = b.rx r
  c : ∀ r, (∀ d, Reg.c d ∈ ds → ridx 32 d ≠ ridx 32 r) → a.rc r = b.rc r
  k : ∀ r, (∀ d, Reg.k d ∈ ds → ridx 8 d ≠ ridx 8 r) → a.rk r = b.rk r
  v : ∀ r, Reg.v r ∉ ds → a.rv r = b.rv r
  p : ∀ r, (∀ d, Reg.p d ∈ ds → d.toNat % 8 ≠ r % 8) → a.rp r = b.rp r

/-- The special registers of a slot are the same, but for FSTAT, the stream ports and the monitors. -/
structure SameSpecials (a b : Slot) : Prop where
  fmode : a.fmode = b.fmode
  cmwin : a.cmwin = b.cmwin
  smwin : a.smwin = b.smwin
  savecap : a.savecap = b.savecap
  tjn : a.tjn = b.tjn
  tslice : a.tslice = b.tslice
  wlim : a.wlim = b.wlim
  tow : a.tow = b.tow
  world : a.world = b.world

/-- The monitors of a slot watch the same lines: a write may have triggered them (R226). -/
def SameWatch (a b : Slot) : Prop :=
  ∀ i : Fin 4, a.mons[i].armed = b.mons[i].armed ∧ a.mons[i].loc = b.mons[i].loc ∧ a.mons[i].line = b.mons[i].line

/-- What the core and the module hold besides memory and the slots is the same: the matrix unit, the wavefront array, the FIFO
banks, the bank modes, the supervisor's entry, the worlds' registers and the await table. -/
structure SameUnits (s t : State) : Prop where
  cur : t.cur = s.cur
  mat : t.mat = s.mat
  wave : t.wave = s.wave
  fifos : t.fifos = s.fifos
  bmode : t.bmode = s.bmode
  svec : t.svec = s.svec
  ctcx : t.ctcx = s.ctcx
  worlds : t.worlds = s.worlds
  await : t.await = s.await

/-- Every byte of memory, and every T and F bit, is the same. -/
structure SameMemory (s t : State) : Prop where
  mem : ∀ a, t.byte a = s.byte a
  tags : ∀ a, t.tagAt a = s.tagAt a
  full : ∀ a, t.fullAt a = s.fullAt a

/-- The semaphores but the one that SIG names, and the exception registers unless the SIG traps, are the same; a SIG that traps
gives back the units that a waiting repetition block has taken (R113). -/
structure SameTraps (h : Hdr) (s t : State) : Prop where
  sems : ∀ m, m ≠ h.sigSm → (∀ n, s.sl.rep.bind (·.taken) ≠ some (m, n)) → t.semVal m = s.semVal m
  sem : h.sigInc = 0 → t.sem = s.sem
  trapQ : h.sigInc = 0 → t.trapQ = s.trapQ
  frec : h.sigInc = 0 → t.frec = s.frec
  hold : h.sigInc = 0 → t.hold = s.hold

/-- The memory keys that a store of `bs` to pieces writes: the bytes stored; and where a store of 0 opens a collective window
again (R399), the first twenty bytes of the window. -/
def storeSpans (s : State) : List Piece → List Byte → List (Nat × Nat)
  | [], _ => []
  | p :: ps, bs =>
    (match p.place with
      | .at key _ => [(key, if (s.cwinArms s.world key p.va (bs.take p.len)).isSome then 20 else (bs.take p.len).length)]
      | .host port iova => [(hostKey port iova, (bs.take p.len).length)]
      | _ => []) ++ storeSpans s ps (bs.drop p.len)
/-- The spans of a store of `bs` through a capability at an address: none where its translation fails. -/
def spansOf (s : State) (c : Cap) (ea : Nat) (need : Need) (bs : List Byte) : List (Nat × Nat) :=
  match placed s c ea bs.length need with
  | .ok ps => storeSpans s ps bs
  | .error _ => []
/-- The state in which the fibre stands where an access to an address takes it (R250). -/
def travelled (s : State) (c : Cap) (ea : Nat) : State :=
  match travel s c ea false with
  | .ok u => u
  | .error (_, u) => u
/-- A key lies in none of the spans. -/
def outside (sp : List (Nat × Nat)) (a : Nat) : Prop := ∀ p ∈ sp, a < p.1 ∨ p.1 + p.2 ≤ a
/-- The granule of a key is touched by none of the spans. -/
def apart (sp : List (Nat × Nat)) (a : Nat) : Prop :=
  ∀ p ∈ sp, p.2 = 0 ∨ a / 16 < p.1 / 16 ∨ (p.1 + p.2 - 1) / 16 < a / 16

/-- Memory is the same outside some spans, and so are the T bits of the granules that they do not touch and the F bits of all
granules but `gs`; lines and granules in error may have been repaired (R378). -/
structure SameOutside (sp : List (Nat × Nat)) (gs : List Nat) (s t : State) : Prop where
  bytes : ∀ a, a / 128 ∉ s.badLines → a / 16 ∉ s.badGrans → outside sp a → t.byte a = s.byte a
  tags : ∀ a, a / 128 ∉ s.badLines → a / 16 ∉ s.badGrans → apart sp a → t.tagAt a = s.tagAt a
  full : ∀ a, a / 16 ∉ gs → t.fullAt a = s.fullAt a

/-- The spans that the lanes of a scatter store, one after another. -/
def lanesSpans (s : State) (c : Cap) (n v : Nat) (k : StoreAs) : List (Nat × Nat) → List (Nat × Nat)
  | [] => []
  | l :: ls =>
    let bs := leBytes n (v / 2 ^ (8 * n * l.1))
    spansOf s c l.2 { w := true } bs ++ (match storeBytes s c l.2 bs 1 k with
      | .ok t => lanesSpans t c n v k ls
      | .error _ => [])
/-- The lanes that a scatter performs. -/
def scattered (s : State) (o : MOp) : List (Nat × Nat) :=
  match lanesChecked s o pW { w := true } with
  | .ok r => r.1
  | .error _ => []
/-- The spans of areas that are stored one after another: each an address, its bytes and the granules that bear tags. -/
def areaSpans (s : State) (c : Cap) (h : Hint) : List (Nat × List Byte × List Nat) → List (Nat × Nat)
  | [] => []
  | (a, b, tags) :: rest =>
    spansOf s c a { w := true } b ++ (match storeArea s c h a b tags with
      | .ok t => areaSpans t c h rest
      | .error _ => [])
/-- The parts that msave stores: the saved state, the accumulators that its mask names, and the end of the area (R132). -/
def savedAreas (s : State) (o : MOp) : List (Nat × List Byte × List Nat) :=
  let b := matrixBlob 0 1024 s.mat s.wave
  let bytes := blobBytes b 1152
  (mEa s o, bytes.take 1024, blobTags b) ::
    (maskAccs o.od).map (fun i => (mEa s o + 1024 + 4096 * i.val, accBytes s.mat.acc[i], [])) ++
    [(mEa s o + 17408, bytes.drop 1024, [])]

/-- The memory keys that an atomic on `n` bytes of a piece may write: its operand, and the first twenty bytes of a collective
window that counts it (R398). -/
def rmwSpans (s : State) (p : Piece) (n : Nat) : List (Nat × Nat) :=
  match p.place with
  | .at key _ => (key, n) :: (match (if keyIsCl key then none else s.cwinAt s.world p.va).bind fun i => s.cwins[i] with
    | some c => [((s.cwinKey c).getD (key - (p.va - c.va)), 20)]
    | none => [])
  | _ => []
def atomicSpans (s : State) (c : Cap) (ea n : Nat) (need : Need) : List (Nat × Nat) :=
  match placed s c ea n need with
  | .ok ps => ps.flatMap fun p => rmwSpans s p n
  | .error _ => []

/-- The entries of the page table that a release of pages writes, one page after another (R153). -/
def leafSpans (s : State) (w : World) : List Nat → List (Nat × Nat)
  | [] => []
  | va :: vas => (match s.leafAddr w va with
    | some e => [(e, 1)]
    | none => []) ++ leafSpans (s.releasePage w va) w vas

end Sys2Proof.Machine
end

