-- ==== Sys2Proof/Laws/PerInstr.lean ====
section
/-!
SUPPORT. One lemma for each instruction: its opcode and fields build it again.
-/

namespace Sys2Proof.Laws.Parts

/-- The opcode of a well-formed instruction is assigned, and its opcode and fields build it. -/
def Statement (i : Instr) : Prop :=
  match i.parts with
  | none => True
  | some (opc, b) => i.wf = true → opc < 1024 ∧ assignedOpc opc = true ∧ build opc b = some i

/-! Where one opcode has several instructions, a well-formed one has its own SUB or register number. -/

theorem r3_of_first {r : Rows} (h : r.first.isNone = true) : r.r3 = false := by
  cases hr : r.r3 with
  | false => rfl
  | true => simp [Rows.first, hr] at h
theorem r12_of_first {r : Rows} (h : r.first.isNone = true) : r.r12 = false := by
  cases hr : r.r12 with
  | false => rfl
  | true =>
    simp only [Rows.first, hr, if_true] at h
    split_ifs at h <;> cases h
theorem sub_of_row3 {m : ModF} {u : ModUse} (h : m.row3 u = false) : u.subOk = true := by
  simp only [ModF.row3, Bool.or_eq_false_iff, Bool.not_eq_false'] at h
  exact h.1.1.2
theorem sub_of_wf {o : ROp} {u : ModUse} {k : BitVec 4} {r : Rows} (h : r.first.isNone = true) (hr : r.r3 = o.md.row3 u)
    (hu : u.subOk = (o.md.sub == k)) : o.md.sub = k :=
  beq_iff_eq.1 (hu ▸ sub_of_row3 (hr ▸ r3_of_first h))
theorem imm_of_wf {o : IOp} {d a : Fld} {ok : Bool} (h : (sysRows o d a ok).first.isNone = true) : ok = true := by
  have := r12_of_first h
  simpa [sysRows] using this

theorem add (o : RIOp) : Statement (.add o) := by
  cases o <;> exact fun _ => ⟨by decide, by decide, rfl⟩
theorem sub (o : RIOp) : Statement (.sub o) := by
  cases o <;> exact fun _ => ⟨by decide, by decide, rfl⟩
theorem mul (o : RIOp) : Statement (.mul o) := by
  cases o <;> exact fun _ => ⟨by decide, by decide, rfl⟩
theorem mulh (o : ROp) : Statement (.mulh o) := fun _ => ⟨by decide, by decide, rfl⟩
theorem mad (o : ROp) : Statement (.mad o) := fun _ => ⟨by decide, by decide, rfl⟩
theorem div (o : ROp) : Statement (.div o) := fun _ => ⟨by decide, by decide, rfl⟩
theorem rem (o : ROp) : Statement (.rem o) := fun _ => ⟨by decide, by decide, rfl⟩
theorem and (o : RIOp) : Statement (.and o) := by
  cases o <;> exact fun _ => ⟨by decide, by decide, rfl⟩
theorem or (o : RIOp) : Statement (.or o) := by
  cases o <;> exact fun _ => ⟨by decide, by decide, rfl⟩
theorem xor (o : RIOp) : Statement (.xor o) := by
  cases o <;> exact fun _ => ⟨by decide, by decide, rfl⟩
theorem andn (o : RIOp) : Statement (.andn o) := by
  cases o <;> exact fun _ => ⟨by decide, by decide, rfl⟩
theorem shl (o : RIOp) : Statement (.shl o) := by
  cases o <;> exact fun _ => ⟨by decide, by decide, rfl⟩
theorem shr (o : RIOp) : Statement (.shr o) := by
  cases o <;> exact fun _ => ⟨by decide, by decide, rfl⟩
theorem sra (o : RIOp) : Statement (.sra o) := by
  cases o <;> exact fun _ => ⟨by decide, by decide, rfl⟩
theorem rotl (o : RIOp) : Statement (.rotl o) := by
  cases o <;> exact fun _ => ⟨by decide, by decide, rfl⟩
theorem min (o : RIOp) : Statement (.min o) := by
  cases o <;> exact fun _ => ⟨by decide, by decide, rfl⟩
theorem max (o : RIOp) : Statement (.max o) := by
  cases o <;> exact fun _ => ⟨by decide, by decide, rfl⟩
theorem abs (o : ROp) : Statement (.abs o) := fun _ => ⟨by decide, by decide, rfl⟩
theorem clz (o : ROp) : Statement (.clz o) := fun _ => ⟨by decide, by decide, rfl⟩
theorem ctz (o : ROp) : Statement (.ctz o) := fun _ => ⟨by decide, by decide, rfl⟩
theorem popc (o : ROp) : Statement (.popc o) := fun _ => ⟨by decide, by decide, rfl⟩
theorem bfx (o : RIOp) : Statement (.bfx o) := by
  cases o <;> exact fun _ => ⟨by decide, by decide, rfl⟩
theorem bfi (o : RIOp) : Statement (.bfi o) := by
  cases o <;> exact fun _ => ⟨by decide, by decide, rfl⟩
theorem shadd (o : RIOp) : Statement (.shadd o) := by
  cases o <;> exact fun _ => ⟨by decide, by decide, rfl⟩
theorem sel (o : ROp) : Statement (.sel o) := fun _ => ⟨by decide, by decide, rfl⟩
theorem mov (o : ROp) : Statement (.mov o) := fun _ => ⟨by decide, by decide, rfl⟩
theorem li (o : IOp) : Statement (.li o) := fun _ => ⟨by decide, by decide, rfl⟩
theorem cvt (o : ROp) : Statement (.cvt o) := fun _ => ⟨by decide, by decide, rfl⟩
theorem cmp (o : RIOp) : Statement (.cmp o) := by
  cases o <;> exact fun _ => ⟨by decide, by decide, rfl⟩
theorem bswap (o : ROp) : Statement (.bswap o) := fun _ => ⟨by decide, by decide, rfl⟩
theorem pand (o : ROp) : Statement (.pand o) := fun _ => ⟨by decide, by decide, rfl⟩
theorem por (o : ROp) : Statement (.por o) := fun _ => ⟨by decide, by decide, rfl⟩
theorem pxor (o : ROp) : Statement (.pxor o) := fun _ => ⟨by decide, by decide, rfl⟩
theorem pnot (o : ROp) : Statement (.pnot o) := fun _ => ⟨by decide, by decide, rfl⟩
theorem pmov (o : ROp) : Statement (.pmov o) := fun _ => ⟨by decide, by decide, rfl⟩
theorem fadd (o : ROp) : Statement (.fadd o) := fun _ => ⟨by decide, by decide, rfl⟩
theorem fsub (o : ROp) : Statement (.fsub o) := fun _ => ⟨by decide, by decide, rfl⟩
theorem fmul (o : ROp) : Statement (.fmul o) := fun _ => ⟨by decide, by decide, rfl⟩
theorem ffma (o : ROp) : Statement (.ffma o) := fun _ => ⟨by decide, by decide, rfl⟩
theorem fdiv (o : ROp) : Statement (.fdiv o) := fun _ => ⟨by decide, by decide, rfl⟩
theorem fsqrt (o : ROp) : Statement (.fsqrt o) := fun _ => ⟨by decide, by decide, rfl⟩
theorem fmin (o : ROp) : Statement (.fmin o) := fun _ => ⟨by decide, by decide, rfl⟩
theorem fmax (o : ROp) : Statement (.fmax o) := fun _ => ⟨by decide, by decide, rfl⟩
theorem fcmp (o : ROp) : Statement (.fcmp o) := fun _ => ⟨by decide, by decide, rfl⟩
theorem fcvt (o : ROp) : Statement (.fcvt o) := fun _ => ⟨by decide, by decide, rfl⟩
theorem fclass (o : ROp) : Statement (.fclass o) := fun _ => ⟨by decide, by decide, rfl⟩
theorem vadd (o : ROp) : Statement (.vadd o) := fun _ => ⟨by decide, by decide, rfl⟩
theorem vsub (o : ROp) : Statement (.vsub o) := fun _ => ⟨by decide, by decide, rfl⟩
theorem vmul (o : ROp) : Statement (.vmul o) := fun _ => ⟨by decide, by decide, rfl⟩
theorem vfma (o : ROp) : Statement (.vfma o) := fun _ => ⟨by decide, by decide, rfl⟩
theorem vfms (o : ROp) : Statement (.vfms o) := fun _ => ⟨by decide, by decide, rfl⟩
theorem vmin (o : ROp) : Statement (.vmin o) := fun _ => ⟨by decide, by decide, rfl⟩
theorem vmax (o : ROp) : Statement (.vmax o) := fun _ => ⟨by decide, by decide, rfl⟩
theorem vabs (o : ROp) : Statement (.vabs o) := fun _ => ⟨by decide, by decide, rfl⟩
theorem vneg (o : ROp) : Statement (.vneg o) := fun _ => ⟨by decide, by decide, rfl⟩
theorem vand (o : ROp) : Statement (.vand o) := fun _ => ⟨by decide, by decide, rfl⟩
theorem vor (o : ROp) : Statement (.vor o) := fun _ => ⟨by decide, by decide, rfl⟩
theorem vxor (o : ROp) : Statement (.vxor o) := fun _ => ⟨by decide, by decide, rfl⟩
theorem vshl (o : RIOp) : Statement (.vshl o) := by
  cases o <;> exact fun _ => ⟨by decide, by decide, rfl⟩
theorem vshr (o : RIOp) : Statement (.vshr o) := by
  cases o <;> exact fun _ => ⟨by decide, by decide, rfl⟩
theorem vcmp (o : ROp) : Statement (.vcmp o) := fun _ => ⟨by decide, by decide, rfl⟩
theorem vsel (o : ROp) : Statement (.vsel o) := fun _ => ⟨by decide, by decide, rfl⟩
theorem vcvt (o : ROp) : Statement (.vcvt o) := fun _ => ⟨by decide, by decide, rfl⟩
theorem vdot (o : ROp) : Statement (.vdot o) := fun _ => ⟨by decide, by decide, rfl⟩
theorem vscl (o : ROp) : Statement (.vscl o) := fun _ => ⟨by decide, by decide, rfl⟩
theorem vmov (o : ROp) : Statement (.vmov o) := fun _ => ⟨by decide, by decide, rfl⟩
theorem vbcast (o : RIOp) : Statement (.vbcast o) := by
  cases o <;> exact fun _ => ⟨by decide, by decide, rfl⟩
theorem vins (o : ROp) : Statement (.vins o) := fun _ => ⟨by decide, by decide, rfl⟩
theorem vext (o : ROp) : Statement (.vext o) := fun _ => ⟨by decide, by decide, rfl⟩
theorem vclamp (o : ROp) : Statement (.vclamp o) := fun _ => ⟨by decide, by decide, rfl⟩
theorem kand (o : ROp) : Statement (.kand o) := fun _ => ⟨by decide, by decide, rfl⟩
theorem kor (o : ROp) : Statement (.kor o) := fun _ => ⟨by decide, by decide, rfl⟩
theorem kxor (o : ROp) : Statement (.kxor o) := fun _ => ⟨by decide, by decide, rfl⟩
theorem knot (o : ROp) : Statement (.knot o) := fun _ => ⟨by decide, by decide, rfl⟩
theorem kpop (o : ROp) : Statement (.kpop o) := fun _ => ⟨by decide, by decide, rfl⟩
theorem kfirst (o : ROp) : Statement (.kfirst o) := fun _ => ⟨by decide, by decide, rfl⟩
theorem kset (o : RIOp) : Statement (.kset o) := by
  cases o <;> exact fun _ => ⟨by decide, by decide, rfl⟩
theorem kmov (o : ROp) : Statement (.kmov o) := fun _ => ⟨by decide, by decide, rfl⟩
theorem vrcp (o : ROp) : Statement (.vrcp o) := fun _ => ⟨by decide, by decide, rfl⟩
theorem vrsq (o : ROp) : Statement (.vrsq o) := fun _ => ⟨by decide, by decide, rfl⟩
theorem vsqrt (o : ROp) : Statement (.vsqrt o) := fun _ => ⟨by decide, by decide, rfl⟩
theorem vexp2 (o : ROp) : Statement (.vexp2 o) := fun _ => ⟨by decide, by decide, rfl⟩
theorem vlog2 (o : ROp) : Statement (.vlog2 o) := fun _ => ⟨by decide, by decide, rfl⟩
theorem vsin (o : ROp) : Statement (.vsin o) := fun _ => ⟨by decide, by decide, rfl⟩
theorem vcos (o : ROp) : Statement (.vcos o) := fun _ => ⟨by decide, by decide, rfl⟩
theorem vtanh (o : ROp) : Statement (.vtanh o) := fun _ => ⟨by decide, by decide, rfl⟩
theorem vsigm (o : ROp) : Statement (.vsigm o) := fun _ => ⟨by decide, by decide, rfl⟩
theorem vexpd (o : ROp) : Statement (.vexpd o) := fun _ => ⟨by decide, by decide, rfl⟩
theorem vredsum (o : ROp) : Statement (.vredsum o) := fun _ => ⟨by decide, by decide, rfl⟩
theorem vredmax (o : ROp) : Statement (.vredmax o) := fun _ => ⟨by decide, by decide, rfl⟩
theorem vredmin (o : ROp) : Statement (.vredmin o) := fun _ => ⟨by decide, by decide, rfl⟩
theorem vscan (o : ROp) : Statement (.vscan o) := fun _ => ⟨by decide, by decide, rfl⟩
theorem vperm (o : ROp) : Statement (.vperm o) := fun _ => ⟨by decide, by decide, rfl⟩
theorem vshuf (o : ROp) : Statement (.vshuf o) := fun _ => ⟨by decide, by decide, rfl⟩
theorem vpack (o : ROp) : Statement (.vpack o) := fun _ => ⟨by decide, by decide, rfl⟩
theorem vunpack (o : ROp) : Statement (.vunpack o) := fun _ => ⟨by decide, by decide, rfl⟩
theorem sbind (o : ROp) : Statement (.sbind o) := fun _ => ⟨by decide, by decide, rfl⟩
theorem sdim (o : RIOp) : Statement (.sdim o) := by
  cases o <;> exact fun _ => ⟨by decide, by decide, rfl⟩
theorem sstart (o : ROp) : Statement (.sstart o) := fun _ => ⟨by decide, by decide, rfl⟩
theorem sstop (o : ROp) : Statement (.sstop o) := fun _ => ⟨by decide, by decide, rfl⟩
theorem swait (o : ROp) : Statement (.swait o) := fun _ => ⟨by decide, by decide, rfl⟩
theorem frep (o : XOp) : Statement (.frep o) := fun _ => ⟨by decide, by decide, rfl⟩
theorem mcfg (o : ROp) : Statement (.mcfg o) := fun _ => ⟨by decide, by decide, rfl⟩
theorem mzero (o : ROp) : Statement (.mzero o) := fun _ => ⟨by decide, by decide, rfl⟩
theorem mlda (o : MOp) : Statement (.mlda o) := fun _ => ⟨by decide, by decide, rfl⟩
theorem mldb (o : MOp) : Statement (.mldb o) := fun _ => ⟨by decide, by decide, rfl⟩
theorem mscl (o : ROp) : Statement (.mscl o) := fun _ => ⟨by decide, by decide, rfl⟩
theorem mma (o : ROp) : Statement (.mma o) := fun _ => ⟨by decide, by decide, rfl⟩
theorem mmas (o : ROp) : Statement (.mmas o) := fun _ => ⟨by decide, by decide, rfl⟩
theorem mdrain (o : MOp) : Statement (.mdrain o) := fun _ => ⟨by decide, by decide, rfl⟩
theorem mhand (o : ROp) : Statement (.mhand o) := fun _ => ⟨by decide, by decide, rfl⟩
theorem mrowrd (o : ROp) : Statement (.mrowrd o) := fun _ => ⟨by decide, by decide, rfl⟩
theorem mrowwr (o : ROp) : Statement (.mrowwr o) := fun _ => ⟨by decide, by decide, rfl⟩
theorem msave (o : MOp) : Statement (.msave o) := fun _ => ⟨by decide, by decide, rfl⟩
theorem mrest (o : MOp) : Statement (.mrest o) := fun _ => ⟨by decide, by decide, rfl⟩
theorem mstat (o : ROp) : Statement (.mstat o) := fun _ => ⟨by decide, by decide, rfl⟩
theorem fpush (o : ROp) : Statement (.fpush o) := fun _ => ⟨by decide, by decide, rfl⟩
theorem fpop (o : ROp) : Statement (.fpop o) := fun _ => ⟨by decide, by decide, rfl⟩
theorem fdrop (o : ROp) : Statement (.fdrop o) := fun _ => ⟨by decide, by decide, rfl⟩
theorem fenter (o : ROp) : Statement (.fenter o) := fun _ => ⟨by decide, by decide, rfl⟩
theorem farg (o : ROp) : Statement (.farg o) := fun _ => ⟨by decide, by decide, rfl⟩
theorem fkeep (o : ROp) : Statement (.fkeep o) := fun _ => ⟨by decide, by decide, rfl⟩
theorem fseal (o : ROp) : Statement (.fseal o) := fun _ => ⟨by decide, by decide, rfl⟩
theorem fshare (o : ROp) : Statement (.fshare o) := fun _ => ⟨by decide, by decide, rfl⟩
theorem fappend (o : RIOp) : Statement (.fappend o) := by
  cases o <;> exact fun _ => ⟨by decide, by decide, rfl⟩
theorem fwin (o : RIOp) : Statement (.fwin o) := by
  cases o <;> exact fun _ => ⟨by decide, by decide, rfl⟩
theorem fvis (o : ROp) : Statement (.fvis o) := fun _ => ⟨by decide, by decide, rfl⟩
theorem fdesc (o : RIOp) : Statement (.fdesc o) := by
  cases o <;> exact fun _ => ⟨by decide, by decide, rfl⟩
theorem fmask (o : ROp) : Statement (.fmask o) := fun _ => ⟨by decide, by decide, rfl⟩
theorem wcfg (o : RXOp) : Statement (.wcfg o) := by
  cases o <;> exact fun _ => ⟨by decide, by decide, rfl⟩
theorem wband (o : RIOp) : Statement (.wband o) := by
  cases o <;> exact fun _ => ⟨by decide, by decide, rfl⟩
theorem wseq (o : ROp) : Statement (.wseq o) := fun _ => ⟨by decide, by decide, rfl⟩
theorem wtile (o : ROp) : Statement (.wtile o) := fun _ => ⟨by decide, by decide, rfl⟩
theorem wbget (o : MOp) : Statement (.wbget o) := fun _ => ⟨by decide, by decide, rfl⟩
theorem wbput (o : MOp) : Statement (.wbput o) := fun _ => ⟨by decide, by decide, rfl⟩
theorem tbwalk (o : ROp) : Statement (.tbwalk o) := fun _ => ⟨by decide, by decide, rfl⟩
theorem xexp (o : ROp) : Statement (.xexp o) := fun _ => ⟨by decide, by decide, rfl⟩
theorem xcmp (o : ROp) : Statement (.xcmp o) := fun _ => ⟨by decide, by decide, rfl⟩
theorem xquant (o : ROp) : Statement (.xquant o) := fun _ => ⟨by decide, by decide, rfl⟩
theorem xconv (o : ROp) : Statement (.xconv o) := fun _ => ⟨by decide, by decide, rfl⟩
theorem xpoll (o : ROp) : Statement (.xpoll o) := fun _ => ⟨by decide, by decide, rfl⟩
theorem ld (o : MOp) : Statement (.ld o) := fun _ => ⟨by decide, by decide, rfl⟩
theorem st (o : MOp) : Statement (.st o) := fun _ => ⟨by decide, by decide, rfl⟩
theorem ldc (o : MOp) : Statement (.ldc o) := fun _ => ⟨by decide, by decide, rfl⟩
theorem stc (o : MOp) : Statement (.stc o) := fun _ => ⟨by decide, by decide, rfl⟩
theorem vld (o : MOp) : Statement (.vld o) := fun _ => ⟨by decide, by decide, rfl⟩
theorem vst (o : MOp) : Statement (.vst o) := fun _ => ⟨by decide, by decide, rfl⟩
theorem vldg (o : MOp) : Statement (.vldg o) := fun _ => ⟨by decide, by decide, rfl⟩
theorem vsts (o : MOp) : Statement (.vsts o) := fun _ => ⟨by decide, by decide, rfl⟩
theorem ldfe (o : MOp) : Statement (.ldfe o) := fun _ => ⟨by decide, by decide, rfl⟩
theorem stfe (o : MOp) : Statement (.stfe o) := fun _ => ⟨by decide, by decide, rfl⟩
theorem pref (o : MOp) : Statement (.pref o) := fun _ => ⟨by decide, by decide, rfl⟩
theorem cpy (o : ROp) : Statement (.cpy o) := fun _ => ⟨by decide, by decide, rfl⟩
theorem cpyq (o : ROp) : Statement (.cpyq o) := fun _ => ⟨by decide, by decide, rfl⟩
theorem fence (o : ROp) : Statement (.fence o) := fun _ => ⟨by decide, by decide, rfl⟩
theorem lflush (o : MOp) : Statement (.lflush o) := fun _ => ⟨by decide, by decide, rfl⟩
theorem linv (o : MOp) : Statement (.linv o) := fun _ => ⟨by decide, by decide, rfl⟩
theorem ldm (o : MOp) : Statement (.ldm o) := fun _ => ⟨by decide, by decide, rfl⟩
theorem mig (o : MOp) : Statement (.mig o) := fun _ => ⟨by decide, by decide, rfl⟩
theorem home (o : ROp) : Statement (.home o) := fun _ => ⟨by decide, by decide, rfl⟩
theorem amoadd (o : MOp) : Statement (.amoadd o) := fun _ => ⟨by decide, by decide, rfl⟩
theorem amomin (o : MOp) : Statement (.amomin o) := fun _ => ⟨by decide, by decide, rfl⟩
theorem amomax (o : MOp) : Statement (.amomax o) := fun _ => ⟨by decide, by decide, rfl⟩
theorem amoand (o : MOp) : Statement (.amoand o) := fun _ => ⟨by decide, by decide, rfl⟩
theorem amoor (o : MOp) : Statement (.amoor o) := fun _ => ⟨by decide, by decide, rfl⟩
theorem amoxor (o : MOp) : Statement (.amoxor o) := fun _ => ⟨by decide, by decide, rfl⟩
theorem amoswp (o : MOp) : Statement (.amoswp o) := fun _ => ⟨by decide, by decide, rfl⟩
theorem amocas (o : MOp) : Statement (.amocas o) := fun _ => ⟨by decide, by decide, rfl⟩
theorem amofadd (o : MOp) : Statement (.amofadd o) := fun _ => ⟨by decide, by decide, rfl⟩
theorem redadd (o : MOp) : Statement (.redadd o) := fun _ => ⟨by decide, by decide, rfl⟩
theorem redmin (o : MOp) : Statement (.redmin o) := fun _ => ⟨by decide, by decide, rfl⟩
theorem redmax (o : MOp) : Statement (.redmax o) := fun _ => ⟨by decide, by decide, rfl⟩
theorem redfadd (o : MOp) : Statement (.redfadd o) := fun _ => ⟨by decide, by decide, rfl⟩
theorem mon (o : MOp) : Statement (.mon o) := fun _ => ⟨by decide, by decide, rfl⟩
theorem unmon (o : MOp) : Statement (.unmon o) := fun _ => ⟨by decide, by decide, rfl⟩
theorem park (o : ROp) : Statement (.park o) := fun _ => ⟨by decide, by decide, rfl⟩
theorem smset (o : RIOp) : Statement (.smset o) := by
  cases o <;> exact fun _ => ⟨by decide, by decide, rfl⟩
theorem smrd (o : ROp) : Statement (.smrd o) := fun _ => ⟨by decide, by decide, rfl⟩
theorem smadd (o : RIOp) : Statement (.smadd o) := by
  cases o <;> exact fun _ => ⟨by decide, by decide, rfl⟩
theorem bar (o : ROp) : Statement (.bar o) := fun _ => ⟨by decide, by decide, rfl⟩
theorem barmx (o : ROp) : Statement (.barmx o) := fun _ => ⟨by decide, by decide, rfl⟩
theorem br (o : IOp) : Statement (.br o) := fun _ => ⟨by decide, by decide, rfl⟩
theorem jmp (o : ROp) : Statement (.jmp o) := fun _ => ⟨by decide, by decide, rfl⟩
theorem call (o : RIOp) : Statement (.call o) := by
  cases o <;> exact fun _ => ⟨by decide, by decide, rfl⟩
theorem ret (o : ROp) : Statement (.ret o) := fun _ => ⟨by decide, by decide, rfl⟩
theorem loop (o : IOp) : Statement (.loop o) := fun _ => ⟨by decide, by decide, rfl⟩
theorem nop (o : ROp) : Statement (.nop o) := fun _ => ⟨by decide, by decide, rfl⟩
theorem spawn (o : ROp) : Statement (.spawn o) := fun _ => ⟨by decide, by decide, rfl⟩
theorem yield (o : ROp) : Statement (.yield o) := fun _ => ⟨by decide, by decide, rfl⟩
theorem awaitSm (o : ROp) : Statement (.awaitSm o) := fun h => by
  have hs := sub_of_wf (o := o) (k := 0) h rfl rfl
  exact ⟨by decide, by decide, by simp [build, buildFibre, hs]⟩
theorem awaitFull (o : ROp) : Statement (.awaitFull o) := fun h => by
  have hs := sub_of_wf (o := o) (k := 1) h rfl rfl
  exact ⟨by decide, by decide, by simp [build, buildFibre, hs]⟩
theorem awaitEmpty (o : ROp) : Statement (.awaitEmpty o) := fun h => by
  have hs := sub_of_wf (o := o) (k := 2) h rfl rfl
  exact ⟨by decide, by decide, by simp [build, buildFibre, hs]⟩
theorem exit (o : ROp) : Statement (.exit o) := fun _ => ⟨by decide, by decide, rfl⟩
theorem callat (o : ROp) : Statement (.callat o) := fun h => by
  have hs := sub_of_wf (o := o) (k := 0) h rfl rfl
  exact ⟨by decide, by decide, by simp [build, buildFibre, hs]⟩
theorem callatW (o : ROp) : Statement (.callatW o) := fun h => by
  have hs := sub_of_wf (o := o) (k := 1) h rfl rfl
  exact ⟨by decide, by decide, by simp [build, buildFibre, hs]⟩
theorem reply (o : ROp) : Statement (.reply o) := fun _ => ⟨by decide, by decide, rfl⟩
theorem tjoin (o : ROp) : Statement (.tjoin o) := fun _ => ⟨by decide, by decide, rfl⟩
theorem tleave (o : ROp) : Statement (.tleave o) := fun _ => ⟨by decide, by decide, rfl⟩
theorem tqry (o : ROp) : Statement (.tqry o) := fun _ => ⟨by decide, by decide, rfl⟩
theorem prio (o : RIOp) : Statement (.prio o) := by
  cases o <;> exact fun _ => ⟨by decide, by decide, rfl⟩
theorem rclk (o : ROp) : Statement (.rclk o) := fun _ => ⟨by decide, by decide, rfl⟩
theorem rcadv (o : RIOp) : Statement (.rcadv o) := by
  cases o <;> exact fun _ => ⟨by decide, by decide, rfl⟩
theorem cgeta (o : ROp) : Statement (.cgeta o) := fun _ => ⟨by decide, by decide, rfl⟩
theorem cgetb (o : ROp) : Statement (.cgetb o) := fun _ => ⟨by decide, by decide, rfl⟩
theorem cgetl (o : ROp) : Statement (.cgetl o) := fun _ => ⟨by decide, by decide, rfl⟩
theorem cgetp (o : ROp) : Statement (.cgetp o) := fun _ => ⟨by decide, by decide, rfl⟩
theorem ctag (o : ROp) : Statement (.ctag o) := fun _ => ⟨by decide, by decide, rfl⟩
theorem cseta (o : ROp) : Statement (.cseta o) := fun _ => ⟨by decide, by decide, rfl⟩
theorem cinc (o : RIOp) : Statement (.cinc o) := by
  cases o <;> exact fun _ => ⟨by decide, by decide, rfl⟩
theorem cbnd (o : RIOp) : Statement (.cbnd o) := by
  cases o <;> exact fun _ => ⟨by decide, by decide, rfl⟩
theorem cbnde (o : RIOp) : Statement (.cbnde o) := by
  cases o <;> exact fun _ => ⟨by decide, by decide, rfl⟩
theorem cperm (o : RIOp) : Statement (.cperm o) := by
  cases o <;> exact fun _ => ⟨by decide, by decide, rfl⟩
theorem cseal (o : ROp) : Statement (.cseal o) := fun _ => ⟨by decide, by decide, rfl⟩
theorem cunseal (o : ROp) : Statement (.cunseal o) := fun _ => ⟨by decide, by decide, rfl⟩
theorem cclr (o : ROp) : Statement (.cclr o) := fun _ => ⟨by decide, by decide, rfl⟩
theorem csub (o : ROp) : Statement (.csub o) := fun _ => ⟨by decide, by decide, rfl⟩
theorem cmov (o : ROp) : Statement (.cmov o) := fun _ => ⟨by decide, by decide, rfl⟩
theorem crvkMark (o : ROp) : Statement (.crvkMark o) := fun h => by
  have hs := sub_of_wf (o := o) (k := 0) h rfl rfl
  exact ⟨by decide, by decide, by simp [build, buildCap, hs]⟩
theorem crvkClear (o : ROp) : Statement (.crvkClear o) := fun h => by
  have hs := sub_of_wf (o := o) (k := 1) h rfl rfl
  exact ⟨by decide, by decide, by simp [build, buildCap, hs]⟩
theorem cswpStart (o : ROp) : Statement (.cswpStart o) := fun h => by
  have hs := sub_of_wf (o := o) (k := 0) h rfl rfl
  exact ⟨by decide, by decide, by simp [build, buildCap, hs]⟩
theorem cswpAck (o : ROp) : Statement (.cswpAck o) := fun h => by
  have hs := sub_of_wf (o := o) (k := 1) h rfl rfl
  exact ⟨by decide, by decide, by simp [build, buildCap, hs]⟩
theorem trap (o : XOp) : Statement (.trap o) := fun _ => ⟨by decide, by decide, rfl⟩
theorem ebrk (o : XOp) : Statement (.ebrk o) := fun _ => ⟨by decide, by decide, rfl⟩
theorem gsr (o : IOp) : Statement (.gsr o) := fun _ => ⟨by decide, by decide, rfl⟩
theorem ssr (o : IOp) : Statement (.ssr o) := fun h => by
  have hs := imm_of_wf (o := o) h
  simp only [Bool.and_eq_true, bne_iff_ne] at hs
  have h1 : ¬ o.imm = 68#32 := hs.1.1.2
  have h2 : ¬ o.imm = 72#32 := hs.1.2
  have h3 : ¬ o.imm = 129#32 := hs.2
  exact ⟨by decide, by decide, by simp [build, buildSystem, h1, h2, h3]⟩
theorem frec0Rearm (o : IOp) : Statement (.frec0Rearm o) := fun h => by
  have hs : o.imm = 0x044 := by simpa using imm_of_wf (o := o) h
  exact ⟨by decide, by decide, by simp [build, buildSystem, hs]⟩
theorem trqstClear (o : IOp) : Statement (.trqstClear o) := fun h => by
  have hs : o.imm = 0x048 := by simpa using imm_of_wf (o := o) h
  exact ⟨by decide, by decide, by simp [build, buildSystem, hs]⟩
theorem bmodeWrite (o : IOp) : Statement (.bmodeWrite o) := fun h => by
  have hs : o.imm = 0x081 := by simpa using imm_of_wf (o := o) h
  exact ⟨by decide, by decide, by simp [build, buildSystem, hs]⟩
theorem trq (o : ROp) : Statement (.trq o) := fun _ => ⟨by decide, by decide, rfl⟩
theorem wfs (o : ROp) : Statement (.wfs o) := fun _ => ⟨by decide, by decide, rfl⟩
theorem sretRetry (o : ROp) : Statement (.sretRetry o) := fun h => by
  have hs := sub_of_wf (o := o) (k := 0) h rfl rfl
  exact ⟨by decide, by decide, by simp [build, buildSystem, hs]⟩
theorem sretSkip (o : ROp) : Statement (.sretSkip o) := fun h => by
  have hs := sub_of_wf (o := o) (k := 1) h rfl rfl
  exact ⟨by decide, by decide, by simp [build, buildSystem, hs]⟩
theorem sretPc (o : ROp) : Statement (.sretPc o) := fun h => by
  have hs := sub_of_wf (o := o) (k := 2) h rfl rfl
  exact ⟨by decide, by decide, by simp [build, buildSystem, hs]⟩
theorem sretWake (o : ROp) : Statement (.sretWake o) := fun h => by
  have hs := sub_of_wf (o := o) (k := 3) h rfl rfl
  exact ⟨by decide, by decide, by simp [build, buildSystem, hs]⟩
theorem rdpk (o : ROp) : Statement (.rdpk o) := fun _ => ⟨by decide, by decide, rfl⟩
theorem wrpk (o : ROp) : Statement (.wrpk o) := fun _ => ⟨by decide, by decide, rfl⟩
theorem suspk (o : ROp) : Statement (.suspk o) := fun h => by
  have hs := sub_of_wf (o := o) (k := 0) h rfl rfl
  exact ⟨by decide, by decide, by simp [build, buildSystem, hs]⟩
theorem suspkQ (o : ROp) : Statement (.suspkQ o) := fun h => by
  have hs := sub_of_wf (o := o) (k := 1) h rfl rfl
  exact ⟨by decide, by decide, by simp [build, buildSystem, hs]⟩
theorem hint (o : XOp) : Statement (.hint o) := fun _ => ⟨by decide, by decide, rfl⟩
theorem streamRowFetch : Statement .streamRowFetch := trivial
theorem streamRowPerform : Statement .streamRowPerform := trivial
theorem repetitionPass : Statement .repetitionPass := trivial
theorem latchDataArrival : Statement .latchDataArrival := trivial
theorem drainRowWrite : Statement .drainRowWrite := trivial
theorem latchReload : Statement .latchReload := trivial
theorem wtileComplete : Statement .wtileComplete := trivial
theorem transformRequestExecute : Statement .transformRequestExecute := trivial
theorem transformReservedEntry : Statement .transformReservedEntry := trivial
theorem fullEmptyServe : Statement .fullEmptyServe := trivial
theorem fifoServe : Statement .fifoServe := trivial
theorem quayCoreArrival : Statement .quayCoreArrival := trivial
theorem copyChunk : Statement .copyChunk := trivial
theorem remoteUpdate : Statement .remoteUpdate := trivial
theorem parkWake : Statement .parkWake := trivial
theorem parkTimeout : Statement .parkTimeout := trivial
theorem waitsemGrant : Statement .waitsemGrant := trivial
theorem barrierWaitReturn : Statement .barrierWaitReturn := trivial
theorem awaitConditionHolds : Statement .awaitConditionHolds := trivial
theorem replyGranuleWrite : Statement .replyGranuleWrite := trivial
theorem sweepMemory : Statement .sweepMemory := trivial
theorem sweepComplete : Statement .sweepComplete := trivial
theorem exportImage : Statement .exportImage := trivial
theorem importImage : Statement .importImage := trivial
theorem migrationImport : Statement .migrationImport := trivial
theorem exportImportComplete : Statement .exportImportComplete := trivial
theorem wfsTimeout : Statement .wfsTimeout := trivial
theorem hintYieldEnd : Statement .hintYieldEnd := trivial
theorem trapRecordEnqueue : Statement .trapRecordEnqueue := trivial
theorem wtmo : Statement .wtmo := trivial
theorem slice : Statement .slice := trivial
theorem enqueueApertureWrite : Statement .enqueueApertureWrite := trivial
theorem bind : Statement .bind := trivial
theorem stand : Statement .stand := trivial
theorem preempt : Statement .preempt := trivial
theorem restoreUnitTake : Statement .restoreUnitTake := trivial
theorem poolGrant : Statement .poolGrant := trivial
theorem localRefill : Statement .localRefill := trivial
theorem cmqPromote : Statement .cmqPromote := trivial
theorem heldMessageDelivery : Statement .heldMessageDelivery := trivial
theorem budgetCharge : Statement .budgetCharge := trivial
theorem towSwap : Statement .towSwap := trivial
theorem towReturn : Statement .towReturn := trivial
theorem launchCompletion : Statement .launchCompletion := trivial
theorem coalescingWindowEnd : Statement .coalescingWindowEnd := trivial
theorem towDescriptorActionHeld : Statement .towDescriptorActionHeld := trivial
theorem pageRequestMapped : Statement .pageRequestMapped := trivial
theorem pageRequestRefusal : Statement .pageRequestRefusal := trivial
theorem sideLogAdmit : Statement .sideLogAdmit := trivial
theorem dupInvalidationAck : Statement .dupInvalidationAck := trivial
theorem translationInvalidate : Statement .translationInvalidate := trivial
theorem hostBar2Read : Statement .hostBar2Read := trivial
theorem hostBar2Write : Statement .hostBar2Write := trivial
theorem counterGroupRead : Statement .counterGroupRead := trivial
theorem psemTake : Statement .psemTake := trivial
theorem psemRelease : Statement .psemRelease := trivial
theorem attest : Statement .attest := trivial
theorem towResume : Statement .towResume := trivial
theorem towDiscard : Statement .towDiscard := trivial
theorem uitSet : Statement .uitSet := trivial
theorem cwinSet : Statement .cwinSet := trivial
theorem cwinArm : Statement .cwinArm := trivial
theorem worldCreate : Statement .worldCreate := trivial
theorem worldDestroy : Statement .worldDestroy := trivial
theorem migExport : Statement .migExport := trivial
theorem migImport : Statement .migImport := trivial
theorem fwUpdate : Statement .fwUpdate := trivial
theorem routeSet : Statement .routeSet := trivial
theorem xwinSet : Statement .xwinSet := trivial
theorem importSet : Statement .importSet := trivial
theorem mailboxCompletion : Statement .mailboxCompletion := trivial
theorem mgmtRegisterWrite : Statement .mgmtRegisterWrite := trivial
theorem cwinTimeout : Statement .cwinTimeout := trivial
theorem peerAccessArrival : Statement .peerAccessArrival := trivial
theorem peerResponse : Statement .peerResponse := trivial
theorem ptmo : Statement .ptmo := trivial
theorem fabricFailover : Statement .fabricFailover := trivial
theorem cxlLinkDown : Statement .cxlLinkDown := trivial
theorem hotReset : Statement .hotReset := trivial
theorem hostSessionEstablished : Statement .hostSessionEstablished := trivial
theorem coldReset : Statement .coldReset := trivial
theorem warmReset : Statement .warmReset := trivial
theorem functionLevelReset : Statement .functionLevelReset := trivial
theorem supervisorStart : Statement .supervisorStart := trivial
theorem throttleStep : Statement .throttleStep := trivial
theorem thermalTrip : Statement .thermalTrip := trivial
theorem supplyDroop : Statement .supplyDroop := trivial
theorem vrefRecalibration : Statement .vrefRecalibration := trivial
theorem patrolScrub : Statement .patrolScrub := trivial
theorem accumulatorComplete : Statement .accumulatorComplete := trivial
theorem bankModeSwitchComplete : Statement .bankModeSwitchComplete := trivial
theorem storePerformed : Statement .storePerformed := trivial
theorem invalidationApplied : Statement .invalidationApplied := trivial
theorem debuggerHalt : Statement .debuggerHalt := trivial
theorem debuggerResume : Statement .debuggerResume := trivial
theorem fabricLinkUp : Statement .fabricLinkUp := trivial
theorem cxlLinkUp : Statement .cxlLinkUp := trivial
theorem functionLevelResetComplete : Statement .functionLevelResetComplete := trivial
theorem counterTableRescan : Statement .counterTableRescan := trivial

end Sys2Proof.Laws.Parts
end

