-- ==== Sys2Proof/Certificates/Slice0/Obligations.lean ====
section
/-!
DEFINITION. What is claimed of the model: one proposition for each obligation.
-/

section
open Sys2Proof
open Sys2Proof.Machine

/-! ### The integer group (R73-R81) -/

/-- After R73-R82: every instruction of the integer group completes in every state: an arithmetic one with the exact
result reduced and extended by TYPE, a bitwise one or a shift on the low bits that TYPE selects (a shift takes the whole
of its amount), and the fields, moves, conversions, comparisons and predicate instructions with theirs. -/
def Obligations.IntegerInstructionsComplete : Prop :=
  (∀ s : State,
    (∀ o, exec (.add o) s = .next (ended (riHdr o) (s.wx (riOd o) (intResult (riMd o)
      (srcInt (riMd o) (s.rx (riOa o)) + srcInt (riMd o) (riSext s o)))))) ∧
    (∀ o, exec (.sub o) s = .next (ended (riHdr o) (s.wx (riOd o) (intResult (riMd o)
      (srcInt (riMd o) (s.rx (riOa o)) - srcInt (riMd o) (riSext s o)))))) ∧
    (∀ o, exec (.mul o) s = .next (ended (riHdr o) (s.wx (riOd o) (intResult (riMd o)
      (srcInt (riMd o) (s.rx (riOa o)) * srcInt (riMd o) (riSext s o)))))) ∧
    (∀ o, exec (.mulh o) s = .next (ended o.hdr (s.wx o.od (intResult o.md
      (srcInt o.md (s.rx o.oa) * srcInt o.md (s.rx o.ob) / 2 ^ tyWidth o.md))))) ∧
    (∀ o, exec (.mad o) s = .next (ended o.hdr (s.wx o.od (intResult o.md
      (srcInt o.md (s.rx o.oa) * srcInt o.md (s.rx o.ob) + srcInt o.md (s.rx o.oc)))))) ∧
    (∀ o, exec (.div o) s = .next (ended o.hdr (s.wx o.od (intResult o.md
      (if srcInt o.md (s.rx o.ob) = 0 then (if tySigned o.md.ty then -1 else 2 ^ tyWidth o.md - 1)
        else (srcInt o.md (s.rx o.oa)).tdiv (srcInt o.md (s.rx o.ob))))))) ∧
    (∀ o, exec (.rem o) s = .next (ended o.hdr (s.wx o.od (intResult o.md
      (if srcInt o.md (s.rx o.ob) = 0 then srcInt o.md (s.rx o.oa)
        else (srcInt o.md (s.rx o.oa)).tmod (srcInt o.md (s.rx o.ob))))))) ∧
    (∀ o, exec (.min o) s = .next (ended (riHdr o) (s.wx (riOd o) (intResult (riMd o)
      (min (srcInt (riMd o) (s.rx (riOa o))) (srcInt (riMd o) (riSext s o))))))) ∧
    (∀ o, exec (.max o) s = .next (ended (riHdr o) (s.wx (riOd o) (intResult (riMd o)
      (max (srcInt (riMd o) (s.rx (riOa o))) (srcInt (riMd o) (riSext s o))))))) ∧
    (∀ o, exec (.abs o) s = .next (ended o.hdr (s.wx o.od (intResult o.md |srcInt o.md (s.rx o.oa)|)))) ∧
    (∀ o, exec (.shadd o) s = .next (ended (riHdr o) (s.wx (riOd o) (intResult (riMd o)
      (srcInt (riMd o) (s.rx (riOa o)) * 2 ^ (riMd o).sub.toNat + srcInt (riMd o) (riSext s o))))))) ∧
  (∀ s : State,
    (∀ o, exec (.and o) s = .next (ended (riHdr o) (s.wx (riOd o) (patResult (riMd o)
      (srcPat (riMd o) (s.rx (riOa o)) &&& srcPat (riMd o) (riSext s o)))))) ∧
    (∀ o, exec (.or o) s = .next (ended (riHdr o) (s.wx (riOd o) (patResult (riMd o)
      (srcPat (riMd o) (s.rx (riOa o)) ||| srcPat (riMd o) (riSext s o)))))) ∧
    (∀ o, exec (.xor o) s = .next (ended (riHdr o) (s.wx (riOd o) (patResult (riMd o)
      (srcPat (riMd o) (s.rx (riOa o)) ^^^ srcPat (riMd o) (riSext s o)))))) ∧
    (∀ o, exec (.andn o) s = .next (ended (riHdr o) (s.wx (riOd o) (patResult (riMd o)
      (srcPat (riMd o) (s.rx (riOa o)) &&& (2 ^ tyWidth (riMd o) - 1 - srcPat (riMd o) (riSext s o))))))) ∧
    (∀ o, exec (.shl o) s = .next (ended (riHdr o) (s.wx (riOd o) (patResult (riMd o)
      (if (riZext s o).toNat < tyWidth (riMd o) then
        srcPat (riMd o) (s.rx (riOa o)) * 2 ^ (riZext s o).toNat % 2 ^ tyWidth (riMd o) else 0))))) ∧
    (∀ o, exec (.shr o) s = .next (ended (riHdr o) (s.wx (riOd o) (patResult (riMd o)
      (if (riZext s o).toNat < tyWidth (riMd o) then srcPat (riMd o) (s.rx (riOa o)) / 2 ^ (riZext s o).toNat else 0))))) ∧
    (∀ o, exec (.sra o) s = .next (ended (riHdr o) (s.wx (riOd o) (patResult (riMd o)
      (intCode (tyWidth (riMd o)) (intDecode true (tyWidth (riMd o)) (srcPat (riMd o) (s.rx (riOa o))) /
        2 ^ min (riZext s o).toNat (tyWidth (riMd o) - 1))))))) ∧
    (∀ o, exec (.rotl o) s = .next (ended (riHdr o) (s.wx (riOd o) (patResult (riMd o)
      (rotlPat (tyWidth (riMd o)) (srcPat (riMd o) (s.rx (riOa o))) (riZext s o).toNat))))) ∧
    (∀ o, exec (.clz o) s = .next (ended o.hdr (s.wx o.od (patResult o.md (clzPat (tyWidth o.md) (srcPat o.md (s.rx o.oa))))))) ∧
    (∀ o, exec (.ctz o) s = .next (ended o.hdr (s.wx o.od (patResult o.md (ctzPat (tyWidth o.md) (srcPat o.md (s.rx o.oa))))))) ∧
    (∀ o, exec (.popc o) s = .next (ended o.hdr (s.wx o.od (patResult o.md (popBits (srcPat o.md (s.rx o.oa)) (tyWidth o.md)))))) ∧
    (∀ o, exec (.bswap o) s = .next (ended o.hdr (s.wx o.od (patResult o.md
      (bswapPat (tyWidth o.md / 8) (srcPat o.md (s.rx o.oa)))))))) ∧
  (∀ s : State,
    (∀ o, exec (.bfx o) s = .next (ended (riHdr o) (s.wx (riOd o)
      (bfxV ((riMd o).ty == 3) (s.rx (riOa o)).toNat ((riZext s o).toNat % 64) ((riZext s o).toNat / 256 % 64))))) ∧
    (∀ o, exec (.bfi o) s = .next (ended (riHdr o) (s.wx (riOd o)
      (bfiV (s.rx (riOd o)) (s.rx (riOa o)) ((riZext s o).toNat % 64) ((riZext s o).toNat / 256 % 64))))) ∧
    (∀ o, exec (.sel o) s = .next (ended o.hdr (s.wx o.od
      (patResult o.md (if s.rp o.oc then (s.rx o.oa).toNat else (s.rx o.ob).toNat))))) ∧
    (∀ o, exec (.mov o) s = .next (ended o.hdr (s.wx o.od (patResult o.md (srcPat o.md (s.rx o.oa)))))) ∧
    (∀ o, exec (.li o) s = .next (ended o.hdr (s.wx o.od
      (if o.md.sub = 0 then o.imm.signExtend 64 else if o.md.sub = 1 then o.imm.setWidth 64
        else o.imm ++ (s.rx o.od).extractLsb' 0 32)))) ∧
    (∀ o, exec (.cvt o) s = .next (ended o.hdr (s.wx o.od
      (intResult o.md ((IntTy.ofCode o.md.sub).rd (s.rx o.oa).toNat))))) ∧
    (∀ o, exec (.cmp o) s = .next (ended (riHdr o) (s.wp (riOd o)
      (intCond (riMd o).sub.toNat (srcInt (riMd o) (s.rx (riOa o))) (srcInt (riMd o) (riSext s o)))))) ∧
    (∀ o, exec (.pand o) s = .next (ended o.hdr (s.wp o.od (s.rp o.oa && s.rp o.ob)))) ∧
    (∀ o, exec (.por o) s = .next (ended o.hdr (s.wp o.od (s.rp o.oa || s.rp o.ob)))) ∧
    (∀ o, exec (.pxor o) s = .next (ended o.hdr (s.wp o.od (xor (s.rp o.oa) (s.rp o.ob))))) ∧
    (∀ o, exec (.pnot o) s = .next (ended o.hdr (s.wp o.od (!s.rp o.oa)))) ∧
    (∀ o, exec (.pmov o) s = .next (ended o.hdr
      (if o.md.sub = 0 then s.wp o.od (s.rp o.oa) else if o.md.sub = 1 then s.wp o.od (s.rx o.oa != 0)
        else if o.md.sub = 2 then s.wx o.od (if s.rp o.oa then 1 else 0)
        else s.wx o.od (s.sl.preds.setWidth 64)))))

/-- After R73, R75: what an integer result is: with SAT the nearest number of the type; without it the number of the
type that is congruent modulo 2^w; in both cases x(OD) read by the type again. -/
def Obligations.IntegerResultIsReduced : Prop :=
  ∀ (m : ModF) (v : Int), tyInt m.ty = true →
    (m.sat = 1 → srcInt m (intResult m v) = max (IntTy.ofCode m.ty).minV (min v (IntTy.ofCode m.ty).maxV)) ∧
    (m.sat = 0 → (srcInt m (intResult m v) - v) % 2 ^ tyWidth m = 0 ∧
      (IntTy.ofCode m.ty).minV ≤ srcInt m (intResult m v) ∧ srcInt m (intResult m v) ≤ (IntTy.ofCode m.ty).maxV) ∧
    (tySigned m.ty = true → (intResult m v).toInt = srcInt m (intResult m v)) ∧
    (tySigned m.ty = false → ((intResult m v).toNat : Int) = srcInt m (intResult m v))

/-! ### Scalar floats (R83-R89) -/

/-- After R68, R69, R84-R88: a scalar float instruction whose flags are not enabled completes: x(OD) or p(OD) takes the
result and FSTAT the flags; one that raises an enabled flag takes FPE with the flags as its aux word. -/
def Obligations.ScalarFloatInstructionsComplete : Prop :=
  (∀ (s : State) (o : ROp),
    (let r := flAdd (flEnv s o.md) (flFmt o.md) (flSrc o.md (s.rx o.oa)) (flSrc o.md (s.rx o.ob));
      masked s r.2 → exec (.fadd o) s = .next (floatEnded o s r)) ∧
    (let r := flSub (flEnv s o.md) (flFmt o.md) (flSrc o.md (s.rx o.oa)) (flSrc o.md (s.rx o.ob));
      masked s r.2 → exec (.fsub o) s = .next (floatEnded o s r)) ∧
    (let r := flMul (flEnv s o.md) (flFmt o.md) (flSrc o.md (s.rx o.oa)) (flSrc o.md (s.rx o.ob));
      masked s r.2 → exec (.fmul o) s = .next (floatEnded o s r)) ∧
    (let r := flFma (flEnv s o.md) (flFmt o.md) (flSrc o.md (s.rx o.oa)) (flSrc o.md (s.rx o.ob)) (flSrc o.md (s.rx o.oc));
      masked s r.2 → exec (.ffma o) s = .next (floatEnded o s r)) ∧
    (let r := flDiv (flEnv s o.md) (flFmt o.md) (flSrc o.md (s.rx o.oa)) (flSrc o.md (s.rx o.ob));
      masked s r.2 → exec (.fdiv o) s = .next (floatEnded o s r)) ∧
    (let r := flSqrt (flEnv s o.md) (flFmt o.md) (flSrc o.md (s.rx o.oa));
      masked s r.2 → exec (.fsqrt o) s = .next (floatEnded o s r)) ∧
    exec (.fmin o) s = .next (floatEnded o s
      (flMin (flEnv s o.md) (flFmt o.md) (flSrc o.md (s.rx o.oa)) (flSrc o.md (s.rx o.ob)), 0)) ∧
    exec (.fmax o) s = .next (floatEnded o s
      (flMax (flEnv s o.md) (flFmt o.md) (flSrc o.md (s.rx o.oa)) (flSrc o.md (s.rx o.ob)), 0)) ∧
    (let r := flCond o.md.sub.toNat ((flFmt o.md).decode s.sl.tcx (s.rx o.oa).toNat)
        ((flFmt o.md).decode s.sl.tcx (s.rx o.ob).toNat);
      masked s r.2 → exec (.fcmp o) s = .next (ended o.hdr ((flagged s r.2).wp o.od r.1))) ∧
    (let e := flEnv s o.md;
      let r := (flFmt o.md).encode e.tcx e.rm e.sat ((Fmt.ofCode o.md.sub 0).decode e.tcx (s.rx o.oa).toNat);
      masked s r.2 → exec (.fcvt o) s = .next (ended o.hdr ((flagged s r.2).wx o.od
        (if (flFmt o.md).isInt then patResult o.md r.1 else BitVec.ofNat 64 r.1)))) ∧
    exec (.fclass o) s = .next (ended o.hdr (s.wx o.od
      (BitVec.ofNat 64 (2 ^ flClass (flFmt o.md) s.sl.tcx (flSrc o.md (s.rx o.oa))))))) ∧
  (∀ (s : State) (o : ROp),
    (let r := flAdd (flEnv s o.md) (flFmt o.md) (flSrc o.md (s.rx o.oa)) (flSrc o.md (s.rx o.ob));
      ¬ masked s r.2 → exec (.fadd o) s = .next (s.takeTrap ⟨cFPE, r.2.toNat, 0⟩)) ∧
    (let r := flSub (flEnv s o.md) (flFmt o.md) (flSrc o.md (s.rx o.oa)) (flSrc o.md (s.rx o.ob));
      ¬ masked s r.2 → exec (.fsub o) s = .next (s.takeTrap ⟨cFPE, r.2.toNat, 0⟩)) ∧
    (let r := flMul (flEnv s o.md) (flFmt o.md) (flSrc o.md (s.rx o.oa)) (flSrc o.md (s.rx o.ob));
      ¬ masked s r.2 → exec (.fmul o) s = .next (s.takeTrap ⟨cFPE, r.2.toNat, 0⟩)) ∧
    (let r := flFma (flEnv s o.md) (flFmt o.md) (flSrc o.md (s.rx o.oa)) (flSrc o.md (s.rx o.ob)) (flSrc o.md (s.rx o.oc));
      ¬ masked s r.2 → exec (.ffma o) s = .next (s.takeTrap ⟨cFPE, r.2.toNat, 0⟩)) ∧
    (let r := flDiv (flEnv s o.md) (flFmt o.md) (flSrc o.md (s.rx o.oa)) (flSrc o.md (s.rx o.ob));
      ¬ masked s r.2 → exec (.fdiv o) s = .next (s.takeTrap ⟨cFPE, r.2.toNat, 0⟩)) ∧
    (let r := flSqrt (flEnv s o.md) (flFmt o.md) (flSrc o.md (s.rx o.oa));
      ¬ masked s r.2 → exec (.fsqrt o) s = .next (s.takeTrap ⟨cFPE, r.2.toNat, 0⟩)) ∧
    (let r := flCond o.md.sub.toNat ((flFmt o.md).decode s.sl.tcx (s.rx o.oa).toNat)
        ((flFmt o.md).decode s.sl.tcx (s.rx o.ob).toNat);
      ¬ masked s r.2 → exec (.fcmp o) s = .next (s.takeTrap ⟨cFPE, r.2.toNat, 0⟩)) ∧
    (let e := flEnv s o.md;
      let r := (flFmt o.md).encode e.tcx e.rm e.sat ((Fmt.ofCode o.md.sub 0).decode e.tcx (s.rx o.oa).toNat);
      ¬ masked s r.2 → exec (.fcvt o) s = .next (s.takeTrap ⟨cFPE, r.2.toNat, 0⟩)))

/-! ### Vectors (R91-R102) -/

/-- After R91-R99, R100-R103: a vector, mask, special-function or cross-lane instruction whose sources can be read and
whose destination can be written completes with the stated lanes, where it raises no flag that FMODE enables; else it
takes FPE with the flags as its aux word. Where the rules leave a reading open, this is the model's choice: log 20, 29,
30. -/
def Obligations.VectorInstructionsComplete : Prop :=
  (∀ s : State,
    (∀ (o : ROp) (vs : List Line), vecSources s o.od [o.oa, o.ob] vs →
      vecRuns (.vadd o) o.hdr s o.od [o.oa, o.ob] (laneMap s o.md fun i => elAdd o.md.ty (flEnv s o.md) (laneIn o.md vs 0 i) (laneIn o.md vs 1 i)) ∧
      vecRuns (.vsub o) o.hdr s o.od [o.oa, o.ob] (laneMap s o.md fun i => elSub o.md.ty (flEnv s o.md) (laneIn o.md vs 0 i) (laneIn o.md vs 1 i)) ∧
      vecRuns (.vmul o) o.hdr s o.od [o.oa, o.ob] (laneMap s o.md fun i => elMul o.md.ty (flEnv s o.md) (laneIn o.md vs 0 i) (laneIn o.md vs 1 i)) ∧
      vecRuns (.vmin o) o.hdr s o.od [o.oa, o.ob] (laneMap s o.md fun i => (elMin o.md.ty (flEnv s o.md) (laneIn o.md vs 0 i) (laneIn o.md vs 1 i), 0)) ∧
      vecRuns (.vmax o) o.hdr s o.od [o.oa, o.ob] (laneMap s o.md fun i => (elMax o.md.ty (flEnv s o.md) (laneIn o.md vs 0 i) (laneIn o.md vs 1 i), 0)) ∧
      vecRuns (.vand o) o.hdr s o.od [o.oa, o.ob] (laneMap s o.md fun i => ((laneIn o.md vs 0 i) &&& (laneIn o.md vs 1 i), 0)) ∧
      vecRuns (.vor o) o.hdr s o.od [o.oa, o.ob] (laneMap s o.md fun i => ((laneIn o.md vs 0 i) ||| (laneIn o.md vs 1 i), 0)) ∧
      vecRuns (.vxor o) o.hdr s o.od [o.oa, o.ob] (laneMap s o.md fun i => ((laneIn o.md vs 0 i) ^^^ (laneIn o.md vs 1 i), 0))) ∧
    (∀ (o : ROp) (vs : List Line), vecSources s o.od [o.oa, o.ob, o.oc] vs →
      vecRuns (.vfma o) o.hdr s o.od [o.oa, o.ob, o.oc] (laneMap s o.md fun i => elFma o.md.ty (flEnv s o.md) (laneIn o.md vs 0 i) (laneIn o.md vs 1 i) (laneIn o.md vs 2 i)) ∧
      vecRuns (.vfms o) o.hdr s o.od [o.oa, o.ob, o.oc] (laneMap s o.md fun i => elFms o.md.ty (flEnv s o.md) (laneIn o.md vs 0 i) (laneIn o.md vs 1 i) (laneIn o.md vs 2 i)) ∧
      vecRuns (.vclamp o) o.hdr s o.od [o.oa, o.ob, o.oc] (laneMap s o.md fun i => (elClamp o.md.ty (flEnv s o.md) (laneIn o.md vs 0 i) (laneIn o.md vs 1 i) (laneIn o.md vs 2 i), 0))) ∧
    (∀ (o : ROp) (vs : List Line), vecSources s o.od [o.oa] vs →
      vecRuns (.vabs o) o.hdr s o.od [o.oa] (laneMap s o.md fun i => (elAbs o.md.ty (flEnv s o.md) (laneIn o.md vs 0 i), 0)) ∧
      vecRuns (.vneg o) o.hdr s o.od [o.oa] (laneMap s o.md fun i => (elNeg o.md.ty (flEnv s o.md) (laneIn o.md vs 0 i), 0)) ∧
      vecRuns (.vmov o) o.hdr s o.od [o.oa] (laneMap s o.md fun i => ((laneIn o.md vs 0 i), 0))) ∧
    (∀ (o : ROp) (vs : List Line), vecSources s o.od [o.oa, o.ob] vs →
      vecRuns (.vshl (.r o)) o.hdr s o.od [o.oa, o.ob]
        (laneMap s o.md fun i => (shlPat (laneBits o.md.ty) (laneIn o.md vs 0 i) (laneIn o.md vs 1 i), 0)) ∧
      vecRuns (.vshr (.r o)) o.hdr s o.od [o.oa, o.ob]
        (laneMap s o.md fun i => (elShr o.md.ty (laneBits o.md.ty) (laneIn o.md vs 0 i) (laneIn o.md vs 1 i), 0))) ∧
    (∀ (o : IOp) (vs : List Line), vecSources s o.od [o.oa] vs →
      vecRuns (.vshl (.i o)) o.hdr s o.od [o.oa]
        (laneMap s o.md fun i => (shlPat (laneBits o.md.ty) (laneIn o.md vs 0 i) o.imm.toNat, 0)) ∧
      vecRuns (.vshr (.i o)) o.hdr s o.od [o.oa]
        (laneMap s o.md fun i => (elShr o.md.ty (laneBits o.md.ty) (laneIn o.md vs 0 i) o.imm.toNat, 0)))) ∧
  (∀ (s : State) (o : ROp) (vs : List Line),
    (vecSources s o.od [o.oa, o.ob] vs →
      vecRuns (.vsel o) o.hdr s o.od [o.oa, o.ob] (vMap (laneBits o.md.ty) (BitVec.allOnes 128) false fun i =>
        (lane (laneBits o.md.ty) (if (kmOf s.sl o.md).getLsbD i then nth vs 0 else nth vs 1) i, 0))) ∧
    (vecSources s o.od [o.oa] vs →
      vecRuns (.vcvt o) o.hdr s o.od [o.oa]
        (vcvtLanes (Fmt.ofCode o.md.sub o.md.isp.toNat) (Fmt.ofCode o.md.ty o.md.isp.toNat) (laneBits o.md.sub)
          (laneBits o.md.ty) o.ob.toNat (flEnv s o.md) (kmOf s.sl o.md) (zmOf o.md) (nth vs 0)) ∧
      vecRuns (.vscl o) o.hdr s o.od [o.oa] (laneMap s o.md fun i => (flEnv s o.md).fin (flFmt o.md)
        (Machine.Num.mul ((flFmt o.md).decode s.sl.tcx (laneIn o.md vs 0 i)) (Fmt.f32.decode s.sl.tcx ((s.rx o.ob).toNat % 2 ^ 32))))) ∧
    (vecSources s o.od [o.oa, o.ob, o.oc] vs →
      vecRuns (.vdot o) o.hdr s o.od [o.oa, o.ob, o.oc] (vMap 32 (kmOf s.sl o.md) (zmOf o.md)
        (vdotLane o.md.ty (flEnv s o.md) (nth vs 0) (nth vs 1) (nth vs 2)))) ∧
    (vecSources s o.od [] [] →
      vecRuns (.vbcast (.r o)) o.hdr s o.od [] (laneMap s o.md fun _ => ((s.rx o.oa).toNat, 0)) ∧
      vecRuns (.vins o) o.hdr s o.od []
        (if (s.rx o.ob).toNat < 1024 / laneBits o.md.ty
          then VRes.put .empty (laneBits o.md.ty) (s.rx o.ob).toNat (s.rx o.oa).toNat 0 else .empty)) ∧
    (∀ o : IOp, vecSources s o.od [] [] →
      vecRuns (.vbcast (.i o)) o.hdr s o.od [] (laneMap s o.md fun _ => (o.imm.toNat, 0)))) ∧
  (∀ (s : State) (o : ROp) (vs : List Line),
    ([o.oa, o.ob].mapM (readV s) = .ok vs →
      ∀ r, r = vcmpBits o.md.ty s.sl.tcx o.md.sub.toNat (kmOf s.sl o.md) (zmOf o.md) (s.rk o.od) (nth vs 0) (nth vs 1)
          (1024 / laneBits o.md.ty) →
        (masked s r.2 → exec (.vcmp o) s = .next (ended o.hdr ((popPorts (flagged s r.2) [o.oa, o.ob] []).wk o.od r.1))) ∧
        (¬ masked s r.2 → exec (.vcmp o) s = .next (s.takeTrap ⟨cFPE, r.2.toNat, 0⟩))) ∧
    ([o.oa].mapM (readV s) = .ok vs →
      exec (.vext o) s = .next (ended o.hdr ((popPorts (flagged s 0) [o.oa] []).wx o.od
        (if 1024 / laneBits o.md.ty ≤ (s.rx o.ob).toNat then 0
          else if tySigned o.md.ty then
            BitVec.ofInt 64 (intDecode true (laneBits o.md.ty) (laneIn o.md vs 0 (s.rx o.ob).toNat))
          else BitVec.ofNat 64 (laneIn o.md vs 0 (s.rx o.ob).toNat))))) ∧
    exec (.kand o) s = .next (ended o.hdr (s.wk o.od (s.rk o.oa &&& s.rk o.ob))) ∧
    exec (.kor o) s = .next (ended o.hdr (s.wk o.od (s.rk o.oa ||| s.rk o.ob))) ∧
    exec (.kxor o) s = .next (ended o.hdr (s.wk o.od (s.rk o.oa ^^^ s.rk o.ob))) ∧
    exec (.knot o) s = .next (ended o.hdr (s.wk o.od (~~~ s.rk o.oa))) ∧
    exec (.kpop o) s = .next (ended o.hdr (s.wx o.od
      (BitVec.ofNat 64 (popBits (s.rk o.oa).toNat (1024 / laneBits o.md.ty))))) ∧
    exec (.kfirst o) s = .next (ended o.hdr (s.wx o.od
      (BitVec.ofNat 64 (lowestSet (s.rk o.oa).toNat 0 (1024 / laneBits o.md.ty))))) ∧
    (∀ o, exec (.kset o) s = .next (ended (riHdr o) (s.wk (riOd o)
      (lowMask (min (riAorImm s o).toNat (1024 / laneBits (riMd o).ty)))))) ∧
    exec (.kmov o) s = .next (ended o.hdr
      (if o.md.sub = 0 then s.wk o.od (s.rk o.oa) else if o.md.sub = 1 then s.wk o.od (s.rx o.ob ++ s.rx o.oa)
        else if o.md.sub = 2 then s.wx o.od ((s.rk o.oa).extractLsb' 0 64)
        else s.wx o.od ((s.rk o.oa).extractLsb' 64 64)))) ∧
  (∀ (s : State) (o : ROp) (vs : List Line),
    (vecSources s o.od [o.oa] vs →
      vecRuns (.vrcp o) o.hdr s o.od [o.oa] (laneMap s o.md fun i => (flEnv s o.md).fin (flFmt o.md)
        (fnRcp ((flFmt o.md).decode s.sl.tcx (laneIn o.md vs 0 i)))) ∧
      vecRuns (.vrsq o) o.hdr s o.od [o.oa] (laneMap s o.md fun i => (flEnv s o.md).fin (flFmt o.md)
        (fnRsq ((flFmt o.md).decode s.sl.tcx (laneIn o.md vs 0 i)))) ∧
      vecRuns (.vsqrt o) o.hdr s o.od [o.oa] (laneMap s o.md fun i => (flEnv s o.md).fin (flFmt o.md)
        (Machine.Num.sqrt ((flFmt o.md).decode s.sl.tcx (laneIn o.md vs 0 i)))) ∧
      vecRuns (.vexp2 o) o.hdr s o.od [o.oa] (laneMap s o.md fun i => ({ flEnv s o.md with rm := .rne } : FpEnv).fin (flFmt o.md)
        (fnExp2 ((flFmt o.md).decode s.sl.tcx (laneIn o.md vs 0 i)))) ∧
      vecRuns (.vlog2 o) o.hdr s o.od [o.oa] (laneMap s o.md fun i => ({ flEnv s o.md with rm := .rne } : FpEnv).fin (flFmt o.md)
        (fnLog2 ((flFmt o.md).decode s.sl.tcx (laneIn o.md vs 0 i)))) ∧
      vecRuns (.vsin o) o.hdr s o.od [o.oa] (laneMap s o.md fun i => ({ flEnv s o.md with rm := .rne } : FpEnv).fin (flFmt o.md)
        (fnSin ((flFmt o.md).decode s.sl.tcx (laneIn o.md vs 0 i)))) ∧
      vecRuns (.vcos o) o.hdr s o.od [o.oa] (laneMap s o.md fun i => ({ flEnv s o.md with rm := .rne } : FpEnv).fin (flFmt o.md)
        (fnCos ((flFmt o.md).decode s.sl.tcx (laneIn o.md vs 0 i)))) ∧
      vecRuns (.vtanh o) o.hdr s o.od [o.oa] (laneMap s o.md fun i => ({ flEnv s o.md with rm := .rne } : FpEnv).fin (flFmt o.md)
        (fnTanh ((flFmt o.md).decode s.sl.tcx (laneIn o.md vs 0 i)))) ∧
      vecRuns (.vsigm o) o.hdr s o.od [o.oa] (laneMap s o.md fun i => ({ flEnv s o.md with rm := .rne } : FpEnv).fin (flFmt o.md)
        (fnSigm ((flFmt o.md).decode s.sl.tcx (laneIn o.md vs 0 i)))) ∧
      vecRuns (.vredsum o) o.hdr s o.od [o.oa]
        (let r := sumCodes o.md.ty (flEnv s o.md)
          (enabledLanes (laneBits o.md.ty) (kmOf s.sl o.md) (nth vs 0) (1024 / laneBits o.md.ty));
        laneZeroOnly r.1 r.2) ∧
      vecRuns (.vredmax o) o.hdr s o.od [o.oa] (laneZeroOnly (extremeCodes o.md.ty (flEnv s o.md) true
        (enabledLanes (laneBits o.md.ty) (kmOf s.sl o.md) (nth vs 0) (1024 / laneBits o.md.ty))) 0) ∧
      vecRuns (.vredmin o) o.hdr s o.od [o.oa] (laneZeroOnly (extremeCodes o.md.ty (flEnv s o.md) false
        (enabledLanes (laneBits o.md.ty) (kmOf s.sl o.md) (nth vs 0) (1024 / laneBits o.md.ty))) 0) ∧
      vecRuns (.vscan o) o.hdr s o.od [o.oa] (laneMap s o.md fun i => sumCodes o.md.ty (flEnv s o.md)
        (enabledLanes (laneBits o.md.ty) (kmOf s.sl o.md) (nth vs 0) (i + 1))) ∧
      vecRuns (.vunpack o) o.hdr s o.od [o.oa] (laneMap s o.md fun i =>
        (vunpackLane o.md.ty o.md.sub.toNat (nth vs 0) i, 0))) ∧
    (vecSources s o.od [o.oa, o.ob] vs →
      vecRuns (.vexpd o) o.hdr s o.od [o.oa, o.ob] (laneMap s o.md fun i =>
        ({ flEnv s o.md with rm := .rne } : FpEnv).fin (flFmt o.md) (fnExpd ((flFmt o.md).decode s.sl.tcx (laneIn o.md vs 0 i))
          ((flFmt o.md).decode s.sl.tcx (laneIn o.md vs 1 i)))) ∧
      vecRuns (.vperm o) o.hdr s o.od [o.oa, o.ob] (laneMap s o.md fun i =>
        (laneIn o.md vs 0 (laneIn o.md vs 1 i % (1024 / laneBits o.md.ty)), 0)) ∧
      vecRuns (.vpack o) o.hdr s o.od [o.oa, o.ob] (laneMap s o.md fun i =>
        (vpackLane o.md.ty (o.md.sat == 1) (nth vs 0) (nth vs 1) i, 0))) ∧
    (vecSources s o.od [o.oa, o.ob, o.oc] vs →
      vecRuns (.vshuf o) o.hdr s o.od [o.oa, o.ob, o.oc] (laneMap s o.md fun i =>
        (let n := 1024 / laneBits o.md.ty;
        let j := laneIn o.md vs 1 i % (2 * n);
        if j < n then laneIn o.md vs 0 j else laneIn o.md vs 2 (j - n), 0))))

/-! ### Streams and repetition (R103-R113) -/

/-- After R104-R109: the stream instructions and the events of the stream engine complete on a port in the state that
each clause names; a port bound twice, unbound, started twice, beyond its limits, or read against its direction, before
its start or past its end traps with the stated cause and aux word. Where the rules leave a reading open, this is the
model's choice: log 30, 31, 74, 75. -/
def Obligations.StreamsComplete : Prop :=
  (∀ (s : State) (o : ROp),
    ((s.sl.port (portIx o.od)).bound = false →
      capCheckKind s.world (s.rc o.oa) (if o.md.sub = 1 then pW else pR) = none → s.enginesUsed < 8 →
      exec (.sbind o) s = .next (ended o.hdr (s.modCur fun sl => sl.modPort (portIx o.od) fun _ =>
        { Port.unbound with
          bound := true, write := o.md.sub == 1, cap := s.rc o.oa, cnt := Vector.replicate 4 1,
          nud := if o.ob = 0 then 0xFF else (s.rx o.ob).extractLsb' 0 8,
          lvl := if o.ob = 0 then 0 else (s.rx o.ob).extractLsb' 8 2 }))) ∧
    (∀ q : RIOp, (s.sl.port (portIx (riOd q))).bound = true → (s.sl.port (portIx (riOd q))).started = false →
      portSound s (portIx (riOd q)) = .ok () →
      exec (.sdim q) s = .next (ended (riHdr q) (s.modCur fun sl => sl.modPort (portIx (riOd q)) fun p =>
        { p with cnt := p.cnt.set (Fin.ofNat 4 (riMd q).sub.toNat) (sdimArgs s q).1,
                 str := p.str.set (Fin.ofNat 4 (riMd q).sub.toNat) (sdimArgs s q).2 }))) ∧
    (∀ i, i = portIx o.od → (s.sl.port i).bound = true → portSound s i = .ok () →
      ((s.sl.port i).started = false → (s.sl.port i).limitsOk = true → (s.sl.port i).aligned = true →
        (s.sl.port i).firstOut = none →
        exec (.sstart o) s = .next (ended o.hdr
          (if (s.sl.port i).write then s.modCur fun sl => sl.modPort i fun p => { p with started := true }
            else (s.modCur fun sl => sl.modPort i fun p => { p with started := true }).postFetches s.cur i
              (min (s.sl.port i).total 8)))) ∧
      (((s.sl.port i).write = false ∨ s.rowsOpen i = 0) →
        exec (.sstop o) s = .next (ended o.hdr (s.modCur fun sl => sl.modPort i fun _ => Port.unbound).poolFreed))) ∧
    (∀ i, i = portIx o.oa → (s.sl.port i).bound = true → portSound s i = .ok () →
      ((s.sl.port i).write = false ∨ s.rowsOpen i = 0) →
      exec (.swait o) s = .next (ended o.hdr (s.wx o.od (BitVec.ofNat 64 ((s.sl.port i).total - (s.sl.port i).next)))))) ∧
  (∀ (s : State) (sl : SlotId) (i : Fin 4) (p : Port), p = (s.onSlot sl).sl.port i → p.bound = true →
    (∀ bs t, s.act = some (.streamRowFetch sl i) → p.started = true → p.write = false → p.rows.length < 8 →
      p.next + p.rows.length < p.total →
      loadBytes (s.onSlot sl) p.cap (p.row (p.next + p.rows.length)) 128 pR 1 { nud := p.nud, lvl := p.lvl } =
        .ok (bs, t) →
      ∃ u, u = (t.peerUsed (p.row (p.next + p.rows.length)) 128).modCur (fun sl => sl.modPort i fun p =>
          { p with rows := p.rows ++ [.ok (BitVec.ofNat 1024 (leNat bs)) (BitVec.allOnes 1024)] }) ∧
        exec .streamRowFetch s = .next (u.rouse t.cur)) ∧
    (∀ v wr rest t u k, s.act = some (.streamRowPerform sl i) → p.write = true → p.rows = .ok v wr :: rest →
      k = { hint := { nud := p.nud, lvl := p.lvl }, row := some (.row (s.slot sl).fib i (p.next - p.rows.length)) } →
      storeNibbles (s.onSlot sl) p.cap (p.row (p.next - p.rows.length)) v wr k (rowNibbles wr) = .ok t →
      storeRuns t p.cap (p.row (p.next - p.rows.length)) k (rowRuns v wr 128).reverse = .ok u →
      exec .streamRowPerform s =
        .next (((u.modCur fun sl => sl.modPort i fun p => { p with rows := rest }).rouse u.cur).unstall))) ∧
  (∀ (s : State) (o : ROp) (i : Fin 4) (p : Port) (a : Nat), p = s.sl.port i → a = p.row p.next →
    (i = portIx o.od → p.bound = true → exec (.sbind o) s = .next (s.takeTrap ⟨cSTRM, 1, a⟩)) ∧
    (i = portIx o.od → p.bound = false →
      exec (.sstart o) s = .next (s.takeTrap ⟨cSTRM, 2, a⟩) ∧ exec (.sstop o) s = .next (s.takeTrap ⟨cSTRM, 2, a⟩)) ∧
    (i = portIx o.oa → p.bound = false → exec (.swait o) s = .next (s.takeTrap ⟨cSTRM, 2, a⟩)) ∧
    (i = portIx o.od → p.bound = true → p.started = true → exec (.sstart o) s = .next (s.takeTrap ⟨cSTRM, 2, a⟩)) ∧
    (i = portIx o.od → p.bound = true → p.started = false → portSound s i = .ok () →
      (p.limitsOk = false → exec (.sstart o) s = .next (s.takeTrap ⟨cSTRM, 3, 0⟩)) ∧
      (p.limitsOk = true → p.aligned = false → exec (.sstart o) s = .next (s.takeTrap ⟨cSTRM, 4, 0⟩)) ∧
      (∀ b, p.limitsOk = true → p.aligned = true → p.firstOut = some b →
        exec (.sstart o) s = .next (s.takeTrap ⟨cCAPB, 0, (b % 2 ^ 64).toNat⟩))) ∧
    (portOf s.sl o.oa = some i →
      (p.started = false → exec (.vmov o) s = .next (s.takeTrap ⟨cSTRM, 7, a⟩)) ∧
      (p.started = true → p.cap.tag = false → exec (.vmov o) s = .next (s.takeTrap ⟨cCAPT, 0, a⟩)) ∧
      (p.started = true → portSound s i = .ok () →
        (p.write = true → exec (.vmov o) s = .next (s.takeTrap ⟨cSTRM, 5, a⟩)) ∧
        (p.write = false → p.total ≤ p.next → exec (.vmov o) s = .next (s.takeTrap ⟨cSTRM, 6, a⟩)))))

/-- After R93, R103: a read port gives its rows in their order: every vector instruction with v sources, of which any
may be ports that have a row, takes the oldest row of each port it names and moves that port on by one row, once however
often it names it; no other port moves. What an instruction reads is those rows, as vmov shows of one, and vor of two.
Where the rules leave a reading open, this is the model's choice: log 30. -/
def Obligations.ReadPortGivesRowsInOrder : Prop :=
  (∀ (s : State) (h : Hdr) (d : BitVec 6) (p : Instr × List (BitVec 6)),
    ((∃ o : ROp, p ∈ vecSourced o ∧ o.hdr = h ∧ o.od = d) ∨
      ∃ q : IOp, p ∈ [(.vshl (.i q), [q.oa]), (.vshr (.i q), [q.oa])] ∧ q.hdr = h ∧ q.od = d) →
    s.sl.fmode.extractLsb' 0 5 = 0 → h.sigInc = 0 → portOf s.sl d = none →
    (∀ r ∈ p.2, ∀ i, portOf s.sl r = some i → ∃ v rest, Gives (s.sl.port i) v rest) →
    ∃ t, exec p.1 s = .next t ∧
      (∀ i, (∃ r ∈ p.2, portOf s.sl r = some i) →
        (t.sl.port i).next = (s.sl.port i).next + 1 ∧ (t.sl.port i).rows = (s.sl.port i).rows.tail) ∧
      ∀ i, (∀ r ∈ p.2, portOf s.sl r ≠ some i) → t.sl.port i = s.sl.port i) ∧
  ∀ (s : State) (o : ROp) (i j : Fin 4) (v w : Line) (rv rw : List Row), tyI o.md.ty = true → o.hdr.sigInc = 0 →
    portOf s.sl o.oa = some i → portOf s.sl o.od = none → Gives (s.sl.port i) v rv → kmOf s.sl o.md = BitVec.allOnes 128 →
    (∃ t, exec (.vmov o) s = .next t ∧ t.sl.rv o.od = v) ∧
    (portOf s.sl o.ob = some j → Gives (s.sl.port j) w rw → ∃ t, exec (.vor o) s = .next t ∧ t.sl.rv o.od = v ||| w)

/-- After R110-R113: frep captures its block and goes on past it; a pass of the block passes over an instruction that is
skipped or whose guard fails, and gives one that may issue, waits for nothing and names no port its effect. Where the
rules leave a reading open, this is the model's choice: log 3, 22, 28, 32. -/
def Obligations.RepetitionCompletes : Prop :=
  (∀ (s : State) (o : XOp) (block : List Instr) (t : State),
    captureBlock s (s.sl.pc + 12) (o.sub.toNat + 1) = .ok (block, t) →
    (o.imm.extractLsb' 0 16 = 0 → exec (.frep o) s = .next (jumped o.hdr
      (t.setPcc (capMoveCursor t.sl.pcc (s.sl.pc + 12 * BitVec.ofNat 64 (o.sub.toNat + 2)))))) ∧
    (o.imm.extractLsb' 0 16 ≠ 0 → t.buffersUsed < 4 → exec (.frep o) s = .next (jumped o.hdr
      (((t.modCur fun sl => { sl with behind := false, rep := some ⟨s.sl.pc, o.imm, o.sub.toNat + 1, block, sl.preds, 0, 0, false, none, none,
          false, false⟩ }).setPcc
        (capMoveCursor t.sl.pcc (s.sl.pc + 12 * BitVec.ofNat 64 (o.sub.toNat + 2)))).post (.repetitionPass t.cur))))) ∧
  (∀ (s u : State) (i : SlotId) (r : Rep) (ins : Instr) (opc : Nat) (b : Body), s.act = some (.repetitionPass i) →
    (s.slot i).rep = some r → s.repRuns i = true → r.block ≠ [] → r.block[r.idx]? = some ins → ins.parts = some (opc, b) →
    u = (s.onSlot i).issued.withWord ((encode ins).getD 0) →
    (r.skip = true ∨ ({ u.sl with p := r.preds } : Slot).guards (bodyHdr b) = false →
      exec .repetitionPass s = .next (u.repNext i r.going)) ∧
    (r.skip = false → ({ u.sl with p := r.preds } : Slot).guards (bodyHdr b) = true →
      semOut u.sl (semNames opc b) = none → u.semFail (semReads opc b) = none → u.readsBad (r.staggered ins).1 = none →
      (bodyWait b).thr = 0 → (repLoads opc = false ∨ u.heldBack = false) → (r.staggered ins).2.findSome? (portOf u.sl) = none →
      ∀ f t, blockBody (r.staggered ins).1 = some f → f u = .ok t →
        exec .repetitionPass s = .next (t.repSignal i r.going (bodyHdr b))))

/-! ### The matrix unit (R114-R133) -/

/-- After R114-R132: the instructions of the matrix unit that set it up, drain it, move its rows, save and restore it
complete in a slot that holds it as each clause says; mscl, mzero, mma, mmas, mrowrd, mrowwr, mstat and mhand take MCFG
where the slot does not hold it. Where the rules leave a reading open, this is the model's choice: log 33, 35, 77. -/
def Obligations.MatrixUnitCompletes : Prop :=
  (∀ (s : State) (o : ROp),
    (o.md.sub.extractLsb' 0 2 = 0 → s.mat.holder ≠ some s.cur → exec (.mcfg o) s = .next (ended o.hdr s)) ∧
    (o.md.sub.extractLsb' 0 2 = 0 → s.mat.holder = some s.cur → s.mat.reload = false → matIdle s = .ok () →
      exec (.mcfg o) s = .next (ended o.hdr s.matRelease)) ∧
    (∀ kind r4 cfg, kind = o.md.sub.extractLsb' 0 2 → kind ≠ 0 →
      r4 = (if o.md.ty = 15 then o.md.isp.extractLsb' 0 2 else 0) → cfg = (if kind = 3 then 0 else s.rx o.oa) →
      cfgOk (Fmt.ofCode o.md.ty (r4.setWidth 4)).isInt cfg = true →
      s.mat.holder = none ∨ (s.mat.holder = some s.cur ∧ s.mat.reload = false ∧ matIdle s = .ok ()) →
      exec (.mcfg o) s = .next (ended o.hdr (s.matConfigure kind o.md.ty r4 cfg))) ∧
    (holdsMat s [1, 2, 3] → s.mat.busy = none →
      exec (.mscl o) s = .next (ended o.hdr (s.modMat fun m =>
        if o.md.sub = 0 then { m with tsa := (s.rx o.oa).extractLsb' 0 32, tsb := (s.rx o.ob).extractLsb' 0 32 }
        else if o.md.sub = 1 then { m with fp4xa := (s.rx o.oa).extractLsb' 0 16, fp4xb := (s.rx o.ob).extractLsb' 0 16 }
        else { m with qbase := (s.rx o.oa).extractLsb' 0 32 }))) ∧
    (holdsMat s [1, 2] → s.mat.reads (accIx o.od) = false →
      (matFree s (fun p => p.acc.toNat == (accIx o.od).val) = .ok () → exec (.mzero o) s = .next (ended o.hdr (s.modMat fun m =>
        { m with acc := m.acc.set (accIx o.od) (Vector.replicate 1024 0),
                 badAcc := m.badAcc.filter (· != (accIx o.od).val) }))) ∧
      (o.oa = 0 → exec (.mhand o) s = .next (ended o.hdr (s.modMat fun m =>
        { m with hcode := m.hcode.set (accIx o.od) Cap.null, hword := m.hword.set (accIx o.od) 0 }))) ∧
      (o.oa ≠ 0 → codeCheck s.world (s.rc o.oa) false = none →
        exec (.mhand o) s = .next (ended o.hdr (s.modMat fun m =>
          { m with hcode := m.hcode.set (accIx o.od) (s.rc o.oa), hword := m.hword.set (accIx o.od) (s.rx o.ob) })))) ∧
    (holdsMat s [0, 1, 2, 3] → exec (.mstat o) s = .next (ended o.hdr (s.wx o.od s.mat.mstat)))) ∧
  (∀ (s : State) (o : ROp),
    (s.mat.holder ≠ some s.cur →
      (∀ i ∈ [Instr.mscl o, .mzero o, .mma o, .mmas o, .mrowrd o, .mrowwr o, .mstat o],
        exec i s = .next (s.takeTrap ⟨cMCFG, 1, 0⟩)) ∧
      exec (.mhand o) s = .next (s.takeTrap ⟨cMCFG, 1, (capCursor (s.rc o.oa)).toNat⟩)) ∧
    (holdsMat s [0, 3] →
      (∀ i ∈ [Instr.mzero o, .mma o, .mmas o, .mrowrd o, .mrowwr o], exec i s = .next (s.takeTrap ⟨cMCFG, 2, 0⟩)) ∧
      exec (.mhand o) s = .next (s.takeTrap ⟨cMCFG, 2, (capCursor (s.rc o.oa)).toNat⟩))) ∧
  (∀ s : State,
    (∀ o : MOp, holdsMat s [1, 2] →
      drainChecks s (s.rc o.oa) (mEa s o) (1024 * (laneBits s.mat.dty / 8)) = .ok () → accFree s (accIx o.od) = .ok () →
      ∃ d t, exec (.mdrain o) s = .next (handed t) ∧ t.mat.drains = s.mat.drains ++ [d] ∧
        d.acc = accIx o.od ∧ d.reading = true ∧ d.zero = (o.x == 1) ∧ d.row = 0 ∧ d.halted = false ∧ d.lost = [] ∧ d.cap = s.rc o.oa ∧ d.ea = BitVec.ofNat 64 (mEa s o) ∧
        d.sigSm = o.hdr.sigSm ∧ d.sigInc = o.hdr.sigInc ∧ d.tsa = s.mat.tsa ∧ d.tsb = s.mat.tsb ∧
        t.mat.acc = s.mat.acc ∧
        t.agenda = s.agenda ++ [.drainRowWrite]) ∧
    (∀ d, s.act = some .drainRowWrite → s.mat.drains = [d] → d.reading = true →
      ∃ t, exec .drainRowWrite s = .next t ∧ t.mat.drains = [{ d with reading := false, cells := s.mat.acc[d.acc] }] ∧
        t.mat.acc = (if d.zero then s.mat.acc.set d.acc (Vector.replicate 1024 0) else s.mat.acc)) ∧
    (∀ d ds, s.act = some .drainRowWrite → s.mat.drains = d :: ds → s.mat.drains.any (·.reading) = false →
      (d.row < 32 → d.halted = false → ∀ cs t, cs = (List.range 32).map d.cell →
        s.enginePut d.sl d.world (capLocal d.cap) (d.rowAt d.row) (cs.flatMap (·.1)) [] d.pc d.insn d.hint = .ok t →
        ∀ r, r = t.spawnRows { d with row := d.row + 1, flags := cs.foldl (fun f c => f ||| c.2) d.flags } 32 →
          exec .drainRowWrite s = .next (r.1.setDrain (some r.2)).drainOn) ∧
      (32 ≤ d.row ∨ d.halted = true → (List.range d.row).any (s.rowHeld d) = false → ∀ t, t = s.spawnRows d 32 →
        (d.halted = true ∨ d.lost ≠ [] → exec .drainRowWrite s = .next ((t.1.setDrain none).drainOn)) ∧
        (d.halted = false → d.lost = [] → exec .drainRowWrite s = .next ((((if d.own then (t.1.setDrain none).orFlags d.sl d.flags
          else t.1.setDrain none).engineSignal d.sl d.sigSm d.sigInc d.pc d.insn)).drainOn))))) ∧
  (∀ (s : State) (o : ROp), holdsMat s [1, 2] → o.md.ty = (if s.mat.fmt.isInt then 2 else 8) →
    ((s.rx o.ob).toNat < 32 → portOf s.sl o.od = none → accFree s (accIx o.oa) = .ok () →
      exec (.mrowrd o) s = .next (ended o.hdr (s.modCur fun sl => sl.wv o.od
        ((vMap 32 (kmOf s.sl o.md) (zmOf o.md) fun j =>
          ((((s.mat.acc[accIx o.oa].toList.drop (32 * (s.rx o.ob).toNat)).take 32).getD j 0).toNat, 0)).merge (sl.rv o.od))))) ∧
    ((s.rx o.oa).toNat < 32 → portOf s.sl o.ob = none → accFree s (accIx o.od) = .ok () →
      ∃ t, exec (.mrowwr o) s = .next (ended o.hdr t) ∧ (∀ a, a ≠ accIx o.od → t.mat.acc[a] = s.mat.acc[a]) ∧
        ∀ n : Fin 1024, t.mat.acc[accIx o.od][n] =
          if n.val / 32 = (s.rx o.oa).toNat then
            (if (kmOf s.sl o.md).getLsbD (n.val % 32) then BitVec.ofNat 32 (lane 32 (s.sl.rv o.ob) (n.val % 32))
              else if o.md.zm = 1 then 0 else s.mat.acc[accIx o.od][n])
          else s.mat.acc[accIx o.od][n])) ∧
  (∀ (s : State) (o : MOp) (b : Blob) (bytes : List Byte) (t u v : State), holdsMat s [1, 2, 3] → matIdle s = .ok () →
    (accessChecks s (s.rc o.oa) (mEa s o) 17536 pW .plain 128 = .ok () →
      (∃ ps, placed s (s.rc o.oa) (mEa s o) 17536 { w := true } = .ok ps) →
      b = matrixBlob 0 1024 s.mat s.wave → bytes = blobBytes b 1152 →
      storeArea s (s.rc o.oa) (mHint o) (mEa s o) (bytes.take 1024) (blobTags b) = .ok t →
      storeAccs t (s.rc o.oa) (mHint o) (mEa s o) (maskAccs o.od) = .ok u →
      storeArea u (s.rc o.oa) (mHint o) (mEa s o + 17408) (bytes.drop 1024) [] = .ok v →
      exec (.msave o) s = .next (ended o.hdr v)) ∧
    (∀ g l m img, accessChecks s (s.rc o.oa) (mEa s o) 17536 pR .plain 128 = .ok () →
      (∃ ps, placed s (s.rc o.oa) (mEa s o) 17536 { r := true } = .ok ps) →
      loadGrans s (s.rc o.oa) (mEa s o) (mHint o) 64 = .ok (g, t) →
      loadBytes t (s.rc o.oa) (mEa s o + 17408) 128 pR 1 (mHint o) = .ok (l, u) →
      img = ⟨(imgOf g).bytes ++ l, (imgOf g).tags⟩ → savedOk img = true →
      loadAccs u (s.rc o.oa) (mHint o) (mEa s o) (matrixOf img 0 1024 s.mat) (maskAccs o.od) = .ok (m, v) →
      exec (.mrest o) s = .next (ended o.hdr (({ v with
        mat := m,
        wave := if (matrixOf img 0 1024 s.mat).kind = 3 then { waveOf img 0 with tiles := s.wave.tiles }
          else s.wave } : State).post .latchReload))))

/-- After R117-R127: a latch load whose checks pass sets its part, whose data then arrive; a matrix product whose parts
have arrived changes its accumulator. Where the rules leave a reading open, this is the model's choice: log 33, 34,
36. -/
def Obligations.MatrixLatchesAndProductsComplete : Prop :=
  (∀ s : State,
    (∀ (b : Bool) (o : MOp) (d : LatchDesc) (p : Part), holdsMat s [1, 2] →
      (o.x = 1 → portOf s.sl o.ob = none) →
      (o.x = 1 → if s.mat.kind = 2 then o.oa = 29 else o.oa ≠ 29 ∧ (b && o.od.getLsbD 2) = false) →
      d = { valid := true, gather := o.x == 1, token := o.x == 1 && s.mat.kind == 2, kgather := b && o.od.getLsbD 2,
            scales := false, base := s.rc o.oa,
            off := if o.x = 1 then (o.off.signExtend 64) <<< 7 else BitVec.ofNat 64 (mEa s o),
            qbase := if o.x = 1 then s.mat.qbase else 0, lanes := if o.x = 1 then s.sl.rv o.ob else 0 } →
      latchPart s s.mat (partIx b o.od) d { nud := o.nud, lvl := o.lvl } = .ok p →
      matFree s (fun q => (partsRead q.sub q.apart).contains (partIx b o.od)) = .ok () →
      exec (if b then .mldb o else .mlda o) s =
        .next (ended o.hdr ((s.setPart (partIx b o.od) p).post (.latchDataArrival (partIx b o.od))))) ∧
    (∀ i h rows t, s.act = some (.latchDataArrival i) → s.mat.holder = some h → (s.mat.part i).pending = true →
      s.mat.reload = false →
      readPart (s.onSlot h) s.mat (s.mat.part i) = .ok (rows, t) →
      exec .latchDataArrival s = .next (t.setPart i { s.mat.part i with rows := some rows }).unstall) ∧
    (∀ h t, s.act = some .latchReload → s.mat.holder = some h → s.mat.reload = true →
      reloadAll (s.onSlot h) = .ok t → exec .latchReload s = .next t)) ∧
  (∀ s : State,
    (∀ o : ROp, holdsMat s [1, 2] → s.mat.busy = none → s.mat.reads (accIx o.od) = false → o.md.ty = s.mat.ty → (o.md.ty = 15 → o.md.isp.extractLsb' 0 2 = s.mat.r4) →
      (∀ is, is = partsRead 0 (o.md.isp.extractLsb' 2 2) → (is.all fun i => (s.mat.part i).desc.valid) = true →
        (is.all fun i => (s.mat.part i).err.isNone && (s.mat.part i).rows.isSome) = true →
        (is.filter fun i => (s.mat.part i).desc.token).length ≤ 1 →
        exec (.mma o) s = .next (ended o.hdr ((s.modMat fun m =>
          { m with busy := some ⟨⟨0, (accIx o.od).val, 0, o.md.isp.extractLsb' 2 2, o.md.sat == 1⟩, s.sl.tcx, false⟩ }).post
            .accumulatorComplete))) ∧
      (∀ sub is, sub = o.md.sub.extractLsb' 0 2 → sub ≠ 0 → is = partsRead sub 0 →
        (is.all fun i => (s.mat.part i).desc.valid) = true →
        (is.all fun i => (s.mat.part i).err.isNone && (s.mat.part i).rows.isSome) = true → (s.mat.part 4).bg = 0 →
        s.mat.bitmapsOk sub = true → (is.filter fun i => (s.mat.part i).desc.token).length = 0 →
        exec (.mmas o) s = .next (ended o.hdr ((s.modMat fun m =>
          { m with busy := some ⟨⟨0, (accIx o.od).val, sub, 0, o.md.sat == 1⟩, s.sl.tcx, false⟩ }).post
            .accumulatorComplete)))) ∧
    (∀ h t, s.act = some .accumulatorComplete → s.mat.holder = some h → t = s.modMat Matrix.advanced →
      (t.mat.busy.isSome = true → exec .accumulatorComplete s = .next (t.post .accumulatorComplete)) ∧
      (t.mat.busy = none → exec .accumulatorComplete s =
        .next ((t.orFlags h t.mat.flags).modMat fun m => { m with flags := 0 }).unstall)) ∧
    (∀ (m : Matrix) (p : Stopped) (tcx r : Bool), m.busy = some ⟨p, tcx, r⟩ → p.koff = 0 →
      ∃ n, n ≤ 64 ∧ Nat.iterate Matrix.advanced n m = m.product tcx p))

/-! ### Attention frames (R134-R156) -/

/-- After R134-R156: the frame instructions complete under the checks that each clause names, and a null cfr, a
capability that is no frame of the world, a frame that is not LIVE and a sealed frame have their causes. Where the rules
leave a reading open, this is the model's choice: log 37, 80, 82, 83, 91, 93-95. -/
def Obligations.FramesComplete : Prop :=
  (∀ (s u : State) (t : FTable) (i : Nat) (d : FDesc), u = s.dropWorld s.world → d = t.get i →
    (∀ o : ROp, frameCheck u (u.rc o.oa) = .ok (t, i) →
      exec (.fenter o) s = .next (ended o.hdr (u.wcfr (u.rc o.oa))) ∧
      exec (.fseal o) s = .next (ended o.hdr ((t.put i (d.setFld 396 1 1)).flush u)) ∧
      (d.sealedB = true → (d.kv.tag || capIsNull d.kv) = true →
        exec (.fshare o) s = .next (ended o.hdr
          ((t.put i ((d.setFld 400 8 (min (d.sharers + 1) 255)).setFld 397 1 1)).flush
            ((u.framePages u.world d).foldl (fun v p => v.sharePage u.world p) u))))) ∧
    (∀ o : ROp, cfrCheck u = .ok (t, i) → d.sealedB = false → (u.rx o.oa).toNat < 2 ^ 32 → (u.rx o.ob).toNat < 2 ^ 32 →
      (u.rx o.ob = 0 → exec (.farg o) s =
        .next (ended o.hdr ((t.put i (d.setFld (FDesc.argBase o.md.sub.toNat + 6) 1 0)).flush u))) ∧
      (∀ f j n, f = (u.rx o.oa).toNat / 2 ^ 26 → j = (u.rx o.oa).toNat % 2 ^ 26 → n = (u.rx o.ob).toNat → n ≠ 0 →
        (t.get f).live = true → (t.get f).edge ≤ j → j + n ≤ (t.get f).len →
        exec (.farg o) s = .next (ended o.hdr ((t.put i (d.setArg o.md.sub.toNat f true j n)).flush u))) ∧
      ((u.rx o.ob = 0 ∨ ((u.rx o.oa).toNat + (u.rx o.ob).toNat ≤ d.len ∧ d.edge ≤ (u.rx o.oa).toNat)) →
        exec (.fkeep o) s = .next (ended o.hdr ((t.put i (((d.setFld 416 32 (u.rx o.oa).toNat).setFld 448 32
          (u.rx o.ob).toNat).setFld 398 1 1)).flush u)))) ∧
    (∀ (o : RIOp) (v : Nat), cfrCheck u = .ok (t, i) → d.sealedB = false → regOrImm32 u o (t.addr i) = .ok v →
      d.win = 0 ∨ (v ≠ 0 ∧ v ≤ d.win) →
      exec (.fwin o) s = .next (ended (riHdr o) ((t.put i (d.setFld 352 32 v)).flush u)))) ∧
  (∀ (s u : State) (o : ROp), u = s.dropWorld s.world →
    (capIsNull u.cfr = true → ∀ i ∈ [Instr.farg o, .fkeep o, .fpop o, .fwin (.r o), .fappend (.r o)],
      exec i s = .next (u.takeTrap ⟨cFRMU, 2, 0⟩)) ∧
    (∀ q : IOp, ∀ i ∈ [Instr.fwin (.i q), .fappend (.i q)],
      (capIsNull u.cfr = true → exec i s = .next (u.takeTrap ⟨cFRMU, 2, 0⟩)) ∧
      ∀ t k, cfrCheck u = .ok (t, k) → (t.get k).sealedB = true → exec i s = .next (u.takeTrap ⟨cFRMS, 2, t.addr k⟩)) ∧
    (∀ c, c = u.rc o.oa → ∀ i ∈ [Instr.fenter o, .fseal o, .fshare o, .fdrop o],
      (c.tag = false → exec i s = .next (u.takeTrap ⟨cCAPT, 0, (capCursor c).toNat⟩)) ∧
      (c.tag = true → capOtype c ≠ 2 → exec i s = .next (u.takeTrap ⟨cCAPS, 0, (capCursor c).toNat⟩)) ∧
      (c.tag = true → capOtype c = 2 → (capWorld c).toNat ≠ u.world.val →
        exec i s = .next (u.takeTrap ⟨cCAPW, 0, (capCursor c).toNat⟩)) ∧
      (c.tag = true → capOtype c = 2 → (capWorld c).toNat = u.world.val → capHas c pFRAME = false →
        exec i s = .next (u.takeTrap ⟨cCAPP, 0, (capCursor c).toNat⟩)) ∧
      (c.tag = true → capOtype c = 2 → (capWorld c).toNat = u.world.val → capHas c pFRAME = true → tableShape c = false →
        exec i s = .next (u.takeTrap ⟨cCAPB, 0, (capCursor c).toNat⟩)) ∧
      (∀ t, c.tag = true → capOtype c = 2 → (capWorld c).toNat = u.world.val → capHas c pFRAME = true →
        tableShape c = true → readTable u c = .ok t → (t.get (t.slotOf c)).live = false →
        exec i s = .next (u.takeTrap ⟨cFRMV, 1, t.addr (t.slotOf c)⟩))) ∧
    (∀ t i, cfrCheck u = .ok (t, i) → (t.get i).sealedB = true →
      ∀ j ∈ [Instr.farg o, .fkeep o, .fwin (.r o), .fappend (.r o)],
        exec j s = .next (u.takeTrap ⟨cFRMS, 2, t.addr i⟩)) ∧
    (∀ t i, frameCheck u (u.rc o.oa) = .ok (t, i) → (t.get i).sealedB = false →
      exec (.fshare o) s = .next (u.takeTrap ⟨cFRMS, 3, t.addr i⟩))) ∧
  (∀ (s u : State) (t : FTable) (i : Nat) (d : FDesc), u = s.dropWorld s.world → d = t.get i →
    (∀ (o : RIOp) (n : Nat) (v : State), cfrCheck u = .ok (t, i) → d.sealedB = false →
      regOrImm32 u o (t.addr i) = .ok n → d.len + n ≤ d.cap → (d.kv.tag || capIsNull d.kv) = true →
      mapPages u (t.addr i) (d.pages d.len (d.len + n)) = .ok v →
      pagesReplayed v (t.addr i) (d.pages d.len (d.len + n)) = .ok () →
      ∀ d2, d2 = d.setFld 256 32 (d.len + n) → gathersRead v (v.pagesBehind u.world d2) = .ok () →
      exec (.fappend o) s = .next (ended (riHdr o)
        ((((t.put i d2).flush v).releasePages u.world (v.pagesBehind u.world d2)).wx (riOd o)
          (BitVec.ofNat 64 (d.len + n))))) ∧
    (∀ o : ROp, capIsNull u.cfr = true →
      exec (.fvis o) s = .next (ended o.hdr (u.wp o.od false)) ∧
      (portOf u.sl o.oa = none → exec (.fmask o) s = .next (ended o.hdr (u.wk o.od
        (if o.md.zm = 1 then 0 else u.rk o.od &&& ~~~ kmOf u.sl o.md &&& lowMask 32))))) ∧
    (∀ o : ROp, capIsNull u.cfr = false → frameCheck u u.cfr = .ok (t, i) →
      (∀ v, visible u t i ((u.rx o.oa).toNat % 2 ^ 32) ((u.rx o.ob).toNat % 2 ^ 32) = .ok v →
        exec (.fvis o) s = .next (ended o.hdr (u.wp o.od v))) ∧
      (∀ r, portOf u.sl o.oa = none →
        maskLanes u t i (kmOf u.sl o.md) (zmOf o.md) (u.rk o.od) (u.sl.rv o.oa) ((u.rx o.ob).toNat % 2 ^ 32) 32 = .ok r →
        exec (.fmask o) s = .next (ended o.hdr (u.wk o.od r)))) ∧
    (∀ (o : RIOp) (n : Nat), frameCheck u (u.rc (riOa o)) = .ok (t, i) →
      n = (match o with
        | .r r => (u.rx r.ob).toNat
        | .i r => r.imm.toNat) →
      ((riMd o).sub = 0 → n ≤ 12 → exec (.fdesc o) s = .next (ended (riHdr o) (u.wx (riOd o) (BitVec.ofNat 64 (d.number n))))) ∧
      ((riMd o).sub ≠ 0 → n = 0 → (d.parent.tag || capIsNull d.parent) = true →
        exec (.fdesc o) s = .next (ended (riHdr o) (u.wcFrame (riOd o) d.parent))) ∧
      ((riMd o).sub ≠ 0 → n = 1 → (d.kv.tag || capIsNull d.kv) = true →
        exec (.fdesc o) s = .next (ended (riHdr o) (u.wcFrame (riOd o) d.tail))) ∧
      ((riMd o).sub ≠ 0 → n = 2 → (d.rot.tag || capIsNull d.rot) = true →
        exec (.fdesc o) s = .next (ended (riHdr o) (u.wcFrame (riOd o) (capWithPerm d.rot (capPerm d.rot &&& pR))))))) ∧
  (∀ (s u : State) (o : ROp) (p : PushFrom) (i slice fits req cap : Nat), u = s.dropWorld s.world →
    capCheckKind u.world (u.rc o.oa) (pR ||| pW) = none →
    (if o.oc = 0 then pushChild u o else pushRoot u o) = .ok p →
    (List.range 64).find? (fun i => !(p.t.get i).live) = some i →
    slice = capLen (u.rc o.oa) / 64 → fits = slice / p.rowb → req = (u.rx o.ob).toNat % 2 ^ 32 →
    cap = (if req = 0 then fits else req) →
    p.wordOk = true → rowbOk p.rowb = true → capLen (u.rc o.oa) % 2 ^ 22 = 0 →
    capBase (u.rc o.oa) % 2 ^ 16 = 0 → req ≤ fits →
    ∃ fc, fc = capWithOtype (capWithCursor p.tabCap (BitVec.ofNat 64 (p.t.addr i))) 2 ∧
      exec (.fpush o) s = .next (ended o.hdr
        ((((p.t.put i (newDesc p i cap (kvCap u (u.rc o.oa) (capBase (u.rc o.oa) + i * slice) (cap * p.rowb)))).flush
          u).wcFrame o.od fc).wcfr fc))) ∧
  (∀ (s u : State) (o : ROp) (t : FTable) (ci : Nat) (c : FDesc), u = s.dropWorld s.world → c = t.get ci →
    (∀ gi g kl, cfrCheck u = .ok (t, ci) → c.parent.tag = true → c.sharers ≤ 1 → childless u t ci 64 = .ok () →
      gi = t.slotOf c.parent → g = t.get gi → kl = (if c.keepset then c.klen else 0) →
      (kl = 0 ∨ (g.sealedB = false ∧ c.edge ≤ c.kstart)) → g.len + kl ≤ g.cap →
      (c.kv.tag || capIsNull c.kv) = true → (g.kv.tag || capIsNull g.kv) = true →
      ∀ s1 s2 fl, mapPages u (t.addr gi) (g.pages g.len (g.len + kl)) = .ok s1 →
        copyRows s1 c g (if kl = 0 then 0 else ((g.posb + g.len : Nat) : Int) - (c.posb + c.kstart : Nat)) (t.addr ci) 0 kl =
          .ok (s2, fl) →
        ∀ g2 r s3 t2, g2 = g.setFld 256 32 (g.len + kl) → r = s2.releasePages u.world (s2.pagesBehind u.world g2) →
          gathersRead s2 (s2.pagesBehind u.world g2 ++ s2.framePages u.world c) = .ok () →
          s3 = r.releasePages u.world (r.framePages u.world c) → t2 = (t.put gi g2).put ci .zero →
          exec (.fpop o) s = .next (ended o.hdr
            ((((({ t2 with descs := t2.descs.map fun d => d.dropSpans ci } : FTable).flush s3).wcfr c.parent).orFlags
              (((({ t2 with descs := t2.descs.map fun d => d.dropSpans ci } : FTable).flush s3).wcfr c.parent)).cur fl).wx o.od
              (BitVec.ofNat 64 g.len)))) ∧
    (frameCheck u (u.rc o.oa) = .ok (t, ci) → (c.parent.tag || capIsNull c.parent) = true →
      (c.kv.tag || capIsNull c.kv) = true →
      ∀ same, cfrNames u t ci = .ok same →
        (c.sharers = 255 → exec (.fdrop o) s = .next (ended o.hdr (if same then u.wcfr c.parent else u))) ∧
        (c.sharers < 2 → childless u t ci 64 = .ok () → gathersRead u (u.framePages u.world c) = .ok () → ∀ v, v = ({ t.put ci .zero with
            descs := (t.put ci .zero).descs.map fun x => x.dropSpans ci } : FTable).flush
              (u.releasePages u.world (u.framePages u.world c)) →
          exec (.fdrop o) s = .next (ended o.hdr (if same then v.wcfr c.parent else v))) ∧
        (2 ≤ c.sharers → c.sharers ≠ 255 → ∀ v, v = (t.put ci ((c.setFld 400 8 (c.sharers - 1)).setFld 397 1
            (if 2 < c.sharers then 1 else 0))).flush (u.releasePages u.world (u.framePages u.world c)) →
          exec (.fdrop o) s = .next (ended o.hdr (if same then v.wcfr c.parent else v)))))

/-! ### The wavefront array and the transform coprocessor (R158-R186) -/

/-- After R157-R171: the wavefront instructions of a slot that holds the array complete under the checks that each
clause names, and so does the oldest tile. Where the rules leave a reading open, this is the model's choice: log 38, 45,
96, 97. -/
def Obligations.WavefrontCompletes : Prop :=
  (∀ s : State, holdsMat s [3] →
    (∀ o : ROp, matIdle s = .ok () → ruleOk ((s.rx o.oa).extractLsb' 0 32) = true →
      ((s.rx o.oa).getLsbD 5 = false → o.oc = 0 → exec (.wcfg (.r o)) s = .next (ended o.hdr (s.modWave fun w =>
        { w with rule := (s.rx o.oa).extractLsb' 0 32, gap := (s.rx o.ob).extractLsb' 0 32, tableCap := Cap.null,
                 table := [] }))) ∧
      (∀ t u, (s.rx o.oa).getLsbD 5 = true → o.oc ≠ 0 →
        capCheck s.world (s.rc o.oc) (capCursor (s.rc o.oc)).toNat 1024 pR = none → readTableOf s (s.rc o.oc) = .ok (t, u) →
        exec (.wcfg (.r o)) s = .next (ended o.hdr (u.modWave fun w =>
          { w with rule := (s.rx o.oa).extractLsb' 0 32, gap := (s.rx o.ob).extractLsb' 0 32, tableCap := s.rc o.oc,
                   table := t })))) ∧
    (∀ o : XOp, matIdle s = .ok () →
      (o.sub = 0 → ruleOk o.imm = true → (o.imm.getLsbD 5 && capIsNull s.wave.tableCap) = false →
        exec (.wcfg (.x o)) s = .next (ended o.hdr (s.modWave fun w => { w with rule := o.imm }))) ∧
      (o.sub ≠ 0 → exec (.wcfg (.x o)) s = .next (ended o.hdr (s.modWave fun w => { w with gap := o.imm })))) ∧
    (∀ (o : RIOp) (lo hi : BitVec 32), matIdle s = .ok () →
      (lo, hi) = (match o with
        | .r o => ((s.rx o.oa).extractLsb' 0 32, (s.rx o.ob).extractLsb' 0 32)
        | .i o => ((o.imm.extractLsb' 0 16).signExtend 32, (o.imm.extractLsb' 16 16).signExtend 32)) →
      lo.toInt ≤ hi.toInt →
      exec (.wband o) s = .next (ended (riHdr o) (s.modWave fun w => { w with lo := lo, hi := hi }))) ∧
    (∀ o : ROp, portOf s.sl o.oa = none → portOf s.sl o.ob = none → planeWrite s (s.rc o.od) false = .ok () →
      exec (.wseq o) s = .next (ended o.hdr (s.modWave fun w => { w with
        staged := some ⟨s.rc o.od, s.rx o.oc, (s.sl.rv o.oa).extractLsb' 0 256, (s.sl.rv o.ob).extractLsb' 0 256⟩ }))) ∧
    (∀ (o : ROp) (t : Staged), s.wave.staged = some t →
      (wRegs s.wave o ++ if o.md.isp.extractLsb' 0 2 = 0 then [o.oe] else []).forM (noPort s) = .ok () →
      planeWrite s t.cap (s.wave.aff && s.wave.w32 && (wEdges o).contains 63) = .ok () → s.wave.tiles.length < 2 →
      ∀ rows, rows = wTile s.wave.wrule (wInputs s.sl s.wave.wrule t o) →
        exec (.wtile o) s = .next (handed ((s.modWave fun w => { w with
          staged := none, tiles := w.tiles ++ [⟨s.cur, wOutputs s.wave.wrule o rows, t.cap, wPlane s.wave.wrule rows,
            o.hdr.sigSm, o.hdr.sigInc, s.sl.pc, s.insn⟩] }).post .wtileComplete))) ∧
    (∀ (o : MOp) (ps : List Piece), portOf s.sl o.od = none →
      (∀ bs u, accessChecks s (s.rc o.oa) (mEa s o) 128 pR .fullEmpty 128 = .ok () → lineWait s .full (mEa s o) = .ok () →
        placed s (s.rc o.oa) (mEa s o) 128 { r := true } = .ok ps → loadPieces s ps = .ok (bs, u) →
        exec (.wbget o) s = .next (ended o.hdr
          (if o.x = 1 then (u.modCur (·.wv o.od (BitVec.ofNat 1024 (leNat bs)))).setLineFull (mEa s o) false
            else u.modCur (·.wv o.od (BitVec.ofNat 1024 (leNat bs)))))) ∧
      (∀ u, accessChecks s (s.rc o.oa) (mEa s o) 128 pW .fullEmpty 128 = .ok () →
        (o.x = 1 → releaseWait s 1 = .ok () ∧ lineWait s .empty (mEa s o) = .ok ()) → placed s (s.rc o.oa) (mEa s o) 128 { w := true } = .ok ps →
        storePieces s ps (leBytes 128 (s.sl.rv o.od).toNat) [] = .ok u →
        exec (.wbput o) s = .next (ended o.hdr (u.setLineFull (mEa s o) true)))) ∧
    (∀ (o : ROp) (c : Cap) (w : Walker) (bs : List Byte) (u : State), c = s.rc o.ob → matIdle s = .ok () →
      portOf s.sl o.od = none → (o.md.sub = 1 → portOf s.sl o.oc = none ∧ portOf s.sl o.oe = none) →
      capCheck s.world c (capCursor c).toNat s.wave.planeBytes pR = none → capLocal c = true →
      (capCursor c).toNat % s.wave.planeBytes = 0 → w = walkerOf (s.rx o.oa) → w.row < 32 → w.col < 32 →
      (w.st = 0 ∨ (w.st < 3 ∧ s.wave.aff = true)) → loadBytes s c (capCursor c).toNat s.wave.planeBytes pR 1 = .ok (bs, u) →
      ∀ x, x = walkTile s.wave.aff bs (fun i j => o.md.sub = 1 && lane 8 (s.sl.rv o.oc) i != lane 8 (s.sl.rv o.oe) j) 130 w →
        exec (.tbwalk o) s = .next (ended o.hdr ((u.modCur (·.wv o.od (BitVec.ofNat 1024
          (leNat (x.out ++ List.replicate (128 - x.out.length) 0xFF))))).wx o.oa x.word)))) ∧
  (∀ (s u v : State) (t : Tile) (rest : List Tile), s.act = some .wtileComplete → s.wave.tiles = t :: rest →
    u = (s.modWave fun w => { w with tiles := rest }).modSlot t.sl
      (fun sl => { sl with v := t.regs.foldl (fun v p => v.set p.1 p.2) sl.v }) →
    u.enginePut t.sl (u.slot t.sl).world true (capCursor t.cap).toNat t.plane [] t.pc t.insn = .ok v →
    exec .wtileComplete s = .next (v.engineSignal t.sl t.sigSm t.sigInc t.pc t.insn))

/-- After R163: a cell in the band takes the best of its candidates: none of the diagonal, the gap above, the gap on the
left, and in mode 1 zero, is better than it, and it is one of them; with affine gaps each gap plane takes the better of
opening and extending, which its bit of the code tells, and the planes are the gap candidates; a cell outside the band
is the worst value in every plane. -/
def Obligations.WavefrontCellIsBest : Prop :=
  (∀ (r : WRule) (s hd hu fu hl el : Int) (c : WCell), r.aff = false → c = r.cell true s hd hu fu hl el →
    (∀ v ∈ [r.plus hd s, r.plus hu r.gext, r.plus hl r.gext] ++ (if r.mode = 1 then [0] else []), r.better v c.h = false) ∧
    c.h ∈ [r.plus hd s, r.plus hu r.gext, r.plus hl r.gext] ++ (if r.mode = 1 then [0] else []) ∧
    (c.code = 0 ↔ r.better (r.plus hu r.gext) (r.plus hd s) = false ∧ r.better (r.plus hl r.gext) (r.plus hd s) = false ∧
      (r.mode = 1 → r.better 0 (r.plus hd s) = false)) ∧
    (r.cell false s hd hu fu hl el).h = r.worst) ∧
  ∀ (r : WRule) (s hd hu fu hl el e1 e2 f1 f2 : Int) (c : WCell), r.aff = true → c = r.cell true s hd hu fu hl el →
    e1 = r.plus hl (r.gopen + r.gext) → e2 = r.plus el r.gext → f1 = r.plus hu (r.gopen + r.gext) → f2 = r.plus fu r.gext →
    (c.e ∈ [e1, e2] ∧ r.better e1 c.e = false ∧ r.better e2 c.e = false ∧ (c.code.testBit 2 = true ↔ r.better e2 e1 = true)) ∧
    (c.f ∈ [f1, f2] ∧ r.better f1 c.f = false ∧ r.better f2 c.f = false ∧ (c.code.testBit 3 = true ↔ r.better f2 f1 = true)) ∧
    (∀ v ∈ [r.plus hd s, c.f, c.e] ++ (if r.mode = 1 then [0] else []), r.better v c.h = false) ∧
    c.h ∈ [r.plus hd s, c.f, c.e] ++ (if r.mode = 1 then [0] else []) ∧
    (c.code % 4 = 0 ↔ r.better c.f (r.plus hd s) = false ∧ r.better c.e (r.plus hd s) = false ∧
      (r.mode = 1 → r.better 0 (r.plus hd s) = false)) ∧
    r.cell false s hd hu fu hl el = ⟨r.worst, r.worst, r.worst, 3⟩

/-- After R178-R186: a request that passes R182 is accepted while the queue has room, with p(OD) true, and answered with
p(OD) false when it has none; xpoll counts the slot's requests; the coprocessor runs the oldest. Where the rules leave a
reading open, this is the model's choice: log 3, 39. -/
def Obligations.TransformCompletes : Prop :=
  ∀ s : State,
    (∀ (o : ROp) (p : Instr × BitVec 2), p ∈ [(Instr.xexp o, xExp), (.xcmp o, xCmp), (.xquant o, xQuant), (.xconv o, xConv)] →
      xChecks s (xRequest s o p.2) = .ok () →
      (s.cl.xreqs.length < 4 → exec p.1 s = .next (handed (((s.modCl fun c =>
        { c with xreqs := c.xreqs ++ [xRequest s o p.2], xbusy := 0, xresv := false }).wp o.od true).post
          .transformRequestExecute))) ∧
      (4 ≤ s.cl.xreqs.length → s.cl.xbusy < 7 → exec p.1 s = .next (handed ((s.restoreWait.modCl fun c =>
        { c with xbusy := c.xbusy + 1, xresv := true }).wp o.od false))) ∧
      (4 ≤ s.cl.xreqs.length → 7 ≤ s.cl.xbusy → ∃ t, exec p.1 s = .next t ∧ t.sl.status = .waiting .pool 0 ∧
        t.sl.pcc = s.sl.pcc ∧ t.cl = s.cl)) ∧
    (∀ o : ROp, exec (.xpoll o) s = .next (ended o.hdr (s.wx o.od
      (BitVec.ofNat 64 (s.cl.xreqs.filter fun q => q.sl == s.cur && q.own).length)))) ∧
    (s.act = some .transformReservedEntry → s.cl.xreqs.length < 4 →
      exec .transformReservedEntry s = .next (s.rouseAll fun k _ => k == .pool)) ∧
    (∀ (q : Xreq) (rest : List Xreq) (r : List Byte × List Byte × Flags), s.act = some .transformRequestExecute →
      s.cl.xreqs = q :: rest → s.xFail q = none →
      r = xCompute q (s.bytes (locKey (capCursor q.src).toNat) q.srcLen) (s.bytes (locKey (capCursor q.scl).toNat) q.sclLen) →
      ∀ u, u = (s.engineWrite (locKey (capCursor q.dst).toNat) r.1).engineWrite (locKey (capCursor q.scl).toNat) r.2.1 →
        exec .transformRequestExecute s = .next
          (((if q.own then u.orFlags q.sl r.2.2 else u).engineSignal q.sl q.sigSm q.sigInc q.pc q.insn).xFreed))

/-! ### Memory (R209-R222) -/

/-- After R209-R219, R222: loads, stores, FIFO accesses, gathers, scatters, full/empty accesses, line instructions,
migration, copies and fences complete where their checks pass and what they name can be reached. Where the rules leave a
reading open, this is the model's choice: log 40-46, 51, 64, 99. -/
def Obligations.MemoryInstructionsComplete : Prop :=
  (∀ (s u : State) (o : MOp) (c : Cap) (ea n al : Nat), c = s.rc o.oa → ea = mEa s o → n = szBytes o.size →
    al = (if o.ord = 0 then 1 else n) →
    (∀ bs v, accessChecks s c ea n pR .plain al = .ok () → scWait u o.ord o.scope = .ok () →
      (travel s c ea false = .ok u → loadBytes u c ea n pR al (mHint o false) = .ok (bs, v) →
        exec (.ld o) s = .next (ended o.hdr ((v.acquired o.ord o.scope).wx o.od (extBytes bs (o.x == 1))))) ∧
      (travel s c ea true = .ok u → loadBytes u c ea n pR al (mHint o true) = .ok (bs, v) →
        exec (.ldm o) s = .next (ended o.hdr ((v.acquired o.ord o.scope).wx o.od (extBytes bs (o.x == 1)))))) ∧
    (∀ v, accessChecks s c ea n pW .plain al = .ok () → travel s c ea false = .ok u → scWait u o.ord o.scope = .ok () →
      storeBytes u c ea (leBytes n (u.rx o.od).toNat) al (mStore o) = .ok v → exec (.st o) s = .next (ended o.hdr v)) ∧
    (fifoUse c = false → ∀ g v, accessChecks s c ea 16 pR .plain 16 = .ok () → travel s c ea false = .ok u →
      scWait u o.ord o.scope = .ok () → loadGran u c ea pR .plain (mHint o) = .ok (g, v) →
      exec (.ldc o) s = .next (ended o.hdr ((v.acquired o.ord o.scope).wc o.od (keepTag o.size (u.filterCap g))))) ∧
    (fifoUse c = false → ∀ v, accessChecks s c ea 16 (stcPerm (keepTag o.size (s.rc o.od))) .plain 16 = .ok () →
      travel s c ea false = .ok u → scWait u o.ord o.scope = .ok () →
      storeGran u c ea (keepTag o.size (s.rc o.od)) .plain (mStore o) = .ok v → exec (.stc o) s = .next (ended o.hdr v)) ∧
    (portOf s.sl o.od = none → fifoUse c = false →
      (∀ bs v, loadBytes s c ea 128 pR 16 (mHint o) = .ok (bs, v) →
        exec (.vld o) s = .next (ended o.hdr
          ((v.acquired o.ord o.scope).modCur (·.wv o.od (BitVec.ofNat 1024 (leNat bs)))))) ∧
      (∀ v, accessChecks s c ea 128 pW .plain 16 = .ok () → scWait s o.ord o.scope = .ok () →
        storeBytes s c ea (leBytes 128 (s.sl.rv o.od).toNat) 16 (mStore o) = .ok v →
        exec (.vst o) s = .next (ended o.hdr v)))) ∧
  (∀ (s : State) (o : MOp) (c : Cap) (ea : Nat), c = s.rc o.oa → ea = mEa s o → fifoUse c = true →
    (∀ g gs u, u = s.goHome s.cur → fifoChecks s c ea 16 pR o.ord = .ok () → u.fifo (fifoIx ea) = g :: gs →
      u.fifoBehind .fpop (fifoIx ea) = false →
      (u.fifoBad (fifoIx ea) 1 = true → exec (.ldc o) s = .next (u.takeTrap ⟨cMEMERR, 0, ea⟩)) ∧
      (u.fifoBad (fifoIx ea) 1 = false → exec (.ldc o) s = .next (ended o.hdr ((u.fifoTaken (fifoIx ea) 1).wc o.od
        (keepTag o.size ⟨(u.filterCap g).tag && capHas c pCL, (u.filterCap g).bits⟩))))) ∧
    (∀ v u, u = s.goHome s.cur → v = keepTag o.size (s.rc o.od) → fifoChecks s c ea 16 (stcPerm v) o.ord = .ok () →
      releaseWait u 1 = .ok () → (u.fifo (fifoIx ea)).length < 8192 → u.fifoBehind .fpush (fifoIx ea) = false →
      exec (.stc o) s = .next (ended o.hdr (u.fifoPut (fifoIx ea) [u.filterCap v]))) ∧
    (portOf s.sl o.od = none →
      (fifoChecks s c ea 128 pR o.ord = .ok () → 8 ≤ (s.fifo (fifoIx ea)).length → s.fifoBehind .fpop (fifoIx ea) = false →
        s.fifoBad (fifoIx ea) 8 = false → exec (.vld o) s = .next (ended o.hdr ((s.fifoTaken (fifoIx ea) 8).modCur
          (·.wv o.od (lineOf (((s.fifo (fifoIx ea)).take 8).map s.filterCap)))))) ∧
      (fifoChecks s c ea 128 pW o.ord = .ok () → releaseWait s 1 = .ok () → (s.fifo (fifoIx ea)).length + 8 ≤ 8192 →
        s.fifoBehind .fpush (fifoIx ea) = false →
        exec (.vst o) s = .next (ended o.hdr (s.fifoPut (fifoIx ea) ((granulesOf (s.sl.rv o.od)).map s.filterCap)))))) ∧
  (∀ (s : State) (o : MOp) (c : Cap) (ea n : Nat), c = s.rc o.oa → ea = mEa s o → n = szBytes o.size →
    (portOf s.sl o.od = none → portOf s.sl o.ob = none →
      (∀ live sup bits v, lanesChecked s o pR { r := true } = .ok (live, sup) →
        gatherLoad s c n (mHint o) live = .ok (bits, v) →
        exec (.vldg o) s = .next (ended o.hdr (supMask o sup (v.modCur (·.wv o.od (BitVec.ofNat 1024 bits)))))) ∧
      (∀ live sup v, lanesChecked s o pW { w := true } = .ok (live, sup) →
        scatterStore s c n (s.sl.rv o.od).toNat (mStore o) live = .ok v →
        exec (.vsts o) s = .next (ended o.hdr (supMask o sup v)))) ∧
    (accessChecks s c ea n pR .fullEmpty n = .ok () → granuleWait s .full ea = .ok () →
      (∀ g v t, o.size = 6 → loadGran s c ea pR .fullEmpty = .ok (g, v) →
        t = (if 2 ≤ s.fullScope (locKey ea / 16) then (v.wc o.od (s.filterCap g)).dropWorld s.world
          else v.wc o.od (s.filterCap g)) →
        exec (.ldfe o) s = .next (ended o.hdr (if o.x = 1 then t.setFull (locKey ea / 16) false else t))) ∧
      (∀ ps bs v t, o.size ≠ 6 → placed s c ea n { r := true } = .ok ps → loadPieces s ps = .ok (bs, v) →
        t = (if 2 ≤ s.fullScope (locKey ea / 16) then (v.wx o.od (extBytes bs false)).dropWorld s.world
          else v.wx o.od (extBytes bs false)) →
        exec (.ldfe o) s = .next (ended o.hdr (if o.x = 1 then t.setFull (locKey ea / 16) false else t)))) ∧
    ((o.x = 1 → releaseWait s 1 = .ok ()) → granuleWait s .empty ea = .ok () →
      (∀ v, o.size = 6 → accessChecks s c ea n (stcPerm (s.rc o.od)) .fullEmpty n = .ok () →
        storeGran s c ea (s.rc o.od) .fullEmpty = .ok v →
        exec (.stfe o) s = .next (ended o.hdr (if o.x = 1 then v.setFull (locKey ea / 16) true else v))) ∧
      (∀ ps v, o.size ≠ 6 → accessChecks s c ea n pW .fullEmpty n = .ok () → placed s c ea n { w := true } = .ok ps →
        storePieces s ps (leBytes n (s.rx o.od).toNat) [] = .ok v →
        exec (.stfe o) s = .next (ended o.hdr (if o.x = 1 then v.setFull (locKey ea / 16) true else v))))) ∧
  (∀ (s u : State),
    (∀ (o : MOp) (key main va len : Nat), lineChecks s o = .ok u →
      placed u (u.rc o.oa) (mEa u o) 1 { r := true } = .ok [⟨.at key main, va, len⟩] →
      exec (.pref o) s = .next (ended o.hdr (if keyIsCl key then u
        else prefLine u (u.rc o.oa) (mHint o) ⟨.at key main, va, len⟩)) ∧
      exec (.lflush o) s = .next (ended o.hdr (if keyIsCl key then u else (u.cleanLine u.world key va).dropLine u.world va)) ∧
      exec (.linv o) s = .next (ended o.hdr (if keyIsCl key then u else u.dropLine u.world va))) ∧
    (∀ (o : MOp) (f : Fail) (t : State), lineChecks s o = .ok u →
      placed u (u.rc o.oa) (mEa u o) 1 { r := true } = .error (.trap f, t) →
      exec (.lflush o) s = .next (ended o.hdr u) ∧ exec (.linv o) s = .next (ended o.hdr u) ∧
      exec (.pref o) s = .next (if f.cause = cKVPA then u.takeTrap f else ended o.hdr u)) ∧
    (∀ (o : MOp), accessChecks s (s.rc o.oa) (mEa s o) 1 pR .plain 1 = .ok () →
      ((capLocal (s.rc o.oa) = false ∧ s.sealedVa s.world (mEa s o) = true) → exec (.mig o) s = .next (ended o.hdr s)) ∧
      ((capLocal (s.rc o.oa) = true ∨ s.sealedVa s.world (mEa s o) = false) →
      travel s (s.rc o.oa) (mEa s o) true = .ok u → mapped u (s.rc o.oa) (mEa s o) 1 { r := true } = .ok () →
      exec (.mig o) s = .next (ended o.hdr u))) ∧
    (∀ o : ROp, exec (.home o) s = .next (ended o.hdr (s.goHome s.cur))) ∧
    (∀ (o : ROp) (d c : CopyCmd), d = cpyCommand s o → c = (if d.raw then d else { d with rm := s.sl.rmCode o.md.rm }) →
      d.malformed = false →
      copyCheck s c = .ok () → copyFirstPage s c = .ok () → s.sl.copies.length < 8 →
      exec (.cpy o) s = .next (handed ((s.modCur fun sl => { sl with copies := sl.copies ++ [c] }).post .copyChunk))) ∧
    (∀ (o : ROp) (gs : List Cap) (d c e : CopyCmd),
      accessChecks s (s.rc o.oa) (capCursor (s.rc o.oa)).toNat 64 pR .plain 64 = .ok () →
      loadGrans s (s.rc o.oa) (capCursor (s.rc o.oa)).toNat {} 4 = .ok (gs, u) → copyOf (imgOf gs) 0 = some d →
      c = { d with
        sigSm := o.hdr.sigSm, sigInc := o.hdr.sigInc, tcx := u.sl.tcx, fib := u.sl.fib, pc := u.sl.pc, insn := u.insn } →
      e = (if c.raw then c else { c with rm := u.sl.rmCode c.rm }) → c.malformed = false → copyCheck u e = .ok () →
      copyFirstPage u e = .ok () → u.sl.copies.length < 8 →
      exec (.cpyq o) s = .next (handed ((u.modCur fun sl => { sl with copies := sl.copies ++ [e] }).post .copyChunk))) ∧
    (∀ o : ROp, (2 ≤ o.md.sub.toNat % 8 → releaseWait s (o.md.isp.toNat % 8) = .ok ()) →
      exec (.fence o) s = .next (ended o.hdr (s.acquired (o.md.sub.extractLsb' 0 3) (o.md.isp.extractLsb' 0 3)))))

/-! ### Atomics and reductions (R223-R225) -/

/-- After R223-R225: the atomics, on data and on capabilities, and the reductions complete where their checks pass and
their operand can be reached. Where the rules leave a reading open, this is the model's choice: log 43, 47. -/
def Obligations.AtomicsAndReductionsComplete : Prop :=
  (∀ (s u v t : State) (o : MOp) (h : Hint) (p : Piece) (bs : List Byte) (tag : Bool) (n m b : Nat) (need : Need),
    need = { r := true, w := true } → atomicGo s o (pR ||| pW) = .ok u →
    placed u (u.rc o.oa) (mEaAtomic u o) (szBytes o.size) need = .ok [p] →
    arrive u u.world [p] = .ok v → h = mHint o true → n = szBytes o.size → m = leNat bs →
    b = (u.rx o.ob).toNat % 2 ^ (8 * n) →
    (∀ q ∈ [(Instr.amoadd o, AmoOp.add, n == 8 && b == 1, (m + b) % 2 ^ (8 * n)),
        (.amomin o, .min, false, if intDecode (o.x == 1) (8 * n) b < intDecode (o.x == 1) (8 * n) m then b else m),
        (.amomax o, .max, false, if intDecode (o.x == 1) (8 * n) m < intDecode (o.x == 1) (8 * n) b then b else m),
        (.amoand o, .and, false, m &&& b), (.amoor o, .or, false, m ||| b), (.amoxor o, .xor, false, m ^^^ b)] ++
          (if o.size = 6 then [] else [(.amoswp o, .swap, false, b)]),
      atomicRead v p need h (.atomic q.2.1 (o.x == 1), b) = .ok (bs, tag, t) →
      exec q.1 s = .next (ended o.hdr (((atomicWrite (flagged t 0) p h q.2.2.1 (some (leBytes n q.2.2.2))).acquired o.ord o.scope).wx
        o.od (extBytes bs (o.x == 1))))) ∧
    (∀ e, o.size ≠ 6 → e = (s.rx o.od).toNat % 2 ^ (8 * n) →
      atomicRead v p need h (.atomic (.cas e) (o.x == 1), b) = .ok (bs, tag, t) →
      exec (.amocas o) s = .next (ended o.hdr (((atomicWrite (flagged t 0) p h false
        (if m = e then some (leBytes n b) else none)).acquired o.ord o.scope).wx o.od (extBytes bs (o.x == 1))))) ∧
    (∀ r, r = faddCode (Rm.ofCode (s.sl.rmCode 0).toNat) n (o.x == 1) m b →
      atomicRead v p need h (.atomic (.fadd (s.sl.rmCode 0)) (o.x == 1), b) = .ok (bs, tag, t) →
      (masked t r.2 → exec (.amofadd o) s = .next (ended o.hdr
        (((atomicWrite (flagged t r.2) p h false (some (leBytes n r.1))).acquired o.ord o.scope).wx o.od (extBytes bs false)))) ∧
      (¬ masked t r.2 → exec (.amofadd o) s = .next (t.takeTrap ⟨cFPE, r.2.toNat, 0⟩)))) ∧
  (∀ (s u v t w : State) (o : MOp) (h : Hint) (p : Piece) (key main : Nat) (bs : List Byte) (tag : Bool) (need : Need) (old : Cap),
    o.size = 6 → atomicGo s o (pR ||| pCL ||| pCW ||| stcPerm (s.rc o.ob)) = .ok u → h = mHint o true →
    need = { r := true, w := true, cw := (s.rc o.ob).tag } → p.place = .at key main →
    placed u (u.rc o.oa) (mEaAtomic u o) 16 need = .ok [p] → arrive u u.world [p] = .ok v →
    w = t.capWrite h key p.va (t.filterCap (s.rc o.ob)) → old = ⟨tag, BitVec.ofNat 128 (leNat bs)⟩ →
    (atomicRead v p need h (.atomicCap none (u.filterCap (s.rc o.ob)), 0) = .ok (bs, tag, t) →
      exec (.amoswp o) s = .next (ended o.hdr ((w.acquired o.ord o.scope).wc o.od (w.filterCap old)))) ∧
    (atomicRead v p need h (.atomicCap (some (s.rc o.od)) (u.filterCap (s.rc o.ob)), 0) = .ok (bs, tag, t) →
      (s.rc o.od = old → exec (.amocas o) s = .next (ended o.hdr ((w.acquired o.ord o.scope).wc o.od (w.filterCap old)))) ∧
      (s.rc o.od ≠ old → ∀ x, x = atomicWrite t p h false none →
        exec (.amocas o) s = .next (ended o.hdr ((x.acquired o.ord o.scope).wc o.od (x.filterCap old)))))) ∧
  (∀ s u : State,
    (∀ (o : MOp) (p : Instr × BitVec 4), p ∈ [(Instr.redadd o, 0), (.redmin o, 1), (.redmax o, 2), (.redfadd o, 3)] →
      accessChecks s (s.rc o.oa) (mEaAtomic s o) (szBytes o.size) (pR ||| pW) .plain (szBytes o.size) = .ok () →
      s.hostVa (s.rc o.oa) (mEaAtomic s o) = false → s.redCount s.cur < 16 →
      (((capLocal (s.rc o.oa) = true ∨ (s.window s.world (mEaAtomic s o)).isSome = true) ∧ u = s) ∨
        (capLocal (s.rc o.oa) = false ∧ s.window s.world (mEaAtomic s o) = none ∧
          ∃ pa main, s.translate s.world (some s.cluster.val) (mEaAtomic s o) { r := true, w := true } = .ok pa main ∧
            s.pageFail { r := true, w := true } false s.world (mEaAtomic s o) main = none ∧
            arrive s s.world [⟨.at pa main, mEaAtomic s o, szBytes o.size⟩] = .ok u ∧
            u.logTouches u.sl.fib (mEaAtomic s o) (szBytes o.size) = false)) →
      exec p.1 s = .next (ended o.hdr
        { (({ u with updates := (updateOf s o p.2).among u.updates } : State).post (.remoteUpdate s.opCtr)) with
          opCtr := u.opCtr + 1 })) ∧
    (∀ (v : Update) (t : State), s.act = some (.remoteUpdate v.num) → s.updates.find? (·.num == v.num) = some v →
      s.updateBehind v = false → s.perform v = .ok t →
      exec .remoteUpdate s = .next ({ t with updates := t.updates.filter (·.num != v.num) } : State).writesDone))

/-! ### Monitors, park, semaphores and barriers (R226-R231) -/

/-- After R226-R231: monitors, park, semaphores and barriers complete; a semaphore value or sum that does not fit takes
SEMO. Where the rules leave a reading open, this is the model's choice: log 45, 49, 50, 52. -/
def Obligations.SynchronisationCompletes : Prop :=
  (∀ s u v : State,
    (∀ (o : MOp) (c : Cap) (ea : Nat) (ps : List Piece) (i : Fin 4) (bs : List Byte), c = s.rc o.oa → ea = mEa s o →
      accessPieces s c ea (szBytes o.size) pR { r := true } .plain (if o.ord = 0 then 1 else szBytes o.size) = .ok ps →
      s.sl.monNumber (capLocal c) (ea / 128 * 128) = some i → bitmapsReadable s c ps = .ok () →
      arrive s s.world ps = .ok v → loadPieces v ps (mHint o true) = .ok (bs, u) →
      exec (.mon o) s = .next (ended o.hdr (((u.acquired o.ord o.scope).wx o.od (extBytes bs (o.x == 1))).modCur fun sl =>
        { sl with mons := sl.mons.set i ⟨true, false, capLocal c, ea / 128 * 128⟩ }))) ∧
    (∀ o : MOp, o.x = 1 →
      exec (.unmon o) s = .next (ended o.hdr (s.modCur fun sl => { sl with mons := Vector.replicate 4 Mon.none }))) ∧
    (∀ (o : MOp) (ps : List Piece), o.x = 0 → accessPieces s (s.rc o.oa) (mEa s o) 1 pR { r := true } .plain 1 = .ok ps →
      ∀ f, f = (fun m : Mon => if m.armed && m.loc == capLocal (s.rc o.oa) && m.line == mEa s o / 128 * 128 then Mon.none
        else m) →
        exec (.unmon o) s = .next (ended o.hdr (s.modCur fun sl => { sl with mons := sl.mons.map f }))) ∧
    (∀ o : ROp,
      (s.sl.parkEvents ≠ 0 → exec (.park o) s = .next (ended o.hdr
        ((s.wx o.od (BitVec.ofNat 64 s.sl.parkEvents)).modCur fun sl =>
          { sl with wake := 0, parkTmo := 0, mons := sl.mons.map fun m => { m with trig := false } }))) ∧
      (s.sl.parkEvents = 0 → exec (.park o) s = .next (s.modCur fun sl =>
        { sl with status := .parked .park, begun := true, parkTmo := s.rx o.oa }))) ∧
    (∀ i : SlotId,
      (s.act = some (.parkWake i) → trigBits (s.slot i).mons ≠ 0 → (s.slot i).status = .parked .park →
        exec .parkWake s = .next (s.modSlot i fun sl => { sl with status := .ready, wake := sl.wake ||| 0 })) ∧
      (s.act = some (.parkTimeout i) → (s.slot i).parkTmo ≠ 0 → (s.slot i).dbgHalt = false → (s.slot i).status = .parked .park →
        exec .parkTimeout s = .next (s.modSlot i fun sl => { sl with status := .ready, wake := sl.wake ||| 1 })))) ∧
  (∀ (s : State),
    (∀ o : RIOp, (riAorImm s o).toNat ≤ 65535 → releaseWait s 1 = .ok () → exec (.smset o) s = .next (ended (riHdr o)
      (({ s with badSem := s.badSem.filter (· != semOf (riMd o)) } : State).semSet (semOf (riMd o)) (riAorImm s o).toNat))) ∧
    (∀ o : RIOp, 65535 < (riAorImm s o).toNat →
      exec (.smset o) s = .next (s.takeTrap ⟨cSEMO, 3, (semOf (riMd o)).toNat⟩)) ∧
    (∀ o : ROp, exec (.smrd o) s = .next (ended o.hdr (s.wx o.od (BitVec.ofNat 64 (s.semVal (semOf o.md)))))) ∧
    (∀ (o : RIOp) (t : Int), t = s.semVal (semOf (riMd o)) + (riAorImmS s o).toInt →
      (0 ≤ t → t ≤ 65535 → releaseWait s 1 = .ok () → exec (.smadd o) s = .next (ended (riHdr o)
        ((s.wx (riOd o) (BitVec.ofNat 64 (s.semVal (semOf (riMd o))))).semSet (semOf (riMd o)) t.toNat))) ∧
      (65535 < t → exec (.smadd o) s = .next (s.takeTrap ⟨cSEMO, 1, (semOf (riMd o)).toNat⟩)) ∧
      (t < 0 → exec (.smadd o) s = .next (s.takeTrap ⟨cSEMO, 2, (semOf (riMd o)).toNat⟩)))) ∧
  (∀ (s : State) (o : ROp) (t : BitVec 16) (k : Nat), barTow s o.oa = .ok t →
    (o.md.sub ≠ 1 → releaseWait s (o.md.isp.toNat % 8) = .ok () → towReach s t { r := true, w := true } = .ok k →
      exec (.bar o) s = .next (ended o.hdr ((s.arrive t k).wx o.od (BitVec.ofNat 64 (s.towNat k 0x10 4)))) ∧
      exec (.barmx o) s = .next (ended o.hdr
        (((contribute o s t k).arrive t k).wx o.od (BitVec.ofNat 64 (s.towNat k 0x10 4))))) ∧
    (o.md.sub = 1 → towReach s t { r := true } = .ok k → s.towNat k 0x10 4 ≠ (s.rx o.ob).toNat % 2 ^ 32 →
      exec (.bar o) s = .next (ended o.hdr (s.acquired 1 (o.md.isp.extractLsb' 0 3))) ∧
      exec (.barmx o) s = .next (ended o.hdr (((s.acquired 1 (o.md.isp.extractLsb' 0 3)).wx o.od
        ((s.barScale s.world t).scale.setWidth 64)).orFlags s.cur (s.barScale s.world t).flags))))

/-- After R196, R216, R217, R231, R312-R314, R359, R361, R365, R369: the events that serve those who wait, and those of
slot 15, complete; the head of a semaphore's queue takes its units, all at once, when they are there. Where the rules
leave a reading open, this is the model's choice: log 4, 25, 50. -/
def Obligations.WaitAndSystemEventsComplete : Prop :=
  (∀ (s : State),
    (s.act = some .poolGrant → exec .poolGrant s = .next (s.rouseAll fun k _ => k == .pool)) ∧
    (∀ g, s.act = some (.fullEmptyServe g) →
      exec .fullEmptyServe s = .next ((s.rouseWaiters (·.onGranule g)).testAwait (·.onGranule g))) ∧
    (∀ b, s.act = some (.fifoServe b) → exec .fifoServe s = .next (((s.rouseWaiters fun w => kindFifo w.kind &&
      fifoIx w.obj == b).testAwait fun e => kindFifo e.kind && fifoIx e.obj == b).unstall)) ∧
    (∀ q, s.act = some (.quayCoreArrival q) →
      exec .quayCoreArrival s = .next (s.rouseWaiters fun w => w.kind == .pool && w.thr == q.val + 1)) ∧
    (∀ i, s.act = some (.barrierWaitReturn i) → (s.slot i).waitsFor (fun k _ => k == .bar) = true →
      exec .barrierWaitReturn s = .next (s.rouse i)) ∧
    (∀ i u, s.act = some (.slice i) → (s.slot i).tslice ≠ 0 → (s.slot i).dbgHalt = false → s.agenda.any (wtmoOf i) = false →
      u = s.modSlot i (fun sl => { sl with pendSlice := true }) →
      ((s.slot i).status = .ready ∨ (s.slot i).status = .parked .trap ∨ (s.slot i).restoring ≠ .none → exec .slice s = .next u) ∧
      (∀ k n, (s.slot i).restoring = .none → (s.slot i).status = .waiting k n → exec .slice s = .next ((u.leaveQueue (.slot i)).rouse i)) ∧
      ((s.slot i).restoring = .none → (s.slot i).status = .parked .park → exec .slice s = .next (u.modSlot i fun sl => { sl with status := .ready }))) ∧
    (∀ i k n, (s.slot i).wlim ≠ 0 → (s.slot i).restoring = .none → (s.slot i).dbgHalt = false → kindLimited k = true →
      (s.act = some (.wtmo i false) → s.beingServed (.slot i) = false → (s.slot i).status = .waiting k n →
        exec .wtmo s = .next (s.trapAt i ⟨cWTMO, kindCode k, n⟩)) ∧
      (∀ r, s.act = some (.wtmo i true) → s.beingServed (.rep i) = false → (s.slot i).rep = some r → r.wait = some (k, n) →
        exec .wtmo s =
          .next ((s.withWord ((r.block[r.idx]?.bind encode).getD 0)).repTrap i r ⟨cWTMO, kindCode k, n⟩)))) ∧
  (∀ s : State,
    (s.act = some .trapRecordEnqueue → exec .trapRecordEnqueue s = .next (s.drainHold s.hold)) ∧
    (s.act = some .wfsTimeout → (s.slot 15).status = .parked .wfs → (s.slot 15).parkTmo ≠ 0 →
      exec .wfsTimeout s = .next (s.modSlot 15 fun sl => { sl with status := .ready, wake := 1 })) ∧
    (s.act = some .bankModeSwitchComplete → exec .bankModeSwitchComplete s = .next s.unstall) ∧
    (s.act = some .hintYieldEnd → exec .hintYieldEnd s = .next { s with yielding := false }) ∧
    (∀ i, s.act = some (.debuggerHalt i) →
      exec .debuggerHalt s = .next (s.modSlot i fun sl => { sl with dbgHalt := true })) ∧
    (∀ i t, s.act = some (.debuggerResume i) → t = s.modSlot i (fun sl => { sl with dbgHalt := false }) →
      exec .debuggerResume s = .next (if (s.slot i).rep.isSome then t.post (.repetitionPass i) else t)) ∧
    (∀ v u, s.act = some (.supervisorStart v) → s.supStarted = false → u = ({ s with svec := v &&& ~~~3 } : State) →
      exec .supervisorStart s = .next { u with supStarted := true, slots := s.slots.set 15 (Slot.supervisor u) })) ∧
  (∀ (s : State) (sm : BitVec 8) (w : Waiter) (i : SlotId), s.act = some (.waitsemGrant sm) →
    (s.waiters.find? fun w => w.kind == .sem && w.obj == sm.toNat) = some w → w.who = .slot i →
    (s.semVal sm < w.thr → ∃ t, exec .waitsemGrant s = .next t ∧ t.sem = s.sem ∧ t.waiters = s.waiters ∧ t.slots = s.slots) ∧
    (w.thr ≤ s.semVal sm → ∃ t, exec .waitsemGrant s = .next t ∧ t.semVal sm = s.semVal sm - w.thr ∧
      (t.slot i).taken = some (sm, w.thr) ∧ (∀ v ∈ t.waiters, v.who ≠ .slot i) ∧
      ∀ n : BitVec 8, n ≠ sm → t.semVal n = s.semVal n))

/-! ### Control (R292, R293) -/

/-- After R44, R292, R293: the control instructions set the pc: by a displacement in instructions of 12 bytes, or to the
target of a capability; call writes cret, and loop counts down. Where the rules leave a reading open, this is the
model's choice: log 73. -/
def Obligations.ControlCompletes : Prop :=
  ∀ s : State,
    (∀ o, exec (.br o) s =
      .next (jumped o.hdr (s.setPcc (capMoveCursor s.sl.pcc (s.sl.pc + 12 * o.imm.signExtend 64))))) ∧
    (∀ o, exec (.jmp o) s = .next (jumped o.hdr (s.setPcc (capTarget (s.rc o.oa))))) ∧
    (∀ o, exec (.call (.r o)) s = .next (jumped o.hdr
      ((s.wc 31 (capMoveCursor s.sl.pcc (s.sl.pc + 12))).setPcc (capTarget (s.rc o.oa))))) ∧
    (∀ o, exec (.call (.i o)) s = .next (jumped o.hdr ((s.wc 31 (capMoveCursor s.sl.pcc (s.sl.pc + 12))).setPcc
      (capMoveCursor s.sl.pcc (s.sl.pc + 12 * o.imm.signExtend 64))))) ∧
    (∀ o, exec (.ret o) s = .next (jumped o.hdr (s.setPcc (s.rc o.oa)))) ∧
    (∀ o, exec (.loop o) s = .next (jumped o.hdr ((s.wx o.od (s.rx o.od - 1)).setPcc
      (if s.rx o.od = 1 then capMoveCursor s.sl.pcc (s.sl.pc + 12)
        else capMoveCursor s.sl.pcc (s.sl.pc + 12 * o.imm.signExtend 64))))) ∧
    (∀ o, exec (.nop o) s = .next (ended o.hdr s))

/-! ### Fibres and tows (R294-R308) -/

/-- After R294-R297: a record whose checks pass and whose place has room is sent, to the queue of a cluster or to a
core; a reply is put on its way and its granule written. Where the rules leave a reading open, this is the model's
choice: log 9, 45, 52, 89. -/
def Obligations.FibresAndRepliesComplete : Prop :=
  (∀ (s : State) (o : ROp) (t : BitVec 16) (k : Option Nat) (r : Rec), sendCheck s o = .ok () → sendTow s o = .ok t →
    releaseWait s (o.md.isp.toNat % 8) = .ok () → memberReach s t = .ok k →
    r = ⟨capTarget (s.rc o.oa), s.rc o.ob, s.sl.rx 10, s.sl.rx 11, s.sl.rx 12,
      s.buildCtl s.sl (s.rx o.oc) ((s.rx o.oc).extractLsb' 0 16)⟩ →
    (∀ c, spawnTarget s o = .ok c → s.crqRoom c r = true →
      inQueue c r s.heldQ = false →
      aheadBy (fun w => w.kind == .queue && w.thr == spawnMark c r) (.slot s.cur) s.waiters = false →
      exec (.spawn o) s = .next (ended o.hdr ((s.memberUp k).crqPut c r))) ∧
    (∀ c u, callTarget s o = .ok c → sendTo s c r = .ok u → exec (.callat o) s = .next (ended o.hdr (u.memberUp k)))) ∧
  (∀ s : State,
    (∀ (o : ROp) (ctl : Word), ctl = s.sl.rx 13 → ctlRv ctl = true → ctlRoff ctl < 262144 →
      exec (.reply o) s = .next (ended o.hdr (({ s with cl := { s.cl with replies := s.cl.replies ++
        [⟨s.cur, s.sl.fib, s.world, Fin.ofNat 64 (ctlRcl ctl), 16 * ctlRoff ctl, s.rx o.oa, s.rx o.ob, o.md.isp.toNat % 8,
          (s.slotLogs s.cur).map (·.num), (s.slotUps s.cur).map (·.num), s.sl.pc, s.insn⟩] } } : State).post
          (.replyGranuleWrite none)))) ∧
    (∀ (o : ROp), ctlRv (s.sl.rx 13) = false → exec (.reply o) s = .next (s.takeTrap ⟨cPROT, 22, 0⟩)) ∧
    (∀ (r : Reply) (rest : List Reply) (w : State), s.act = some (.replyGranuleWrite none) → s.cl.replies = r :: rest → s.replyReady r = true →
      winBaseOf (s.rpwinOf r.cluster r.world) ≤ r.off → r.off + 16 ≤ winLimitOf (s.rpwinOf r.cluster r.world) →
      (s.bankMode r.cluster (r.off / 2 ^ 17) = 0 ∨ s.bankMode r.cluster (r.off / 2 ^ 17) = 3) →
      w = ({ s with cl := { s.cl with replies := rest } } : State).engineWrite
        (clKey r.cluster.val r.off) (leBytes 8 r.lo.toNat ++ leBytes 8 r.hi.toNat) →
      exec .replyGranuleWrite s = .next (if r.scope < 2 then w
        else { w with fullScopes := w.fullScopes ++ [(clKey r.cluster.val r.off / 16, r.scope)] })) ∧
    (∀ r : FarReply, s.act = some (.replyGranuleWrite (some r)) → s.transferOk r.world r.sealOk = false →
      exec .replyGranuleWrite s = .next (s.postRecOf r.world 15 ⟨cSEAL, 3, r.cluster.val * 2 ^ 58 + r.off⟩ 0 0)) ∧
    (∀ (r : FarReply) (w : State), s.act = some (.replyGranuleWrite (some r)) → r.off % 16 = 0 →
      s.transferOk r.world r.sealOk = true →
      winBaseOf (s.rpwinOf r.cluster r.world) ≤ r.off → r.off + 16 ≤ winLimitOf (s.rpwinOf r.cluster r.world) →
      (s.bankMode r.cluster (r.off / 2 ^ 17) = 0 ∨ s.bankMode r.cluster (r.off / 2 ^ 17) = 3) →
      w = s.engineWrite (clKey r.cluster.val r.off) (leBytes 8 r.lo.toNat ++ leBytes 8 r.hi.toNat) →
      exec .replyGranuleWrite s = .next (if r.scope < 2 then w
        else { w with fullScopes := w.fullScopes ++ [(clKey r.cluster.val r.off / 16, r.scope)] })))

/-- After R298-R304: a fibre that may leave its slot does so by exit, yield, await or callat.w; one that holds the
matrix unit, a bound stream port or a joined tow takes PROT aux 19 from yield and from await on a granule. Where the
rules leave a reading open, this is the model's choice: log 45, 52. -/
def Obligations.FibresLeaveTheirSlots : Prop :=
  (∀ (s u : State) (o : ROp), u = s.goHome s.cur →
    (mayLeave u = .ok () → releaseWait u 1 = .ok () →
      exec (.yield o) s = .next ((if o.md.sub = 1 then (u.vacate u.cur 3).requeue u.cluster (ownRecord u)
        else (u.vacate u.cur 3).deliverHeld (ownRecord u)).signalGone o.hdr s.sl.pc) ∧
      (∀ i n, u.freeAwait = some i → n = (u.rx o.oa).toNat → n < 256 → u.sl.semIn n = true → (u.rx o.ob).toNat ≤ 65535 →
        u.badSem.contains (BitVec.ofNat 8 n) = false →
        exec (.awaitSm o) s = .next ((u.awaitIn i .sem n (u.rx o.ob).toNat).signalGone o.hdr s.sl.pc)) ∧
      (∀ i a, u.freeAwait = some i → a = (capCursor (u.rc o.oa)).toNat →
        accessChecks u (u.rc o.oa) a 16 pR .fullEmpty 1 = .ok () →
        exec (.awaitFull o) s = .next ((u.awaitIn i .full (a / 16 * 16) 1).signalGone o.hdr s.sl.pc) ∧
        exec (.awaitEmpty o) s = .next ((u.awaitIn i .empty (a / 16 * 16) 1).signalGone o.hdr s.sl.pc)) ∧
      (∀ c ctl t a i k v, sendCheck u o = .ok () → callTarget u o = .ok c → ctl = u.rx o.oc → ctlRv ctl = true →
        ctlRcl ctl = u.cluster.val → sendTow u o = .ok t → a = u.cluster.val * 2 ^ 58 + 16 * ctlRoff ctl →
        ctlRoff ctl < 262144 → localCheck u.cluster.val u.sl.cmwin a 16 = none →
        u.bankCheck u.cluster .fullEmpty a 16 = none → u.freeAwait = some i → releaseWait u (o.md.isp.toNat % 8) = .ok () →
        memberReach u t = .ok k → sendTo u c (sentRecord u o) = .ok v →
        exec (.callatW o) s = .next (((v.memberUp k).awaitIn i .full a 1).signalGone o.hdr s.sl.pc))) ∧
    (∀ v, matReady s = .ok v → exitWait v = .ok () →
      exec (.exit o) s = .next (((v.vacate v.cur 2).leaveTows v.sl).signalGone o.hdr s.sl.pc))) ∧
  (∀ (s u : State) (o : ROp), u = s.goHome s.cur →
    (u.mat.holder = some u.cur ∨ (∃ i : Fin 4, (u.sl.port i).bound = true) ∨ u.sl.tjn ≠ 0) →
    exec (.yield o) s = .next (u.takeTrap ⟨cPROT, 19, 0⟩) ∧
    (accessChecks u (u.rc o.oa) (capCursor (u.rc o.oa)).toNat 16 pR .fullEmpty 1 = .ok () →
      exec (.awaitFull o) s = .next (u.takeTrap ⟨cPROT, 19, 0⟩) ∧ exec (.awaitEmpty o) s = .next (u.takeTrap ⟨cPROT, 19, 0⟩)))

/-- After R306-R308: the tow instructions complete: a tow is joined or left with MEMBERS raised or lowered, its fields
are read, the priority is set under the world's floor, and the clock is read and advanced. Where the rules leave a
reading open, this is the model's choice: log 45, 52. -/
def Obligations.TowsComplete : Prop :=
  ∀ s : State,
    (∀ (o : ROp) (t : BitVec 16) (k : Nat), towArg s o.oa = .ok t → releaseWait s 3 = .ok () →
      towReach s t { r := true, w := true } = .ok k →
      (t ≠ 0 → s.sl.belongs t = false → o.md.sub = 1 → s.sl.tow = 0 →
        exec (.tjoin o) s = .next (ended o.hdr (((s.memberUp (some k)).dropWorld s.world).modCur fun sl =>
          { sl with tow := t }))) ∧
      (t ≠ 0 → s.sl.belongs t = false → o.md.sub ≠ 1 → s.sl.tjn.extractLsb' 0 16 = 0 →
        exec (.tjoin o) s = .next (ended o.hdr (((s.memberUp (some k)).dropWorld s.world).modCur fun sl =>
          { sl with tjn := sl.tjn ||| t.setWidth 64 }))) ∧
      (t ≠ 0 → s.sl.belongs t = false → o.md.sub ≠ 1 → s.sl.tjn.extractLsb' 0 16 ≠ 0 → s.sl.tjn.extractLsb' 16 16 = 0 →
        exec (.tjoin o) s = .next (ended o.hdr (((s.memberUp (some k)).dropWorld s.world).modCur fun sl =>
          { sl with tjn := sl.tjn ||| (t.setWidth 64 <<< 16) }))) ∧
      (s.sl.belongs t = true →
        exec (.tleave o) s = .next (ended o.hdr (((s.modCur fun sl => sl.leave t).towDecr s.world t k).dropWorld s.world)) ∧
        exec (.tjoin o) s = .next (s.takeTrap ⟨cPROT, 20, 0⟩)) ∧
      (s.sl.belongs t = false → exec (.tleave o) s = .next (s.takeTrap ⟨cPROT, 14, 0⟩))) ∧
    (∀ (o : ROp) (t : BitVec 16), towArg s o.oa = .ok t → ∀ u, u = (if t = 0 then s.sl.tow else t) → u ≠ 0 →
      (o.md.sub = 7 → exec (.tqry o) s = .next (ended o.hdr (s.wx o.od s.sl.tjn))) ∧
      (o.md.sub = 8 → exec (.tqry o) s = .next (ended o.hdr (s.wx o.od (s.sl.tow.setWidth 64)))) ∧
      (∀ k, o.md.sub ≠ 7 → o.md.sub ≠ 8 → towReach s u { r := true } = .ok k →
        exec (.tqry o) s = .next (ended o.hdr (s.wx o.od
          (BitVec.ofNat 64 (tqryMask o.md.sub.toNat
            (s.towNat k (tqryField o.md.sub.toNat).1 (tqryField o.md.sub.toNat).2))))))) ∧
    (∀ o : RIOp, exec (.prio o) s = .next (ended (riHdr o) (s.wx 13 ((s.sl.rx 13 &&& ~~~0x30000) |||
      BitVec.ofNat 64 (max ((riAorImm s o).toNat % 4) (s.pflr s.world) * 2 ^ 16))))) ∧
    (∀ k, s.sl.tow ≠ 0 →
      (∀ o : ROp, towReach s s.sl.tow { r := true } = .ok k → exec (.rclk o) s = .next (ended o.hdr
        ((s.wx o.od (BitVec.ofNat 64 (s.towNat k 8 4))).setClk (s.towNat k 8 4)))) ∧
      (∀ o : RIOp, towReach s s.sl.tow { r := true, w := true } = .ok k →
        ∀ v, v = max (s.towNat k 8 4) ((riAorImm s o).toNat % 2 ^ 32) →
          exec (.rcadv o) s = .next (ended (riHdr o) ((s.towSet k 8 4 v).setClk v)))) ∧
    (∀ o : ROp, s.sl.tow = 0 → exec (.rclk o) s = .next (s.takeTrap ⟨cPROT, 14, 0⟩))

/-! ### Capabilities (R320-R337) -/

/-- After R332-R334: the instructions that read and move capabilities complete, those that derive complete or take the
cause of the source, and those that seal and unseal complete under an authority that allows it. -/
def Obligations.CapabilityInstructionsComplete : Prop :=
  (∀ (s : State) (o : ROp),
    exec (.cgeta o) s = .next (ended o.hdr (s.wx o.od (capCursor (s.rc o.oa)))) ∧
    exec (.cgetb o) s = .next (ended o.hdr (s.wx o.od (BitVec.ofNat 64 (capBase (s.rc o.oa))))) ∧
    exec (.cgetl o) s = .next (ended o.hdr (s.wx o.od (BitVec.ofNat 64 (capLen (s.rc o.oa))))) ∧
    exec (.cgetp o) s = .next (ended o.hdr (s.wx o.od (capInfo (s.rc o.oa)))) ∧
    exec (.ctag o) s = .next (ended o.hdr (s.wp o.od
      ((s.rc o.oa).tag && !(o.md.sub == 1 && s.revoked (s.rc o.oa))))) ∧
    exec (.csub o) s = .next (ended o.hdr (s.wx o.od (capCursor (s.rc o.oa) - capCursor (s.rc o.ob)))) ∧
    exec (.cmov o) s = .next (ended o.hdr (s.wc o.od (s.rc o.oa))) ∧
    exec (.cclr o) s = .next (ended o.hdr (s.wc o.od (capUntag (s.rc o.oa))))) ∧
  (∀ (s : State) (o : ROp) (q : RIOp) (c d : Cap), c = s.rc o.oa → d = s.rc (riOa q) →
    (capDeriveCheck s.world c = none → exec (.cseta o) s = .next (ended o.hdr (s.wc o.od (capMoveCursor c (s.rx o.ob))))) ∧
    (∀ n, capDeriveCheck s.world c = some n → exec (.cseta o) s = .next (s.takeTrap ⟨n, 0, (capCursor c).toNat⟩)) ∧
    (capDeriveCheck s.world d = none →
      exec (.cinc q) s = .next (ended (riHdr q) (s.wc (riOd q) (capMoveCursor d (capCursor d + riSext s q)))) ∧
      exec (.cperm q) s = .next (ended (riHdr q)
        (s.wc (riOd q) (capWithPerm d (capPerm d &&& (riZext s q).extractLsb' 0 12)))) ∧
      (∀ e, capSetBounds d (riZext s q).toNat false = .ok e →
        exec (.cbnd q) s = .next (ended (riHdr q) (s.wc (riOd q) e))) ∧
      (∀ e, capSetBounds d (riZext s q).toNat true = .ok e →
        exec (.cbnde q) s = .next (ended (riHdr q) (s.wc (riOd q) e))) ∧
      (∀ a, capSetBounds d (riZext s q).toNat false = .error a →
        exec (.cbnd q) s = .next (s.takeTrap ⟨cCAPB, a, (capCursor d).toNat⟩)) ∧
      (∀ a, capSetBounds d (riZext s q).toNat true = .error a →
        exec (.cbnde q) s = .next (s.takeTrap ⟨cCAPB, a, (capCursor d).toNat⟩))) ∧
    (∀ n, capDeriveCheck s.world d = some n → ∀ i ∈ [Instr.cinc q, .cperm q, .cbnd q, .cbnde q],
      exec i s = .next (s.takeTrap ⟨n, 0, (capCursor d).toNat⟩))) ∧
  (∀ (s : State) (o : ROp) (c a : Cap) (t : Nat), c = s.rc o.oa → a = s.rc o.ob → t = (capCursor a).toNat → c.tag = true →
    (capWorld c).toNat = s.world.val → capBase a ≤ t → t < capTop a → 3 ≤ t → t ≤ 15 →
    (capOtype c = 0 → capCheckKind s.world a pSEAL = none →
      exec (.cseal o) s = .next (ended o.hdr (s.wc o.od (capWithOtype c (BitVec.ofNat 4 t))))) ∧
    (capOtype c = BitVec.ofNat 4 t → capCheckKind s.world a pUNSEAL = none →
      exec (.cunseal o) s = .next (ended o.hdr (s.wc o.od (capWithOtype c 0)))))

/-- After R323, R325-R327, R333: no cseta, cinc, cbnd, cbnde or cperm gives more permissions than the source has, and
none of cbnd and cbnde wider bounds; a cursor that moves keeps the bounds or loses the tag. -/
def Obligations.NoDerivationWidensACapability : Prop :=
  (∀ (c d : Cap) (v : Word) (n : Nat) (e : Bool) (m : BitVec 12),
    (d = capMoveCursor c v ∨ capSetBounds c n e = .ok d ∨ d = capWithPerm c (capPerm c &&& m)) →
    capPerm d &&& capPerm c = capPerm d ∧ capWorld d = capWorld c ∧ capOtype d = capOtype c ∧ (d.tag = true → c.tag = true)) ∧
  (∀ (c : Cap) (v : Word), capCursor (capMoveCursor c v) = v ∧
    (capRepresentable c v = true → capBase (capMoveCursor c v) = capBase c ∧ capTop (capMoveCursor c v) = capTop c ∧
      (capMoveCursor c v).tag = c.tag) ∧
    (capRepresentable c v = false → (capMoveCursor c v).tag = false)) ∧
  (∀ (c d : Cap) (n : Nat) (e : Bool), capSetBounds c n e = .ok d →
    capBase c ≤ capBase d ∧ capTop d ≤ capTop c ∧ capBase d ≤ (capCursor c).toNat ∧ (capCursor c).toNat + n ≤ capTop d ∧
    capCursor d = capCursor c ∧ (e = true → capBase d = (capCursor c).toNat ∧ capTop d = (capCursor c).toNat + n))

/-- After R335-R337: the revocation instructions complete: the bits of the region are set or cleared in the bitmap, a
sweep starts, the core acknowledges it, memory is swept, and the sweep ends with its SIG. Where the rules leave a
reading open, this is the model's choice: log 14, 15, 45, 84. -/
def Obligations.RevocationCompletes : Prop :=
  ∀ s : State,
    (∀ (o : ROp) (c : Cap) (b i0 i1 : Nat) (ps : List Piece) (bs : List Byte) (r u v : State), c = s.rc o.oa → b = capBase c →
      capCheck s.world c b (capLen c) pSYS = none → b % 64 = 0 → capLen c % 64 = 0 → capLen c ≠ 0 → capLocal c = false →
      s.rvLo ≤ b → capTop c ≤ s.rvHi → releaseWait s 3 = .ok () → i0 = (b - s.rvLo) / 64 → i1 = i0 + capLen c / 64 →
      s.globalPieces s.world (some s.cluster.val) { r := true, w := true } false ((s.rvMap + i0 / 8) % 2 ^ 56)
        ((i1 - 1) / 8 - i0 / 8 + 1) = .ok ps → ps.all (fun p => p.place != .hold) = true → mapFree s ps = .ok () → arrive s s.world ps = .ok r →
      loadPieces r ps { served := .owner } = .ok (bs, u) →
      (storePieces u ps (rvChange i0 i1 true (i0 / 8) bs) [] = .ok v →
        exec (.crvkMark o) s = .next (ended o.hdr (v.dropWorld s.world))) ∧
      (storePieces u ps (rvChange i0 i1 false (i0 / 8) bs) [] = .ok v →
        exec (.crvkClear o) s = .next (ended o.hdr (v.dropWorld s.world)))) ∧
    (∀ (o : ROp) (w : World), sweepWorld s o = .ok w → (s.wst w).sweep = none →
      exec (.cswpStart o) s = .next (handed (((s.modWorld w fun x =>
        { x with sweep := some ⟨s.cur, o.hdr.sigSm, o.hdr.sigInc, s.sl.pc, s.insn, false, false⟩ }).postRec 15
          ⟨cSWI, 1 + 256 * w.val, 0⟩ 0 0).post (.sweepMemory w)))) ∧
    (∀ (o : ROp) (w : World) (x : Sweep), sweepWorld s o = .ok w → (s.wst w).sweep = some x → x.acked = false →
      ∃ t, exec (.cswpAck o) s = .next (ended o.hdr t) ∧ t.slots = s.slots.map (s.sweepSlot w) ∧
        (t.wst w).sweep = some { x with acked := true } ∧ t.mem = s.mem ∧ t.mat.hcode = s.mat.hcode.map (s.sweepCap w)) ∧
    (∀ (w : World) (x : Sweep), s.act = some (.sweepMemory w) → (s.wst w).sweep = some x →
      exec .sweepMemory s =
        .next ((sweepMemory s w).modWorld w fun y => { y with sweep := some { x with swept := true } })) ∧
    (∀ (w : World) (x : Sweep), s.act = some (.sweepComplete w) → (s.wst w).sweep = some x → x.acked = true →
      x.swept = true → s.dupQuiet = true → exec .sweepComplete s = .next ((((s.sweepHeld w).modWorld w fun y => { y with sweep := none }).engineSignal x.sl
        x.sigSm x.sigInc x.pc x.insn).post .poolGrant))

/-! ### The system group (R362-R369, R429-R431) -/

/-- After R359-R369, R429-R431: trap and ebrk take their traps; the instructions of the system registers and of the trap
queue complete; those of the supervisor complete on a slot that is as each clause says, and take PROT aux 27 where sret
finds none. Where the rules leave a reading open, this is the model's choice: log 25-27, 45, 48, 65, 72, 87. -/
def Obligations.SystemInstructionsComplete : Prop :=
  (∀ (s : State) (o : XOp),
    exec (.trap o) s = .next (s.takeTrap ⟨cSWI, o.imm.toNat, 0⟩) ∧ exec (.ebrk o) s = .next (s.takeTrap ⟨cBRK, o.imm.toNat, 0⟩)) ∧
  (∀ s : State,
    (∀ (o : IOp) (n : Nat) (v : Word), n = o.imm.toNat % 4096 → readSys s n = .ok v →
      exec (.gsr o) s = .next (ended o.hdr (s.wx o.od v))) ∧
    (∀ (o : IOp) (n : Nat), n = o.imm.toNat % 4096 →
      (sysBound n = false → n < 0x40 → fp4Idle s s.cur n = .ok () → exec (.ssr o) s = .next (ended o.hdr (s.setSlotReg s.cur n (s.rx o.oa)))) ∧
      (sysBound n = false → 0x40 ≤ n → (0x080 ≤ n → releaseWait s 1 = .ok ()) →
        exec (.ssr o) s = .next (ended o.hdr (s.setShared n (s.rx o.oa)))) ∧
      (sysBound n = true → exec (.ssr o) s = .next (s.takeTrap ⟨cPROT, 26, 0⟩)) ∧
      exec (.frec0Rearm o) s = .next (ended o.hdr { s with frec := Vector.replicate 4 0 }) ∧
      exec (.trqstClear o) s = .next (ended o.hdr (if s.rx o.oa = 0 then { s with lost := 0 } else s)) ∧
      (releaseWait s 1 = .ok () → exec (.bmodeWrite o) s = .next (ended o.hdr (s.writeBmode (s.rx o.oa))))) ∧
    (∀ (o : ROp) (r : TrapRec) (rest : List TrapRec), s.trapQ = r :: rest → ∃ t,
      exec (.trq o) s = .next (ended o.hdr t) ∧ t.trapQ = rest ∧
        t.slots = ((((s.wx o.od r.w0).wx (o.od + 1) r.w1).wx (o.od + 2) r.w2).wx (o.od + 3) r.w3).slots) ∧
    (∀ o : ROp, s.trapQ = [] → ∃ t, exec (.trq o) s = .next (ended o.hdr t) ∧ t.trapQ = [] ∧
        t.slots = ((((s.wx o.od 0).wx (o.od + 1) 0).wx (o.od + 2) 0).wx (o.od + 3) 0).slots) ∧
    (∀ o : ROp, (s.trapQ ≠ [] ∨ s.sl.wake ≠ 0) → exec (.wfs o) s = .next (ended o.hdr
      ((s.wx o.od (BitVec.ofNat 64 ((if s.trapQ.isEmpty then 0 else 1) + 2 * (s.sl.wake.toNat % 2)))).modCur fun sl =>
        { sl with wake := 0, parkTmo := 0 }))) ∧
    (∀ o : ROp, s.trapQ = [] → s.sl.wake = 0 → exec (.wfs o) s =
      .next (s.modCur fun sl => { sl with status := .parked .wfs, begun := true, parkTmo := s.rx o.oa })) ∧
    (∀ o : XOp, exec (.hint o) s = .next (ended o.hdr
      (if o.sub = 1 ∧ o.imm ≠ 0 ∧ s.cur = 15 ∧ s.trapQ = [] then { s with yielding := true } else s)))) ∧
  (∀ (s : State) (o : ROp) (i : SlotId), (s.rx o.oa).toNat < 15 → i = Fin.ofNat 16 (s.rx o.oa).toNat →
    ((s.slot i).stoppedHere = true → (s.slot i).wsecHeld = false → releaseWait s 1 = .ok () →
      exec (.sretRetry o) s = .next (ended o.hdr (s.resume i id)) ∧
      exec (.sretSkip o) s = .next (ended o.hdr (s.resume i fun sl =>
        if sl.repTrapped then { sl with rep := sl.rep.map fun r => { r with skip := !r.passed } }
        else { sl with startChecks := false, pcc := capMoveCursor sl.pcc (sl.pc + 12), wake := 0 })) ∧
      exec (.sretPc o) s = .next (ended o.hdr (s.resume i fun sl =>
        { sl with startChecks := false, pcc := s.rc o.ob, wake := 0 }.mended 2 0))) ∧
    ((s.slot i).stoppedHere = false ∨ (s.slot i).wsecHeld = true → ∀ j ∈ [Instr.sretRetry o, .sretSkip o, .sretPc o],
      exec j s = .next (s.takeTrap ⟨cPROT, 27, 0⟩)) ∧
    (releaseWait s 1 = .ok () → exec (.sretWake o) s = .next (ended o.hdr (s.unpark i 2))) ∧
    (∀ x, (s.slot i).stoppedHere = true → selOf (s.rx o.ob) (o.md.sub == 1) false = some x → (s.slot i).selBad x = none →
      (o.md.sub = 1 → exec (.rdpk o) s = .next (ended o.hdr
        (s.wc o.od (if x.file = 2 then (s.slot i).pcc else (s.slot i).rc (BitVec.ofNat 6 x.index))))) ∧
      (o.md.sub ≠ 1 → (s.slot i).selPort x = false → (x.file ≠ 6 ∨ x.num ≠ 0x022) → exec (.rdpk o) s = .next (ended o.hdr (s.wx o.od (s.readPk i x)))) ∧
      (o.md.sub ≠ 1 → (s.slot i).selPort x = true →
        exec (.rdpk o) s = .next (ended o.hdr (s.takeFree.2.wx o.od s.takeFree.1))) ∧
      (∀ v, o.md.sub ≠ 1 → x.file = 6 → x.num = 0x022 → readTsw s i = .ok v →
        exec (.rdpk o) s = .next (ended o.hdr (s.wx o.od v)))) ∧
    (∀ x, (s.slot i).stoppedHere = true → selOf (s.rx o.ob) (o.md.sub == 1) true = some x →
      (o.md.sub = 1 → exec (.wrpk o) s = .next (ended o.hdr (s.writePkCap i x (s.rc o.oc)))) ∧
      (o.md.sub ≠ 1 → (x.file = 6 → sysBound x.num = false ∧ fp4Idle s i x.num = .ok ()) →
        exec (.wrpk o) s = .next (ended o.hdr (if (s.slot i).selPort x then s else s.writePk i x (s.rx o.oc))))) ∧
    ((s.slot i).restoring = .none →
      (∀ n, n = (s.slot i).suspAsk.getD (BitVec.ofNat 3 (s.slot i).stateCode) →
        ((s.slot i).status = .ready ∨ (∃ k m, (s.slot i).status = .waiting k m) ∨ (∃ q, (s.slot i).status = .away q)) →
        exec (.suspk o) s = .next (ended o.hdr
          (((s.parkSlot i).modSlot i fun sl => { sl with suspAsk := none }).wx o.od (n.setWidth 64)))) ∧
      (∀ n, n = (s.slot i).suspAsk.getD (BitVec.ofNat 3 (s.slot i).stateCode) →
        ((s.slot i).status = .free ∨ (s.slot i).status = .parked .trap ∨ (s.slot i).status = .parked .suspk) →
        exec (.suspk o) s = .next (ended o.hdr
          ((s.modSlot i fun sl => { sl with suspAsk := none }).wx o.od (n.setWidth 64))))) ∧
    ((s.slot i).status = .free → exec (.suspkQ o) s = .next (ended o.hdr (s.wx o.od 0))) ∧
    ((s.slot i).status ≠ .free → s.suspendsNow i = true →
      exec (.suspkQ o) s =
        .next (ended o.hdr ((s.preemptSlot i).wx o.od (BitVec.ofNat 64 (s.slot i).stateCode)))))

/-- After R357, R358, R360: a trap of a slot 0 to 14 parks the slot at its pc with a record of the cause, the aux word,
the place, the pc, the address and the word; a trap of slot 15 writes the record into FREC and goes on at SVEC, or halts
the slot. Where the rules leave a reading open, this is the model's choice: log 66. -/
def Obligations.TakingATrap : Prop :=
  (∀ (s t : State) (f : Fail), s.cur ≠ 15 → t = s.takeTrap f →
    t.sl.status = .parked .trap ∧ t.sl.pcc = s.sl.pcc ∧ (∀ r, t.sl.rx r = s.sl.rx r) ∧
    ∃ r : TrapRec, t.sl.trapRec = some r ∧ r.w0.toNat % 64 = f.cause % 64 ∧ r.w0.toNat / 2 ^ 6 % 16 = s.cur.val ∧
      r.w0.toNat / 2 ^ 10 % 8 = s.core.val ∧ r.w0.toNat / 2 ^ 13 % 64 = s.cluster.val ∧ r.w0.toNat / 2 ^ 21 % 2 = 1 ∧
      r.w0.toNat / 2 ^ 32 = f.aux % 2 ^ 32 ∧ r.w1 = s.sl.pc ∧ r.w2 = BitVec.ofNat 64 f.addr ∧
      r.w3 = s.word.extractLsb' 0 64 ∧
      (s.trapQ.length < 16 → s.hold = [] → t.trapQ = s.trapQ ++ [r])) ∧
  (∀ (s t : State) (f : Fail), s.cur = 15 → t = s.takeTrap f →
    (s.frec[0] = 0 → capCursor t.sl.pcc = s.svec ∧ t.frec[1] = s.sl.pc ∧ t.frec[2] = BitVec.ofNat 64 f.addr ∧
      t.frec[3] = s.word.extractLsb' 0 64 ∧ t.frec[0].toNat % 64 = f.cause % 64 ∧
      t.frec[0].toNat / 2 ^ 32 = f.aux % 2 ^ 32 ∧ t.supHalted = s.supHalted) ∧
    (s.frec[0] ≠ 0 → t.supHalted = true ∧ t.frec = s.frec))

/-- After R366: sret lets a slot that a trap has parked go on: it is ready, with its registers as they were, at the pc
of the trapped instruction, past it, or at the capability given. Where the rules leave a reading open, this is the
model's choice: log 65. -/
def Obligations.ReturnFromTrapResumesTheSlot : Prop :=
  ∀ (s : State) (o : ROp) (i : SlotId), (s.rx o.oa).toNat < 15 → i = Fin.ofNat 16 (s.rx o.oa).toNat → s.cur = 15 →
    o.hdr.sigInc = 0 → (s.slot i).status = .parked .trap → (s.slot i).wsecHeld = false → (s.slot i).rep = none →
    releaseWait s 1 = .ok () →
    ∀ p ∈ [(Instr.sretRetry o, (s.slot i).pcc), (.sretSkip o, capMoveCursor (s.slot i).pcc ((s.slot i).pc + 12)),
        (.sretPc o, s.rc o.ob)],
      ∃ t, exec p.1 s = .next t ∧ (t.slot i).status = .ready ∧ (t.slot i).pcc = p.2 ∧ SameRegs (t.slot i) (s.slot i) ∧
        (t.slot i).fmode = (s.slot i).fmode ∧ t.sl.pcc = capMoveCursor s.sl.pcc (s.sl.pc + 12)

/-- After R359: TRAP_RECORD_ENQUEUE moves held records into the queue in their order, and never beyond 16. -/
def Obligations.TrapQueueKeepsItsOrder : Prop :=
  ∀ (s t : State), s.act = some .trapRecordEnqueue → exec .trapRecordEnqueue s = .next t →
    t.trapQ ++ t.hold.map (·.2) = s.trapQ ++ s.hold.map (·.2) ∧ (s.trapQ.length ≤ 16 → t.trapQ.length ≤ 16) ∧
    (t.hold = [] ∨ 16 ≤ t.trapQ.length)

/-! ### Issue (R28-R33, R43, R48) -/

/-- After R31: a step runs the decoded instruction. Where the bytes at the pc are the instruction `i` and its guards
hold, the step is `exec i` with the tests that follow every instruction; one that has begun goes on; and an act that has
arrived comes before every slot, but that the work of a unit beside the slots may come after the slot whose turn it is.
A module that a trip holds performs none of them but a cold reset. Where the rules leave a reading open, this is the
model's choice: log 3, 5, 21, 22, 28, 69. -/
def Obligations.StepRunsTheDecodedInstruction : Prop :=
  (∀ (s : State) (n : SlotId) (i : Instr) (opc : Nat) (b : Body) (w y : State), Comes s n i opc b w → w.sl.begun = false →
    y = issuesAt opc b w → Admitted i opc b y → y.sl.guards (bodyHdr b) = true → (bodyWait b).thr = 0 →
    step s = settled (exec i y)) ∧
  (∀ (s : State) (n : SlotId) (i : Instr) (opc : Nat) (b : Body) (w : State), Comes s n i opc b w → w.sl.begun = true →
    w.filterAway.readsBad i = none → step s = settled (exec i w.filterAway)) ∧
  ∀ (s u : State) (a : Act) (rest : List Act), s.agenda = a :: rest → u = ({ s with freeCtr := s.freeCtr + 1 } : State) →
    (s.tripped = true → a ≠ .coldReset → step s = .next { s with agenda := rest }) ∧
    (s.tripped = false ∨ a = .coldReset →
      (actWorks a = false → step s = settled (exec a.instr (u.onAct a rest))) ∧
      (∀ n, s.nextSlot = some n → actWorks a = true →
        (Config.freeBit s.freeCtr = true → step s = settled (exec a.instr (u.onAct a rest))) ∧
        (Config.freeBit s.freeCtr = false →
          (∀ i y, turn (u.onTurn n) = .ok (i, y) → step s = settled (exec i y)) ∧
          ∀ y, turn (u.onTurn n) = .error y → step s = .next y)) ∧
      (s.nextSlot = none → step s = settled (exec a.instr (u.onAct a rest))))

/-- After R29, R31: an instruction whose guard fails has no effect: the pc moves past it; registers, memory and
semaphores stay. Where the rules leave a reading open, this is the model's choice: log 21, 28. -/
def Obligations.FailedGuardPassesOver : Prop :=
  ∀ (s : State) (n : SlotId) (i : Instr) (opc : Nat) (b : Body) (w y : State), Comes s n i opc b w → w.sl.begun = false →
    y = issuesAt opc b w → y.sl.guardBad (bodyHdr b) = none → y.sl.guards (bodyHdr b) = false →
    ∃ t, step s = .next t ∧ t.sl.pc = y.sl.pc + 12 ∧ SameRegs t.sl y.sl ∧ t.sem = y.sem ∧ t.mem = y.mem ∧ t.tags = y.tags ∧
      t.full = y.full ∧ t.mat = y.mat ∧ t.wave = y.wave

/-- R48: a privileged form in a slot other than slot 15 raises PRIV with aux 0; gsr of a register that is not
user-readable is privileged; and an instruction outside the quay core's subset takes its fibre home and issues there. -/
def Obligations.PrivilegedFormsRaisePriv : Prop :=
  (∀ (s : State) (n : SlotId) (bs : List Byte) (w : State) (i : Instr) (opc : Nat) (b : Body), Fetches s n bs w →
    decodeBytes bs = .ok i → i.parts = some (opc, b) → privileged opc b = true → w.cur ≠ 15 →
    step s = .next (w.takeTrap ⟨cPRIV, 0, 0⟩)) ∧
  (∀ o : IOp, privileged 0x282 (.i o) = true ↔ sysregUser (o.imm.toNat % 4096) = false) ∧
  (∀ (s : State) (n : SlotId) (i : Instr) (opc : Nat) (b : Body) (w y : State) (q : Fin 128), Comes s n i opc b w →
    w.sl.begun = false → w.sl.quay = some q → quaySubset opc = false → y = w.filterAway.goHome w.cur → Admitted i opc b y →
    y.sl.guards (bodyHdr b) = true → (bodyWait b).thr = 0 → y.sl.quay = none ∧ step s = settled (exec i y))

/-- After R31, R49: a word that is no instruction raises ILL with the sub-code of the lowest row that holds, and nothing
else happens before the trap. -/
def Obligations.IllegalWordsRaiseTheirSubCode : Prop :=
  (∀ (s : State) (n : SlotId) (bs : List Byte) (w : State) (k : Nat), Fetches s n bs w → decodeBytes bs = .error k →
    step s = .next (w.takeTrap ⟨cILL, k, 0⟩)) ∧
  (∀ w : BitVec 96,
    (assignedOpc (opcOf w) = false → decode w = .error 1) ∧
    (assignedOpc (opcOf w) = true → build (opcOf w) (bodyOf w) = none → decode w = .error 2) ∧
    (∀ i, assignedOpc (opcOf w) = true → build (opcOf w) (bodyOf w) = some i →
      (i.rows.first = none → decode w = .ok i) ∧ ∀ n, i.rows.first = some n → decode w = .error n) ∧
    assignedOpc 0 = false ∧ assignedOpc 0x3FF = false ∧ decode 0 = .error 1)

/-- After R33, R228: WaitSem takes the whole threshold in one step or leaves the semaphore as it was and the slot
waiting; a semaphore outside the window raises PROT aux 13; and a fault after the subtraction gives the units back,
clamped at 65,535. Where the rules leave a reading open, this is the model's choice: log 22, 28, 50. -/
def Obligations.WaitTakesTheThresholdAtOnce : Prop :=
  (∀ (s : State) (n : SlotId) (i : Instr) (opc : Nat) (b : Body) (w y : State), Comes s n i opc b w → w.sl.begun = false →
    y = issuesAt opc b w → y.sl.guardBad (bodyHdr b) = none → y.sl.guards (bodyHdr b) = true →
    (∀ f, semOut y.sl (semNames opc b) = some f → f.cause = cPROT ∧ f.aux = 13 ∧ step s = .next (y.takeTrap f)) ∧
    (Admitted i opc b y → (bodyWait b).thr ≠ 0 → y.cur = n →
      ((y.semVal (bodyWait b).sm < (bodyWait b).thr.toNat ∨ y.aheadOf (.slot n) .sem (bodyWait b).sm.toNat = true) →
        ∃ t, step s = .next t ∧ t.sem = y.sem ∧ (t.slot n).status = .waiting .sem (bodyWait b).sm.toNat ∧
          (t.slot n).pcc = y.sl.pcc) ∧
      (∀ z, y.waitSem (.slot n) (bodyWait b).sm (bodyWait b).thr.toNat = some z →
        z.semVal (bodyWait b).sm = y.semVal (bodyWait b).sm - (bodyWait b).thr.toNat ∧
        ∀ z', z' = z.modCur (fun sl => { sl with begun := true, taken := some ((bodyWait b).sm, (bodyWait b).thr.toNat) }) →
          z'.readsBad i = none → step s = settled (exec i z')))) ∧
  (∀ (s : State) (f : Fail) (sm : BitVec 8) (k : Nat), s.sl.taken = some (sm, k) → s.sl.rep.bind (·.taken) = none → s.cur ≠ 15 →
    (s.takeTrap f).semVal sm = min (s.semVal sm + k) 65535)

/-- R28: instructions stand at multiples of 4; the PC is the cursor of pcc; after an instruction that does not transfer
control it advances by 12, modulo 2^64; a displacement counts instructions from the branch itself, and the target is
checked when it is fetched. -/
def Obligations.InstructionsAdvanceByTwelve : Prop :=
  (∀ s : State, s.sl.bad.contains (2, 0) = false → s.sl.pc.toNat % 4 ≠ 0 →
    fetch s = .error (.trap ⟨cALGN, 0, s.sl.pc.toNat⟩, s)) ∧
  (∀ (s : State) (f : Fail), s.sl.bad.contains (2, 0) = false → s.sl.pc.toNat % 4 = 0 →
    capCheck s.world s.sl.pcc s.sl.pc.toNat 12 pX = some f → fetch s = .error (.trap f, s)) ∧
  (∀ sl : Slot, sl.pc = capCursor sl.pcc) ∧
  (∀ (s : State) (h : Hdr), h.sigInc = 0 → (ended h s).sl.pc = s.sl.pc + 12) ∧
  (∀ (s : State) (o : IOp), o.hdr.sigInc = 0 → ∀ i ∈ [Instr.br o, .call (.i o), .loop o], ∃ t, exec i s = .next t ∧
    (i = .loop o → s.rx o.od ≠ 1 → t.sl.pc = s.sl.pc + 12 * BitVec.signExtend 64 o.imm) ∧
    (i = .loop o → s.rx o.od = 1 → t.sl.pc = s.sl.pc + 12) ∧
    (i ≠ .loop o → t.sl.pc = s.sl.pc + 12 * BitVec.signExtend 64 o.imm))

/-- After R32, R230: a SIG adds its increment once the instruction has ended, or traps with the semaphore at 65,535;
while earlier writes of the slot stand, it is held. Where the rules leave a reading open, this is the model's choice:
log 24. -/
def Obligations.SignalFollowsTheInstruction : Prop :=
  ∀ (s t : State) (h : Hdr), h.sigInc ≠ 0 → t = ended h s →
    (s.slotDone s.cur = true → s.semVal h.sigSm + h.sigInc.toNat ≤ 65535 →
      t.semVal h.sigSm = s.semVal h.sigSm + h.sigInc.toNat ∧ t.sl.pc = s.sl.pc + 12 ∧
      ∀ m, m ≠ h.sigSm → t.semVal m = s.semVal m) ∧
    (s.slotDone s.cur = true → 65535 < s.semVal h.sigSm + h.sigInc.toNat → s.cur ≠ 15 →
      t.sl.status = .parked .trap ∧ t.sl.pc = s.sl.pc + 12 ∧ t.semVal h.sigSm = 65535) ∧
    (s.slotDone s.cur = false → t.sem = s.sem ∧ t.sl.pc = s.sl.pc + 12 ∧
      ∃ e, t.heldSigs = s.heldSigs ++ [e] ∧ e.sm = h.sigSm ∧ e.inc = h.sigInc)

/-- After R15, R43: a register reads what was last written to it; writes to x0, c0, k0, p0 and, by an ordinary
instruction, c29 are discarded; x0 reads 0, c0 null, k0 all ones and p0 true. -/
def Obligations.RegistersKeepWhatIsWritten : Prop :=
  ∀ (sl : Slot),
    (∀ (r q : BitVec 6) (v : Word), r < 32 → q < 32 →
      (sl.wx r v).rx q = if q = 0 then 0 else if q = r then v else sl.rx q) ∧
    (∀ (r q : BitVec 6) (v : Cap), r < 32 → q < 32 →
      (sl.wc r v).rc q = if q = 0 then Cap.null else if q = r ∧ r ≠ 29 then v else sl.rc q) ∧
    (∀ (r q : BitVec 6) (v : Gran), r < 8 → q < 8 →
      (sl.wk r v).rk q = if q = 0 then BitVec.allOnes 128 else if q = r then v else sl.rk q) ∧
    (∀ (r q : Nat) (v : Bool), r < 8 → q < 8 → (sl.wp r v).rp q = if q = 0 then true else if q = r then v else sl.rp q) ∧
    (∀ (r q : BitVec 6) (v : Line), (sl.wv r v).rv q = if q = r then v else sl.rv q)

/-! ### The slot table and the queues (R276-R285, R437) -/

/-- After R276-R285, R437: the events that give records to slots complete; a bind that is refused leaves the slot's
status, parameters and registers as they were. Where the rules leave a reading open, this is the model's choice: log 54,
55, 86, 87, 89. -/
def Obligations.SlotTableEventsGiveRecordsToSlots : Prop :=
  (∀ (s : State),
    (∀ i e u, s.act = some (.bind i e) → u = (if i = 15 then s else s.modSlot i fun sl => { sl with entry := e }) →
      (∀ code, u.bindRefused i e = some code → exec .bind s = .next ((u.setStat i code).post .localRefill)) ∧
      (u.bindRefused i e = none →
        exec .bind s = .next (((u.modSlot i (·.given e)).crqTake e.record).startIn i e.record))) ∧
    (∀ i e u, s.act = some (.stand i e) → u = (if i = 15 then s else s.modSlot i fun sl => { sl with entry := e }) →
      (∀ code, u.bindRefused i e = some code → exec .stand s = .next ((u.setStat i code).post .localRefill)) ∧
      (u.bindRefused i e = none →
        exec .stand s = .next (((u.modSlot i (·.given e)).setStat i 9).post .localRefill))) ∧
    (∀ i, s.act = some (.preempt i) → i ≠ 15 → (s.slot i).status ≠ .free → s.suspendsNow i = true →
      exec .preempt s = .next ((s.preemptSlot i).opEnds i)) ∧
    (∀ i, s.act = some (.preempt i) → i ≠ 15 → (s.slot i).status ≠ .free → s.suspendsNow i = false →
      ∃ t, exec .preempt s = .next t ∧ (t.slot i).op = 2 ∧ (t.slot i).status = (s.slot i).status ∧ t.deferred ≠ []) ∧
    (∀ i, s.act = some (.restoreUnitTake i) →
      ((s.slot i).restoring = .image → exec .restoreUnitTake s = .next (s.restoreImage i)) ∧
      ((s.slot i).restoring = .units → exec .restoreUnitTake s = .next (s.takeUnits i))) ∧
    (∀ r i, s.act = some .localRefill → s.refillRec = some r → s.localSlot (recWorld r) = some i →
      exec .localRefill s =
        .next ((({ s with lrq := dropFirst r s.lrq } : State).startIn i r).lrqFreed.post .localRefill)) ∧
    (∀ w, s.act = some (.cmqPromote w) → ∃ t, exec .cmqPromote s = .next t ∧
      t.lrq = (s.promote w [] (s.ring w).recs).lrq ∧ t.cmq = (s.promote w [] (s.ring w).recs).cmq) ∧
    (s.act = some (.heldMessageDelivery none) →
      exec .heldMessageDelivery s = .next (s.heldMsgs.foldl State.deliverHeld { s with heldMsgs := [] })) ∧
    (∀ r ok, s.act = some (.heldMessageDelivery (some (r, ok))) →
      (s.transferOk (recWorld r) ok = true → exec .heldMessageDelivery s = .next (s.deliverHeld r)) ∧
      (s.transferOk (recWorld r) ok = false →
        exec .heldMessageDelivery s = .next (s.postRecOf (recWorld r) 15 ⟨cSEAL, 3, 0⟩ 0 0))) ∧
    (∀ p fn off data, s.act = some (.enqueueApertureWrite p fn off data) → (s.wst fn).inFlr = false → s.portWaits p = false →
      (off < 2 ^ 14 → data.length ≠ 64 ∨ off % 64 ≠ 0 → exec .enqueueApertureWrite s =
        .next (s.modWorld fn fun x => { x with enqbad := x.enqbad + 1 })) ∧
      (∀ r c, data.length = 64 → off % 64 = 0 → off < 2 ^ 14 → r = s.apertureRecord fn (off / 2 ^ 12) data →
        c = Fin.ofNat 64 (off / 64) →
        (s.crqRoom c r = true → exec .enqueueApertureWrite s = .next (s.crqPut c r)) ∧
        (s.crqRoom c r = false → exec .enqueueApertureWrite s =
          .next (s.modWorld fn fun x => { x with enqlost := satInc x.enqlost }))))) ∧
  (∀ (s t : State) (i : SlotId) (e : BindEntry) (code : BitVec 8), s.act = some (.bind i e) → s.bindRefused i e = some code →
    exec .bind s = .next t →
    (t.slot i).status = (s.slot i).status ∧ (t.slot i).world = (s.slot i).world ∧ (t.slot i).savecap = (s.slot i).savecap ∧
    (t.slot i).cmwin = (s.slot i).cmwin ∧ (t.slot i).smwin = (s.slot i).smwin ∧ SameRegs (t.slot i) (s.slot i) ∧
    (i = 15 ∨ (s.slot i).status ≠ .free → code = 5) ∧
    (i ≠ 15 → (s.slot i).status = .free → s.saveBad e.world e.savecap = true → code = 6))

/-! ### Tows (R289, R290, R303, R315-R319, R436) -/

/-- After R289, R290, R303, R315, R316, R318, R319, R436: the device's actions on tows complete: an await entry whose
condition holds gives its record back; cycles are charged; a tow whose members all wait is swapped and comes back with
its first event; a launch completes once its writes are performed; a coalescing window ends with an interrupt when one
is pending. Where the rules leave a reading open, this is the model's choice: log 50, 53, 56. -/
def Obligations.TowEventsComplete : Prop :=
  ∀ (s : State),
    (∀ n e, s.act = some (.awaitConditionHolds n) → s.await[Fin.ofNat 32 n] = some e → s.awaitHolds (Fin.ofNat 32 n) e = true →
      (e.swap = true → exec .awaitConditionHolds s = .next (s.post (.towReturn e.world e.tow))) ∧
      (e.swap = false → e.kind ≠ .sem →
        exec .awaitConditionHolds s = .next ((s.dropAwait (Fin.ofNat 32 n)).deliverHeld e.rcd)) ∧
      (e.swap = false → e.kind = .sem → ∃ t : State,
        exec .awaitConditionHolds s = .next ((t.dropAwait (Fin.ofNat 32 n)).deliverHeld e.rcd) ∧
        t.semVal (BitVec.ofNat 8 e.obj) = s.semVal (BitVec.ofNat 8 e.obj) - e.thr ∧ t.await = s.await ∧ t.slots = s.slots)) ∧
    (∀ w t n, s.act = some (.budgetCharge w t n) → 0 < n → n ≤ 1024 →
      exec .budgetCharge s = .next (s.towAct w t (.charge n))) ∧
    (∀ w t k m, s.act = some (.budgetCharge w t 0) → s.towTr w t = .ok k m → s.dupBusy m k 256 = false → t ≠ 0 →
      exec .budgetCharge s = .next (s.syncSuspect w t k)) ∧
    (∀ w t k m, s.act = some (.towSwap w t) → s.towTr w t = .ok k m → s.dupBusy m k 256 = false → s.actsHeld w t = false →
      (s.swapping.contains (w, t) = false → t ≠ 0 → s.towNat k 0x30 8 ≠ 0 → bitN (s.towNat k 4 4) 4 = false →
        bitN (s.towNat k 4 4) 5 = false → s.members w t ≠ [] → (s.members w t).all (fun i => s.tally[i].wait) = true →
        (s.members w t).any (fun i => s.tally[i].long) = true → s.swapRoom (s.members w t) = true →
        exec .towSwap s = .next ((s.decideSwap w t k).goSwap w t k)) ∧
      (s.swapping.contains (w, t) = true → s.members w t ≠ [] → bitN (s.towNat k 4 4) 5 = false →
        (s.allSuspend (s.members w t) = true → exec .towSwap s = .next (s.doSwap w t)) ∧
        (s.allSuspend (s.members w t) = false → exec .towSwap s = .next (s.suspendLater (s.members w t))))) ∧
    (∀ w t k m mine u, s.act = some (.towReturn w t) → mine = s.swapped.filter (fun r => r.1 == w && r.2.1 == t) → mine ≠ [] →
      s.towTr w t = .ok k m → s.dupBusy m k 256 = false → u = (s.unmarkTow w t).towFlags k (flagSet 4 false) →
      ∀ v, v = { u with swapped := u.swapped.filter fun r => !(r.1 == w && r.2.1 == t) } →
        (bitN (v.towNat k 4 4) 5 = false →
          exec .towReturn s = .next (mine.foldl (fun s r => s.requeue s.cluster (recIn w r.2.2)) v)) ∧
        (bitN (v.towNat k 4 4) 5 = true →
          exec .towReturn s = .next (mine.foldl (fun s r => s.hold1 w t s.cluster (recIn w r.2.2)) v))) ∧
    (∀ w t l k m, s.act = some (.launchCompletion w t) → (s.launches.find? fun l => l.1 == w && l.2.1 == t) = some l →
      s.actsHeld w t = false → s.towTr w t = .ok k m → s.worldQuiet w = true → exec .launchCompletion s =
        .next (({ s with launches := dropFirst l s.launches } : State).completeLaunch w k l.2.2)) ∧
    (∀ p u f v c is, s.act = some (.coalescingWindowEnd p u f v) →
      is = (fun c : Coalesce => c.port == p && c.uli == u && c.fn == f && c.vec == v) → s.coalesce.find? is = some c →
      (c.pending = true → exec .coalescingWindowEnd s = .next (({ s with
        coalesce := s.coalesce.map fun d => if is d then { d with pending := false } else d } : State).interrupt p u f v)) ∧
      (c.pending = false → exec .coalescingWindowEnd s = .next { s with coalesce := s.coalesce.filter fun d => !is d })) ∧
    (s.act = some .towDescriptorActionHeld → exec .towDescriptorActionHeld s = .next s.retryHeld)

/-! ### Pages, logs, copies and images (R220, R247, R251, R268-R274, R350-R352, R435) -/

/-- After R220, R247, R251, R268, R269, R272, R274: the events of pages, side logs, DUP copies, other agents' stores and
the copy engine complete. Where the rules leave a reading open, this is the model's choice: log 13, 42, 46, 51, 57. -/
def Obligations.PageEventsComplete : Prop :=
  ∀ (s : State),
    (∀ w va mine u, mine = s.pageReqs.filter (·.covers w va) →
      u = ({ s with pageReqs := s.pageReqs.filter fun q => !q.covers w va } : State) →
      (s.act = some (.pageRequestMapped w va) → exec .pageRequestMapped s =
        .next (if mine.any (·.absent) then u.pageFresh w va else u).pagesChanged) ∧
      (∀ q is, s.act = some (.pageRequestRefusal w va q) → is = (fun r : PageReq => r.covers w va && r.quay == q) →
        s.pageReqs.filter is ≠ [] → exec .pageRequestRefusal s =
          .next (({ s with pageReqs := s.pageReqs.filter fun r => !is r } : State).refusePage w ⟨q, s.pageReqs.filter is⟩))) ∧
    (∀ w va, s.act = some (.translationInvalidate w va) →
      exec .translationInvalidate s = .next
        (({ s with tcache := s.tcache.filter fun e => !e.stale w va } : State).dropWorld w).pagesChanged) ∧
    (s.act = some .sideLogAdmit → exec .sideLogAdmit s = .next s.replay) ∧
    (∀ l d, s.act = some (.invalidationApplied l d) → (s.dup.any fun x => x.line == l && x.die == d) = true →
      exec .invalidationApplied s = .next (({ s.dropCopy l d with
        dup := s.dup.filter fun x => !(x.line == l && x.die == d), dupAcks := s.dupAcks ++ [(l, d)] } : State).post
          (.dupInvalidationAck l))) ∧
    (∀ l, s.act = some (.dupInvalidationAck l) → exec .dupInvalidationAck s =
      .next ({ s with dupAcks := s.dupAcks.filter fun d => d.1 != l } : State).retryHeld.replay) ∧
    (∀ c g data full ok, s.act = some (.storePerformed c g data full ok) → data.length ≤ 16 →
      (keyIsCl (16 * g) = true → ok = false →
        exec .storePerformed s = .next (s.postRecOf 0 15 ⟨cSEAL, 3, keyLoc (16 * g)⟩ 0 0)) ∧
      (keyIsCl (16 * g) = false ∨ ok = true → s.dup.any (·.line == g / 8) = false → s.dupAcks.any (·.1 == g / 8) = false →
        exec .storePerformed s = .next ((s.otherStore c g data).otherFull g full).unstall)) ∧
    (∀ die, s.act = some (.counterTableRescan die) → exec .counterTableRescan s =
      .next (s.pageCounts.foldl (fun s c => s.recount die c) { s with
        pageNotes := s.pageNotes.filter (·.1 != die), pageOvf := s.pageOvf.set die false, pageCounts := [] })) ∧
    (∀ is, s.act = some .copyChunk → s.slots.toList.all (·.copies.isEmpty) = false →
      is = (List.range 16).map (fun k => s.cl.copyLast + Fin.ofNat 16 (k + 1)) →
      exec .copyChunk s = .next (s.copyRound is))

/-- After R350-R352, R407: the events of the export engine complete; an import behind a fenced port, or whose header,
counter or line MACs fail in its first pass, ends with the code of the check and writes nothing; one whose line fails in
its second pass leaves the region zero. Where the rules leave a reading open, this is the model's choice: log 10, 11,
12. -/
def Obligations.ImagesAreCheckedFirst : Prop :=
  (∀ (s : State) (e : ExpOp), s.cl.exp = some e →
    (e.code = 0 → (s.act = some .exportImage → exec .exportImage s = .next (s.doExport e)) ∧
      (s.act = some .importImage → exec .importImage s = .next (s.doImport e false)) ∧
      (s.act = some .migrationImport → exec .migrationImport s = .next (s.doImport e true))) ∧
    (e.code ≠ 0 → s.act = some .exportImportComplete → exec .exportImportComplete s =
      .next (((s.modWorld e.world fun x => { x with expBusy := false }).modCl fun c =>
        { c with exp := none, expst := e.code.setWidth 64 }).engineSignal 15 e.sm e.inc 0 0))) ∧
  (∀ (s : State) (e : ExpOp) (m : Bool),
    (s.portUp e.port = false → s.doExport e = s.expEnd 5 ∧ s.doImport e m = s.expEnd 5) ∧
    (∀ ctr, s.portUp e.port = true → e.passed = some ctr → ∀ ix < e.lines,
      s.imageLineOk e (s.wst e.world).kcGen ctr ix = false → s.doImport e m = (s.zeroRegion e).expEnd 4) ∧
    (s.portUp e.port = true → e.passed = none →
      (s.nat (e.at 0) 4 ≠ 0x4C583943 ∨ s.nat (e.at 4) 2 ≠ 1 ∨ s.nat (e.at 6) 2 ≠ e.world.val ∨ s.nat (e.at 16) 8 ≠ e.lines →
        s.doImport e m = s.expEnd 7) ∧
      (s.nat (e.at 0) 4 = 0x4C583943 → s.nat (e.at 4) 2 = 1 → s.nat (e.at 6) 2 = e.world.val → s.nat (e.at 16) 8 = e.lines →
        (m = false → s.nat (e.at 8) 8 < (s.wst e.world).sctr.toNat → s.doImport e m = s.expEnd 3) ∧
        ((m = true ∨ (s.wst e.world).sctr.toNat ≤ s.nat (e.at 8) 8) → ∀ ix < e.lines,
          s.imageLineOk e (s.wst e.world).kcGen (s.nat (e.at 8) 8) ix = false → s.doImport e m = s.expEnd 4))) ∧
    (∀ n : Nat, (s.expEnd n).mem = s.mem ∧ (s.expEnd n).tags = s.tags))

/-! ### The host ports and the mailbox (R253, R254, R354, R387-R390, R397-R399, R432) -/

/-- After R254, R354, R387, R388, R399, R432: accesses of a host complete. A read answers its bytes, or nothing at an
error; a write is performed, logged or discarded, behind the earlier accesses of its port; the aperture and a counter
group outside ALLOW read as zero, the counters of the function and THROT as they stand; a register of the management
path is written or read; PSEM is taken when it is free and released by its port; a window's timer fails it while it is
open. Where the rules leave a reading open, this is the model's choice: log 8, 60, 61, 90. -/
def Obligations.HostAccessesComplete : Prop :=
  ∀ (s : State),
    (∀ p fn off n cuts, s.act = some (.hostBar2Read p fn off n) → inBar2 off n = true → s.portBehind p = false →
      cuts = outsideCuts ((s.wst fn).hbase.toNat + off) n → ∃ t, exec .hostBar2Read s = .next t ∧
        t.hostOut = s.hostOut ++ [.readReply p fn ((s.auditSealed fn p cuts).outsideGets fn cuts).1] ∧ t.mem = s.mem) ∧
    (∀ p fn off data ro cuts t, s.act = some (.hostBar2Write p fn off data ro) → inBar2 off data.length = true →
      (s.wst fn).inFlr = false → (ro = true ∨ s.portWaits p = false) → cuts = outsideCuts ((s.wst fn).hbase.toNat + off) data.length →
      s.outsidePuts (.port p) fn cuts data = some t → exec .hostBar2Write s = .next (t.auditSealed fn p cuts)) ∧
    (∀ p fn off len, s.act = some (.counterGroupRead p fn off len) → 0 < len → off + len ≤ 2 ^ 21 → s.portBehind p = false →
      ∃ t bs, exec .counterGroupRead s = .next t ∧ t.hostOut = s.hostOut ++ [.readReply p fn (some bs)] ∧ bs.length = len ∧
        t.mem = s.mem ∧ (off + len ≤ 0x4000 → leNat bs = 0) ∧ (off % 8 = 0 → len = 8 → (off = 0x4100 → leNat bs = (s.wst fn).enqbad.toNat) ∧
          (off = 0x4108 → leNat bs = (s.wst fn).enqlost.toNat) ∧ (off = 0x4110 → leNat bs = (s.wst fn).intlost.toNat) ∧
          (off = 0x4118 → leNat bs = (s.wst fn).flrst.toNat) ∧
          ∀ g, g < 64 → off / 0x1000 = 0x100 + g →
            ((s.wst fn).allow.getLsbD g = false ∨ 62 ≤ g → leNat bs = 0) ∧
            ((s.wst fn).allow.getLsbD g = true → g < 4 → off % 0x1000 = 0xC0 → leNat bs = s.throt[Fin.ofNat 4 g].toNat))) ∧
    (∀ p fn off data, s.act = some (.enqueueApertureWrite p fn off data) → (s.wst fn).inFlr = false → s.portWaits p = false →
      (0x4100 ≤ off → off < 0x5000 → exec .enqueueApertureWrite s = .next s) ∧
      (0x8000 ≤ off → off < 0x8400 → exec .enqueueApertureWrite s =
        .next (s.modWorld fn fun x => { x with msix := overlay x.msix (off - 0x8000) data }))) ∧
    (∀ p, (s.act = some (.psemTake p) → exec .psemTake s =
        .next (if s.psem &&& 3 = 0 then { s with psem := portId p } else s)) ∧
      (s.act = some (.psemRelease p) → exec .psemRelease s =
        .next (if s.psem &&& 3 = portId p then { s with psem := s.psem &&& ~~~3 } else s))) ∧
    (∀ reg w u v, s.act = some (.mgmtRegisterWrite reg w u (some v)) →
      exec .mgmtRegisterWrite s = .next (s.mgmtWrite reg w u v)) ∧
    (∀ reg w u v, s.act = some (.mgmtRegisterWrite reg w u none) → s.mgmtRead reg w u = some v →
      exec .mgmtRegisterWrite s = .next { s with mgmtOut := s.mgmtOut ++ [v] }) ∧
    (∀ i c k u, s.act = some (.cwinTimeout i) → s.cwins[i] = some c → c.timer = true →
      u = ({ s with cwins := s.cwins.set i (some { c with timer := false }) } : State) → u.cwinKey c = some k →
      exec .cwinTimeout s = .next (if u.cwinIsOpen k then u.writeBytes (k + 8) (leBytes 8 (u.nat (k + 8) 4 + 2 * 2 ^ 32))
        else u))

/-- After R389, R390: the mailbox commands of a function that is free run and end with the stated status, which the
completion event then reports. Where the rules leave a reading open, this is the model's choice: log 8, 10, 47, 53, 59,
60. -/
def Obligations.MailboxCompletes : Prop :=
  (∀ (s : State) (m : MbCmd) (fn : World), fn = m.fn → s.mbFree fn = true →
    (∀ nonce iova, s.act = some (.attest m nonce iova) → ∀ u, u = s.mbBegin m 0x01 →
      exec .attest s = .next ((u.sendHost m.port (.write m.port iova
        (Config.signedLog Config.identity nonce u.measurements))).mbEnds fn 2)) ∧
    (∀ t b, s.act = some (.towResume m t b) → ∀ u, u = s.mbBegin m 0x02 →
      (u.suspendedTow fn t = none → exec .towResume s = .next (u.mbEnds fn 3)) ∧
      (∀ k, u.suspendedTow fn t = some k → exec .towResume s = .next (((u.heldOf fn t).foldl (fun s r => s.requeue r.cluster (recIn fn r.rcd))
        (((u.unhold fn t).towSet k 0x20 8 b.toNat).towFlags k (flagSet 5 false))).mbEnds fn 2))) ∧
    (∀ t, s.act = some (.towDiscard m t) → ∀ u, u = s.mbBegin m 0x03 →
      (u.suspendedTow fn t = none → exec .towDiscard s = .next (u.mbEnds fn 3)) ∧
      (∀ k, u.suspendedTow fn t = some k → exec .towDiscard s = .next (((u.unhold fn t).towSet k 0 4 0).mbEnds fn 2))) ∧
    (∀ iova, s.act = some (.uitSet m iova) → ∃ t : State, exec .uitSet s = .next (t.mbEnds fn 2) ∧
      (t.wst fn).uit = some iova) ∧
    (∀ w i va len ex tmo, s.act = some (.cwinSet m w i va len ex tmo) → ∀ u, u = s.mbBegin m 0x05 →
      (w ≠ fn ∨ u.cwinTaken w i = true → exec .cwinSet s = .next (u.mbEnds fn 4)) ∧
      (w = fn → u.cwinTaken fn i = false → va % 128 = 0 → len % 128 = 0 → 256 ≤ len → len ≤ 2 ^ 16 → 1 ≤ ex → ex ≤ 256 → 1 ≤ tmo →
        tmo ≤ 65535 → u.cwinPages fn va len = true → exec .cwinSet s =
          .next (({ u with cwins := u.cwins.set i (some ⟨fn, va, len, ex, tmo, false⟩) } : State).mbEnds fn 2))) ∧
    (∀ i, s.act = some (.cwinArm m i) → ∀ u, u = s.mbBegin m 0x06 →
      (u.cwinTaken fn i = true → exec .cwinArm s = .next (u.mbEnds fn 4)) ∧
      (u.cwinTaken fn i = false → (u.cwins[i].bind u.cwinKey = none → exec .cwinArm s = .next (u.mbEnds fn 3)) ∧
        ∀ k, u.cwins[i].bind u.cwinKey = some k → exec .cwinArm s = .next ((u.cwinOpen i k).mbEnds fn 2)))) ∧
  (∀ (s : State) (fn : World) (p : HostPort), s.act = some (.mailboxCompletion fn) →
    (s.wst fn).mbst.extractLsb' 0 8 = 1 → (s.wst fn).mbPort = some p → s.portUp p = true →
    ∃ t, exec .mailboxCompletion s = .next t ∧ t.hostOut = s.hostOut ++ [.msix p fn 0] ∧
      (t.wst fn).mbst = ((s.wst fn).mbcmd &&& 0xFFFF0000) ||| BitVec.ofNat 64 (s.wst fn).mbEnd ∧ t.mem = s.mem)

/-- After R388, R390: the commands of the physical function complete while its port holds PSEM, and otherwise end with
NOSEM, or DENIED for another function. Where the rules leave a reading open, this is the model's choice: log 10, 59. -/
def Obligations.ExclusiveCommandsNeedTheSemaphore : Prop :=
  (∀ (s : State) (m : MbCmd) (code : Nat) (f : State → State × Nat), s.mbFree m.fn = true →
    (m.fn ≠ 0 → s.exclusive m code f = (s.mbBegin m code).mbEnds m.fn 4) ∧
    (m.fn = 0 → s.psem &&& 3 ≠ portId m.port → s.exclusive m code f = (s.mbBegin m code).mbEnds 0 5)) ∧
  (∀ (s : State) (m : MbCmd) (p : HostPort) (u : Nat → State), m.fn = 0 → m.port = p → s.mbFree 0 = true →
    s.psem &&& 3 = portId p → u = (fun code => s.mbBegin m code) →
    (∀ w tk ld, s.act = some (.worldCreate m w tk ld) → w ≠ 0 → (s.wst w).created = false → exec .worldCreate s =
      .next (((((u 0x10).newKeys w).modWorld w fun x =>
        { x with created := true, tenant := tk, loader := ld }).writeRoots w).mbEnds 0 2)) ∧
    (∀ w, s.act = some (.worldDestroy m w) → w ≠ 0 → (s.wst w).created = true → exec .worldDestroy s =
      .next ((((u 0x11).dropKeys w).modWorld w fun x => { x with created := false, tenant := 0, loader := 0 }).mbEnds 0 2)) ∧
    (∀ w d l pol v e, s.act = some (.migExport m w d l pol) → s.policyOk w d l pol = true → (u 0x12).expRefused w 1 p = 0 →
      v = ((u 0x12).transportKey w).modWorld w (fun x => { x with expBusy := true, sctr := x.sctr + 1 }) →
      e = (⟨1, w, p, 0, 0, v.cl.expsrc, v.cl.expdst, 0, none⟩ : ExpOp) → exec .migExport s =
        .next ((((({ v with cl := { v.cl with expst := 1, exp := some e } } : State).post .exportImage).modWorld w fun x =>
          { x with wseal := x.wseal ||| 2 }).raiseWsec w 2).mbEnds 0 2)) ∧
    (∀ w d l pol, s.act = some (.migImport m w d l pol) → s.policyOk w d l pol = true → (u 0x13).isProt w = true →
      (s.wst w).sctr = 0 → exec .migImport s = .next (((u 0x13).transportKey w).mbEnds 0 2)) ∧
    (∀ w d l pol, s.policyOk w d l pol = false →
      (s.act = some (.migExport m w d l pol) → exec .migExport s = .next ((u 0x12).mbEnds 0 4)) ∧
      (s.act = some (.migImport m w d l pol) → exec .migImport s = .next ((u 0x13).mbEnds 0 4))) ∧
    (∀ iova len, s.act = some (.fwUpdate m iova len) → exec .fwUpdate s =
      .next (({ u 0x14 with fwImage := some (s.bytes (hostKey p iova) len) } : State).mbEnds 0 2)) ∧
    (∀ d a b, s.act = some (.routeSet m d a b) → exec .routeSet s =
      .next (({ u 0x15 with routes := s.routes.set d (a, b) } : State).mbEnds 0 2)) ∧
    (∀ w i e, s.act = some (.xwinSet m w i e) → winBase e % 2 ^ 21 = 0 → winLimit e % 2 ^ 21 = 0 →
      e.extractLsb' 204 52 = 0 → exec .xwinSet s =
        .next (((u 0x16).modWorld w fun x => { x with wins := x.wins.set i e }).pagesChanged.mbEnds 0 2)) ∧
    (∀ i sd sw w lo hi pm, s.act = some (.importSet m i sd sw w lo hi pm) → exec .importSet s =
      .next (({ u 0x16 with imports := s.imports.set i (some ⟨sd, sw, w, lo, hi, pm⟩) } : State).mbEnds 0 2)))

/-- After R343, R352, R390, R393-R395: the commands of the physical function on worlds, and on firmware, routes, windows
and imports, complete, each in every state in which its port holds PSEM and its mailbox is free: a world that does not
exist is created with keys of its own and counters of zero; one that exists is destroyed with its keys; a protected
world that may be exported is frozen, its save counter raised and its image begun; an import takes a transport key in
the place of KC; and the image, the route, the window or the entry of the import table is the one given, while the other
routes and entries stay. Where the rules leave a reading open, this is the model's choice: log 10, 59. -/
def Obligations.WorldAndTableCommandsComplete : Prop :=
  (∀ (s : State) (m : MbCmd) (p : HostPort) (w : World), m.fn = 0 → m.port = p → s.mbFree 0 = true → s.psem &&& 3 = portId p →
    (∀ tk ld, s.act = some (.worldCreate m w tk ld) → w ≠ 0 → (s.wst w).created = false → ∃ t, exec .worldCreate s = .next t ∧
      (t.wst w).created = true ∧ (t.wst w).tenant = tk ∧ (t.wst w).loader = ld ∧ (t.wst w).keys = true ∧ (t.wst w).sctr = 0 ∧ (t.wst w).rctr = 0 ∧ (t.wst 0).mbEnd = 2 ∧
      ∀ i, SameRegs (t.slot i) (s.slot i)) ∧
    (s.act = some (.worldDestroy m w) → w ≠ 0 → (s.wst w).created = true → ∃ t, exec .worldDestroy s = .next t ∧
      (t.wst w).created = false ∧ (t.wst w).keys = false ∧ (t.wst 0).mbEnd = 2 ∧ t.slots = s.slots ∧ t.mem = s.mem) ∧
    (∀ d l pol, s.act = some (.migExport m w d l pol) → s.policyOk w d l pol = true → s.expRefused w 1 p = 0 → ∃ t, exec .migExport s = .next t ∧
      (t.wst w).wseal = (s.wst w).wseal ||| 2 ∧ (t.wst w).sctr = (s.wst w).sctr + 1 ∧ (t.wst w).expBusy = true ∧
      t.cl.exp = some ⟨1, w, p, 0, 0, s.cl.expsrc, s.cl.expdst, 0, none⟩ ∧ t.cl.expst = 1 ∧ (t.wst 0).mbEnd = 2 ∧ t.mem = s.mem) ∧
    (∀ d l pol, s.act = some (.migImport m w d l pol) → s.policyOk w d l pol = true → s.isProt w = true → (s.wst w).sctr = 0 → ∃ t,
      exec .migImport s = .next t ∧ 2 ^ 64 ≤ (t.wst w).kcGen ∧ (t.wst 0).mbEnd = 2 ∧ t.slots = s.slots ∧ t.mem = s.mem)) ∧
  (∀ (s : State) (m : MbCmd) (p : HostPort), m.fn = 0 → m.port = p → s.mbFree 0 = true → s.psem &&& 3 = portId p →
    (∀ iova len, s.act = some (.fwUpdate m iova len) → ∃ t, exec .fwUpdate s = .next t ∧
      t.fwImage = some (s.bytes (hostKey p iova) len) ∧ (t.wst 0).mbEnd = 2 ∧ t.slots = s.slots ∧ t.mem = s.mem) ∧
    (∀ d a b, s.act = some (.routeSet m d a b) → ∃ t, exec .routeSet s = .next t ∧ t.routes[d] = (a, b) ∧
      (∀ e, e ≠ d → t.routes[e] = s.routes[e]) ∧ (t.wst 0).mbEnd = 2 ∧ t.slots = s.slots ∧ t.mem = s.mem) ∧
    (∀ w i e u, s.act = some (.xwinSet m w i e) → winBase e % 2 ^ 21 = 0 → winLimit e % 2 ^ 21 = 0 →
      e.extractLsb' 204 52 = 0 → u = (s.mbBegin m 0x16).modWorld w (fun x => { x with wins := x.wins.set i e }) →
      (u.wst w).wins[i] = e ∧ exec .xwinSet s = .next (u.pagesChanged.mbEnds 0 2)) ∧
    (∀ i sd sw w lo hi pm, s.act = some (.importSet m i sd sw w lo hi pm) → ∃ t, exec .importSet s = .next t ∧
      t.imports[i] = some ⟨sd, sw, w, lo, hi, pm⟩ ∧ (∀ j, j ≠ i → t.imports[j] = s.imports[j]) ∧ (t.wst 0).mbEnd = 2 ∧
      t.slots = s.slots ∧ t.mem = s.mem))

/-! ### The fabric, the sessions, the resets and the monitors (R340, R353, R379, R382-R385, R392-R396) -/

/-- After R340, R395, R396: an access of a peer that its entry of the import table admits is performed, one that none
admits is rejected; an answer, or the end of the time a peer has, ends the question or store that it names, and one that
names none is discarded. Where the rules leave a reading open, this is the model's choice: log 62. -/
def Obligations.PeerAccessesComplete : Prop :=
  ∀ (s : State),
    (∀ port dev sw op va data e, s.act = some (.peerAccessArrival port dev sw op va data) →
      peerSizeOk op va data.length = true →
      e = s.importFor dev sw (fun e => e.lo ≤ va && va + data.length ≤ e.hi && peerNeeds op &&& ~~~e.perm == 0) →
      (e = none → exec .peerAccessArrival s = .next (s.reject port dev sw)) ∧
      (∀ i, e = some i → s.sealedAny i.world va data.length = true → exec .peerAccessArrival s = .next (s.reject port dev sw)) ∧
      (∀ i t, e = some i → s.sealedAny i.world va data.length = false → s.peerBehind port dev = false → s.peerDo port dev sw i.world op va data = some t →
        exec .peerAccessArrival s = .next t)) ∧
    (∀ num data i q, s.act = some (.peerResponse num data none) → s.askOf num = some (i, q) → exec .peerResponse s =
      .next (s.answered i q (some (data ++ List.replicate (4096 - data.length) 0, none)))) ∧
    (∀ num data c i q r, s.act = some (.peerResponse num data (some c)) → s.askOf num = some (i, q) →
      r = s.packetCap s.routes[Fin.ofNat 256 q.dev].1 (BitVec.ofNat 8 q.dev) c → exec .peerResponse s =
        .next (r.1.answered i q (some (leBytes 16 r.2.bits.toNat ++
          List.replicate (4096 - (leBytes 16 r.2.bits.toNat).length) 0, some r.2)))) ∧
    (∀ num data c, s.act = some (.peerResponse num data c) → s.askOf num = none →
      (∀ p, s.peerOut.find? (·.num == num) = some p → exec .peerResponse s = .next (s.storeEnded p).writesDone) ∧
      (s.peerOut.find? (·.num == num) = none → exec .peerResponse s = .next s)) ∧
    (∀ num, s.act = some (.ptmo num) →
      (∀ i q, s.askOf num = some (i, q) → exec .ptmo s = .next (s.answered i q none)) ∧
      (s.askOf num = none → ∀ p, s.peerOut.find? (·.num == num) = some p → exec .ptmo s =
        .next ((s.storeEnded p).postRecOf p.world p.sl ⟨cMEMERR, 7, p.lva⟩ p.pc p.insn).writesDone))

/-- After R353, R379, R384, R385, R392, R393: the events of links, sessions, throttling, training and scrubbing
complete. Where the rules leave a reading open, this is the model's choice: log 63, 66. -/
def Obligations.LinksAndMonitorsComplete : Prop :=
  (∀ (s : State),
    (∀ p, (s.act = some (.fabricFailover p) → exec .fabricFailover s = .next { s with linkUp := s.linkUp.set p false }) ∧
      (s.act = some (.fabricLinkUp p) → exec .fabricLinkUp s = .next { s with linkUp := s.linkUp.set p true })) ∧
    (∀ p, (s.act = some (.cxlLinkDown p) → exec .cxlLinkDown s = .next { s with cxlUp := s.cxlUp.set p false }) ∧
      (s.act = some (.cxlLinkUp p) → exec .cxlLinkUp s = .next { s with cxlUp := s.cxlUp.set p true })) ∧
    (∀ p, s.act = some (.hotReset p) → ∃ t, exec .hotReset s = .next t ∧ t.portUp p = false ∧ t.mem = s.mem ∧
      t.slots = s.slots ∧ t.psem = (if s.psem &&& 3 = portId p then (s.psem &&& ~~~3) ||| 0x100 else s.psem)) ∧
    (∀ p u, s.act = some (.hostSessionEstablished p) → u = s.setSession p true →
      exec .hostSessionEstablished s = .next ((s.hostHeld.filter (·.port == p)).foldl (fun (s : State) m => s.sendHost p m)
        { u with hostHeld := u.hostHeld.filter (·.port != p) }).unstall)) ∧
  (∀ (s : State),
    (∀ die up, s.act = some (.throttleStep die up) → ∃ t, exec .throttleStep s = .next t ∧
      (t.throt[die].extractLsb' 0 4).toNat = (if up then min ((s.throt[die].extractLsb' 0 4).toNat + 1) 8
        else (s.throt[die].extractLsb' 0 4).toNat - 1) ∧ t.slots = s.slots ∧ t.mem = s.mem) ∧
    (s.act = some .supplyDroop → exec .supplyDroop s = .next s) ∧
    (∀ n, s.act = some (.vrefRecalibration n) → exec .vrefRecalibration s = .next s) ∧
    (∀ l e, s.act = some (.patrolScrub l e) → exec .patrolScrub s = .next ((e.foldl State.softError s).listBad 0 l)))

/-- After R342, R382, R383, R385: cold, warm and function-level resets complete. Where the rules leave a reading open,
this is the model's choice: log 8, 63. -/
def Obligations.ResetsComplete : Prop :=
  (∀ (s : State),
    (s.act = some .coldReset → exec .coldReset s = .next { s.resetAll with measured := s.fwImage.map sha3_256 }) ∧
    (s.act = some .warmReset → exec .warmReset s = .next
      { s.resetAll with badLines := s.badLines, blList := s.blList, blOvf := s.blOvf, blFound := s.blFound,
                        errCounts := s.errCounts }) ∧
    (s.act = some .thermalTrip → ∃ t, exec .thermalTrip s = .next t ∧ t.tripped = true ∧
      t.hostOut = s.hostOut ++ [.msix .a 0 0, .msix .b 0 0] ∧
      t.slots = State.reset.slots ∧ t.trapQ = State.reset.trapQ ∧ t.sem = State.reset.sem) ∧
    (s.resetAll.slots = State.reset.slots ∧ s.resetAll.sem = State.reset.sem ∧ s.resetAll.tags = State.reset.tags ∧
      s.resetAll.frec = State.reset.frec ∧ s.resetAll.trapQ = [] ∧ s.resetAll.worlds = State.reset.worlds ∧
      ∀ k, keyIsHost k = false → s.resetAll.byte k = State.reset.byte k)) ∧
  (∀ (s : State) (w : World),
    (s.act = some (.functionLevelReset w) → w ≠ 0 → ∃ t, exec .functionLevelReset s = .next t ∧ (t.wst w).inFlr = true ∧
      (t.ring w).recs = [] ∧ t.mem = s.mem ∧ ∀ i, i ≠ 15 → (s.slot i).world = w → (s.slot i).status ≠ .free →
        (t.slot i).pendWsec = some (16 + w.val)) ∧
    (∀ u, s.act = some (.functionLevelResetComplete w) → (s.wst w).inFlr = true →
      u = (((((((s.discardSlots w).discardQueues w).flrLaunches w).sweepTags w).zeroSealed w).dropKeys w).forgetCaches
        w).modWorld w (fun x => { x with inFlr := false, flrst := 1, wseal := 0 }) → (u.wst w).protNext = none →
      exec .functionLevelResetComplete s = .next u.unstall))

/-! ### Memory and what an instruction leaves alone (R195, R197, R209-R213) -/

/-- After R359, R382: the state after reset is safe: memory has its canonical form, with nothing listed, and the trap
queue is empty. Where the rules leave a reading open, this is the model's choice: log 2, 6, 7. -/
def Obligations.ResetIsSafe : Prop :=
  State.reset.safe ∧ State.reset.mem = [] ∧ State.reset.trapQ = []

/-- Every step of a safe state leads to a safe state: memory keeps its canonical form, and the trap queue never holds
more than 16 records (R359). -/
def Obligations.StepKeepsSafe : Prop :=
  ∀ s t : State, s.safe → step s = .next t → t.safe

/-- After R195, R197, R209, R210, R213: a write to memory is read back, and changes nothing else but lines and granules
in error that it repairs; and a store to cluster memory is what the next load reads. Where the rules leave a reading
open, this is the model's choice: log 64. -/
def Obligations.WritesAreReadBack : Prop :=
  (∀ (s t : State) (k : Nat) (bs : List Byte), Memory.wf s → t = s.writeBytes k bs →
    (∀ i (h : i < bs.length), t.byte (k + i) = bs[i]) ∧
    (∀ a, a < k ∨ k + bs.length ≤ a → a / 128 ∉ s.badLines → a / 16 ∉ s.badGrans → t.byte a = s.byte a) ∧
    t.bytes k bs.length = bs ∧
    (keyIsHost k = false → ∀ a, k ≤ a → a < k + bs.length → t.tagAt a = false) ∧
    (∀ a, a / 16 < k / 16 ∨ (k + bs.length - 1) / 16 < a / 16 → a / 128 ∉ s.badLines → a / 16 ∉ s.badGrans →
      t.tagAt a = s.tagAt a) ∧ Memory.wf t) ∧
  (∀ (s t : State) (o q : MOp) (c : Cap) (ea n : Nat), Memory.wf s → c = s.rc o.oa → ea = mEa s o → n = szBytes o.size →
    capLocal c = true → o.ord = 0 → s.sl.quay = none → o.hdr.sigInc = 0 → accessChecks s c ea n pW .plain 1 = .ok () →
    o.size.toNat ≤ 3 → t = ended o.hdr (s.writeBytes (locKey ea) (leBytes n (s.rx o.od).toNat)) →
    exec (.st o) s = .next t ∧
    t.bytes (locKey ea) n = leBytes n (s.rx o.od).toNat ∧
    (∀ a, a < locKey ea ∨ locKey ea + n ≤ a → a / 128 ∉ s.badLines → a / 16 ∉ s.badGrans → t.byte a = s.byte a) ∧ t.tagAt (locKey ea) = false ∧
    (q.oa = o.oa → q.size = o.size → q.ord = 0 → mEa t q = ea → accessChecks t c ea n pR .plain 1 = .ok () →
      t.readError t.world (locKey ea) n ea = none →
      exec (.ld q) t = .next (ended q.hdr (t.wx q.od (extBytes (leBytes n (s.rx o.od).toNat) (q.x == 1))))))

/-- After R28, R43, R73-R82, R292, R293, R332, R333: an instruction on registers alone changes its destination, the pc
and, by its SIG, a semaphore: every other register, special register, unit, byte of memory and granule bit is as
before. -/
def Obligations.RegisterInstructionsKeepTheRest : Prop :=
  ∀ (s t : State) (o : ROp) (q : RIOp) (d : IOp),
    ∀ p ∈ [(Instr.add q, riHdr q, [Reg.x (riOd q)]), (.sub q, riHdr q, [.x (riOd q)]), (.mul q, riHdr q, [.x (riOd q)]),
        (.mulh o, o.hdr, [.x o.od]), (.mad o, o.hdr, [.x o.od]), (.div o, o.hdr, [.x o.od]), (.rem o, o.hdr, [.x o.od]),
        (.and q, riHdr q, [.x (riOd q)]), (.or q, riHdr q, [.x (riOd q)]), (.xor q, riHdr q, [.x (riOd q)]),
        (.andn q, riHdr q, [.x (riOd q)]), (.shl q, riHdr q, [.x (riOd q)]), (.shr q, riHdr q, [.x (riOd q)]),
        (.sra q, riHdr q, [.x (riOd q)]), (.rotl q, riHdr q, [.x (riOd q)]), (.min q, riHdr q, [.x (riOd q)]),
        (.max q, riHdr q, [.x (riOd q)]), (.abs o, o.hdr, [.x o.od]), (.clz o, o.hdr, [.x o.od]), (.ctz o, o.hdr, [.x o.od]),
        (.popc o, o.hdr, [.x o.od]), (.bfx q, riHdr q, [.x (riOd q)]), (.bfi q, riHdr q, [.x (riOd q)]),
        (.shadd q, riHdr q, [.x (riOd q)]), (.sel o, o.hdr, [.x o.od]), (.mov o, o.hdr, [.x o.od]), (.li d, d.hdr, [.x d.od]),
        (.cvt o, o.hdr, [.x o.od]), (.bswap o, o.hdr, [.x o.od]), (.cmp q, riHdr q, [.p (riOd q)]), (.pand o, o.hdr, [.p o.od]),
        (.por o, o.hdr, [.p o.od]), (.pxor o, o.hdr, [.p o.od]), (.pnot o, o.hdr, [.p o.od]),
        (.pmov o, o.hdr, [if o.md.sub = 0 ∨ o.md.sub = 1 then .p o.od else .x o.od]), (.br d, d.hdr, []), (.jmp o, o.hdr, []),
        (.call q, riHdr q, [.c 31]), (.ret o, o.hdr, []), (.loop d, d.hdr, [.x d.od]), (.nop o, o.hdr, []),
        (.cgeta o, o.hdr, [.x o.od]), (.cgetb o, o.hdr, [.x o.od]), (.cgetl o, o.hdr, [.x o.od]), (.cgetp o, o.hdr, [.x o.od]),
        (.ctag o, o.hdr, [.p o.od]), (.csub o, o.hdr, [.x o.od]), (.cmov o, o.hdr, [.c o.od]), (.cclr o, o.hdr, [.c o.od]),
        (.fclass o, o.hdr, [.x o.od])],
      exec p.1 s = .next t →
      SameRegsBut p.2.2 t.sl s.sl ∧ SameSpecials t.sl s.sl ∧ t.sl.mons = s.sl.mons ∧ t.sl.fstat = s.sl.fstat ∧
        t.sl.ports = s.sl.ports ∧ SameTraps p.2.1 s t ∧ SameUnits s t ∧ SameMemory s t

/-- After R68, R84-R103, R333: a scalar float, a vector, special-function, cross-lane or mask, or a deriving instruction
leaves every register but its destination, the special registers, the units and all memory as they were. -/
def Obligations.FloatAndVectorKeepTheRest : Prop :=
  (∀ (s t : State) (o : ROp) (q : RIOp),
    ∀ p ∈ [(Instr.fadd o, Reg.x o.od), (.fsub o, .x o.od), (.fmul o, .x o.od), (.ffma o, .x o.od), (.fdiv o, .x o.od),
        (.fsqrt o, .x o.od), (.fmin o, .x o.od), (.fmax o, .x o.od), (.fcmp o, .p o.od), (.fcvt o, .x o.od),
        (.cseta o, .c o.od), (.cinc q, .c (riOd q)), (.cbnd q, .c (riOd q)), (.cbnde q, .c (riOd q)), (.cperm q, .c (riOd q)),
        (.cseal o, .c o.od), (.cunseal o, .c o.od)],
      exec p.1 s = .next t →
      SameRegsBut [p.2] t.sl s.sl ∧ SameSpecials t.sl s.sl ∧ t.sl.mons = s.sl.mons ∧ t.sl.ports = s.sl.ports ∧ SameUnits s t ∧ SameMemory s t) ∧
  (∀ (s t : State) (o : ROp) (q : RIOp),
    ∀ p ∈ [(Instr.vadd o, Reg.v o.od), (.vsub o, .v o.od), (.vmul o, .v o.od), (.vfma o, .v o.od), (.vfms o, .v o.od),
        (.vmin o, .v o.od), (.vmax o, .v o.od), (.vabs o, .v o.od), (.vneg o, .v o.od), (.vand o, .v o.od), (.vor o, .v o.od),
        (.vxor o, .v o.od), (.vshl q, .v (riOd q)), (.vshr q, .v (riOd q)), (.vsel o, .v o.od), (.vclamp o, .v o.od),
        (.vcvt o, .v o.od), (.vexp2 o, .v o.od), (.vlog2 o, .v o.od), (.vrcp o, .v o.od), (.vrsq o, .v o.od), (.vsqrt o, .v o.od),
        (.vmov o, .v o.od), (.vdot o, .v o.od), (.vscl o, .v o.od), (.vbcast q, .v (riOd q)), (.vins o, .v o.od),
        (.vext o, .x o.od), (.vcmp o, .k o.od), (.vsin o, .v o.od), (.vcos o, .v o.od), (.vtanh o, .v o.od), (.vsigm o, .v o.od),
        (.vexpd o, .v o.od), (.vredsum o, .v o.od), (.vredmax o, .v o.od), (.vredmin o, .v o.od), (.vscan o, .v o.od),
        (.vperm o, .v o.od), (.vshuf o, .v o.od), (.vpack o, .v o.od), (.vunpack o, .v o.od), (.kand o, .k o.od), (.kor o, .k o.od),
        (.kxor o, .k o.od), (.knot o, .k o.od), (.kpop o, .x o.od), (.kfirst o, .x o.od), (.kset q, .k (riOd q)),
        (.kmov o, if o.md.sub.toNat < 2 then .k o.od else .x o.od)],
      exec p.1 s = .next t →
      SameRegsBut [p.2] t.sl s.sl ∧ SameSpecials t.sl s.sl ∧ t.sl.mons = s.sl.mons ∧ SameUnits s t ∧ SameMemory s t ∧
        ((∀ r, portOf s.sl r = none) → t.sl.ports = s.sl.ports))

/-- After R195, R209-R218, R222: a load, a gather or a line instruction leaves all memory and every register but its
destination as they were; a store or a scatter leaves every register (k7 of a suppressing form apart), and every byte of
memory but those stored, whose addresses the statement computes, with the T and F bits of every other granule, lines and
granules in error that it repairs apart. A fibre that moves while a sweep runs takes its capability registers filtered
(R338). Where the rules leave a reading open, this is the model's choice: log 41, 42, 64, 99. -/
def Obligations.LoadsAndStoresKeepTheRest : Prop :=
  (∀ (s t : State) (o : MOp) (f : ROp),
    ∀ p ∈ [(Instr.ld o, [Reg.x o.od]), (.ldm o, [.x o.od]), (.ldc o, [.c o.od]), (.vld o, [.v o.od]),
        (.vldg o, if o.x = 1 then [.v o.od, .k 7] else [.v o.od]), (.pref o, []), (.lflush o, []), (.linv o, []), (.fence f, []),
        (.mig o, []), (.home f, [])],
      exec p.1 s = .next t →
      (SameRegsBut p.2 t.sl s.sl ∨ SameRegsBut p.2 t.sl (s.filterRegs s.sl)) ∧ SameSpecials t.sl s.sl ∧ t.sl.mons = s.sl.mons ∧
        SameMemory s t) ∧
  (∀ (s t : State) (o : MOp) (c : Cap) (ea : Nat), Memory.wf s → c = s.rc o.oa → ea = mEa s o →
    (exec (.st o) s = .next t → (SameRegs t.sl s.sl ∨ SameRegs t.sl (s.filterRegs s.sl)) ∧ SameSpecials t.sl s.sl ∧
      SameWatch t.sl s.sl ∧
      SameOutside (spansOf (travelled s c ea) c ea { w := true } (leBytes (szBytes o.size) (s.rx o.od).toNat)) [] s t) ∧
    (exec (.vst o) s = .next t → SameRegs t.sl s.sl ∧ SameSpecials t.sl s.sl ∧ SameWatch t.sl s.sl ∧
      (fifoUse c = true → SameMemory s t) ∧
      (fifoUse c = false → SameOutside (spansOf s c ea { w := true } (leBytes 128 (s.sl.rv o.od).toNat)) [] s t)) ∧
    (exec (.stc o) s = .next t → (SameRegs t.sl s.sl ∨ SameRegs t.sl (s.filterRegs s.sl)) ∧ SameSpecials t.sl s.sl ∧
      SameWatch t.sl s.sl ∧ (fifoUse c = true → SameMemory s t) ∧
      ∀ v, v = keepTag o.size (s.rc o.od) → fifoUse c = false →
        SameOutside (spansOf (travelled s c ea) c ea { w := true, cw := v.tag } (leBytes 16 v.bits.toNat)) [] s t) ∧
    (exec (.vsts o) s = .next t → SameRegsBut (if o.x = 1 then [.k 7] else []) t.sl s.sl ∧ SameSpecials t.sl s.sl ∧
      SameWatch t.sl s.sl ∧
      SameOutside (lanesSpans s c (szBytes o.size) (s.sl.rv o.od).toNat (mStore o) (scattered s o)) [] s t) ∧
    (exec (.ldfe o) s = .next t → SameRegsBut [if o.size = 6 then .c o.od else .x o.od] t.sl s.sl ∧ SameSpecials t.sl s.sl ∧
      SameWatch t.sl s.sl ∧ SameOutside [] (if o.x = 1 then [locKey ea / 16] else []) s t) ∧
    (exec (.stfe o) s = .next t → SameRegs t.sl s.sl ∧ SameSpecials t.sl s.sl ∧ SameWatch t.sl s.sl ∧
      SameOutside [(locKey ea, szBytes o.size)] (if o.x = 1 then [locKey ea / 16] else []) s t))

/-- After R218-R226: an atomic changes its destination, the bytes of its operand, which `atomicSpans` computes, with the
T bits of their granules, and the control bytes of a collective window that counts it; a reduction, a copy or a monitor
that is armed or released leaves all memory as it was, for the remote update and the copy engine write later. Every
other register and special register is as before, but that a fibre that moves takes its capability registers filtered
(R338). -/
def Obligations.AtomicsAndCopiesKeepTheRest : Prop :=
  ∀ (s t : State) (o : MOp) (r : ROp) (c : Cap) (ea : Nat), Memory.wf s → c = s.rc o.oa → ea = mEaAtomic s o →
    (∀ i ∈ [Instr.amoadd o, .amomin o, .amomax o, .amoand o, .amoor o, .amoxor o, .amofadd o] ++
        (if o.size = 6 then [] else [.amoswp o, .amocas o]), exec i s = .next t →
      (SameRegsBut [.x o.od] t.sl s.sl ∨ SameRegsBut [.x o.od] t.sl (s.filterRegs s.sl)) ∧ SameSpecials t.sl s.sl ∧
        SameWatch t.sl s.sl ∧ SameOutside (atomicSpans s c ea (szBytes o.size) { r := true, w := true }) [] s t) ∧
    (∀ i ∈ [Instr.amoswp o, .amocas o], o.size = 6 → exec i s = .next t →
      (SameRegsBut [.c o.od] t.sl s.sl ∨ SameRegsBut [.c o.od] t.sl (s.filterRegs s.sl)) ∧ SameSpecials t.sl s.sl ∧
        SameWatch t.sl s.sl ∧
        SameOutside (atomicSpans s c ea 16 { r := true, w := true, cw := (s.rc o.ob).tag }) [] s t) ∧
    (∀ i ∈ [Instr.redadd o, .redmin o, .redmax o, .redfadd o, .cpy r, .cpyq r], exec i s = .next t →
      SameRegs t.sl s.sl ∧ SameSpecials t.sl s.sl ∧ t.sl.mons = s.sl.mons ∧ t.sl.fstat = s.sl.fstat ∧ SameMemory s t) ∧
    (exec (.mon o) s = .next t → SameRegsBut [.x o.od] t.sl s.sl ∧ SameSpecials t.sl s.sl ∧ SameMemory s t) ∧
    (exec (.unmon o) s = .next t → SameRegs t.sl s.sl ∧ SameSpecials t.sl s.sl ∧ SameMemory s t)

/-- After R117-R156: an instruction of the matrix unit or a frame instruction leaves every register but its destination
and cfr, the special registers, and every byte of memory but what it stores as they were: the areas of msave, and the
descriptors, page entries and rows of a frame instruction. -/
def Obligations.MatrixAndFrameInstructionsKeepTheRest : Prop :=
  (∀ (s t : State) (o : ROp) (m : MOp), Memory.wf s →
    (∀ p ∈ [(Instr.mcfg o, []), (.mscl o, []), (.mzero o, []), (.mma o, []), (.mmas o, []), (.mhand o, []),
        (.mrowrd o, [Reg.v o.od]), (.mrowwr o, []), (.mstat o, [.x o.od]), (.mlda m, []), (.mldb m, []), (.mdrain m, []),
        (.mrest m, [])],
      exec p.1 s = .next t →
      SameRegsBut p.2 t.sl s.sl ∧ SameSpecials t.sl s.sl ∧ t.sl.mons = s.sl.mons ∧ SameMemory s t) ∧
    (exec (.msave m) s = .next t → SameRegs t.sl s.sl ∧ SameSpecials t.sl s.sl ∧ SameWatch t.sl s.sl ∧
      ∀ u, matReady s = .ok u → SameOutside (areaSpans u (s.rc m.oa) (mHint m) (savedAreas u m)) [] s t)) ∧
  (∀ (s t u : State) (o : ROp) (q : RIOp), Memory.wf s → u = s.dropWorld s.world →
    (∀ p ∈ [(Instr.fenter o, [Reg.c 29]), (.fvis o, [.p o.od]), (.fmask o, [.k o.od]),
        (.fdesc q, if (riMd q).sub = 0 then [.x (riOd q)] else [.c (riOd q)])],
      exec p.1 s = .next t →
      SameRegsBut p.2 t.sl s.sl ∧ SameSpecials t.sl s.sl ∧ t.sl.mons = s.sl.mons ∧ SameMemory s t) ∧
    (∀ p ∈ [(Instr.farg o, s.cfr), (.fkeep o, s.cfr), (.fwin q, s.cfr), (.fseal o, s.rc o.oa), (.fshare o, s.rc o.oa)],
      exec p.1 s = .next t → SameRegs t.sl s.sl ∧ SameSpecials t.sl s.sl ∧ SameWatch t.sl s.sl ∧
        ∀ x, frameCheck u p.2 = .ok x → SameOutside [(x.1.key + 128 * x.2, 128)] [] s t) ∧
    (exec (.fappend q) s = .next t → SameRegsBut [.x (riOd q)] t.sl s.sl ∧ SameSpecials t.sl s.sl ∧ SameWatch t.sl s.sl ∧
      ∀ x n d, openFrame u = .ok x → regOrImm32 u q (x.1.addr x.2) = .ok n →
        d = (x.1.get x.2).setFld 256 32 ((x.1.get x.2).len + n) →
        SameOutside ((x.1.key + 128 * x.2, 128) :: leafSpans ((x.1.put x.2 d).flush u) s.world (u.pagesBehind s.world d)) [] s t) ∧
    (exec (.fpush o) s = .next t → SameRegsBut [.c o.od, .c 29] t.sl s.sl ∧ SameSpecials t.sl s.sl ∧ SameWatch t.sl s.sl ∧
      ∀ p, (if o.oc = 0 then pushChild u o else pushRoot u o) = .ok p → SameOutside [(p.t.key, 8192)] [] s t) ∧
    (exec (.fdrop o) s = .next t → SameRegsBut [.c 29] t.sl s.sl ∧ SameSpecials t.sl s.sl ∧ SameWatch t.sl s.sl ∧
      ∀ x, frameCheck u (s.rc o.oa) = .ok x →
        SameOutside ((x.1.key, 8192) :: leafSpans u s.world (u.framePages s.world (x.1.get x.2))) [] s t) ∧
    (exec (.fpop o) s = .next t → SameRegsBut [.x o.od, .c 29] t.sl s.sl ∧ SameSpecials t.sl s.sl ∧ SameWatch t.sl s.sl ∧
      ∀ x c g kl dlt b, cfrCheck u = .ok x → c = x.1.get x.2 → g = x.1.get (x.1.slotOf c.parent) →
        kl = (if c.keepset then c.klen else 0) →
        dlt = (if kl = 0 then 0 else ((g.posb + g.len : Nat) : Int) - (c.posb + c.kstart : Nat)) →
        b = g.setFld 256 32 (g.len + kl) →
        SameMemory s t ∨
        (∃ st z, copyRows u c g dlt (x.1.addr x.2) 0 kl = .error (st, z) ∧ SameMemory z t) ∨
        ∃ r z, copyRows u c g dlt (x.1.addr x.2) 0 kl = .ok r ∧ z = r.1.releasePages s.world (r.1.pagesBehind s.world b) ∧
          SameOutside ((x.1.key, 8192) :: leafSpans r.1 s.world (r.1.pagesBehind s.world b) ++
            leafSpans z s.world (z.framePages s.world c)) [] r.1 t))

/-! ### Decoding (R27, R30, R35-R49) -/

/-- After R27, R30, R35-R49: decoding and encoding undo one another on every well-formed instruction and on every legal
word, with every operand at every value that its encoding admits. -/
def Obligations.DecodeAndEncodeAgree : Prop :=
  (∀ (i : Instr) (w : BitVec 96), i.wf = true → encode i = some w → decode w = .ok i) ∧
  (∀ (i : Instr) (w : BitVec 96), decode w = .ok i → i.wf = true ∧ encode i = some w)

/-- Words that the spec writes out decode to the instructions they stand for. -/
def Obligations.WordsOfTheSpecDecode : Prop :=
  decode (word3 0x1860A401 0x0000000A 0x00003041) = .ok (.add (.i ⟨⟨10, 0, 4, 1⟩, 6, 6, 10, mdTy 3⟩)) ∧
  decode (word3 0x1440004E 0 0x0081B000) = .ok (.fcvt ⟨noHdr, 4, 5, 0, 0, 0, noWait, ⟨0, 0, 0, 8, 0, 1, 11⟩⟩) ∧
  decode (word3 0x00100080 0x0000003F 0x00006000) = .ok (.vadd ⟨noHdr, 1, 0, 63, 0, 0, noWait, mdTy 6⟩) ∧
  decode (word3 0x34300100 0 0x00100000) = .ok (.sbind ⟨noHdr, 3, 13, 0, 0, 0, noWait, mdSub 1⟩) ∧
  decode (word3 0x28000927 0x00008808 0x814FF051) =
    .ok (.mdrain ⟨⟨0, 0, 5, 1⟩, 0, 10, 8, 544, noWait, 1, 0, 0, 5, 0, 0xFF⟩) ∧
  decode (word3 0x68002145 0x0000001B 0) = .ok (.fkeep ⟨⟨2, 0, 0, 0⟩, 0, 26, 27, 0, 0, noWait, md0⟩) ∧
  decode (word3 0x1C600166 0x02042045 0x00100000) = .ok (.tbwalk ⟨noHdr, 6, 7, 5, 1, 2, ⟨2, 1⟩, mdSub 1⟩) ∧
  decode (word3 0x18100172 0x0000714A 0x40110011) =
    .ok (.xquant ⟨⟨0, 0, 1, 1⟩, 1, 6, 10, 5, 7, noWait, ⟨4, 0, 0, 1, 0, 1, 0⟩⟩) ∧
  decode (word3 0x185009C0 0x00000047 0x26CFF000) = .ok (.amoadd ⟨noHdr, 5, 6, 7, 1, noWait, 0, 2, 3, 3, 0, 0xFF⟩) ∧
  decode (word3 0x000005E3 0x00000006 0x00300000) = .ok (.smset (.i ⟨noHdr, 0, 0, 6, mdSub 3⟩)) ∧
  decode (word3 0x00500604 0xFFFFFFFE 0) = .ok (.loop ⟨noHdr, 5, 0, 0xFFFFFFFE, md0⟩) ∧
  decode (word3 0x2C700224 0x000002C0 0x30000000) = .ok (.callat ⟨noHdr, 7, 11, 0, 11, 0, noWait, ⟨3, 0, 0, 0, 0, 0, 0⟩⟩) ∧
  decode (word3 0x2CB00647 0x00000020 0) = .ok (.cbnd (.i ⟨noHdr, 11, 11, 32, md0⟩)) ∧
  decode (word3 0x00000E80 0x00000007 0) = .ok (.trap ⟨noHdr, 0, 0, 7, 0, 0⟩)

/-- R30: a word whose WAIT.THR is 0 has WAIT.SM 0, and one whose SIG.INC is 0 has SIG.SM 0, or it is illegal; and an
instruction may wait on and signal the same semaphore. -/
def Obligations.WaitAndSigFieldsAreZeroTogether : Prop :=
  (∀ w : BitVec 96,
    ((hdrOf w).sigInc = 0 → (hdrOf w).sigSm ≠ 0 → ∃ n, decode w = .error n ∧ n ≤ 4) ∧
    ((bodyWait (bodyOf w)).thr = 0 → (bodyWait (bodyOf w)).sm ≠ 0 → ∃ n, decode w = .error n ∧ n ≤ 4)) ∧
  ∃ (w : BitVec 96) (i : Instr), decode w = .ok i ∧ (bodyWait (bodyOf w)).thr ≠ 0 ∧ (hdrOf w).sigInc ≠ 0 ∧
    (bodyWait (bodyOf w)).sm = (hdrOf w).sigSm

/-- R85: fmin and fmax return one of their operands unchanged: the other where exactly one is a NaN, the canonical NaN
where both are, minus zero counting as less than plus zero; they raise no flag; RM other than 0 is sub-code 6 and SAT 1
sub-code 3. -/
def Obligations.FloatMinAndMaxReturnAnOperand : Prop :=
  (∀ (s : State) (o : ROp) (a b : Nat) (x y : Machine.Num), a = flSrc o.md (s.rx o.oa) → b = flSrc o.md (s.rx o.ob) →
    x = (flFmt o.md).decode s.sl.tcx a → y = (flFmt o.md).decode s.sl.tcx b →
    ∀ p ∈ [(Instr.fmin o, a, b), (.fmax o, b, a)], ∃ r, exec p.1 s = .next (floatEnded o s (r, 0)) ∧
      (x.isNan = true → y.isNan = true → r = (flFmt o.md).canonNan s.sl.tcx) ∧
      (x.isNan = true → y.isNan = false → r = b) ∧ (x.isNan = false → y.isNan = true → r = a) ∧
      (x.isNan = false → y.isNan = false → (r = a ∨ r = b) ∧
        (Machine.Num.cmp x y = .lt ∨ (Machine.Num.cmp x y = .eq ∧ x.isNeg = true ∧ y.isNeg = false) → r = p.2.1) ∧
        (Machine.Num.cmp x y = .gt ∨ (Machine.Num.cmp x y = .eq ∧ x.isNeg = false ∧ y.isNeg = true) → r = p.2.2))) ∧
  ∀ o : ROp, ∀ i ∈ [Instr.fmin o, .fmax o],
    (o.md.sat = 1 → i.ill = some 3) ∧
    (i.rows.r3 = false → i.rows.r4 = false → i.rows.r5 = false → o.md.rm ≠ 0 → i.ill = some 6)

/-- R186: xpoll never waits: in every state it answers the number of the slot's requests that are not yet complete, in
bits [3:0], with the bits above zero. -/
def Obligations.XpollNeverWaits : Prop :=
  ∀ (s : State) (o : ROp) (n : Nat), n = (s.cl.xreqs.filter fun q => q.sl == s.cur && q.own).length →
    ∃ v : Word, exec (.xpoll o) s = .next (ended o.hdr (s.wx o.od v)) ∧ v = BitVec.ofNat 64 n ∧
      (n < 16 → (v.extractLsb' 0 4).toNat = n ∧ v.extractLsb' 4 60 = 0)

end
end

