-- ==== Sys2Proof/Laws/Encoding.lean ====
section
/-!
SUPPORT. The fields of a word and the word of its fields determine one another (R27, R35-R42).
-/

namespace Sys2Proof

/-- The opcode of a word made of fields. -/
theorem opcOf_bits (opc : Nat) (b : Body) (h : opc < 1024) : opcOf (b.bits opc) = opc := by
  cases b <;> (
    simp (disch := decide) only [opcOf, Body.bits, word0, BitVec.extractLsb'_append_eq_of_add_le, BitVec.extractLsb'_eq_self,
      BitVec.toNat_ofNat]
    exact Nat.mod_eq_of_lt h)

/-- The fields of a word made of fields. -/
theorem bodyOf_bits (opc : Nat) (b : Body) : bodyOf (b.bits opc) = b := by
  cases b <;> (
    simp (disch := decide) only [bodyOf, Body.bits, word0, word2, ModF.bits, MOp.tail, ropOf, iopOf, mopOf, xopOf, hdrOf, waitOf,
      modOf, BitVec.extractLsb'_append_eq_of_add_le, BitVec.extractLsb'_append_eq_of_le, Nat.reduceSub]
    simp only [Nat.reduceAdd, Nat.reduceSub, BitVec.extractLsb'_eq_self]
    all_goals rfl)

/-- The word of the fields of a word. -/
theorem bits_bodyOf (w : BitVec 96) : (bodyOf w).bits (opcOf w) = w := by
  have h0 : BitVec.ofNat 10 (opcOf w) = w.extractLsb' 0 10 := BitVec.ofNat_toNat _ _ |>.trans (BitVec.setWidth_eq _)
  have h1 : ∀ f : Nat, (w.extractLsb' 10 2).toNat = f → BitVec.ofNat 2 f = w.extractLsb' 10 2 := fun f h =>
    h ▸ (BitVec.ofNat_toNat _ _ |>.trans (BitVec.setWidth_eq _))
  rw [bodyOf]
  split
  · rename_i h
    have h2 : (0 : BitVec 2) = w.extractLsb' 10 2 := h1 _ h
    simp (disch := decide) only [Body.bits, ropOf, hdrOf, waitOf, modOf, word0, word2, ModF.bits, h0, h2,
      BitVec.extractLsb'_append_extractLsb'_eq_extractLsb']
    exact BitVec.extractLsb'_eq_self
  · rename_i h
    have h2 : (1 : BitVec 2) = w.extractLsb' 10 2 := h1 _ h
    simp (disch := decide) only [Body.bits, iopOf, hdrOf, modOf, word0, word2, ModF.bits, h0, h2,
      BitVec.extractLsb'_append_extractLsb'_eq_extractLsb']
    exact BitVec.extractLsb'_eq_self
  · rename_i h
    have h2 : (2 : BitVec 2) = w.extractLsb' 10 2 := h1 _ h
    simp (disch := decide) only [Body.bits, mopOf, hdrOf, waitOf, MOp.tail, word0, word2, h0, h2,
      BitVec.extractLsb'_append_extractLsb'_eq_extractLsb']
    exact BitVec.extractLsb'_eq_self
  · rename_i h3 h4 h5
    have hk : ∀ k : Nat, k < 4 → ¬ k = 0 → ¬ k = 1 → ¬ k = 2 → k = 3 := by omega
    have h2 : (3 : BitVec 2) = w.extractLsb' 10 2 := h1 3 (hk _ (BitVec.isLt _) h3 h4 h5)
    simp (disch := decide) only [Body.bits, xopOf, hdrOf, word0, word2, h0, h2,
      BitVec.extractLsb'_append_extractLsb'_eq_extractLsb']
    exact BitVec.extractLsb'_eq_self

/-! What an opcode and fields build has that opcode and those fields: one law for each family. -/

theorem buildInteger_parts (opc : Nat) (b : Body) (i : Instr) (h : buildInteger opc b = some i) : i.parts = some (opc, b) := by
  unfold buildInteger at h
  repeat' split at h
  all_goals first | (cases h; rfl) | cases h
theorem buildScalar_parts (opc : Nat) (b : Body) (i : Instr) (h : buildScalar opc b = some i) : i.parts = some (opc, b) := by
  unfold buildScalar at h
  repeat' split at h
  all_goals first | (cases h; rfl) | cases h
theorem buildVector_parts (opc : Nat) (b : Body) (i : Instr) (h : buildVector opc b = some i) : i.parts = some (opc, b) := by
  unfold buildVector at h
  repeat' split at h
  all_goals first | (cases h; rfl) | cases h
theorem buildSpecial_parts (opc : Nat) (b : Body) (i : Instr) (h : buildSpecial opc b = some i) : i.parts = some (opc, b) := by
  unfold buildSpecial at h
  repeat' split at h
  all_goals first | (cases h; rfl) | cases h
theorem buildStream_parts (opc : Nat) (b : Body) (i : Instr) (h : buildStream opc b = some i) : i.parts = some (opc, b) := by
  unfold buildStream at h
  repeat' split at h
  all_goals first | (cases h; rfl) | cases h
theorem buildMatrix_parts (opc : Nat) (b : Body) (i : Instr) (h : buildMatrix opc b = some i) : i.parts = some (opc, b) := by
  unfold buildMatrix at h
  repeat' split at h
  all_goals first | (cases h; rfl) | cases h
theorem buildFrame_parts (opc : Nat) (b : Body) (i : Instr) (h : buildFrame opc b = some i) : i.parts = some (opc, b) := by
  unfold buildFrame at h
  repeat' split at h
  all_goals first | (cases h; rfl) | cases h
theorem buildWave_parts (opc : Nat) (b : Body) (i : Instr) (h : buildWave opc b = some i) : i.parts = some (opc, b) := by
  unfold buildWave at h
  repeat' split at h
  all_goals first | (cases h; rfl) | cases h
theorem buildTransform_parts (opc : Nat) (b : Body) (i : Instr) (h : buildTransform opc b = some i) : i.parts = some (opc, b) := by
  unfold buildTransform at h
  repeat' split at h
  all_goals first | (cases h; rfl) | cases h
theorem buildMemory_parts (opc : Nat) (b : Body) (i : Instr) (h : buildMemory opc b = some i) : i.parts = some (opc, b) := by
  unfold buildMemory at h
  repeat' split at h
  all_goals first | (cases h; rfl) | cases h
theorem buildAtomic_parts (opc : Nat) (b : Body) (i : Instr) (h : buildAtomic opc b = some i) : i.parts = some (opc, b) := by
  unfold buildAtomic at h
  repeat' split at h
  all_goals first | (cases h; rfl) | cases h
theorem buildSync_parts (opc : Nat) (b : Body) (i : Instr) (h : buildSync opc b = some i) : i.parts = some (opc, b) := by
  unfold buildSync at h
  repeat' split at h
  all_goals first | (cases h; rfl) | cases h
theorem buildControl_parts (opc : Nat) (b : Body) (i : Instr) (h : buildControl opc b = some i) : i.parts = some (opc, b) := by
  unfold buildControl at h
  repeat' split at h
  all_goals first | (cases h; rfl) | cases h
theorem buildFibre_parts (opc : Nat) (b : Body) (i : Instr) (h : buildFibre opc b = some i) : i.parts = some (opc, b) := by
  unfold buildFibre at h
  repeat' split at h
  all_goals first | (cases h; rfl) | cases h
theorem buildCap_parts (opc : Nat) (b : Body) (i : Instr) (h : buildCap opc b = some i) : i.parts = some (opc, b) := by
  unfold buildCap at h
  repeat' split at h
  all_goals first | (cases h; rfl) | cases h
theorem buildSystem_parts (opc : Nat) (b : Body) (i : Instr) (h : buildSystem opc b = some i) : i.parts = some (opc, b) := by
  unfold buildSystem at h
  repeat' split at h
  all_goals first | (cases h; rfl) | cases h

/-- A choice that answers has answered by one of its branches. -/
theorem of_ite {α : Type} {c : Prop} [Decidable c] {a b x : α} {P : Prop} (h : (if c then a else b) = x) (ha : a = x → P)
    (hb : b = x → P) : P := by
  split at h
  · exact ha h
  · exact hb h

theorem build_parts (opc : Nat) (b : Body) (i : Instr) (h : build opc b = some i) : i.parts = some (opc, b) := by
  unfold build at h
  refine of_ite h (buildInteger_parts _ _ _) fun h => ?_
  refine of_ite h (buildScalar_parts _ _ _) fun h => ?_
  refine of_ite h (buildVector_parts _ _ _) fun h => ?_
  refine of_ite h (buildSpecial_parts _ _ _) fun h => ?_
  refine of_ite h (buildStream_parts _ _ _) fun h => ?_
  refine of_ite h (buildMatrix_parts _ _ _) fun h => ?_
  refine of_ite h (buildFrame_parts _ _ _) fun h => ?_
  refine of_ite h (buildWave_parts _ _ _) fun h => ?_
  refine of_ite h (buildTransform_parts _ _ _) fun h => ?_
  refine of_ite h (buildMemory_parts _ _ _) fun h => ?_
  refine of_ite h (buildAtomic_parts _ _ _) fun h => ?_
  refine of_ite h (buildSync_parts _ _ _) fun h => ?_
  refine of_ite h (buildControl_parts _ _ _) fun h => ?_
  refine of_ite h (buildFibre_parts _ _ _) fun h => ?_
  refine of_ite h (buildCap_parts _ _ _) fun h => ?_
  exact buildSystem_parts _ _ _ h

/-- A word that has an assigned opcode, and whose fields build an instruction that no row of R49 refuses, decodes to it. -/
theorem decode_of {w : BitVec 96} {opc : Nat} {b : Body} {i : Instr} (h1 : opcOf w = opc) (h2 : bodyOf w = b)
    (h3 : assignedOpc opc = true) (h4 : build opc b = some i) (h5 : i.ill = none) : decode w = .ok i := by
  subst h1 h2
  unfold decode decodeRaw
  rw [if_pos h3, h4]
  simp only [h5]

/-- What a word that decodes has. -/
theorem of_decode {w : BitVec 96} {i : Instr} (h : decode w = .ok i) :
    assignedOpc (opcOf w) = true ∧ build (opcOf w) (bodyOf w) = some i ∧ i.ill = none := by
  unfold decode decodeRaw at h
  split_ifs at h with ha
  · cases hb : build (opcOf w) (bodyOf w) with
    | none => simp only [hb] at h; cases h
    | some j =>
      simp only [hb] at h
      cases hj : j.ill with
      | none => simp only [hj] at h; cases h; exact ⟨ha, rfl, hj⟩
      | some n => simp only [hj] at h; cases h

end Sys2Proof
end

