-- ==== Sys2Proof/Laws/Finish.lean ====
section
/-!
SUPPORT. How a piece of an instruction's work chains, and how an instruction ends once its work is known.
-/

namespace Sys2Proof.Machine

/-! ### Pieces of work -/

theorem bind_ok {α β : Type} (a : α) (f : α → R β) : ((Except.ok a : R α) >>= f) = f a := rfl
theorem bind_error {α β : Type} (e : Stop × State) (f : α → R β) : ((Except.error e : R α) >>= f) = .error e := rfl

/-- A chain of work that answers has answered piece by piece. -/
theorem bind_eq_ok {α β : Type} {x : R α} {f : α → R β} {b : β} (h : (x >>= f) = .ok b) : ∃ a, x = .ok a ∧ f a = .ok b := by
  cases x with
  | error e => exact absurd h (by intro h; cases h)
  | ok a => exact ⟨a, rfl, h⟩

@[simp] theorem check_none (s : State) : check s none = .ok () := rfl
@[simp] theorem check_some (s : State) (f : Fail) : check s (some f) = .error (.trap f, s) := rfl
@[simp] theorem guardR_true (s : State) (c a d : Nat) : guardR s true c a d = .ok () := rfl
@[simp] theorem guardR_false (s : State) (c a d : Nat) : guardR s false c a d = .error (.trap ⟨c, a, d⟩, s) := rfl

/-- A check answers exactly when nothing fails. -/
theorem check_eq_ok {s : State} {f : Option Fail} {u : Unit} (h : check s f = .ok u) : f = none := by
  cases f with
  | none => rfl
  | some f => exact absurd h (by intro h; cases h)

/-- A guard answers exactly when it holds. -/
theorem guardR_eq_ok {s : State} {b : Bool} {c a d : Nat} {u : Unit} (h : guardR s b c a d = .ok u) : b = true := by
  cases b with
  | true => rfl
  | false => exact absurd h (by intro h; cases h)

/-! ### Ends -/

theorem finish_ok {h : Hdr} {b : State → R State} {s t : State} (e : b s = .ok t) : finish h b s = .next (ended h t) := by
  simp only [finish, e, ended]
theorem finish_trap {h : Hdr} {b : State → R State} {s t : State} {f : Fail} (e : b s = .error (.trap f, t)) :
    finish h b s = .next (t.takeTrap f) := by
  simp only [finish, e, stopped]
theorem finishJump_ok {h : Hdr} {b : State → R State} {s t : State} (e : b s = .ok t) :
    finishJump h b s = .next (jumped h t) := by
  simp only [finishJump, e, jumped]
theorem finishHanded_ok {b : State → R State} {s t : State} (e : b s = .ok t) : finishHanded b s = .next (handed t) := by
  simp only [finishHanded, e, handed]
theorem finishGone_ok {h : Hdr} {b : State → R State} {s t : State} (e : b s = .ok t) :
    finishGone h b s = .next (t.signalGone h s.sl.pc) := by
  simp only [finishGone, e]

/-- Everything that the end of an instruction can be. -/
theorem finish_next {h : Hdr} {b : State → R State} {s u : State} (e : finish h b s = .next u) :
    (∃ t, b s = .ok t ∧ u = ended h t) ∨ (∃ f t, b s = .error (.trap f, t) ∧ u = t.takeTrap f) ∨
      ∃ st t, b s = .error (st, t) ∧ (∀ f, st ≠ .trap f) ∧ u = stopped st t := by
  simp only [finish] at e
  cases hb : b s with
  | ok t => rw [hb] at e; cases e; exact .inl ⟨t, rfl, rfl⟩
  | error p =>
    obtain ⟨st, t⟩ := p
    rw [hb] at e; cases e
    cases st with
    | trap f => exact .inr (.inl ⟨f, t, rfl, rfl⟩)
    | wait k o n => exact .inr (.inr ⟨_, t, rfl, (by intro f h; cases h), rfl⟩)
    | spin => exact .inr (.inr ⟨_, t, rfl, (by intro f h; cases h), rfl⟩)

/-! ### Flags (R68, R69) -/

theorem raiseFlags_masked {s : State} {fl : Flags} (h : masked s fl) : raiseFlags s fl = .ok (flagged s fl) := by
  unfold masked at h
  simp only [raiseFlags, h, ne_eq, not_true, if_false, flagged]
theorem raiseFlags_enabled {s : State} {fl : Flags} (h : ¬ masked s fl) :
    raiseFlags s fl = .error (.trap ⟨cFPE, fl.toNat, 0⟩, s) := by
  unfold masked at h
  simp only [raiseFlags, h, ne_eq, not_false_iff, if_true, raise]

/-! ### Vector instructions (R93) -/

theorem vecBody_masked {s : State} {d : BitVec 6} {srcs : List (BitVec 6)} {f : Slot → List Line → VRes} {vs : List Line}
    (h : vecSources s d srcs vs) (hm : masked s (f s.sl vs).flags) :
    vecBody d srcs f s = .ok (writeV (popPorts (flagged s (f s.sl vs).flags) srcs []) d (f s.sl vs)) := by
  simp only [vecBody, h.1, h.2, bind_ok, raiseFlags_masked hm]
theorem vecBody_enabled {s : State} {d : BitVec 6} {srcs : List (BitVec 6)} {f : Slot → List Line → VRes} {vs : List Line}
    (h : vecSources s d srcs vs) (hm : ¬ masked s (f s.sl vs).flags) :
    vecBody d srcs f s = .error (.trap ⟨cFPE, (f s.sl vs).flags.toNat, 0⟩, s) := by
  simp only [vecBody, h.1, h.2, bind_ok, raiseFlags_enabled hm, bind_error]

/-- A vector instruction over `vecBody` does what R93 says of its result. -/
theorem vecRuns_finish {i : Instr} {h : Hdr} {s : State} {d : BitVec 6} {srcs : List (BitVec 6)} {f : Slot → List Line → VRes}
    {vs : List Line} {r : VRes} (hs : vecSources s d srcs vs) (e : exec i s = finish h (vecBody d srcs f) s)
    (hr : f s.sl vs = r) : vecRuns i h s d srcs r := by
  subst hr
  exact ⟨fun hm => e ▸ finish_ok (vecBody_masked hs hm), fun hm => e ▸ finish_trap (vecBody_enabled hs hm)⟩

/-! One law for each shape of lane-by-lane instruction: which instruction has the shape is `rfl`. -/

theorem lanes1_runs {i : Instr} {o : ROp} {s : State} {vs : List Line} (f : FpEnv → Nat → Nat × Flags)
    (e : exec i s = finish o.hdr (lanes1 o f) s) (hs : vecSources s o.od [o.oa] vs) :
    vecRuns i o.hdr s o.od [o.oa] (laneMap s o.md fun j => f (flEnv s o.md) (laneIn o.md vs 0 j)) :=
  vecRuns_finish hs e rfl
theorem lanes2_runs {i : Instr} {o : ROp} {s : State} {vs : List Line} (f : FpEnv → Nat → Nat → Nat × Flags)
    (e : exec i s = finish o.hdr (lanes2 o f) s) (hs : vecSources s o.od [o.oa, o.ob] vs) :
    vecRuns i o.hdr s o.od [o.oa, o.ob]
      (laneMap s o.md fun j => f (flEnv s o.md) (laneIn o.md vs 0 j) (laneIn o.md vs 1 j)) :=
  vecRuns_finish hs e rfl
theorem lanes3_runs {i : Instr} {o : ROp} {s : State} {vs : List Line} (f : FpEnv → Nat → Nat → Nat → Nat × Flags)
    (e : exec i s = finish o.hdr (lanes3 o f) s) (hs : vecSources s o.od [o.oa, o.ob, o.oc] vs) :
    vecRuns i o.hdr s o.od [o.oa, o.ob, o.oc]
      (laneMap s o.md fun j => f (flEnv s o.md) (laneIn o.md vs 0 j) (laneIn o.md vs 1 j) (laneIn o.md vs 2 j)) :=
  vecRuns_finish hs e rfl

end Sys2Proof.Machine
end

