-- ==== Sys2Proof/Laws/Memory.lean ====
section
/-!
SUPPORT. The lists that hold memory: what they read after a write, and that every operation keeps their canonical form.
-/

namespace Sys2Proof.Machine

/-! ### Cells -/

theorem mem_cellSet {m : List Host.Cell} {k : Nat} {v : Byte} {c : Host.Cell} (h : c ∈ cellSet m k v) :
    (c = (k, v) ∧ v ≠ unlisted) ∨ c ∈ m := by
  induction m with
  | nil =>
    simp only [cellSet] at h
    split_ifs at h with hv
    · cases h
    · exact .inl ⟨List.mem_singleton.1 h, hv⟩
  | cons e t ih =>
    obtain ⟨a, b⟩ := e
    simp only [cellSet] at h
    split_ifs at h with h1 h2 h3 h4
    · exact .inr h
    · rcases List.mem_cons.1 h with h | h
      · exact .inl ⟨h, h2⟩
      · exact .inr h
    · exact .inr (List.mem_cons_of_mem _ h)
    · rcases List.mem_cons.1 h with h | h
      · exact .inl ⟨h, h4⟩
      · exact .inr (List.mem_cons_of_mem _ h)
    · rcases List.mem_cons.1 h with h | h
      · exact .inr (h ▸ List.mem_cons_self)
      · exact (ih h).imp id (List.mem_cons_of_mem _)

/-- A store keeps the canonical form. -/
theorem cellSet_wf {m : List Host.Cell} (h : cellsWf m) (k : Nat) (v : Byte) : cellsWf (cellSet m k v) := by
  refine ⟨?_, fun c hc => ?_⟩
  · have hp := h.1
    clear h
    induction m with
    | nil => simp only [cellSet]; split_ifs <;> simp
    | cons e t ih =>
      obtain ⟨a, b⟩ := e
      obtain ⟨ha, ht⟩ := List.pairwise_cons.1 hp
      simp only [cellSet]
      split_ifs with h1 h2 h3 h4
      · exact hp
      · refine List.pairwise_cons.2 ⟨fun c hc => ?_, hp⟩
        rcases List.mem_cons.1 hc with rfl | hc
        · exact h1
        · exact Nat.lt_trans h1 (ha c hc)
      · exact ht
      · exact List.pairwise_cons.2 ⟨fun c hc => h3 ▸ ha c hc, ht⟩
      · refine List.pairwise_cons.2 ⟨fun c hc => ?_, ih ht⟩
        rcases mem_cellSet hc with ⟨rfl, -⟩ | hc
        · exact Nat.lt_of_le_of_ne (Nat.le_of_not_lt h1) (Ne.symm h3)
        · exact ha c hc
  · rcases mem_cellSet hc with ⟨rfl, hv⟩ | hc
    · exact hv
    · exact h.2 c hc

/-- An address below every entry reads as unlisted. -/
theorem cellGet_below {m : List Host.Cell} {k : Nat} (h : ∀ c ∈ m, k < c.1) : cellGet m k = unlisted := by
  cases m with
  | nil => rfl
  | cons e t => simp only [cellGet, if_pos (h e List.mem_cons_self)]

/-- A store is read back, and nothing else changes. -/
theorem cellGet_cellSet {m : List Host.Cell} (h : cellsWf m) (k : Nat) (v : Byte) (a : Nat) :
    cellGet (cellSet m k v) a = if a = k then v else cellGet m a := by
  have hp := h.1
  clear h
  induction m with
  | nil =>
    simp only [cellSet]
    split_ifs with hv ha
    · exact hv.symm
    · rfl
    · next ha => simp [cellGet, ha]
    · next ha => simp [cellGet, ha]
  | cons e t ih =>
    obtain ⟨b, c⟩ := e
    obtain ⟨hb, ht⟩ := List.pairwise_cons.1 hp
    simp only [cellSet]
    split_ifs with h1 h2 h3 h4 h5 h6 h7
    · simp only [cellGet, if_pos (h3 ▸ h1), h2]
    · rfl
    · simp [cellGet, h4]
    · simp only [cellGet, if_neg h4]
      split_ifs <;> first | rfl | omega
    · subst h5 h7
      rw [cellGet_below hb, h6]
    · subst h5
      simp only [cellGet, if_neg h7]
      split_ifs with h8
      · exact cellGet_below fun c hc => Nat.lt_trans h8 (hb c hc)
      · rfl
    · rename_i h8
      subst h5 h8
      simp [cellGet]
    · rename_i h8
      subst h5
      simp only [cellGet, if_neg h8]
    · rename_i h6
      subst h6
      simp only [cellGet, if_neg h1, if_neg h5, ih ht, if_true]
    · rename_i h6
      simp only [cellGet, ih ht, if_neg h6]

theorem cellsWrite_wf {m : List Host.Cell} (h : cellsWf m) (k : Nat) (bs : List Byte) : cellsWf (cellsWrite m k bs) := by
  induction bs generalizing m k with
  | nil => exact h
  | cons b bs ih => exact ih (cellSet_wf h k b) _

/-- Bytes below or above those stored are as before. -/
theorem cellGet_cellsWrite_of_outside {m : List Host.Cell} (h : cellsWf m) {k a : Nat} {bs : List Byte}
    (ha : a < k ∨ k + bs.length ≤ a) : cellGet (cellsWrite m k bs) a = cellGet m a := by
  induction bs generalizing m k with
  | nil => rfl
  | cons b bs ih =>
    simp only [List.length_cons] at ha
    rw [cellsWrite, ih (cellSet_wf h k b) (by omega), cellGet_cellSet h, if_neg (by omega)]

/-- Bytes stored are read back. -/
theorem cellGet_cellsWrite {m : List Host.Cell} (h : cellsWf m) {k i : Nat} {bs : List Byte} (hi : i < bs.length) :
    cellGet (cellsWrite m k bs) (k + i) = bs[i] := by
  induction bs generalizing m k i with
  | nil => cases hi
  | cons b bs ih =>
    rw [cellsWrite]
    cases i with
    | zero => rw [cellGet_cellsWrite_of_outside (cellSet_wf h k b) (by omega), cellGet_cellSet h, if_pos (Nat.add_zero k)]; rfl
    | succ i =>
      have := ih (cellSet_wf h k b) (k := k + 1) (i := i) (Nat.lt_of_succ_lt_succ hi)
      rw [Nat.add_right_comm] at this
      exact this

/-- Some of the cells have the canonical form that all have. -/
theorem cellsWf_filter {m : List Host.Cell} (h : cellsWf m) (p : Host.Cell → Bool) : cellsWf (m.filter p) :=
  ⟨h.1.filter p, fun c hc => h.2 c (List.mem_of_mem_filter hc)⟩

/-! ### Granule bits -/

theorem mem_natAdd {l : List Nat} {k a : Nat} (h : a ∈ natAdd l k) : a = k ∨ a ∈ l := by
  induction l with
  | nil => exact .inl (List.mem_singleton.1 h)
  | cons b t ih =>
    simp only [natAdd] at h
    split_ifs at h
    · exact List.mem_cons.1 h
    · exact .inr h
    · rcases List.mem_cons.1 h with h | h
      · exact .inr (h ▸ List.mem_cons_self)
      · exact (ih h).imp id (List.mem_cons_of_mem _)
theorem natAdd_rising {l : List Nat} (h : l.Pairwise (· < ·)) (k : Nat) : (natAdd l k).Pairwise (· < ·) := by
  induction l with
  | nil => simp [natAdd]
  | cons b t ih =>
    obtain ⟨hb, ht⟩ := List.pairwise_cons.1 h
    simp only [natAdd]
    split_ifs with h1 h2
    · refine List.pairwise_cons.2 ⟨fun a ha => ?_, h⟩
      rcases List.mem_cons.1 ha with rfl | ha
      · exact h1
      · exact Nat.lt_trans h1 (hb a ha)
    · exact h
    · refine List.pairwise_cons.2 ⟨fun a ha => ?_, ih ht⟩
      rcases mem_natAdd ha with rfl | ha
      · omega
      · exact hb a ha
theorem mem_natDel {l : List Nat} {k a : Nat} (h : a ∈ natDel l k) : a ∈ l := by
  induction l with
  | nil => cases h
  | cons b t ih =>
    simp only [natDel] at h
    split_ifs at h
    · exact h
    · exact List.mem_cons_of_mem _ h
    · rcases List.mem_cons.1 h with h | h
      · exact h ▸ List.mem_cons_self
      · exact List.mem_cons_of_mem _ (ih h)
theorem natDel_rising {l : List Nat} (h : l.Pairwise (· < ·)) (k : Nat) : (natDel l k).Pairwise (· < ·) := by
  induction l with
  | nil => simp [natDel]
  | cons b t ih =>
    obtain ⟨hb, ht⟩ := List.pairwise_cons.1 h
    simp only [natDel]
    split_ifs
    · exact h
    · exact ht
    · exact List.pairwise_cons.2 ⟨fun a ha => hb a (mem_natDel ha), ih ht⟩
theorem natSet_rising {l : List Nat} (h : l.Pairwise (· < ·)) (k : Nat) (v : Bool) : (natSet l k v).Pairwise (· < ·) := by
  cases v
  · exact natDel_rising h k
  · exact natAdd_rising h k
theorem clearTags_rising {l : List Nat} (h : l.Pairwise (· < ·)) (gs : List Nat) : (clearTags l gs).Pairwise (· < ·) := by
  induction gs generalizing l with
  | nil => exact h
  | cons g gs ih => exact ih (natDel_rising h g)

/-- A rising list has a number exactly when it lists it. -/
theorem natHas_iff {l : List Nat} (h : l.Pairwise (· < ·)) (a : Nat) : natHas l a = true ↔ a ∈ l := by
  induction l with
  | nil => simp [natHas]
  | cons b t ih =>
    obtain ⟨hb, ht⟩ := List.pairwise_cons.1 h
    simp only [natHas, List.mem_cons]
    split_ifs with h1 h2
    · simp only [false_iff, not_or]
      exact ⟨by omega, fun ha => by have := hb a ha; omega⟩
    · simp [h2]
    · rw [ih ht]
      exact ⟨.inr, fun h => h.resolve_left h2⟩
theorem mem_natDel_iff {l : List Nat} (h : l.Pairwise (· < ·)) (k a : Nat) : a ∈ natDel l k ↔ a ∈ l ∧ a ≠ k := by
  induction l with
  | nil => simp [natDel]
  | cons b t ih =>
    obtain ⟨hb, ht⟩ := List.pairwise_cons.1 h
    simp only [natDel]
    split_ifs with h1 h2
    · refine ⟨fun ha => ⟨ha, ?_⟩, And.left⟩
      rintro rfl
      rcases List.mem_cons.1 ha with rfl | ha
      · omega
      · have := hb a ha; omega
    · subst h2
      refine ⟨fun ha => ⟨List.mem_cons_of_mem _ ha, fun e => ?_⟩, fun ha => (List.mem_cons.1 ha.1).resolve_left ha.2⟩
      have := hb a ha; omega
    · rw [List.mem_cons, ih ht, List.mem_cons]
      exact ⟨fun h => h.elim (fun e => ⟨.inl e, by omega⟩) fun h => ⟨.inr h.1, h.2⟩,
        fun h => h.1.elim .inl fun e => .inr ⟨e, h.2⟩⟩
theorem mem_clearTags_iff {l : List Nat} (h : l.Pairwise (· < ·)) (gs : List Nat) (a : Nat) :
    a ∈ clearTags l gs ↔ a ∈ l ∧ a ∉ gs := by
  induction gs generalizing l with
  | nil => simp [clearTags]
  | cons g gs ih =>
    have := ih (natDel_rising h g)
    simp only [clearTags, List.foldl_cons] at this ⊢
    rw [this, mem_natDel_iff h, List.mem_cons, not_or, and_assoc]

/-- The granules of a range. -/
theorem mem_granules {k n g : Nat} : g ∈ granules k n ↔ 0 < n ∧ k / 16 ≤ g ∧ g ≤ (k + n - 1) / 16 := by
  simp only [granules]
  split_ifs with h
  · simp only [beq_iff_eq] at h
    simp [h]
  · simp only [beq_iff_eq] at h
    simp only [List.mem_map, List.mem_range]
    constructor
    · rintro ⟨i, hi, rfl⟩
      omega
    · rintro ⟨-, h1, h2⟩
      exact ⟨g - k / 16, by omega, by omega⟩

/-- Memory is empty, and of canonical form, after reset. -/
theorem reset_wf : Memory.wf State.reset := ⟨⟨.nil, fun _ h => by cases h⟩, .nil, .nil⟩

end Sys2Proof.Machine
end

