-- ==== Sys2Proof/Laws/State.lean ====
section
/-!
SUPPORT. The small laws of the updates of a state: which fields each keeps, and what the fields it writes hold.
-/

namespace Sys2Proof.Machine

section
variable (s : State) (sl : Slot) (i j : SlotId) (f : Slot → Slot) (w : World) (g : WorldSt → WorldSt)
  (a : Act) (n : Notice) (r : BitVec 6) (k : Nat) (x : Word) (c : Cap) (m : Gran) (b : Bool) (wd : BitVec 96) (as : List Act)

/-! ### Updates of one slot or one world, and what is queued -/
@[simp] theorem modSlot_core : (s.modSlot i f).core = s.core := rfl
@[simp] theorem modSlot_cluster : (s.modSlot i f).cluster = s.cluster := rfl
@[simp] theorem modSlot_cur : (s.modSlot i f).cur = s.cur := rfl
@[simp] theorem modSlot_word : (s.modSlot i f).word = s.word := rfl
@[simp] theorem modSlot_last : (s.modSlot i f).last = s.last := rfl
@[simp] theorem modSlot_sem : (s.modSlot i f).sem = s.sem := rfl
@[simp] theorem modSlot_badSem : (s.modSlot i f).badSem = s.badSem := rfl
@[simp] theorem modSlot_waiters : (s.modSlot i f).waiters = s.waiters := rfl
@[simp] theorem modSlot_await : (s.modSlot i f).await = s.await := rfl
@[simp] theorem modSlot_lrq : (s.modSlot i f).lrq = s.lrq := rfl
@[simp] theorem modSlot_cmq : (s.modSlot i f).cmq = s.cmq := rfl
@[simp] theorem modSlot_heldMsgs : (s.modSlot i f).heldMsgs = s.heldMsgs := rfl
@[simp] theorem modSlot_trapQ : (s.modSlot i f).trapQ = s.trapQ := rfl
@[simp] theorem modSlot_hold : (s.modSlot i f).hold = s.hold := rfl
@[simp] theorem modSlot_lost : (s.modSlot i f).lost = s.lost := rfl
@[simp] theorem modSlot_ctcx : (s.modSlot i f).ctcx = s.ctcx := rfl
@[simp] theorem modSlot_svec : (s.modSlot i f).svec = s.svec := rfl
@[simp] theorem modSlot_frec : (s.modSlot i f).frec = s.frec := rfl
@[simp] theorem modSlot_supStarted : (s.modSlot i f).supStarted = s.supStarted := rfl
@[simp] theorem modSlot_supHalted : (s.modSlot i f).supHalted = s.supHalted := rfl
@[simp] theorem modSlot_yielding : (s.modSlot i f).yielding = s.yielding := rfl
@[simp] theorem modSlot_mat : (s.modSlot i f).mat = s.mat := rfl
@[simp] theorem modSlot_wave : (s.modSlot i f).wave = s.wave := rfl
@[simp] theorem modSlot_updates : (s.modSlot i f).updates = s.updates := rfl
@[simp] theorem modSlot_cl : (s.modSlot i f).cl = s.cl := rfl
@[simp] theorem modSlot_bmode : (s.modSlot i f).bmode = s.bmode := rfl
@[simp] theorem modSlot_rpwin : (s.modSlot i f).rpwin = s.rpwin := rfl
@[simp] theorem modSlot_crq : (s.modSlot i f).crq = s.crq := rfl
@[simp] theorem modSlot_crqBase : (s.modSlot i f).crqBase = s.crqBase := rfl
@[simp] theorem modSlot_cmqBase : (s.modSlot i f).cmqBase = s.cmqBase := rfl
@[simp] theorem modSlot_clq : (s.modSlot i f).clq = s.clq := rfl
@[simp] theorem modSlot_heldQ : (s.modSlot i f).heldQ = s.heldQ := rfl
@[simp] theorem modSlot_fifos : (s.modSlot i f).fifos = s.fifos := rfl
@[simp] theorem modSlot_worlds : (s.modSlot i f).worlds = s.worlds := rfl
@[simp] theorem modSlot_mem : (s.modSlot i f).mem = s.mem := rfl
@[simp] theorem modSlot_tags : (s.modSlot i f).tags = s.tags := rfl
@[simp] theorem modSlot_full : (s.modSlot i f).full = s.full := rfl
@[simp] theorem modSlot_fullScopes : (s.modSlot i f).fullScopes = s.fullScopes := rfl
@[simp] theorem modSlot_refs : (s.modSlot i f).refs = s.refs := rfl
@[simp] theorem modSlot_badLines : (s.modSlot i f).badLines = s.badLines := rfl
@[simp] theorem modSlot_badGrans : (s.modSlot i f).badGrans = s.badGrans := rfl
@[simp] theorem modSlot_seals : (s.modSlot i f).seals = s.seals := rfl
@[simp] theorem modSlot_errCounts : (s.modSlot i f).errCounts = s.errCounts := rfl
@[simp] theorem modSlot_blList : (s.modSlot i f).blList = s.blList := rfl
@[simp] theorem modSlot_blOvf : (s.modSlot i f).blOvf = s.blOvf := rfl
@[simp] theorem modSlot_blFound : (s.modSlot i f).blFound = s.blFound := rfl
@[simp] theorem modSlot_errSeen : (s.modSlot i f).errSeen = s.errSeen := rfl
@[simp] theorem modSlot_sideLog : (s.modSlot i f).sideLog = s.sideLog := rfl
@[simp] theorem modSlot_heldSigs : (s.modSlot i f).heldSigs = s.heldSigs := rfl
@[simp] theorem modSlot_pageReqs : (s.modSlot i f).pageReqs = s.pageReqs := rfl
@[simp] theorem modSlot_quays : (s.modSlot i f).quays = s.quays := rfl
@[simp] theorem modSlot_dupHeld : (s.modSlot i f).dupHeld = s.dupHeld := rfl
@[simp] theorem modSlot_dup : (s.modSlot i f).dup = s.dup := rfl
@[simp] theorem modSlot_dupAcks : (s.modSlot i f).dupAcks = s.dupAcks := rfl
@[simp] theorem modSlot_peerOut : (s.modSlot i f).peerOut = s.peerOut := rfl
@[simp] theorem modSlot_tcache : (s.modSlot i f).tcache = s.tcache := rfl
@[simp] theorem modSlot_pageCounts : (s.modSlot i f).pageCounts = s.pageCounts := rfl
@[simp] theorem modSlot_pageNotes : (s.modSlot i f).pageNotes = s.pageNotes := rfl
@[simp] theorem modSlot_pageOvf : (s.modSlot i f).pageOvf = s.pageOvf := rfl
@[simp] theorem modSlot_quayMons : (s.modSlot i f).quayMons = s.quayMons := rfl
@[simp] theorem modSlot_heldActs : (s.modSlot i f).heldActs = s.heldActs := rfl
@[simp] theorem modSlot_barScales : (s.modSlot i f).barScales = s.barScales := rfl
@[simp] theorem modSlot_farMsgs : (s.modSlot i f).farMsgs = s.farMsgs := rfl
@[simp] theorem modSlot_susp : (s.modSlot i f).susp = s.susp := rfl
@[simp] theorem modSlot_swapping : (s.modSlot i f).swapping = s.swapping := rfl
@[simp] theorem modSlot_swapped : (s.modSlot i f).swapped = s.swapped := rfl
@[simp] theorem modSlot_tally : (s.modSlot i f).tally = s.tally := rfl
@[simp] theorem modSlot_launches : (s.modSlot i f).launches = s.launches := rfl
@[simp] theorem modSlot_coalesce : (s.modSlot i f).coalesce = s.coalesce := rfl
@[simp] theorem modSlot_hostOut : (s.modSlot i f).hostOut = s.hostOut := rfl
@[simp] theorem modSlot_hostHeld : (s.modSlot i f).hostHeld = s.hostHeld := rfl
@[simp] theorem modSlot_sessA : (s.modSlot i f).sessA = s.sessA := rfl
@[simp] theorem modSlot_sessB : (s.modSlot i f).sessB = s.sessB := rfl
@[simp] theorem modSlot_psem : (s.modSlot i f).psem = s.psem := rfl
@[simp] theorem modSlot_notices : (s.modSlot i f).notices = s.notices := rfl
@[simp] theorem modSlot_auditLog : (s.modSlot i f).auditLog = s.auditLog := rfl
@[simp] theorem modSlot_auditSeq : (s.modSlot i f).auditSeq = s.auditSeq := rfl
@[simp] theorem modSlot_auditOvf : (s.modSlot i f).auditOvf = s.auditOvf := rfl
@[simp] theorem modSlot_device : (s.modSlot i f).device = s.device := rfl
@[simp] theorem modSlot_routes : (s.modSlot i f).routes = s.routes := rfl
@[simp] theorem modSlot_linkUp : (s.modSlot i f).linkUp = s.linkUp := rfl
@[simp] theorem modSlot_cxlUp : (s.modSlot i f).cxlUp = s.cxlUp := rfl
@[simp] theorem modSlot_imports : (s.modSlot i f).imports = s.imports := rfl
@[simp] theorem modSlot_rejected : (s.modSlot i f).rejected = s.rejected := rfl
@[simp] theorem modSlot_fabricOut : (s.modSlot i f).fabricOut = s.fabricOut := rfl
@[simp] theorem modSlot_peerAcks : (s.modSlot i f).peerAcks = s.peerAcks := rfl
@[simp] theorem modSlot_cwins : (s.modSlot i f).cwins = s.cwins := rfl
@[simp] theorem modSlot_ptmo : (s.modSlot i f).ptmo = s.ptmo := rfl
@[simp] theorem modSlot_throt : (s.modSlot i f).throt = s.throt := rfl
@[simp] theorem modSlot_tripped : (s.modSlot i f).tripped = s.tripped := rfl
@[simp] theorem modSlot_fwImage : (s.modSlot i f).fwImage = s.fwImage := rfl
@[simp] theorem modSlot_measured : (s.modSlot i f).measured = s.measured := rfl
@[simp] theorem modSlot_mgmtOut : (s.modSlot i f).mgmtOut = s.mgmtOut := rfl
@[simp] theorem modSlot_agenda : (s.modSlot i f).agenda = s.agenda := rfl
@[simp] theorem modSlot_deferred : (s.modSlot i f).deferred = s.deferred := rfl
@[simp] theorem modSlot_act : (s.modSlot i f).act = s.act := rfl
@[simp] theorem modSlot_asleep : (s.modSlot i f).asleep = s.asleep := rfl
@[simp] theorem modSlot_fibCtr : (s.modSlot i f).fibCtr = s.fibCtr := rfl
@[simp] theorem modSlot_opCtr : (s.modSlot i f).opCtr = s.opCtr := rfl
@[simp] theorem modSlot_keyCtr : (s.modSlot i f).keyCtr = s.keyCtr := rfl
@[simp] theorem modSlot_freeCtr : (s.modSlot i f).freeCtr = s.freeCtr := rfl
@[simp] theorem modSlot_slots : (s.modSlot i f).slots = s.slots.set i (f s.slots[i]) := rfl
@[simp] theorem modCur_core : (s.modCur f).core = s.core := rfl
@[simp] theorem modCur_cluster : (s.modCur f).cluster = s.cluster := rfl
@[simp] theorem modCur_cur : (s.modCur f).cur = s.cur := rfl
@[simp] theorem modCur_word : (s.modCur f).word = s.word := rfl
@[simp] theorem modCur_last : (s.modCur f).last = s.last := rfl
@[simp] theorem modCur_sem : (s.modCur f).sem = s.sem := rfl
@[simp] theorem modCur_badSem : (s.modCur f).badSem = s.badSem := rfl
@[simp] theorem modCur_waiters : (s.modCur f).waiters = s.waiters := rfl
@[simp] theorem modCur_await : (s.modCur f).await = s.await := rfl
@[simp] theorem modCur_lrq : (s.modCur f).lrq = s.lrq := rfl
@[simp] theorem modCur_cmq : (s.modCur f).cmq = s.cmq := rfl
@[simp] theorem modCur_heldMsgs : (s.modCur f).heldMsgs = s.heldMsgs := rfl
@[simp] theorem modCur_trapQ : (s.modCur f).trapQ = s.trapQ := rfl
@[simp] theorem modCur_hold : (s.modCur f).hold = s.hold := rfl
@[simp] theorem modCur_lost : (s.modCur f).lost = s.lost := rfl
@[simp] theorem modCur_ctcx : (s.modCur f).ctcx = s.ctcx := rfl
@[simp] theorem modCur_svec : (s.modCur f).svec = s.svec := rfl
@[simp] theorem modCur_frec : (s.modCur f).frec = s.frec := rfl
@[simp] theorem modCur_supStarted : (s.modCur f).supStarted = s.supStarted := rfl
@[simp] theorem modCur_supHalted : (s.modCur f).supHalted = s.supHalted := rfl
@[simp] theorem modCur_yielding : (s.modCur f).yielding = s.yielding := rfl
@[simp] theorem modCur_mat : (s.modCur f).mat = s.mat := rfl
@[simp] theorem modCur_wave : (s.modCur f).wave = s.wave := rfl
@[simp] theorem modCur_updates : (s.modCur f).updates = s.updates := rfl
@[simp] theorem modCur_cl : (s.modCur f).cl = s.cl := rfl
@[simp] theorem modCur_bmode : (s.modCur f).bmode = s.bmode := rfl
@[simp] theorem modCur_rpwin : (s.modCur f).rpwin = s.rpwin := rfl
@[simp] theorem modCur_crq : (s.modCur f).crq = s.crq := rfl
@[simp] theorem modCur_crqBase : (s.modCur f).crqBase = s.crqBase := rfl
@[simp] theorem modCur_cmqBase : (s.modCur f).cmqBase = s.cmqBase := rfl
@[simp] theorem modCur_clq : (s.modCur f).clq = s.clq := rfl
@[simp] theorem modCur_heldQ : (s.modCur f).heldQ = s.heldQ := rfl
@[simp] theorem modCur_fifos : (s.modCur f).fifos = s.fifos := rfl
@[simp] theorem modCur_worlds : (s.modCur f).worlds = s.worlds := rfl
@[simp] theorem modCur_mem : (s.modCur f).mem = s.mem := rfl
@[simp] theorem modCur_tags : (s.modCur f).tags = s.tags := rfl
@[simp] theorem modCur_full : (s.modCur f).full = s.full := rfl
@[simp] theorem modCur_fullScopes : (s.modCur f).fullScopes = s.fullScopes := rfl
@[simp] theorem modCur_refs : (s.modCur f).refs = s.refs := rfl
@[simp] theorem modCur_badLines : (s.modCur f).badLines = s.badLines := rfl
@[simp] theorem modCur_badGrans : (s.modCur f).badGrans = s.badGrans := rfl
@[simp] theorem modCur_seals : (s.modCur f).seals = s.seals := rfl
@[simp] theorem modCur_errCounts : (s.modCur f).errCounts = s.errCounts := rfl
@[simp] theorem modCur_blList : (s.modCur f).blList = s.blList := rfl
@[simp] theorem modCur_blOvf : (s.modCur f).blOvf = s.blOvf := rfl
@[simp] theorem modCur_blFound : (s.modCur f).blFound = s.blFound := rfl
@[simp] theorem modCur_errSeen : (s.modCur f).errSeen = s.errSeen := rfl
@[simp] theorem modCur_sideLog : (s.modCur f).sideLog = s.sideLog := rfl
@[simp] theorem modCur_heldSigs : (s.modCur f).heldSigs = s.heldSigs := rfl
@[simp] theorem modCur_pageReqs : (s.modCur f).pageReqs = s.pageReqs := rfl
@[simp] theorem modCur_quays : (s.modCur f).quays = s.quays := rfl
@[simp] theorem modCur_dupHeld : (s.modCur f).dupHeld = s.dupHeld := rfl
@[simp] theorem modCur_dup : (s.modCur f).dup = s.dup := rfl
@[simp] theorem modCur_dupAcks : (s.modCur f).dupAcks = s.dupAcks := rfl
@[simp] theorem modCur_peerOut : (s.modCur f).peerOut = s.peerOut := rfl
@[simp] theorem modCur_tcache : (s.modCur f).tcache = s.tcache := rfl
@[simp] theorem modCur_pageCounts : (s.modCur f).pageCounts = s.pageCounts := rfl
@[simp] theorem modCur_pageNotes : (s.modCur f).pageNotes = s.pageNotes := rfl
@[simp] theorem modCur_pageOvf : (s.modCur f).pageOvf = s.pageOvf := rfl
@[simp] theorem modCur_quayMons : (s.modCur f).quayMons = s.quayMons := rfl
@[simp] theorem modCur_heldActs : (s.modCur f).heldActs = s.heldActs := rfl
@[simp] theorem modCur_barScales : (s.modCur f).barScales = s.barScales := rfl
@[simp] theorem modCur_farMsgs : (s.modCur f).farMsgs = s.farMsgs := rfl
@[simp] theorem modCur_susp : (s.modCur f).susp = s.susp := rfl
@[simp] theorem modCur_swapping : (s.modCur f).swapping = s.swapping := rfl
@[simp] theorem modCur_swapped : (s.modCur f).swapped = s.swapped := rfl
@[simp] theorem modCur_tally : (s.modCur f).tally = s.tally := rfl
@[simp] theorem modCur_launches : (s.modCur f).launches = s.launches := rfl
@[simp] theorem modCur_coalesce : (s.modCur f).coalesce = s.coalesce := rfl
@[simp] theorem modCur_hostOut : (s.modCur f).hostOut = s.hostOut := rfl
@[simp] theorem modCur_hostHeld : (s.modCur f).hostHeld = s.hostHeld := rfl
@[simp] theorem modCur_sessA : (s.modCur f).sessA = s.sessA := rfl
@[simp] theorem modCur_sessB : (s.modCur f).sessB = s.sessB := rfl
@[simp] theorem modCur_psem : (s.modCur f).psem = s.psem := rfl
@[simp] theorem modCur_notices : (s.modCur f).notices = s.notices := rfl
@[simp] theorem modCur_auditLog : (s.modCur f).auditLog = s.auditLog := rfl
@[simp] theorem modCur_auditSeq : (s.modCur f).auditSeq = s.auditSeq := rfl
@[simp] theorem modCur_auditOvf : (s.modCur f).auditOvf = s.auditOvf := rfl
@[simp] theorem modCur_device : (s.modCur f).device = s.device := rfl
@[simp] theorem modCur_routes : (s.modCur f).routes = s.routes := rfl
@[simp] theorem modCur_linkUp : (s.modCur f).linkUp = s.linkUp := rfl
@[simp] theorem modCur_cxlUp : (s.modCur f).cxlUp = s.cxlUp := rfl
@[simp] theorem modCur_imports : (s.modCur f).imports = s.imports := rfl
@[simp] theorem modCur_rejected : (s.modCur f).rejected = s.rejected := rfl
@[simp] theorem modCur_fabricOut : (s.modCur f).fabricOut = s.fabricOut := rfl
@[simp] theorem modCur_peerAcks : (s.modCur f).peerAcks = s.peerAcks := rfl
@[simp] theorem modCur_cwins : (s.modCur f).cwins = s.cwins := rfl
@[simp] theorem modCur_ptmo : (s.modCur f).ptmo = s.ptmo := rfl
@[simp] theorem modCur_throt : (s.modCur f).throt = s.throt := rfl
@[simp] theorem modCur_tripped : (s.modCur f).tripped = s.tripped := rfl
@[simp] theorem modCur_fwImage : (s.modCur f).fwImage = s.fwImage := rfl
@[simp] theorem modCur_measured : (s.modCur f).measured = s.measured := rfl
@[simp] theorem modCur_mgmtOut : (s.modCur f).mgmtOut = s.mgmtOut := rfl
@[simp] theorem modCur_agenda : (s.modCur f).agenda = s.agenda := rfl
@[simp] theorem modCur_deferred : (s.modCur f).deferred = s.deferred := rfl
@[simp] theorem modCur_act : (s.modCur f).act = s.act := rfl
@[simp] theorem modCur_asleep : (s.modCur f).asleep = s.asleep := rfl
@[simp] theorem modCur_fibCtr : (s.modCur f).fibCtr = s.fibCtr := rfl
@[simp] theorem modCur_opCtr : (s.modCur f).opCtr = s.opCtr := rfl
@[simp] theorem modCur_keyCtr : (s.modCur f).keyCtr = s.keyCtr := rfl
@[simp] theorem modCur_freeCtr : (s.modCur f).freeCtr = s.freeCtr := rfl
@[simp] theorem modCur_slots : (s.modCur f).slots = s.slots.set s.cur (f s.slots[s.cur]) := rfl
@[simp] theorem modWorld_core : (s.modWorld w g).core = s.core := rfl
@[simp] theorem modWorld_cluster : (s.modWorld w g).cluster = s.cluster := rfl
@[simp] theorem modWorld_cur : (s.modWorld w g).cur = s.cur := rfl
@[simp] theorem modWorld_word : (s.modWorld w g).word = s.word := rfl
@[simp] theorem modWorld_last : (s.modWorld w g).last = s.last := rfl
@[simp] theorem modWorld_slots : (s.modWorld w g).slots = s.slots := rfl
@[simp] theorem modWorld_sem : (s.modWorld w g).sem = s.sem := rfl
@[simp] theorem modWorld_badSem : (s.modWorld w g).badSem = s.badSem := rfl
@[simp] theorem modWorld_waiters : (s.modWorld w g).waiters = s.waiters := rfl
@[simp] theorem modWorld_await : (s.modWorld w g).await = s.await := rfl
@[simp] theorem modWorld_lrq : (s.modWorld w g).lrq = s.lrq := rfl
@[simp] theorem modWorld_cmq : (s.modWorld w g).cmq = s.cmq := rfl
@[simp] theorem modWorld_heldMsgs : (s.modWorld w g).heldMsgs = s.heldMsgs := rfl
@[simp] theorem modWorld_trapQ : (s.modWorld w g).trapQ = s.trapQ := rfl
@[simp] theorem modWorld_hold : (s.modWorld w g).hold = s.hold := rfl
@[simp] theorem modWorld_lost : (s.modWorld w g).lost = s.lost := rfl
@[simp] theorem modWorld_ctcx : (s.modWorld w g).ctcx = s.ctcx := rfl
@[simp] theorem modWorld_svec : (s.modWorld w g).svec = s.svec := rfl
@[simp] theorem modWorld_frec : (s.modWorld w g).frec = s.frec := rfl
@[simp] theorem modWorld_supStarted : (s.modWorld w g).supStarted = s.supStarted := rfl
@[simp] theorem modWorld_supHalted : (s.modWorld w g).supHalted = s.supHalted := rfl
@[simp] theorem modWorld_yielding : (s.modWorld w g).yielding = s.yielding := rfl
@[simp] theorem modWorld_mat : (s.modWorld w g).mat = s.mat := rfl
@[simp] theorem modWorld_wave : (s.modWorld w g).wave = s.wave := rfl
@[simp] theorem modWorld_updates : (s.modWorld w g).updates = s.updates := rfl
@[simp] theorem modWorld_cl : (s.modWorld w g).cl = s.cl := rfl
@[simp] theorem modWorld_bmode : (s.modWorld w g).bmode = s.bmode := rfl
@[simp] theorem modWorld_rpwin : (s.modWorld w g).rpwin = s.rpwin := rfl
@[simp] theorem modWorld_crq : (s.modWorld w g).crq = s.crq := rfl
@[simp] theorem modWorld_crqBase : (s.modWorld w g).crqBase = s.crqBase := rfl
@[simp] theorem modWorld_cmqBase : (s.modWorld w g).cmqBase = s.cmqBase := rfl
@[simp] theorem modWorld_clq : (s.modWorld w g).clq = s.clq := rfl
@[simp] theorem modWorld_heldQ : (s.modWorld w g).heldQ = s.heldQ := rfl
@[simp] theorem modWorld_fifos : (s.modWorld w g).fifos = s.fifos := rfl
@[simp] theorem modWorld_mem : (s.modWorld w g).mem = s.mem := rfl
@[simp] theorem modWorld_tags : (s.modWorld w g).tags = s.tags := rfl
@[simp] theorem modWorld_full : (s.modWorld w g).full = s.full := rfl
@[simp] theorem modWorld_fullScopes : (s.modWorld w g).fullScopes = s.fullScopes := rfl
@[simp] theorem modWorld_refs : (s.modWorld w g).refs = s.refs := rfl
@[simp] theorem modWorld_badLines : (s.modWorld w g).badLines = s.badLines := rfl
@[simp] theorem modWorld_badGrans : (s.modWorld w g).badGrans = s.badGrans := rfl
@[simp] theorem modWorld_seals : (s.modWorld w g).seals = s.seals := rfl
@[simp] theorem modWorld_errCounts : (s.modWorld w g).errCounts = s.errCounts := rfl
@[simp] theorem modWorld_blList : (s.modWorld w g).blList = s.blList := rfl
@[simp] theorem modWorld_blOvf : (s.modWorld w g).blOvf = s.blOvf := rfl
@[simp] theorem modWorld_blFound : (s.modWorld w g).blFound = s.blFound := rfl
@[simp] theorem modWorld_errSeen : (s.modWorld w g).errSeen = s.errSeen := rfl
@[simp] theorem modWorld_sideLog : (s.modWorld w g).sideLog = s.sideLog := rfl
@[simp] theorem modWorld_heldSigs : (s.modWorld w g).heldSigs = s.heldSigs := rfl
@[simp] theorem modWorld_pageReqs : (s.modWorld w g).pageReqs = s.pageReqs := rfl
@[simp] theorem modWorld_quays : (s.modWorld w g).quays = s.quays := rfl
@[simp] theorem modWorld_dupHeld : (s.modWorld w g).dupHeld = s.dupHeld := rfl
@[simp] theorem modWorld_dup : (s.modWorld w g).dup = s.dup := rfl
@[simp] theorem modWorld_dupAcks : (s.modWorld w g).dupAcks = s.dupAcks := rfl
@[simp] theorem modWorld_peerOut : (s.modWorld w g).peerOut = s.peerOut := rfl
@[simp] theorem modWorld_tcache : (s.modWorld w g).tcache = s.tcache := rfl
@[simp] theorem modWorld_pageCounts : (s.modWorld w g).pageCounts = s.pageCounts := rfl
@[simp] theorem modWorld_pageNotes : (s.modWorld w g).pageNotes = s.pageNotes := rfl
@[simp] theorem modWorld_pageOvf : (s.modWorld w g).pageOvf = s.pageOvf := rfl
@[simp] theorem modWorld_quayMons : (s.modWorld w g).quayMons = s.quayMons := rfl
@[simp] theorem modWorld_heldActs : (s.modWorld w g).heldActs = s.heldActs := rfl
@[simp] theorem modWorld_barScales : (s.modWorld w g).barScales = s.barScales := rfl
@[simp] theorem modWorld_farMsgs : (s.modWorld w g).farMsgs = s.farMsgs := rfl
@[simp] theorem modWorld_susp : (s.modWorld w g).susp = s.susp := rfl
@[simp] theorem modWorld_swapping : (s.modWorld w g).swapping = s.swapping := rfl
@[simp] theorem modWorld_swapped : (s.modWorld w g).swapped = s.swapped := rfl
@[simp] theorem modWorld_tally : (s.modWorld w g).tally = s.tally := rfl
@[simp] theorem modWorld_launches : (s.modWorld w g).launches = s.launches := rfl
@[simp] theorem modWorld_coalesce : (s.modWorld w g).coalesce = s.coalesce := rfl
@[simp] theorem modWorld_hostOut : (s.modWorld w g).hostOut = s.hostOut := rfl
@[simp] theorem modWorld_hostHeld : (s.modWorld w g).hostHeld = s.hostHeld := rfl
@[simp] theorem modWorld_sessA : (s.modWorld w g).sessA = s.sessA := rfl
@[simp] theorem modWorld_sessB : (s.modWorld w g).sessB = s.sessB := rfl
@[simp] theorem modWorld_psem : (s.modWorld w g).psem = s.psem := rfl
@[simp] theorem modWorld_notices : (s.modWorld w g).notices = s.notices := rfl
@[simp] theorem modWorld_auditLog : (s.modWorld w g).auditLog = s.auditLog := rfl
@[simp] theorem modWorld_auditSeq : (s.modWorld w g).auditSeq = s.auditSeq := rfl
@[simp] theorem modWorld_auditOvf : (s.modWorld w g).auditOvf = s.auditOvf := rfl
@[simp] theorem modWorld_device : (s.modWorld w g).device = s.device := rfl
@[simp] theorem modWorld_routes : (s.modWorld w g).routes = s.routes := rfl
@[simp] theorem modWorld_linkUp : (s.modWorld w g).linkUp = s.linkUp := rfl
@[simp] theorem modWorld_cxlUp : (s.modWorld w g).cxlUp = s.cxlUp := rfl
@[simp] theorem modWorld_imports : (s.modWorld w g).imports = s.imports := rfl
@[simp] theorem modWorld_rejected : (s.modWorld w g).rejected = s.rejected := rfl
@[simp] theorem modWorld_fabricOut : (s.modWorld w g).fabricOut = s.fabricOut := rfl
@[simp] theorem modWorld_peerAcks : (s.modWorld w g).peerAcks = s.peerAcks := rfl
@[simp] theorem modWorld_cwins : (s.modWorld w g).cwins = s.cwins := rfl
@[simp] theorem modWorld_ptmo : (s.modWorld w g).ptmo = s.ptmo := rfl
@[simp] theorem modWorld_throt : (s.modWorld w g).throt = s.throt := rfl
@[simp] theorem modWorld_tripped : (s.modWorld w g).tripped = s.tripped := rfl
@[simp] theorem modWorld_fwImage : (s.modWorld w g).fwImage = s.fwImage := rfl
@[simp] theorem modWorld_measured : (s.modWorld w g).measured = s.measured := rfl
@[simp] theorem modWorld_mgmtOut : (s.modWorld w g).mgmtOut = s.mgmtOut := rfl
@[simp] theorem modWorld_agenda : (s.modWorld w g).agenda = s.agenda := rfl
@[simp] theorem modWorld_deferred : (s.modWorld w g).deferred = s.deferred := rfl
@[simp] theorem modWorld_act : (s.modWorld w g).act = s.act := rfl
@[simp] theorem modWorld_asleep : (s.modWorld w g).asleep = s.asleep := rfl
@[simp] theorem modWorld_fibCtr : (s.modWorld w g).fibCtr = s.fibCtr := rfl
@[simp] theorem modWorld_opCtr : (s.modWorld w g).opCtr = s.opCtr := rfl
@[simp] theorem modWorld_keyCtr : (s.modWorld w g).keyCtr = s.keyCtr := rfl
@[simp] theorem modWorld_freeCtr : (s.modWorld w g).freeCtr = s.freeCtr := rfl
@[simp] theorem modWorld_worlds : (s.modWorld w g).worlds = s.worlds.set w (g s.worlds[w]) := rfl
@[simp] theorem post_core : (s.post a).core = s.core := rfl
@[simp] theorem post_cluster : (s.post a).cluster = s.cluster := rfl
@[simp] theorem post_cur : (s.post a).cur = s.cur := rfl
@[simp] theorem post_word : (s.post a).word = s.word := rfl
@[simp] theorem post_last : (s.post a).last = s.last := rfl
@[simp] theorem post_slots : (s.post a).slots = s.slots := rfl
@[simp] theorem post_sem : (s.post a).sem = s.sem := rfl
@[simp] theorem post_badSem : (s.post a).badSem = s.badSem := rfl
@[simp] theorem post_waiters : (s.post a).waiters = s.waiters := rfl
@[simp] theorem post_await : (s.post a).await = s.await := rfl
@[simp] theorem post_lrq : (s.post a).lrq = s.lrq := rfl
@[simp] theorem post_cmq : (s.post a).cmq = s.cmq := rfl
@[simp] theorem post_heldMsgs : (s.post a).heldMsgs = s.heldMsgs := rfl
@[simp] theorem post_trapQ : (s.post a).trapQ = s.trapQ := rfl
@[simp] theorem post_hold : (s.post a).hold = s.hold := rfl
@[simp] theorem post_lost : (s.post a).lost = s.lost := rfl
@[simp] theorem post_ctcx : (s.post a).ctcx = s.ctcx := rfl
@[simp] theorem post_svec : (s.post a).svec = s.svec := rfl
@[simp] theorem post_frec : (s.post a).frec = s.frec := rfl
@[simp] theorem post_supStarted : (s.post a).supStarted = s.supStarted := rfl
@[simp] theorem post_supHalted : (s.post a).supHalted = s.supHalted := rfl
@[simp] theorem post_yielding : (s.post a).yielding = s.yielding := rfl
@[simp] theorem post_mat : (s.post a).mat = s.mat := rfl
@[simp] theorem post_wave : (s.post a).wave = s.wave := rfl
@[simp] theorem post_updates : (s.post a).updates = s.updates := rfl
@[simp] theorem post_cl : (s.post a).cl = s.cl := rfl
@[simp] theorem post_bmode : (s.post a).bmode = s.bmode := rfl
@[simp] theorem post_rpwin : (s.post a).rpwin = s.rpwin := rfl
@[simp] theorem post_crq : (s.post a).crq = s.crq := rfl
@[simp] theorem post_crqBase : (s.post a).crqBase = s.crqBase := rfl
@[simp] theorem post_cmqBase : (s.post a).cmqBase = s.cmqBase := rfl
@[simp] theorem post_clq : (s.post a).clq = s.clq := rfl
@[simp] theorem post_heldQ : (s.post a).heldQ = s.heldQ := rfl
@[simp] theorem post_fifos : (s.post a).fifos = s.fifos := rfl
@[simp] theorem post_worlds : (s.post a).worlds = s.worlds := rfl
@[simp] theorem post_mem : (s.post a).mem = s.mem := rfl
@[simp] theorem post_tags : (s.post a).tags = s.tags := rfl
@[simp] theorem post_full : (s.post a).full = s.full := rfl
@[simp] theorem post_fullScopes : (s.post a).fullScopes = s.fullScopes := rfl
@[simp] theorem post_refs : (s.post a).refs = s.refs := rfl
@[simp] theorem post_badLines : (s.post a).badLines = s.badLines := rfl
@[simp] theorem post_badGrans : (s.post a).badGrans = s.badGrans := rfl
@[simp] theorem post_seals : (s.post a).seals = s.seals := rfl
@[simp] theorem post_errCounts : (s.post a).errCounts = s.errCounts := rfl
@[simp] theorem post_blList : (s.post a).blList = s.blList := rfl
@[simp] theorem post_blOvf : (s.post a).blOvf = s.blOvf := rfl
@[simp] theorem post_blFound : (s.post a).blFound = s.blFound := rfl
@[simp] theorem post_errSeen : (s.post a).errSeen = s.errSeen := rfl
@[simp] theorem post_sideLog : (s.post a).sideLog = s.sideLog := rfl
@[simp] theorem post_heldSigs : (s.post a).heldSigs = s.heldSigs := rfl
@[simp] theorem post_pageReqs : (s.post a).pageReqs = s.pageReqs := rfl
@[simp] theorem post_quays : (s.post a).quays = s.quays := rfl
@[simp] theorem post_dupHeld : (s.post a).dupHeld = s.dupHeld := rfl
@[simp] theorem post_dup : (s.post a).dup = s.dup := rfl
@[simp] theorem post_dupAcks : (s.post a).dupAcks = s.dupAcks := rfl
@[simp] theorem post_peerOut : (s.post a).peerOut = s.peerOut := rfl
@[simp] theorem post_tcache : (s.post a).tcache = s.tcache := rfl
@[simp] theorem post_pageCounts : (s.post a).pageCounts = s.pageCounts := rfl
@[simp] theorem post_pageNotes : (s.post a).pageNotes = s.pageNotes := rfl
@[simp] theorem post_pageOvf : (s.post a).pageOvf = s.pageOvf := rfl
@[simp] theorem post_quayMons : (s.post a).quayMons = s.quayMons := rfl
@[simp] theorem post_heldActs : (s.post a).heldActs = s.heldActs := rfl
@[simp] theorem post_barScales : (s.post a).barScales = s.barScales := rfl
@[simp] theorem post_farMsgs : (s.post a).farMsgs = s.farMsgs := rfl
@[simp] theorem post_susp : (s.post a).susp = s.susp := rfl
@[simp] theorem post_swapping : (s.post a).swapping = s.swapping := rfl
@[simp] theorem post_swapped : (s.post a).swapped = s.swapped := rfl
@[simp] theorem post_tally : (s.post a).tally = s.tally := rfl
@[simp] theorem post_launches : (s.post a).launches = s.launches := rfl
@[simp] theorem post_coalesce : (s.post a).coalesce = s.coalesce := rfl
@[simp] theorem post_hostOut : (s.post a).hostOut = s.hostOut := rfl
@[simp] theorem post_hostHeld : (s.post a).hostHeld = s.hostHeld := rfl
@[simp] theorem post_sessA : (s.post a).sessA = s.sessA := rfl
@[simp] theorem post_sessB : (s.post a).sessB = s.sessB := rfl
@[simp] theorem post_psem : (s.post a).psem = s.psem := rfl
@[simp] theorem post_notices : (s.post a).notices = s.notices := rfl
@[simp] theorem post_auditLog : (s.post a).auditLog = s.auditLog := rfl
@[simp] theorem post_auditSeq : (s.post a).auditSeq = s.auditSeq := rfl
@[simp] theorem post_auditOvf : (s.post a).auditOvf = s.auditOvf := rfl
@[simp] theorem post_device : (s.post a).device = s.device := rfl
@[simp] theorem post_routes : (s.post a).routes = s.routes := rfl
@[simp] theorem post_linkUp : (s.post a).linkUp = s.linkUp := rfl
@[simp] theorem post_cxlUp : (s.post a).cxlUp = s.cxlUp := rfl
@[simp] theorem post_imports : (s.post a).imports = s.imports := rfl
@[simp] theorem post_rejected : (s.post a).rejected = s.rejected := rfl
@[simp] theorem post_fabricOut : (s.post a).fabricOut = s.fabricOut := rfl
@[simp] theorem post_peerAcks : (s.post a).peerAcks = s.peerAcks := rfl
@[simp] theorem post_cwins : (s.post a).cwins = s.cwins := rfl
@[simp] theorem post_ptmo : (s.post a).ptmo = s.ptmo := rfl
@[simp] theorem post_throt : (s.post a).throt = s.throt := rfl
@[simp] theorem post_tripped : (s.post a).tripped = s.tripped := rfl
@[simp] theorem post_fwImage : (s.post a).fwImage = s.fwImage := rfl
@[simp] theorem post_measured : (s.post a).measured = s.measured := rfl
@[simp] theorem post_mgmtOut : (s.post a).mgmtOut = s.mgmtOut := rfl
@[simp] theorem post_deferred : (s.post a).deferred = s.deferred := rfl
@[simp] theorem post_act : (s.post a).act = s.act := rfl
@[simp] theorem post_asleep : (s.post a).asleep = s.asleep := rfl
@[simp] theorem post_fibCtr : (s.post a).fibCtr = s.fibCtr := rfl
@[simp] theorem post_opCtr : (s.post a).opCtr = s.opCtr := rfl
@[simp] theorem post_keyCtr : (s.post a).keyCtr = s.keyCtr := rfl
@[simp] theorem post_freeCtr : (s.post a).freeCtr = s.freeCtr := rfl
@[simp] theorem post_agenda : (s.post a).agenda = s.agenda ++ [a] := rfl
@[simp] theorem onSlot_core : (s.onSlot i).core = s.core := rfl
@[simp] theorem onSlot_cluster : (s.onSlot i).cluster = s.cluster := rfl
@[simp] theorem onSlot_word : (s.onSlot i).word = s.word := rfl
@[simp] theorem onSlot_last : (s.onSlot i).last = s.last := rfl
@[simp] theorem onSlot_slots : (s.onSlot i).slots = s.slots := rfl
@[simp] theorem onSlot_sem : (s.onSlot i).sem = s.sem := rfl
@[simp] theorem onSlot_badSem : (s.onSlot i).badSem = s.badSem := rfl
@[simp] theorem onSlot_waiters : (s.onSlot i).waiters = s.waiters := rfl
@[simp] theorem onSlot_await : (s.onSlot i).await = s.await := rfl
@[simp] theorem onSlot_lrq : (s.onSlot i).lrq = s.lrq := rfl
@[simp] theorem onSlot_cmq : (s.onSlot i).cmq = s.cmq := rfl
@[simp] theorem onSlot_heldMsgs : (s.onSlot i).heldMsgs = s.heldMsgs := rfl
@[simp] theorem onSlot_trapQ : (s.onSlot i).trapQ = s.trapQ := rfl
@[simp] theorem onSlot_hold : (s.onSlot i).hold = s.hold := rfl
@[simp] theorem onSlot_lost : (s.onSlot i).lost = s.lost := rfl
@[simp] theorem onSlot_ctcx : (s.onSlot i).ctcx = s.ctcx := rfl
@[simp] theorem onSlot_svec : (s.onSlot i).svec = s.svec := rfl
@[simp] theorem onSlot_frec : (s.onSlot i).frec = s.frec := rfl
@[simp] theorem onSlot_supStarted : (s.onSlot i).supStarted = s.supStarted := rfl
@[simp] theorem onSlot_supHalted : (s.onSlot i).supHalted = s.supHalted := rfl
@[simp] theorem onSlot_yielding : (s.onSlot i).yielding = s.yielding := rfl
@[simp] theorem onSlot_mat : (s.onSlot i).mat = s.mat := rfl
@[simp] theorem onSlot_wave : (s.onSlot i).wave = s.wave := rfl
@[simp] theorem onSlot_updates : (s.onSlot i).updates = s.updates := rfl
@[simp] theorem onSlot_cl : (s.onSlot i).cl = s.cl := rfl
@[simp] theorem onSlot_bmode : (s.onSlot i).bmode = s.bmode := rfl
@[simp] theorem onSlot_rpwin : (s.onSlot i).rpwin = s.rpwin := rfl
@[simp] theorem onSlot_crq : (s.onSlot i).crq = s.crq := rfl
@[simp] theorem onSlot_crqBase : (s.onSlot i).crqBase = s.crqBase := rfl
@[simp] theorem onSlot_cmqBase : (s.onSlot i).cmqBase = s.cmqBase := rfl
@[simp] theorem onSlot_clq : (s.onSlot i).clq = s.clq := rfl
@[simp] theorem onSlot_heldQ : (s.onSlot i).heldQ = s.heldQ := rfl
@[simp] theorem onSlot_fifos : (s.onSlot i).fifos = s.fifos := rfl
@[simp] theorem onSlot_worlds : (s.onSlot i).worlds = s.worlds := rfl
@[simp] theorem onSlot_mem : (s.onSlot i).mem = s.mem := rfl
@[simp] theorem onSlot_tags : (s.onSlot i).tags = s.tags := rfl
@[simp] theorem onSlot_full : (s.onSlot i).full = s.full := rfl
@[simp] theorem onSlot_fullScopes : (s.onSlot i).fullScopes = s.fullScopes := rfl
@[simp] theorem onSlot_refs : (s.onSlot i).refs = s.refs := rfl
@[simp] theorem onSlot_badLines : (s.onSlot i).badLines = s.badLines := rfl
@[simp] theorem onSlot_badGrans : (s.onSlot i).badGrans = s.badGrans := rfl
@[simp] theorem onSlot_seals : (s.onSlot i).seals = s.seals := rfl
@[simp] theorem onSlot_errCounts : (s.onSlot i).errCounts = s.errCounts := rfl
@[simp] theorem onSlot_blList : (s.onSlot i).blList = s.blList := rfl
@[simp] theorem onSlot_blOvf : (s.onSlot i).blOvf = s.blOvf := rfl
@[simp] theorem onSlot_blFound : (s.onSlot i).blFound = s.blFound := rfl
@[simp] theorem onSlot_errSeen : (s.onSlot i).errSeen = s.errSeen := rfl
@[simp] theorem onSlot_sideLog : (s.onSlot i).sideLog = s.sideLog := rfl
@[simp] theorem onSlot_heldSigs : (s.onSlot i).heldSigs = s.heldSigs := rfl
@[simp] theorem onSlot_pageReqs : (s.onSlot i).pageReqs = s.pageReqs := rfl
@[simp] theorem onSlot_quays : (s.onSlot i).quays = s.quays := rfl
@[simp] theorem onSlot_dupHeld : (s.onSlot i).dupHeld = s.dupHeld := rfl
@[simp] theorem onSlot_dup : (s.onSlot i).dup = s.dup := rfl
@[simp] theorem onSlot_dupAcks : (s.onSlot i).dupAcks = s.dupAcks := rfl
@[simp] theorem onSlot_peerOut : (s.onSlot i).peerOut = s.peerOut := rfl
@[simp] theorem onSlot_tcache : (s.onSlot i).tcache = s.tcache := rfl
@[simp] theorem onSlot_pageCounts : (s.onSlot i).pageCounts = s.pageCounts := rfl
@[simp] theorem onSlot_pageNotes : (s.onSlot i).pageNotes = s.pageNotes := rfl
@[simp] theorem onSlot_pageOvf : (s.onSlot i).pageOvf = s.pageOvf := rfl
@[simp] theorem onSlot_quayMons : (s.onSlot i).quayMons = s.quayMons := rfl
@[simp] theorem onSlot_heldActs : (s.onSlot i).heldActs = s.heldActs := rfl
@[simp] theorem onSlot_barScales : (s.onSlot i).barScales = s.barScales := rfl
@[simp] theorem onSlot_farMsgs : (s.onSlot i).farMsgs = s.farMsgs := rfl
@[simp] theorem onSlot_susp : (s.onSlot i).susp = s.susp := rfl
@[simp] theorem onSlot_swapping : (s.onSlot i).swapping = s.swapping := rfl
@[simp] theorem onSlot_swapped : (s.onSlot i).swapped = s.swapped := rfl
@[simp] theorem onSlot_tally : (s.onSlot i).tally = s.tally := rfl
@[simp] theorem onSlot_launches : (s.onSlot i).launches = s.launches := rfl
@[simp] theorem onSlot_coalesce : (s.onSlot i).coalesce = s.coalesce := rfl
@[simp] theorem onSlot_hostOut : (s.onSlot i).hostOut = s.hostOut := rfl
@[simp] theorem onSlot_hostHeld : (s.onSlot i).hostHeld = s.hostHeld := rfl
@[simp] theorem onSlot_sessA : (s.onSlot i).sessA = s.sessA := rfl
@[simp] theorem onSlot_sessB : (s.onSlot i).sessB = s.sessB := rfl
@[simp] theorem onSlot_psem : (s.onSlot i).psem = s.psem := rfl
@[simp] theorem onSlot_notices : (s.onSlot i).notices = s.notices := rfl
@[simp] theorem onSlot_auditLog : (s.onSlot i).auditLog = s.auditLog := rfl
@[simp] theorem onSlot_auditSeq : (s.onSlot i).auditSeq = s.auditSeq := rfl
@[simp] theorem onSlot_auditOvf : (s.onSlot i).auditOvf = s.auditOvf := rfl
@[simp] theorem onSlot_device : (s.onSlot i).device = s.device := rfl
@[simp] theorem onSlot_routes : (s.onSlot i).routes = s.routes := rfl
@[simp] theorem onSlot_linkUp : (s.onSlot i).linkUp = s.linkUp := rfl
@[simp] theorem onSlot_cxlUp : (s.onSlot i).cxlUp = s.cxlUp := rfl
@[simp] theorem onSlot_imports : (s.onSlot i).imports = s.imports := rfl
@[simp] theorem onSlot_rejected : (s.onSlot i).rejected = s.rejected := rfl
@[simp] theorem onSlot_fabricOut : (s.onSlot i).fabricOut = s.fabricOut := rfl
@[simp] theorem onSlot_peerAcks : (s.onSlot i).peerAcks = s.peerAcks := rfl
@[simp] theorem onSlot_cwins : (s.onSlot i).cwins = s.cwins := rfl
@[simp] theorem onSlot_ptmo : (s.onSlot i).ptmo = s.ptmo := rfl
@[simp] theorem onSlot_throt : (s.onSlot i).throt = s.throt := rfl
@[simp] theorem onSlot_tripped : (s.onSlot i).tripped = s.tripped := rfl
@[simp] theorem onSlot_fwImage : (s.onSlot i).fwImage = s.fwImage := rfl
@[simp] theorem onSlot_measured : (s.onSlot i).measured = s.measured := rfl
@[simp] theorem onSlot_mgmtOut : (s.onSlot i).mgmtOut = s.mgmtOut := rfl
@[simp] theorem onSlot_agenda : (s.onSlot i).agenda = s.agenda := rfl
@[simp] theorem onSlot_deferred : (s.onSlot i).deferred = s.deferred := rfl
@[simp] theorem onSlot_act : (s.onSlot i).act = s.act := rfl
@[simp] theorem onSlot_asleep : (s.onSlot i).asleep = s.asleep := rfl
@[simp] theorem onSlot_fibCtr : (s.onSlot i).fibCtr = s.fibCtr := rfl
@[simp] theorem onSlot_opCtr : (s.onSlot i).opCtr = s.opCtr := rfl
@[simp] theorem onSlot_keyCtr : (s.onSlot i).keyCtr = s.keyCtr := rfl
@[simp] theorem onSlot_freeCtr : (s.onSlot i).freeCtr = s.freeCtr := rfl
@[simp] theorem onSlot_cur : (s.onSlot i).cur = i := rfl
@[simp] theorem onTurn_core : (s.onTurn i).core = s.core := rfl
@[simp] theorem onTurn_cluster : (s.onTurn i).cluster = s.cluster := rfl
@[simp] theorem onTurn_slots : (s.onTurn i).slots = s.slots := rfl
@[simp] theorem onTurn_sem : (s.onTurn i).sem = s.sem := rfl
@[simp] theorem onTurn_badSem : (s.onTurn i).badSem = s.badSem := rfl
@[simp] theorem onTurn_waiters : (s.onTurn i).waiters = s.waiters := rfl
@[simp] theorem onTurn_await : (s.onTurn i).await = s.await := rfl
@[simp] theorem onTurn_lrq : (s.onTurn i).lrq = s.lrq := rfl
@[simp] theorem onTurn_cmq : (s.onTurn i).cmq = s.cmq := rfl
@[simp] theorem onTurn_heldMsgs : (s.onTurn i).heldMsgs = s.heldMsgs := rfl
@[simp] theorem onTurn_trapQ : (s.onTurn i).trapQ = s.trapQ := rfl
@[simp] theorem onTurn_hold : (s.onTurn i).hold = s.hold := rfl
@[simp] theorem onTurn_lost : (s.onTurn i).lost = s.lost := rfl
@[simp] theorem onTurn_ctcx : (s.onTurn i).ctcx = s.ctcx := rfl
@[simp] theorem onTurn_svec : (s.onTurn i).svec = s.svec := rfl
@[simp] theorem onTurn_frec : (s.onTurn i).frec = s.frec := rfl
@[simp] theorem onTurn_supStarted : (s.onTurn i).supStarted = s.supStarted := rfl
@[simp] theorem onTurn_supHalted : (s.onTurn i).supHalted = s.supHalted := rfl
@[simp] theorem onTurn_yielding : (s.onTurn i).yielding = s.yielding := rfl
@[simp] theorem onTurn_mat : (s.onTurn i).mat = s.mat := rfl
@[simp] theorem onTurn_wave : (s.onTurn i).wave = s.wave := rfl
@[simp] theorem onTurn_updates : (s.onTurn i).updates = s.updates := rfl
@[simp] theorem onTurn_cl : (s.onTurn i).cl = s.cl := rfl
@[simp] theorem onTurn_bmode : (s.onTurn i).bmode = s.bmode := rfl
@[simp] theorem onTurn_rpwin : (s.onTurn i).rpwin = s.rpwin := rfl
@[simp] theorem onTurn_crq : (s.onTurn i).crq = s.crq := rfl
@[simp] theorem onTurn_crqBase : (s.onTurn i).crqBase = s.crqBase := rfl
@[simp] theorem onTurn_cmqBase : (s.onTurn i).cmqBase = s.cmqBase := rfl
@[simp] theorem onTurn_clq : (s.onTurn i).clq = s.clq := rfl
@[simp] theorem onTurn_heldQ : (s.onTurn i).heldQ = s.heldQ := rfl
@[simp] theorem onTurn_fifos : (s.onTurn i).fifos = s.fifos := rfl
@[simp] theorem onTurn_worlds : (s.onTurn i).worlds = s.worlds := rfl
@[simp] theorem onTurn_mem : (s.onTurn i).mem = s.mem := rfl
@[simp] theorem onTurn_tags : (s.onTurn i).tags = s.tags := rfl
@[simp] theorem onTurn_full : (s.onTurn i).full = s.full := rfl
@[simp] theorem onTurn_fullScopes : (s.onTurn i).fullScopes = s.fullScopes := rfl
@[simp] theorem onTurn_refs : (s.onTurn i).refs = s.refs := rfl
@[simp] theorem onTurn_badLines : (s.onTurn i).badLines = s.badLines := rfl
@[simp] theorem onTurn_badGrans : (s.onTurn i).badGrans = s.badGrans := rfl
@[simp] theorem onTurn_seals : (s.onTurn i).seals = s.seals := rfl
@[simp] theorem onTurn_errCounts : (s.onTurn i).errCounts = s.errCounts := rfl
@[simp] theorem onTurn_blList : (s.onTurn i).blList = s.blList := rfl
@[simp] theorem onTurn_blOvf : (s.onTurn i).blOvf = s.blOvf := rfl
@[simp] theorem onTurn_blFound : (s.onTurn i).blFound = s.blFound := rfl
@[simp] theorem onTurn_errSeen : (s.onTurn i).errSeen = s.errSeen := rfl
@[simp] theorem onTurn_sideLog : (s.onTurn i).sideLog = s.sideLog := rfl
@[simp] theorem onTurn_heldSigs : (s.onTurn i).heldSigs = s.heldSigs := rfl
@[simp] theorem onTurn_pageReqs : (s.onTurn i).pageReqs = s.pageReqs := rfl
@[simp] theorem onTurn_quays : (s.onTurn i).quays = s.quays := rfl
@[simp] theorem onTurn_dupHeld : (s.onTurn i).dupHeld = s.dupHeld := rfl
@[simp] theorem onTurn_dup : (s.onTurn i).dup = s.dup := rfl
@[simp] theorem onTurn_dupAcks : (s.onTurn i).dupAcks = s.dupAcks := rfl
@[simp] theorem onTurn_peerOut : (s.onTurn i).peerOut = s.peerOut := rfl
@[simp] theorem onTurn_tcache : (s.onTurn i).tcache = s.tcache := rfl
@[simp] theorem onTurn_pageCounts : (s.onTurn i).pageCounts = s.pageCounts := rfl
@[simp] theorem onTurn_pageNotes : (s.onTurn i).pageNotes = s.pageNotes := rfl
@[simp] theorem onTurn_pageOvf : (s.onTurn i).pageOvf = s.pageOvf := rfl
@[simp] theorem onTurn_quayMons : (s.onTurn i).quayMons = s.quayMons := rfl
@[simp] theorem onTurn_heldActs : (s.onTurn i).heldActs = s.heldActs := rfl
@[simp] theorem onTurn_barScales : (s.onTurn i).barScales = s.barScales := rfl
@[simp] theorem onTurn_farMsgs : (s.onTurn i).farMsgs = s.farMsgs := rfl
@[simp] theorem onTurn_susp : (s.onTurn i).susp = s.susp := rfl
@[simp] theorem onTurn_swapping : (s.onTurn i).swapping = s.swapping := rfl
@[simp] theorem onTurn_swapped : (s.onTurn i).swapped = s.swapped := rfl
@[simp] theorem onTurn_tally : (s.onTurn i).tally = s.tally := rfl
@[simp] theorem onTurn_launches : (s.onTurn i).launches = s.launches := rfl
@[simp] theorem onTurn_coalesce : (s.onTurn i).coalesce = s.coalesce := rfl
@[simp] theorem onTurn_hostOut : (s.onTurn i).hostOut = s.hostOut := rfl
@[simp] theorem onTurn_hostHeld : (s.onTurn i).hostHeld = s.hostHeld := rfl
@[simp] theorem onTurn_sessA : (s.onTurn i).sessA = s.sessA := rfl
@[simp] theorem onTurn_sessB : (s.onTurn i).sessB = s.sessB := rfl
@[simp] theorem onTurn_psem : (s.onTurn i).psem = s.psem := rfl
@[simp] theorem onTurn_notices : (s.onTurn i).notices = s.notices := rfl
@[simp] theorem onTurn_auditLog : (s.onTurn i).auditLog = s.auditLog := rfl
@[simp] theorem onTurn_auditSeq : (s.onTurn i).auditSeq = s.auditSeq := rfl
@[simp] theorem onTurn_auditOvf : (s.onTurn i).auditOvf = s.auditOvf := rfl
@[simp] theorem onTurn_device : (s.onTurn i).device = s.device := rfl
@[simp] theorem onTurn_routes : (s.onTurn i).routes = s.routes := rfl
@[simp] theorem onTurn_linkUp : (s.onTurn i).linkUp = s.linkUp := rfl
@[simp] theorem onTurn_cxlUp : (s.onTurn i).cxlUp = s.cxlUp := rfl
@[simp] theorem onTurn_imports : (s.onTurn i).imports = s.imports := rfl
@[simp] theorem onTurn_rejected : (s.onTurn i).rejected = s.rejected := rfl
@[simp] theorem onTurn_fabricOut : (s.onTurn i).fabricOut = s.fabricOut := rfl
@[simp] theorem onTurn_peerAcks : (s.onTurn i).peerAcks = s.peerAcks := rfl
@[simp] theorem onTurn_cwins : (s.onTurn i).cwins = s.cwins := rfl
@[simp] theorem onTurn_ptmo : (s.onTurn i).ptmo = s.ptmo := rfl
@[simp] theorem onTurn_throt : (s.onTurn i).throt = s.throt := rfl
@[simp] theorem onTurn_tripped : (s.onTurn i).tripped = s.tripped := rfl
@[simp] theorem onTurn_fwImage : (s.onTurn i).fwImage = s.fwImage := rfl
@[simp] theorem onTurn_measured : (s.onTurn i).measured = s.measured := rfl
@[simp] theorem onTurn_mgmtOut : (s.onTurn i).mgmtOut = s.mgmtOut := rfl
@[simp] theorem onTurn_agenda : (s.onTurn i).agenda = s.agenda := rfl
@[simp] theorem onTurn_deferred : (s.onTurn i).deferred = s.deferred := rfl
@[simp] theorem onTurn_asleep : (s.onTurn i).asleep = s.asleep := rfl
@[simp] theorem onTurn_fibCtr : (s.onTurn i).fibCtr = s.fibCtr := rfl
@[simp] theorem onTurn_opCtr : (s.onTurn i).opCtr = s.opCtr := rfl
@[simp] theorem onTurn_keyCtr : (s.onTurn i).keyCtr = s.keyCtr := rfl
@[simp] theorem onTurn_freeCtr : (s.onTurn i).freeCtr = s.freeCtr := rfl
@[simp] theorem onTurn_cur : (s.onTurn i).cur = i := rfl
@[simp] theorem onTurn_last : (s.onTurn i).last = i := rfl
@[simp] theorem onTurn_act : (s.onTurn i).act = none := rfl
@[simp] theorem onTurn_word : (s.onTurn i).word = 0 := rfl
@[simp] theorem onAct_core : (s.onAct a as).core = s.core := rfl
@[simp] theorem onAct_cluster : (s.onAct a as).cluster = s.cluster := rfl
@[simp] theorem onAct_cur : (s.onAct a as).cur = s.cur := rfl
@[simp] theorem onAct_word : (s.onAct a as).word = s.word := rfl
@[simp] theorem onAct_last : (s.onAct a as).last = s.last := rfl
@[simp] theorem onAct_slots : (s.onAct a as).slots = s.slots := rfl
@[simp] theorem onAct_sem : (s.onAct a as).sem = s.sem := rfl
@[simp] theorem onAct_badSem : (s.onAct a as).badSem = s.badSem := rfl
@[simp] theorem onAct_waiters : (s.onAct a as).waiters = s.waiters := rfl
@[simp] theorem onAct_await : (s.onAct a as).await = s.await := rfl
@[simp] theorem onAct_lrq : (s.onAct a as).lrq = s.lrq := rfl
@[simp] theorem onAct_cmq : (s.onAct a as).cmq = s.cmq := rfl
@[simp] theorem onAct_heldMsgs : (s.onAct a as).heldMsgs = s.heldMsgs := rfl
@[simp] theorem onAct_trapQ : (s.onAct a as).trapQ = s.trapQ := rfl
@[simp] theorem onAct_hold : (s.onAct a as).hold = s.hold := rfl
@[simp] theorem onAct_lost : (s.onAct a as).lost = s.lost := rfl
@[simp] theorem onAct_ctcx : (s.onAct a as).ctcx = s.ctcx := rfl
@[simp] theorem onAct_svec : (s.onAct a as).svec = s.svec := rfl
@[simp] theorem onAct_frec : (s.onAct a as).frec = s.frec := rfl
@[simp] theorem onAct_supStarted : (s.onAct a as).supStarted = s.supStarted := rfl
@[simp] theorem onAct_supHalted : (s.onAct a as).supHalted = s.supHalted := rfl
@[simp] theorem onAct_yielding : (s.onAct a as).yielding = s.yielding := rfl
@[simp] theorem onAct_mat : (s.onAct a as).mat = s.mat := rfl
@[simp] theorem onAct_wave : (s.onAct a as).wave = s.wave := rfl
@[simp] theorem onAct_updates : (s.onAct a as).updates = s.updates := rfl
@[simp] theorem onAct_cl : (s.onAct a as).cl = s.cl := rfl
@[simp] theorem onAct_bmode : (s.onAct a as).bmode = s.bmode := rfl
@[simp] theorem onAct_rpwin : (s.onAct a as).rpwin = s.rpwin := rfl
@[simp] theorem onAct_crq : (s.onAct a as).crq = s.crq := rfl
@[simp] theorem onAct_crqBase : (s.onAct a as).crqBase = s.crqBase := rfl
@[simp] theorem onAct_cmqBase : (s.onAct a as).cmqBase = s.cmqBase := rfl
@[simp] theorem onAct_clq : (s.onAct a as).clq = s.clq := rfl
@[simp] theorem onAct_heldQ : (s.onAct a as).heldQ = s.heldQ := rfl
@[simp] theorem onAct_fifos : (s.onAct a as).fifos = s.fifos := rfl
@[simp] theorem onAct_worlds : (s.onAct a as).worlds = s.worlds := rfl
@[simp] theorem onAct_mem : (s.onAct a as).mem = s.mem := rfl
@[simp] theorem onAct_tags : (s.onAct a as).tags = s.tags := rfl
@[simp] theorem onAct_full : (s.onAct a as).full = s.full := rfl
@[simp] theorem onAct_fullScopes : (s.onAct a as).fullScopes = s.fullScopes := rfl
@[simp] theorem onAct_refs : (s.onAct a as).refs = s.refs := rfl
@[simp] theorem onAct_badLines : (s.onAct a as).badLines = s.badLines := rfl
@[simp] theorem onAct_badGrans : (s.onAct a as).badGrans = s.badGrans := rfl
@[simp] theorem onAct_seals : (s.onAct a as).seals = s.seals := rfl
@[simp] theorem onAct_errCounts : (s.onAct a as).errCounts = s.errCounts := rfl
@[simp] theorem onAct_blList : (s.onAct a as).blList = s.blList := rfl
@[simp] theorem onAct_blOvf : (s.onAct a as).blOvf = s.blOvf := rfl
@[simp] theorem onAct_blFound : (s.onAct a as).blFound = s.blFound := rfl
@[simp] theorem onAct_errSeen : (s.onAct a as).errSeen = s.errSeen := rfl
@[simp] theorem onAct_sideLog : (s.onAct a as).sideLog = s.sideLog := rfl
@[simp] theorem onAct_heldSigs : (s.onAct a as).heldSigs = s.heldSigs := rfl
@[simp] theorem onAct_pageReqs : (s.onAct a as).pageReqs = s.pageReqs := rfl
@[simp] theorem onAct_quays : (s.onAct a as).quays = s.quays := rfl
@[simp] theorem onAct_dupHeld : (s.onAct a as).dupHeld = s.dupHeld := rfl
@[simp] theorem onAct_dup : (s.onAct a as).dup = s.dup := rfl
@[simp] theorem onAct_dupAcks : (s.onAct a as).dupAcks = s.dupAcks := rfl
@[simp] theorem onAct_peerOut : (s.onAct a as).peerOut = s.peerOut := rfl
@[simp] theorem onAct_tcache : (s.onAct a as).tcache = s.tcache := rfl
@[simp] theorem onAct_pageCounts : (s.onAct a as).pageCounts = s.pageCounts := rfl
@[simp] theorem onAct_pageNotes : (s.onAct a as).pageNotes = s.pageNotes := rfl
@[simp] theorem onAct_pageOvf : (s.onAct a as).pageOvf = s.pageOvf := rfl
@[simp] theorem onAct_quayMons : (s.onAct a as).quayMons = s.quayMons := rfl
@[simp] theorem onAct_heldActs : (s.onAct a as).heldActs = s.heldActs := rfl
@[simp] theorem onAct_barScales : (s.onAct a as).barScales = s.barScales := rfl
@[simp] theorem onAct_farMsgs : (s.onAct a as).farMsgs = s.farMsgs := rfl
@[simp] theorem onAct_susp : (s.onAct a as).susp = s.susp := rfl
@[simp] theorem onAct_swapping : (s.onAct a as).swapping = s.swapping := rfl
@[simp] theorem onAct_swapped : (s.onAct a as).swapped = s.swapped := rfl
@[simp] theorem onAct_tally : (s.onAct a as).tally = s.tally := rfl
@[simp] theorem onAct_launches : (s.onAct a as).launches = s.launches := rfl
@[simp] theorem onAct_coalesce : (s.onAct a as).coalesce = s.coalesce := rfl
@[simp] theorem onAct_hostOut : (s.onAct a as).hostOut = s.hostOut := rfl
@[simp] theorem onAct_hostHeld : (s.onAct a as).hostHeld = s.hostHeld := rfl
@[simp] theorem onAct_sessA : (s.onAct a as).sessA = s.sessA := rfl
@[simp] theorem onAct_sessB : (s.onAct a as).sessB = s.sessB := rfl
@[simp] theorem onAct_psem : (s.onAct a as).psem = s.psem := rfl
@[simp] theorem onAct_notices : (s.onAct a as).notices = s.notices := rfl
@[simp] theorem onAct_auditLog : (s.onAct a as).auditLog = s.auditLog := rfl
@[simp] theorem onAct_auditSeq : (s.onAct a as).auditSeq = s.auditSeq := rfl
@[simp] theorem onAct_auditOvf : (s.onAct a as).auditOvf = s.auditOvf := rfl
@[simp] theorem onAct_device : (s.onAct a as).device = s.device := rfl
@[simp] theorem onAct_routes : (s.onAct a as).routes = s.routes := rfl
@[simp] theorem onAct_linkUp : (s.onAct a as).linkUp = s.linkUp := rfl
@[simp] theorem onAct_cxlUp : (s.onAct a as).cxlUp = s.cxlUp := rfl
@[simp] theorem onAct_imports : (s.onAct a as).imports = s.imports := rfl
@[simp] theorem onAct_rejected : (s.onAct a as).rejected = s.rejected := rfl
@[simp] theorem onAct_fabricOut : (s.onAct a as).fabricOut = s.fabricOut := rfl
@[simp] theorem onAct_peerAcks : (s.onAct a as).peerAcks = s.peerAcks := rfl
@[simp] theorem onAct_cwins : (s.onAct a as).cwins = s.cwins := rfl
@[simp] theorem onAct_ptmo : (s.onAct a as).ptmo = s.ptmo := rfl
@[simp] theorem onAct_throt : (s.onAct a as).throt = s.throt := rfl
@[simp] theorem onAct_tripped : (s.onAct a as).tripped = s.tripped := rfl
@[simp] theorem onAct_fwImage : (s.onAct a as).fwImage = s.fwImage := rfl
@[simp] theorem onAct_measured : (s.onAct a as).measured = s.measured := rfl
@[simp] theorem onAct_mgmtOut : (s.onAct a as).mgmtOut = s.mgmtOut := rfl
@[simp] theorem onAct_deferred : (s.onAct a as).deferred = s.deferred := rfl
@[simp] theorem onAct_asleep : (s.onAct a as).asleep = s.asleep := rfl
@[simp] theorem onAct_fibCtr : (s.onAct a as).fibCtr = s.fibCtr := rfl
@[simp] theorem onAct_opCtr : (s.onAct a as).opCtr = s.opCtr := rfl
@[simp] theorem onAct_keyCtr : (s.onAct a as).keyCtr = s.keyCtr := rfl
@[simp] theorem onAct_freeCtr : (s.onAct a as).freeCtr = s.freeCtr := rfl
@[simp] theorem onAct_agenda : (s.onAct a as).agenda = as := rfl
@[simp] theorem onAct_act : (s.onAct a as).act = some a := rfl
@[simp] theorem withWord_core : (s.withWord wd).core = s.core := rfl
@[simp] theorem withWord_cluster : (s.withWord wd).cluster = s.cluster := rfl
@[simp] theorem withWord_cur : (s.withWord wd).cur = s.cur := rfl
@[simp] theorem withWord_last : (s.withWord wd).last = s.last := rfl
@[simp] theorem withWord_slots : (s.withWord wd).slots = s.slots := rfl
@[simp] theorem withWord_sem : (s.withWord wd).sem = s.sem := rfl
@[simp] theorem withWord_badSem : (s.withWord wd).badSem = s.badSem := rfl
@[simp] theorem withWord_waiters : (s.withWord wd).waiters = s.waiters := rfl
@[simp] theorem withWord_await : (s.withWord wd).await = s.await := rfl
@[simp] theorem withWord_lrq : (s.withWord wd).lrq = s.lrq := rfl
@[simp] theorem withWord_cmq : (s.withWord wd).cmq = s.cmq := rfl
@[simp] theorem withWord_heldMsgs : (s.withWord wd).heldMsgs = s.heldMsgs := rfl
@[simp] theorem withWord_trapQ : (s.withWord wd).trapQ = s.trapQ := rfl
@[simp] theorem withWord_hold : (s.withWord wd).hold = s.hold := rfl
@[simp] theorem withWord_lost : (s.withWord wd).lost = s.lost := rfl
@[simp] theorem withWord_ctcx : (s.withWord wd).ctcx = s.ctcx := rfl
@[simp] theorem withWord_svec : (s.withWord wd).svec = s.svec := rfl
@[simp] theorem withWord_frec : (s.withWord wd).frec = s.frec := rfl
@[simp] theorem withWord_supStarted : (s.withWord wd).supStarted = s.supStarted := rfl
@[simp] theorem withWord_supHalted : (s.withWord wd).supHalted = s.supHalted := rfl
@[simp] theorem withWord_yielding : (s.withWord wd).yielding = s.yielding := rfl
@[simp] theorem withWord_mat : (s.withWord wd).mat = s.mat := rfl
@[simp] theorem withWord_wave : (s.withWord wd).wave = s.wave := rfl
@[simp] theorem withWord_updates : (s.withWord wd).updates = s.updates := rfl
@[simp] theorem withWord_cl : (s.withWord wd).cl = s.cl := rfl
@[simp] theorem withWord_bmode : (s.withWord wd).bmode = s.bmode := rfl
@[simp] theorem withWord_rpwin : (s.withWord wd).rpwin = s.rpwin := rfl
@[simp] theorem withWord_crq : (s.withWord wd).crq = s.crq := rfl
@[simp] theorem withWord_crqBase : (s.withWord wd).crqBase = s.crqBase := rfl
@[simp] theorem withWord_cmqBase : (s.withWord wd).cmqBase = s.cmqBase := rfl
@[simp] theorem withWord_clq : (s.withWord wd).clq = s.clq := rfl
@[simp] theorem withWord_heldQ : (s.withWord wd).heldQ = s.heldQ := rfl
@[simp] theorem withWord_fifos : (s.withWord wd).fifos = s.fifos := rfl
@[simp] theorem withWord_worlds : (s.withWord wd).worlds = s.worlds := rfl
@[simp] theorem withWord_mem : (s.withWord wd).mem = s.mem := rfl
@[simp] theorem withWord_tags : (s.withWord wd).tags = s.tags := rfl
@[simp] theorem withWord_full : (s.withWord wd).full = s.full := rfl
@[simp] theorem withWord_fullScopes : (s.withWord wd).fullScopes = s.fullScopes := rfl
@[simp] theorem withWord_refs : (s.withWord wd).refs = s.refs := rfl
@[simp] theorem withWord_badLines : (s.withWord wd).badLines = s.badLines := rfl
@[simp] theorem withWord_badGrans : (s.withWord wd).badGrans = s.badGrans := rfl
@[simp] theorem withWord_seals : (s.withWord wd).seals = s.seals := rfl
@[simp] theorem withWord_errCounts : (s.withWord wd).errCounts = s.errCounts := rfl
@[simp] theorem withWord_blList : (s.withWord wd).blList = s.blList := rfl
@[simp] theorem withWord_blOvf : (s.withWord wd).blOvf = s.blOvf := rfl
@[simp] theorem withWord_blFound : (s.withWord wd).blFound = s.blFound := rfl
@[simp] theorem withWord_errSeen : (s.withWord wd).errSeen = s.errSeen := rfl
@[simp] theorem withWord_sideLog : (s.withWord wd).sideLog = s.sideLog := rfl
@[simp] theorem withWord_heldSigs : (s.withWord wd).heldSigs = s.heldSigs := rfl
@[simp] theorem withWord_pageReqs : (s.withWord wd).pageReqs = s.pageReqs := rfl
@[simp] theorem withWord_quays : (s.withWord wd).quays = s.quays := rfl
@[simp] theorem withWord_dupHeld : (s.withWord wd).dupHeld = s.dupHeld := rfl
@[simp] theorem withWord_dup : (s.withWord wd).dup = s.dup := rfl
@[simp] theorem withWord_dupAcks : (s.withWord wd).dupAcks = s.dupAcks := rfl
@[simp] theorem withWord_peerOut : (s.withWord wd).peerOut = s.peerOut := rfl
@[simp] theorem withWord_tcache : (s.withWord wd).tcache = s.tcache := rfl
@[simp] theorem withWord_pageCounts : (s.withWord wd).pageCounts = s.pageCounts := rfl
@[simp] theorem withWord_pageNotes : (s.withWord wd).pageNotes = s.pageNotes := rfl
@[simp] theorem withWord_pageOvf : (s.withWord wd).pageOvf = s.pageOvf := rfl
@[simp] theorem withWord_quayMons : (s.withWord wd).quayMons = s.quayMons := rfl
@[simp] theorem withWord_heldActs : (s.withWord wd).heldActs = s.heldActs := rfl
@[simp] theorem withWord_barScales : (s.withWord wd).barScales = s.barScales := rfl
@[simp] theorem withWord_farMsgs : (s.withWord wd).farMsgs = s.farMsgs := rfl
@[simp] theorem withWord_susp : (s.withWord wd).susp = s.susp := rfl
@[simp] theorem withWord_swapping : (s.withWord wd).swapping = s.swapping := rfl
@[simp] theorem withWord_swapped : (s.withWord wd).swapped = s.swapped := rfl
@[simp] theorem withWord_tally : (s.withWord wd).tally = s.tally := rfl
@[simp] theorem withWord_launches : (s.withWord wd).launches = s.launches := rfl
@[simp] theorem withWord_coalesce : (s.withWord wd).coalesce = s.coalesce := rfl
@[simp] theorem withWord_hostOut : (s.withWord wd).hostOut = s.hostOut := rfl
@[simp] theorem withWord_hostHeld : (s.withWord wd).hostHeld = s.hostHeld := rfl
@[simp] theorem withWord_sessA : (s.withWord wd).sessA = s.sessA := rfl
@[simp] theorem withWord_sessB : (s.withWord wd).sessB = s.sessB := rfl
@[simp] theorem withWord_psem : (s.withWord wd).psem = s.psem := rfl
@[simp] theorem withWord_notices : (s.withWord wd).notices = s.notices := rfl
@[simp] theorem withWord_auditLog : (s.withWord wd).auditLog = s.auditLog := rfl
@[simp] theorem withWord_auditSeq : (s.withWord wd).auditSeq = s.auditSeq := rfl
@[simp] theorem withWord_auditOvf : (s.withWord wd).auditOvf = s.auditOvf := rfl
@[simp] theorem withWord_device : (s.withWord wd).device = s.device := rfl
@[simp] theorem withWord_routes : (s.withWord wd).routes = s.routes := rfl
@[simp] theorem withWord_linkUp : (s.withWord wd).linkUp = s.linkUp := rfl
@[simp] theorem withWord_cxlUp : (s.withWord wd).cxlUp = s.cxlUp := rfl
@[simp] theorem withWord_imports : (s.withWord wd).imports = s.imports := rfl
@[simp] theorem withWord_rejected : (s.withWord wd).rejected = s.rejected := rfl
@[simp] theorem withWord_fabricOut : (s.withWord wd).fabricOut = s.fabricOut := rfl
@[simp] theorem withWord_peerAcks : (s.withWord wd).peerAcks = s.peerAcks := rfl
@[simp] theorem withWord_cwins : (s.withWord wd).cwins = s.cwins := rfl
@[simp] theorem withWord_ptmo : (s.withWord wd).ptmo = s.ptmo := rfl
@[simp] theorem withWord_throt : (s.withWord wd).throt = s.throt := rfl
@[simp] theorem withWord_tripped : (s.withWord wd).tripped = s.tripped := rfl
@[simp] theorem withWord_fwImage : (s.withWord wd).fwImage = s.fwImage := rfl
@[simp] theorem withWord_measured : (s.withWord wd).measured = s.measured := rfl
@[simp] theorem withWord_mgmtOut : (s.withWord wd).mgmtOut = s.mgmtOut := rfl
@[simp] theorem withWord_agenda : (s.withWord wd).agenda = s.agenda := rfl
@[simp] theorem withWord_deferred : (s.withWord wd).deferred = s.deferred := rfl
@[simp] theorem withWord_act : (s.withWord wd).act = s.act := rfl
@[simp] theorem withWord_asleep : (s.withWord wd).asleep = s.asleep := rfl
@[simp] theorem withWord_fibCtr : (s.withWord wd).fibCtr = s.fibCtr := rfl
@[simp] theorem withWord_opCtr : (s.withWord wd).opCtr = s.opCtr := rfl
@[simp] theorem withWord_keyCtr : (s.withWord wd).keyCtr = s.keyCtr := rfl
@[simp] theorem withWord_freeCtr : (s.withWord wd).freeCtr = s.freeCtr := rfl
@[simp] theorem withWord_word : (s.withWord wd).word = wd := rfl
@[simp] theorem unstall_core : (s.unstall).core = s.core := rfl
@[simp] theorem unstall_cluster : (s.unstall).cluster = s.cluster := rfl
@[simp] theorem unstall_cur : (s.unstall).cur = s.cur := rfl
@[simp] theorem unstall_word : (s.unstall).word = s.word := rfl
@[simp] theorem unstall_last : (s.unstall).last = s.last := rfl
@[simp] theorem unstall_slots : (s.unstall).slots = s.slots := rfl
@[simp] theorem unstall_sem : (s.unstall).sem = s.sem := rfl
@[simp] theorem unstall_badSem : (s.unstall).badSem = s.badSem := rfl
@[simp] theorem unstall_waiters : (s.unstall).waiters = s.waiters := rfl
@[simp] theorem unstall_await : (s.unstall).await = s.await := rfl
@[simp] theorem unstall_lrq : (s.unstall).lrq = s.lrq := rfl
@[simp] theorem unstall_cmq : (s.unstall).cmq = s.cmq := rfl
@[simp] theorem unstall_heldMsgs : (s.unstall).heldMsgs = s.heldMsgs := rfl
@[simp] theorem unstall_trapQ : (s.unstall).trapQ = s.trapQ := rfl
@[simp] theorem unstall_hold : (s.unstall).hold = s.hold := rfl
@[simp] theorem unstall_lost : (s.unstall).lost = s.lost := rfl
@[simp] theorem unstall_ctcx : (s.unstall).ctcx = s.ctcx := rfl
@[simp] theorem unstall_svec : (s.unstall).svec = s.svec := rfl
@[simp] theorem unstall_frec : (s.unstall).frec = s.frec := rfl
@[simp] theorem unstall_supStarted : (s.unstall).supStarted = s.supStarted := rfl
@[simp] theorem unstall_supHalted : (s.unstall).supHalted = s.supHalted := rfl
@[simp] theorem unstall_yielding : (s.unstall).yielding = s.yielding := rfl
@[simp] theorem unstall_mat : (s.unstall).mat = s.mat := rfl
@[simp] theorem unstall_wave : (s.unstall).wave = s.wave := rfl
@[simp] theorem unstall_updates : (s.unstall).updates = s.updates := rfl
@[simp] theorem unstall_cl : (s.unstall).cl = s.cl := rfl
@[simp] theorem unstall_bmode : (s.unstall).bmode = s.bmode := rfl
@[simp] theorem unstall_rpwin : (s.unstall).rpwin = s.rpwin := rfl
@[simp] theorem unstall_crq : (s.unstall).crq = s.crq := rfl
@[simp] theorem unstall_crqBase : (s.unstall).crqBase = s.crqBase := rfl
@[simp] theorem unstall_cmqBase : (s.unstall).cmqBase = s.cmqBase := rfl
@[simp] theorem unstall_clq : (s.unstall).clq = s.clq := rfl
@[simp] theorem unstall_heldQ : (s.unstall).heldQ = s.heldQ := rfl
@[simp] theorem unstall_fifos : (s.unstall).fifos = s.fifos := rfl
@[simp] theorem unstall_worlds : (s.unstall).worlds = s.worlds := rfl
@[simp] theorem unstall_mem : (s.unstall).mem = s.mem := rfl
@[simp] theorem unstall_tags : (s.unstall).tags = s.tags := rfl
@[simp] theorem unstall_full : (s.unstall).full = s.full := rfl
@[simp] theorem unstall_fullScopes : (s.unstall).fullScopes = s.fullScopes := rfl
@[simp] theorem unstall_refs : (s.unstall).refs = s.refs := rfl
@[simp] theorem unstall_badLines : (s.unstall).badLines = s.badLines := rfl
@[simp] theorem unstall_badGrans : (s.unstall).badGrans = s.badGrans := rfl
@[simp] theorem unstall_seals : (s.unstall).seals = s.seals := rfl
@[simp] theorem unstall_errCounts : (s.unstall).errCounts = s.errCounts := rfl
@[simp] theorem unstall_blList : (s.unstall).blList = s.blList := rfl
@[simp] theorem unstall_blOvf : (s.unstall).blOvf = s.blOvf := rfl
@[simp] theorem unstall_blFound : (s.unstall).blFound = s.blFound := rfl
@[simp] theorem unstall_errSeen : (s.unstall).errSeen = s.errSeen := rfl
@[simp] theorem unstall_sideLog : (s.unstall).sideLog = s.sideLog := rfl
@[simp] theorem unstall_heldSigs : (s.unstall).heldSigs = s.heldSigs := rfl
@[simp] theorem unstall_pageReqs : (s.unstall).pageReqs = s.pageReqs := rfl
@[simp] theorem unstall_quays : (s.unstall).quays = s.quays := rfl
@[simp] theorem unstall_dupHeld : (s.unstall).dupHeld = s.dupHeld := rfl
@[simp] theorem unstall_dup : (s.unstall).dup = s.dup := rfl
@[simp] theorem unstall_dupAcks : (s.unstall).dupAcks = s.dupAcks := rfl
@[simp] theorem unstall_peerOut : (s.unstall).peerOut = s.peerOut := rfl
@[simp] theorem unstall_tcache : (s.unstall).tcache = s.tcache := rfl
@[simp] theorem unstall_pageCounts : (s.unstall).pageCounts = s.pageCounts := rfl
@[simp] theorem unstall_pageNotes : (s.unstall).pageNotes = s.pageNotes := rfl
@[simp] theorem unstall_pageOvf : (s.unstall).pageOvf = s.pageOvf := rfl
@[simp] theorem unstall_quayMons : (s.unstall).quayMons = s.quayMons := rfl
@[simp] theorem unstall_heldActs : (s.unstall).heldActs = s.heldActs := rfl
@[simp] theorem unstall_barScales : (s.unstall).barScales = s.barScales := rfl
@[simp] theorem unstall_farMsgs : (s.unstall).farMsgs = s.farMsgs := rfl
@[simp] theorem unstall_susp : (s.unstall).susp = s.susp := rfl
@[simp] theorem unstall_swapping : (s.unstall).swapping = s.swapping := rfl
@[simp] theorem unstall_swapped : (s.unstall).swapped = s.swapped := rfl
@[simp] theorem unstall_tally : (s.unstall).tally = s.tally := rfl
@[simp] theorem unstall_launches : (s.unstall).launches = s.launches := rfl
@[simp] theorem unstall_coalesce : (s.unstall).coalesce = s.coalesce := rfl
@[simp] theorem unstall_hostOut : (s.unstall).hostOut = s.hostOut := rfl
@[simp] theorem unstall_hostHeld : (s.unstall).hostHeld = s.hostHeld := rfl
@[simp] theorem unstall_sessA : (s.unstall).sessA = s.sessA := rfl
@[simp] theorem unstall_sessB : (s.unstall).sessB = s.sessB := rfl
@[simp] theorem unstall_psem : (s.unstall).psem = s.psem := rfl
@[simp] theorem unstall_notices : (s.unstall).notices = s.notices := rfl
@[simp] theorem unstall_auditLog : (s.unstall).auditLog = s.auditLog := rfl
@[simp] theorem unstall_auditSeq : (s.unstall).auditSeq = s.auditSeq := rfl
@[simp] theorem unstall_auditOvf : (s.unstall).auditOvf = s.auditOvf := rfl
@[simp] theorem unstall_device : (s.unstall).device = s.device := rfl
@[simp] theorem unstall_routes : (s.unstall).routes = s.routes := rfl
@[simp] theorem unstall_linkUp : (s.unstall).linkUp = s.linkUp := rfl
@[simp] theorem unstall_cxlUp : (s.unstall).cxlUp = s.cxlUp := rfl
@[simp] theorem unstall_imports : (s.unstall).imports = s.imports := rfl
@[simp] theorem unstall_rejected : (s.unstall).rejected = s.rejected := rfl
@[simp] theorem unstall_fabricOut : (s.unstall).fabricOut = s.fabricOut := rfl
@[simp] theorem unstall_peerAcks : (s.unstall).peerAcks = s.peerAcks := rfl
@[simp] theorem unstall_cwins : (s.unstall).cwins = s.cwins := rfl
@[simp] theorem unstall_ptmo : (s.unstall).ptmo = s.ptmo := rfl
@[simp] theorem unstall_throt : (s.unstall).throt = s.throt := rfl
@[simp] theorem unstall_tripped : (s.unstall).tripped = s.tripped := rfl
@[simp] theorem unstall_fwImage : (s.unstall).fwImage = s.fwImage := rfl
@[simp] theorem unstall_measured : (s.unstall).measured = s.measured := rfl
@[simp] theorem unstall_mgmtOut : (s.unstall).mgmtOut = s.mgmtOut := rfl
@[simp] theorem unstall_act : (s.unstall).act = s.act := rfl
@[simp] theorem unstall_asleep : (s.unstall).asleep = s.asleep := rfl
@[simp] theorem unstall_fibCtr : (s.unstall).fibCtr = s.fibCtr := rfl
@[simp] theorem unstall_opCtr : (s.unstall).opCtr = s.opCtr := rfl
@[simp] theorem unstall_keyCtr : (s.unstall).keyCtr = s.keyCtr := rfl
@[simp] theorem unstall_freeCtr : (s.unstall).freeCtr = s.freeCtr := rfl
@[simp] theorem unstall_agenda : (s.unstall).agenda = s.deferred ++ s.agenda := rfl
@[simp] theorem unstall_deferred : (s.unstall).deferred = [] := rfl
@[simp] theorem notice_core : (s.notice n).core = s.core := rfl
@[simp] theorem notice_cluster : (s.notice n).cluster = s.cluster := rfl
@[simp] theorem notice_cur : (s.notice n).cur = s.cur := rfl
@[simp] theorem notice_word : (s.notice n).word = s.word := rfl
@[simp] theorem notice_last : (s.notice n).last = s.last := rfl
@[simp] theorem notice_slots : (s.notice n).slots = s.slots := rfl
@[simp] theorem notice_sem : (s.notice n).sem = s.sem := rfl
@[simp] theorem notice_badSem : (s.notice n).badSem = s.badSem := rfl
@[simp] theorem notice_waiters : (s.notice n).waiters = s.waiters := rfl
@[simp] theorem notice_await : (s.notice n).await = s.await := rfl
@[simp] theorem notice_lrq : (s.notice n).lrq = s.lrq := rfl
@[simp] theorem notice_cmq : (s.notice n).cmq = s.cmq := rfl
@[simp] theorem notice_heldMsgs : (s.notice n).heldMsgs = s.heldMsgs := rfl
@[simp] theorem notice_trapQ : (s.notice n).trapQ = s.trapQ := rfl
@[simp] theorem notice_hold : (s.notice n).hold = s.hold := rfl
@[simp] theorem notice_lost : (s.notice n).lost = s.lost := rfl
@[simp] theorem notice_ctcx : (s.notice n).ctcx = s.ctcx := rfl
@[simp] theorem notice_svec : (s.notice n).svec = s.svec := rfl
@[simp] theorem notice_frec : (s.notice n).frec = s.frec := rfl
@[simp] theorem notice_supStarted : (s.notice n).supStarted = s.supStarted := rfl
@[simp] theorem notice_supHalted : (s.notice n).supHalted = s.supHalted := rfl
@[simp] theorem notice_yielding : (s.notice n).yielding = s.yielding := rfl
@[simp] theorem notice_mat : (s.notice n).mat = s.mat := rfl
@[simp] theorem notice_wave : (s.notice n).wave = s.wave := rfl
@[simp] theorem notice_updates : (s.notice n).updates = s.updates := rfl
@[simp] theorem notice_cl : (s.notice n).cl = s.cl := rfl
@[simp] theorem notice_bmode : (s.notice n).bmode = s.bmode := rfl
@[simp] theorem notice_rpwin : (s.notice n).rpwin = s.rpwin := rfl
@[simp] theorem notice_crq : (s.notice n).crq = s.crq := rfl
@[simp] theorem notice_crqBase : (s.notice n).crqBase = s.crqBase := rfl
@[simp] theorem notice_cmqBase : (s.notice n).cmqBase = s.cmqBase := rfl
@[simp] theorem notice_clq : (s.notice n).clq = s.clq := rfl
@[simp] theorem notice_heldQ : (s.notice n).heldQ = s.heldQ := rfl
@[simp] theorem notice_fifos : (s.notice n).fifos = s.fifos := rfl
@[simp] theorem notice_worlds : (s.notice n).worlds = s.worlds := rfl
@[simp] theorem notice_mem : (s.notice n).mem = s.mem := rfl
@[simp] theorem notice_tags : (s.notice n).tags = s.tags := rfl
@[simp] theorem notice_full : (s.notice n).full = s.full := rfl
@[simp] theorem notice_fullScopes : (s.notice n).fullScopes = s.fullScopes := rfl
@[simp] theorem notice_refs : (s.notice n).refs = s.refs := rfl
@[simp] theorem notice_badLines : (s.notice n).badLines = s.badLines := rfl
@[simp] theorem notice_badGrans : (s.notice n).badGrans = s.badGrans := rfl
@[simp] theorem notice_seals : (s.notice n).seals = s.seals := rfl
@[simp] theorem notice_errCounts : (s.notice n).errCounts = s.errCounts := rfl
@[simp] theorem notice_blList : (s.notice n).blList = s.blList := rfl
@[simp] theorem notice_blOvf : (s.notice n).blOvf = s.blOvf := rfl
@[simp] theorem notice_blFound : (s.notice n).blFound = s.blFound := rfl
@[simp] theorem notice_errSeen : (s.notice n).errSeen = s.errSeen := rfl
@[simp] theorem notice_sideLog : (s.notice n).sideLog = s.sideLog := rfl
@[simp] theorem notice_heldSigs : (s.notice n).heldSigs = s.heldSigs := rfl
@[simp] theorem notice_pageReqs : (s.notice n).pageReqs = s.pageReqs := rfl
@[simp] theorem notice_quays : (s.notice n).quays = s.quays := rfl
@[simp] theorem notice_dupHeld : (s.notice n).dupHeld = s.dupHeld := rfl
@[simp] theorem notice_dup : (s.notice n).dup = s.dup := rfl
@[simp] theorem notice_dupAcks : (s.notice n).dupAcks = s.dupAcks := rfl
@[simp] theorem notice_peerOut : (s.notice n).peerOut = s.peerOut := rfl
@[simp] theorem notice_tcache : (s.notice n).tcache = s.tcache := rfl
@[simp] theorem notice_pageCounts : (s.notice n).pageCounts = s.pageCounts := rfl
@[simp] theorem notice_pageNotes : (s.notice n).pageNotes = s.pageNotes := rfl
@[simp] theorem notice_pageOvf : (s.notice n).pageOvf = s.pageOvf := rfl
@[simp] theorem notice_quayMons : (s.notice n).quayMons = s.quayMons := rfl
@[simp] theorem notice_heldActs : (s.notice n).heldActs = s.heldActs := rfl
@[simp] theorem notice_barScales : (s.notice n).barScales = s.barScales := rfl
@[simp] theorem notice_farMsgs : (s.notice n).farMsgs = s.farMsgs := rfl
@[simp] theorem notice_susp : (s.notice n).susp = s.susp := rfl
@[simp] theorem notice_swapping : (s.notice n).swapping = s.swapping := rfl
@[simp] theorem notice_swapped : (s.notice n).swapped = s.swapped := rfl
@[simp] theorem notice_tally : (s.notice n).tally = s.tally := rfl
@[simp] theorem notice_launches : (s.notice n).launches = s.launches := rfl
@[simp] theorem notice_coalesce : (s.notice n).coalesce = s.coalesce := rfl
@[simp] theorem notice_hostOut : (s.notice n).hostOut = s.hostOut := rfl
@[simp] theorem notice_hostHeld : (s.notice n).hostHeld = s.hostHeld := rfl
@[simp] theorem notice_sessA : (s.notice n).sessA = s.sessA := rfl
@[simp] theorem notice_sessB : (s.notice n).sessB = s.sessB := rfl
@[simp] theorem notice_psem : (s.notice n).psem = s.psem := rfl
@[simp] theorem notice_auditLog : (s.notice n).auditLog = s.auditLog := rfl
@[simp] theorem notice_auditSeq : (s.notice n).auditSeq = s.auditSeq := rfl
@[simp] theorem notice_auditOvf : (s.notice n).auditOvf = s.auditOvf := rfl
@[simp] theorem notice_device : (s.notice n).device = s.device := rfl
@[simp] theorem notice_routes : (s.notice n).routes = s.routes := rfl
@[simp] theorem notice_linkUp : (s.notice n).linkUp = s.linkUp := rfl
@[simp] theorem notice_cxlUp : (s.notice n).cxlUp = s.cxlUp := rfl
@[simp] theorem notice_imports : (s.notice n).imports = s.imports := rfl
@[simp] theorem notice_rejected : (s.notice n).rejected = s.rejected := rfl
@[simp] theorem notice_fabricOut : (s.notice n).fabricOut = s.fabricOut := rfl
@[simp] theorem notice_peerAcks : (s.notice n).peerAcks = s.peerAcks := rfl
@[simp] theorem notice_cwins : (s.notice n).cwins = s.cwins := rfl
@[simp] theorem notice_ptmo : (s.notice n).ptmo = s.ptmo := rfl
@[simp] theorem notice_throt : (s.notice n).throt = s.throt := rfl
@[simp] theorem notice_tripped : (s.notice n).tripped = s.tripped := rfl
@[simp] theorem notice_fwImage : (s.notice n).fwImage = s.fwImage := rfl
@[simp] theorem notice_measured : (s.notice n).measured = s.measured := rfl
@[simp] theorem notice_mgmtOut : (s.notice n).mgmtOut = s.mgmtOut := rfl
@[simp] theorem notice_agenda : (s.notice n).agenda = s.agenda := rfl
@[simp] theorem notice_deferred : (s.notice n).deferred = s.deferred := rfl
@[simp] theorem notice_act : (s.notice n).act = s.act := rfl
@[simp] theorem notice_asleep : (s.notice n).asleep = s.asleep := rfl
@[simp] theorem notice_fibCtr : (s.notice n).fibCtr = s.fibCtr := rfl
@[simp] theorem notice_opCtr : (s.notice n).opCtr = s.opCtr := rfl
@[simp] theorem notice_keyCtr : (s.notice n).keyCtr = s.keyCtr := rfl
@[simp] theorem notice_freeCtr : (s.notice n).freeCtr = s.freeCtr := rfl
@[simp] theorem notice_notices : (s.notice n).notices = s.notices ++ [n] := rfl

/-! The slot that has been updated, and the others. -/

@[simp] theorem onSlot_slot : (s.onSlot i).slot j = s.slot j := rfl
@[simp] theorem onSlot_sl : (s.onSlot i).sl = s.slot i := rfl
@[simp] theorem onTurn_sl : (s.onTurn i).sl = s.slot i := rfl
@[simp] theorem onTurn_slot : (s.onTurn i).slot j = s.slot j := rfl
@[simp] theorem onAct_sl : (s.onAct a as).sl = s.sl := rfl
@[simp] theorem onAct_slot : (s.onAct a as).slot j = s.slot j := rfl
@[simp] theorem withWord_slot : (s.withWord wd).slot j = s.slot j := rfl
@[simp] theorem withWord_sl : (s.withWord wd).sl = s.sl := rfl
@[simp] theorem onSlot_twice : (s.onSlot i).onSlot j = s.onSlot j := rfl
@[simp] theorem onSlot_withWord : (s.withWord wd).onSlot i = (s.onSlot i).withWord wd := rfl
@[simp] theorem modSlot_slot : (s.modSlot i f).slot i = f (s.slot i) := by simp [State.slot, State.modSlot]
theorem modSlot_other (h : j ≠ i) : (s.modSlot i f).slot j = s.slot j := by
  have : (i : Nat) ≠ (j : Nat) := fun e => h (Fin.ext e.symm)
  simp [State.slot, State.modSlot, this]
@[simp] theorem modCur_sl : (s.modCur f).sl = f s.sl := by simp [State.sl, State.modCur, State.modSlot]
@[simp] theorem modWorld_wst : (s.modWorld w g).wst w = g (s.wst w) := by simp [State.wst, State.modWorld]

/-! Writes to registers, the pc and FSTAT are updates of the slot that executes. -/

theorem wx_eq : s.wx r x = s.modCur (·.wx r x) := rfl
theorem wc_eq : s.wc r c = s.modCur (·.wc r c) := rfl
theorem wk_eq : s.wk r m = s.modCur (·.wk r m) := rfl
theorem wp_eq : s.wp r b = s.modCur (·.wp r.toNat b) := rfl
theorem wcfr_eq : s.wcfr c = s.modCur (·.wcfr c) := rfl
theorem advance_eq : s.advance = s.modCur fun sl => { sl with pcc := capMoveCursor sl.pcc (sl.pc + 12) } := rfl

/-! ### Registers of a slot -/
@[simp] theorem Slot.wx_status : (sl.wx r x).status = sl.status := by unfold Slot.wx; split <;> rfl
@[simp] theorem Slot.wx_fib : (sl.wx r x).fib = sl.fib := by unfold Slot.wx; split <;> rfl
@[simp] theorem Slot.wx_c : (sl.wx r x).c = sl.c := by unfold Slot.wx; split <;> rfl
@[simp] theorem Slot.wx_pcc : (sl.wx r x).pcc = sl.pcc := by unfold Slot.wx; split <;> rfl
@[simp] theorem Slot.wx_v : (sl.wx r x).v = sl.v := by unfold Slot.wx; split <;> rfl
@[simp] theorem Slot.wx_k : (sl.wx r x).k = sl.k := by unfold Slot.wx; split <;> rfl
@[simp] theorem Slot.wx_p : (sl.wx r x).p = sl.p := by unfold Slot.wx; split <;> rfl
@[simp] theorem Slot.wx_behind : (sl.wx r x).behind = sl.behind := by unfold Slot.wx; split <;> rfl
@[simp] theorem Slot.wx_fmode : (sl.wx r x).fmode = sl.fmode := by unfold Slot.wx; split <;> rfl
@[simp] theorem Slot.wx_fstat : (sl.wx r x).fstat = sl.fstat := by unfold Slot.wx; split <;> rfl
@[simp] theorem Slot.wx_world : (sl.wx r x).world = sl.world := by unfold Slot.wx; split <;> rfl
@[simp] theorem Slot.wx_cmwin : (sl.wx r x).cmwin = sl.cmwin := by unfold Slot.wx; split <;> rfl
@[simp] theorem Slot.wx_smwin : (sl.wx r x).smwin = sl.smwin := by unfold Slot.wx; split <;> rfl
@[simp] theorem Slot.wx_savecap : (sl.wx r x).savecap = sl.savecap := by unfold Slot.wx; split <;> rfl
@[simp] theorem Slot.wx_tjn : (sl.wx r x).tjn = sl.tjn := by unfold Slot.wx; split <;> rfl
@[simp] theorem Slot.wx_tslice : (sl.wx r x).tslice = sl.tslice := by unfold Slot.wx; split <;> rfl
@[simp] theorem Slot.wx_wlim : (sl.wx r x).wlim = sl.wlim := by unfold Slot.wx; split <;> rfl
@[simp] theorem Slot.wx_tow : (sl.wx r x).tow = sl.tow := by unfold Slot.wx; split <;> rfl
@[simp] theorem Slot.wx_clk : (sl.wx r x).clk = sl.clk := by unfold Slot.wx; split <;> rfl
@[simp] theorem Slot.wx_isLocal : (sl.wx r x).isLocal = sl.isLocal := by unfold Slot.wx; split <;> rfl
@[simp] theorem Slot.wx_stat : (sl.wx r x).stat = sl.stat := by unfold Slot.wx; split <;> rfl
@[simp] theorem Slot.wx_statCause : (sl.wx r x).statCause = sl.statCause := by unfold Slot.wx; split <;> rfl
@[simp] theorem Slot.wx_entry : (sl.wx r x).entry = sl.entry := by unfold Slot.wx; split <;> rfl
@[simp] theorem Slot.wx_op : (sl.wx r x).op = sl.op := by unfold Slot.wx; split <;> rfl
@[simp] theorem Slot.wx_startRec : (sl.wx r x).startRec = sl.startRec := by unfold Slot.wx; split <;> rfl
@[simp] theorem Slot.wx_fresh : (sl.wx r x).fresh = sl.fresh := by unfold Slot.wx; split <;> rfl
@[simp] theorem Slot.wx_startChecks : (sl.wx r x).startChecks = sl.startChecks := by unfold Slot.wx; split <;> rfl
@[simp] theorem Slot.wx_pending : (sl.wx r x).pending = sl.pending := by unfold Slot.wx; split <;> rfl
@[simp] theorem Slot.wx_restoring : (sl.wx r x).restoring = sl.restoring := by unfold Slot.wx; split <;> rfl
@[simp] theorem Slot.wx_suspAsk : (sl.wx r x).suspAsk = sl.suspAsk := by unfold Slot.wx; split <;> rfl
@[simp] theorem Slot.wx_image : (sl.wx r x).image = sl.image := by unfold Slot.wx; split <;> rfl
@[simp] theorem Slot.wx_pendTrap : (sl.wx r x).pendTrap = sl.pendTrap := by unfold Slot.wx; split <;> rfl
@[simp] theorem Slot.wx_heldMat : (sl.wx r x).heldMat = sl.heldMat := by unfold Slot.wx; split <;> rfl
@[simp] theorem Slot.wx_held : (sl.wx r x).held = sl.held := by unfold Slot.wx; split <;> rfl
@[simp] theorem Slot.wx_begun : (sl.wx r x).begun = sl.begun := by unfold Slot.wx; split <;> rfl
@[simp] theorem Slot.wx_taken : (sl.wx r x).taken = sl.taken := by unfold Slot.wx; split <;> rfl
@[simp] theorem Slot.wx_mons : (sl.wx r x).mons = sl.mons := by unfold Slot.wx; split <;> rfl
@[simp] theorem Slot.wx_parkTmo : (sl.wx r x).parkTmo = sl.parkTmo := by unfold Slot.wx; split <;> rfl
@[simp] theorem Slot.wx_wake : (sl.wx r x).wake = sl.wake := by unfold Slot.wx; split <;> rfl
@[simp] theorem Slot.wx_trapRec : (sl.wx r x).trapRec = sl.trapRec := by unfold Slot.wx; split <;> rfl
@[simp] theorem Slot.wx_trapWord : (sl.wx r x).trapWord = sl.trapWord := by unfold Slot.wx; split <;> rfl
@[simp] theorem Slot.wx_pendSlice : (sl.wx r x).pendSlice = sl.pendSlice := by unfold Slot.wx; split <;> rfl
@[simp] theorem Slot.wx_pendWsec : (sl.wx r x).pendWsec = sl.pendWsec := by unfold Slot.wx; split <;> rfl
@[simp] theorem Slot.wx_ports : (sl.wx r x).ports = sl.ports := by unfold Slot.wx; split <;> rfl
@[simp] theorem Slot.wx_rep : (sl.wx r x).rep = sl.rep := by unfold Slot.wx; split <;> rfl
@[simp] theorem Slot.wx_copies : (sl.wx r x).copies = sl.copies := by unfold Slot.wx; split <;> rfl
@[simp] theorem Slot.wx_dbgHalt : (sl.wx r x).dbgHalt = sl.dbgHalt := by unfold Slot.wx; split <;> rfl
@[simp] theorem Slot.wx_quay : (sl.wx r x).quay = sl.quay := by unfold Slot.wx; split <;> rfl
@[simp] theorem Slot.wx_peer : (sl.wx r x).peer = sl.peer := by unfold Slot.wx; split <;> rfl
@[simp] theorem Slot.wx_peerAsk : (sl.wx r x).peerAsk = sl.peerAsk := by unfold Slot.wx; split <;> rfl
@[simp] theorem Slot.wc_status : (sl.wc r c).status = sl.status := by unfold Slot.wc; split <;> rfl
@[simp] theorem Slot.wc_fib : (sl.wc r c).fib = sl.fib := by unfold Slot.wc; split <;> rfl
@[simp] theorem Slot.wc_x : (sl.wc r c).x = sl.x := by unfold Slot.wc; split <;> rfl
@[simp] theorem Slot.wc_pcc : (sl.wc r c).pcc = sl.pcc := by unfold Slot.wc; split <;> rfl
@[simp] theorem Slot.wc_v : (sl.wc r c).v = sl.v := by unfold Slot.wc; split <;> rfl
@[simp] theorem Slot.wc_k : (sl.wc r c).k = sl.k := by unfold Slot.wc; split <;> rfl
@[simp] theorem Slot.wc_p : (sl.wc r c).p = sl.p := by unfold Slot.wc; split <;> rfl
@[simp] theorem Slot.wc_behind : (sl.wc r c).behind = sl.behind := by unfold Slot.wc; split <;> rfl
@[simp] theorem Slot.wc_fmode : (sl.wc r c).fmode = sl.fmode := by unfold Slot.wc; split <;> rfl
@[simp] theorem Slot.wc_fstat : (sl.wc r c).fstat = sl.fstat := by unfold Slot.wc; split <;> rfl
@[simp] theorem Slot.wc_world : (sl.wc r c).world = sl.world := by unfold Slot.wc; split <;> rfl
@[simp] theorem Slot.wc_cmwin : (sl.wc r c).cmwin = sl.cmwin := by unfold Slot.wc; split <;> rfl
@[simp] theorem Slot.wc_smwin : (sl.wc r c).smwin = sl.smwin := by unfold Slot.wc; split <;> rfl
@[simp] theorem Slot.wc_savecap : (sl.wc r c).savecap = sl.savecap := by unfold Slot.wc; split <;> rfl
@[simp] theorem Slot.wc_tjn : (sl.wc r c).tjn = sl.tjn := by unfold Slot.wc; split <;> rfl
@[simp] theorem Slot.wc_tslice : (sl.wc r c).tslice = sl.tslice := by unfold Slot.wc; split <;> rfl
@[simp] theorem Slot.wc_wlim : (sl.wc r c).wlim = sl.wlim := by unfold Slot.wc; split <;> rfl
@[simp] theorem Slot.wc_tow : (sl.wc r c).tow = sl.tow := by unfold Slot.wc; split <;> rfl
@[simp] theorem Slot.wc_clk : (sl.wc r c).clk = sl.clk := by unfold Slot.wc; split <;> rfl
@[simp] theorem Slot.wc_isLocal : (sl.wc r c).isLocal = sl.isLocal := by unfold Slot.wc; split <;> rfl
@[simp] theorem Slot.wc_stat : (sl.wc r c).stat = sl.stat := by unfold Slot.wc; split <;> rfl
@[simp] theorem Slot.wc_statCause : (sl.wc r c).statCause = sl.statCause := by unfold Slot.wc; split <;> rfl
@[simp] theorem Slot.wc_entry : (sl.wc r c).entry = sl.entry := by unfold Slot.wc; split <;> rfl
@[simp] theorem Slot.wc_op : (sl.wc r c).op = sl.op := by unfold Slot.wc; split <;> rfl
@[simp] theorem Slot.wc_startRec : (sl.wc r c).startRec = sl.startRec := by unfold Slot.wc; split <;> rfl
@[simp] theorem Slot.wc_fresh : (sl.wc r c).fresh = sl.fresh := by unfold Slot.wc; split <;> rfl
@[simp] theorem Slot.wc_startChecks : (sl.wc r c).startChecks = sl.startChecks := by unfold Slot.wc; split <;> rfl
@[simp] theorem Slot.wc_pending : (sl.wc r c).pending = sl.pending := by unfold Slot.wc; split <;> rfl
@[simp] theorem Slot.wc_restoring : (sl.wc r c).restoring = sl.restoring := by unfold Slot.wc; split <;> rfl
@[simp] theorem Slot.wc_suspAsk : (sl.wc r c).suspAsk = sl.suspAsk := by unfold Slot.wc; split <;> rfl
@[simp] theorem Slot.wc_image : (sl.wc r c).image = sl.image := by unfold Slot.wc; split <;> rfl
@[simp] theorem Slot.wc_pendTrap : (sl.wc r c).pendTrap = sl.pendTrap := by unfold Slot.wc; split <;> rfl
@[simp] theorem Slot.wc_heldMat : (sl.wc r c).heldMat = sl.heldMat := by unfold Slot.wc; split <;> rfl
@[simp] theorem Slot.wc_held : (sl.wc r c).held = sl.held := by unfold Slot.wc; split <;> rfl
@[simp] theorem Slot.wc_begun : (sl.wc r c).begun = sl.begun := by unfold Slot.wc; split <;> rfl
@[simp] theorem Slot.wc_taken : (sl.wc r c).taken = sl.taken := by unfold Slot.wc; split <;> rfl
@[simp] theorem Slot.wc_mons : (sl.wc r c).mons = sl.mons := by unfold Slot.wc; split <;> rfl
@[simp] theorem Slot.wc_parkTmo : (sl.wc r c).parkTmo = sl.parkTmo := by unfold Slot.wc; split <;> rfl
@[simp] theorem Slot.wc_wake : (sl.wc r c).wake = sl.wake := by unfold Slot.wc; split <;> rfl
@[simp] theorem Slot.wc_trapRec : (sl.wc r c).trapRec = sl.trapRec := by unfold Slot.wc; split <;> rfl
@[simp] theorem Slot.wc_trapWord : (sl.wc r c).trapWord = sl.trapWord := by unfold Slot.wc; split <;> rfl
@[simp] theorem Slot.wc_pendSlice : (sl.wc r c).pendSlice = sl.pendSlice := by unfold Slot.wc; split <;> rfl
@[simp] theorem Slot.wc_pendWsec : (sl.wc r c).pendWsec = sl.pendWsec := by unfold Slot.wc; split <;> rfl
@[simp] theorem Slot.wc_ports : (sl.wc r c).ports = sl.ports := by unfold Slot.wc; split <;> rfl
@[simp] theorem Slot.wc_rep : (sl.wc r c).rep = sl.rep := by unfold Slot.wc; split <;> rfl
@[simp] theorem Slot.wc_copies : (sl.wc r c).copies = sl.copies := by unfold Slot.wc; split <;> rfl
@[simp] theorem Slot.wc_dbgHalt : (sl.wc r c).dbgHalt = sl.dbgHalt := by unfold Slot.wc; split <;> rfl
@[simp] theorem Slot.wc_quay : (sl.wc r c).quay = sl.quay := by unfold Slot.wc; split <;> rfl
@[simp] theorem Slot.wc_peer : (sl.wc r c).peer = sl.peer := by unfold Slot.wc; split <;> rfl
@[simp] theorem Slot.wc_peerAsk : (sl.wc r c).peerAsk = sl.peerAsk := by unfold Slot.wc; split <;> rfl
@[simp] theorem Slot.wk_status : (sl.wk r m).status = sl.status := by unfold Slot.wk; split <;> rfl
@[simp] theorem Slot.wk_fib : (sl.wk r m).fib = sl.fib := by unfold Slot.wk; split <;> rfl
@[simp] theorem Slot.wk_x : (sl.wk r m).x = sl.x := by unfold Slot.wk; split <;> rfl
@[simp] theorem Slot.wk_c : (sl.wk r m).c = sl.c := by unfold Slot.wk; split <;> rfl
@[simp] theorem Slot.wk_pcc : (sl.wk r m).pcc = sl.pcc := by unfold Slot.wk; split <;> rfl
@[simp] theorem Slot.wk_v : (sl.wk r m).v = sl.v := by unfold Slot.wk; split <;> rfl
@[simp] theorem Slot.wk_p : (sl.wk r m).p = sl.p := by unfold Slot.wk; split <;> rfl
@[simp] theorem Slot.wk_behind : (sl.wk r m).behind = sl.behind := by unfold Slot.wk; split <;> rfl
@[simp] theorem Slot.wk_fmode : (sl.wk r m).fmode = sl.fmode := by unfold Slot.wk; split <;> rfl
@[simp] theorem Slot.wk_fstat : (sl.wk r m).fstat = sl.fstat := by unfold Slot.wk; split <;> rfl
@[simp] theorem Slot.wk_world : (sl.wk r m).world = sl.world := by unfold Slot.wk; split <;> rfl
@[simp] theorem Slot.wk_cmwin : (sl.wk r m).cmwin = sl.cmwin := by unfold Slot.wk; split <;> rfl
@[simp] theorem Slot.wk_smwin : (sl.wk r m).smwin = sl.smwin := by unfold Slot.wk; split <;> rfl
@[simp] theorem Slot.wk_savecap : (sl.wk r m).savecap = sl.savecap := by unfold Slot.wk; split <;> rfl
@[simp] theorem Slot.wk_tjn : (sl.wk r m).tjn = sl.tjn := by unfold Slot.wk; split <;> rfl
@[simp] theorem Slot.wk_tslice : (sl.wk r m).tslice = sl.tslice := by unfold Slot.wk; split <;> rfl
@[simp] theorem Slot.wk_wlim : (sl.wk r m).wlim = sl.wlim := by unfold Slot.wk; split <;> rfl
@[simp] theorem Slot.wk_tow : (sl.wk r m).tow = sl.tow := by unfold Slot.wk; split <;> rfl
@[simp] theorem Slot.wk_clk : (sl.wk r m).clk = sl.clk := by unfold Slot.wk; split <;> rfl
@[simp] theorem Slot.wk_isLocal : (sl.wk r m).isLocal = sl.isLocal := by unfold Slot.wk; split <;> rfl
@[simp] theorem Slot.wk_stat : (sl.wk r m).stat = sl.stat := by unfold Slot.wk; split <;> rfl
@[simp] theorem Slot.wk_statCause : (sl.wk r m).statCause = sl.statCause := by unfold Slot.wk; split <;> rfl
@[simp] theorem Slot.wk_entry : (sl.wk r m).entry = sl.entry := by unfold Slot.wk; split <;> rfl
@[simp] theorem Slot.wk_op : (sl.wk r m).op = sl.op := by unfold Slot.wk; split <;> rfl
@[simp] theorem Slot.wk_startRec : (sl.wk r m).startRec = sl.startRec := by unfold Slot.wk; split <;> rfl
@[simp] theorem Slot.wk_fresh : (sl.wk r m).fresh = sl.fresh := by unfold Slot.wk; split <;> rfl
@[simp] theorem Slot.wk_startChecks : (sl.wk r m).startChecks = sl.startChecks := by unfold Slot.wk; split <;> rfl
@[simp] theorem Slot.wk_pending : (sl.wk r m).pending = sl.pending := by unfold Slot.wk; split <;> rfl
@[simp] theorem Slot.wk_restoring : (sl.wk r m).restoring = sl.restoring := by unfold Slot.wk; split <;> rfl
@[simp] theorem Slot.wk_suspAsk : (sl.wk r m).suspAsk = sl.suspAsk := by unfold Slot.wk; split <;> rfl
@[simp] theorem Slot.wk_image : (sl.wk r m).image = sl.image := by unfold Slot.wk; split <;> rfl
@[simp] theorem Slot.wk_pendTrap : (sl.wk r m).pendTrap = sl.pendTrap := by unfold Slot.wk; split <;> rfl
@[simp] theorem Slot.wk_heldMat : (sl.wk r m).heldMat = sl.heldMat := by unfold Slot.wk; split <;> rfl
@[simp] theorem Slot.wk_held : (sl.wk r m).held = sl.held := by unfold Slot.wk; split <;> rfl
@[simp] theorem Slot.wk_begun : (sl.wk r m).begun = sl.begun := by unfold Slot.wk; split <;> rfl
@[simp] theorem Slot.wk_taken : (sl.wk r m).taken = sl.taken := by unfold Slot.wk; split <;> rfl
@[simp] theorem Slot.wk_mons : (sl.wk r m).mons = sl.mons := by unfold Slot.wk; split <;> rfl
@[simp] theorem Slot.wk_parkTmo : (sl.wk r m).parkTmo = sl.parkTmo := by unfold Slot.wk; split <;> rfl
@[simp] theorem Slot.wk_wake : (sl.wk r m).wake = sl.wake := by unfold Slot.wk; split <;> rfl
@[simp] theorem Slot.wk_trapRec : (sl.wk r m).trapRec = sl.trapRec := by unfold Slot.wk; split <;> rfl
@[simp] theorem Slot.wk_trapWord : (sl.wk r m).trapWord = sl.trapWord := by unfold Slot.wk; split <;> rfl
@[simp] theorem Slot.wk_pendSlice : (sl.wk r m).pendSlice = sl.pendSlice := by unfold Slot.wk; split <;> rfl
@[simp] theorem Slot.wk_pendWsec : (sl.wk r m).pendWsec = sl.pendWsec := by unfold Slot.wk; split <;> rfl
@[simp] theorem Slot.wk_ports : (sl.wk r m).ports = sl.ports := by unfold Slot.wk; split <;> rfl
@[simp] theorem Slot.wk_rep : (sl.wk r m).rep = sl.rep := by unfold Slot.wk; split <;> rfl
@[simp] theorem Slot.wk_copies : (sl.wk r m).copies = sl.copies := by unfold Slot.wk; split <;> rfl
@[simp] theorem Slot.wk_dbgHalt : (sl.wk r m).dbgHalt = sl.dbgHalt := by unfold Slot.wk; split <;> rfl
@[simp] theorem Slot.wk_quay : (sl.wk r m).quay = sl.quay := by unfold Slot.wk; split <;> rfl
@[simp] theorem Slot.wk_peer : (sl.wk r m).peer = sl.peer := by unfold Slot.wk; split <;> rfl
@[simp] theorem Slot.wk_peerAsk : (sl.wk r m).peerAsk = sl.peerAsk := by unfold Slot.wk; split <;> rfl
@[simp] theorem Slot.wp_status : (sl.wp k b).status = sl.status := by unfold Slot.wp; split <;> rfl
@[simp] theorem Slot.wp_fib : (sl.wp k b).fib = sl.fib := by unfold Slot.wp; split <;> rfl
@[simp] theorem Slot.wp_x : (sl.wp k b).x = sl.x := by unfold Slot.wp; split <;> rfl
@[simp] theorem Slot.wp_c : (sl.wp k b).c = sl.c := by unfold Slot.wp; split <;> rfl
@[simp] theorem Slot.wp_pcc : (sl.wp k b).pcc = sl.pcc := by unfold Slot.wp; split <;> rfl
@[simp] theorem Slot.wp_v : (sl.wp k b).v = sl.v := by unfold Slot.wp; split <;> rfl
@[simp] theorem Slot.wp_k : (sl.wp k b).k = sl.k := by unfold Slot.wp; split <;> rfl
@[simp] theorem Slot.wp_behind : (sl.wp k b).behind = sl.behind := by unfold Slot.wp; split <;> rfl
@[simp] theorem Slot.wp_fmode : (sl.wp k b).fmode = sl.fmode := by unfold Slot.wp; split <;> rfl
@[simp] theorem Slot.wp_fstat : (sl.wp k b).fstat = sl.fstat := by unfold Slot.wp; split <;> rfl
@[simp] theorem Slot.wp_world : (sl.wp k b).world = sl.world := by unfold Slot.wp; split <;> rfl
@[simp] theorem Slot.wp_cmwin : (sl.wp k b).cmwin = sl.cmwin := by unfold Slot.wp; split <;> rfl
@[simp] theorem Slot.wp_smwin : (sl.wp k b).smwin = sl.smwin := by unfold Slot.wp; split <;> rfl
@[simp] theorem Slot.wp_savecap : (sl.wp k b).savecap = sl.savecap := by unfold Slot.wp; split <;> rfl
@[simp] theorem Slot.wp_tjn : (sl.wp k b).tjn = sl.tjn := by unfold Slot.wp; split <;> rfl
@[simp] theorem Slot.wp_tslice : (sl.wp k b).tslice = sl.tslice := by unfold Slot.wp; split <;> rfl
@[simp] theorem Slot.wp_wlim : (sl.wp k b).wlim = sl.wlim := by unfold Slot.wp; split <;> rfl
@[simp] theorem Slot.wp_tow : (sl.wp k b).tow = sl.tow := by unfold Slot.wp; split <;> rfl
@[simp] theorem Slot.wp_clk : (sl.wp k b).clk = sl.clk := by unfold Slot.wp; split <;> rfl
@[simp] theorem Slot.wp_isLocal : (sl.wp k b).isLocal = sl.isLocal := by unfold Slot.wp; split <;> rfl
@[simp] theorem Slot.wp_stat : (sl.wp k b).stat = sl.stat := by unfold Slot.wp; split <;> rfl
@[simp] theorem Slot.wp_statCause : (sl.wp k b).statCause = sl.statCause := by unfold Slot.wp; split <;> rfl
@[simp] theorem Slot.wp_entry : (sl.wp k b).entry = sl.entry := by unfold Slot.wp; split <;> rfl
@[simp] theorem Slot.wp_op : (sl.wp k b).op = sl.op := by unfold Slot.wp; split <;> rfl
@[simp] theorem Slot.wp_startRec : (sl.wp k b).startRec = sl.startRec := by unfold Slot.wp; split <;> rfl
@[simp] theorem Slot.wp_fresh : (sl.wp k b).fresh = sl.fresh := by unfold Slot.wp; split <;> rfl
@[simp] theorem Slot.wp_startChecks : (sl.wp k b).startChecks = sl.startChecks := by unfold Slot.wp; split <;> rfl
@[simp] theorem Slot.wp_pending : (sl.wp k b).pending = sl.pending := by unfold Slot.wp; split <;> rfl
@[simp] theorem Slot.wp_restoring : (sl.wp k b).restoring = sl.restoring := by unfold Slot.wp; split <;> rfl
@[simp] theorem Slot.wp_suspAsk : (sl.wp k b).suspAsk = sl.suspAsk := by unfold Slot.wp; split <;> rfl
@[simp] theorem Slot.wp_image : (sl.wp k b).image = sl.image := by unfold Slot.wp; split <;> rfl
@[simp] theorem Slot.wp_pendTrap : (sl.wp k b).pendTrap = sl.pendTrap := by unfold Slot.wp; split <;> rfl
@[simp] theorem Slot.wp_heldMat : (sl.wp k b).heldMat = sl.heldMat := by unfold Slot.wp; split <;> rfl
@[simp] theorem Slot.wp_held : (sl.wp k b).held = sl.held := by unfold Slot.wp; split <;> rfl
@[simp] theorem Slot.wp_begun : (sl.wp k b).begun = sl.begun := by unfold Slot.wp; split <;> rfl
@[simp] theorem Slot.wp_taken : (sl.wp k b).taken = sl.taken := by unfold Slot.wp; split <;> rfl
@[simp] theorem Slot.wp_mons : (sl.wp k b).mons = sl.mons := by unfold Slot.wp; split <;> rfl
@[simp] theorem Slot.wp_parkTmo : (sl.wp k b).parkTmo = sl.parkTmo := by unfold Slot.wp; split <;> rfl
@[simp] theorem Slot.wp_wake : (sl.wp k b).wake = sl.wake := by unfold Slot.wp; split <;> rfl
@[simp] theorem Slot.wp_trapRec : (sl.wp k b).trapRec = sl.trapRec := by unfold Slot.wp; split <;> rfl
@[simp] theorem Slot.wp_trapWord : (sl.wp k b).trapWord = sl.trapWord := by unfold Slot.wp; split <;> rfl
@[simp] theorem Slot.wp_pendSlice : (sl.wp k b).pendSlice = sl.pendSlice := by unfold Slot.wp; split <;> rfl
@[simp] theorem Slot.wp_pendWsec : (sl.wp k b).pendWsec = sl.pendWsec := by unfold Slot.wp; split <;> rfl
@[simp] theorem Slot.wp_ports : (sl.wp k b).ports = sl.ports := by unfold Slot.wp; split <;> rfl
@[simp] theorem Slot.wp_rep : (sl.wp k b).rep = sl.rep := by unfold Slot.wp; split <;> rfl
@[simp] theorem Slot.wp_copies : (sl.wp k b).copies = sl.copies := by unfold Slot.wp; split <;> rfl
@[simp] theorem Slot.wp_dbgHalt : (sl.wp k b).dbgHalt = sl.dbgHalt := by unfold Slot.wp; split <;> rfl
@[simp] theorem Slot.wp_quay : (sl.wp k b).quay = sl.quay := by unfold Slot.wp; split <;> rfl
@[simp] theorem Slot.wp_peer : (sl.wp k b).peer = sl.peer := by unfold Slot.wp; split <;> rfl
@[simp] theorem Slot.wp_peerAsk : (sl.wp k b).peerAsk = sl.peerAsk := by unfold Slot.wp; split <;> rfl
@[simp] theorem Slot.wcfr_status : (sl.wcfr c).status = sl.status := rfl
@[simp] theorem Slot.wcfr_fib : (sl.wcfr c).fib = sl.fib := rfl
@[simp] theorem Slot.wcfr_x : (sl.wcfr c).x = sl.x := rfl
@[simp] theorem Slot.wcfr_pcc : (sl.wcfr c).pcc = sl.pcc := rfl
@[simp] theorem Slot.wcfr_v : (sl.wcfr c).v = sl.v := rfl
@[simp] theorem Slot.wcfr_k : (sl.wcfr c).k = sl.k := rfl
@[simp] theorem Slot.wcfr_p : (sl.wcfr c).p = sl.p := rfl
@[simp] theorem Slot.wcfr_behind : (sl.wcfr c).behind = sl.behind := rfl
@[simp] theorem Slot.wcfr_fmode : (sl.wcfr c).fmode = sl.fmode := rfl
@[simp] theorem Slot.wcfr_fstat : (sl.wcfr c).fstat = sl.fstat := rfl
@[simp] theorem Slot.wcfr_world : (sl.wcfr c).world = sl.world := rfl
@[simp] theorem Slot.wcfr_cmwin : (sl.wcfr c).cmwin = sl.cmwin := rfl
@[simp] theorem Slot.wcfr_smwin : (sl.wcfr c).smwin = sl.smwin := rfl
@[simp] theorem Slot.wcfr_savecap : (sl.wcfr c).savecap = sl.savecap := rfl
@[simp] theorem Slot.wcfr_tjn : (sl.wcfr c).tjn = sl.tjn := rfl
@[simp] theorem Slot.wcfr_tslice : (sl.wcfr c).tslice = sl.tslice := rfl
@[simp] theorem Slot.wcfr_wlim : (sl.wcfr c).wlim = sl.wlim := rfl
@[simp] theorem Slot.wcfr_tow : (sl.wcfr c).tow = sl.tow := rfl
@[simp] theorem Slot.wcfr_clk : (sl.wcfr c).clk = sl.clk := rfl
@[simp] theorem Slot.wcfr_isLocal : (sl.wcfr c).isLocal = sl.isLocal := rfl
@[simp] theorem Slot.wcfr_stat : (sl.wcfr c).stat = sl.stat := rfl
@[simp] theorem Slot.wcfr_statCause : (sl.wcfr c).statCause = sl.statCause := rfl
@[simp] theorem Slot.wcfr_entry : (sl.wcfr c).entry = sl.entry := rfl
@[simp] theorem Slot.wcfr_op : (sl.wcfr c).op = sl.op := rfl
@[simp] theorem Slot.wcfr_startRec : (sl.wcfr c).startRec = sl.startRec := rfl
@[simp] theorem Slot.wcfr_fresh : (sl.wcfr c).fresh = sl.fresh := rfl
@[simp] theorem Slot.wcfr_startChecks : (sl.wcfr c).startChecks = sl.startChecks := rfl
@[simp] theorem Slot.wcfr_pending : (sl.wcfr c).pending = sl.pending := rfl
@[simp] theorem Slot.wcfr_restoring : (sl.wcfr c).restoring = sl.restoring := rfl
@[simp] theorem Slot.wcfr_suspAsk : (sl.wcfr c).suspAsk = sl.suspAsk := rfl
@[simp] theorem Slot.wcfr_image : (sl.wcfr c).image = sl.image := rfl
@[simp] theorem Slot.wcfr_pendTrap : (sl.wcfr c).pendTrap = sl.pendTrap := rfl
@[simp] theorem Slot.wcfr_heldMat : (sl.wcfr c).heldMat = sl.heldMat := rfl
@[simp] theorem Slot.wcfr_held : (sl.wcfr c).held = sl.held := rfl
@[simp] theorem Slot.wcfr_begun : (sl.wcfr c).begun = sl.begun := rfl
@[simp] theorem Slot.wcfr_taken : (sl.wcfr c).taken = sl.taken := rfl
@[simp] theorem Slot.wcfr_mons : (sl.wcfr c).mons = sl.mons := rfl
@[simp] theorem Slot.wcfr_parkTmo : (sl.wcfr c).parkTmo = sl.parkTmo := rfl
@[simp] theorem Slot.wcfr_wake : (sl.wcfr c).wake = sl.wake := rfl
@[simp] theorem Slot.wcfr_trapRec : (sl.wcfr c).trapRec = sl.trapRec := rfl
@[simp] theorem Slot.wcfr_trapWord : (sl.wcfr c).trapWord = sl.trapWord := rfl
@[simp] theorem Slot.wcfr_pendSlice : (sl.wcfr c).pendSlice = sl.pendSlice := rfl
@[simp] theorem Slot.wcfr_pendWsec : (sl.wcfr c).pendWsec = sl.pendWsec := rfl
@[simp] theorem Slot.wcfr_ports : (sl.wcfr c).ports = sl.ports := rfl
@[simp] theorem Slot.wcfr_rep : (sl.wcfr c).rep = sl.rep := rfl
@[simp] theorem Slot.wcfr_copies : (sl.wcfr c).copies = sl.copies := rfl
@[simp] theorem Slot.wcfr_dbgHalt : (sl.wcfr c).dbgHalt = sl.dbgHalt := rfl
@[simp] theorem Slot.wcfr_quay : (sl.wcfr c).quay = sl.quay := rfl
@[simp] theorem Slot.wcfr_peer : (sl.wcfr c).peer = sl.peer := rfl
@[simp] theorem Slot.wcfr_peerAsk : (sl.wcfr c).peerAsk = sl.peerAsk := rfl

/-! ### Queues, semaphores and retirement: all that each can change -/
theorem leaveQueue_eq (v : Who) : s.leaveQueue v = { s with waiters := (s.leaveQueue v).waiters, agenda := (s.leaveQueue v).agenda } := by
  unfold State.leaveQueue; split <;> rfl
theorem joinQueue_eq (v : Waiter) : s.joinQueue v = { s with waiters := (s.joinQueue v).waiters, agenda := (s.joinQueue v).agenda } := by
  unfold State.joinQueue; split
  · rfl
  · dsimp only; rw [leaveQueue_eq]
theorem peerEnd_eq : s.peerEnd = { s with slots := (s.peerEnd).slots } := by
  unfold State.peerEnd; split <;> rfl
theorem goHome_eq : s.goHome i = { s with slots := (s.goHome i).slots, agenda := (s.goHome i).agenda, deferred := (s.goHome i).deferred } := by
  unfold State.goHome; split
  · rfl
  · dsimp only; split <;> rfl
theorem semChanged_eq : s.semChanged k = { s with agenda := (s.semChanged k).agenda } := by
  unfold State.semChanged; split <;> rfl
theorem semSet_eq (q : BitVec 8) : s.semSet q k = { s with sem := (s.semSet q k).sem, agenda := (s.semSet q k).agenda } := by
  unfold State.semSet; rw [semChanged_eq]
theorem rouse_eq : s.rouse i = { s with slots := (s.rouse i).slots, agenda := (s.rouse i).agenda } := by
  unfold State.rouse
  cases (s.slot i).status <;> cases (s.slot i).rep <;> dsimp only <;> (repeat' split) <;> rfl
theorem retired_eq : s.retired = { s with slots := (s.retired).slots, waiters := (s.retired).waiters, agenda := (s.retired).agenda } := by
  unfold State.retired
  rw [peerEnd_eq, leaveQueue_eq]
  rfl
theorem wakeSup_eq : s.wakeSup = { s with slots := (s.wakeSup).slots, yielding := (s.wakeSup).yielding } := by
  rfl
theorem enqueueRec_eq (p : Option SlotId) (q : TrapRec) : s.enqueueRec p q = { s with slots := (s.enqueueRec p q).slots, yielding := (s.enqueueRec p q).yielding, trapQ := (s.enqueueRec p q).trapQ, hold := (s.enqueueRec p q).hold, lost := (s.enqueueRec p q).lost } := by
  unfold State.enqueueRec; split
  · rfl
  · split <;> rfl

end

end Sys2Proof.Machine
end

