-- ==== Sys2Proof/Laws/Ends.lean ====
section
/-!
SUPPORT. How instructions end: what leaving a queue, a signal, a trap and a wait can change, once for every meaning. Each
law with the ending `_eq` names every field that its operation can change.
-/

namespace Sys2Proof.Machine

/-- Equal register files are the same registers. -/
theorem SameRegs.of_files {a b : Slot} (x : a.x = b.x) (c : a.c = b.c) (k : a.k = b.k) (v : a.v = b.v) (p : a.p = b.p) :
    SameRegs a b :=
  ⟨fun r => by simp only [Slot.rx, x], fun r => by simp only [Slot.rc, c], fun r => by simp only [Slot.rk, k],
    fun r => by simp only [Slot.rv, v], fun r => by simp only [Slot.rp, p]⟩
theorem SameRegs.refl (a : Slot) : SameRegs a a := .of_files rfl rfl rfl rfl rfl
theorem SameRegs.trans {a b c : Slot} (h : SameRegs a b) (k : SameRegs b c) : SameRegs a c :=
  ⟨fun r => (h.x r).trans (k.x r), fun r => (h.c r).trans (k.c r), fun r => (h.k r).trans (k.k r),
    fun r => (h.v r).trans (k.v r), fun r => (h.p r).trans (k.p r)⟩
theorem SameMemory.of_cells {s t : State} (m : t.mem = s.mem) (g : t.tags = s.tags) (f : t.full = s.full) : SameMemory s t :=
  ⟨fun a => by simp only [State.byte, m], fun a => by simp only [State.tagAt, g], fun a => by simp only [State.fullAt, f]⟩

/-! ### The pc (R28) -/

@[simp] theorem capCursor_capWithCursor (c : Cap) (a : Word) : capCursor (capWithCursor c a) = a := by
  apply BitVec.eq_of_toNat_eq
  simp only [capCursor, capWithCursor, BitVec.extractLsb'_toNat, BitVec.toNat_append, Nat.shiftRight_zero,
    Nat.shiftLeft_eq]
  rw [Nat.or_mod_two_pow, Nat.mul_mod_left, Nat.zero_or, Nat.mod_eq_of_lt a.isLt]
@[simp] theorem capCursor_capMoveCursor (c : Cap) (a : Word) : capCursor (capMoveCursor c a) = a := by
  unfold capMoveCursor
  split
  · exact capCursor_capWithCursor c a
  · exact capCursor_capWithCursor c a

/-! ### Leaving queues, and retiring -/

@[simp] theorem leaveQueue_cur (s : State) (w : Who) : (s.leaveQueue w).cur = s.cur := by rw [leaveQueue_eq]
@[simp] theorem leaveQueue_sl (s : State) (w : Who) : (s.leaveQueue w).sl = s.sl := by rw [leaveQueue_eq]; rfl
@[simp] theorem leaveQueue_slot (s : State) (w : Who) (i : SlotId) : (s.leaveQueue w).slot i = s.slot i := by
  rw [leaveQueue_eq]; rfl

/-- What using up the answers of peers leaves in the slot. -/
@[simp] theorem peerEnd_sl (s : State) :
    s.peerEnd.sl = if s.sl.peer.isEmpty then s.sl else { s.sl with peer := s.sl.peer.filter (·.eng) } := by
  unfold State.peerEnd
  split <;> simp
@[simp] theorem peerEnd_cur (s : State) : s.peerEnd.cur = s.cur := by rw [peerEnd_eq]

/-- What an instruction that retires leaves in its slot. -/
theorem retired_sl (s : State) : s.retired.sl =
    { (if s.sl.peer.isEmpty then s.sl else { s.sl with peer := s.sl.peer.filter (·.eng) }) with
      begun := false, held := none, taken := none, fresh := false, startChecks := false } := by
  unfold State.retired
  rw [modCur_sl, peerEnd_sl, leaveQueue_sl]
@[simp] theorem retired_cur (s : State) : s.retired.cur = s.cur := by rw [retired_eq]
theorem retired_regs (s : State) : SameRegs s.retired.sl s.sl := by
  rw [retired_sl]
  split <;> exact .of_files rfl rfl rfl rfl rfl
/-- The pc after an instruction that does not set it (R28). -/
theorem retired_advance_pc (s : State) : s.retired.advance.sl.pc = s.sl.pc + 12 := by
  rw [advance_eq, modCur_sl, retired_sl]
  split <;> exact capCursor_capMoveCursor _ _

/-! ### What ends an instruction changes only some fields -/

/-- `t` is `s` but for the slots, the semaphores, the queues of waiters and of things to do, and the exception registers. -/
def OnlyEnds (s t : State) : Prop :=
  t = { s with slots := t.slots, sem := t.sem, waiters := t.waiters, agenda := t.agenda, deferred := t.deferred,
               yielding := t.yielding, trapQ := t.trapQ, hold := t.hold, lost := t.lost, frec := t.frec,
               supHalted := t.supHalted, notices := t.notices, errSeen := t.errSeen, heldSigs := t.heldSigs }

theorem OnlyEnds.refl (s : State) : OnlyEnds s s := rfl
theorem OnlyEnds.trans {s t u : State} (h : OnlyEnds s t) (k : OnlyEnds t u) : OnlyEnds s u :=
  Eq.trans k (congrArg (fun v : State =>
    { v with slots := u.slots, sem := u.sem, waiters := u.waiters, agenda := u.agenda, deferred := u.deferred,
             yielding := u.yielding, trapQ := u.trapQ, hold := u.hold, lost := u.lost, frec := u.frec,
             supHalted := u.supHalted, notices := u.notices, errSeen := u.errSeen, heldSigs := u.heldSigs }) h)
theorem OnlyEnds.same {s t : State} (h : OnlyEnds s t) : SameMemory s t := by
  rw [h]; exact .of_cells rfl rfl rfl
theorem OnlyEnds.wf {s t : State} (h : OnlyEnds s t) (k : Memory.wf s) : Memory.wf t := by
  rw [h]; exact k
theorem OnlyEnds.units {s t : State} (h : OnlyEnds s t) : SameUnits s t := by
  rw [h]; exact ⟨rfl, rfl, rfl, rfl, rfl, rfl, rfl, rfl, rfl⟩

theorem leaveQueue_only (s : State) (w : Who) : OnlyEnds s (s.leaveQueue w) := by rw [leaveQueue_eq]; rfl
theorem joinQueue_only (s : State) (w : Waiter) : OnlyEnds s (s.joinQueue w) := by rw [joinQueue_eq]; rfl
theorem peerEnd_only (s : State) : OnlyEnds s s.peerEnd := by rw [peerEnd_eq]; rfl
theorem goHome_only (s : State) (i : SlotId) : OnlyEnds s (s.goHome i) := by rw [goHome_eq]; rfl
theorem semSet_only (s : State) (m : BitVec 8) (k : Nat) : OnlyEnds s (s.semSet m k) := by rw [semSet_eq]; rfl
theorem modSlot_only (s : State) (i : SlotId) (f : Slot → Slot) : OnlyEnds s (s.modSlot i f) := rfl
theorem modCur_only (s : State) (f : Slot → Slot) : OnlyEnds s (s.modCur f) := rfl
theorem notice_only (s : State) (n : Notice) : OnlyEnds s (s.notice n) := rfl
theorem retired_only (s : State) : OnlyEnds s s.retired := by rw [retired_eq]; rfl
theorem advance_only (s : State) : OnlyEnds s s.advance := rfl
theorem enqueueRec_only (s : State) (p : Option SlotId) (r : TrapRec) : OnlyEnds s (s.enqueueRec p r) := by
  rw [enqueueRec_eq]; rfl
theorem sawError_only (s : State) (w : World) (f : Fail) : OnlyEnds s (s.sawError w f) := by
  unfold State.sawError; split <;> rfl
theorem restoreWait_only (s : State) : OnlyEnds s s.restoreWait := by
  unfold State.restoreWait
  split
  · exact .refl _
  · exact (modCur_only _ _).trans (semSet_only _ _ _)
theorem repStop_only (s : State) (i : SlotId) : OnlyEnds s (s.repStop i) := by
  unfold State.repStop
  split
  · exact .refl _
  · refine (leaveQueue_only s (.rep i)).trans (OnlyEnds.trans ?_ (modSlot_only _ _ _))
    split
    · exact semSet_only _ _ _
    · exact .refl _
theorem parkTrap_only (s : State) (i : SlotId) (f : Fail) (pc : Word) (w : BitVec 96) : OnlyEnds s (s.parkTrap i f pc w) :=
  (repStop_only s i).trans ((modSlot_only _ _ _).trans ((leaveQueue_only _ _).trans (enqueueRec_only _ _ _)))
theorem supTrap_only (s : State) (f : Fail) (pc : Word) (w : BitVec 96) : OnlyEnds s (s.supTrap f pc w) := by
  unfold State.supTrap
  refine (leaveQueue_only s (.slot 15)).trans ?_
  dsimp only
  split <;> rfl
/-- Taking a trap changes what ends an instruction, and nothing else. -/
theorem takeTrap_only (s : State) (f : Fail) : OnlyEnds s (s.takeTrap f) := by
  unfold State.takeTrap
  refine ((restoreWait_only s).trans ((goHome_only _ s.cur).trans ((peerEnd_only _).trans (sawError_only _ s.world f)))).trans ?_
  dsimp only
  split
  · exact supTrap_only _ _ _ _
  · exact parkTrap_only _ _ _ _ _
theorem signal_only (s : State) (h : Hdr) : OnlyEnds s (s.signal h) := by
  unfold State.signal
  split
  · exact .refl _
  split
  · rfl
  dsimp only [State.semAdd]
  split
  · exact (semSet_only _ _ _).trans (takeTrap_only _ _)
  · exact semSet_only _ _ _
/-- An instruction that has had its effect, state `t`, changes no more. -/
theorem ended_only (h : Hdr) (t : State) : OnlyEnds t (ended h t) :=
  (retired_only t).trans ((advance_only _).trans (signal_only _ h))
theorem jumped_only (h : Hdr) (t : State) : OnlyEnds t (jumped h t) := (retired_only t).trans (signal_only _ h)
theorem handed_only (t : State) : OnlyEnds t (handed t) := (retired_only t).trans (advance_only _)
theorem stopped_only (st : Stop) (s : State) : OnlyEnds s (stopped st s) := by
  cases st with
  | trap f => exact takeTrap_only s f
  | wait k o n => exact (modCur_only s _).trans (joinQueue_only _ _)
  | spin => exact modCur_only s _

/-! ### Ends keep the registers -/

/-- The registers of every slot are as before. -/
def RegsStay (s t : State) : Prop := t.cur = s.cur ∧ ∀ i, SameRegs (t.slot i) (s.slot i)

theorem RegsStay.trans {s t u : State} (h : RegsStay s t) (k : RegsStay t u) : RegsStay s u :=
  ⟨k.1.trans h.1, fun i => (k.2 i).trans (h.2 i)⟩
theorem RegsStay.sl {s t : State} (h : RegsStay s t) : SameRegs t.sl s.sl := by
  have := h.2 s.cur
  simpa only [State.sl, State.slot, h.1] using this
/-- Where the slots are the same, so are the registers. -/
theorem RegsStay.of_slots {s t : State} (c : t.cur = s.cur) (e : t.slots = s.slots) : RegsStay s t :=
  ⟨c, fun i => by simp only [State.slot, e]; exact .refl _⟩
/-- An update of one slot that keeps its register files. -/
theorem modSlot_stay (s : State) (i : SlotId) (f : Slot → Slot) (h : SameRegs (f (s.slot i)) (s.slot i)) :
    RegsStay s (s.modSlot i f) := by
  refine ⟨rfl, fun j => ?_⟩
  by_cases e : i = j
  · subst e; rw [modSlot_slot]; exact h
  · simp only [State.slot, State.modSlot, Fin.getElem_fin, Vector.getElem_set]
    rw [if_neg fun h => e (Fin.ext h)]
    exact .refl _
theorem modCur_stay (s : State) (f : Slot → Slot) (h : SameRegs (f s.sl) s.sl) : RegsStay s (s.modCur f) :=
  modSlot_stay s s.cur f h
theorem leaveQueue_stay (s : State) (w : Who) : RegsStay s (s.leaveQueue w) := by
  rw [leaveQueue_eq]; exact .of_slots rfl rfl
theorem semSet_stay (s : State) (m : BitVec 8) (k : Nat) : RegsStay s (s.semSet m k) := by
  rw [semSet_eq]; exact .of_slots rfl rfl
theorem peerEnd_stay (s : State) : RegsStay s s.peerEnd := by
  unfold State.peerEnd
  split
  · exact .of_slots rfl rfl
  · exact modCur_stay _ _ (.of_files rfl rfl rfl rfl rfl)
theorem goHome_stay (s : State) (i : SlotId) : RegsStay s (s.goHome i) := by
  unfold State.goHome
  split
  · exact .of_slots rfl rfl
  · refine (modSlot_stay s i (fun sl => { sl with quay := none, status := match sl.status with
                | .away _ => .ready
                | st => st }) (.of_files rfl rfl rfl rfl rfl)).trans ?_
    dsimp only
    split <;> exact .of_slots rfl rfl
theorem retired_stay (s : State) : RegsStay s s.retired :=
  (leaveQueue_stay s (.slot s.cur)).trans ((peerEnd_stay _).trans (modCur_stay _ _ (.of_files rfl rfl rfl rfl rfl)))
theorem advance_stay (s : State) : RegsStay s s.advance := modCur_stay _ _ (.of_files rfl rfl rfl rfl rfl)
theorem enqueueRec_stay (s : State) (p : Option SlotId) (r : TrapRec) : RegsStay s (s.enqueueRec p r) := by
  unfold State.enqueueRec
  split
  · refine RegsStay.trans (t := { s with trapQ := s.trapQ ++ [r], yielding := false }) (.of_slots rfl rfl)
      (modSlot_stay _ 15 _ ?_)
    dsimp only
    split <;> exact .of_files rfl rfl rfl rfl rfl
  · split <;> exact .of_slots rfl rfl
theorem repStop_stay (s : State) (i : SlotId) : RegsStay s (s.repStop i) := by
  unfold State.repStop
  split
  · exact .of_slots rfl rfl
  · refine (leaveQueue_stay s (.rep i)).trans (RegsStay.trans ?_ (modSlot_stay _ _ _ (.of_files rfl rfl rfl rfl rfl)))
    split
    · exact semSet_stay _ _ _
    · exact .of_slots rfl rfl
theorem parkTrap_stay (s : State) (i : SlotId) (f : Fail) (pc : Word) (w : BitVec 96) : RegsStay s (s.parkTrap i f pc w) :=
  (repStop_stay s i).trans ((modSlot_stay _ _ _ (.of_files rfl rfl rfl rfl rfl)).trans
    ((leaveQueue_stay _ _).trans (enqueueRec_stay _ _ _)))
theorem supTrap_stay (s : State) (f : Fail) (pc : Word) (w : BitVec 96) : RegsStay s (s.supTrap f pc w) := by
  refine ((leaveQueue_stay s (.slot 15)).trans (modSlot_stay _ 15 (fun sl =>
    { sl with
      begun := false, held := none, taken := none
      status := match sl.status with
        | .waiting _ _ => .ready
        | st => st }) (.of_files rfl rfl rfl rfl rfl))).trans ?_
  unfold State.supTrap
  dsimp only
  split
  · exact .of_slots rfl rfl
  · exact RegsStay.trans (.of_slots rfl rfl) (modSlot_stay _ _ _ (.of_files rfl rfl rfl rfl rfl))
/-- A trap changes no register: slot 15 goes on at SVEC, another slot is parked. -/
theorem takeTrap_stay (s : State) (f : Fail) : RegsStay s (s.takeTrap f) := by
  have hr : RegsStay s s.restoreWait := by
    unfold State.restoreWait
    split
    · exact .of_slots rfl rfl
    · exact (modCur_stay s _ (.of_files rfl rfl rfl rfl rfl)).trans (semSet_stay _ _ _)
  have hs : ∀ u : State, RegsStay u (u.sawError s.world f) := fun u => by
    unfold State.sawError; split <;> exact .of_slots rfl rfl
  unfold State.takeTrap
  refine (hr.trans ((goHome_stay _ s.cur).trans ((peerEnd_stay _).trans (hs _)))).trans ?_
  dsimp only
  split
  · exact supTrap_stay _ _ _ _
  · exact parkTrap_stay _ _ _ _ _
theorem signal_stay (s : State) (h : Hdr) : RegsStay s (s.signal h) := by
  unfold State.signal
  split
  · exact .of_slots rfl rfl
  split
  · exact .of_slots rfl rfl
  dsimp only [State.semAdd]
  split
  · exact (semSet_stay _ _ _).trans (takeTrap_stay _ _)
  · exact semSet_stay _ _ _
theorem ended_stay (h : Hdr) (t : State) : RegsStay t (ended h t) :=
  (retired_stay t).trans ((advance_stay _).trans (signal_stay _ h))
theorem jumped_stay (h : Hdr) (t : State) : RegsStay t (jumped h t) := (retired_stay t).trans (signal_stay _ h)
theorem stopped_stay (st : Stop) (s : State) : RegsStay s (stopped st s) := by
  cases st with
  | trap f => exact takeTrap_stay s f
  | wait k o n =>
    refine (modCur_stay s (fun sl => { sl with status := .waiting k o, begun := true })
      (.of_files rfl rfl rfl rfl rfl)).trans ?_
    simp only [stopped]
    rw [joinQueue_eq]
    exact .of_slots rfl rfl
  | spin => exact modCur_stay s _ (.of_files rfl rfl rfl rfl rfl)

/-! ### A signal that posts nothing -/

@[simp] theorem signal_zero (s : State) (h : Hdr) (e : h.sigInc = 0) : s.signal h = s := by simp [State.signal, e]
theorem ended_zero (h : Hdr) (t : State) (e : h.sigInc = 0) : ended h t = t.retired.advance := by simp [ended, e]

/-! ### The trap queue holds at most sixteen records (R359) -/

/-- The queue is as long as it may be. -/
def QueueFits (s : State) : Prop := s.trapQ.length ≤ 16

theorem enqueueRec_fits {s : State} (h : QueueFits s) (p : Option SlotId) (r : TrapRec) : QueueFits (s.enqueueRec p r) := by
  unfold State.enqueueRec
  split
  · rename_i h1
    have := h1.1
    show (s.trapQ ++ [r]).length ≤ 16
    simp only [List.length_append, List.length_singleton]; omega
  · split <;> exact h
theorem leaveQueue_fits {s : State} (h : QueueFits s) (w : Who) : QueueFits (s.leaveQueue w) := by rw [leaveQueue_eq]; exact h
theorem semSet_fits {s : State} (h : QueueFits s) (m : BitVec 8) (k : Nat) : QueueFits (s.semSet m k) := by
  rw [semSet_eq]; exact h
theorem repStop_fits {s : State} (h : QueueFits s) (i : SlotId) : QueueFits (s.repStop i) := by
  unfold State.repStop
  split
  · exact h
  · split
    · exact semSet_fits (leaveQueue_fits h _) _ _
    · exact leaveQueue_fits h _
theorem parkTrap_fits {s : State} (h : QueueFits s) (i : SlotId) (f : Fail) (pc : Word) (w : BitVec 96) :
    QueueFits (s.parkTrap i f pc w) := by
  refine enqueueRec_fits (leaveQueue_fits ?_ _) _ _
  exact repStop_fits h i
theorem takeTrap_fits {s : State} (h : QueueFits s) (f : Fail) : QueueFits (s.takeTrap f) := by
  have hr : QueueFits s.restoreWait := by
    unfold State.restoreWait
    split
    · exact h
    · exact semSet_fits (s := s.modCur _) h _ _
  have hg : QueueFits (s.restoreWait.goHome s.cur).peerEnd := by rw [peerEnd_eq, goHome_eq]; exact hr
  have hs : QueueFits ((s.restoreWait.goHome s.cur).peerEnd.sawError s.world f) := by
    unfold State.sawError; split <;> exact hg
  unfold State.takeTrap
  generalize (s.restoreWait.goHome s.cur).peerEnd.sawError s.world f = u at hs
  dsimp only
  split
  · have hq := leaveQueue_fits hs (.slot 15)
    unfold State.supTrap
    dsimp only
    split <;> exact hq
  · exact parkTrap_fits hs _ _ _ _
theorem signal_fits {s : State} (h : QueueFits s) (d : Hdr) : QueueFits (s.signal d) := by
  unfold State.signal
  split
  · exact h
  split
  · exact h
  dsimp only [State.semAdd]
  split
  · exact takeTrap_fits (semSet_fits h _ _) _
  · exact semSet_fits h _ _
theorem retired_fits {s : State} (h : QueueFits s) : QueueFits s.retired := by rw [retired_eq]; exact h

/-! ### Ends keep a safe state safe -/

theorem ended_safe {t : State} (h : t.safe) (d : Hdr) : (ended d t).safe :=
  ⟨(ended_only d t).wf h.1, signal_fits (s := t.retired.advance) (retired_fits h.2) d⟩
theorem jumped_safe {t : State} (h : t.safe) (d : Hdr) : (jumped d t).safe :=
  ⟨(jumped_only d t).wf h.1, signal_fits (retired_fits h.2) d⟩
theorem handed_safe {t : State} (h : t.safe) : (handed t).safe :=
  ⟨(handed_only t).wf h.1, retired_fits (s := t) h.2⟩
theorem takeTrap_safe {t : State} (h : t.safe) (f : Fail) : (t.takeTrap f).safe :=
  ⟨(takeTrap_only t f).wf h.1, takeTrap_fits h.2 f⟩
theorem stopped_safe {t : State} (h : t.safe) (st : Stop) : (stopped st t).safe := by
  refine ⟨(stopped_only st t).wf h.1, ?_⟩
  cases st with
  | trap f => exact takeTrap_fits h.2 f
  | wait k o n => simp only [stopped]; rw [joinQueue_eq]; exact h.2
  | spin => exact h.2

/-- An instruction is safe when each piece of its work, answered or stopped, leaves a safe state. -/
theorem finish_safe {h : Hdr} {b : State → R State} {s u : State} (e : finish h b s = .next u)
    (ok : ∀ t, b s = .ok t → t.safe) (er : ∀ st t, b s = .error (st, t) → t.safe) : u.safe := by
  rcases finish_next e with ⟨t, ht, rfl⟩ | ⟨f, t, ht, rfl⟩ | ⟨st, t, ht, -, rfl⟩
  · exact ended_safe (ok t ht) h
  · exact takeTrap_safe (er _ t ht) f
  · exact stopped_safe (er _ t ht) st

end Sys2Proof.Machine
end

