-- ==== Sys2Proof/Laws/Load.lean ====
section
/-!
SUPPORT. What a load can change: the caches, the counters and requests of pages, and the slot's questions to peers. Memory, its
granule bits and every register stay.
-/

namespace Sys2Proof.Machine

/-- `t` is `s` but for what a load can change. -/
def OnlyLoads (s t : State) : Prop :=
  (t = { s with slots := t.slots, cl := t.cl, quays := t.quays, dup := t.dup, dupHeld := t.dupHeld, dupAcks := t.dupAcks,
                tcache := t.tcache, agenda := t.agenda, pageReqs := t.pageReqs, pageCounts := t.pageCounts,
                pageNotes := t.pageNotes, pageOvf := t.pageOvf, blList := t.blList, blOvf := t.blOvf,
                blFound := t.blFound, notices := t.notices, opCtr := t.opCtr }) ∧ RegsStay s t

theorem OnlyLoads.refl (s : State) : OnlyLoads s s := ⟨rfl, .of_slots rfl rfl⟩
theorem OnlyLoads.trans {s t u : State} (h : OnlyLoads s t) (k : OnlyLoads t u) : OnlyLoads s u :=
  ⟨Eq.trans k.1 (congrArg (fun v : State =>
    { v with slots := u.slots, cl := u.cl, quays := u.quays, dup := u.dup, dupHeld := u.dupHeld, dupAcks := u.dupAcks,
             tcache := u.tcache, agenda := u.agenda, pageReqs := u.pageReqs, pageCounts := u.pageCounts,
             pageNotes := u.pageNotes, pageOvf := u.pageOvf, blList := u.blList, blOvf := u.blOvf,
             blFound := u.blFound, notices := u.notices, opCtr := u.opCtr }) h.1), h.2.trans k.2⟩
theorem OnlyLoads.same {s t : State} (h : OnlyLoads s t) : SameMemory s t := by
  rw [h.1]; exact .of_cells rfl rfl rfl
theorem OnlyLoads.safe {s t : State} (h : OnlyLoads s t) (k : s.safe) : t.safe := by
  rw [h.1]; exact k
/-- Where the slots are the same, the registers are. -/
theorem OnlyLoads.of_eq {s t : State}
    (e : t = { s with cl := t.cl, quays := t.quays, dup := t.dup, dupHeld := t.dupHeld, dupAcks := t.dupAcks,
                      tcache := t.tcache, agenda := t.agenda, pageReqs := t.pageReqs, pageCounts := t.pageCounts,
                      pageNotes := t.pageNotes, pageOvf := t.pageOvf, blList := t.blList, blOvf := t.blOvf,
                      blFound := t.blFound, notices := t.notices, opCtr := t.opCtr }) : OnlyLoads s t := by
  refine ⟨?_, .of_slots ?_ ?_⟩ <;> rw [e]

theorem foldl_loads {α : Type} {f : State → α → State} (hf : ∀ s a, OnlyLoads s (f s a)) (l : List α) (s : State) :
    OnlyLoads s (l.foldl f s) := by
  induction l generalizing s with
  | nil => exact .refl s
  | cons a l ih => exact (hf s a).trans (ih _)

/-! ### Caches -/

theorem listBad_loads (s : State) (w : World) (l : Nat) : OnlyLoads s (s.listBad w l) := by
  unfold State.listBad
  split
  · exact .refl s
  · dsimp only
    split <;> exact .of_eq (by rfl)
theorem touchCluster_loads (s : State) (i : SlotId) (w : World) (h : Hint) (va : Nat) (d : List Byte) (g : List Bool) :
    OnlyLoads s (s.touchCluster i w h va d g) := by
  unfold State.touchCluster
  dsimp only
  split
  · exact .refl s
  · split
    · exact .of_eq (by rfl)
    · split <;> exact .of_eq (by rfl)
theorem touchQuay_loads (s : State) (i : SlotId) (w : World) (h : Hint) (q : Fin 128) (k : Nat) (d : Bool) :
    OnlyLoads s (s.touchQuay i w h q k d) := by
  unfold State.touchQuay
  dsimp only
  exact OnlyLoads.trans (t := { s with quays := _, dupHeld := _ }) (.of_eq rfl)
    (foldl_loads (fun s (l : CacheLine) => listBad_loads s l.world l.line) _ _)
theorem touchQuays_loads (s : State) (i : SlotId) (w : World) (h : Hint) (k va n : Nat) (d : Bool) :
    OnlyLoads s (s.touchQuays i w h k va n d) := by
  unfold State.touchQuays
  split
  · exact .refl s
  · exact foldl_loads (fun s l => touchQuay_loads s i w h _ _ d) _ s
theorem readQuays_loads (s : State) (i : SlotId) (w : World) (h : Hint) (m k va : Nat) :
    OnlyLoads s (s.readQuays i w h m k va) := by
  unfold State.readQuays
  dsimp only
  split
  · exact .refl s
  split
  · exact touchQuays_loads _ _ _ _ _ _ _ _
  · split
    · exact touchQuay_loads _ _ _ _ _ _ _
    · exact ((touchQuays_loads _ _ _ _ _ _ _ _).trans (touchQuay_loads _ _ _ _ _ _ _)).trans (.of_eq (by rfl))
theorem dropOlder_loads (s : State) (w : World) (h : Hint) (k va : Nat) : OnlyLoads s (s.dropOlder w h k va) := by
  unfold State.dropOlder
  split
  · exact .refl s
  · have hd : OnlyLoads s (if (s.cached w va).isSome then s.dropLine w va else s) := by
      split
      · exact .of_eq (by rfl)
      · exact .refl s
    dsimp only
    generalize (if (s.cached w va).isSome then s.dropLine w va else s) = u at hd ⊢
    split
    · exact hd.trans (.of_eq (by rfl))
    · exact hd
theorem acquired_loads (s : State) (o sc : BitVec 3) : OnlyLoads s (s.acquired o sc) := by
  unfold State.acquired
  split
  · exact .of_eq (by rfl)
  · exact .refl s

/-! ### Reads -/

theorem readLine_loads {s : State} {i : SlotId} {w : World} {h : Hint} {k m va n : Nat} {r : List Byte × State}
    (e : s.readLine i w h k m va n = .ok r) : OnlyLoads s r.2 := by
  unfold State.readLine at e
  split at e
  · cases e; exact touchCluster_loads _ _ _ _ _ _ _
  · split at e
    · cases e
    · cases e
      exact ((readQuays_loads _ _ _ _ _ _ _).trans (dropOlder_loads _ _ _ _ _)).trans (touchCluster_loads _ _ _ _ _ _ _)
theorem readLines_loads {i : SlotId} {w : World} {h : Hint} {k m va : Nat} {cuts : List (Nat × Nat)} {s : State}
    {r : List Byte × State} (e : s.readLines i w h k m va cuts = .ok r) : OnlyLoads s r.2 := by
  induction cuts generalizing s r with
  | nil => cases e; exact .refl s
  | cons c cs ih =>
    unfold State.readLines at e
    split at e
    · cases e
    · rename_i h1
      split at e
      · cases e
      · rename_i h2
        cases e
        have := ih (r := (_, _)) h2
        exact (readLine_loads h1).trans this
theorem readRange_loads {s : State} {i : SlotId} {w : World} {h : Hint} {k m va n : Nat} {r : List Byte × State}
    (e : s.readRange i w h k m va n = .ok r) : OnlyLoads s r.2 := by
  unfold State.readRange at e
  split at e
  · split at e
    · cases e
    · cases e; exact .refl s
  · exact readLines_loads e
theorem compRead_loads {s : State} {i : SlotId} {w : World} {h : Hint} {k m bm s0 va n : Nat} {r : List Byte × State}
    (e : s.compRead i w h k m bm s0 va n = .ok r) : OnlyLoads s r.2 := by
  unfold State.compRead at e
  split at e
  · cases e; exact touchCluster_loads _ _ _ _ _ _ _
  · dsimp only at e
    split at e
    · cases e
    · cases e
      exact (touchQuays_loads _ _ _ _ _ _ _ _).trans (touchCluster_loads _ _ _ _ _ _ _)
theorem compReads_loads {i : SlotId} {w : World} {h : Hint} {k m bm s0 va : Nat} {cuts : List (Nat × Nat)} {s : State}
    {r : List Byte × State} (e : s.compReads i w h k m bm s0 va cuts = .ok r) : OnlyLoads s r.2 := by
  induction cuts generalizing s r with
  | nil => cases e; exact .refl s
  | cons c cs ih =>
    unfold State.compReads at e
    split at e
    · cases e
    · rename_i h1
      split at e
      · cases e
      · rename_i h2
        cases e
        have := ih (r := (_, _)) h2
        exact (compRead_loads h1).trans this

/-! ### Pages -/

theorem askPage_loads (s : State) (w : World) (va : Nat) (y : PageReason) : OnlyLoads s (s.askPage w va y) := by
  unfold State.askPage State.askPageAt
  dsimp only
  split
  · exact .refl s
  · exact .of_eq (by rfl)
theorem tierPost_loads (s : State) (c : PageCount) : OnlyLoads s (s.tierPost c).1 := by
  unfold State.tierPost
  split <;> exact .of_eq (by rfl)
theorem countPage_loads (s : State) (w : World) (q : Fin 128) (p : Nat) : OnlyLoads s (s.countPage w q p) := by
  unfold State.countPage
  dsimp only
  split
  · exact (tierPost_loads s _).trans (OnlyLoads.of_eq (by rfl))
  · exact .of_eq (by rfl)
theorem cacheLeaf_loads (s : State) (w : World) (va : Nat) : OnlyLoads s (s.cacheLeaf w va) := by
  unfold State.cacheLeaf
  split
  · exact .refl s
  · split
    · exact .of_eq (by rfl)
    · exact .refl s
theorem reached_loads (s : State) (w : World) (ps : List Piece) : OnlyLoads s (s.reached w ps) := by
  unfold State.reached
  refine foldl_loads (fun s p => ?_) ps s
  unfold State.reachedPiece
  split
  · split
    · exact .refl _
    · dsimp only
      split
      · exact (cacheLeaf_loads _ _ _).trans (countPage_loads _ _ _ _)
      · exact cacheLeaf_loads _ _ _
  · exact .refl _

/-! ### Loads of a slot -/

/-- Work of a slot that, answered or stopped, has changed only what a load can change. -/
def Loading {α : Type} (s : State) (x : R (α × State)) : Prop :=
  match x with
  | .ok r => OnlyLoads s r.2
  | .error e => OnlyLoads s e.2
/-- Checks change nothing. -/
def Checking {α : Type} (s : State) (x : R α) : Prop :=
  match x with
  | .ok _ => True
  | .error e => OnlyLoads s e.2

/-- Work that answers a state alone. -/
def Moving (s : State) (x : R State) : Prop :=
  match x with
  | .ok t => OnlyLoads s t
  | .error e => OnlyLoads s e.2

theorem Moving.then_ {β : Type} {s : State} {x : R State} {f : State → R (β × State)} (h : Moving s x)
    (k : ∀ t, Loading t (f t)) : Loading s (x >>= f) := by
  cases x with
  | error e => exact h
  | ok t =>
    have := k t
    show Loading s (f t)
    cases hf : f t with
    | error e => rw [hf] at this; exact OnlyLoads.trans (t := t) h this
    | ok q => rw [hf] at this; exact OnlyLoads.trans (t := t) h this
theorem Loading.then_ {α β : Type} {s : State} {x : R (α × State)} {f : α × State → R (β × State)} (h : Loading s x)
    (k : ∀ r, Loading r.2 (f r)) : Loading s (x >>= f) := by
  cases x with
  | error e => exact h
  | ok r =>
    have := k r
    show Loading s (f r)
    cases hf : f r with
    | error e => rw [hf] at this; exact OnlyLoads.trans (t := r.2) h this
    | ok q => rw [hf] at this; exact OnlyLoads.trans (t := r.2) h this
theorem Checking.then_ {α β : Type} {s : State} {x : R α} {f : α → R (β × State)} (h : Checking s x)
    (k : ∀ a, Loading s (f a)) : Loading s (x >>= f) := by
  cases x with
  | error e => exact h
  | ok a => exact k a
theorem Checking.and_ {α β : Type} {s : State} {x : R α} {f : α → R β} (h : Checking s x) (k : ∀ a, Checking s (f a)) :
    Checking s (x >>= f) := by
  cases x with
  | error e => exact h
  | ok a => exact k a
theorem check_checking (s : State) (f : Option Fail) : Checking s (check s f) := by
  cases f with
  | none => trivial
  | some f => exact .refl s
theorem guardR_checking (s : State) (b : Bool) (c a d : Nat) : Checking s (guardR s b c a d) := by
  cases b with
  | true => trivial
  | false => exact .refl s

theorem arrive_moving (s : State) (w : World) (ps : List Piece) : Moving s (arrive s w ps) := by
  unfold arrive
  split
  · exact OnlyLoads.of_eq (by rfl)
  · exact reached_loads s w ps
theorem askPeer_loads (s : State) (r : Reader) (d a : Nat) (p : Piece) : OnlyLoads s (s.askPeer r d a p) := by
  unfold State.askPeer
  dsimp only
  split
  · exact .refl s
  · refine OnlyLoads.trans (t := { s with opCtr := s.opCtr + 1 }) (.of_eq rfl) ⟨rfl, ?_⟩
    exact modCur_stay _ (fun sl => { sl with peerAsk := _ }) (.of_files rfl rfl rfl rfl rfl)
theorem mixedLog_checking (s : State) (r : Reader) (ps : List Piece) : Checking s (mixedLog s r ps) := by
  unfold mixedLog
  split
  · split
    · exact askPage_loads _ _ _ _
    · exact .refl s
  · trivial
theorem rawPiece_loading (s : State) (r : Reader) (p : Piece) : Loading s (rawPiece s r p) := by
  unfold rawPiece
  split
  · exact .refl s
  · split
    · exact .refl s
    · exact askPage_loads _ _ _ _
  · split
    · exact .refl s
    · exact .refl s
  · split
    · exact .refl s
    · split
      · exact .refl s
      · exact .refl s
      · exact askPeer_loads s r _ _ p
  · split
    · split
      · exact .refl s
      · exact .refl s
    · split
      · exact .refl s
      · split
        · exact .refl s
        · rename_i h1
          exact readRange_loads h1
theorem rawPieces_loading (r : Reader) (ps : List Piece) (s : State) : Loading s (rawPieces s r ps) := by
  induction ps generalizing s with
  | nil => exact .refl s
  | cons p ps ih =>
    unfold rawPieces
    refine (rawPiece_loading s r p).then_ fun a => ?_
    exact (ih a.2).then_ fun q => OnlyLoads.refl q.2
theorem shadowRead_loading (s : State) (r : Reader) (h : r.copies = false) (a n : Nat) : Loading s (shadowRead s r a n) := by
  unfold shadowRead
  split
  · exact .refl s
  · rw [h]
    exact (arrive_moving s r.world _).then_ fun t => rawPieces_loading r _ t
theorem readPiece_loading (s : State) (r : Reader) (h : r.copies = false) (p : Piece) : Loading s (readPiece s r p) := by
  unfold readPiece
  split
  · split
    · refine (shadowRead_loading s r h _ _).then_ fun b => ?_
      split
      · exact OnlyLoads.refl b.2
      · rename_i hx
        exact compReads_loads hx
    · exact rawPiece_loading s r p
  · exact rawPiece_loading s r p
theorem loadPieces_loading (h : Hint) (ps : List Piece) (s : State) : Loading s (loadPieces s ps h) := by
  have : ∀ (r : Reader) (_ : r.copies = false) (ps : List Piece) (s : State), Loading s (readPieces s r ps) := by
    intro r hr ps
    induction ps with
    | nil => exact fun s => .refl s
    | cons p ps ih =>
      intro s
      unfold readPieces
      exact (readPiece_loading s r hr p).then_ fun a => (ih a.2).then_ fun q => OnlyLoads.refl q.2
  unfold loadPieces
  exact (mixedLog_checking _ _ _).then_ fun _ => this (s.reader h) rfl ps s
theorem accessChecks_checking (s : State) (c : Cap) (a n : Nat) (p : BitVec 12) (u : BankUse) (l : Nat) :
    Checking s (accessChecks s c a n p u l) := by
  unfold accessChecks
  refine (check_checking _ _).and_ fun _ => ?_
  split
  · refine (check_checking _ _).and_ fun _ => (guardR_checking _ _ _ _ _).and_ fun _ => (check_checking _ _).and_ fun _ => ?_
    exact guardR_checking _ _ _ _ _
  · refine (guardR_checking _ _ _ _ _).and_ fun _ => (guardR_checking _ _ _ _ _).and_ fun _ => ?_
    exact guardR_checking _ _ _ _ _
theorem placed_checking (s : State) (c : Cap) (a n : Nat) (d : Need) : Checking s (placed s c a n d) := by
  unfold placed
  split
  · trivial
  · split
    · trivial
    · exact .refl s
theorem accessPieces_checking (s : State) (c : Cap) (a n : Nat) (p : BitVec 12) (d : Need) (u : BankUse) (l : Nat) :
    Checking s (accessPieces s c a n p d u l) :=
  (accessChecks_checking s c a n p u l).and_ fun _ => placed_checking s c a n d
theorem bitmapsReadable_checking (s : State) (c : Cap) (ps : List Piece) : Checking s (bitmapsReadable s c ps) := by
  induction ps with
  | nil => trivial
  | cons p ps ih =>
    unfold bitmapsReadable
    split
    · split
      · refine Checking.and_ ?_ fun _ => ih
        unfold readable
        refine (accessPieces_checking _ _ _ _ _ _ _ _).and_ fun qs => ?_
        split
        · exact askPage_loads _ _ _ _
        · trivial
      · exact ih
    · trivial
    · exact ih

/-- A load of a slot, whether it answers, traps or waits, changes no memory and no register. -/
theorem loadBytes_loading (s : State) (c : Cap) (a n : Nat) (p : BitVec 12) (l : Nat) (h : Hint) :
    Loading s (loadBytes s c a n p l h) := by
  unfold loadBytes
  refine (accessPieces_checking _ _ _ _ _ _ _ _).then_ fun ps => (bitmapsReadable_checking _ _ _).then_ fun _ => ?_
  exact (arrive_moving s s.world ps).then_ fun t => loadPieces_loading h ps t

end Sys2Proof.Machine
end

