-- ==== Sys2Proof/Laws/Store.lean ====
section
/-!
SUPPORT. What the operations on memory change: every one keeps the canonical form, and what a write leaves in memory.
-/

namespace Sys2Proof.Machine

/-- Seeing a write changes monitors and what is to be done: memory, the trap queue and the registers stay. -/
theorem trigSlots_eq (e : Seen) (is : List SlotId) (s : State) :
    s.trigSlots e is = { s with slots := (s.trigSlots e is).slots, agenda := (s.trigSlots e is).agenda } := by
  induction is generalizing s with
  | nil => rfl
  | cons i is ih =>
    unfold State.trigSlots
    dsimp only
    rw [ih]
    split
    · rfl
    · split <;> rfl
theorem trigTows_eq (old new : List ParkedMon) (s : State) :
    s.trigTows old new = { s with agenda := (s.trigTows old new).agenda } := by
  unfold State.trigTows
  generalize new.zip old = ps
  induction ps generalizing s with
  | nil => rfl
  | cons p ps ih =>
    simp only [List.foldl_cons]
    rw [ih]
    split <;> rfl
theorem triggerBy_eq (s : State) (e : Seen) :
    s.triggerBy e = { s with slots := (s.triggerBy e).slots, agenda := (s.triggerBy e).agenda,
                             quayMons := (s.triggerBy e).quayMons, cl := (s.triggerBy e).cl } := by
  unfold State.triggerBy
  dsimp only
  rw [trigTows_eq, trigSlots_eq]
theorem trigger_eq (s : State) (k n : Nat) :
    s.trigger k n = { s with slots := (s.trigger k n).slots, agenda := (s.trigger k n).agenda,
                             quayMons := (s.trigger k n).quayMons, cl := (s.trigger k n).cl } := triggerBy_eq s (.mem k n)

/-! ### The canonical form (R195) -/

theorem wf_of_cells {s t : State} (h : Memory.wf s) (m : t.mem = s.mem) (g : t.tags = s.tags) (f : t.full = s.full) :
    Memory.wf t := by
  simpa only [Memory.wf, m, g, f] using h
theorem wf_mk {s : State} (m : cellsWf s.mem) (g : s.tags.Pairwise (· < ·)) (f : s.full.Pairwise (· < ·)) : Memory.wf s :=
  ⟨m, g, f⟩
theorem trigger_wf {s : State} (h : Memory.wf s) (k n : Nat) : Memory.wf (s.trigger k n) := by rw [trigger_eq]; exact h
theorem foldl_wf {α : Type} {f : State → α → State} (hf : ∀ s a, Memory.wf s → Memory.wf (f s a)) (l : List α) {s : State}
    (h : Memory.wf s) : Memory.wf (l.foldl f s) := by
  induction l generalizing s with
  | nil => exact h
  | cons a l ih => exact ih (hf s a h)
/-- Memory and T bits are replaced by others of canonical form. -/
theorem wf_with {s u : State} (h : Memory.wf s) {m : List Host.Cell} {g : List Nat} (hm : cellsWf m) (hg : g.Pairwise (· < ·))
    (em : u.mem = m) (eg : u.tags = g) (ef : u.full = s.full) : Memory.wf u := by
  subst em eg
  exact ⟨hm, hg, ef ▸ h.2.2⟩
theorem repair_wf {s : State} (h : Memory.wf s) (k n : Nat) : Memory.wf (s.repair k n) := by
  unfold State.repair State.unlistLine
  generalize List.replicate 128 (0 : Byte) = y
  generalize List.replicate 16 (0 : Byte) = z
  refine foldl_wf (fun s g h => ?_) _ (foldl_wf (fun s l h => ?_) _ h)
  · exact wf_with h (cellsWrite_wf h.1 (16 * g) z) (natDel_rising h.2.1 g) rfl rfl rfl
  · exact wf_with h (cellsWrite_wf h.1 (128 * l) y) (clearTags_rising h.2.1 (granules (128 * l) 128)) rfl rfl rfl
theorem writeBytes_wf {s : State} (h : Memory.wf s) (k : Nat) (bs : List Byte) : Memory.wf (s.writeBytes k bs) := by
  unfold State.writeBytes
  split
  · exact h
  · have hr := repair_wf h k bs.length
    generalize s.repair k bs.length = u at hr
    dsimp only [State.reseal]
    refine trigger_wf ?_ _ _
    refine wf_mk ?_ ?_ ?_
    · exact cellsWrite_wf hr.1 k bs
    · dsimp only
      split
      · exact hr.2.1
      · exact clearTags_rising hr.2.1 _
    · exact hr.2.2
theorem unlistLine_wf {s : State} (h : Memory.wf s) (l : Nat) : Memory.wf (s.unlistLine l) := wf_of_cells h rfl rfl rfl
theorem zeroRange_wf {s : State} (h : Memory.wf s) (k n : Nat) : Memory.wf (s.zeroRange k n) := by
  unfold State.zeroRange
  split
  · exact h
  · dsimp only
    refine trigger_wf (foldl_wf (fun s l h => unlistLine_wf h l) _ ?_) _ _
    generalize s.badGrans.filter _ = x
    generalize s.seals.filter _ = y
    have hm := cellsWf_filter h.1 fun c => !(decide (k ≤ c.1) && decide (c.1 < k + n))
    have hg := h.2.1.filter fun g => !(decide (k / 16 ≤ g) && decide (g ≤ (k + n - 1) / 16))
    exact wf_mk hm hg h.2.2
theorem writeGran_wf {s : State} (h : Memory.wf s) (k : Nat) (c : Cap) : Memory.wf (s.writeGran k c) := by
  have hw := writeBytes_wf h k (leBytes 16 c.bits.toNat)
  unfold State.writeGran
  dsimp only
  generalize s.writeBytes k (leBytes 16 c.bits.toNat) = u at hw
  split
  · exact hw
  · exact wf_with hw hw.1 (natSet_rising hw.2.1 (k / 16) c.tag) rfl rfl rfl
theorem setFull_wf {s : State} (h : Memory.wf s) (g : Nat) (v : Bool) : Memory.wf (s.setFull g v) := by
  unfold State.setFull
  dsimp only
  split
  · exact h
  · unfold State.fullChanged
    split <;> refine wf_mk h.1 h.2.1 ?_ <;> exact natSet_rising h.2.2 g v
theorem engineWrite_wf {s : State} (h : Memory.wf s) (k : Nat) (bs : List Byte) : Memory.wf (s.engineWrite k bs) := by
  have hw := writeBytes_wf h k bs
  unfold State.engineWrite
  dsimp only
  split
  · exact foldl_wf (fun s g h => setFull_wf h g true) _ hw
  · exact hw
theorem cwinOpen_wf {s : State} (h : Memory.wf s) (i : Fin 16) (k : Nat) : Memory.wf (s.cwinOpen i k) := by
  unfold State.cwinOpen
  generalize leBytes 8 0 = a
  generalize leBytes 8 ((s.nat (k + 8) 4 + 1) % 2 ^ 32) = b
  generalize leBytes 4 0 = c
  have h2 := writeBytes_wf (writeBytes_wf (writeBytes_wf h k a) (k + 8) b) (k + 16) c
  dsimp only
  generalize ((s.writeBytes k a).writeBytes (k + 8) b).writeBytes (k + 16) c = v at h2
  exact wf_of_cells h2 rfl rfl rfl

/-! ### What a write leaves -/

/-- A write where nothing is in error stores its bytes and clears its granules' T bits; and so much is all that it does to
memory. -/
theorem writeBytes_cells {s : State} {k : Nat} {bs : List Byte} (e : s.repair k bs.length = s) (hb : bs.isEmpty = false) :
    (s.writeBytes k bs).mem = cellsWrite s.mem k bs ∧
    (s.writeBytes k bs).tags = (if keyIsHost k then s.tags else clearTags s.tags (granules k bs.length)) ∧
    (s.writeBytes k bs).full = s.full := by
  unfold State.writeBytes
  rw [if_neg (by simp [hb]), e]
  rw [trigger_eq]
  exact ⟨rfl, rfl, rfl⟩
theorem repair_sound {s : State} {k n : Nat} (hl : ∀ l ∈ linesOf k n, l ∉ s.badLines) (hg : ∀ g ∈ granules k n, g ∉ s.badGrans) :
    s.repair k n = s := by
  have h1 : (linesOf k n).filter s.badLines.contains = [] := by
    rw [List.filter_eq_nil_iff]; intro l h; simpa using hl l h
  have h2 : (granules k n).filter s.badGrans.contains = [] := by
    rw [List.filter_eq_nil_iff]; intro g h; simpa using hg g h
  unfold State.repair
  simp only [h1, h2, List.foldl_nil]

end Sys2Proof.Machine
end

