-- ==== Sys2Proof/Laws/Turn.lean ====
section
/-!
SUPPORT. The turn of a slot (R31): what is left of it once the fetch and the checks of a fresh fibre have passed.
-/

namespace Sys2Proof.Machine

/-- Once the bytes are fetched, the turn is that of the instruction they hold. -/
theorem nextTurn_of_fetches {s w : State} {n : SlotId} {bs : List Byte} (h : Fetches s n bs w) :
    nextTurn s = readyFor w bs := by
  obtain ⟨v, hv, rfl⟩ := h.fetched
  simp only [nextTurn, h.idle, h.turn, turn, h.quiet, hv]

/-- The way home, the guards and the WAIT change nothing that holds an access back. -/
theorem heldBack_of {s t : State} (f : t.sl.fib = s.sl.fib) (h : t.heldSigs = s.heldSigs) (l : t.sideLog = s.sideLog)
    (p : t.peerOut = s.peerOut) : t.heldBack = s.heldBack := by
  simp only [State.heldBack, f, h, l, p]
theorem filterRegs_fib (s : State) (sl : Slot) : (s.filterRegs sl).fib = sl.fib := by
  simp only [State.filterRegs]
theorem modSlot_fib (s : State) (i : SlotId) (f : Slot → Slot) (hf : ∀ sl, (f sl).fib = sl.fib) :
    (s.modSlot i f).sl.fib = s.sl.fib := by
  by_cases h : s.cur = i
  · subst h; exact (congrArg Slot.fib (modSlot_slot s s.cur f)).trans (hf _)
  · exact congrArg Slot.fib (modSlot_other s i s.cur f h)
theorem filterAway_heldBack (s : State) : s.filterAway.heldBack = s.heldBack := by
  unfold State.filterAway
  split
  · rfl
  · refine heldBack_of ?_ rfl rfl rfl
    simp only [State.sl, Fin.getElem_fin, Vector.getElem_map]
    generalize s.slots[s.cur.val] = sl
    split
    · exact filterRegs_fib s sl
    · rfl
theorem goHome_heldBack (s : State) (i : SlotId) : (s.goHome i).heldBack = s.heldBack := by
  unfold State.goHome
  split
  · rfl
  · generalize hf : (fun sl : Slot => ({ sl with quay := none, status := match sl.status with
                | .away _ => .ready
                | st => st } : Slot)) = f
    have e : (s.modSlot i f).sl.fib = s.sl.fib := modSlot_fib s i f fun sl => by rw [← hf]
    dsimp only
    split <;> exact heldBack_of e rfl rfl rfl
theorem issuesAt_heldBack (opc : Nat) (b : Body) (s : State) : (issuesAt opc b s).heldBack = s.heldBack := by
  unfold issuesAt
  dsimp only
  split
  · exact filterAway_heldBack s
  · exact (goHome_heldBack _ _).trans (filterAway_heldBack s)
theorem passGuards_heldBack {opc : Nat} {b : Body} {s t : State} (h : passGuards s opc b = .ok t) :
    t.heldBack = s.heldBack := by
  unfold passGuards at h
  split at h
  · cases h
  split at h
  · cases h
  split at h
  · cases h
  dsimp only at h
  split at h
  · cases h; rfl
  split at h
  · rename_i u hu
    cases h
    unfold State.waitSem at hu
    dsimp only at hu
    split at hu
    · cases hu
    · cases hu
      rw [leaveQueue_eq]
      exact heldBack_of (by simp [State.sl, State.modCur, State.modSlot]) rfl rfl rfl
  · cases h

/-- The turn of an instruction that may issue: its guards, its WAIT and its registers decide, unless it has begun. -/
theorem nextTurn_of_comes {s w : State} {n : SlotId} {i : Instr} {opc : Nat} {b : Body} (h : Comes s n i opc b w) :
    nextTurn s = if w.sl.begun then regsSound i w.filterAway
      else match passGuards (issuesAt opc b w) opc b with
        | .ok s => regsSound i s
        | .error s => .error s := by
  obtain ⟨bs, hf, hd⟩ := h.fetches
  refine (nextTurn_of_fetches hf).trans ?_
  simp only [readyFor, passed, hf.started, hd, h.parts]
  rw [if_neg (by rcases h.allowed with h | h <;> simp [h]), if_neg (by rcases h.port with h | h <;> simp [h])]
  by_cases hb : w.sl.begun = true
  · rw [if_pos hb]
    rcases h.free with h1 | h1 <;> simp [hb, h1, filterAway_heldBack]
  · rw [if_neg hb, h.home.resolve_left hb]
    cases hp : passGuards (issuesAt opc b w) opc b with
    | error t => simp [hb]
    | ok t =>
      have : t.heldBack = w.heldBack := (passGuards_heldBack hp).trans (issuesAt_heldBack opc b w)
      rcases h.free with h1 | h1 <;> simp [hb, h1, this]

/-- What an instruction that its guards pass over leaves in its slot (R29). -/
theorem passOver_pc (s : State) : s.passOver.sl.pc = s.sl.pc + 12 := retired_advance_pc s

end Sys2Proof.Machine
end

