-- ==== Sys2Proof/Tests/Slice0.lean ====
section
/-!
SUPPORT. Tests: each check of well-formedness refuses a term; words written out from the encodings of the spec decode to the
instructions they stand for; single steps on small states; and for each obligation with hypotheses, states and operands that meet
them.
-/

section
set_option Elab.async false
open Sys2Proof
open Sys2Proof.Machine

/-! ### Well-formedness refuses (R49) -/

def tHdr : Hdr := ⟨10, 11, 3, 2⟩
def tWait : WaitF := ⟨4, 7⟩
/-- An R-format operand record, without guards, WAIT or SIG. -/
def tR (d a b : BitVec 6) (m : ModF := md0) : ROp := ⟨noHdr, d, a, b, 0, 0, noWait, m⟩
def tI (d a : BitVec 6) (imm : BitVec 32) (m : ModF := md0) : IOp := ⟨noHdr, d, a, imm, m⟩
/-- An M-format operand record: register, base, index, size; no offset, order and scope 0. -/
def tM (d a b : BitVec 6) (size : BitVec 3) (x : BitVec 1 := 0) : MOp := ⟨noHdr, d, a, b, 0, noWait, x, 0, 0, size, 0, 0xFF⟩

/-- Row 3: a SUB, an ISP, a mask, a SAT or a TYPE that the entry does not use; reserved bits; an immediate or X it does not take. -/
theorem test_row3_refused : ∀ i ∈ [
    Instr.add (.r (tR 1 2 3 { mdTy 3 with sub := 1 })), .add (.r (tR 1 2 3 { mdTy 3 with isp := 1 })),
    .add (.r (tR 1 2 3 { mdTy 3 with km := 1 })), .add (.r (tR 1 2 3 { mdTy 3 with zm := 1 })),
    .mulh (tR 1 2 3 { mdTy 3 with sat := 1 }), .pand (tR 1 2 3 (mdTy 1)), .shadd (.r (tR 1 2 3 { mdTy 3 with isp := 8 })),
    .fcmp (tR 1 2 3 ⟨0, 0, 0, 8, 0, 0, 8⟩), .cmp (.r (tR 1 2 3 { mdTy 3 with sub := 6 })), .bfx (.i (tI 1 2 0x40 (mdTy 3))),
    .vsel (tR 1 2 3 { mdTy 2 with zm := 1 }), .vcvt (tR 1 2 2 { mdTy 8 with sub := 10 }), .frep ⟨noHdr, 0, 0, 0x08000000, 1, 0⟩,
    .trap ⟨noHdr, 0, 0, 7, 0, 1⟩, .trap ⟨noHdr, 0, 0, 7, 1, 0⟩, .st (tM 1 2 3 3 1), .fdesc (.i (tI 1 2 13)),
    .gsr (tI 1 0 0x1000), .mmas (tR 1 0 0 ⟨0, 0, 0, 0, 0, 0, 9⟩), .fence (tR 0 0 0 ⟨1, 0, 0, 9, 0, 0, 0⟩)],
    i.ill = some 3 ∧ i.wf = false := by decide

/-- Row 4: an operand field that the entry does not use, WAIT.SM without a threshold, SIG.SM without an increment, and the
entries that limit a field by name. -/
theorem test_row4_refused : ∀ i ∈ [
    Instr.mov (tR 1 2 3 (mdTy 3)), .add (.r { tR 1 2 3 (mdTy 3) with oc := 1 }), .add (.r { tR 1 2 3 (mdTy 3) with oe := 1 }),
    .add (.r { tR 1 2 3 (mdTy 3) with wait := ⟨1, 0⟩ }), .add (.r { tR 1 2 3 (mdTy 3) with hdr := ⟨0, 0, 1, 0⟩ }),
    .ld { tM 1 2 3 3 with wait := ⟨1, 0⟩ }, .ld { tM 1 2 3 3 with hdr := ⟨0, 0, 1, 0⟩ }, .li (tI 1 2 0 (mdTy 3)),
    .br ⟨⟨0, 0, 1, 0⟩, 0, 0, 0, md0⟩, .trap ⟨noHdr, 1, 0, 0, 0, 0⟩, .trap ⟨noHdr, 0, 1, 0, 0, 0⟩, .mlda (tM 4 2 3 5),
    .mldb (tM 2 2 3 5), .msave (tM 16 2 3 5), .mrest (tM 16 2 3 5), .fpush { tR 1 2 3 with oe := 4 }, .redadd (tM 1 2 3 3)],
    i.ill = some 4 ∧ i.wf = false := by decide

/-- Row 5: an index beyond its file, for each file. -/
theorem test_row5_refused : ∀ i ∈ [
    Instr.add (.r (tR 32 2 3 (mdTy 3))), .add (.i (tI 1 32 0 (mdTy 3))), .cmov (tR 32 2 0), .kand (tR 8 0 0), .pand (tR 0 8 0),
    .sel { tR 1 2 3 (mdTy 3) with oc := 8 }, .mzero (tR 4 0 0), .sstart (tR 4 0 0), .ld (tM 1 32 0 3), .ldc (tM 32 2 0 6)],
    i.ill = some 5 ∧ i.wf = false := by decide

/-- Rows 6 to 10 and 12: the rounding code, the size, the order, the scope, the TYPE, the register number. -/
theorem test_row6_refused : ∀ i ∈ [
    Instr.fadd (tR 1 2 3 { mdTy 8 with rm := 6 }), .fmin (tR 1 2 3 { mdTy 8 with rm := 1 }),
    .vexp2 (tR 1 2 0 { mdTy 8 with rm := 2 }), .add (.i (tI 1 2 3 { mdTy 3 with rm := 1 }))],
    i.ill = some 6 ∧ i.wf = false := by decide
theorem test_row7_refused : ∀ i ∈ [Instr.ld (tM 1 2 3 4), .ldc (tM 1 2 3 3), .vld (tM 1 2 3 3), .amofadd (tM 1 2 3 3)],
    i.ill = some 7 ∧ i.wf = false := by decide
theorem test_row8_refused : ∀ i ∈ [
    Instr.ld { tM 1 2 3 3 with ord := 2 }, .st { tM 1 2 3 3 with ord := 1 }, .vld { tM 1 2 3 5 with ord := 4 },
    .ld { tM 1 2 3 3 with ord := 5 }, .fence (tR 0 0 0 (mdSub 0)), .fence (tR 0 0 0 (mdSub 5))],
    i.ill = some 8 ∧ i.wf = false := by decide
theorem test_row9_refused : ∀ i ∈ [
    Instr.ld { tM 1 2 3 3 with ord := 1, scope := 5 }, .ld { tM 1 2 3 3 with scope := 1 }, .fence (tR 0 0 0 ⟨5, 0, 0, 1, 0, 0, 0⟩),
    .spawn (tR 0 2 3 ⟨5, 0, 0, 0, 0, 0, 0⟩), .reply (tR 0 2 3 ⟨7, 0, 0, 0, 0, 0, 0⟩)],
    i.ill = some 9 ∧ i.wf = false := by decide
theorem test_row10_refused : ∀ i ∈ [
    Instr.add (.r (tR 1 2 3 (mdTy 8))), .fadd (tR 1 2 3 (mdTy 3)), .vadd (tR 1 2 3 (mdTy 3)), .sra (.i (tI 1 2 3 (mdTy 7))),
    .fcvt (tR 1 2 0 ⟨0, 0, 0, 1, 0, 0, 2⟩), .vdot (tR 1 2 3 (mdTy 2)), .mma (tR 1 0 0 (mdTy 1))],
    i.ill = some 10 ∧ i.wf = false := by decide
theorem test_row12_refused : ∀ i ∈ [Instr.gsr (tI 1 0 0x002), .ssr (tI 0 1 0xFFF)], i.ill = some 12 ∧ i.wf = false := by decide
/-- Rows 1 and 2 are the decoder's: an opcode that is not assigned, and a format that the opcode does not have. -/
theorem test_rows1and2_refused : decode 0 = .error 1 ∧ decode (word3 0x3FF 0 0) = .error 1 ∧ decode (word3 0x00000404 0 0) = .error 2 ∧
    decode (word3 0x00000045 0 0x00008000) = .ok (.fadd (tR 0 0 0 (mdTy 8))) := by decide

/-! ### Words of the spec's encodings (R27, R35-R47), each with its instruction -/

theorem test_decodeInteger : ∀ p ∈ ([(word3 0x081BA001 0x041C0003 0x00001032, .add (.r ⟨tHdr, 1, 2, 3, 0, 0, tWait, ⟨0, 0, 0, 0, 0, 0, 1⟩⟩)),
    (word3 0x081BA401 0x00010203 0x00001032, .add (.i ⟨tHdr, 1, 2, 0x10203, ⟨0, 0, 0, 0, 0, 0, 1⟩⟩)),
    (word3 0x081BA002 0x041C0003 0x00001032, .sub (.r ⟨tHdr, 1, 2, 3, 0, 0, tWait, ⟨0, 0, 0, 0, 0, 0, 1⟩⟩)),
    (word3 0x081BA402 0x00010203 0x00001032, .sub (.i ⟨tHdr, 1, 2, 0x10203, ⟨0, 0, 0, 0, 0, 0, 1⟩⟩)),
    (word3 0x081BA003 0x041C0003 0x00001032, .mul (.r ⟨tHdr, 1, 2, 3, 0, 0, tWait, ⟨0, 0, 0, 0, 0, 0, 1⟩⟩)),
    (word3 0x081BA403 0x00010203 0x00001032, .mul (.i ⟨tHdr, 1, 2, 0x10203, ⟨0, 0, 0, 0, 0, 0, 1⟩⟩)),
    (word3 0x081BA004 0x041C0003 0x00001032, .mulh ⟨tHdr, 1, 2, 3, 0, 0, tWait, ⟨0, 0, 0, 0, 0, 0, 1⟩⟩),
    (word3 0x081BA005 0x041C0143 0x00001032, .mad ⟨tHdr, 1, 2, 3, 5, 0, tWait, ⟨0, 0, 0, 0, 0, 0, 1⟩⟩),
    (word3 0x081BA006 0x041C0003 0x00001032, .div ⟨tHdr, 1, 2, 3, 0, 0, tWait, ⟨0, 0, 0, 0, 0, 0, 1⟩⟩),
    (word3 0x081BA007 0x041C0003 0x00001032, .rem ⟨tHdr, 1, 2, 3, 0, 0, tWait, ⟨0, 0, 0, 0, 0, 0, 1⟩⟩),
    (word3 0x081BA008 0x041C0003 0x00001032, .and (.r ⟨tHdr, 1, 2, 3, 0, 0, tWait, ⟨0, 0, 0, 0, 0, 0, 1⟩⟩)),
    (word3 0x081BA408 0x00010203 0x00001032, .and (.i ⟨tHdr, 1, 2, 0x10203, ⟨0, 0, 0, 0, 0, 0, 1⟩⟩)),
    (word3 0x081BA009 0x041C0003 0x00001032, .or (.r ⟨tHdr, 1, 2, 3, 0, 0, tWait, ⟨0, 0, 0, 0, 0, 0, 1⟩⟩)),
    (word3 0x081BA409 0x00010203 0x00001032, .or (.i ⟨tHdr, 1, 2, 0x10203, ⟨0, 0, 0, 0, 0, 0, 1⟩⟩)),
    (word3 0x081BA00A 0x041C0003 0x00001032, .xor (.r ⟨tHdr, 1, 2, 3, 0, 0, tWait, ⟨0, 0, 0, 0, 0, 0, 1⟩⟩)),
    (word3 0x081BA40A 0x00010203 0x00001032, .xor (.i ⟨tHdr, 1, 2, 0x10203, ⟨0, 0, 0, 0, 0, 0, 1⟩⟩)),
    (word3 0x081BA00B 0x041C0003 0x00001032, .andn (.r ⟨tHdr, 1, 2, 3, 0, 0, tWait, ⟨0, 0, 0, 0, 0, 0, 1⟩⟩)),
    (word3 0x081BA40B 0x00010203 0x00001032, .andn (.i ⟨tHdr, 1, 2, 0x10203, ⟨0, 0, 0, 0, 0, 0, 1⟩⟩)),
    (word3 0x081BA00C 0x041C0003 0x00001032, .shl (.r ⟨tHdr, 1, 2, 3, 0, 0, tWait, ⟨0, 0, 0, 0, 0, 0, 1⟩⟩)),
    (word3 0x081BA40C 0x00010203 0x00001032, .shl (.i ⟨tHdr, 1, 2, 0x10203, ⟨0, 0, 0, 0, 0, 0, 1⟩⟩)),
    (word3 0x081BA00D 0x041C0003 0x00001032, .shr (.r ⟨tHdr, 1, 2, 3, 0, 0, tWait, ⟨0, 0, 0, 0, 0, 0, 1⟩⟩)),
    (word3 0x081BA40D 0x00010203 0x00001032, .shr (.i ⟨tHdr, 1, 2, 0x10203, ⟨0, 0, 0, 0, 0, 0, 1⟩⟩)),
    (word3 0x081BA00E 0x041C0003 0x00001032, .sra (.r ⟨tHdr, 1, 2, 3, 0, 0, tWait, ⟨0, 0, 0, 0, 0, 0, 1⟩⟩)),
    (word3 0x081BA40E 0x00010203 0x00001032, .sra (.i ⟨tHdr, 1, 2, 0x10203, ⟨0, 0, 0, 0, 0, 0, 1⟩⟩)),
    (word3 0x081BA00F 0x041C0003 0x00001032, .rotl (.r ⟨tHdr, 1, 2, 3, 0, 0, tWait, ⟨0, 0, 0, 0, 0, 0, 1⟩⟩)),
    (word3 0x081BA40F 0x00010203 0x00001032, .rotl (.i ⟨tHdr, 1, 2, 0x10203, ⟨0, 0, 0, 0, 0, 0, 1⟩⟩)),
    (word3 0x081BA010 0x041C0003 0x00001032, .min (.r ⟨tHdr, 1, 2, 3, 0, 0, tWait, ⟨0, 0, 0, 0, 0, 0, 1⟩⟩)),
    (word3 0x081BA410 0x00010203 0x00001032, .min (.i ⟨tHdr, 1, 2, 0x10203, ⟨0, 0, 0, 0, 0, 0, 1⟩⟩)),
    (word3 0x081BA011 0x041C0003 0x00001032, .max (.r ⟨tHdr, 1, 2, 3, 0, 0, tWait, ⟨0, 0, 0, 0, 0, 0, 1⟩⟩)),
    (word3 0x081BA411 0x00010203 0x00001032, .max (.i ⟨tHdr, 1, 2, 0x10203, ⟨0, 0, 0, 0, 0, 0, 1⟩⟩)),
    (word3 0x081BA012 0x041C0000 0x00001032, .abs ⟨tHdr, 1, 2, 0, 0, 0, tWait, ⟨0, 0, 0, 0, 0, 0, 1⟩⟩),
    (word3 0x081BA013 0x041C0000 0x00001032, .clz ⟨tHdr, 1, 2, 0, 0, 0, tWait, ⟨0, 0, 0, 0, 0, 0, 1⟩⟩),
    (word3 0x081BA014 0x041C0000 0x00001032, .ctz ⟨tHdr, 1, 2, 0, 0, 0, tWait, ⟨0, 0, 0, 0, 0, 0, 1⟩⟩),
    (word3 0x081BA015 0x041C0000 0x00001032, .popc ⟨tHdr, 1, 2, 0, 0, 0, tWait, ⟨0, 0, 0, 0, 0, 0, 1⟩⟩),
    (word3 0x081BA016 0x041C0003 0x00003032, .bfx (.r ⟨tHdr, 1, 2, 3, 0, 0, tWait, ⟨0, 0, 0, 0, 0, 0, 3⟩⟩)),
    (word3 0x081BA416 0x00000203 0x00003032, .bfx (.i ⟨tHdr, 1, 2, 0x203, ⟨0, 0, 0, 0, 0, 0, 3⟩⟩)),
    (word3 0x081BA017 0x041C0003 0x00003032, .bfi (.r ⟨tHdr, 1, 2, 3, 0, 0, tWait, ⟨0, 0, 0, 0, 0, 0, 3⟩⟩)),
    (word3 0x081BA417 0x00000203 0x00003032, .bfi (.i ⟨tHdr, 1, 2, 0x203, ⟨0, 0, 0, 0, 0, 0, 3⟩⟩)),
    (word3 0x081BA018 0x041C0003 0x00001032, .shadd (.r ⟨tHdr, 1, 2, 3, 0, 0, tWait, ⟨0, 0, 0, 0, 0, 0, 1⟩⟩)),
    (word3 0x081BA418 0x00010203 0x00001032, .shadd (.i ⟨tHdr, 1, 2, 0x10203, ⟨0, 0, 0, 0, 0, 0, 1⟩⟩)),
    (word3 0x081BA019 0x041C0143 0x00001032, .sel ⟨tHdr, 1, 2, 3, 5, 0, tWait, ⟨0, 0, 0, 0, 0, 0, 1⟩⟩),
    (word3 0x081BA01A 0x041C0000 0x00001032, .mov ⟨tHdr, 1, 2, 0, 0, 0, tWait, ⟨0, 0, 0, 0, 0, 0, 1⟩⟩),
    (word3 0x001BA41B 0x00010203 0x00003032, .li ⟨tHdr, 1, 0, 0x10203, ⟨0, 0, 0, 0, 0, 0, 3⟩⟩),
    (word3 0x081BA01C 0x041C0000 0x00001032, .cvt ⟨tHdr, 1, 2, 0, 0, 0, tWait, ⟨0, 0, 0, 0, 0, 0, 1⟩⟩),
    (word3 0x081BA01D 0x041C0003 0x00001032, .cmp (.r ⟨tHdr, 1, 2, 3, 0, 0, tWait, ⟨0, 0, 0, 0, 0, 0, 1⟩⟩)),
    (word3 0x081BA41D 0x00010203 0x00001032, .cmp (.i ⟨tHdr, 1, 2, 0x10203, ⟨0, 0, 0, 0, 0, 0, 1⟩⟩)),
    (word3 0x081BA01E 0x041C0000 0x00001032, .bswap ⟨tHdr, 1, 2, 0, 0, 0, tWait, ⟨0, 0, 0, 0, 0, 0, 1⟩⟩)] : List (BitVec 96 × Instr)), decode p.1 = .ok p.2 := by decide
theorem test_decodeScalar : ∀ p ∈ ([(word3 0x081BA040 0x041C0003 0x00000032, .pand ⟨tHdr, 1, 2, 3, 0, 0, tWait, ⟨0, 0, 0, 0, 0, 0, 0⟩⟩),
    (word3 0x081BA041 0x041C0003 0x00000032, .por ⟨tHdr, 1, 2, 3, 0, 0, tWait, ⟨0, 0, 0, 0, 0, 0, 0⟩⟩),
    (word3 0x081BA042 0x041C0003 0x00000032, .pxor ⟨tHdr, 1, 2, 3, 0, 0, tWait, ⟨0, 0, 0, 0, 0, 0, 0⟩⟩),
    (word3 0x081BA043 0x041C0000 0x00000032, .pnot ⟨tHdr, 1, 2, 0, 0, 0, tWait, ⟨0, 0, 0, 0, 0, 0, 0⟩⟩),
    (word3 0x081BA044 0x041C0000 0x00000032, .pmov ⟨tHdr, 1, 2, 0, 0, 0, tWait, ⟨0, 0, 0, 0, 0, 0, 0⟩⟩),
    (word3 0x081BA045 0x041C0003 0x00008032, .fadd ⟨tHdr, 1, 2, 3, 0, 0, tWait, ⟨0, 0, 0, 0, 0, 0, 8⟩⟩),
    (word3 0x081BA046 0x041C0003 0x00008032, .fsub ⟨tHdr, 1, 2, 3, 0, 0, tWait, ⟨0, 0, 0, 0, 0, 0, 8⟩⟩),
    (word3 0x081BA047 0x041C0003 0x00008032, .fmul ⟨tHdr, 1, 2, 3, 0, 0, tWait, ⟨0, 0, 0, 0, 0, 0, 8⟩⟩),
    (word3 0x081BA048 0x041C0143 0x00008032, .ffma ⟨tHdr, 1, 2, 3, 5, 0, tWait, ⟨0, 0, 0, 0, 0, 0, 8⟩⟩),
    (word3 0x081BA049 0x041C0003 0x00008032, .fdiv ⟨tHdr, 1, 2, 3, 0, 0, tWait, ⟨0, 0, 0, 0, 0, 0, 8⟩⟩),
    (word3 0x081BA04A 0x041C0000 0x00008032, .fsqrt ⟨tHdr, 1, 2, 0, 0, 0, tWait, ⟨0, 0, 0, 0, 0, 0, 8⟩⟩),
    (word3 0x081BA04B 0x041C0003 0x00008032, .fmin ⟨tHdr, 1, 2, 3, 0, 0, tWait, ⟨0, 0, 0, 0, 0, 0, 8⟩⟩),
    (word3 0x081BA04C 0x041C0003 0x00008032, .fmax ⟨tHdr, 1, 2, 3, 0, 0, tWait, ⟨0, 0, 0, 0, 0, 0, 8⟩⟩),
    (word3 0x081BA04D 0x041C0003 0x00008032, .fcmp ⟨tHdr, 1, 2, 3, 0, 0, tWait, ⟨0, 0, 0, 0, 0, 0, 8⟩⟩),
    (word3 0x081BA04E 0x041C0000 0x00008032, .fcvt ⟨tHdr, 1, 2, 0, 0, 0, tWait, ⟨0, 0, 0, 0, 0, 0, 8⟩⟩),
    (word3 0x081BA04F 0x041C0000 0x00008032, .fclass ⟨tHdr, 1, 2, 0, 0, 0, tWait, ⟨0, 0, 0, 0, 0, 0, 8⟩⟩)] : List (BitVec 96 × Instr)), decode p.1 = .ok p.2 := by decide
theorem test_decodeVector : ∀ p ∈ ([(word3 0x081BA080 0x041C0003 0x0A091032, .vadd ⟨tHdr, 1, 2, 3, 0, 0, tWait, ⟨0, 1, 2, 0, 1, 1, 1⟩⟩),
    (word3 0x081BA081 0x041C0003 0x0A091032, .vsub ⟨tHdr, 1, 2, 3, 0, 0, tWait, ⟨0, 1, 2, 0, 1, 1, 1⟩⟩),
    (word3 0x081BA082 0x041C0003 0x0A091032, .vmul ⟨tHdr, 1, 2, 3, 0, 0, tWait, ⟨0, 1, 2, 0, 1, 1, 1⟩⟩),
    (word3 0x081BA083 0x041C0143 0x0A091032, .vfma ⟨tHdr, 1, 2, 3, 5, 0, tWait, ⟨0, 1, 2, 0, 1, 1, 1⟩⟩),
    (word3 0x081BA084 0x041C0143 0x0A091032, .vfms ⟨tHdr, 1, 2, 3, 5, 0, tWait, ⟨0, 1, 2, 0, 1, 1, 1⟩⟩),
    (word3 0x081BA085 0x041C0003 0x00001032, .vmin ⟨tHdr, 1, 2, 3, 0, 0, tWait, ⟨0, 0, 0, 0, 0, 0, 1⟩⟩),
    (word3 0x081BA086 0x041C0003 0x00001032, .vmax ⟨tHdr, 1, 2, 3, 0, 0, tWait, ⟨0, 0, 0, 0, 0, 0, 1⟩⟩),
    (word3 0x081BA087 0x041C0000 0x00001032, .vabs ⟨tHdr, 1, 2, 0, 0, 0, tWait, ⟨0, 0, 0, 0, 0, 0, 1⟩⟩),
    (word3 0x081BA088 0x041C0000 0x00001032, .vneg ⟨tHdr, 1, 2, 0, 0, 0, tWait, ⟨0, 0, 0, 0, 0, 0, 1⟩⟩),
    (word3 0x081BA089 0x041C0003 0x00001032, .vand ⟨tHdr, 1, 2, 3, 0, 0, tWait, ⟨0, 0, 0, 0, 0, 0, 1⟩⟩),
    (word3 0x081BA08A 0x041C0003 0x00001032, .vor ⟨tHdr, 1, 2, 3, 0, 0, tWait, ⟨0, 0, 0, 0, 0, 0, 1⟩⟩),
    (word3 0x081BA08B 0x041C0003 0x00001032, .vxor ⟨tHdr, 1, 2, 3, 0, 0, tWait, ⟨0, 0, 0, 0, 0, 0, 1⟩⟩),
    (word3 0x081BA08C 0x041C0003 0x00001032, .vshl (.r ⟨tHdr, 1, 2, 3, 0, 0, tWait, ⟨0, 0, 0, 0, 0, 0, 1⟩⟩)),
    (word3 0x081BA48C 0x00010203 0x00001032, .vshl (.i ⟨tHdr, 1, 2, 0x10203, ⟨0, 0, 0, 0, 0, 0, 1⟩⟩)),
    (word3 0x081BA08D 0x041C0003 0x00001032, .vshr (.r ⟨tHdr, 1, 2, 3, 0, 0, tWait, ⟨0, 0, 0, 0, 0, 0, 1⟩⟩)),
    (word3 0x081BA48D 0x00010203 0x00001032, .vshr (.i ⟨tHdr, 1, 2, 0x10203, ⟨0, 0, 0, 0, 0, 0, 1⟩⟩)),
    (word3 0x081BA08E 0x041C0003 0x00001032, .vcmp ⟨tHdr, 1, 2, 3, 0, 0, tWait, ⟨0, 0, 0, 0, 0, 0, 1⟩⟩),
    (word3 0x081BA08F 0x041C0003 0x00001032, .vsel ⟨tHdr, 1, 2, 3, 0, 0, tWait, ⟨0, 0, 0, 0, 0, 0, 1⟩⟩),
    (word3 0x081BA090 0x041C0003 0x0A092032, .vcvt ⟨tHdr, 1, 2, 3, 0, 0, tWait, ⟨0, 1, 2, 0, 1, 1, 2⟩⟩),
    (word3 0x081BA091 0x041C0143 0x0A091032, .vdot ⟨tHdr, 1, 2, 3, 5, 0, tWait, ⟨0, 1, 2, 0, 1, 1, 1⟩⟩),
    (word3 0x081BA092 0x041C0003 0x0A098032, .vscl ⟨tHdr, 1, 2, 3, 0, 0, tWait, ⟨0, 1, 2, 0, 1, 1, 8⟩⟩),
    (word3 0x081BA093 0x041C0000 0x00001032, .vmov ⟨tHdr, 1, 2, 0, 0, 0, tWait, ⟨0, 0, 0, 0, 0, 0, 1⟩⟩),
    (word3 0x081BA094 0x041C0000 0x00001032, .vbcast (.r ⟨tHdr, 1, 2, 0, 0, 0, tWait, ⟨0, 0, 0, 0, 0, 0, 1⟩⟩)),
    (word3 0x001BA494 0x00010203 0x00001032, .vbcast (.i ⟨tHdr, 1, 0, 0x10203, ⟨0, 0, 0, 0, 0, 0, 1⟩⟩)),
    (word3 0x081BA095 0x041C0003 0x00001032, .vins ⟨tHdr, 1, 2, 3, 0, 0, tWait, ⟨0, 0, 0, 0, 0, 0, 1⟩⟩),
    (word3 0x081BA096 0x041C0003 0x00001032, .vext ⟨tHdr, 1, 2, 3, 0, 0, tWait, ⟨0, 0, 0, 0, 0, 0, 1⟩⟩),
    (word3 0x081BA097 0x041C0143 0x00001032, .vclamp ⟨tHdr, 1, 2, 3, 5, 0, tWait, ⟨0, 0, 0, 0, 0, 0, 1⟩⟩),
    (word3 0x081BA098 0x041C0003 0x00000032, .kand ⟨tHdr, 1, 2, 3, 0, 0, tWait, ⟨0, 0, 0, 0, 0, 0, 0⟩⟩),
    (word3 0x081BA099 0x041C0003 0x00000032, .kor ⟨tHdr, 1, 2, 3, 0, 0, tWait, ⟨0, 0, 0, 0, 0, 0, 0⟩⟩),
    (word3 0x081BA09A 0x041C0003 0x00000032, .kxor ⟨tHdr, 1, 2, 3, 0, 0, tWait, ⟨0, 0, 0, 0, 0, 0, 0⟩⟩),
    (word3 0x081BA09B 0x041C0000 0x00000032, .knot ⟨tHdr, 1, 2, 0, 0, 0, tWait, ⟨0, 0, 0, 0, 0, 0, 0⟩⟩),
    (word3 0x081BA09C 0x041C0000 0x00001032, .kpop ⟨tHdr, 1, 2, 0, 0, 0, tWait, ⟨0, 0, 0, 0, 0, 0, 1⟩⟩),
    (word3 0x081BA09D 0x041C0000 0x00001032, .kfirst ⟨tHdr, 1, 2, 0, 0, 0, tWait, ⟨0, 0, 0, 0, 0, 0, 1⟩⟩),
    (word3 0x081BA09E 0x041C0000 0x00001032, .kset (.r ⟨tHdr, 1, 2, 0, 0, 0, tWait, ⟨0, 0, 0, 0, 0, 0, 1⟩⟩)),
    (word3 0x001BA49E 0x00010203 0x00001032, .kset (.i ⟨tHdr, 1, 0, 0x10203, ⟨0, 0, 0, 0, 0, 0, 1⟩⟩)),
    (word3 0x081BA09F 0x041C0000 0x00000032, .kmov ⟨tHdr, 1, 2, 0, 0, 0, tWait, ⟨0, 0, 0, 0, 0, 0, 0⟩⟩)] : List (BitVec 96 × Instr)), decode p.1 = .ok p.2 := by decide
theorem test_decodeSpecial : ∀ p ∈ ([(word3 0x081BA0E0 0x041C0000 0x0A098032, .vrcp ⟨tHdr, 1, 2, 0, 0, 0, tWait, ⟨0, 1, 2, 0, 1, 1, 8⟩⟩),
    (word3 0x081BA0E1 0x041C0000 0x0A098032, .vrsq ⟨tHdr, 1, 2, 0, 0, 0, tWait, ⟨0, 1, 2, 0, 1, 1, 8⟩⟩),
    (word3 0x081BA0E2 0x041C0000 0x0A098032, .vsqrt ⟨tHdr, 1, 2, 0, 0, 0, tWait, ⟨0, 1, 2, 0, 1, 1, 8⟩⟩),
    (word3 0x081BA0E3 0x041C0000 0x00008032, .vexp2 ⟨tHdr, 1, 2, 0, 0, 0, tWait, ⟨0, 0, 0, 0, 0, 0, 8⟩⟩),
    (word3 0x081BA0E4 0x041C0000 0x00008032, .vlog2 ⟨tHdr, 1, 2, 0, 0, 0, tWait, ⟨0, 0, 0, 0, 0, 0, 8⟩⟩),
    (word3 0x081BA0E5 0x041C0000 0x00008032, .vsin ⟨tHdr, 1, 2, 0, 0, 0, tWait, ⟨0, 0, 0, 0, 0, 0, 8⟩⟩),
    (word3 0x081BA0E6 0x041C0000 0x00008032, .vcos ⟨tHdr, 1, 2, 0, 0, 0, tWait, ⟨0, 0, 0, 0, 0, 0, 8⟩⟩),
    (word3 0x081BA0E7 0x041C0000 0x00008032, .vtanh ⟨tHdr, 1, 2, 0, 0, 0, tWait, ⟨0, 0, 0, 0, 0, 0, 8⟩⟩),
    (word3 0x081BA0E8 0x041C0000 0x00008032, .vsigm ⟨tHdr, 1, 2, 0, 0, 0, tWait, ⟨0, 0, 0, 0, 0, 0, 8⟩⟩),
    (word3 0x081BA0E9 0x041C0003 0x00008032, .vexpd ⟨tHdr, 1, 2, 3, 0, 0, tWait, ⟨0, 0, 0, 0, 0, 0, 8⟩⟩),
    (word3 0x081BA0EA 0x041C0000 0x00001032, .vredsum ⟨tHdr, 1, 2, 0, 0, 0, tWait, ⟨0, 0, 0, 0, 0, 0, 1⟩⟩),
    (word3 0x081BA0EB 0x041C0000 0x00001032, .vredmax ⟨tHdr, 1, 2, 0, 0, 0, tWait, ⟨0, 0, 0, 0, 0, 0, 1⟩⟩),
    (word3 0x081BA0EC 0x041C0000 0x00001032, .vredmin ⟨tHdr, 1, 2, 0, 0, 0, tWait, ⟨0, 0, 0, 0, 0, 0, 1⟩⟩),
    (word3 0x081BA0ED 0x041C0000 0x0A091032, .vscan ⟨tHdr, 1, 2, 0, 0, 0, tWait, ⟨0, 1, 2, 0, 1, 1, 1⟩⟩),
    (word3 0x081BA0EE 0x041C0003 0x00001032, .vperm ⟨tHdr, 1, 2, 3, 0, 0, tWait, ⟨0, 0, 0, 0, 0, 0, 1⟩⟩),
    (word3 0x081BA0EF 0x041C0143 0x00001032, .vshuf ⟨tHdr, 1, 2, 3, 5, 0, tWait, ⟨0, 0, 0, 0, 0, 0, 1⟩⟩),
    (word3 0x081BA0F0 0x041C0003 0x00001032, .vpack ⟨tHdr, 1, 2, 3, 0, 0, tWait, ⟨0, 0, 0, 0, 0, 0, 1⟩⟩),
    (word3 0x081BA0F1 0x041C0000 0x00001032, .vunpack ⟨tHdr, 1, 2, 0, 0, 0, tWait, ⟨0, 0, 0, 0, 0, 0, 1⟩⟩)] : List (BitVec 96 × Instr)), decode p.1 = .ok p.2 := by decide
theorem test_decodeStream : ∀ p ∈ ([(word3 0x081BA100 0x041C0003 0x00000032, .sbind ⟨tHdr, 1, 2, 3, 0, 0, tWait, ⟨0, 0, 0, 0, 0, 0, 0⟩⟩),
    (word3 0x081BA101 0x041C0003 0x00000032, .sdim (.r ⟨tHdr, 1, 2, 3, 0, 0, tWait, ⟨0, 0, 0, 0, 0, 0, 0⟩⟩)),
    (word3 0x001BA501 0x00010203 0x00000032, .sdim (.i ⟨tHdr, 1, 0, 0x10203, ⟨0, 0, 0, 0, 0, 0, 0⟩⟩)),
    (word3 0x001BA102 0x041C0000 0x00000032, .sstart ⟨tHdr, 1, 0, 0, 0, 0, tWait, ⟨0, 0, 0, 0, 0, 0, 0⟩⟩),
    (word3 0x001BA103 0x041C0000 0x00000032, .sstop ⟨tHdr, 1, 0, 0, 0, 0, tWait, ⟨0, 0, 0, 0, 0, 0, 0⟩⟩),
    (word3 0x081BA104 0x041C0000 0x00000032, .swait ⟨tHdr, 1, 2, 0, 0, 0, tWait, ⟨0, 0, 0, 0, 0, 0, 0⟩⟩),
    (word3 0x000BAD05 0x02345678 0x00000032, .frep ⟨tHdr, 0, 0, 0x2345678, 0, 0⟩)] : List (BitVec 96 × Instr)), decode p.1 = .ok p.2 := by decide
theorem test_decodeMatrix : ∀ p ∈ ([(word3 0x000BA120 0x041C0000 0x00000032, .mcfg ⟨tHdr, 0, 0, 0, 0, 0, tWait, ⟨0, 0, 0, 0, 0, 0, 0⟩⟩),
    (word3 0x001BA121 0x041C0000 0x00000032, .mzero ⟨tHdr, 1, 0, 0, 0, 0, tWait, ⟨0, 0, 0, 0, 0, 0, 0⟩⟩),
    (word3 0x081BA922 0x041DFD43 0x8169A032, .mlda ⟨tHdr, 1, 2, 3, 0x7F5, tWait, 1, 0, 0, 5, 2, 0x9A⟩),
    (word3 0x081BA923 0x041DFD43 0x8169A032, .mldb ⟨tHdr, 1, 2, 3, 0x7F5, tWait, 1, 0, 0, 5, 2, 0x9A⟩),
    (word3 0x080BA124 0x041C0003 0x00000032, .mscl ⟨tHdr, 0, 2, 3, 0, 0, tWait, ⟨0, 0, 0, 0, 0, 0, 0⟩⟩),
    (word3 0x001BA125 0x041C0000 0x40004032, .mma ⟨tHdr, 1, 0, 0, 0, 0, tWait, ⟨4, 0, 0, 0, 0, 0, 4⟩⟩),
    (word3 0x001BA126 0x041C0000 0x1010F032, .mmas ⟨tHdr, 1, 0, 0, 0, 0, tWait, ⟨1, 0, 0, 1, 0, 0, 15⟩⟩),
    (word3 0x081BA927 0x041DFD43 0x8169A032, .mdrain ⟨tHdr, 1, 2, 3, 0x7F5, tWait, 1, 0, 0, 5, 2, 0x9A⟩),
    (word3 0x081BA128 0x041C0003 0x00000032, .mhand ⟨tHdr, 1, 2, 3, 0, 0, tWait, ⟨0, 0, 0, 0, 0, 0, 0⟩⟩),
    (word3 0x081BA129 0x041C0003 0x00002032, .mrowrd ⟨tHdr, 1, 2, 3, 0, 0, tWait, ⟨0, 0, 0, 0, 0, 0, 2⟩⟩),
    (word3 0x081BA12A 0x041C0003 0x00002032, .mrowwr ⟨tHdr, 1, 2, 3, 0, 0, tWait, ⟨0, 0, 0, 0, 0, 0, 2⟩⟩),
    (word3 0x081BA92B 0x041DFD43 0x0169A032, .msave ⟨tHdr, 1, 2, 3, 0x7F5, tWait, 0, 0, 0, 5, 2, 0x9A⟩),
    (word3 0x081BA92C 0x041DFD43 0x0169A032, .mrest ⟨tHdr, 1, 2, 3, 0x7F5, tWait, 0, 0, 0, 5, 2, 0x9A⟩),
    (word3 0x001BA12D 0x041C0000 0x00000032, .mstat ⟨tHdr, 1, 0, 0, 0, 0, tWait, ⟨0, 0, 0, 0, 0, 0, 0⟩⟩)] : List (BitVec 96 × Instr)), decode p.1 = .ok p.2 := by decide
theorem test_decodeFrame : ∀ p ∈ ([(word3 0x081BA140 0x041C6143 0x00000032, .fpush ⟨tHdr, 1, 2, 3, 5, 6, tWait, ⟨0, 0, 0, 0, 0, 0, 0⟩⟩),
    (word3 0x001BA141 0x041C0000 0x00000032, .fpop ⟨tHdr, 1, 0, 0, 0, 0, tWait, ⟨0, 0, 0, 0, 0, 0, 0⟩⟩),
    (word3 0x080BA142 0x041C0000 0x00000032, .fdrop ⟨tHdr, 0, 2, 0, 0, 0, tWait, ⟨0, 0, 0, 0, 0, 0, 0⟩⟩),
    (word3 0x080BA143 0x041C0000 0x00000032, .fenter ⟨tHdr, 0, 2, 0, 0, 0, tWait, ⟨0, 0, 0, 0, 0, 0, 0⟩⟩),
    (word3 0x080BA144 0x041C0003 0x00000032, .farg ⟨tHdr, 0, 2, 3, 0, 0, tWait, ⟨0, 0, 0, 0, 0, 0, 0⟩⟩),
    (word3 0x080BA145 0x041C0003 0x00000032, .fkeep ⟨tHdr, 0, 2, 3, 0, 0, tWait, ⟨0, 0, 0, 0, 0, 0, 0⟩⟩),
    (word3 0x080BA146 0x041C0000 0x00000032, .fseal ⟨tHdr, 0, 2, 0, 0, 0, tWait, ⟨0, 0, 0, 0, 0, 0, 0⟩⟩),
    (word3 0x080BA147 0x041C0000 0x00000032, .fshare ⟨tHdr, 0, 2, 0, 0, 0, tWait, ⟨0, 0, 0, 0, 0, 0, 0⟩⟩),
    (word3 0x081BA148 0x041C0000 0x00000032, .fappend (.r ⟨tHdr, 1, 2, 0, 0, 0, tWait, ⟨0, 0, 0, 0, 0, 0, 0⟩⟩)),
    (word3 0x001BA548 0x00010203 0x00000032, .fappend (.i ⟨tHdr, 1, 0, 0x10203, ⟨0, 0, 0, 0, 0, 0, 0⟩⟩)),
    (word3 0x080BA149 0x041C0000 0x00000032, .fwin (.r ⟨tHdr, 0, 2, 0, 0, 0, tWait, ⟨0, 0, 0, 0, 0, 0, 0⟩⟩)),
    (word3 0x000BA549 0x00010203 0x00000032, .fwin (.i ⟨tHdr, 0, 0, 0x10203, ⟨0, 0, 0, 0, 0, 0, 0⟩⟩)),
    (word3 0x081BA14A 0x041C0003 0x00000032, .fvis ⟨tHdr, 1, 2, 3, 0, 0, tWait, ⟨0, 0, 0, 0, 0, 0, 0⟩⟩),
    (word3 0x081BA14B 0x041C0003 0x00000032, .fdesc (.r ⟨tHdr, 1, 2, 3, 0, 0, tWait, ⟨0, 0, 0, 0, 0, 0, 0⟩⟩)),
    (word3 0x081BA54B 0x00000002 0x00000032, .fdesc (.i ⟨tHdr, 1, 2, 0x2, ⟨0, 0, 0, 0, 0, 0, 0⟩⟩)),
    (word3 0x081BA14C 0x041C0003 0x00000032, .fmask ⟨tHdr, 1, 2, 3, 0, 0, tWait, ⟨0, 0, 0, 0, 0, 0, 0⟩⟩)] : List (BitVec 96 × Instr)), decode p.1 = .ok p.2 := by decide
theorem test_decodeWave : ∀ p ∈ ([(word3 0x080BA160 0x041C0143 0x00000032, .wcfg (.r ⟨tHdr, 0, 2, 3, 5, 0, tWait, ⟨0, 0, 0, 0, 0, 0, 0⟩⟩)),
    (word3 0x000BAD60 0x02345678 0x00000032, .wcfg (.x ⟨tHdr, 0, 0, 0x2345678, 0, 0⟩)),
    (word3 0x080BA161 0x041C0003 0x00000032, .wband (.r ⟨tHdr, 0, 2, 3, 0, 0, tWait, ⟨0, 0, 0, 0, 0, 0, 0⟩⟩)),
    (word3 0x000BA561 0x00010203 0x00000032, .wband (.i ⟨tHdr, 0, 0, 0x10203, ⟨0, 0, 0, 0, 0, 0, 0⟩⟩)),
    (word3 0x081BA162 0x041C0143 0x00000032, .wseq ⟨tHdr, 1, 2, 3, 5, 0, tWait, ⟨0, 0, 0, 0, 0, 0, 0⟩⟩),
    (word3 0x081BA163 0x041C6143 0x00000032, .wtile ⟨tHdr, 1, 2, 3, 5, 6, tWait, ⟨0, 0, 0, 0, 0, 0, 0⟩⟩),
    (word3 0x081BA964 0x041DFD43 0x8169A032, .wbget ⟨tHdr, 1, 2, 3, 0x7F5, tWait, 1, 0, 0, 5, 2, 0x9A⟩),
    (word3 0x081BA965 0x041DFD43 0x8169A032, .wbput ⟨tHdr, 1, 2, 3, 0x7F5, tWait, 1, 0, 0, 5, 2, 0x9A⟩),
    (word3 0x081BA166 0x041C0003 0x00000032, .tbwalk ⟨tHdr, 1, 2, 3, 0, 0, tWait, ⟨0, 0, 0, 0, 0, 0, 0⟩⟩)] : List (BitVec 96 × Instr)), decode p.1 = .ok p.2 := by decide
theorem test_decodeTransform : ∀ p ∈ ([(word3 0x081BA170 0x041C6143 0x00000032, .xexp ⟨tHdr, 1, 2, 3, 5, 6, tWait, ⟨0, 0, 0, 0, 0, 0, 0⟩⟩),
    (word3 0x081BA171 0x041C6143 0x00000032, .xcmp ⟨tHdr, 1, 2, 3, 5, 6, tWait, ⟨0, 0, 0, 0, 0, 0, 0⟩⟩),
    (word3 0x081BA172 0x041C6143 0x10000032, .xquant ⟨tHdr, 1, 2, 3, 5, 6, tWait, ⟨1, 0, 0, 0, 0, 0, 0⟩⟩),
    (word3 0x081BA173 0x041C6003 0x10000032, .xconv ⟨tHdr, 1, 2, 3, 0, 6, tWait, ⟨1, 0, 0, 0, 0, 0, 0⟩⟩),
    (word3 0x001BA174 0x041C0000 0x00000032, .xpoll ⟨tHdr, 1, 0, 0, 0, 0, tWait, ⟨0, 0, 0, 0, 0, 0, 0⟩⟩)] : List (BitVec 96 × Instr)), decode p.1 = .ok p.2 := by decide
theorem test_decodeMemory : ∀ p ∈ ([(word3 0x081BA980 0x041DFD43 0xB269A032, .ld ⟨tHdr, 1, 2, 3, 0x7F5, tWait, 1, 3, 1, 1, 2, 0x9A⟩),
    (word3 0x081BA981 0x041DFD43 0x3469A032, .st ⟨tHdr, 1, 2, 3, 0x7F5, tWait, 0, 3, 2, 1, 2, 0x9A⟩),
    (word3 0x081BA982 0x041DFD43 0x3329A032, .ldc ⟨tHdr, 1, 2, 3, 0x7F5, tWait, 0, 3, 1, 4, 2, 0x9A⟩),
    (word3 0x081BA983 0x041DFD43 0x3529A032, .stc ⟨tHdr, 1, 2, 3, 0x7F5, tWait, 0, 3, 2, 4, 2, 0x9A⟩),
    (word3 0x081BA984 0x041DFD43 0x3369A032, .vld ⟨tHdr, 1, 2, 3, 0x7F5, tWait, 0, 3, 1, 5, 2, 0x9A⟩),
    (word3 0x081BA985 0x041DFD43 0x3569A032, .vst ⟨tHdr, 1, 2, 3, 0x7F5, tWait, 0, 3, 2, 5, 2, 0x9A⟩),
    (word3 0x081BA986 0x041DFD43 0x8069A032, .vldg ⟨tHdr, 1, 2, 3, 0x7F5, tWait, 1, 0, 0, 1, 2, 0x9A⟩),
    (word3 0x081BA987 0x041DFD43 0x8069A032, .vsts ⟨tHdr, 1, 2, 3, 0x7F5, tWait, 1, 0, 0, 1, 2, 0x9A⟩),
    (word3 0x081BA988 0x041DFD43 0x8069A032, .ldfe ⟨tHdr, 1, 2, 3, 0x7F5, tWait, 1, 0, 0, 1, 2, 0x9A⟩),
    (word3 0x081BA989 0x041DFD43 0x8069A032, .stfe ⟨tHdr, 1, 2, 3, 0x7F5, tWait, 1, 0, 0, 1, 2, 0x9A⟩),
    (word3 0x080BA98A 0x041DFD43 0x0169A032, .pref ⟨tHdr, 0, 2, 3, 0x7F5, tWait, 0, 0, 0, 5, 2, 0x9A⟩),
    (word3 0x081BA18B 0x041C0143 0x00001032, .cpy ⟨tHdr, 1, 2, 3, 5, 0, tWait, ⟨0, 0, 0, 0, 0, 0, 1⟩⟩),
    (word3 0x080BA18C 0x041C0000 0x00000032, .cpyq ⟨tHdr, 0, 2, 0, 0, 0, tWait, ⟨0, 0, 0, 0, 0, 0, 0⟩⟩),
    (word3 0x000BA18D 0x041C0000 0x10100032, .fence ⟨tHdr, 0, 0, 0, 0, 0, tWait, ⟨1, 0, 0, 1, 0, 0, 0⟩⟩),
    (word3 0x080BA98E 0x041DFD43 0x0169A032, .lflush ⟨tHdr, 0, 2, 3, 0x7F5, tWait, 0, 0, 0, 5, 2, 0x9A⟩),
    (word3 0x080BA98F 0x041DFD43 0x0169A032, .linv ⟨tHdr, 0, 2, 3, 0x7F5, tWait, 0, 0, 0, 5, 2, 0x9A⟩),
    (word3 0x081BA990 0x041DFD43 0xB269A032, .ldm ⟨tHdr, 1, 2, 3, 0x7F5, tWait, 1, 3, 1, 1, 2, 0x9A⟩),
    (word3 0x080BA991 0x041DFD43 0x0029A032, .mig ⟨tHdr, 0, 2, 3, 0x7F5, tWait, 0, 0, 0, 0, 2, 0x9A⟩),
    (word3 0x000BA192 0x041C0000 0x00000032, .home ⟨tHdr, 0, 0, 0, 0, 0, tWait, ⟨0, 0, 0, 0, 0, 0, 0⟩⟩)] : List (BitVec 96 × Instr)), decode p.1 = .ok p.2 := by decide
theorem test_decodeAtomic : ∀ p ∈ ([(word3 0x081BA9C0 0x041DFD43 0xB2A9A032, .amoadd ⟨tHdr, 1, 2, 3, 0x7F5, tWait, 1, 3, 1, 2, 2, 0x9A⟩),
    (word3 0x081BA9C1 0x041DFD43 0xB2A9A032, .amomin ⟨tHdr, 1, 2, 3, 0x7F5, tWait, 1, 3, 1, 2, 2, 0x9A⟩),
    (word3 0x081BA9C2 0x041DFD43 0xB2A9A032, .amomax ⟨tHdr, 1, 2, 3, 0x7F5, tWait, 1, 3, 1, 2, 2, 0x9A⟩),
    (word3 0x081BA9C3 0x041DFD43 0xB2A9A032, .amoand ⟨tHdr, 1, 2, 3, 0x7F5, tWait, 1, 3, 1, 2, 2, 0x9A⟩),
    (word3 0x081BA9C4 0x041DFD43 0xB2A9A032, .amoor ⟨tHdr, 1, 2, 3, 0x7F5, tWait, 1, 3, 1, 2, 2, 0x9A⟩),
    (word3 0x081BA9C5 0x041DFD43 0xB2A9A032, .amoxor ⟨tHdr, 1, 2, 3, 0x7F5, tWait, 1, 3, 1, 2, 2, 0x9A⟩),
    (word3 0x081BA9C6 0x041DFD43 0xB2A9A032, .amoswp ⟨tHdr, 1, 2, 3, 0x7F5, tWait, 1, 3, 1, 2, 2, 0x9A⟩),
    (word3 0x081BA9C7 0x041DFD43 0xB2A9A032, .amocas ⟨tHdr, 1, 2, 3, 0x7F5, tWait, 1, 3, 1, 2, 2, 0x9A⟩),
    (word3 0x081BA9C8 0x041DFD43 0xB269A032, .amofadd ⟨tHdr, 1, 2, 3, 0x7F5, tWait, 1, 3, 1, 1, 2, 0x9A⟩),
    (word3 0x080BA9C9 0x041DFD43 0x80A9A032, .redadd ⟨tHdr, 0, 2, 3, 0x7F5, tWait, 1, 0, 0, 2, 2, 0x9A⟩),
    (word3 0x080BA9CA 0x041DFD43 0x80A9A032, .redmin ⟨tHdr, 0, 2, 3, 0x7F5, tWait, 1, 0, 0, 2, 2, 0x9A⟩),
    (word3 0x080BA9CB 0x041DFD43 0x80A9A032, .redmax ⟨tHdr, 0, 2, 3, 0x7F5, tWait, 1, 0, 0, 2, 2, 0x9A⟩),
    (word3 0x080BA9CC 0x041DFD43 0x8069A032, .redfadd ⟨tHdr, 0, 2, 3, 0x7F5, tWait, 1, 0, 0, 1, 2, 0x9A⟩)] : List (BitVec 96 × Instr)), decode p.1 = .ok p.2 := by decide
theorem test_decodeSync : ∀ p ∈ ([(word3 0x081BA9E0 0x041DFD43 0xB269A032, .mon ⟨tHdr, 1, 2, 3, 0x7F5, tWait, 1, 3, 1, 1, 2, 0x9A⟩),
    (word3 0x080BA9E1 0x041DFD43 0x0029A032, .unmon ⟨tHdr, 0, 2, 3, 0x7F5, tWait, 0, 0, 0, 0, 2, 0x9A⟩),
    (word3 0x081BA1E2 0x041C0000 0x00000032, .park ⟨tHdr, 1, 2, 0, 0, 0, tWait, ⟨0, 0, 0, 0, 0, 0, 0⟩⟩),
    (word3 0x080BA1E3 0x041C0000 0x10000032, .smset (.r ⟨tHdr, 0, 2, 0, 0, 0, tWait, ⟨1, 0, 0, 0, 0, 0, 0⟩⟩)),
    (word3 0x000BA5E3 0x00010203 0x00000032, .smset (.i ⟨tHdr, 0, 0, 0x10203, ⟨0, 0, 0, 0, 0, 0, 0⟩⟩)),
    (word3 0x001BA1E4 0x041C0000 0x10000032, .smrd ⟨tHdr, 1, 0, 0, 0, 0, tWait, ⟨1, 0, 0, 0, 0, 0, 0⟩⟩),
    (word3 0x081BA1E5 0x041C0000 0x10000032, .smadd (.r ⟨tHdr, 1, 2, 0, 0, 0, tWait, ⟨1, 0, 0, 0, 0, 0, 0⟩⟩)),
    (word3 0x001BA5E5 0x00010203 0x00000032, .smadd (.i ⟨tHdr, 1, 0, 0x10203, ⟨0, 0, 0, 0, 0, 0, 0⟩⟩)),
    (word3 0x081BA1E6 0x041C0000 0x10000032, .bar ⟨tHdr, 1, 2, 0, 0, 0, tWait, ⟨1, 0, 0, 0, 0, 0, 0⟩⟩),
    (word3 0x081BA1E7 0x041C0143 0x1000B032, .barmx ⟨tHdr, 1, 2, 3, 5, 0, tWait, ⟨1, 0, 0, 0, 0, 0, 11⟩⟩)] : List (BitVec 96 × Instr)), decode p.1 = .ok p.2 := by decide
theorem test_decodeControl : ∀ p ∈ ([(word3 0x000BA600 0x00010203 0x00000032, .br ⟨tHdr, 0, 0, 0x10203, ⟨0, 0, 0, 0, 0, 0, 0⟩⟩),
    (word3 0x080BA201 0x041C0000 0x00000032, .jmp ⟨tHdr, 0, 2, 0, 0, 0, tWait, ⟨0, 0, 0, 0, 0, 0, 0⟩⟩),
    (word3 0x080BA202 0x041C0000 0x00000032, .call (.r ⟨tHdr, 0, 2, 0, 0, 0, tWait, ⟨0, 0, 0, 0, 0, 0, 0⟩⟩)),
    (word3 0x000BA602 0x00010203 0x00000032, .call (.i ⟨tHdr, 0, 0, 0x10203, ⟨0, 0, 0, 0, 0, 0, 0⟩⟩)),
    (word3 0x080BA203 0x041C0000 0x00000032, .ret ⟨tHdr, 0, 2, 0, 0, 0, tWait, ⟨0, 0, 0, 0, 0, 0, 0⟩⟩),
    (word3 0x001BA604 0x00010203 0x00000032, .loop ⟨tHdr, 1, 0, 0x10203, ⟨0, 0, 0, 0, 0, 0, 0⟩⟩),
    (word3 0x000BA205 0x041C0000 0x00000032, .nop ⟨tHdr, 0, 0, 0, 0, 0, tWait, ⟨0, 0, 0, 0, 0, 0, 0⟩⟩)] : List (BitVec 96 × Instr)), decode p.1 = .ok p.2 := by decide
theorem test_decodeFibre : ∀ p ∈ ([(word3 0x081BA220 0x041C0143 0x10000032, .spawn ⟨tHdr, 1, 2, 3, 5, 0, tWait, ⟨1, 0, 0, 0, 0, 0, 0⟩⟩),
    (word3 0x000BA221 0x041C0000 0x00000032, .yield ⟨tHdr, 0, 0, 0, 0, 0, tWait, ⟨0, 0, 0, 0, 0, 0, 0⟩⟩),
    (word3 0x080BA222 0x041C0003 0x00000032, .awaitSm ⟨tHdr, 0, 2, 3, 0, 0, tWait, ⟨0, 0, 0, 0, 0, 0, 0⟩⟩),
    (word3 0x080BA222 0x041C0000 0x00100032, .awaitFull ⟨tHdr, 0, 2, 0, 0, 0, tWait, ⟨0, 0, 0, 1, 0, 0, 0⟩⟩),
    (word3 0x080BA222 0x041C0000 0x00200032, .awaitEmpty ⟨tHdr, 0, 2, 0, 0, 0, tWait, ⟨0, 0, 0, 2, 0, 0, 0⟩⟩),
    (word3 0x000BA223 0x041C0000 0x00000032, .exit ⟨tHdr, 0, 0, 0, 0, 0, tWait, ⟨0, 0, 0, 0, 0, 0, 0⟩⟩),
    (word3 0x081BA224 0x041C0143 0x10000032, .callat ⟨tHdr, 1, 2, 3, 5, 0, tWait, ⟨1, 0, 0, 0, 0, 0, 0⟩⟩),
    (word3 0x081BA224 0x041C0143 0x10100032, .callatW ⟨tHdr, 1, 2, 3, 5, 0, tWait, ⟨1, 0, 0, 1, 0, 0, 0⟩⟩),
    (word3 0x080BA225 0x041C0003 0x10000032, .reply ⟨tHdr, 0, 2, 3, 0, 0, tWait, ⟨1, 0, 0, 0, 0, 0, 0⟩⟩),
    (word3 0x080BA226 0x041C0000 0x00000032, .tjoin ⟨tHdr, 0, 2, 0, 0, 0, tWait, ⟨0, 0, 0, 0, 0, 0, 0⟩⟩),
    (word3 0x080BA227 0x041C0000 0x00000032, .tleave ⟨tHdr, 0, 2, 0, 0, 0, tWait, ⟨0, 0, 0, 0, 0, 0, 0⟩⟩),
    (word3 0x081BA228 0x041C0000 0x00000032, .tqry ⟨tHdr, 1, 2, 0, 0, 0, tWait, ⟨0, 0, 0, 0, 0, 0, 0⟩⟩),
    (word3 0x080BA229 0x041C0000 0x00000032, .prio (.r ⟨tHdr, 0, 2, 0, 0, 0, tWait, ⟨0, 0, 0, 0, 0, 0, 0⟩⟩)),
    (word3 0x000BA629 0x00000002 0x00000032, .prio (.i ⟨tHdr, 0, 0, 0x2, ⟨0, 0, 0, 0, 0, 0, 0⟩⟩)),
    (word3 0x001BA22A 0x041C0000 0x00000032, .rclk ⟨tHdr, 1, 0, 0, 0, 0, tWait, ⟨0, 0, 0, 0, 0, 0, 0⟩⟩),
    (word3 0x080BA22B 0x041C0000 0x00000032, .rcadv (.r ⟨tHdr, 0, 2, 0, 0, 0, tWait, ⟨0, 0, 0, 0, 0, 0, 0⟩⟩)),
    (word3 0x000BA62B 0x00010203 0x00000032, .rcadv (.i ⟨tHdr, 0, 0, 0x10203, ⟨0, 0, 0, 0, 0, 0, 0⟩⟩))] : List (BitVec 96 × Instr)), decode p.1 = .ok p.2 := by decide
theorem test_decodeCap : ∀ p ∈ ([(word3 0x081BA240 0x041C0000 0x00000032, .cgeta ⟨tHdr, 1, 2, 0, 0, 0, tWait, ⟨0, 0, 0, 0, 0, 0, 0⟩⟩),
    (word3 0x081BA241 0x041C0000 0x00000032, .cgetb ⟨tHdr, 1, 2, 0, 0, 0, tWait, ⟨0, 0, 0, 0, 0, 0, 0⟩⟩),
    (word3 0x081BA242 0x041C0000 0x00000032, .cgetl ⟨tHdr, 1, 2, 0, 0, 0, tWait, ⟨0, 0, 0, 0, 0, 0, 0⟩⟩),
    (word3 0x081BA243 0x041C0000 0x00000032, .cgetp ⟨tHdr, 1, 2, 0, 0, 0, tWait, ⟨0, 0, 0, 0, 0, 0, 0⟩⟩),
    (word3 0x081BA244 0x041C0000 0x00000032, .ctag ⟨tHdr, 1, 2, 0, 0, 0, tWait, ⟨0, 0, 0, 0, 0, 0, 0⟩⟩),
    (word3 0x081BA245 0x041C0003 0x00000032, .cseta ⟨tHdr, 1, 2, 3, 0, 0, tWait, ⟨0, 0, 0, 0, 0, 0, 0⟩⟩),
    (word3 0x081BA246 0x041C0003 0x00000032, .cinc (.r ⟨tHdr, 1, 2, 3, 0, 0, tWait, ⟨0, 0, 0, 0, 0, 0, 0⟩⟩)),
    (word3 0x081BA646 0x00010203 0x00000032, .cinc (.i ⟨tHdr, 1, 2, 0x10203, ⟨0, 0, 0, 0, 0, 0, 0⟩⟩)),
    (word3 0x081BA247 0x041C0003 0x00000032, .cbnd (.r ⟨tHdr, 1, 2, 3, 0, 0, tWait, ⟨0, 0, 0, 0, 0, 0, 0⟩⟩)),
    (word3 0x081BA647 0x00010203 0x00000032, .cbnd (.i ⟨tHdr, 1, 2, 0x10203, ⟨0, 0, 0, 0, 0, 0, 0⟩⟩)),
    (word3 0x081BA248 0x041C0003 0x00000032, .cbnde (.r ⟨tHdr, 1, 2, 3, 0, 0, tWait, ⟨0, 0, 0, 0, 0, 0, 0⟩⟩)),
    (word3 0x081BA648 0x00010203 0x00000032, .cbnde (.i ⟨tHdr, 1, 2, 0x10203, ⟨0, 0, 0, 0, 0, 0, 0⟩⟩)),
    (word3 0x081BA249 0x041C0003 0x00000032, .cperm (.r ⟨tHdr, 1, 2, 3, 0, 0, tWait, ⟨0, 0, 0, 0, 0, 0, 0⟩⟩)),
    (word3 0x081BA649 0x00000203 0x00000032, .cperm (.i ⟨tHdr, 1, 2, 0x203, ⟨0, 0, 0, 0, 0, 0, 0⟩⟩)),
    (word3 0x081BA24A 0x041C0003 0x00000032, .cseal ⟨tHdr, 1, 2, 3, 0, 0, tWait, ⟨0, 0, 0, 0, 0, 0, 0⟩⟩),
    (word3 0x081BA24B 0x041C0003 0x00000032, .cunseal ⟨tHdr, 1, 2, 3, 0, 0, tWait, ⟨0, 0, 0, 0, 0, 0, 0⟩⟩),
    (word3 0x081BA24C 0x041C0000 0x00000032, .cclr ⟨tHdr, 1, 2, 0, 0, 0, tWait, ⟨0, 0, 0, 0, 0, 0, 0⟩⟩),
    (word3 0x081BA24D 0x041C0003 0x00000032, .csub ⟨tHdr, 1, 2, 3, 0, 0, tWait, ⟨0, 0, 0, 0, 0, 0, 0⟩⟩),
    (word3 0x081BA24E 0x041C0000 0x00000032, .cmov ⟨tHdr, 1, 2, 0, 0, 0, tWait, ⟨0, 0, 0, 0, 0, 0, 0⟩⟩),
    (word3 0x080BA24F 0x041C0000 0x00000032, .crvkMark ⟨tHdr, 0, 2, 0, 0, 0, tWait, ⟨0, 0, 0, 0, 0, 0, 0⟩⟩),
    (word3 0x080BA24F 0x041C0000 0x00100032, .crvkClear ⟨tHdr, 0, 2, 0, 0, 0, tWait, ⟨0, 0, 0, 1, 0, 0, 0⟩⟩),
    (word3 0x080BA250 0x041C0000 0x00000032, .cswpStart ⟨tHdr, 0, 2, 0, 0, 0, tWait, ⟨0, 0, 0, 0, 0, 0, 0⟩⟩),
    (word3 0x080BA250 0x041C0000 0x00100032, .cswpAck ⟨tHdr, 0, 2, 0, 0, 0, tWait, ⟨0, 0, 0, 1, 0, 0, 0⟩⟩)] : List (BitVec 96 × Instr)), decode p.1 = .ok p.2 := by decide
theorem test_decodeSystem : ∀ p ∈ ([(word3 0x000BAE80 0x02345678 0x00000032, .trap ⟨tHdr, 0, 0, 0x2345678, 0, 0⟩),
    (word3 0x000BAE81 0x02345678 0x00000032, .ebrk ⟨tHdr, 0, 0, 0x2345678, 0, 0⟩),
    (word3 0x001BA682 0x00000000 0x00000032, .gsr ⟨tHdr, 1, 0, 0x0, ⟨0, 0, 0, 0, 0, 0, 0⟩⟩),
    (word3 0x080BA683 0x00000000 0x00000032, .ssr ⟨tHdr, 0, 2, 0x0, ⟨0, 0, 0, 0, 0, 0, 0⟩⟩),
    (word3 0x001BA284 0x041C0000 0x00000032, .trq ⟨tHdr, 1, 0, 0, 0, 0, tWait, ⟨0, 0, 0, 0, 0, 0, 0⟩⟩),
    (word3 0x081BA285 0x041C0000 0x00000032, .wfs ⟨tHdr, 1, 2, 0, 0, 0, tWait, ⟨0, 0, 0, 0, 0, 0, 0⟩⟩),
    (word3 0x080BA286 0x041C0000 0x00000032, .sretRetry ⟨tHdr, 0, 2, 0, 0, 0, tWait, ⟨0, 0, 0, 0, 0, 0, 0⟩⟩),
    (word3 0x080BA286 0x041C0000 0x00100032, .sretSkip ⟨tHdr, 0, 2, 0, 0, 0, tWait, ⟨0, 0, 0, 1, 0, 0, 0⟩⟩),
    (word3 0x080BA286 0x041C0003 0x00200032, .sretPc ⟨tHdr, 0, 2, 3, 0, 0, tWait, ⟨0, 0, 0, 2, 0, 0, 0⟩⟩),
    (word3 0x080BA286 0x041C0000 0x00300032, .sretWake ⟨tHdr, 0, 2, 0, 0, 0, tWait, ⟨0, 0, 0, 3, 0, 0, 0⟩⟩),
    (word3 0x081BA287 0x041C0003 0x00000032, .rdpk ⟨tHdr, 1, 2, 3, 0, 0, tWait, ⟨0, 0, 0, 0, 0, 0, 0⟩⟩),
    (word3 0x080BA288 0x041C0143 0x00000032, .wrpk ⟨tHdr, 0, 2, 3, 5, 0, tWait, ⟨0, 0, 0, 0, 0, 0, 0⟩⟩),
    (word3 0x081BA289 0x041C0000 0x00000032, .suspk ⟨tHdr, 1, 2, 0, 0, 0, tWait, ⟨0, 0, 0, 0, 0, 0, 0⟩⟩),
    (word3 0x081BA289 0x041C0000 0x00100032, .suspkQ ⟨tHdr, 1, 2, 0, 0, 0, tWait, ⟨0, 0, 0, 1, 0, 0, 0⟩⟩),
    (word3 0x000BAE8A 0x00000001 0x00001032, .hint ⟨tHdr, 0, 0, 0x1, 1, 0⟩),
    (word3 0x080BA683 0x00000044 0x00000032, .frec0Rearm ⟨tHdr, 0, 2, 0x44, ⟨0, 0, 0, 0, 0, 0, 0⟩⟩),
    (word3 0x080BA683 0x00000048 0x00000032, .trqstClear ⟨tHdr, 0, 2, 0x48, ⟨0, 0, 0, 0, 0, 0, 0⟩⟩),
    (word3 0x080BA683 0x00000081 0x00000032, .bmodeWrite ⟨tHdr, 0, 2, 0x81, ⟨0, 0, 0, 0, 0, 0, 0⟩⟩)] : List (BitVec 96 × Instr)), decode p.1 = .ok p.2 := by decide

/-! ### States that meet the hypotheses of the obligations

Each `witness_<Name>` gives a state and operands that meet, together, the hypotheses of a clause of `Obligations.<Name>`. -/

def okR {ε α : Type} (x : Except ε α) : Bool :=
  match x with
  | .ok _ => true
  | .error _ => false
/-- Work that answers has an answer. -/
theorem okR_ex {ε α : Type} {x : Except ε α} (h : okR x = true) : ∃ a, x = .ok a := by
  cases x with
  | ok a => exact ⟨a, rfl⟩
  | error e => cases h

/-- Every permission but FIFO; a capability for all of the memory of cluster 0, and one for the first 256 KiB of the global
addresses. -/
def wPerm : BitVec 12 := 0xDFF
def wLoc (a : Word := 0) : Cap := capMake wPerm 0 0 true 5 0 0x20000 a
def wGlob (a : Word := 0) : Cap := capMake wPerm 0 0 false 0 0 0x3FFFF a
/-- The supervisor's slot after reset, with the whole of its cluster's memory in its window, `xs` in x1, x2, … and `cs` in c1,
c2, …. -/
def wSlot (xs : List Word) (cs : List Cap) : Slot :=
  { State.reset.slot 15 with
    cmwin := 0x0040000000000000
    x := Vector.ofFn fun i => xs.getD (i.val - 1) 0
    c := Vector.ofFn fun i => cs.getD (i.val - 1) Cap.null }
def wS (xs : List Word := []) (cs : List Cap := [wLoc]) : State :=
  { (State.reset.onSlot 15).modCur (fun _ => wSlot xs cs) with bmode := Vector.replicate 64 0 }
/-- Work that answers with something that satisfies a test. -/
def okP {ε α : Type} (x : Except ε α) (p : α → Bool) : Bool :=
  match x with
  | .ok a => p a
  | .error _ => false
theorem okP_ex {ε α : Type} {x : Except ε α} {p : α → Bool} (h : okP x p = true) : ∃ a, x = .ok a ∧ p a = true := by
  cases x with
  | ok a => exact ⟨a, rfl, h⟩
  | error e => cases h
def wDo (s : State) (a : Act) : State := { s with act := some a }
theorem okP_eq {ε α : Type} [DecidableEq α] {x : Except ε α} {a : α} (h : okP x (fun b => decide (b = a)) = true) : x = .ok a := by
  cases x with
  | ok b => exact congrArg Except.ok (of_decide_eq_true h)
  | error e => cases h

/-! ### Scalars and vectors -/

theorem witness_IntegerResultIsReduced :
    (∃ m : ModF, tyInt m.ty = true ∧ m.sat = 1 ∧ tySigned m.ty = true) ∧
    ∃ m : ModF, tyInt m.ty = true ∧ m.sat = 0 ∧ tySigned m.ty = false :=
  ⟨⟨{ mdTy 0 with sat := 1 }, by decide⟩, ⟨mdTy 7, by decide⟩⟩
/-- 1 + 1, 1 - 1, 1 × 1, 1 × 1 + 1, 1 / 1 and the square root of 1 in binary32, the comparison and the conversion: no flag. -/
theorem witness_ScalarFloatInstructionsComplete :
    ∃ (s : State) (o q : ROp), let e := flEnv s o.md; let f := flFmt o.md; let a := flSrc o.md (s.rx o.oa);
      ∀ fl ∈ [(flAdd e f a a).2, (flSub e f a a).2, (flMul e f a a).2, (flFma e f a a a).2, (flDiv e f a a).2, (flSqrt e f a).2,
        (flCond o.md.sub.toNat (f.decode s.sl.tcx (s.rx o.oa).toNat) (f.decode s.sl.tcx (s.rx o.ob).toNat)).2,
        ((flFmt q.md).encode e.tcx e.rm e.sat ((Fmt.ofCode q.md.sub 0).decode e.tcx (s.rx q.oa).toNat)).2], masked s fl :=
  ⟨wS [0x3F800000], tR 1 1 1 (mdTy 8), tR 1 1 0 ⟨0, 0, 0, 8, 0, 0, 8⟩, by unfold masked; decide⟩
/-- 1 + 2^-149, 1 - 2^-149, 3 × 0.1, 3 × 0.1 + 1, 1 / 3 and the square root of 3 are inexact, as is 0.1 as an integer; a NaN is not
less than 3: with every flag enabled each traps. -/
theorem witness_ScalarFloatInstructionsComplete_traps :
    ∃ (s : State) (o q : ROp), let e := flEnv s o.md; let f := flFmt o.md; let a := flSrc o.md (s.rx 1); let b := flSrc o.md (s.rx 2);
      let c := flSrc o.md (s.rx 3); let d := flSrc o.md (s.rx 4);
      ∀ fl ∈ [(flAdd e f a c).2, (flSub e f a c).2, (flMul e f b d).2, (flFma e f b d a).2, (flDiv e f a b).2, (flSqrt e f b).2,
        (flCond 2 (f.decode s.sl.tcx (s.rx 5).toNat) (f.decode s.sl.tcx (s.rx 2).toNat)).2,
        ((flFmt q.md).encode e.tcx e.rm e.sat ((Fmt.ofCode q.md.sub 0).decode e.tcx (s.rx q.oa).toNat)).2], ¬ masked s fl :=
  ⟨(wS [0x3F800000, 0x40400000, 1, 0x3DCCCCCD, 0x7FC00000]).modCur fun sl => { sl with fmode := 0x1F }, tR 1 1 1 (mdTy 8),
    tR 1 4 0 ⟨0, 0, 0, 2, 0, 0, 8⟩, by unfold masked; decide⟩
theorem witness_VectorInstructionsComplete :
    ∃ (s : State) (o : ROp), (∃ vs, vecSources s o.od [o.oa, o.ob, o.oc] vs) ∧ (∃ vs, vecSources s o.od [o.oa] vs) ∧
      (∃ vs, vecSources s o.od [o.oa, o.ob] vs) ∧ vecSources s o.od [] [] ∧ (∃ vs, [o.oa, o.ob].mapM (readV s) = .ok vs) ∧
      masked s 0 ∧ ∃ fl, ¬ masked s fl :=
  ⟨(wS []).modCur fun sl => { sl with fmode := 0x10 }, tR 1 2 3, ⟨_, rfl, rfl⟩, ⟨_, rfl, rfl⟩, ⟨_, rfl, rfl⟩, ⟨rfl, rfl⟩, ⟨_, rfl⟩,
    by unfold masked; decide⟩

/-! ### Streams and repetition -/

/-- A started port of two rows in cluster memory. -/
def wPort (write started : Bool) (rows : List Row) (next : Nat := 0) : Port :=
  { Port.unbound with bound := true, write := write, started := started, cap := wLoc, cnt := #v[2, 1, 1, 1],
                      str := #v[128, 0, 0, 0], next := next, rows := rows }
def wPorts (p : Port) (q : Port := Port.unbound) : State := wS.modCur fun sl => { sl with ports := #v[p, q, p, q] }

theorem witness_StreamsComplete :
    (∃ (s : State) (o : ROp), (s.sl.port (portIx o.od)).bound = false ∧
      capCheckKind s.world (s.rc o.oa) (if o.md.sub = 1 then pW else pR) = none ∧ s.enginesUsed < 8) ∧
    (∃ (s : State) (q : RIOp), (s.sl.port (portIx (riOd q))).bound = true ∧ (s.sl.port (portIx (riOd q))).started = false ∧
      portSound s (portIx (riOd q)) = .ok ()) ∧
    (∃ (s : State) (i : Fin 4), (s.sl.port i).bound = true ∧ portSound s i = .ok () ∧ (s.sl.port i).started = false ∧
      (s.sl.port i).limitsOk = true ∧ (s.sl.port i).aligned = true ∧ (s.sl.port i).firstOut = none) ∧
    ∃ (s : State) (i : Fin 4), (s.sl.port i).bound = true ∧ portSound s i = .ok () ∧ (s.sl.port i).write = true ∧
      (s.sl.port i).rows = [] :=
  ⟨⟨wS, tR 3 1 0 (mdSub 1), by decide +kernel⟩, ⟨wPorts (wPort false false []), .i (tI 0 0 4), by decide +kernel, by decide +kernel, rfl⟩,
    ⟨wPorts (wPort false false []), 2, by decide +kernel, rfl, by decide +kernel⟩, ⟨wPorts (wPort true true []), 0, by decide +kernel, rfl, by decide +kernel⟩⟩
theorem witness_StreamsComplete_events :
    (∃ (s : State) (sl : SlotId) (i : Fin 4) (p : Port), p = (s.onSlot sl).sl.port i ∧ p.bound = true ∧
      s.act = some (.streamRowFetch sl i) ∧ p.started = true ∧ p.write = false ∧ p.rows.length < 8 ∧
      p.next + p.rows.length < p.total ∧
      okR (loadBytes (s.onSlot sl) p.cap (p.row (p.next + p.rows.length)) 128 pR 1 { nud := p.nud, lvl := p.lvl }) = true) ∧
    ∃ (s : State) (sl : SlotId) (i : Fin 4) (p : Port) (v wr : Line), p = (s.onSlot sl).sl.port i ∧ p.bound = true ∧
      s.act = some (.streamRowPerform sl i) ∧ p.write = true ∧ p.rows = [.ok v wr] ∧
      ∃ k : StoreAs, k = { hint := { nud := p.nud, lvl := p.lvl }, row := some (.row (s.slot sl).fib i (p.next - p.rows.length)) } ∧
      okP (storeNibbles (s.onSlot sl) p.cap (p.row (p.next - p.rows.length)) v wr k (rowNibbles wr))
        (fun t => okR (storeRuns t p.cap (p.row (p.next - p.rows.length)) k (rowRuns v wr 128).reverse)) = true :=
  ⟨⟨wDo (wPorts (wPort false true [.ok 5 0])) (.streamRowFetch 15 0), 15, 0, _, rfl, by decide +kernel, rfl, by decide +kernel, by decide +kernel,
      by decide +kernel, by decide +kernel, by decide +kernel⟩,
    ⟨wDo (wPorts (wPort true true [.ok 7 0xFF] 1)) (.streamRowPerform 15 0), 15, 0, _, 7, 0xFF, rfl, by decide +kernel, rfl, by decide +kernel, rfl,
      _, rfl, by decide +kernel⟩⟩
theorem witness_StreamsComplete_traps :
    ∃ (s t u : State) (v w y : Port), v = s.sl.port 0 ∧ v.bound = true ∧ v.started = true ∧ v.write = true ∧ (s.sl.port 1).bound = false ∧
      portOf s.sl 60 = some 0 ∧ portSound s 0 = .ok () ∧ w = t.sl.port 0 ∧ w.bound = true ∧ w.started = false ∧
      portOf t.sl 60 = some 0 ∧ portSound t 0 = .ok () ∧ w.limitsOk = false ∧ y = u.sl.port 1 ∧ y.started = true ∧ y.write = false ∧
      portOf u.sl 61 = some 1 ∧ y.total ≤ y.next ∧ portSound u 1 = .ok () ∧ (u.sl.port 0).started = true ∧
      portOf u.sl 60 = some 0 ∧ (u.sl.port 0).cap.tag = false :=
  ⟨wPorts (wPort true true []), wPorts { wPort false false [] with cnt := #v[0, 1, 1, 1] },
    wPorts { wPort false true [] with cap := Cap.null } (wPort false true [] 2), _, _, _, rfl, by decide +kernel, by decide +kernel, by decide +kernel, by decide +kernel,
    by decide +kernel, rfl, rfl, by decide +kernel, by decide +kernel, by decide +kernel, rfl, by decide +kernel, rfl, by decide +kernel, by decide +kernel, by decide +kernel, by decide +kernel, rfl,
    by decide +kernel, by decide +kernel, by decide +kernel⟩
theorem witness_StreamsComplete_startTraps :
    (∃ (s : State) (p : Port), p = s.sl.port 0 ∧ p.bound = true ∧ p.started = false ∧ portSound s 0 = .ok () ∧ p.limitsOk = true ∧
      p.aligned = false) ∧
    ∃ (s : State) (p : Port) (b : Int), p = s.sl.port 0 ∧ p.bound = true ∧ p.started = false ∧ portSound s 0 = .ok () ∧
      p.limitsOk = true ∧ p.aligned = true ∧ p.firstOut = some b :=
  ⟨⟨wPorts { wPort false false [] with str := #v[1, 0, 0, 0] }, _, rfl, by decide +kernel, by decide +kernel, rfl, by decide +kernel⟩,
    ⟨wPorts { wPort false false [] with cap := wLoc 0x3FFF80 }, _, 0x400000, rfl, by decide +kernel, by decide +kernel, rfl, by decide +kernel⟩⟩
/-- v60 and v61 are read ports of two rows each; v1 is no port. -/
theorem witness_ReadPortGivesRowsInOrder :
    ∃ (s : State) (o : ROp) (q : IOp) (v w : Line), (Instr.vor o, [o.oa, o.ob]) ∈ vecSourced o ∧ (Instr.vmov o, [o.oa]) ∈ vecSourced o ∧
      q.oa = o.oa ∧ q.hdr = o.hdr ∧ q.od = o.od ∧ s.sl.fmode.extractLsb' 0 5 = 0 ∧ tyI o.md.ty = true ∧ o.hdr.sigInc = 0 ∧
      portOf s.sl o.oa = some 0 ∧ portOf s.sl o.ob = some 1 ∧ portOf s.sl o.od = none ∧ Gives (s.sl.port 0) v [] ∧
      Gives (s.sl.port 1) w [] ∧ kmOf s.sl o.md = BitVec.allOnes 128 :=
  ⟨wPorts (wPort false true [.ok 5 0]) (wPort false true [.ok 6 0]), tR 1 60 61 (mdTy 2), tI 1 60 0, 5, 6, by decide, by decide, rfl, rfl, rfl,
    rfl, rfl, rfl, by decide +kernel, by decide +kernel, by decide +kernel, ⟨rfl, by decide +kernel, rfl, by decide +kernel, 0, rfl⟩,
    ⟨rfl, by decide +kernel, rfl, by decide +kernel, 0, rfl⟩, rfl⟩

/-- The code of the slot at address 0 of cluster memory: `i` follows the instruction at 0. -/
def wCode (i : Instr) : State :=
  (wS.writeBytes (locKey 12) (leBytes 12 ((encode i).getD 0).toNat)).modCur fun sl => { sl with pcc := wLoc 0 }
theorem witness_RepetitionCompletes :
    ∃ (s : State) (o q : XOp), okP (captureBlock s (s.sl.pc + 12) (o.sub.toNat + 1)) (fun r =>
      r.1 == [.vor (tR 1 2 3 (mdTy 2))] && decide (r.2.buffersUsed < 4)) = true ∧ o.imm.extractLsb' 0 16 = 0 ∧ q.sub = o.sub ∧ q.imm.extractLsb' 0 16 ≠ 0 :=
  ⟨wCode (.vor (tR 1 2 3 (mdTy 2))), ⟨noHdr, 0, 0, 0, 0, 0⟩, ⟨noHdr, 0, 0, 3, 0, 0⟩, by decide +kernel, by decide +kernel⟩
/-- Two blocks of one instruction: one to be passed over, one to have its effect. -/
def wRep (skip : Bool) : Rep := ⟨0, 3, 1, [.vor (tR 1 2 3 (mdTy 2))], 1, 0, 0, skip, none, none, false, false⟩
theorem witness_RepetitionCompletes_passes :
    ∃ (s t u : State) (r q : Rep) (ins : Instr) (opc : Nat) (b : Body), s.act = some (.repetitionPass 15) ∧
      (s.slot 15).rep = some r ∧ s.repRuns 15 = true ∧ r.block ≠ [] ∧ r.block[r.idx]? = some ins ∧ ins.parts = some (opc, b) ∧
      r.skip = true ∧ t.act = some (.repetitionPass 15) ∧
      (t.slot 15).rep = some q ∧ t.repRuns 15 = true ∧ q.block ≠ [] ∧ q.block[q.idx]? = some ins ∧ q.skip = false ∧
      u = (t.onSlot 15).issued.withWord ((encode ins).getD 0) ∧
      ({ u.sl with p := q.preds } : Slot).guards (bodyHdr b) = true ∧ semOut u.sl (semNames opc b) = none ∧
      u.semFail (semReads opc b) = none ∧ u.readsBad (q.staggered ins).1 = none ∧ (bodyWait b).thr = 0 ∧
      repLoads opc = false ∧ u.heldBack = false ∧
      (q.staggered ins).2.findSome? (portOf u.sl) = none ∧
      ((blockBody (q.staggered ins).1).any fun f => okR (f u)) = true :=
  ⟨wDo (wS.modCur fun sl => { sl with rep := some (wRep true) }) (.repetitionPass 15),
    wDo (wS.modCur fun sl => { sl with rep := some (wRep false) }) (.repetitionPass 15), _, wRep true, wRep false, _, _, _, by decide +kernel,
    by decide +kernel, by decide +kernel, by decide +kernel, rfl, rfl, by decide +kernel, by decide +kernel, by decide +kernel, by decide +kernel, by decide +kernel, by decide +kernel, by decide +kernel, rfl,
    by decide +kernel⟩

/-! ### The matrix unit -/

/-- A part that has arrived, and one that is on its way. -/
def wPart (here : Bool) : Part :=
  { Part.zero with desc := { LatchDesc.zero with valid := true }, plan := [none], rows := if here then some [] else none }
def wMat (kind : BitVec 2) (here : Bool := true) : Matrix :=
  { Matrix.reset with holder := some 15, kind := kind, ty := 8, parts := Vector.replicate 6 (wPart here) }
def wM (kind : BitVec 2) (here : Bool := true) : State := { wS [] [wLoc] with mat := wMat kind here }

theorem witness_MatrixUnitCompletes :
    ∃ (s t u : State) (o q : ROp),
      o.md.sub.extractLsb' 0 2 = 0 ∧ s.mat.holder ≠ some s.cur ∧ t.mat.holder = some t.cur ∧ t.mat.reload = false ∧
      okR (matIdle t) = true ∧ q.md.sub.extractLsb' 0 2 ≠ 0 ∧ s.mat.holder = none ∧
      cfgOk (Fmt.ofCode q.md.ty 0).isInt (s.rx q.oa) = true ∧ holdsMat t [1, 2] ∧ holdsMat u [0, 3] ∧
      o.oa = 0 ∧ q.oa ≠ 0 ∧ codeCheck t.world (t.rc q.oa) false = none :=
  ⟨wS, wM 1, wM 3, tR 0 0 0, tR 0 1 0 ⟨0, 0, 0, 1, 0, 0, 8⟩, by unfold holdsMat; decide +kernel⟩
/-- A drain that is to read its accumulator, or of which a row is to be written, or all have been. -/
def wDrain (row : Nat) (reading : Bool := false) : Drain :=
  ⟨15, 0, 0, reading, false, Vector.replicate 1024 0, row, 0, false, [], wLoc, 0, 8, false, false, 0x3F800000, 0x3F800000, 0, 0,
    Cap.null, 0, 0, 0, true, {}, 0, 0⟩
theorem witness_MatrixUnitCompletes_drains :
    ∃ (s t u r : State) (o : MOp) (d e : Drain) (cs : List (List Byte × Flags)), holdsMat s [1, 2] ∧
      okR (drainChecks s (s.rc o.oa) (mEa s o) (1024 * (laneBits s.mat.dty / 8))) = true ∧
      okR (accFree s (accIx o.od)) = true ∧ r.act = some .drainRowWrite ∧ r.mat.drains = [wDrain 0 true] ∧
      t.mat.drains.any (·.reading) = false ∧ d.halted = false ∧ e.lost = [] ∧
      t.act = some .drainRowWrite ∧ t.mat.drains = [d] ∧ d.row < 32 ∧
      cs = (List.range 32).map d.cell ∧
      okR (t.enginePut d.sl d.world (capLocal d.cap) (d.rowAt d.row) (cs.flatMap (·.1)) [] d.pc d.insn d.hint) = true ∧
      u.act = some .drainRowWrite ∧ u.mat.drains = [e] ∧ 32 ≤ e.row ∧
      u.mat.drains.any (·.reading) = false ∧ (List.range e.row).any (u.rowHeld e) = false :=
  ⟨wM 1, wDo { wM 1 with mat := { wMat 1 with drains := [wDrain 31] } } .drainRowWrite,
    wDo { wM 1 with mat := { wMat 1 with drains := [wDrain 32] } } .drainRowWrite,
    wDo { wM 1 with mat := { wMat 1 with drains := [wDrain 0 true] } } .drainRowWrite, tM 0 1 0 4, wDrain 31, wDrain 32, _,
    by unfold holdsMat; decide +kernel, by decide +kernel, by decide +kernel, rfl, rfl, rfl, rfl, rfl, rfl, rfl, by decide +kernel, rfl,
    by decide +kernel, rfl, rfl, by decide +kernel⟩
theorem witness_MatrixUnitCompletes_rows :
    ∃ (s : State) (o : ROp), holdsMat s [1, 2] ∧ o.md.ty = (if s.mat.fmt.isInt then 2 else 8) ∧ (s.rx o.ob).toNat < 32 ∧
      portOf s.sl o.od = none ∧ (s.rx o.oa).toNat < 32 ∧ portOf s.sl o.ob = none ∧ okR (accFree s (accIx o.oa)) = true ∧
      okR (accFree s (accIx o.od)) = true :=
  ⟨{ wS [31] with mat := wMat 1 }, tR 3 1 1 (mdTy 8), by unfold holdsMat; decide +kernel⟩
theorem witness_MatrixUnitCompletes_save :
    ∃ (s : State) (o : MOp) (b : Blob), holdsMat s [1, 2, 3] ∧ okR (matIdle s) = true ∧
      okR (accessChecks s (s.rc o.oa) (mEa s o) 17536 pW .plain 128) = true ∧
      okR (placed s (s.rc o.oa) (mEa s o) 17536 { w := true }) = true ∧ b = matrixBlob 0 1024 s.mat s.wave ∧
      okP (storeArea s (s.rc o.oa) (mHint o) (mEa s o) ((blobBytes b 1152).take 1024) (blobTags b)) (fun t =>
        okP (storeAccs t (s.rc o.oa) (mHint o) (mEa s o) (maskAccs o.od)) fun u =>
          okR (storeArea u (s.rc o.oa) (mHint o) (mEa s o + 17408) ((blobBytes b 1152).drop 1024) [])) = true :=
  ⟨{ wM 1 with mat := { wMat 1 with parts := Vector.replicate 6 Part.zero } }, tM 0 1 0 5, _, by unfold holdsMat; decide +kernel, by decide +kernel, by decide +kernel, by decide +kernel, rfl,
    by decide +kernel⟩
/-- The state after msave. -/
def nextOf (o : Out) : State :=
  match o with
  | .next t => t
  | _ => State.reset
theorem witness_MatrixUnitCompletes_restore :
    ∃ (s : State) (o : MOp), holdsMat s [1, 2, 3] ∧ okR (matIdle s) = true ∧
      okR (accessChecks s (s.rc o.oa) (mEa s o) 17536 pR .plain 128) = true ∧
      okR (placed s (s.rc o.oa) (mEa s o) 17536 { r := true }) = true ∧
      okP (loadGrans s (s.rc o.oa) (mEa s o) (mHint o) 64) (fun g => okP (loadBytes g.2 (s.rc o.oa) (mEa s o + 17408) 128 pR 1 (mHint o)) fun l =>
        savedOk ⟨(imgOf g.1).bytes ++ l.1, (imgOf g.1).tags⟩ &&
          okR (loadAccs l.2 (s.rc o.oa) (mHint o) (mEa s o) (matrixOf ⟨(imgOf g.1).bytes ++ l.1, (imgOf g.1).tags⟩ 0 1024 s.mat)
            (maskAccs o.od))) = true :=
  ⟨nextOf (exec (.msave (tM 0 1 0 5)) { wM 1 with mat := { wMat 1 with parts := Vector.replicate 6 Part.zero } }), tM 0 1 0 5, by unfold holdsMat; decide +kernel⟩
theorem witness_MatrixLatchesAndProductsComplete :
    ∃ (s t u : State) (o q : ROp) (m : MOp) (d : LatchDesc), holdsMat s [1, 2] ∧ m.x = 0 ∧
      d = { valid := true, gather := m.x == 1, token := m.x == 1 && s.mat.kind == 2, kgather := false && m.od.getLsbD 2, scales := false,
            base := s.rc m.oa, off := BitVec.ofNat 64 (mEa s m), qbase := 0, lanes := 0 } ∧
      okR (latchPart s s.mat (partIx false m.od) d { nud := m.nud, lvl := m.lvl }) = true ∧
      okR (matFree s (fun q => (partsRead q.sub q.apart).contains (partIx false m.od))) = true ∧
      t.act = some (.latchDataArrival 0) ∧ t.mat.holder = some 15 ∧ (t.mat.part 0).pending = true ∧ t.mat.reload = false ∧ okR (readPart (t.onSlot 15) t.mat (t.mat.part 0)) = true ∧
      u.act = some .latchReload ∧ u.mat.holder = some 15 ∧ u.mat.reload = true ∧ okR (reloadAll (u.onSlot 15)) = true ∧
      s.mat.busy = none ∧ s.mat.reads (accIx o.od) = false ∧ o.md.ty = s.mat.ty ∧ ((partsRead 0 (o.md.isp.extractLsb' 2 2)).all fun i => (s.mat.part i).desc.valid) = true ∧
      ((partsRead 0 (o.md.isp.extractLsb' 2 2)).all fun i => (s.mat.part i).err.isNone && (s.mat.part i).rows.isSome) = true ∧
      ((partsRead 0 (o.md.isp.extractLsb' 2 2)).filter fun i => (s.mat.part i).desc.token).length ≤ 1 ∧ q.md.ty = s.mat.ty ∧
      q.md.sub.extractLsb' 0 2 ≠ 0 ∧
      ((partsRead 1 0).all fun i => (s.mat.part i).err.isNone && (s.mat.part i).rows.isSome) = true ∧ (s.mat.part 4).bg = 0 ∧
      s.mat.bitmapsOk 1 = true ∧ ((partsRead 1 0).filter fun i => (s.mat.part i).desc.token).length = 0 :=
  ⟨wM 1, wDo (wM 1 false) (.latchDataArrival 0), wDo { wM 1 with mat := { wMat 1 with parts := Vector.replicate 6 Part.zero, reload := true } } .latchReload,
    tR 0 0 0 (mdTy 8), tR 0 0 0 ⟨0, 0, 0, 1, 0, 0, 8⟩, tM 0 1 0 5, _, by unfold holdsMat; decide +kernel, by decide +kernel, rfl, by decide +kernel⟩
theorem witness_MatrixLatchesAndProductsComplete_flags :
    (∃ s : State, s.act = some .accumulatorComplete ∧ s.mat.holder = some 15 ∧ (s.modMat Matrix.advanced).mat.busy = none) ∧
    (∃ s : State, s.act = some .accumulatorComplete ∧ s.mat.holder = some 15 ∧ (s.modMat Matrix.advanced).mat.busy.isSome = true) ∧
    ∃ (m : Matrix) (p : Stopped) (tcx r : Bool), m.busy = some ⟨p, tcx, r⟩ ∧ p.koff = 0 :=
  ⟨⟨wDo (wM 1) .accumulatorComplete, by decide +kernel⟩,
    ⟨wDo { wM 1 with mat := { wMat 1 with busy := some ⟨⟨0, 0, 0, 0, false⟩, false, false⟩ } } .accumulatorComplete, by decide +kernel⟩,
    { wMat 1 with busy := some ⟨⟨0, 0, 0, 0, false⟩, false, false⟩ }, ⟨0, 0, 0, 0, false⟩, false, false, rfl, rfl⟩

/-! ### Frames -/

/-- The capability of frame `i` of the table at the start of cluster memory. -/
def wTable (ot : BitVec 4) (i : Nat) : Cap := capMake wPerm 0 ot true 0 0 8192 (BitVec.ofNat 64 (128 * i))
/-- The bytes of the descriptor of frame 0: 4 of 8 tokens, live, with `fl` in byte 49. -/
def wRoot (fl : Byte := 0x80) : List Host.Cell := [(0x1000000000020, 4), (0x1000000000024, 8), (0x1000000000031, fl)]
/-- Frame `i` is current and in c2; `mem` holds the table; `xs` are in x1, x2, …. -/
def wF (i : Nat) (mem : List Host.Cell) (xs : List Word := []) (tags : List Nat := []) : State :=
  { wS xs [wLoc, wTable 2 i] with mem := mem, tags := tags }.modCur fun sl => { sl with c := sl.c.set 29 (wTable 2 i) }

theorem witness_FramesComplete_fields :
    ∃ (s : State) (u : State) (o : ROp) (q : RIOp), u = s.dropWorld s.world ∧
      okR (frameCheck u (u.rc o.oa)) = true ∧
      okP (cfrCheck u) (fun r => !(r.1.get r.2).sealedB && decide ((u.rx 1).toNat < 2 ^ 32) && decide ((u.rx 2).toNat < 2 ^ 32) &&
        (u.rx 3 == 0) && (u.rx 2 != 0) && (r.1.get ((u.rx 1).toNat / 2 ^ 26)).live &&
        decide ((r.1.get ((u.rx 1).toNat / 2 ^ 26)).edge ≤ (u.rx 1).toNat % 2 ^ 26) &&
        decide ((u.rx 1).toNat % 2 ^ 26 + (u.rx 2).toNat ≤ (r.1.get ((u.rx 1).toNat / 2 ^ 26)).len) &&
        decide ((u.rx 1).toNat + (u.rx 2).toNat ≤ (r.1.get r.2).len) && decide ((r.1.get r.2).edge ≤ (u.rx 1).toNat) &&
        (r.1.get r.2).win == 0 && okR (regOrImm32 u q (r.1.addr r.2))) = true :=
  ⟨wF 0 wRoot [1, 3, 0], _, tR 0 2 0, .i (tI 0 0 8), rfl, by decide +kernel⟩
theorem witness_FramesComplete_share :
    ∃ (s : State) (o : ROp), okP (frameCheck (s.dropWorld s.world) ((s.dropWorld s.world).rc o.oa)) (fun r =>
      (r.1.get r.2).sealedB && ((r.1.get r.2).kv.tag || capIsNull (r.1.get r.2).kv)) = true :=
  ⟨wF 0 (wRoot 0x90), tR 0 2 0, by decide +kernel⟩
/-- No current frame; then a capability without a tag, without the FRAME type, of another world, without FRAME, of another
shape, and of a frame that is not live. -/
theorem witness_FramesComplete_traps :
    ∃ (n s t : State), capIsNull (n.dropWorld n.world).cfr = true ∧ (s.rc 10).tag = false ∧
      ((s.rc 3).tag = true ∧ capOtype (s.rc 3) ≠ 2) ∧
      ((s.rc 4).tag = true ∧ capOtype (s.rc 4) = 2 ∧ (capWorld (s.rc 4)).toNat ≠ s.world.val) ∧
      ((s.rc 5).tag = true ∧ capOtype (s.rc 5) = 2 ∧ (capWorld (s.rc 5)).toNat = s.world.val ∧ capHas (s.rc 5) pFRAME = false) ∧
      ((s.rc 6).tag = true ∧ capOtype (s.rc 6) = 2 ∧ (capWorld (s.rc 6)).toNat = s.world.val ∧ capHas (s.rc 6) pFRAME = true ∧
        tableShape (s.rc 6) = false) ∧
      ((s.rc 7).tag = true ∧ capOtype (s.rc 7) = 2 ∧ (capWorld (s.rc 7)).toNat = s.world.val ∧ capHas (s.rc 7) pFRAME = true ∧
        tableShape (s.rc 7) = true ∧ okP (readTable (s.dropWorld s.world) (s.rc 7)) (fun t =>
          !(t.get (t.slotOf (s.rc 7))).live) = true) ∧
      okP (cfrCheck (t.dropWorld t.world)) (fun r => (r.1.get r.2).sealedB) = true ∧
      okP (frameCheck (s.dropWorld s.world) ((s.dropWorld s.world).rc 2)) (fun r => !(r.1.get r.2).sealedB) = true :=
  ⟨wS [] [], (wF 0 wRoot).modCur fun sl => { sl with c := Vector.ofFn fun i => [Cap.null, wLoc, wTable 2 0, wLoc,
      capMake wPerm 1 2 true 0 0 8192 0, capMake pR 0 2 true 0 0 8192 0, capMake wPerm 0 2 true 0 0 4096 0, wTable 2 1].getD i.val Cap.null },
    wF 0 (wRoot 0x90), by decide +kernel⟩
/-- A root frame pushed on a table, with a pool of 4 MiB; and a child of frame 0. -/
def wPool : Cap := capMake wPerm 0 0 false 5 0 0x20000 0
theorem witness_FramesComplete_push :
    ∃ (s : State) (o q : ROp), o.oc ≠ 0 ∧ q.oc = 0 ∧
      capCheckKind s.world (s.rc o.oa) (pR ||| pW) = none ∧ capLen (s.rc o.oa) % 2 ^ 22 = 0 ∧
      capBase (s.rc o.oa) % 2 ^ 16 = 0 ∧ q.oa = o.oa ∧ q.ob = o.ob ∧
      okP (pushRoot (s.dropWorld s.world) o) (fun p => (List.range 64).find? (fun i => !(p.t.get i).live) == some 1 && p.wordOk &&
        rowbOk p.rowb && decide ((s.rx o.ob).toNat % 2 ^ 32 ≤ capLen (s.rc o.oa) / 64 / p.rowb)) = true ∧
      okP (pushChild (s.dropWorld s.world) q) (fun p => (List.range 64).find? (fun i => !(p.t.get i).live) == some 1 && p.wordOk &&
        rowbOk p.rowb && decide ((s.rx q.ob).toNat % 2 ^ 32 ≤ capLen (s.rc q.oa) / 64 / p.rowb)) = true :=
  ⟨(wF 0 (wRoot 0x83 ++ [(0x100000000003D, 2)]) [128]).modCur fun sl =>
      { sl with c := (sl.c.set 3 wPool).set 4 (wTable 0 0) },
    { tR 5 3 1 with oc := 4, oe := 1 }, tR 5 3 1, by decide +kernel⟩
/-- Frame 1 is a child of frame 0, keeps nothing, and has no pages. -/
def wChild (sharers : Byte) : State :=
  wF 1 (wRoot ++ [(0x1000000000099, 0x20), (0x100000000009D, 0x28), (0x100000000009E, 0xF0), (0x100000000009F, 0xDF),
    (0x10000000000A0, 4), (0x10000000000A4, 8), (0x10000000000B1, 0x80), (0x10000000000B2, sharers)]) [] [0x100000000009]
/-- Of fpop; and, c2 being cfr, of an fdrop of the frame that frees it. -/
theorem witness_FramesComplete_pop :
    ∃ s : State, (s.dropWorld s.world).cfr = (s.dropWorld s.world).rc 2 ∧ okP (cfrCheck (s.dropWorld s.world)) (fun r =>
      let t := r.1; let c := t.get r.2; let gi := t.slotOf c.parent; let g := t.get gi; let u := s.dropWorld s.world;
      c.parent.tag && decide (c.sharers ≤ 1) && okR (childless u t r.2 64) && !c.keepset && decide (g.len + 0 ≤ g.cap) &&
        (c.kv.tag || capIsNull c.kv) && (g.kv.tag || capIsNull g.kv) &&
        okP (mapPages u (t.addr gi) (g.pages g.len (g.len + 0))) (fun s1 => okP (copyRows s1 c g 0 (t.addr r.2) 0 0) fun p =>
          okR (gathersRead p.1 (p.1.pagesBehind u.world (g.setFld 256 32 (g.len + 0)) ++ p.1.framePages u.world c)))) = true :=
  ⟨wChild 1, by decide +kernel⟩
theorem witness_FramesComplete_drop :
    ∃ (f : Byte → State) (o : ROp), ∀ n ∈ [255, 3],
      okP (frameCheck ((f n).dropWorld (f n).world) (((f n).dropWorld (f n).world).rc o.oa)) (fun r => let c := r.1.get r.2;
        let u := (f n).dropWorld (f n).world;
        (c.parent.tag || capIsNull c.parent) && (c.kv.tag || capIsNull c.kv) && c.sharers == n.toNat &&
          okP (cfrNames u r.1 r.2) (· == true)) = true :=
  ⟨wChild, tR 0 2 0, by decide +kernel⟩
theorem witness_FramesComplete_free :
    ∃ s : State, okP (frameCheck (s.dropWorld s.world) ((s.dropWorld s.world).rc 2)) (fun r => let c := r.1.get r.2;
      let u := s.dropWorld s.world;
      (c.parent.tag || capIsNull c.parent) && (c.kv.tag || capIsNull c.kv) && decide (c.sharers < 2) &&
        okR (cfrNames u r.1 r.2) && okR (childless u r.1 r.2 64) && okR (gathersRead u (u.framePages u.world c))) = true :=
  ⟨wChild 1, by decide +kernel⟩
theorem witness_FramesComplete_reads :
    ∃ (n s : State) (o : RIOp), capIsNull (n.dropWorld n.world).cfr = true ∧ portOf n.sl 1 = none ∧
      capIsNull (s.dropWorld s.world).cfr = false ∧
      okP (cfrCheck (s.dropWorld s.world)) (fun r => let d := r.1.get r.2; let u := s.dropWorld s.world;
        !d.sealedB && (d.kv.tag || capIsNull d.kv) && (d.rot.tag || capIsNull d.rot) && (d.parent.tag || capIsNull d.parent) &&
        okP (regOrImm32 u o (r.1.addr r.2)) (fun n => decide (d.len + n ≤ d.cap) &&
          okP (mapPages u (r.1.addr r.2) (d.pages d.len (d.len + n))) (fun v =>
            okR (pagesReplayed v (r.1.addr r.2) (d.pages d.len (d.len + n))) &&
            okR (gathersRead v (v.pagesBehind u.world (d.setFld 256 32 (d.len + n)))))) &&
        okR (visible u r.1 r.2 ((u.rx 1).toNat % 2 ^ 32) ((u.rx 2).toNat % 2 ^ 32)) &&
        okR (maskLanes u r.1 r.2 (kmOf u.sl md0) (zmOf md0) (u.rk 1) (u.sl.rv 1) ((u.rx 2).toNat % 2 ^ 32) 32)) = true :=
  ⟨wS, wF 0 wRoot, .i (tI 1 0 4), by decide +kernel⟩

/-! ### The wavefront array and the transform coprocessor -/

/-- The array, held with nothing in flight; `xs` are in x1, x2, …; a local capability at 0 in c1, and a global one in c2. -/
def wW (w : Wave) (xs : List Word := []) (full : List Nat := []) : State :=
  { wS xs [wLoc, wGlob] with mat := { wMat 3 with parts := Vector.replicate 6 Part.zero }, wave := w, full := full }
theorem witness_WavefrontCompletes :
    ∃ (s : State) (o q : ROp) (x y : XOp) (i : RIOp) (lo hi : BitVec 32), holdsMat s [3] ∧ okR (matIdle s) = true ∧
      ruleOk ((s.rx o.oa).extractLsb' 0 32) = true ∧ (s.rx o.oa).getLsbD 5 = false ∧ o.oc = 0 ∧
      ruleOk ((s.rx q.oa).extractLsb' 0 32) = true ∧ (s.rx q.oa).getLsbD 5 = true ∧ q.oc ≠ 0 ∧
      capCheck s.world (s.rc q.oc) (capCursor (s.rc q.oc)).toNat 1024 pR = none ∧
      x.sub = 0 ∧ ruleOk x.imm = true ∧ (x.imm.getLsbD 5 && capIsNull s.wave.tableCap) = false ∧ y.sub ≠ 0 ∧
      (lo, hi) = (match i with
        | .r o => ((s.rx o.oa).extractLsb' 0 32, (s.rx o.ob).extractLsb' 0 32)
        | .i o => ((o.imm.extractLsb' 0 16).signExtend 32, (o.imm.extractLsb' 16 16).signExtend 32)) ∧ lo.toInt ≤ hi.toInt ∧
      portOf s.sl o.oa = none ∧ portOf s.sl o.ob = none ∧ okR (planeWrite s (s.rc q.oc) false) = true :=
  ⟨wW .reset [0, 0x20], tR 1 1 1, { tR 1 2 1 with oc := 1 }, ⟨noHdr, 0, 0, 0, 0, 0⟩, ⟨noHdr, 0, 0, 0, 1, 0⟩,
    .i (tI 0 0 0x7FFF8000), 0xFFFF8000, 0x7FFF, by unfold holdsMat; decide +kernel⟩
theorem witness_WavefrontCompletes_table :
    ∃ (s : State) (o : ROp), holdsMat s [3] ∧ okR (matIdle s) = true ∧ (s.rx o.oa).getLsbD 5 = true ∧ o.oc ≠ 0 ∧
      capCheck s.world (s.rc o.oc) (capCursor (s.rc o.oc)).toNat 1024 pR = none ∧ okR (readTableOf s (s.rc o.oc)) = true :=
  ⟨wW .reset [0, 0x20], { tR 1 2 1 with oc := 1 }, by unfold holdsMat; decide +kernel⟩
theorem witness_WavefrontCompletes_tiles :
    ∃ (s : State) (o : ROp) (t : Staged) (p : State) (d : Tile) (u : State), holdsMat s [3] ∧ s.wave.staged = some t ∧ s.wave.aff = false ∧
      okR ((wRegs s.wave o ++ if o.md.isp.extractLsb' 0 2 = 0 then [o.oe] else []).forM (noPort s)) = true ∧
      okR (planeWrite s t.cap (s.wave.aff && s.wave.w32 && (wEdges o).contains 63)) = true ∧ s.wave.tiles.length < 2 ∧ p.act = some .wtileComplete ∧ p.wave.tiles = [d] ∧
      u = (p.modWave fun w => { w with tiles := [] }).modSlot d.sl
        (fun sl => { sl with v := d.regs.foldl (fun v p => v.set p.1 p.2) sl.v }) ∧
      okR (u.enginePut d.sl (u.slot d.sl).world true (capCursor d.cap).toNat d.plane [] d.pc d.insn) = true :=
  ⟨wW { Wave.reset with staged := some ⟨wLoc, 0, 0, 0⟩, tiles := [⟨15, [], wLoc, [], 0, 0, 0, 0⟩] }, tR 1 2 3, ⟨wLoc, 0, 0, 0⟩,
    wDo (wW { Wave.reset with tiles := [⟨15, [(3, 7)], wLoc, [1], 0, 0, 0, 0⟩] }) .wtileComplete, ⟨15, [(3, 7)], wLoc, [1], 0, 0, 0, 0⟩,
    _, by unfold holdsMat; decide +kernel, by decide +kernel, by decide +kernel, by decide +kernel, by decide +kernel, by decide +kernel,
    rfl, by decide +kernel, rfl, by decide +kernel⟩
/-- A line of eight full granules is got, one of empty granules is put. -/
theorem witness_WavefrontCompletes_lines :
    ∃ (s t : State) (o : MOp), holdsMat s [3] ∧ holdsMat t [3] ∧ portOf s.sl o.od = none ∧ o.x = 1 ∧
      okR (accessChecks s (s.rc o.oa) (mEa s o) 128 pR .fullEmpty 128) = true ∧ okR (lineWait s .full (mEa s o)) = true ∧
      okP (placed s (s.rc o.oa) (mEa s o) 128 { r := true }) (fun ps => okR (loadPieces s ps)) = true ∧
      okR (accessChecks t (t.rc o.oa) (mEa t o) 128 pW .fullEmpty 128) = true ∧ okR (releaseWait t 1) = true ∧
      okR (lineWait t .empty (mEa t o)) = true ∧
      okP (placed t (t.rc o.oa) (mEa t o) 128 { w := true }) (fun ps =>
        okR (storePieces t ps (leBytes 128 (t.sl.rv o.od).toNat) [])) = true :=
  ⟨wW .reset [] ((List.range 8).map (0x100000000000 + ·)), wW .reset, tM 1 1 0 5 1, by unfold holdsMat; decide +kernel⟩
/-- A walker at the last row and column of a tile. -/
theorem witness_WavefrontCompletes_walk :
    ∃ (s : State) (o : ROp) (c : Cap) (w : Walker), holdsMat s [3] ∧ c = s.rc o.ob ∧ okR (matIdle s) = true ∧ portOf s.sl o.od = none ∧
      o.md.sub = 1 ∧ portOf s.sl o.oc = none ∧ portOf s.sl o.oe = none ∧
      capCheck s.world c (capCursor c).toNat s.wave.planeBytes pR = none ∧ capLocal c = true ∧
      (capCursor c).toNat % s.wave.planeBytes = 0 ∧ w = walkerOf (s.rx o.oa) ∧ w.row < 32 ∧ w.col < 32 ∧ w.st = 0 ∧
      okR (loadBytes s c (capCursor c).toNat s.wave.planeBytes pR 1) = true :=
  ⟨wW .reset [0x1F1F], { tR 1 1 1 (mdSub 1) with oc := 2, oe := 3 }, _, _, by unfold holdsMat; decide +kernel, rfl, by decide +kernel,
    by decide +kernel, by decide +kernel, by decide +kernel, by decide +kernel, by decide +kernel, by decide +kernel, by decide +kernel, rfl,
    by decide +kernel⟩
theorem witness_WavefrontCellIsBest :
    ∃ (r q : WRule) (c d : WCell), r.aff = false ∧ r.mode = 1 ∧ c = r.cell true 1 0 0 0 0 0 ∧ q.aff = true ∧ q.mode = 1 ∧
      d = q.cell true 1 0 0 0 0 0 :=
  ⟨({ Wave.reset with rule := 2 } : Wave).wrule, { ({ Wave.reset with rule := 2 } : Wave).wrule with aff := true }, _, _, by decide +kernel,
    by decide +kernel, rfl, rfl, by decide +kernel, rfl⟩

/-- `n` transform requests are in the queue, of which the oldest, an xconv of two elements, is executed. -/
def wX (n : Nat) (busy : Nat := 0) : State :=
  let s := wS [2, 0x400000002] [wLoc, wLoc 0x1000, wLoc 0x2000]
  { s with cl := { s.cl with
      xreqs := List.replicate n ⟨15, 0, xConv, wLoc, wLoc 0x1000, Cap.null, 2, ⟨2, 0, 0, 1, 0, 0, 0⟩, 0, false, 0, 0, true, 0, 0⟩
      xbusy := busy } }
theorem witness_TransformCompletes :
    ∃ (s : State) (f : BitVec 2 → ROp), (∀ op ∈ [xExp, xCmp, xQuant, xConv], okR (xChecks s (xRequest s (f op) op)) = true) ∧
      s.cl.xreqs.length < 4 :=
  ⟨wX 0, fun op => { tR 0 1 2 (if op = xConv then ⟨2, 0, 0, 1, 0, 0, 0⟩ else if op = xQuant then ⟨4, 0, 0, 1, 0, 0, 0⟩ else md0) with
    oc := 3, oe := if op = xQuant then 2 else 1 }, by decide +kernel⟩
theorem witness_TransformCompletes_full :
    ∃ (s t : State) (o : ROp), okR (xChecks s (xRequest s o xExp)) = true ∧ 4 ≤ s.cl.xreqs.length ∧ s.cl.xbusy < 7 ∧
      okR (xChecks t (xRequest t o xExp)) = true ∧ 4 ≤ t.cl.xreqs.length ∧ 7 ≤ t.cl.xbusy :=
  ⟨wX 4 6, wX 4 7, { tR 0 1 2 with oc := 3, oe := 1 }, by decide +kernel⟩
theorem witness_TransformCompletes_events :
    ∃ (s t : State) (q : Xreq) (rest : List Xreq), s.act = some .transformReservedEntry ∧ s.cl.xreqs.length < 4 ∧
      t.act = some .transformRequestExecute ∧ t.cl.xreqs = q :: rest ∧
      t.xFail q = none :=
  ⟨wDo (wX 3) .transformReservedEntry, wDo (wX 2) .transformRequestExecute, _, _, rfl, by decide +kernel, rfl, rfl, by decide +kernel⟩

/-! ### Memory -/

/-- World 0 has a page of 1 GiB at 0, which cluster 0 may read, write and execute, with capabilities. -/
def wPages : List Host.Cell :=
  [(0x10000, 1), (0x10003, 2), (0x20000, 1), (0x20003, 3), (0x30000, 0xFB), (0x30001, 2), (0x30008, 1)]
/-- c1 is a capability for the page, c2 one for cluster memory, c3 untagged data. -/
def wG (xs : List Word := []) (a : Word := 0x3FF00) : State :=
  ({ wS xs [wGlob a, wLoc] with mem := wPages } : State).modWorld 0 fun w => { w with troot := 0x10001 }

/-- What ld, st, ldc, stc, vld and vst of a state need. -/
def wReach (s : State) (o : MOp) : Bool :=
  let c := s.rc o.oa; let ea := mEa s o; let n := szBytes o.size; let al := if o.ord = 0 then 1 else n
  okR (accessChecks s c ea n pR .plain al) && okR (accessChecks s c ea n pW .plain al) &&
    okP (travel s c ea false) fun u => okR (scWait u o.ord o.scope) && okR (loadBytes u c ea n pR al (mHint o false)) &&
      okR (storeBytes u c ea (leBytes n (u.rx o.od).toNat) al (mStore o))
def wReachCap (s : State) (o : MOp) : Bool :=
  let c := s.rc o.oa; let ea := mEa s o; let v := keepTag o.size (s.rc o.od)
  !fifoUse c && okR (accessChecks s c ea 16 pR .plain 16) && okR (accessChecks s c ea 16 (stcPerm v) .plain 16) &&
    okP (travel s c ea false) fun u => okR (scWait u o.ord o.scope) && okR (loadGran u c ea pR .plain (mHint o)) &&
      okR (storeGran u c ea v .plain (mStore o))
def wReachLine (s : State) (o : MOp) : Bool :=
  let c := s.rc o.oa; let ea := mEa s o
  portOf s.sl o.od == none && !fifoUse c && okR (loadBytes s c ea 128 pR 16 (mHint o)) && okR (accessChecks s c ea 128 pW .plain 16) &&
    okR (scWait s o.ord o.scope) && okR (storeBytes s c ea (leBytes 128 (s.sl.rv o.od).toNat) 16 (mStore o))
theorem witness_MemoryInstructionsComplete :
    ∃ s t : State, (∀ z ∈ [0, 1, 2, 3], wReach s (tM 1 1 0 z) = true ∧ wReach t (tM 1 1 0 z) = true) ∧
      wReach t { tM 1 1 0 3 with ord := 4 } = true ∧ wReachCap s (tM 2 1 0 6) = true ∧ wReachCap t (tM 2 1 0 6) = true ∧
      wReachLine s (tM 1 1 0 5) = true ∧ wReachLine t (tM 1 1 0 5) = true ∧
      okP (travel t (t.rc 1) (mEa t (tM 1 1 0 3)) true) (fun u => okR (accessChecks t (t.rc 1) (mEa t (tM 1 1 0 3)) 8 pR .plain 1) &&
        okR (loadBytes u (t.rc 1) (mEa t (tM 1 1 0 3)) 8 pR 1 (mHint (tM 1 1 0 3) true))) = true :=
  ⟨wS [] [wLoc 0x3FFF80], wG, by decide +kernel⟩
/-- Bank 0 is a FIFO bank with eight granules, and c1 a FIFO capability for it. -/
def wFifo : State :=
  { wS [] [capMake 0xFFF 0 0 true 5 0 0x20000 0, Cap.null] with
    bmode := (Vector.replicate 64 0).set 0 2, fifos := [(0, List.replicate 8 Cap.null)] }
theorem witness_MemoryInstructionsComplete_fifo :
    ∃ (s : State) (o : MOp) (c : Cap) (ea : Nat), c = s.rc o.oa ∧ ea = mEa s o ∧ fifoUse c = true ∧
      okR (fifoChecks s c ea 16 pR o.ord) = true ∧
      ((s.goHome s.cur).fifo (fifoIx ea)).isEmpty = false ∧ (s.goHome s.cur).fifoBehind .fpop (fifoIx ea) = false ∧
      (s.goHome s.cur).fifoBad (fifoIx ea) 1 = false ∧ s.fifoBad (fifoIx ea) 8 = false ∧
      okR (fifoChecks s c ea 16 (stcPerm (keepTag o.size (s.rc o.od))) o.ord) = true ∧
      okR (releaseWait (s.goHome s.cur) 1) = true ∧ okR (releaseWait s 1) = true ∧
      ((s.goHome s.cur).fifo (fifoIx ea)).length < 8192 ∧ (s.goHome s.cur).fifoBehind .fpush (fifoIx ea) = false ∧
      portOf s.sl o.od = none ∧ okR (fifoChecks s c ea 128 pR o.ord) = true ∧ 8 ≤ (s.fifo (fifoIx ea)).length ∧
      s.fifoBehind .fpop (fifoIx ea) = false ∧ okR (fifoChecks s c ea 128 pW o.ord) = true ∧
      (s.fifo (fifoIx ea)).length + 8 ≤ 8192 ∧ s.fifoBehind .fpush (fifoIx ea) = false :=
  ⟨wFifo, tM 2 1 0 6, _, _, rfl, rfl, by decide +kernel⟩
/-- The oldest granule of the bank holds an error. -/
theorem witness_MemoryInstructionsComplete_badFifo :
    ∃ (s : State) (o : MOp) (c : Cap) (ea : Nat), c = s.rc o.oa ∧ ea = mEa s o ∧ fifoUse c = true ∧
      okR (fifoChecks s c ea 16 pR o.ord) = true ∧ ((s.goHome s.cur).fifo (fifoIx ea)).isEmpty = false ∧
      (s.goHome s.cur).fifoBehind .fpop (fifoIx ea) = false ∧ (s.goHome s.cur).fifoBad (fifoIx ea) 1 = true :=
  ⟨{ wFifo with badGrans := [locKey 0 / 16] }, tM 2 1 0 6, _, _, rfl, rfl, by decide +kernel⟩
/-- A gather and a scatter of 32 lanes at the same address; a full granule is read, an empty one is filled. -/
theorem witness_MemoryInstructionsComplete_gathers :
    ∃ (s t : State) (o q : MOp), portOf s.sl o.od = none ∧ portOf s.sl o.ob = none ∧
      okP (lanesChecked s o pR { r := true }) (fun l => okR (gatherLoad s (s.rc o.oa) (szBytes o.size) (mHint o) l.1)) = true ∧
      okP (lanesChecked s o pW { w := true }) (fun l =>
        okR (scatterStore s (s.rc o.oa) (szBytes o.size) (s.sl.rv o.od).toNat (mStore o) l.1)) = true ∧
      okR (accessChecks t (t.rc o.oa) (mEa t o) 4 pR .fullEmpty 4) = true ∧ okR (granuleWait t .full (mEa t o)) = true ∧
      okP (placed t (t.rc o.oa) (mEa t o) 4 { r := true }) (fun ps => okR (loadPieces t ps)) = true ∧ o.size ≠ 6 ∧
      okR (accessChecks t (t.rc q.oa) (mEa t q) 16 pR .fullEmpty 16) = true ∧ okR (granuleWait t .full (mEa t q)) = true ∧ q.size = 6 ∧
      okR (loadGran t (t.rc q.oa) (mEa t q) pR .fullEmpty) = true ∧
      okR (releaseWait s 1) = true ∧ okR (granuleWait s .empty (mEa s o)) = true ∧
      okR (accessChecks s (s.rc o.oa) (mEa s o) 4 pW .fullEmpty 4) = true ∧
      okP (placed s (s.rc o.oa) (mEa s o) 4 { w := true }) (fun ps => okR (storePieces s ps (leBytes 4 (s.rx o.od).toNat) [])) = true ∧
      okR (granuleWait s .empty (mEa s q)) = true ∧ okR (accessChecks s (s.rc q.oa) (mEa s q) 16 (stcPerm (s.rc q.od)) .fullEmpty 16) = true ∧
      okR (storeGran s (s.rc q.oa) (mEa s q) (s.rc q.od) .fullEmpty) = true :=
  ⟨wS [], { wS [] with full := [0x100000000000] }, tM 1 1 0 2 1, tM 1 1 0 6 1, by decide +kernel⟩
/-- A command of cpy, 128 bytes from the page to cluster memory; the same as a descriptor at 64 in cluster memory. -/
theorem witness_MemoryInstructionsComplete_lines :
    ∃ (s n : State) (o q : MOp), okP (lineChecks s o) (fun u => okP (placed u (u.rc o.oa) (mEa u o) 1 { r := true }) fun ps =>
        match ps with
        | [⟨.at _ _, _, _⟩] => true
        | _ => false) = true ∧
      okP (lineChecks n o) (fun u => match placed u (u.rc o.oa) (mEa u o) 1 { r := true } with
        | .error (.trap _, _) => true
        | _ => false) = true ∧
      okR (accessChecks s (s.rc q.oa) (mEa s q) 1 pR .plain 1) = true ∧
      okP (travel s (s.rc q.oa) (mEa s q) true) (fun u => okR (mapped u (s.rc q.oa) (mEa s q) 1 { r := true })) = true :=
  ⟨wG, (wG).modWorld 0 fun w => { w with troot := 0 }, tM 0 1 0 0, tM 0 1 0 0, by decide +kernel⟩
/-- A protected world's fibre at a sealed address. -/
theorem witness_MemoryInstructionsComplete_sealed :
    ∃ (s : State) (o : MOp), okR (accessChecks s (s.rc o.oa) (mEa s o) 1 pR .plain 1) = true ∧ capLocal (s.rc o.oa) = false ∧
      s.sealedVa s.world (mEa s o) = true :=
  ⟨((wS [] [capMake wPerm 1 0 false 0 0 0x3FFFF 0x3FF00]).modCur fun sl => { sl with world := 1 }).modWorld 1 fun w => { w with wseal := 1 },
    tM 0 1 0 0, by decide +kernel⟩
theorem witness_MemoryInstructionsComplete_copies :
    ∃ (s : State) (o f : ROp) (d c : CopyCmd), d = cpyCommand s o ∧ c = (if d.raw then d else { d with rm := s.sl.rmCode o.md.rm }) ∧
      d.malformed = false ∧ okR (copyCheck s c) = true ∧ okR (copyFirstPage s c) = true ∧ s.sl.copies.length < 8 ∧
      2 ≤ f.md.sub.toNat % 8 ∧ okR (releaseWait s (f.md.isp.toNat % 8)) = true :=
  ⟨wG [128], tR 2 1 1, tR 0 0 0 ⟨4, 0, 0, 4, 0, 0, 0⟩, _, _, rfl, rfl, by decide +kernel⟩
/-- A descriptor of a copy of one row of 128 bytes within cluster memory. -/
theorem witness_MemoryInstructionsComplete_descriptor :
    ∃ (s : State) (o : ROp), okR (accessChecks s (s.rc o.oa) (capCursor (s.rc o.oa)).toNat 64 pR .plain 64) = true ∧
      okP (loadGrans s (s.rc o.oa) (capCursor (s.rc o.oa)).toNat {} 4) (fun r => (copyOf (imgOf r.1) 0).any fun d =>
        let c := { d with sigSm := o.hdr.sigSm, sigInc := o.hdr.sigInc, tcx := r.2.sl.tcx, fib := r.2.sl.fib, pc := r.2.sl.pc,
                          insn := r.2.insn }
        let e := if c.raw then c else { c with rm := r.2.sl.rmCode c.rm }
        !c.malformed && okR (copyCheck r.2 e) && okR (copyFirstPage r.2 e) && decide (r.2.sl.copies.length < 8)) = true :=
  ⟨(((wS.writeGran (locKey 0) (wLoc 0x1000)).writeGran (locKey 16) (wLoc 0x2000)).writeBytes (locKey 32) [128, 0, 0, 0, 1]), tR 0 1 0,
    by decide +kernel⟩

/-! ### Atomics and reductions -/

/-- 1 is added to 2, and to 2.0; with NX enabled, 1.0 and 2^-149 trap. -/
theorem witness_AtomicsAndReductionsComplete :
    ∃ (s t u : State) (o q : MOp), (∀ v ∈ [s, t, u],
      okP (atomicGo v o (pR ||| pW)) (fun u => okP (placed u (u.rc o.oa) (mEaAtomic u o) (szBytes o.size) { r := true, w := true }) fun ps =>
        match ps with
        | [p] => okP (arrive u u.world [p]) fun v => [AmoOp.add, .min, .max, .and, .or, .xor, .swap, .cas 0, .fadd (s.sl.rmCode 0)].all fun a =>
            okR (atomicRead v p { r := true, w := true } (mHint o true) (.atomic a (o.x == 1), (u.rx o.ob).toNat % 2 ^ (8 * szBytes o.size)))
        | _ => false) = true) ∧ o.size ≠ 6 ∧
      masked s (faddCode (Rm.ofCode (s.sl.rmCode 0).toNat) 4 false 0x40000000 0x3F800000).2 ∧
      ¬ masked u (faddCode (Rm.ofCode (u.sl.rmCode 0).toNat) 4 false 0x3F800000 1).2 ∧
      q.size = 6 ∧
      okP (atomicGo t q (pR ||| pCL ||| pCW ||| stcPerm (t.rc q.ob))) (fun u =>
        okP (placed u (u.rc q.oa) (mEaAtomic u q) 16 { r := true, w := true, cw := (t.rc q.ob).tag }) fun ps =>
          match ps with
          | [⟨.at key main, va, len⟩] => okP (arrive u u.world [⟨.at key main, va, len⟩]) fun v =>
              [none, some (t.rc q.od)].all fun e =>
                okP (atomicRead v ⟨.at key main, va, len⟩ { r := true, w := true, cw := (t.rc q.ob).tag } (mHint q true)
                  (.atomicCap e (u.filterCap (t.rc q.ob)), 0)) fun r =>
                   decide ((⟨r.2.1, BitVec.ofNat 128 (leNat r.1)⟩ : Cap) = ⟨false, 0⟩)
          | _ => false) = true ∧ t.rc q.od = ⟨false, 0⟩ ∧ t.rc q.oa ≠ ⟨false, 0⟩ :=
  ⟨wS [0x3F800000], wG [1], (wS [1]).modCur fun sl => { sl with fmode := 0x1F }, tM 1 1 1 2, tM 4 1 2 6, by unfold masked; decide +kernel⟩
theorem witness_AtomicsAndReductionsComplete_reductions :
    ∃ (s t u : State) (o : MOp) (v : Update), okR (accessChecks s (s.rc o.oa) (mEaAtomic s o) (szBytes o.size) (pR ||| pW) .plain (szBytes o.size)) = true ∧
      s.hostVa (s.rc o.oa) (mEaAtomic s o) = false ∧ s.redCount s.cur < 16 ∧ capLocal (s.rc o.oa) = true ∧
      t.act = some (.remoteUpdate v.num) ∧ t.updates.find? (·.num == v.num) = some v ∧ t.updateBehind v = false ∧
      okR (accessChecks u (u.rc o.oa) (mEaAtomic u o) (szBytes o.size) (pR ||| pW) .plain (szBytes o.size)) = true ∧
      u.redCount u.cur < 16 ∧ capLocal (u.rc o.oa) = false ∧ u.window u.world (mEaAtomic u o) = none ∧
      (match u.translate u.world (some u.cluster.val) (mEaAtomic u o) { r := true, w := true } with
        | .ok pa main => (u.pageFail { r := true, w := true } false u.world (mEaAtomic u o) main).isNone &&
            okP (arrive u u.world [⟨.at pa main, mEaAtomic u o, szBytes o.size⟩]) fun x =>
              !x.logTouches x.sl.fib (mEaAtomic u o) (szBytes o.size)
        | _ => false) = true :=
  ⟨wS [1], wDo (nextOf (exec (.redadd (tM 0 1 1 2)) (wS [1]))) (.remoteUpdate 0), wG [1], tM 0 1 1 2,
    updateOf (wS [1]) (tM 0 1 1 2) 0, by decide +kernel⟩

/-! ### Synchronisation -/

/-- A fibre of tow 1, whose descriptor lies in the page. -/
def wTow (xs : List Word := []) (f : Slot → Slot := id) : State := (wG xs).modCur fun sl => f { sl with tow := 1 }

theorem witness_SynchronisationCompletes_monitors :
    ∃ (s t w p : State) (o : MOp) (i : Fin 4), s.sl.monNumber (capLocal (s.rc o.oa)) (mEa s o / 128 * 128) = some i ∧
      okP (accessPieces s (s.rc o.oa) (mEa s o) (szBytes o.size) pR { r := true } .plain (if o.ord = 0 then 1 else szBytes o.size))
        (fun ps => okR (bitmapsReadable s (s.rc o.oa) ps) &&
          okP (arrive s s.world ps) fun v => okR (loadPieces v ps (mHint o true))) = true ∧
      o.x = 0 ∧ okR (accessPieces s (s.rc o.oa) (mEa s o) 1 pR { r := true } .plain 1) = true ∧
      s.sl.parkEvents = 0 ∧ t.sl.parkEvents ≠ 0 ∧
      w.act = some (.parkWake 3) ∧ trigBits (w.slot 3).mons ≠ 0 ∧ (w.slot 3).status = .parked .park ∧
      p.act = some (.parkTimeout 3) ∧ (p.slot 3).parkTmo ≠ 0 ∧ (p.slot 3).dbgHalt = false ∧ (p.slot 3).status = .parked .park :=
  ⟨wG, (wG).modCur fun sl => { sl with wake := 1 },
    (wDo (wG) (.parkWake 3)).modSlot 3 fun sl => { sl with status := .parked .park, mons := sl.mons.set 0 ⟨true, true, false, 0⟩ },
    (wDo (wG) (.parkTimeout 3)).modSlot 3 fun sl => { sl with status := .parked .park, parkTmo := 9 }, tM 1 1 0 3, 0,
    by decide +kernel⟩
/-- Values that fit, 65,535 and 65,536; sums at 65,535, 65,536 and -1. -/
theorem witness_SynchronisationCompletes_semaphores :
    ∃ (s : State) (o q a b c : RIOp), okR (releaseWait s 1) = true ∧ (riAorImm s o).toNat = 65535 ∧ (riAorImm s q).toNat = 65536 ∧
      s.semVal (semOf (riMd a)) + (riAorImmS s a).toInt = 65535 ∧ s.semVal (semOf (riMd b)) + (riAorImmS s b).toInt = 65536 ∧
      s.semVal (semOf (riMd c)) + (riAorImmS s c).toInt = -1 :=
  ⟨wS, .i (tI 0 0 65535), .i (tI 0 0 65536), .i (tI 0 0 65535), .i (tI 0 0 65536), .i (tI 0 0 0xFFFFFFFF), by decide +kernel⟩
theorem witness_SynchronisationCompletes_barriers :
    ∃ (s : State) (o q : ROp), okP (barTow s o.oa) (fun t => okR (towReach s t { r := true, w := true })) = true ∧ o.md.sub ≠ 1 ∧
      okR (releaseWait s (o.md.isp.toNat % 8)) = true ∧ q.md.sub = 1 ∧
      okP (barTow s q.oa) (fun t => okP (towReach s t { r := true }) fun k =>
        decide (s.towNat k 0x10 4 ≠ (s.rx q.ob).toNat % 2 ^ 32)) = true :=
  ⟨wTow [7], tR 0 0 0, tR 0 0 1 (mdSub 1), by decide +kernel⟩

def wAt (i : SlotId) (f : Slot → Slot) (a : Act) : State := (wDo wS a).modSlot i f
theorem witness_WaitAndSystemEventsComplete :
    ∃ s : Nat → State, (s 0).act = some (.fullEmptyServe 16) ∧ (s 1).act = some (.fifoServe 2) ∧
      (s 2).act = some (.quayCoreArrival 5) ∧
      (s 3).act = some (.barrierWaitReturn 3) ∧ ((s 3).slot 3).waitsFor (fun k _ => k == .bar) = true ∧
      (s 4).act = some (.slice 3) ∧ ((s 4).slot 3).tslice ≠ 0 ∧ ((s 4).slot 3).dbgHalt = false ∧ ((s 4).slot 3).status = .ready ∧ (s 4).agenda.any (wtmoOf 3) = false ∧
      (s 5).act = some (.slice 3) ∧ ((s 5).slot 3).tslice ≠ 0 ∧ ((s 5).slot 3).dbgHalt = false ∧ ((s 5).slot 3).restoring = .none ∧
      ((s 5).slot 3).status = .waiting .bar 1 ∧ (s 5).agenda.any (wtmoOf 3) = false ∧
      (s 6).act = some (.slice 3) ∧ ((s 6).slot 3).tslice ≠ 0 ∧ ((s 6).slot 3).dbgHalt = false ∧ ((s 6).slot 3).restoring = .none ∧
      ((s 6).slot 3).status = .parked .park ∧ (s 6).agenda.any (wtmoOf 3) = false ∧
      (s 7).act = some (.wtmo 3 false) ∧ ((s 7).slot 3).wlim ≠ 0 ∧ ((s 7).slot 3).restoring = .none ∧
      ((s 7).slot 3).dbgHalt = false ∧ (s 7).beingServed (.slot 3) = false ∧
      (s 16).act = some (.wtmo 3 true) ∧ ((s 16).slot 3).wlim ≠ 0 ∧ ((s 16).slot 3).restoring = .none ∧
      ((s 16).slot 3).dbgHalt = false ∧ (s 16).beingServed (.rep 3) = false ∧
      ((s 16).slot 3).rep = some { wRep false with wait := some (.sem, 4) } ∧
      ((s 7).slot 3).status = .waiting .sem 4 ∧ kindLimited .sem = true ∧
      (s 8).act = some .trapRecordEnqueue ∧ (s 9).act = some .wfsTimeout ∧ ((s 9).slot 15).status = .parked .wfs ∧
      ((s 9).slot 15).parkTmo ≠ 0 ∧ (s 10).act = some .bankModeSwitchComplete ∧ (s 11).act = some .hintYieldEnd ∧
      (s 12).act = some (.debuggerHalt 3) ∧ (s 13).act = some (.debuggerResume 3) ∧
      (s 14).act = some (.supervisorStart 0x1000) ∧ (s 14).supStarted = false ∧ (s 15).act = some .poolGrant :=
  ⟨fun n => match n with
    | 0 => wDo wS (.fullEmptyServe 16)
    | 1 => wDo wS (.fifoServe 2)
    | 2 => wDo wS (.quayCoreArrival 5)
    | 3 => wAt 3 (fun sl => { sl with status := .waiting .bar 1 }) (.barrierWaitReturn 3)
    | 4 => wAt 3 (fun sl => { sl with status := .ready, tslice := 1 }) (.slice 3)
    | 5 => wAt 3 (fun sl => { sl with status := .waiting .bar 1, tslice := 1 }) (.slice 3)
    | 6 => wAt 3 (fun sl => { sl with status := .parked .park, tslice := 1 }) (.slice 3)
    | 7 => wAt 3 (fun sl => { sl with status := .waiting .sem 4, wlim := 1 }) (.wtmo 3 false)
    | 16 => wAt 3 (fun sl => { sl with rep := some { wRep false with wait := some (.sem, 4) }, wlim := 1 }) (.wtmo 3 true)
    | 8 => wDo wS .trapRecordEnqueue
    | 9 => wAt 15 (fun sl => { sl with status := .parked .wfs, parkTmo := 1 }) .wfsTimeout
    | 10 => wDo wS .bankModeSwitchComplete
    | 11 => wDo wS .hintYieldEnd
    | 12 => wDo wS (.debuggerHalt 3)
    | 13 => wDo wS (.debuggerResume 3)
    | 15 => wDo wS .poolGrant
    | _ => { wDo State.reset (.supervisorStart 0x1000) with supStarted := false }, by decide +kernel⟩
theorem witness_WaitAndSystemEventsComplete_grants :
    ∃ (s t : State) (sm : BitVec 8) (w : Waiter) (i : SlotId),
      (∀ u ∈ [s, t], u.act = some (.waitsemGrant sm) ∧ (u.waiters.find? fun w => w.kind == .sem && w.obj == sm.toNat) = some w) ∧
      w.who = .slot i ∧ s.semVal sm < w.thr ∧ w.thr ≤ t.semVal sm :=
  ⟨{ wDo wS (.waitsemGrant 4) with waiters := [⟨.slot 3, .sem, 4, 2⟩] },
    ({ wDo wS (.waitsemGrant 4) with waiters := [⟨.slot 3, .sem, 4, 2⟩] } : State).semSet 4 2, 4, ⟨.slot 3, .sem, 4, 2⟩, 3,
    by decide +kernel, rfl,
    by decide +kernel, by decide +kernel⟩

/-! ### Fibres and tows -/

/-- A fibre of tow 1; slot 0 takes records of its core. x1 names its cluster, x2 its tow. -/
def wSend (f : Slot → Slot := id) (y : Word := 1) : State :=
  (wTow [BitVec.allOnes 64, y, 0, 4] f).modSlot 0 fun sl => { sl with status := .free }
theorem witness_FibresAndRepliesComplete :
    ∃ (s : State) (o q : ROp), okR (sendCheck s o) = true ∧ okP (sendTow s o) (fun t => t == 1 && okR (memberReach s t)) = true ∧
      okR (releaseWait s (o.md.isp.toNat % 8)) = true ∧
      okP (spawnTarget s o) (fun c => s.crqRoom c (sentRecord s o)) = true ∧ s.heldQ = [] ∧ s.waiters = [] ∧
      q.oa = o.oa ∧ q.ob = o.ob ∧ q.oc = o.oc ∧ q.md = o.md ∧ okP (callTarget s q) (fun c => okR (sendTo s c (sentRecord s q))) = true :=
  ⟨wSend, { tR 1 1 1 with oc := 2 }, { tR 3 1 1 with oc := 2 }, by decide +kernel⟩
/-- The transfer of a reply to a protected world fails its MAC. -/
theorem witness_FibresAndRepliesComplete_failed :
    ∃ (s : State) (r : FarReply), s.act = some (.replyGranuleWrite (some r)) ∧ s.transferOk r.world r.sealOk = false :=
  ⟨(wDo wS (.replyGranuleWrite (some ⟨1, 0, 64, 1, 2, 0, false⟩))).modWorld 1 fun w => { w with wseal := 1 }, ⟨1, 0, 64, 1, 2, 0, false⟩,
    by decide +kernel⟩
theorem witness_FibresAndRepliesComplete_replies :
    ∃ (s t u v : State) (r : Reply) (f : FarReply), ctlRv (s.sl.rx 13) = true ∧ ctlRoff (s.sl.rx 13) < 262144 ∧
      ctlRv (t.sl.rx 13) = false ∧ v.act = some (.replyGranuleWrite (some f)) ∧ f.off % 16 = 0 ∧ v.transferOk f.world f.sealOk = true ∧
      winBaseOf (v.rpwinOf f.cluster f.world) ≤ f.off ∧ f.off + 16 ≤ winLimitOf (v.rpwinOf f.cluster f.world) ∧
      v.bankMode f.cluster (f.off / 2 ^ 17) = 0 ∧ u.act = some (.replyGranuleWrite none) ∧ u.cl.replies = [r] ∧ u.replyReady r = true ∧
      winBaseOf (u.rpwinOf r.cluster r.world) ≤ r.off ∧ r.off + 16 ≤ winLimitOf (u.rpwinOf r.cluster r.world) ∧
      u.bankMode r.cluster (r.off / 2 ^ 17) = 0 :=
  ⟨wS (List.replicate 12 0 ++ [0x8000000400000000]), wS,
    { wDo wS (.replyGranuleWrite none) with
        cl := { wS.cl with replies := [⟨3, 0, 0, 0, 64, 1, 2, 0, [], [], 0, 0⟩] }
        rpwin := wS.rpwin.set 0 0x0040000000000000 },
    { wDo wS (.replyGranuleWrite (some ⟨0, 0, 64, 1, 2, 0, true⟩)) with rpwin := wS.rpwin.set 0 0x0040000000000000 },
    ⟨3, 0, 0, 0, 64, 1, 2, 0, [], [], 0, 0⟩, ⟨0, 0, 64, 1, 2, 0, true⟩, by decide +kernel⟩
/-- A fibre that leaves by yield, await and exit: c1 is a granule of cluster memory; x1 is a semaphore, x2 its threshold. -/
theorem witness_FibresLeaveTheirSlots :
    ∃ (s u : State) (o : ROp), u = s.goHome s.cur ∧ okR (mayLeave u) = true ∧ u.freeAwait = some 0 ∧ (u.rx o.oa).toNat < 256 ∧
      u.sl.semIn (u.rx o.oa).toNat = true ∧ (u.rx o.ob).toNat ≤ 65535 ∧ u.badSem = [] ∧
      okR (accessChecks u (u.rc o.oa) (capCursor (u.rc o.oa)).toNat 16 pR .fullEmpty 1) = true ∧
      okP (matReady s) (fun v => okR (exitWait v)) = true :=
  ⟨wS [3, 65535], _, tR 0 1 2, rfl, by decide +kernel⟩
theorem witness_FibresLeaveTheirSlots_callat :
    ∃ (s u : State) (o : ROp) (a : Nat), u = s.goHome s.cur ∧ okR (mayLeave u) = true ∧ okR (sendCheck u o) = true ∧
      ctlRv (u.rx o.oc) = true ∧ ctlRcl (u.rx o.oc) = u.cluster.val ∧ ctlRoff (u.rx o.oc) < 262144 ∧
      a = u.cluster.val * 2 ^ 58 + 16 * ctlRoff (u.rx o.oc) ∧ localCheck u.cluster.val u.sl.cmwin a 16 = none ∧
      u.bankCheck u.cluster .fullEmpty a 16 = none ∧ u.freeAwait = some 0 ∧ okR (releaseWait u (o.md.isp.toNat % 8)) = true ∧
      okP (sendTow u o) (fun t => t == 1 && okR (memberReach u t)) = true ∧
      okP (callTarget u o) (fun c => okR (sendTo u c (sentRecord u o))) = true :=
  ⟨wSend id 0x8000000400000001, _, { tR 3 1 1 with oc := 2 }, _, rfl, by decide +kernel, by decide +kernel, by decide +kernel,
    by decide +kernel, by decide +kernel, rfl, by decide +kernel⟩
theorem witness_FibresLeaveTheirSlots_notAllowed :
    ∃ (s t w : State) (o : ROp), (s.goHome s.cur).mat.holder = some s.cur ∧ (t.goHome t.cur).sl.tjn ≠ 0 ∧
      ((w.goHome w.cur).sl.port 0).bound = true ∧ ∀ v ∈ [s, t, w],
        okR (accessChecks (v.goHome v.cur) ((v.goHome v.cur).rc o.oa) (capCursor ((v.goHome v.cur).rc o.oa)).toNat 16 pR .fullEmpty 1) = true :=
  ⟨{ wS with mat := { wS.mat with holder := some 15 } }, wS.modCur fun sl => { sl with tjn := 5 },
    wPorts (wPort false false []), tR 0 1 0, by decide +kernel⟩
/-- Home tow 1: tow 2 may be joined, as the first or the second joined tow; with no home tow it may become that; tow 1 may be
left, and no other. -/
theorem witness_TowsComplete :
    ∃ (s h j : State) (o r q : ROp), (∀ v ∈ [s, h, j], okP (towArg v o.oa) (fun t => t == 2 && !v.sl.belongs t &&
        okR (towReach v t { r := true, w := true })) = true ∧ okR (releaseWait v 3) = true) ∧
      o.md.sub ≠ 1 ∧ r.oa = o.oa ∧ r.md.sub = 1 ∧ h.sl.tow = 0 ∧ s.sl.tjn.extractLsb' 0 16 = 0 ∧
      j.sl.tjn.extractLsb' 0 16 ≠ 0 ∧ j.sl.tjn.extractLsb' 16 16 = 0 ∧
      okP (towArg s q.oa) (fun t => t == 1 && s.sl.belongs t && okR (towReach s t { r := true, w := true })) = true :=
  ⟨wTow [1, 2], (wTow [1, 2]).modCur fun sl => { sl with tow := 0 }, (wTow [1, 2]).modCur fun sl => { sl with tjn := 3 },
    tR 0 2 0, tR 0 2 0 (mdSub 1), tR 0 1 0, by decide +kernel⟩
theorem witness_TowsComplete_fields :
    ∃ (s t : State) (o p q r : ROp), (∀ z ∈ [o, p, q], z.oa = 0) ∧ okP (towArg s 0) (fun t => t == 0 && s.sl.tow != 0) = true ∧
      o.md.sub = 7 ∧ p.md.sub = 8 ∧ q.md.sub = 6 ∧ okR (towReach s s.sl.tow { r := true }) = true ∧
      okR (towReach s s.sl.tow { r := true, w := true }) = true ∧ t.sl.tow = 0 ∧ okP (towArg s r.oa) (fun t => t == 2) = true :=
  ⟨wTow [1, 2], wS, tR 1 0 0 (mdSub 7), tR 1 0 0 (mdSub 8), tR 1 0 0 (mdSub 6), tR 1 2 0, by decide +kernel⟩

/-! ### Capabilities -/

/-- c1 may be derived from, c2 has no tag; 32 bytes lie within c1's bounds, 2^40 do not. -/
theorem witness_CapabilityInstructionsComplete :
    ∃ (s : State) (o p : ROp) (q r z : RIOp), capDeriveCheck s.world (s.rc o.oa) = none ∧ (capDeriveCheck s.world (s.rc p.oa)).isSome ∧
      riOa q = o.oa ∧ okR (capSetBounds (s.rc o.oa) (riZext s q).toNat false) = true ∧
      okR (capSetBounds (s.rc o.oa) (riZext s q).toNat true) = true ∧ riOa z = o.oa ∧
      okR (capSetBounds (s.rc o.oa) (riZext s z).toNat false) = false ∧ okR (capSetBounds (s.rc o.oa) (riZext s z).toNat true) = false ∧
      (capDeriveCheck s.world (s.rc (riOa r))).isSome :=
  ⟨wS [0, 2 ^ 40], tR 3 1 1, tR 3 2 1, .i (tI 3 1 32), .i (tI 3 2 32), .r (tR 3 1 2), by decide +kernel⟩
/-- c2's cursor is 5, within its bounds; c3 is sealed under 5. -/
theorem witness_CapabilityInstructionsComplete_sealing :
    ∃ (s : State) (o p : ROp), (∀ q ∈ [o, p], (s.rc q.oa).tag = true ∧ (capWorld (s.rc q.oa)).toNat = s.world.val) ∧ p.ob = o.ob ∧
      capBase (s.rc o.ob) ≤ 5 ∧ (capCursor (s.rc o.ob)).toNat = 5 ∧ 5 < capTop (s.rc o.ob) ∧ capOtype (s.rc o.oa) = 0 ∧
      capCheckKind s.world (s.rc o.ob) pSEAL = none ∧ capOtype (s.rc p.oa) = BitVec.ofNat 4 5 ∧
      capCheckKind s.world (s.rc p.ob) pUNSEAL = none :=
  ⟨wS [] [wGlob, wGlob 5, capWithOtype wGlob 5], tR 4 1 2, tR 4 3 2, by decide +kernel⟩
theorem witness_NoDerivationWidensACapability :
    ∃ (c d e f : Cap), capSetBounds c 33 false = .ok d ∧ capSetBounds c 32 true = .ok e ∧ d.tag = true ∧
      capWithPerm c (capPerm c &&& 3) = f ∧ f.tag = true ∧ capRepresentable c 0x8000 = true ∧ capRepresentable c (BitVec.allOnes 64) = false :=
  ⟨wGlob 64, _, _, _, (okP_eq (a := (match capSetBounds (wGlob 64) 33 false with | .ok d => d | .error _ => Cap.null)) (by decide +kernel)),
    (okP_eq (a := (match capSetBounds (wGlob 64) 32 true with | .ok d => d | .error _ => Cap.null)) (by decide +kernel)), by decide +kernel, rfl,
    by decide +kernel⟩
/-- 128 bytes of the page, whose bitmap lies at 2^24; and the sweep of world 0. -/
theorem witness_RevocationCompletes :
    ∃ (s : State) (o : ROp), (let c := s.rc o.oa
      capCheck s.world c (capBase c) (capLen c) pSYS = none ∧ capBase c % 64 = 0 ∧ capLen c % 64 = 0 ∧ capLen c ≠ 0 ∧
      capLocal c = false ∧ s.rvLo ≤ capBase c ∧ capTop c ≤ s.rvHi ∧ okR (releaseWait s 3) = true ∧
      okP (s.globalPieces s.world (some s.cluster.val) { r := true, w := true } false
        ((s.rvMap + (capBase c - s.rvLo) / 64 / 8) % 2 ^ 56)
        (((capBase c - s.rvLo) / 64 + capLen c / 64 - 1) / 8 - (capBase c - s.rvLo) / 64 / 8 + 1)) (fun ps =>
          ps.all (fun p => p.place != .hold) && okR (mapFree s ps) && okP (arrive s s.world ps) fun q => okP (loadPieces q ps { served := .owner }) fun r =>
            okR (storePieces r.2 ps (rvChange ((capBase c - s.rvLo) / 64) ((capBase c - s.rvLo) / 64 + capLen c / 64) true
              ((capBase c - s.rvLo) / 64 / 8) r.1) []) &&
            okR (storePieces r.2 ps (rvChange ((capBase c - s.rvLo) / 64) ((capBase c - s.rvLo) / 64 + capLen c / 64) false
              ((capBase c - s.rvLo) / 64 / 8) r.1) [])) = true) :=
  ⟨({ wS [] [capMake wPerm 0 0 false 0 0x400 128 0x400] with mem := wPages } : State).modWorld 0 fun w =>
      { w with troot := 0x10001, rvmap := 0x1000000, rvrng := 0x100000000 }, tR 0 1 0, by decide +kernel⟩
theorem witness_RevocationCompletes_sweeps :
    ∃ (s t u v : State) (o : ROp) (x y : Sweep), okR (sweepWorld s o) = true ∧ (s.wst 0).sweep = none ∧
      okP (sweepWorld t o) (fun w => w == 0) = true ∧ (t.wst 0).sweep = some x ∧ x.acked = false ∧
      u.act = some (.sweepMemory 0) ∧ (u.wst 0).sweep = some x ∧ v.act = some (.sweepComplete 0) ∧ (v.wst 0).sweep = some y ∧
      y.acked = true ∧ y.swept = true ∧ v.dupQuiet = true :=
  ⟨wS, wS.modWorld 0 fun w => { w with sweep := some ⟨3, 0, 0, 0, 0, false, false⟩ },
    (wDo wS (.sweepMemory 0)).modWorld 0 fun w => { w with sweep := some ⟨3, 0, 0, 0, 0, false, false⟩ },
    (wDo wS (.sweepComplete 0)).modWorld 0 fun w => { w with sweep := some ⟨3, 0, 0, 0, 0, true, true⟩ }, tR 0 0 0, _, _,
    by decide +kernel, by decide +kernel, by decide +kernel, rfl, rfl, rfl, rfl, rfl, rfl, rfl, rfl, by decide +kernel⟩

/-! ### The system group -/

theorem witness_TakingATrap :
    ∃ s t u : State, s.cur ≠ 15 ∧ s.trapQ.length < 16 ∧ s.hold = [] ∧ t.cur = 15 ∧ t.frec[0] = 0 ∧ u.cur = 15 ∧ u.frec[0] ≠ 0 :=
  ⟨wS.onSlot 3, wS, { wS with frec := #v[1, 0, 0, 0] }, by decide +kernel⟩
def wRec : TrapRec := ⟨1, 2, 3, 4⟩
/-- A user register, one below 0x080, a shared one, and one of those that a bind fixes. -/
theorem witness_SystemInstructionsComplete :
    ∃ (s t u : State) (o p q b : IOp), okR (readSys s (o.imm.toNat % 4096)) = true ∧
      sysBound (o.imm.toNat % 4096) = false ∧ o.imm.toNat % 4096 < 0x40 ∧ sysBound (p.imm.toNat % 4096) = false ∧
      0x40 ≤ p.imm.toNat % 4096 ∧ p.imm.toNat % 4096 < 0x80 ∧ sysBound (q.imm.toNat % 4096) = false ∧
      0x80 ≤ q.imm.toNat % 4096 ∧ sysBound (b.imm.toNat % 4096) = true ∧
      okR (releaseWait s 1) = true ∧ okR (fp4Idle s s.cur (o.imm.toNat % 4096)) = true ∧ s.trapQ = [] ∧ s.sl.wake = 0 ∧ t.trapQ = [wRec] ∧ u.trapQ = [] ∧ u.sl.wake ≠ 0 :=
  ⟨wS, { wS with trapQ := [wRec] }, wS.modCur fun sl => { sl with wake := 1 }, tI 1 0 0x000, tI 0 1 0x040, tI 0 1 0x140, tI 0 1 0x100,
    by decide +kernel⟩
/-- Slot 3 as `f` leaves it; x1 names it, x2 its x1, x3 its c1 and x4 its v60. -/
def wSup (f : Slot → Slot) : State := (wS [3, 0x0001, 0x1001, 0x503C]).modSlot 3 f
theorem witness_SystemInstructionsComplete_port :
    ∃ (s : State) (o : ROp), (s.rx o.oa).toNat = 3 ∧ (s.slot 3).stoppedHere = true ∧ o.md.sub ≠ 1 ∧
      ((selOf (s.rx o.ob) false false).any fun x => (s.slot 3).selPort x && (s.slot 3).selBad x == none) = true :=
  ⟨wSup fun sl => { sl with status := .parked .suspk, ports := #v[wPort true true [], .unbound, .unbound, .unbound] }, tR 4 1 4,
    by decide +kernel⟩
/-- TSW of a slot with no home tow, and of one of tow 1. -/
theorem witness_SystemInstructionsComplete_tsw :
    ∀ t ∈ [(0 : BitVec 16), 1], ∃ (s : State) (o : ROp), (s.rx o.oa).toNat = 3 ∧ (s.slot 3).stoppedHere = true ∧ o.md.sub ≠ 1 ∧
      ((selOf (s.rx o.ob) false false).any fun x => (s.slot 3).selBad x == none && x.file == 6 && x.num == 0x022) = true ∧
      okR (readTsw s 3) = true :=
  fun t ht => ⟨(wG [3, 0x0226000]).modSlot 3 fun sl => { sl with status := .parked .suspk, tow := t }, tR 4 1 2, by fin_cases ht <;> decide +kernel⟩
/-- suspk of a slot that is ready, waits, is away, and has stopped; one that an earlier attempt has asked for. -/
theorem witness_SystemInstructionsComplete_suspk :
    ∀ st ∈ [SlotStatus.ready, .waiting .bar 1, .away 5, .free, .parked .trap, .parked .suspk], ∀ a ∈ [none, some 2],
      ∃ (s : State) (o : ROp), (s.rx o.oa).toNat = 3 ∧ (s.slot 3).restoring = .none ∧ (s.slot 3).status = st ∧ (s.slot 3).suspAsk = a :=
  fun st _ a _ => ⟨wSup fun sl => { sl with status := st, suspAsk := a }, tR 4 1 2, (by decide +kernel : ((wSup id).rx 1).toNat = 3), rfl, rfl, rfl⟩
theorem witness_SystemInstructionsComplete_slots :
    ∃ (s r f d x : State) (o q : ROp), (∀ t ∈ [s, r, f, d, x], (t.rx o.oa).toNat = 3) ∧
      ((s.slot 3).stoppedHere = true ∧ (s.slot 3).wsecHeld = false ∧ okR (releaseWait s 1) = true) ∧
      ((r.slot 3).stoppedHere = false ∧ (r.slot 3).restoring = .none ∧ (r.slot 3).status = .ready ∧ r.suspendsNow 3 = true) ∧
      ((f.slot 3).status = .free ∧ (f.slot 3).restoring = .none) ∧ ((d.slot 3).status = .parked .trap ∧ (d.slot 3).restoring = .none) ∧
      ((x.slot 3).stoppedHere = true ∧ (x.slot 3).wsecHeld = true) ∧
      q.oa = o.oa ∧ o.md.sub ≠ 1 ∧ q.md.sub = 1 ∧
      ((selOf (s.rx o.ob) false false).any fun x => !(s.slot 3).selPort x && (s.slot 3).selBad x == none) = true ∧
      ((selOf (s.rx q.ob) true false).any fun x => (s.slot 3).selBad x == none) = true ∧
      ((selOf (s.rx o.ob) false true).any fun x => x.file != 6) = true ∧ (selOf (s.rx q.ob) true true).isSome :=
  ⟨wSup fun sl => { sl with status := .parked .trap, trapRec := some wRec }, wSup fun sl => { sl with status := .ready },
    wSup fun sl => { sl with status := .free }, wSup fun sl => { sl with status := .parked .trap },
    wSup fun sl => { sl with status := .parked .trap, trapRec := some { wRec with w0 := BitVec.ofNat 64 cWSEC } },
    tR 4 1 2, tR 4 1 3 (mdSub 1), by decide +kernel⟩
theorem witness_ReturnFromTrapResumesTheSlot :
    ∃ (s : State) (o : ROp), (s.rx o.oa).toNat = 3 ∧ s.cur = 15 ∧ o.hdr.sigInc = 0 ∧ (s.slot 3).status = .parked .trap ∧
      (s.slot 3).wsecHeld = false ∧ (s.slot 3).rep = none ∧ okR (releaseWait s 1) = true :=
  ⟨wSup fun sl => { sl with status := .parked .trap, trapRec := some wRec }, tR 0 1 1, by decide +kernel⟩
theorem witness_TrapQueueKeepsItsOrder :
    ∃ (s t : State), s.act = some .trapRecordEnqueue ∧ s.trapQ.length ≤ 16 ∧ s.hold ≠ [] ∧ exec .trapRecordEnqueue s = .next t :=
  ⟨{ wDo wS .trapRecordEnqueue with trapQ := List.replicate 15 wRec, hold := [(some 3, wRec), (some 4, wRec)] }, _, rfl, by decide +kernel,
    by decide +kernel, rfl⟩

/-! ### Issue -/

/-- The bytes that a slot's turn fetches, and the state after it. -/
def wBytes (s : State) (n : SlotId) : List Byte :=
  match fetchOnce (s.onTurn n) with
  | .ok r => r.1
  | .error _ => []
def wAfter (s : State) (n : SlotId) : State :=
  match fetchOnce (s.onTurn n) with
  | .ok r => r.2.holding r.1
  | .error _ => s
theorem wFetches {s : State} {n : SlotId} (h : (s.agenda.isEmpty && s.nextSlot == some n && (boundaryFail (s.onTurn n)).isNone &&
    okR (fetchOnce (s.onTurn n)) && (startFail (wAfter s n)).isNone) = true) : Fetches s n (wBytes s n) (wAfter s n) := by
  simp only [Bool.and_eq_true] at h
  obtain ⟨⟨⟨⟨h1, h2⟩, h3⟩, h4⟩, h5⟩ := h
  obtain ⟨r, hr⟩ := okR_ex h4
  refine ⟨List.isEmpty_iff.mp h1, by simpa using h2, by simpa using h3, ⟨r.2, ?_, ?_⟩, by simpa using h5⟩ <;> simp [wBytes, wAfter, hr]
/-- Slot 15 after reset, with instruction `i` at its pc; and slot 3 in its place. -/
def wRun (i : Instr) (s : State := State.reset) : State := s.withFetchWord 96 ((encode i).getD 0).toNat
def wRun3 (i : Instr) (f : Slot → Slot := id) : State :=
  let s := wRun i
  (s.modSlot 3 fun _ => f { s.slot 15 with status := .ready }).modSlot 15 fun sl => { sl with status := .parked .wfs }
def wComesB (s : State) (n : SlotId) (i : Instr) (opc : Nat) (b : Body) : Bool :=
  s.agenda.isEmpty && s.nextSlot == some n && (boundaryFail (s.onTurn n)).isNone && okR (fetchOnce (s.onTurn n)) &&
    (startFail (wAfter s n)).isNone && (match decodeBytes (wBytes s n) with
      | .ok j => decide (j = i)
      | .error _ => false) && decide (i.parts = some (opc, b)) && (!privileged opc b || (wAfter s n).cur == 15) &&
    ((wAfter s n).sl.rep.isNone || goesOn opc) &&
    ((wAfter s n).sl.begun || (arrivedHome (wAfter s n) (issuesAt opc b (wAfter s n))).isNone) && (!accesses opc || !(wAfter s n).heldBack)
theorem wComes {s : State} {n : SlotId} {i : Instr} {opc : Nat} {b : Body} (h : wComesB s n i opc b = true) :
    Comes s n i opc b (wAfter s n) := by
  simp only [wComesB, Bool.and_eq_true] at h
  obtain ⟨⟨⟨⟨⟨⟨h1, h2⟩, h3⟩, h4⟩, h5⟩, h7⟩, h6⟩ := h
  refine ⟨⟨_, wFetches (by simpa only [Bool.and_eq_true] using h1), ?_⟩, by simpa using h3, by simpa using h4, by simpa using h5,
    by simpa using h7, by simpa using h6⟩
  split at h2
  · next j hj => rw [hj, of_decide_eq_true h2]
  · cases h2
def wAdmittedB (i : Instr) (opc : Nat) (b : Body) (y : State) : Bool :=
  (y.sl.guardBad (bodyHdr b)).isNone && (semOut y.sl (semNames opc b)).isNone && (y.semFail (semReads opc b)).isNone &&
    (y.readsBad i).isNone
theorem wAdmitted {i : Instr} {opc : Nat} {b : Body} {y : State} (h : wAdmittedB i opc b y = true) : Admitted i opc b y := by
  simp only [wAdmittedB, Bool.and_eq_true, Option.isNone_iff_eq_none] at h
  exact ⟨h.1.1.1, h.1.1.2, h.1.2, h.2⟩
def wAdd : Instr := .add (.i (tI 1 2 3 (mdTy 3)))
def wAddB : Body := .i (tI 1 2 3 (mdTy 3))

theorem witness_StepRunsTheDecodedInstruction :
    (∃ (s : State) (n : SlotId) (i : Instr) (opc : Nat) (b : Body) (w y : State), Comes s n i opc b w ∧ w.sl.begun = false ∧
      y = issuesAt opc b w ∧ Admitted i opc b y ∧ y.sl.guards (bodyHdr b) = true ∧ (bodyWait b).thr = 0) ∧
    (∃ (s : State) (n : SlotId) (i : Instr) (opc : Nat) (b : Body) (w : State), Comes s n i opc b w ∧ w.sl.begun = true ∧
      w.filterAway.readsBad i = none) ∧
    (∀ b : Bool, ∃ (s : State) (a : Act) (rest : List Act), s.agenda = a :: rest ∧ s.tripped = b ∧ a ≠ .coldReset) ∧
    (∃ (s : State) (a : Act) (rest : List Act), s.agenda = a :: rest ∧ s.nextSlot = none) ∧
    ∃ (s : State) (a : Act) (rest : List Act) (n : SlotId), s.agenda = a :: rest ∧ s.tripped = false ∧ actWorks a = true ∧
      s.nextSlot = some n :=
  ⟨⟨wRun wAdd, 15, wAdd, 1, wAddB, _, _, wComes (by decide +kernel), by decide +kernel, rfl, wAdmitted (by decide +kernel),
      by decide +kernel, by decide +kernel⟩,
    ⟨(wRun wAdd).modSlot 15 fun sl => { sl with begun := true }, 15, wAdd, 1, wAddB, _, wComes (by decide +kernel), by decide +kernel,
      by decide +kernel⟩,
    fun b => ⟨{ State.reset with agenda := [.localRefill], tripped := b }, _, _, rfl, rfl, by decide⟩,
    ⟨(({ State.reset with agenda := [.localRefill] } : State).modSlot 15 fun sl => { sl with status := .parked .wfs }), _, _, rfl,
      by decide +kernel⟩,
    ⟨{ wRun wAdd with agenda := [.copyChunk] }, _, _, 15, rfl, by decide +kernel⟩⟩
def wGuard : Body := .i { tI 1 2 3 (mdTy 3) with hdr := ⟨1, 0, 0, 0⟩ }
theorem witness_FailedGuardPassesOver :
    ∃ (s : State) (n : SlotId) (i : Instr) (opc : Nat) (b : Body) (w y : State), Comes s n i opc b w ∧ w.sl.begun = false ∧
      y = issuesAt opc b w ∧ y.sl.guardBad (bodyHdr b) = none ∧ y.sl.guards (bodyHdr b) = false :=
  ⟨wRun (.add (.i { tI 1 2 3 (mdTy 3) with hdr := ⟨1, 0, 0, 0⟩ })), 15, .add (.i { tI 1 2 3 (mdTy 3) with hdr := ⟨1, 0, 0, 0⟩ }), 1, wGuard,
    _, _, wComes (by decide +kernel), by decide +kernel, rfl, by decide +kernel⟩
/-- trq of slot 3; and vadd of a fibre at a quay core. -/
theorem witness_PrivilegedFormsRaisePriv :
    (∃ (s : State) (n : SlotId) (bs : List Byte) (w : State) (i : Instr) (opc : Nat) (b : Body), Fetches s n bs w ∧
      decodeBytes bs = .ok i ∧ i.parts = some (opc, b) ∧ privileged opc b = true ∧ w.cur ≠ 15) ∧
    ∃ (s : State) (n : SlotId) (i : Instr) (opc : Nat) (b : Body) (w y : State) (q : Fin 128), Comes s n i opc b w ∧
      w.sl.begun = false ∧ w.sl.quay = some q ∧ quaySubset opc = false ∧ y = w.filterAway.goHome w.cur ∧ Admitted i opc b y ∧
      y.sl.guards (bodyHdr b) = true ∧ (bodyWait b).thr = 0 :=
  ⟨⟨wRun3 (.trq (tR 1 0 0)), 3, _, _, .trq (tR 1 0 0), 0x284, .r (tR 1 0 0), wFetches (by decide +kernel), by decide +kernel, by decide +kernel,
      by decide +kernel, by decide +kernel⟩,
    ⟨wRun3 (.vadd (tR 1 0 2 (mdTy 6))) fun sl => { sl with quay := some 5 }, 3, .vadd (tR 1 0 2 (mdTy 6)), 0x80, .r (tR 1 0 2 (mdTy 6)), _, _, 5,
      wComes (by decide +kernel), by decide +kernel, by decide +kernel, by decide +kernel, rfl, wAdmitted (by decide +kernel),
      by decide +kernel, by decide +kernel⟩⟩
theorem witness_IllegalWordsRaiseTheirSubCode :
    (∃ (s : State) (n : SlotId) (bs : List Byte) (w : State) (k : Nat), Fetches s n bs w ∧ decodeBytes bs = .error k) ∧
    (∃ w : BitVec 96, assignedOpc (opcOf w) = true ∧ build (opcOf w) (bodyOf w) = none) ∧
    (∃ (w : BitVec 96) (i : Instr), assignedOpc (opcOf w) = true ∧ build (opcOf w) (bodyOf w) = some i ∧ i.rows.first = none) ∧
    ∃ (w : BitVec 96) (i : Instr), assignedOpc (opcOf w) = true ∧ build (opcOf w) (bodyOf w) = some i ∧ i.rows.first = some 5 :=
  ⟨⟨State.reset.withFetchWord 96 0, 15, _, _, 1, wFetches (by decide +kernel), by decide +kernel⟩,
    ⟨word3 0x00000404 0 0, by decide +kernel⟩,
    ⟨(encode wAdd).getD 0, wAdd, by decide +kernel⟩,
    ⟨(encode (.add (.i (tI 32 2 3 (mdTy 3))))).getD 0, .add (.i (tI 32 2 3 (mdTy 3))), by decide +kernel⟩⟩
/-- An add that waits for 7 units of semaphore 4. -/
def wWait : ROp := { tR 1 2 3 (mdTy 3) with wait := tWait }
theorem witness_WaitTakesTheThresholdAtOnce :
    (∃ (s : State) (n : SlotId) (i : Instr) (opc : Nat) (b : Body) (w y : State) (f : Fail), Comes s n i opc b w ∧ w.sl.begun = false ∧
      y = issuesAt opc b w ∧ y.sl.guardBad (bodyHdr b) = none ∧ y.sl.guards (bodyHdr b) = true ∧
      semOut y.sl (semNames opc b) = some f) ∧
    (∀ k ∈ [0, 7], ∃ (s : State) (n : SlotId) (i : Instr) (opc : Nat) (b : Body) (w y : State), Comes s n i opc b w ∧ w.sl.begun = false ∧
      y = issuesAt opc b w ∧ y.sl.guardBad (bodyHdr b) = none ∧ y.sl.guards (bodyHdr b) = true ∧ Admitted i opc b y ∧
      (bodyWait b).thr = 7 ∧ y.cur = n ∧ y.semVal (bodyWait b).sm = k ∧
      (k = 7 → (y.waitSem (.slot n) (bodyWait b).sm 7).any (fun z => (z.readsBad i).isNone) = true)) ∧
    ∃ (s : State) (sm : BitVec 8) (k : Nat), s.sl.taken = some (sm, k) ∧ s.sl.rep.bind (·.taken) = none ∧ s.cur ≠ 15 := by
  refine ⟨⟨wRun3 (.add (.r wWait)) fun sl => { sl with smwin := 0 }, 3, .add (.r wWait), 1, .r wWait, _, _, ⟨cPROT, 13, 4⟩,
      wComes (by decide +kernel), by decide +kernel, rfl, by decide +kernel⟩, ?_,
    ⟨(wS.onSlot 3).modCur fun sl => { sl with taken := some (4, 7) }, 4, 7, by decide +kernel⟩⟩
  intro k hk
  refine ⟨(wRun (.add (.r wWait))).semSet 4 k, 15, .add (.r wWait), 1, .r wWait, wAfter ((wRun (.add (.r wWait))).semSet 4 k) 15,
    issuesAt 1 (.r wWait) (wAfter ((wRun (.add (.r wWait))).semSet 4 k) 15), ?_⟩
  rcases List.mem_pair.mp hk with rfl | rfl <;>
    exact ⟨wComes (by decide +kernel), by decide +kernel, rfl, by decide +kernel, by decide +kernel, wAdmitted (by decide +kernel),
      by decide +kernel⟩
/-- A pc that is no multiple of 4, and a pcc without a tag. -/
theorem witness_InstructionsAdvanceByTwelve :
    ∃ s t : State, s.sl.bad.contains (2, 0) = false ∧ s.sl.pc.toNat % 4 ≠ 0 ∧ t.sl.bad.contains (2, 0) = false ∧
      t.sl.pc.toNat % 4 = 0 ∧ (capCheck t.world t.sl.pcc t.sl.pc.toNat 12 pX).isSome :=
  ⟨wS.modCur fun sl => { sl with pcc := wGlob 2 }, wS.modCur fun sl => { sl with pcc := Cap.null }, by decide +kernel⟩
theorem witness_SignalFollowsTheInstruction :
    ∃ (s t u : State) (h : Hdr), h.sigInc ≠ 0 ∧ s.slotDone s.cur = true ∧ s.semVal h.sigSm + h.sigInc.toNat ≤ 65535 ∧
      t.slotDone t.cur = true ∧ 65535 < t.semVal h.sigSm + h.sigInc.toNat ∧ t.cur ≠ 15 ∧ u.slotDone u.cur = false :=
  ⟨wS, ((wS.onSlot 3).semSet 3 65535), nextOf (exec (.redadd (tM 0 1 1 2)) (wS [1])), tHdr, by decide +kernel⟩

/-! ### The slot table, the tows, pages and images -/

/-- A record of world 0 at priority 0. -/
def wRcd : Rec := ⟨wGlob, Cap.null, 0, 0, 0, 0⟩
def wEntry (save : Cap := wGlob 0) (cm sm : Word := 0) : BindEntry := ⟨wRcd, save, cm, sm, 0, 0, 0, false⟩
def wSlotAt (a : Act) (f : Slot → Slot := fun sl => { sl with status := .free }) : State := (wDo (wG) a).modSlot 3 f
/-- A bind of slot 15; then SAVECAP, CMWIN and SMWIN refused; then a bind that is not refused. -/
theorem witness_SlotTableEventsGiveRecordsToSlots :
    (∀ p ∈ [((15 : SlotId), wEntry, some 5), (3, wEntry Cap.null, some 6), (3, wEntry (wGlob 0) 1, some 7),
        (3, wEntry (wGlob 0) 0 0x100FF, some 8), (3, wEntry, none)],
      ∃ s t : State, s.act = some (.bind p.1 p.2.1) ∧ t.act = some (.stand p.1 p.2.1) ∧
        (∀ u ∈ [s, t], (u.writeEntry p.1 p.2.1).bindRefused p.1 p.2.1 = p.2.2 ∧
          u.bindRefused p.1 p.2.1 = p.2.2)) ∧
    ∃ (s q r t : State), q.act = some (.preempt 3) ∧ (q.slot 3).status ≠ .free ∧ q.suspendsNow 3 = false ∧ s.act = some (.preempt 3) ∧ (s.slot 3).status ≠ .free ∧ s.suspendsNow 3 = true ∧
      r.act = some (.restoreUnitTake 3) ∧ (r.slot 3).restoring = .image ∧ t.act = some (.restoreUnitTake 3) ∧
      (t.slot 3).restoring = .units := by
  refine ⟨fun p hp => ⟨wSlotAt (.bind p.1 p.2.1), wSlotAt (.stand p.1 p.2.1), rfl, rfl, ?_⟩,
    ⟨wSlotAt (.preempt 3) fun sl => { sl with status := .ready }, wSlotAt (.preempt 3) fun sl => { sl with status := .ready, quay := some 5 },
      wSlotAt (.restoreUnitTake 3) fun sl => { sl with restoring := .image },
      wSlotAt (.restoreUnitTake 3) fun sl => { sl with restoring := .units }, by decide +kernel⟩⟩
  fin_cases hp <;> decide +kernel
/-- A message of another core arrives as it was sent; the transfer of a protected world fails. -/
theorem witness_SlotTableEventsGiveRecordsToSlots_transfers :
    ∃ (s t : State) (r : Rec), s.act = some (.heldMessageDelivery (some (r, true))) ∧ s.transferOk (recWorld r) true = true ∧
      t.act = some (.heldMessageDelivery (some (r, false))) ∧ t.transferOk (recWorld r) false = false :=
  ⟨wDo wS (.heldMessageDelivery (some ({ wRcd with ctl := 2 ^ 18 }, true))),
    (wDo wS (.heldMessageDelivery (some ({ wRcd with ctl := 2 ^ 18 }, false)))).modWorld 1 fun w => { w with wseal := 1 },
    { wRcd with ctl := 2 ^ 18 }, by decide +kernel⟩
theorem witness_SlotTableEventsGiveRecordsToSlots_queues :
    ∃ (s p h : State) (r : Rec) (i : SlotId), s.act = some .localRefill ∧ s.refillRec = some r ∧ s.localSlot (recWorld r) = some i ∧
      p.act = some (.cmqPromote 0) ∧ (p.ring 0).recs ≠ [] ∧ h.act = some (.heldMessageDelivery none) ∧ h.heldMsgs ≠ [] :=
  ⟨{ wSlotAt .localRefill fun sl => { sl with status := .free, isLocal := true } with lrq := [wRcd] },
    { wDo wS (.cmqPromote 0) with cmq := wS.cmq.set 0 ⟨4, [wRcd]⟩ }, { wDo wS (.heldMessageDelivery none) with heldMsgs := [wRcd] }, wRcd, 3,
    by decide +kernel⟩
/-- Writes of 64 bytes and of 63; a queue with room, and one that is full. -/
theorem witness_SlotTableEventsGiveRecordsToSlots_aperture :
    ∃ (s t u : State) (p : HostPort) (fn : World) (d e : List Byte), s.act = some (.enqueueApertureWrite p fn 64 d) ∧
      t.act = some (.enqueueApertureWrite p fn 64 d) ∧ u.act = some (.enqueueApertureWrite p fn 64 e) ∧
      (∀ v ∈ [s, t, u], (v.wst fn).inFlr = false ∧ v.portWaits p = false) ∧ 64 < 2 ^ 14 ∧ d.length = 64 ∧ e.length ≠ 64 ∧
      s.crqRoom 1 (s.apertureRecord fn 0 d) = true ∧ t.crqRoom 1 (t.apertureRecord fn 0 d) = false :=
  ⟨wDo wS (.enqueueApertureWrite .a 0 64 (List.replicate 64 0)),
    { wDo wS (.enqueueApertureWrite .a 0 64 (List.replicate 64 0)) with clq := List.replicate 72 ⟨1, wRcd⟩ },
    wDo wS (.enqueueApertureWrite .a 0 64 (List.replicate 63 0)), .a, 0, List.replicate 64 0, List.replicate 63 0, rfl, rfl, rfl,
    by decide +kernel⟩

def wAwait (kind : WaitKind) (swap : Bool) : AwaitEntry := ⟨kind, if kind == .sem then 5 else 0, 1, wRcd, 1, 0, swap⟩
theorem witness_TowEventsComplete :
    (∀ e ∈ [wAwait .full true, wAwait .full false, wAwait .empty false, wAwait .sem false], ∃ s : State,
      s.act = some (.awaitConditionHolds 2) ∧ s.await[Fin.ofNat 32 2] = some e ∧ s.awaitHolds (Fin.ofNat 32 2) e = true) := by
  intro e he
  refine ⟨({ wDo wS (.awaitConditionHolds 2) with
      await := wS.await.set 2 (some e)
      full := if e.kind == .full then [0x100000000000] else [] } : State).semSet 5 1, ?_⟩
  fin_cases he <;> decide +kernel
/-- Tow 1 has an address for its snapshot; slot 3 is its one member, and waits. -/
def wTowed (a : Act) : State :=
  let s := wDo (wG) a
  { s.modSlot 3 (fun sl => { sl with tow := 1, status := .waiting .sem 5, savecap := wGlob 0x4000 }) with
    mem := [(0x131, 1)] ++ wPages
    tally := s.tally.set 3 ⟨some (0, 1), true, true⟩ }
theorem witness_TowEventsComplete_swaps :
    ∃ (b c s r l q : State), b.act = some (.budgetCharge 0 1 7) ∧ c.act = some (.budgetCharge 0 1 0) ∧ s.act = some (.towSwap 0 1) ∧
      r.act = some (.towReturn 0 1) ∧ q.act = some (.towReturn 0 1) ∧ s.actsHeld 0 1 = false ∧ l.actsHeld 0 1 = false ∧ l.act = some (.launchCompletion 0 1) ∧
      (∀ p ∈ [(r, false), (q, true)], (match p.1.towTr 0 1 with
        | .ok k _ => bitN ((p.1.unmarkTow 0 1).towNat k 4 4) 5 == p.2
        | _ => false) = true) ∧
      (∀ u ∈ [c, s, r, l, q], (match u.towTr 0 1 with
        | .ok k m => !u.dupBusy m k 256
        | _ => false) = true) ∧ s.swapping.contains (0, 1) = false ∧
      (match s.towTr 0 1 with
        | .ok k _ => s.towNat k 0x30 8 != 0 && !bitN (s.towNat k 4 4) 4 && !bitN (s.towNat k 4 4) 5
        | _ => false) = true ∧
      s.members 0 1 ≠ [] ∧ (s.members 0 1).all (fun i => s.tally[i].wait) = true ∧
      (s.members 0 1).any (fun i => s.tally[i].long) = true ∧ s.swapRoom (s.members 0 1) = true ∧
      (s.members 0 1).all s.suspendsNow = true ∧ q.swapped.filter (fun r => r.1 == 0 && r.2.1 == 1) ≠ [] ∧ r.swapped.filter (fun r => r.1 == 0 && r.2.1 == 1) ≠ [] ∧
      (l.launches.find? fun l => l.1 == 0 && l.2.1 == 1).isSome ∧ l.worldQuiet 0 = true :=
  ⟨wTowed (.budgetCharge 0 1 7), wTowed (.budgetCharge 0 1 0), wTowed (.towSwap 0 1),
    { wTowed (.towReturn 0 1) with swapped := [(0, 1, wRcd)] }, { wTowed (.launchCompletion 0 1) with launches := [(0, 1, 2)] },
    { wTowed (.towReturn 0 1) with swapped := [(0, 1, wRcd)], mem := [(0x104, 0x20), (0x131, 1)] ++ wPages },
    by decide +kernel⟩
/-- The swap of tow 1 is decided: its member can be suspended now, or is at a quay core. -/
theorem witness_TowEventsComplete_decided :
    ∀ b : Bool, ∃ s : State, s.act = some (.towSwap 0 1) ∧ s.actsHeld 0 1 = false ∧ s.swapping.contains (0, 1) = true ∧
      s.members 0 1 ≠ [] ∧ s.allSuspend (s.members 0 1) = b ∧ (match s.towTr 0 1 with
        | .ok k m => !bitN (s.towNat k 4 4) 5 && !s.dupBusy m k 256
        | _ => false) = true :=
  fun b => ⟨{ (wTowed (.towSwap 0 1)).modSlot 3 (fun sl => { sl with quay := if b then none else some 5 }) with swapping := [(0, 1)] },
    by cases b <;> decide +kernel⟩
theorem witness_TowEventsComplete_windows :
    ∀ b : Bool, ∃ (s : State) (c : Coalesce), s.act = some (.coalescingWindowEnd .a false 0 3) ∧
      s.coalesce.find? (fun c : Coalesce => c.port == .a && c.uli == false && c.fn == 0 && c.vec == 3) = some c ∧ c.pending = b :=
  fun b => ⟨{ wDo wS (.coalescingWindowEnd .a false 0 3) with coalesce := [⟨.a, false, 0, 3, b⟩] }, _, rfl, rfl, rfl⟩
theorem witness_PageEventsComplete :
    ∃ (s i p c x y : State), s.act = some (.pageRequestRefusal 0 0x20000 3) ∧
      s.pageReqs.filter (fun r : PageReq => r.covers 0 0x20000 && r.quay == 3) ≠ [] ∧ i.act = some (.invalidationApplied 4 2) ∧
      (i.dup.any fun x => x.line == 4 && x.die == 2) = true ∧ p.act = some (.storePerformed 0 9 [1, 2] none true) ∧ keyIsCl (16 * 9) = false ∧
      p.dup.any (·.line == 1) = false ∧ p.dupAcks.any (·.1 == 1) = false ∧ c.act = some .copyChunk ∧
      c.slots.toList.all (·.copies.isEmpty) = false ∧ (∀ b ∈ [true, false], ∃ z ∈ [x, y],
        z.act = some (.storePerformed 0 (locKey 0 / 16) (List.replicate 16 7) (some true) b) ∧ keyIsCl (16 * (locKey 0 / 16)) = true ∧
        z.dup.any (·.line == locKey 0 / 16 / 8) = false ∧ z.dupAcks.any (·.1 == locKey 0 / 16 / 8) = false) :=
  ⟨{ wDo wS (.pageRequestRefusal 0 0x20000 3) with pageReqs := [⟨0, 0x20000, 0x10000, 3, .unmapped, false⟩] },
    { wDo wS (.invalidationApplied 4 2) with dup := [⟨4, 2, [], []⟩] }, wDo wS (.storePerformed 0 9 [1, 2] none true),
    (wDo (wG [128]) .copyChunk).modCur fun sl => { sl with copies := [cpyCommand (wG [128]) (tR 2 1 1)] },
    wDo wS (.storePerformed 0 (locKey 0 / 16) (List.replicate 16 7) (some true) true),
    wDo wS (.storePerformed 0 (locKey 0 / 16) (List.replicate 16 7) (some true) false), by decide +kernel⟩

/-- An export and an import of one line of world 0, through port A; `mac` is the first byte of the line's MAC in the image. -/
def wExp (code : BitVec 8 := 0) (passed : Option Nat := none) : ExpOp :=
  ⟨1, 0, .a, 0, 0, 0x80 <<< 32, 0, code, passed⟩
def wImage (mac : Byte := 0) (sctr : Word := 0) (a : Act := .exportImage) (code : BitVec 8 := 0) : State :=
  ({ wDo wS a with
      cl := { wS.cl with exp := some (wExp code) }
      sessA := true
      mem := [(2 ^ 64, 0x43), (2 ^ 64 + 1, 0x39), (2 ^ 64 + 2, 0x58), (2 ^ 64 + 3, 0x4C), (2 ^ 64 + 4, 1), (2 ^ 64 + 16, 1)] ++
        if mac = 0 then [] else [(2 ^ 64 + 264, mac)] } : State).modWorld 0 fun w => { w with sctr := sctr }
theorem witness_ImagesAreCheckedFirst :
    ∃ (s p t : State) (e : ExpOp), s.cl.exp = some e ∧ e.code = 0 ∧ s.act = some .importImage ∧ t.cl.exp = some (wExp 2) ∧
      t.act = some .exportImportComplete ∧ p.portUp e.port = false ∧ s.portUp e.port = true ∧ s.nat (e.at 0) 4 = 0x4C583943 ∧
      e.passed = none ∧ s.nat (e.at 4) 2 = 1 ∧ s.nat (e.at 6) 2 = e.world.val ∧ s.nat (e.at 16) 8 = e.lines ∧
      s.nat (e.at 8) 8 < (s.wst e.world).sctr.toNat ∧ p.nat (e.at 0) 4 ≠ 0x4C583943 :=
  ⟨wImage 0 1 .importImage, wS, wImage 0 0 .exportImportComplete 2, wExp, by decide +kernel⟩
theorem wImage_header : ∀ m ∈ [(0 : Byte), 1], (wImage m).portUp .a = true ∧ (wImage m).nat ((wExp).at 0) 4 = 0x4C583943 ∧
    (wImage m).nat ((wExp).at 4) 2 = 1 ∧ (wImage m).nat ((wExp).at 6) 2 = 0 ∧ (wImage m).nat ((wExp).at 16) 8 = 1 ∧
    (wImage m).nat ((wExp).at 8) 8 = 0 ∧ (wImage m).byte ((wExp).at 256) = 0 ∧
    (wImage m).bytes ((wExp).at 128) 128 = List.replicate 128 0 ∧ ((wImage m).wst 0).sctr = 0 ∧ ((wImage m).wst 0).kcGen = 0 := by
  decide +kernel
/-- Of two images that differ in the MAC of a line alone, one fails its check, whatever the MAC is. -/
theorem wImage_fails : ∃ m ∈ [(0 : Byte), 1], (wImage m).imageLineOk wExp 0 0 0 = false := by
  have h0 : (wImage 0).nat ((wExp).at 264) 8 = 0 := by decide +kernel
  have h1 : (wImage 1).nat ((wExp).at 264) 8 = 1 := by decide +kernel
  have key : ∀ m ∈ [(0 : Byte), 1], (wImage m).imageLineOk wExp 0 0 0 =
      (BitVec.ofNat 64 ((wImage m).nat ((wExp).at 264) 8) == lineMac 0 0 0 0 (List.replicate 128 0)) := by
    intro m hm
    obtain ⟨-, -, -, -, -, -, b, c, -, -⟩ := wImage_header m hm
    show (BitVec.ofNat 64 ((wImage m).nat (wExp.at 264) 8) == lineMac 0 0 0 ((wImage m).byte (wExp.at 256))
      ((wImage m).bytes (wExp.at 128) 128)) = _
    rw [b, c]
  by_cases h : lineMac 0 0 0 0 (List.replicate 128 0) = 0
  · exact ⟨1, by decide, by rw [key 1 (by decide), h1, h]; decide⟩
  · exact ⟨0, by decide, by rw [key 0 (by decide), h0]; exact beq_false_of_ne fun e => h e.symm⟩
theorem witness_ImagesAreCheckedFirst_macs :
    ∃ (s : State) (e : ExpOp) (ix : Nat), s.portUp e.port = true ∧ e.passed = none ∧ s.nat (e.at 0) 4 = 0x4C583943 ∧
      s.nat (e.at 4) 2 = 1 ∧ s.nat (e.at 6) 2 = e.world.val ∧ s.nat (e.at 16) 8 = e.lines ∧
      (s.wst e.world).sctr.toNat ≤ s.nat (e.at 8) 8 ∧ ix < e.lines ∧
      s.imageLineOk e (s.wst e.world).kcGen (s.nat (e.at 8) 8) ix = false := by
  obtain ⟨m, hm, hf⟩ := wImage_fails
  obtain ⟨a, b, c, d, g, h, -, -, i, j⟩ := wImage_header m hm
  exact ⟨wImage m, wExp, 0, a, rfl, b, c, d, g, by rw [show (wExp).world = 0 from rfl, i, h]; decide, by decide,
    by rw [show (wExp).world = 0 from rfl, j, h]; exact hf⟩
theorem witness_ImagesAreCheckedFirst_second :
    ∃ (s : State) (e : ExpOp) (ctr ix : Nat), s.portUp e.port = true ∧ e.passed = some ctr ∧ ix < e.lines ∧
      s.imageLineOk e (s.wst e.world).kcGen ctr ix = false := by
  obtain ⟨m, hm, hf⟩ := wImage_fails
  obtain ⟨a, -, -, -, -, -, -, -, -, j⟩ := wImage_header m hm
  refine ⟨wImage m, wExp 0 (some 0), 0, 0, a, rfl, by decide, ?_⟩
  rw [show (wExp 0 (some 0)).world = 0 from rfl, j]
  exact hf

/-! ### The host, the mailbox, the fabric and the resets -/

/-- A function's state in which every group of counters but the last two may be read. -/
def wHost (a : Act) : State := (wDo (wG) a).modWorld 0 fun w => { w with allow := 1 }
theorem witness_HostAccessesComplete :
    ∃ (r w p q c : State), r.act = some (.hostBar2Read .a 0 0x100 8) ∧ inBar2 0x100 8 = true ∧
      r.portBehind .a = false ∧ w.portWaits .a = false ∧ w.act = some (.hostBar2Write .a 0 0x100 [1, 2] false) ∧ inBar2 0x100 2 = true ∧
      (w.wst 0).inFlr = false ∧ (w.outsidePuts (.port .a) 0 (outsideCuts ((w.wst 0).hbase.toNat + 0x100) 2) [1, 2]).isSome ∧
      (∀ off ∈ [0, 0x4100, 0x4108, 0x4110, 0x4118, 0x1000C0, 0x13E000], off + 8 ≤ 2 ^ 21 ∧
        (wHost (.counterGroupRead .a 0 off 8)).act = some (.counterGroupRead .a 0 off 8) ∧
        (wHost (.counterGroupRead .a 0 off 8)).portBehind .a = false ∧
        ((wHost (.counterGroupRead .a 0 off 8)).wst 0).allow.getLsbD 0 = true ∧
        ((wHost (.counterGroupRead .a 0 off 8)).wst 0).allow.getLsbD 62 = false) ∧
      (∀ off ∈ [0x4100, 0x4FFF, 0x8000, 0x83FF],
        (wHost (.enqueueApertureWrite .a 0 off [1])).act = some (.enqueueApertureWrite .a 0 off [1]) ∧
        ((wHost (.enqueueApertureWrite .a 0 off [1])).wst 0).inFlr = false ∧
        (wHost (.enqueueApertureWrite .a 0 off [1])).portWaits .a = false) ∧
      p.act = some (.psemTake .a) ∧ p.psem &&& 3 = 0 ∧ q.act = some (.psemRelease .a) ∧ q.psem &&& 3 = portId .a ∧
      c.act = some (.cwinTimeout 2) ∧ c.cwins[2] = some ⟨0, 0x400, 256, 1, 1, true⟩ ∧
      (({ c with cwins := c.cwins.set 2 (some ⟨0, 0x400, 256, 1, 1, false⟩) } : State).cwinKey ⟨0, 0x400, 256, 1, 1, true⟩).isSome :=
  ⟨wDo (wG) (.hostBar2Read .a 0 0x100 8), wDo (wG) (.hostBar2Write .a 0 0x100 [1, 2] false),
    wDo (wG) (.psemTake .a), { wDo (wG) (.psemRelease .a) with psem := 1 },
    { wDo (wG) (.cwinTimeout 2) with cwins := (wG).cwins.set 2 (some ⟨0, 0x400, 256, 1, 1, true⟩) }, by decide +kernel⟩
theorem witness_HostAccessesComplete_mgmt :
    ∃ (s t : State) (v : Word), s.act = some (.mgmtRegisterWrite .allow 0 1 (some 2)) ∧
      t.act = some (.mgmtRegisterWrite .allow 0 1 none) ∧ t.mgmtRead .allow 0 1 = some v :=
  ⟨wDo wS (.mgmtRegisterWrite .allow 0 1 (some 2)), wDo wS (.mgmtRegisterWrite .allow 0 1 none), _, rfl, rfl, rfl⟩
/-- A command written through port A to the mailbox of function 0, with tag 5. -/
def wMb : MbCmd := ⟨.a, 0, 5, []⟩
/-- Tow 1 is suspended and tow 2 is not; window 3 is another world's, window 4 none's and window 5 this world's. -/
def wBox (a : Act) : State :=
  { wDo (wG) a with
    mem := [(0x104, 32)] ++ wPages
    cwins := ((wG).cwins.set 3 (some ⟨1, 0x400, 256, 1, 1, true⟩)).set 5 (some ⟨0, 0x400, 256, 1, 1, true⟩) }
theorem witness_MailboxCompletes :
    (∀ a : Act, (wBox a).act = some a ∧ (wBox a).mbFree wMb.fn = true) ∧
    (∀ a ∈ [Act.towResume wMb 1 7, .towResume wMb 2 7], ((wBox a).mbBegin wMb 0x02).suspendedTow 0 2 = none ∧
      (((wBox a).mbBegin wMb 0x02).suspendedTow 0 1).isSome) ∧
    (∀ a ∈ [Act.towDiscard wMb 1, .towDiscard wMb 2], ((wBox a).mbBegin wMb 0x03).suspendedTow 0 2 = none ∧
      (((wBox a).mbBegin wMb 0x03).suspendedTow 0 1).isSome) ∧
    (∀ a ∈ [Act.cwinSet wMb 0 3 0x400 256 256 65535, .cwinSet wMb 0 4 0x400 256 256 65535, .cwinSet wMb 1 4 0x400 256 256 65535],
      ((wBox a).mbBegin wMb 0x05).cwinTaken 0 3 = true ∧ ((wBox a).mbBegin wMb 0x05).cwinTaken 0 4 = false ∧
      ((wBox a).mbBegin wMb 0x05).cwinPages 0 0x400 256 = true) ∧
    (∀ a ∈ [Act.cwinArm wMb 3, .cwinArm wMb 4, .cwinArm wMb 5], let u := (wBox a).mbBegin wMb 0x06
      u.cwinTaken 0 3 = true ∧ u.cwinTaken 0 4 = false ∧ u.cwins[4].bind u.cwinKey = none ∧ u.cwinTaken 0 5 = false ∧
      (u.cwins[5].bind u.cwinKey).isSome) := by
  refine ⟨fun a => ⟨rfl, (by decide +kernel : (wBox .localRefill).mbFree 0 = true)⟩, ?_, ?_, ?_, ?_⟩ <;> decide +kernel
theorem witness_MailboxCompletes_ends :
    ∃ (s : State) (fn : World) (p : HostPort), s.act = some (.mailboxCompletion fn) ∧ (s.wst fn).mbst.extractLsb' 0 8 = 1 ∧
      (s.wst fn).mbPort = some p ∧ s.portUp p = true :=
  ⟨({ wDo wS (.mailboxCompletion 2) with sessA := true } : State).modWorld 2 fun w => { w with mbst := 0x50001, mbPort := some .a }, 2, .a,
    by decide +kernel⟩
/-- Port A holds PSEM; world 2 exists and is protected, for tenant 9, world 3 does not exist; a region to export. -/
def wPf (a : Act) : State :=
  (({ wDo wS a with
      psem := 1
      sessA := true
      cl := { wS.cl with expsrc := 0x80 <<< 32 } } : State).modWorld 2 fun w => { w with created := true, wseal := 1, tenant := 9 })
/-- A policy that tenant `k` has signed for this device and for device 4. -/
def wPol (k : Nat) : Policy := ⟨k, [(Config.identity, State.measurements (wPf .localRefill)), (4, [7])]⟩
theorem wPf_policy (a : Act) (k : Nat) : (wPf a).policyOk 2 4 [7] (wPol k) = (k == 9) := by
  have h : (wPf a).measurements = (wPf .localRefill).measurements := rfl
  have g : ((wPf a).wst 2).tenant = 9 := (by decide +kernel : ((wPf .localRefill).wst 2).tenant = 9)
  simp [State.policyOk, wPol, h, g]
theorem witness_ExclusiveCommandsNeedTheSemaphore :
    (∀ a : Act, (wPf a).act = some a ∧ (wPf a).mbFree 0 = true ∧ (wPf a).psem &&& 3 = portId .a ∧ ((wPf a).wst 3).created = false ∧
      ((wPf a).wst 2).created = true ∧ (wPf a).policyOk 2 4 [7] (wPol 9) = true ∧ (wPf a).policyOk 2 4 [7] (wPol 8) = false) ∧
    ((wPf .localRefill).mbBegin wMb 0x12).expRefused 2 1 .a = 0 ∧
    (((wPf .localRefill).mbBegin wMb 0x13).isProt 2 = true ∧ ((wPf .localRefill).wst 2).sctr = 0) ∧
    (winBase (2 ^ 21) % 2 ^ 21 = 0 ∧ winLimit (2 ^ 85) % 2 ^ 21 = 0 ∧ (2 ^ 85 + 2 ^ 21 : BitVec 256).extractLsb' 204 52 = 0) ∧
    ∃ (s : State) (m : MbCmd), wMb.fn = 0 ∧ s.mbFree wMb.fn = true ∧ s.psem &&& 3 ≠ portId wMb.port ∧ m.fn ≠ 0 ∧ s.mbFree m.fn = true :=
  ⟨fun a => ⟨rfl, (by decide +kernel : (wPf .localRefill).mbFree 0 = true), (by decide +kernel : (wPf .localRefill).psem &&& 3 = portId .a),
      (by decide +kernel : ((wPf .localRefill).wst 3).created = false), (by decide +kernel : ((wPf .localRefill).wst 2).created = true),
      wPf_policy a 9, wPf_policy a 8⟩,
    by decide +kernel, by decide +kernel, by decide +kernel, wS, ⟨.a, 2, 0, []⟩, by decide +kernel⟩
theorem witness_WorldAndTableCommandsComplete :
    (∀ a ∈ [Act.worldCreate wMb 3 9 5, .worldDestroy wMb 2, .migExport wMb 2 4 [7] (wPol 9), .migImport wMb 2 4 [7] (wPol 9),
      .fwUpdate wMb 0x1000 64, .routeSet wMb 3 1 2, .xwinSet wMb 2 1 (2 ^ 85 + 2 ^ 21), .importSet wMb 1 4 0 2 0 0x1000 7],
      (wPf a).act = some a ∧ (wPf a).mbFree 0 = true ∧ (wPf a).psem &&& 3 = portId wMb.port ∧ wMb.fn = 0 ∧
        (wPf a).policyOk 2 4 [7] (wPol 9) = true) ∧
    (((wPf .localRefill).wst 3).created = false ∧ ((wPf .localRefill).wst 2).created = true ∧
      (wPf .localRefill).expRefused 2 1 .a = 0 ∧ (wPf .localRefill).isProt 2 = true ∧ ((wPf .localRefill).wst 2).sctr = 0) ∧
    winBase (2 ^ 85 + 2 ^ 21) % 2 ^ 21 = 0 ∧ winLimit (2 ^ 85 + 2 ^ 21) % 2 ^ 21 = 0 ∧
    (2 ^ 85 + 2 ^ 21 : BitVec 256).extractLsb' 204 52 = 0 :=
  ⟨fun a _ => ⟨rfl, (by decide +kernel : (wPf .localRefill).mbFree 0 = true), (by decide +kernel : (wPf .localRefill).psem &&& 3 = portId .a),
      rfl, wPf_policy a 9⟩, by decide +kernel, by decide +kernel, by decide +kernel, by decide +kernel⟩

/-- World 1 is protected; the table admits loads of 8 bytes of world 0 from device 4, and of world 1 from device 5. -/
def wPeer (a : Act) : State :=
  ({ wDo (wG) a with
      imports := ((wG).imports.set 0 (some ⟨4, 0, 0, 0, 0x1000, 7⟩)).set 1 (some ⟨5, 0, 1, 0, 0x1000, 7⟩) } : State).modWorld 1 fun w =>
        { w with wseal := 1 }
def wFound (s : State) (dev : BitVec 8) : Option Import :=
  s.importFor dev 0 fun e => e.lo ≤ 0x100 && 0x108 ≤ e.hi && peerNeeds .load &&& ~~~e.perm == 0
/-- A question of slot 3 to a peer, and a store to one, both outstanding. -/
def wAsked (a : Act) : State :=
  ({ wDo wS a with peerOut := [⟨6, 3, 1, false, 0, 4, 0, [1], none, none, 0, 0, 0⟩] } : State).modSlot 3 fun sl =>
    { sl with peerAsk := [⟨5, false, 0, 4, 0, 0, .load, 0, 16⟩] }
theorem witness_PeerAccessesComplete :
    (∀ p ∈ [((3 : BitVec 8), false, false), (4, true, false), (5, true, true)],
      let s := wPeer (.peerAccessArrival 2 p.1 0 .load 0x100 (List.replicate 8 0))
      s.act = some (.peerAccessArrival 2 p.1 0 .load 0x100 (List.replicate 8 0)) ∧ peerSizeOk .load 0x100 8 = true ∧
      s.peerBehind 2 p.1 = false ∧ (wFound s p.1).isSome = p.2.1 ∧ (wFound s p.1).any (fun i => s.sealedAny i.world 0x100 8) = p.2.2 ∧
      (p.2.2 = false → (wFound s p.1).all (fun i => (s.peerDo 2 p.1 0 i.world .load 0x100 (List.replicate 8 0)).isSome) = true)) ∧
    (∀ c ∈ [none, some wGlob], ∀ n ∈ [5, 6, 7], (wAsked (.peerResponse n [1] c)).act = some (.peerResponse n [1] c) ∧
      ((wAsked (.peerResponse n [1] c)).askOf n).isSome = (n == 5) ∧
      ((wAsked (.peerResponse n [1] c)).peerOut.find? (·.num == n)).isSome = (n == 6)) ∧
    ∀ n ∈ [5, 6], (wAsked (.ptmo n)).act = some (.ptmo n) ∧ ((wAsked (.ptmo n)).askOf n).isSome = (n == 5) ∧
      ((wAsked (.ptmo n)).peerOut.find? (·.num == n)).isSome = (n == 6) :=
  ⟨by decide +kernel, by decide +kernel, by decide +kernel⟩
theorem witness_LinksAndMonitorsComplete :
    ∀ a ∈ [Act.fabricFailover 2, .fabricLinkUp 2, .cxlLinkDown 1, .cxlLinkUp 1, .hotReset .a, .hostSessionEstablished .b, .throttleStep 0 true,
      .throttleStep 3 false, .supplyDroop, .vrefRecalibration 1, .patrolScrub 9 []], ∃ s : State, s.act = some a :=
  fun a _ => ⟨wDo wS a, rfl⟩
theorem witness_ResetsComplete :
    (∀ a ∈ [Act.coldReset, .warmReset, .thermalTrip], ∃ s : State, s.act = some a) ∧
    ∃ (s t : State) (w : World), s.act = some (.functionLevelReset w) ∧ w ≠ 0 ∧ (s.slot 3).world = w ∧ (s.slot 3).status ≠ .free ∧
      t.act = some (.functionLevelResetComplete w) ∧ (t.wst w).inFlr = true ∧
      (((((((((t.discardSlots w).discardQueues w).flrLaunches w).sweepTags w).zeroSealed w).dropKeys w).forgetCaches
        w).modWorld w (fun x => { x with inFlr := false, flrst := 1, wseal := 0 })).wst w).protNext = none :=
  ⟨fun a _ => ⟨wDo wS a, rfl⟩, (wDo wS (.functionLevelReset 2)).modSlot 3 fun sl => { sl with status := .ready, world := 2 },
    (wDo wS (.functionLevelResetComplete 2)).modWorld 2 fun w => { w with inFlr := true }, 2, by decide +kernel⟩

/-! ### Memory, frames and decoding -/

def wNext (o : Out) : Bool :=
  match o with
  | .next _ => true
  | _ => false
theorem wNext_ex {o : Out} (h : wNext o = true) : ∃ t, o = .next t := by
  cases o with
  | next t => exact ⟨t, rfl⟩
  | _ => cases h
/-- The machine after reset, with an add at its pc, whose second operand is x2. -/
theorem witness_StepKeepsSafe : ∃ s t : State, s.safe ∧ step s = .next t :=
  have ⟨t, h⟩ := wNext_ex (o := step (wRun wAdd)) (by decide +kernel)
  ⟨wRun wAdd, t, by unfold State.safe; decide +kernel, h⟩
theorem witness_WritesAreReadBack :
    ∃ (s : State) (k : Nat) (bs : List Byte), Memory.wf s ∧ bs.length = 3 ∧ keyIsHost k = false ∧ 0 ∉ s.badLines ∧ 0 ∉ s.badGrans :=
  ⟨wS, locKey 0, [1, 2, 3], by decide +kernel⟩
theorem witness_WritesAreReadBack_load :
    ∃ (s t : State) (o q : MOp), Memory.wf s ∧ capLocal (s.rc o.oa) = true ∧ o.ord = 0 ∧ s.sl.quay = none ∧ o.hdr.sigInc = 0 ∧
      accessChecks s (s.rc o.oa) (mEa s o) (szBytes o.size) pW .plain 1 = .ok () ∧ o.size.toNat ≤ 3 ∧
      t = ended o.hdr (s.writeBytes (locKey (mEa s o)) (leBytes (szBytes o.size) (s.rx o.od).toNat)) ∧ q.oa = o.oa ∧ q.size = o.size ∧
      q.ord = 0 ∧ mEa t q = mEa s o ∧ accessChecks t (s.rc o.oa) (mEa s o) (szBytes o.size) pR .plain 1 = .ok () ∧
      t.readError t.world (locKey (mEa s o)) (szBytes o.size) (mEa s o) = none :=
  ⟨wS [0xFEDCBA9876543210], _, tM 1 1 0 3, tM 2 1 0 3, by decide +kernel, by decide +kernel, by decide +kernel, by decide +kernel,
    by decide +kernel, okP_eq (a := ()) (by decide +kernel), by decide +kernel, rfl, by decide +kernel, by decide +kernel, by decide +kernel,
    by decide +kernel, okP_eq (a := ()) (by decide +kernel), by decide +kernel⟩
/-- Every instruction of a list answers a next state in `s`. -/
theorem wNexts {s : State} {l : List Instr} (h : (l.all fun i => wNext (exec i s)) = true) : ∀ i ∈ l, ∃ t, exec i s = .next t :=
  fun i hi => wNext_ex (List.all_eq_true.mp h i hi)
theorem witness_RegisterInstructionsKeepTheRest :
    ∀ i ∈ [Instr.add (.i (tI 1 2 3 (mdTy 3))), .mulh (tR 1 2 3 (mdTy 3)), .div (tR 1 2 3 (mdTy 3)), .cmp (.r (tR 1 2 3 (mdTy 3))),
        .bfi (.i (tI 1 2 0x10)), .li (tI 1 0 7 (mdTy 3)), .pand (tR 1 2 3), .pmov (tR 1 2 3), .br ⟨noHdr, 0, 0, 3, md0⟩, .jmp (tR 0 1 0),
        .call (.r (tR 0 1 0)), .ret (tR 0 1 0), .loop ⟨noHdr, 1, 0, 5, md0⟩, .nop (tR 0 0 0), .cgeta (tR 1 1 0), .csub (tR 1 1 1),
        .ctag (tR 1 1 0), .cmov (tR 2 1 0), .cclr (tR 2 1 0), .fclass (tR 1 2 0 (mdTy 8))], ∃ t, exec i (wS [4, 5, 6]) = .next t :=
  wNexts (by decide +kernel)
theorem witness_FloatAndVectorKeepTheRest :
    ∀ i ∈ [Instr.fadd (tR 1 2 3 (mdTy 8)), .fcmp (tR 1 2 3 (mdTy 8)), .cseta (tR 2 1 1), .cbnd (.i (tI 2 1 32)), .cperm (.i (tI 2 1 1)),
      .vadd (tR 1 0 2 (mdTy 6)), .vcvt (tR 1 2 0 (mdTy 8)), .vmov (tR 1 2 0 (mdTy 2)), .vext (tR 1 2 0 (mdTy 2)), .vcmp (tR 1 2 3 (mdTy 2)),
      .vscan (tR 1 2 0 (mdTy 2)), .kand (tR 1 2 3), .kpop (tR 1 2 0), .kset (.i (tI 1 0 5)), .kmov (tR 1 2 0), .kmov (tR 1 2 0 (mdSub 2))],
      ∃ t, exec i (wS [4, 5, 6]) = .next t :=
  wNexts (by decide +kernel)
theorem witness_LoadsAndStoresKeepTheRest :
    Memory.wf (wG) ∧ (∀ i ∈ [Instr.ld (tM 1 1 0 3), .ldc (tM 2 1 0 6), .vld (tM 1 1 0 5), .vldg (tM 1 1 0 2), .pref (tM 0 1 0 0),
      .lflush (tM 0 1 0 0), .linv (tM 0 1 0 0), .fence (tR 0 0 0 ⟨4, 0, 0, 4, 0, 0, 0⟩), .mig (tM 0 1 0 0), .home (tR 0 0 0), .st (tM 1 1 0 3),
      .vst (tM 1 1 0 5), .stc (tM 2 1 0 6), .vsts (tM 1 1 0 2)], ∃ t, exec i (wG) = .next t) ∧
    Memory.wf (wS []) ∧ (∀ i ∈ [Instr.stfe (tM 1 1 0 2 1), .stfe (tM 1 1 0 6 1)], ∃ t, exec i (wS []) = .next t) ∧
    Memory.wf { wS [] with full := [0x100000000000] } ∧
    (∀ i ∈ [Instr.ldfe (tM 1 1 0 2 1), .ldfe (tM 1 1 0 6 1)], ∃ t, exec i { wS [] with full := [0x100000000000] } = .next t) ∧
    fifoUse (wFifo.rc 1) = true ∧ Memory.wf wFifo ∧
    ∀ i ∈ [Instr.vst (tM 1 1 0 5), .stc (tM 2 1 0 6)], ∃ t, exec i wFifo = .next t :=
  ⟨by decide +kernel, wNexts (by decide +kernel), by decide +kernel, wNexts (by decide +kernel), by decide +kernel,
    wNexts (by decide +kernel), by decide +kernel, by decide +kernel, wNexts (by decide +kernel)⟩
theorem witness_AtomicsAndCopiesKeepTheRest :
    Memory.wf (wG [128]) ∧ ∀ i ∈ [Instr.amoadd (tM 1 1 1 2), .amoswp (tM 1 1 1 3), .amocas (tM 1 1 1 3), .amofadd (tM 1 1 1 2),
      .amoswp (tM 4 1 2 6), .amocas (tM 4 1 2 6), .redadd (tM 0 1 1 2), .cpy (tR 2 1 1), .mon (tM 1 1 0 3), .unmon (tM 1 1 0 0)],
      ∃ t, exec i (wG [128]) = .next t :=
  ⟨by decide +kernel, wNexts (by decide +kernel)⟩
/-- Frames: the root; and a child of it, which keeps nothing, under a cfr that is also c2. -/
theorem witness_MatrixAndFrameInstructionsKeepTheRest :
    (Memory.wf (wM 1) ∧ okR (matReady (wM 1)) = true ∧ ∀ i ∈ [Instr.mscl (tR 0 0 0), .mzero (tR 0 0 0), .mhand (tR 0 0 0),
      .mrowrd (tR 3 1 1 (mdTy 8)), .mstat (tR 1 0 0), .mlda (tM 0 1 0 5), .mdrain (tM 0 1 0 4), .msave (tM 0 1 0 5)],
      ∃ t, exec i (wM 1) = .next t) ∧
    (Memory.wf (wF 0 wRoot [1, 3, 0]) ∧ okR (frameCheck ((wF 0 wRoot [1, 3, 0]).dropWorld 0) (wF 0 wRoot [1, 3, 0]).cfr) = true ∧
      okR (openFrame ((wF 0 wRoot [1, 3, 0]).dropWorld 0)) = true ∧
      ∀ i ∈ [Instr.fenter (tR 0 2 0), .fvis (tR 1 1 1), .fmask (tR 1 1 1), .fdesc (.i (tI 1 2 0)), .farg (tR 0 1 2),
        .fwin (.i (tI 0 0 8)), .fseal (tR 0 2 0), .fappend (.i (tI 1 0 0))], ∃ t, exec i (wF 0 wRoot [1, 3, 0]) = .next t) ∧
    Memory.wf (wChild 1) ∧ okR (cfrCheck ((wChild 1).dropWorld 0)) = true ∧
      ∀ i ∈ [Instr.fdrop (tR 0 2 0), .fpop (tR 1 0 0)], ∃ t, exec i (wChild 1) = .next t :=
  ⟨⟨by decide +kernel, by decide +kernel, wNexts (by decide +kernel)⟩, ⟨by decide +kernel, by decide +kernel, by decide +kernel,
    wNexts (by decide +kernel)⟩, by decide +kernel, by decide +kernel, wNexts (by decide +kernel)⟩
theorem witness_MatrixAndFrameInstructionsKeepTheRest_push :
    ∃ (s : State) (o q : ROp), Memory.wf s ∧ o.oc ≠ 0 ∧ q.oc = 0 ∧ okR (pushRoot (s.dropWorld s.world) o) = true ∧
      okR (pushChild (s.dropWorld s.world) q) = true ∧ ∀ r ∈ [o, q], ∃ t, exec (.fpush r) s = .next t :=
  ⟨(wF 0 (wRoot 0x83 ++ [(0x100000000003D, 2)]) [128]).modCur fun sl =>
      { sl with c := (sl.c.set 3 wPool).set 4 (wTable 0 0) },
    { tR 5 3 1 with oc := 4, oe := 1 }, tR 5 3 1, by decide +kernel, by decide +kernel, by decide +kernel, by decide +kernel, by decide +kernel,
    fun r hr => wNext_ex ((by decide +kernel : ∀ r ∈ [{ tR 5 3 1 with oc := 4, oe := 1 }, tR 5 3 1], wNext (exec (.fpush r)
      ((wF 0 (wRoot 0x83 ++ [(0x100000000003D, 2)]) [128]).modCur fun sl => { sl with c := (sl.c.set 3 wPool).set 4 (wTable 0 0) })) = true) r hr)⟩
theorem witness_DecodeAndEncodeAgree :
    ∃ (i : Instr) (w v : BitVec 96), i.wf = true ∧ encode i = some w ∧ decode w = .ok i ∧
      decode v = .ok (.add (.i ⟨⟨10, 0, 4, 1⟩, 6, 6, 10, mdTy 3⟩)) :=
  ⟨wAdd, (encode wAdd).getD 0, word3 0x1860A401 0x0000000A 0x00003041, by decide +kernel⟩
/-- Operands of fmin: two numbers, a number and a NaN, two NaNs; and the zeros of both signs. -/
theorem witness_FloatMinAndMaxReturnAnOperand :
    ∃ (o : ROp) (s : Nat → State), (∀ k, s k = wS [0, [0x3F800000, 0x7FC00000, 0x3F800000, 0x7FC00001, 0x80000000, 0].getD k 0,
        [0x40000000, 0x3F800000, 0x7FC00000, 0x7FC00002, 0, 0x80000000].getD k 0]) ∧
      (let x := fun k => (flFmt o.md).decode false (flSrc o.md ((s k).rx o.oa))
       let y := fun k => (flFmt o.md).decode false (flSrc o.md ((s k).rx o.ob))
       (x 1).isNan = true ∧ (y 1).isNan = false ∧ (x 2).isNan = false ∧ (y 2).isNan = true ∧ (x 3).isNan = true ∧ (y 3).isNan = true ∧
       Machine.Num.cmp (x 0) (y 0) = .lt ∧ Machine.Num.cmp (x 4) (y 4) = .eq ∧ (x 4).isNeg = true ∧ (y 4).isNeg = false ∧
       Machine.Num.cmp (x 5) (y 5) = .eq ∧ (x 5).isNeg = false ∧ (y 5).isNeg = true) ∧
      ∃ q : ROp, (Instr.fmin q).rows.r3 = false ∧ (Instr.fmin q).rows.r4 = false ∧ (Instr.fmin q).rows.r5 = false ∧ q.md.rm ≠ 0 :=
  ⟨tR 1 2 3 (mdTy 8), _, fun _ => rfl, by decide +kernel, tR 1 2 3 { mdTy 8 with rm := 1 }, by decide +kernel⟩
theorem witness_WaitAndSigFieldsAreZeroTogether :
    ∃ w v : BitVec 96, (hdrOf w).sigInc = 0 ∧ (hdrOf w).sigSm ≠ 0 ∧ (bodyWait (bodyOf v)).thr = 0 ∧ (bodyWait (bodyOf v)).sm ≠ 0 :=
  ⟨(encode (.add (.r { tR 1 2 3 (mdTy 3) with hdr := ⟨0, 0, 1, 0⟩ }))).getD 0,
    (encode (.add (.r { tR 1 2 3 (mdTy 3) with wait := ⟨1, 0⟩ }))).getD 0, by decide +kernel⟩
theorem witness_XpollNeverWaits :
    ∃ (s : State) (n : Nat), n = (s.cl.xreqs.filter fun q => q.sl == s.cur && q.own).length ∧ n < 16 :=
  ⟨wS, 0, by decide +kernel⟩

end
end

section
/-!
SUPPORT. Fields of the word that name a semaphore for nothing (R30), and the row of R49 that refuses them.
-/

namespace Sys2Proof
open Machine

/-- A semaphore is named though nothing is waited for, or though nothing is signalled (R30). -/
def Body.semBad (b : Body) : Bool := (bodyWait b).bad || (bodyHdr b).bad

/-! Of each format, the fields that R30 speaks of: I and X have no WAIT. -/

theorem ROp.bad_of_semBad {o : ROp} (h : (Body.r o).semBad = true) : (o.wait.bad || o.hdr.bad) = true := h
theorem IOp.bad_of_semBad {o : IOp} (h : (Body.i o).semBad = true) : o.hdr.bad = true := h
theorem MOp.bad_of_semBad {o : MOp} (h : (Body.m o).semBad = true) : (o.wait.bad || o.hdr.bad) = true := h
theorem XOp.bad_of_semBad {o : XOp} (h : (Body.x o).semBad = true) : o.hdr.bad = true := h

theorem ROp.rows_r4_of_semBad {o : ROp} (h : (Body.r o).semBad = true) (d a b f e : Fld) (u : ModUse) :
    (o.rows d a b f e u).r4 = true := by
  simp only [ROp.rows, Bool.or_assoc, bad_of_semBad h, Bool.or_true]
theorem IOp.rows_r4_of_semBad {o : IOp} (h : (Body.i o).semBad = true) (d a : Fld) (u : ModUse) :
    (o.rows d a u).r4 = true := by
  simp only [IOp.rows, bad_of_semBad h, Bool.or_true]
theorem MOp.rows_r4_of_semBad {o : MOp} (h : (Body.m o).semBad = true) (d a b : Fld) (x : Bool) (sizes ords : List Nat) :
    (o.rows d a b x sizes ords).r4 = true := by
  simp only [MOp.rows, Bool.or_assoc, bad_of_semBad h, Bool.or_true]
theorem XOp.rows_r4_of_semBad {o : XOp} (h : (Body.x o).semBad = true) (subOk : Bool) : (o.rows subOk).r4 = true := by
  simp only [XOp.rows, bad_of_semBad h, Bool.or_true]

/-- Row 4 of R49 holds of every instruction whose fields name a semaphore for nothing. Most instructions take row 4 from
their format as it is; the last line of lemmas is for those that write out a row 4 of their own. -/
theorem rows_r4_of_semBad {i : Instr} {opc : Nat} {b : Body} (h : i.parts = some (opc, b)) (hb : b.semBad = true) :
    i.rows.r4 = true := by
  fun_cases Instr.parts i
  all_goals cases h
  all_goals
    simp only [Instr.rows, RIOp.rowsInt, vcvtRows, matRows, amoRows, redRows, sysRows, apply_ite Rows.r4, ite_self,
      hb, ROp.rows_r4_of_semBad, IOp.rows_r4_of_semBad, MOp.rows_r4_of_semBad, XOp.rows_r4_of_semBad,
      Bool.or_assoc, ROp.bad_of_semBad, IOp.bad_of_semBad, MOp.bad_of_semBad, Bool.or_true]

theorem Rows.first_of_r4 {r : Rows} (h : r.r4 = true) : r.first = some (if r.r3 then 3 else 4) := by
  cases h3 : r.r3 <;> simp [Rows.first, h, h3]

/-- A word whose fields name a semaphore for nothing is illegal: with sub-code 4, unless a row before row 4 holds. -/
theorem decode_of_semBad {w : BitVec 96} (h : (bodyOf w).semBad = true) : ∃ n, decode w = .error n ∧ n ≤ 4 := by
  unfold decode decodeRaw
  by_cases ha : assignedOpc (opcOf w) = true
  · rw [if_pos ha]
    cases hb : build (opcOf w) (bodyOf w) with
    | none => exact ⟨2, rfl, by decide⟩
    | some i =>
      have hi : i.ill = some (if i.rows.r3 then 3 else 4) :=
        Rows.first_of_r4 (rows_r4_of_semBad (build_parts _ _ _ hb) h)
      exact ⟨if i.rows.r3 then 3 else 4, by simp only [hi], by split <;> decide⟩
  · rw [if_neg ha]
    exact ⟨1, rfl, by decide⟩

/-- Every format has the guards and the SIG at the same place (R27). -/
theorem bodyHdr_bodyOf (w : BitVec 96) : bodyHdr (bodyOf w) = hdrOf w := by
  unfold bodyOf
  split <;> rfl

theorem semBad_of_sigSm {w : BitVec 96} (hi : (hdrOf w).sigInc = 0) (hs : (hdrOf w).sigSm ≠ 0) :
    (bodyOf w).semBad = true := by
  have hb : (hdrOf w).bad = true := Bool.and_eq_true_iff.mpr ⟨beq_iff_eq.mpr hi, bne_iff_ne.mpr hs⟩
  rw [Body.semBad, bodyHdr_bodyOf, hb, Bool.or_true]
theorem semBad_of_waitSm {w : BitVec 96} (ht : (bodyWait (bodyOf w)).thr = 0) (hs : (bodyWait (bodyOf w)).sm ≠ 0) :
    (bodyOf w).semBad = true := by
  have hb : (bodyWait (bodyOf w)).bad = true := Bool.and_eq_true_iff.mpr ⟨beq_iff_eq.mpr ht, bne_iff_ne.mpr hs⟩
  rw [Body.semBad, hb, Bool.true_or]

end Sys2Proof

section
open Sys2Proof
open Sys2Proof.Machine

/-- Settles O58: row 4 of R49 holds of every such word. An add waits on the semaphore that it signals. -/
theorem waitAndSigFieldsAreZeroTogether : Obligations.WaitAndSigFieldsAreZeroTogether :=
  ⟨fun _ => ⟨fun hi hs => decode_of_semBad (semBad_of_sigSm hi hs), fun ht hs => decode_of_semBad (semBad_of_waitSm ht hs)⟩,
    (encode (.add (.r { tR 1 2 3 (mdTy 3) with hdr := ⟨0, 0, 4, 1⟩, wait := ⟨4, 7⟩ }))).getD 0,
    .add (.r { tR 1 2 3 (mdTy 3) with hdr := ⟨0, 0, 4, 1⟩, wait := ⟨4, 7⟩ }), by decide +kernel⟩

end
end

section
/-!
SUPPORT. The pc (R28): where the fetch refuses it, and where a transfer leaves it.
-/

namespace Sys2Proof.Machine

/-! ### The fetch -/

theorem fetch_unaligned {s : State} (hb : s.sl.bad.contains (2, 0) = false) (ha : s.sl.pc.toNat % 4 ≠ 0) :
    fetch s = .error (.trap ⟨cALGN, 0, s.sl.pc.toNat⟩, s) := by
  have h4 : (s.sl.pc.toNat % 4 == 0) = false := beq_false_of_ne ha
  simp only [fetch, hb, h4, Bool.not_false, guardR_true, guardR_false, bind_ok, bind_error]
theorem fetch_refused {s : State} {f : Fail} (hb : s.sl.bad.contains (2, 0) = false) (ha : s.sl.pc.toNat % 4 = 0)
    (hc : capCheck s.world s.sl.pcc s.sl.pc.toNat 12 pX = some f) : fetch s = .error (.trap f, s) := by
  have h4 : (s.sl.pc.toNat % 4 == 0) = true := beq_iff_eq.mpr ha
  simp only [fetch, hb, h4, hc, Bool.not_false, guardR_true, check_some, bind_ok, bind_error]

/-! ### Transfers -/

@[simp] theorem setPcc_pcc (s : State) (c : Cap) : (s.setPcc c).sl.pcc = c := by
  rw [State.setPcc, modCur_sl]; rfl
@[simp] theorem retired_pcc (s : State) : s.retired.sl.pcc = s.sl.pcc := by
  rw [retired_sl]
  split <;> rfl
/-- A transfer without a SIG leaves the pc at the cursor of its target. -/
theorem jumped_setPcc_pc {h : Hdr} (hz : h.sigInc = 0) (s : State) (c : Cap) :
    (jumped h (s.setPcc c)).sl.pc = capCursor c := by
  rw [jumped, signal_zero _ _ hz, Slot.pc, retired_pcc, setPcc_pcc]

@[simp] theorem capCursor_displaced (sl : Slot) (imm : BitVec 32) :
    capCursor (sl.displaced imm) = sl.pc + 12 * imm.signExtend 64 := capCursor_capMoveCursor _ _
@[simp] theorem capCursor_link (sl : Slot) : capCursor sl.link = sl.pc + 12 := capCursor_capMoveCursor _ _

theorem exec_br (o : IOp) (s : State) : exec (.br o) s = .next (jumped o.hdr (s.setPcc (s.sl.displaced o.imm))) :=
  finishJump_ok rfl
theorem exec_call_imm (o : IOp) (s : State) :
    exec (.call (.i o)) s = .next (jumped o.hdr ((s.wc 31 s.sl.link).setPcc (s.sl.displaced o.imm))) :=
  finishJump_ok rfl
theorem exec_loop (o : IOp) (s : State) :
    exec (.loop o) s = .next (jumped o.hdr ((s.wx o.od (s.rx o.od - 1)).setPcc
      (if s.rx o.od - 1 != 0 then s.sl.displaced o.imm else s.sl.link))) :=
  finishJump_ok rfl

/-- The count of a loop runs out where it was 1. -/
theorem loop_runsOut (n : Word) : (n - 1 != 0) = false ↔ n = 1 := by
  rw [bne_eq_false_iff_eq]
  exact sub_eq_zero

end Sys2Proof.Machine

section
open Sys2Proof
open Sys2Proof.Machine

/-- Settles O34. -/
theorem instructionsAdvanceByTwelve : Obligations.InstructionsAdvanceByTwelve := by
  unfold Obligations.InstructionsAdvanceByTwelve
  refine ⟨fun s => fetch_unaligned, fun s f => fetch_refused, fun _ => rfl, fun s h hz => ?_, fun s o hz i hi => ?_⟩
  · rw [ended_zero h s hz]; exact retired_advance_pc s
  · simp only [List.mem_cons, List.not_mem_nil, or_false] at hi
    rcases hi with rfl | rfl | rfl
    · exact ⟨_, exec_br o s, by simp, by simp, fun _ => by simp [jumped_setPcc_pc hz]⟩
    · exact ⟨_, exec_call_imm o s, by simp, by simp, fun _ => by simp [jumped_setPcc_pc hz]⟩
    · refine ⟨_, exec_loop o s, fun _ hn => ?_, fun _ hn => ?_, fun h => absurd rfl h⟩
      · have hg : (s.rx o.od - 1 != 0) = true := by
          rw [← Bool.not_eq_false, loop_runsOut]; exact hn
        rw [jumped_setPcc_pc hz, if_pos hg, capCursor_displaced]
      · have hg : (s.rx o.od - 1 != 0) = false := (loop_runsOut _).mpr hn
        rw [jumped_setPcc_pc hz, hg, if_neg Bool.false_ne_true, capCursor_link]

end
end

section
/-!
SUPPORT. Privilege and the way home (R48), in the turn of a slot.
-/

namespace Sys2Proof.Machine

/-- The turn of a privileged form outside slot 15 is its trap. -/
theorem nextTurn_of_privileged {s w : State} {n : SlotId} {bs : List Byte} {i : Instr} {opc : Nat} {b : Body}
    (hf : Fetches s n bs w) (hd : decodeBytes bs = .ok i) (hp : i.parts = some (opc, b)) (hv : privileged opc b = true)
    (hc : w.cur ≠ 15) : nextTurn s = .error (w.takeTrap ⟨cPRIV, 0, 0⟩) := by
  rw [nextTurn_of_fetches hf]
  simp [readyFor, hf.started, hd, hp, hv, hc]

theorem privileged_gsr (o : IOp) : privileged 0x282 (.i o) = true ↔ sysregUser (o.imm.toNat % 4096) = false := by
  simp [privileged]

/-- What the guards, the window and the WAIT let pass when nothing is waited for. -/
theorem passGuards_of_admitted {i : Instr} {opc : Nat} {b : Body} {y : State} (h : Admitted i opc b y)
    (hg : y.sl.guards (bodyHdr b) = true) (ht : (bodyWait b).thr = 0) : passGuards y opc b = .ok y := by
  simp [passGuards, h.guards, hg, h.window, h.sems, ht]

/-- A step executes an instruction that its guards admit and that waits for nothing. -/
theorem step_of_admitted {s w : State} {n : SlotId} {i : Instr} {opc : Nat} {b : Body} (hc : Comes s n i opc b w)
    (hn : w.sl.begun = false) (ha : Admitted i opc b (issuesAt opc b w))
    (hg : (issuesAt opc b w).sl.guards (bodyHdr b) = true) (ht : (bodyWait b).thr = 0) :
    step s = settled (exec i (issuesAt opc b w)) := by
  simp [step, nextTurn_of_comes hc, hn, passGuards_of_admitted ha hg ht, regsSound, ha.operands]

@[simp] theorem filterAway_cur (s : State) : s.filterAway.cur = s.cur := by
  unfold State.filterAway
  split <;> rfl
/-- A fibre that has gone home stands at no quay core. -/
theorem goHome_quay (s : State) : (s.goHome s.cur).sl.quay = none := by
  unfold State.goHome
  split
  case h_1 h => exact h
  case h_2 =>
    dsimp only
    split <;> simp [State.sl, State.modSlot, State.post, State.unstall]

/-- Outside the quay core's subset an instruction issues at home (R275). -/
theorem issuesAt_home {opc : Nat} (h : quaySubset opc = false) (b : Body) (w : State) :
    issuesAt opc b w = w.filterAway.goHome w.cur := by
  simp [issuesAt, h]

end Sys2Proof.Machine

section
open Sys2Proof
open Sys2Proof.Machine

/-- Settles O31: the privilege check stands before the guards, and the way home before both guards and WAIT. -/
theorem privilegedFormsRaisePriv : Obligations.PrivilegedFormsRaisePriv := by
  unfold Obligations.PrivilegedFormsRaisePriv
  refine ⟨fun s n bs w i opc b hf hd hp hv hc => ?_, privileged_gsr, fun s n i opc b w y q hc hn _ hq hy ha hg ht => ?_⟩
  · rw [step, nextTurn_of_privileged hf hd hp hv hc]
  · have hi : issuesAt opc b w = y := (issuesAt_home hq b w).trans hy.symm
    have hh : y.sl.quay = none := by
      have := goHome_quay w.filterAway
      rwa [filterAway_cur, ← hy] at this
    subst hi
    exact ⟨hh, step_of_admitted hc hn ha hg ht⟩

end
end

section
/-!
SUPPORT. The order of numbers in which minus zero is below plus zero (R85), the operand that fmin and fmax choose by it, and
the rows of R49 that refuse a rounding code or SAT.
-/

namespace Sys2Proof.Machine

/-! ### The order of R85 -/

/-- Exchanging two numbers exchanges less and greater. -/
theorem Num.cmp_swap (x y : Num) : (x.cmp y).swap = y.cmp x := by
  cases x with
  | nan => cases y <;> rfl
  | inf a =>
    cases y with
    | nan => rfl
    | inf b => revert a b; decide
    | fin => cases a <;> rfl
  | fin n1 m1 e1 s1 =>
    cases y with
    | nan => rfl
    | inf b => cases b <;> rfl
    | fin n2 m2 e2 s2 =>
      simp only [Num.cmp, min_comm e2 e1]
      exact (Std.OrientedOrd.eq_swap ..).symm

theorem Num.below_iff (x y : Num) :
    x.below y = true ↔ x.cmp y = .lt ∨ (x.cmp y = .eq ∧ x.isNeg = true ∧ y.isNeg = false) := by
  unfold Num.below
  cases x.cmp y <;> simp
/-- The same order, seen from the greater number. -/
theorem Num.below_iff_cmp_gt (x y : Num) :
    y.below x = true ↔ x.cmp y = .gt ∨ (x.cmp y = .eq ∧ x.isNeg = false ∧ y.isNeg = true) := by
  rw [Num.below_iff, ← Num.cmp_swap x y]
  cases x.cmp y <;> simp [and_comm]
theorem Num.below_asymm {x y : Num} (h : x.below y = true) : y.below x = false := by
  rw [← Bool.not_eq_true, Num.below_iff_cmp_gt]
  rcases (Num.below_iff x y).mp h with hc | ⟨hc, hx, -⟩
  · simp [hc]
  · simp [hc, hx]

/-! ### The operand chosen (R85) -/

/-- The operand that R85 chooses where a NaN is among the two, else `n`. -/
def Fmt.operandOr (f : Fmt) (tcx : Bool) (a b n : Nat) : Nat :=
  if (f.decode tcx a).isNan && (f.decode tcx b).isNan then f.canonNan tcx
  else if (f.decode tcx a).isNan then b else if (f.decode tcx b).isNan then a else n

theorem flMin_eq_operandOr (e : FpEnv) (f : Fmt) (a b : Nat) :
    flMin e f a b = f.operandOr e.tcx a b (if (f.decode e.tcx b).below (f.decode e.tcx a) then b else a) := rfl
theorem flMax_eq_operandOr (e : FpEnv) (f : Fmt) (a b : Nat) :
    flMax e f a b = f.operandOr e.tcx a b (if (f.decode e.tcx a).below (f.decode e.tcx b) then b else a) := rfl

section
variable {f : Fmt} {tcx : Bool} {a b : Nat} (n : Nat)

theorem Fmt.operandOr_nan_nan (ha : (f.decode tcx a).isNan = true) (hb : (f.decode tcx b).isNan = true) :
    f.operandOr tcx a b n = f.canonNan tcx := by simp [Fmt.operandOr, ha, hb]
theorem Fmt.operandOr_nan_left (ha : (f.decode tcx a).isNan = true) (hb : (f.decode tcx b).isNan = false) :
    f.operandOr tcx a b n = b := by simp [Fmt.operandOr, ha, hb]
theorem Fmt.operandOr_nan_right (ha : (f.decode tcx a).isNan = false) (hb : (f.decode tcx b).isNan = true) :
    f.operandOr tcx a b n = a := by simp [Fmt.operandOr, ha, hb]
theorem Fmt.operandOr_numbers (ha : (f.decode tcx a).isNan = false) (hb : (f.decode tcx b).isNan = false) :
    f.operandOr tcx a b n = n := by simp [Fmt.operandOr, ha, hb]

end

/-! ### The ends of fmin and fmax -/

theorem flEnv_tcx (s : State) (m : ModF) : (flEnv s m).tcx = s.sl.tcx := rfl
theorem masked_zero (s : State) : masked s 0 := BitVec.zero_and

/-- A scalar float operation whose flags are not enabled ends with its result (R68, R84). -/
theorem finish_floatBody_masked {o : ROp} {s : State} {g : FpEnv → Fmt → Nat → Nat → Nat → Nat × Flags} {r : Nat × Flags}
    (hr : g (flEnv s o.md) (flFmt o.md) (flSrc o.md (s.rx o.oa)) (flSrc o.md (s.rx o.ob)) (flSrc o.md (s.rx o.oc)) = r)
    (hm : masked s r.2) : finish o.hdr (floatBody o g) s = .next (floatEnded o s r) := by
  subst hr
  exact finish_ok (congrArg (· >>= _) (raiseFlags_masked hm))

theorem exec_fmin (o : ROp) (s : State) : exec (.fmin o) s = .next (floatEnded o s
    (flMin (flEnv s o.md) (flFmt o.md) (flSrc o.md (s.rx o.oa)) (flSrc o.md (s.rx o.ob)), 0)) :=
  finish_floatBody_masked rfl (masked_zero s)
theorem exec_fmax (o : ROp) (s : State) : exec (.fmax o) s = .next (floatEnded o s
    (flMax (flEnv s o.md) (flFmt o.md) (flSrc o.md (s.rx o.oa)) (flSrc o.md (s.rx o.ob)), 0)) :=
  finish_floatBody_masked rfl (masked_zero s)

end Sys2Proof.Machine

namespace Sys2Proof

/-! ### The rows of R49 -/

theorem Rows.first_of_r3 {r : Rows} (h : r.r3 = true) : r.first = some 3 := if_pos h
theorem Rows.first_of_r6 {r : Rows} (h3 : r.r3 = false) (h4 : r.r4 = false) (h5 : r.r5 = false) (h6 : r.r6 = true) :
    r.first = some 6 := by
  simp [Rows.first, h3, h4, h5, h6]

theorem ModF.row3_of_sat {m : ModF} {u : ModUse} (hu : u.sat = false) (h : m.sat = 1) : m.row3 u = true := by
  simp [ModF.row3, hu, h]
theorem ModF.row6_of_rm {m : ModF} {u : ModUse} (hu : u.rm = .no) (h : m.rm ≠ 0) : m.row6 u = true := by
  simp only [ModF.row6, hu, Bool.or_eq_true, bne_iff_ne]
  exact .inr h

end Sys2Proof

section
open Sys2Proof
open Sys2Proof.Machine

/-- Settles O59: both instructions choose by one order, which no two numbers meet both ways. -/
theorem floatMinAndMaxReturnAnOperand : Obligations.FloatMinAndMaxReturnAnOperand := by
  unfold Obligations.FloatMinAndMaxReturnAnOperand
  refine ⟨fun s o a b x y ha hb hx hy p hp => ?_, fun o i hi => ?_⟩
  · subst ha hb hx hy
    simp only [List.mem_cons, List.not_mem_nil, or_false] at hp
    rcases hp with rfl | rfl
    · refine ⟨_, exec_fmin o s, ?_⟩
      rw [flMin_eq_operandOr, flEnv_tcx]
      refine ⟨Fmt.operandOr_nan_nan _, Fmt.operandOr_nan_left _, Fmt.operandOr_nan_right _, fun hx hy => ?_⟩
      rw [Fmt.operandOr_numbers _ hx hy, ← Num.below_iff, ← Num.below_iff_cmp_gt]
      exact ⟨(ite_eq_or_eq _ _ _).symm, fun h => if_neg (Bool.eq_false_iff.mp (Num.below_asymm h)), fun h => if_pos h⟩
    · refine ⟨_, exec_fmax o s, ?_⟩
      rw [flMax_eq_operandOr, flEnv_tcx]
      refine ⟨Fmt.operandOr_nan_nan _, Fmt.operandOr_nan_left _, Fmt.operandOr_nan_right _, fun hx hy => ?_⟩
      rw [Fmt.operandOr_numbers _ hx hy, ← Num.below_iff, ← Num.below_iff_cmp_gt]
      exact ⟨(ite_eq_or_eq _ _ _).symm, fun h => if_pos h, fun h => if_neg (Bool.eq_false_iff.mp (Num.below_asymm h))⟩
  · simp only [List.mem_cons, List.not_mem_nil, or_false] at hi
    rcases hi with rfl | rfl <;>
      exact ⟨fun h => Rows.first_of_r3 (ModF.row3_of_sat rfl h),
        fun h3 h4 h5 h => Rows.first_of_r6 h3 h4 h5 (ModF.row6_of_rm (u := useFloat o.md tyF false .no) rfl h)⟩

end
end

namespace Sys2Proof.Machine

/-! ### The count of the transform unit's requests (R186) -/

/-- No queue, no port and no busy count decides how xpoll ends. -/
theorem exec_xpoll (o : ROp) (s : State) : exec (.xpoll o) s = .next (ended o.hdr (s.wx o.od
    (BitVec.ofNat 64 (s.cl.xreqs.filter fun q => q.sl == s.cur && q.own).length))) :=
  finish_ok rfl

/-- A number of four bits lies in bits [3:0] of its word. -/
theorem toNat_low_nibble_ofNat {n : Nat} (h : n < 16) : ((BitVec.ofNat 64 n).extractLsb' 0 4).toNat = n := by
  rw [BitVec.extractLsb'_toNat, BitVec.toNat_ofNat, Nat.shiftRight_zero]
  omega
/-- A number of four bits leaves bits [63:4] of its word zero. -/
theorem above_low_nibble_ofNat {n : Nat} (h : n < 16) : (BitVec.ofNat 64 n).extractLsb' 4 60 = 0 := by
  apply BitVec.eq_of_toNat_eq
  have hw : n % 2 ^ 64 = n := Nat.mod_eq_of_lt (by omega)
  rw [BitVec.extractLsb'_toNat, BitVec.toNat_ofNat, hw, Nat.shiftRight_eq_div_pow, Nat.div_eq_of_lt h]
  rfl

end Sys2Proof.Machine

section
open Sys2Proof
open Sys2Proof.Machine

/-- Settles O60: xpoll ends in every state, with the count as a word; a count below 16 fits bits [3:0]. -/
theorem xpollNeverWaits : Obligations.XpollNeverWaits := by
  unfold Obligations.XpollNeverWaits
  rintro s o n rfl
  exact ⟨_, exec_xpoll o s, rfl, fun h => ⟨toNat_low_nibble_ofNat h, above_low_nibble_ofNat h⟩⟩

end

section
/-!
The decoder and the encoder undo one another (R27, R35-R49): what each instruction's opcode and fields build is itself,
and the fields of a word made of fields are those fields.
-/

namespace Sys2Proof

/-- The opcode of a well-formed instruction is assigned, and its opcode and fields build it: one law of `Laws.Parts` for each
constructor. -/
theorem parts_statement : ∀ i : Instr, Laws.Parts.Statement i
  | .add o => Laws.Parts.add o
  | .sub o => Laws.Parts.sub o
  | .mul o => Laws.Parts.mul o
  | .mulh o => Laws.Parts.mulh o
  | .mad o => Laws.Parts.mad o
  | .div o => Laws.Parts.div o
  | .rem o => Laws.Parts.rem o
  | .and o => Laws.Parts.and o
  | .or o => Laws.Parts.or o
  | .xor o => Laws.Parts.xor o
  | .andn o => Laws.Parts.andn o
  | .shl o => Laws.Parts.shl o
  | .shr o => Laws.Parts.shr o
  | .sra o => Laws.Parts.sra o
  | .rotl o => Laws.Parts.rotl o
  | .min o => Laws.Parts.min o
  | .max o => Laws.Parts.max o
  | .abs o => Laws.Parts.abs o
  | .clz o => Laws.Parts.clz o
  | .ctz o => Laws.Parts.ctz o
  | .popc o => Laws.Parts.popc o
  | .bfx o => Laws.Parts.bfx o
  | .bfi o => Laws.Parts.bfi o
  | .shadd o => Laws.Parts.shadd o
  | .sel o => Laws.Parts.sel o
  | .mov o => Laws.Parts.mov o
  | .li o => Laws.Parts.li o
  | .cvt o => Laws.Parts.cvt o
  | .cmp o => Laws.Parts.cmp o
  | .bswap o => Laws.Parts.bswap o
  | .pand o => Laws.Parts.pand o
  | .por o => Laws.Parts.por o
  | .pxor o => Laws.Parts.pxor o
  | .pnot o => Laws.Parts.pnot o
  | .pmov o => Laws.Parts.pmov o
  | .fadd o => Laws.Parts.fadd o
  | .fsub o => Laws.Parts.fsub o
  | .fmul o => Laws.Parts.fmul o
  | .ffma o => Laws.Parts.ffma o
  | .fdiv o => Laws.Parts.fdiv o
  | .fsqrt o => Laws.Parts.fsqrt o
  | .fmin o => Laws.Parts.fmin o
  | .fmax o => Laws.Parts.fmax o
  | .fcmp o => Laws.Parts.fcmp o
  | .fcvt o => Laws.Parts.fcvt o
  | .fclass o => Laws.Parts.fclass o
  | .vadd o => Laws.Parts.vadd o
  | .vsub o => Laws.Parts.vsub o
  | .vmul o => Laws.Parts.vmul o
  | .vfma o => Laws.Parts.vfma o
  | .vfms o => Laws.Parts.vfms o
  | .vmin o => Laws.Parts.vmin o
  | .vmax o => Laws.Parts.vmax o
  | .vabs o => Laws.Parts.vabs o
  | .vneg o => Laws.Parts.vneg o
  | .vand o => Laws.Parts.vand o
  | .vor o => Laws.Parts.vor o
  | .vxor o => Laws.Parts.vxor o
  | .vshl o => Laws.Parts.vshl o
  | .vshr o => Laws.Parts.vshr o
  | .vcmp o => Laws.Parts.vcmp o
  | .vsel o => Laws.Parts.vsel o
  | .vcvt o => Laws.Parts.vcvt o
  | .vdot o => Laws.Parts.vdot o
  | .vscl o => Laws.Parts.vscl o
  | .vmov o => Laws.Parts.vmov o
  | .vbcast o => Laws.Parts.vbcast o
  | .vins o => Laws.Parts.vins o
  | .vext o => Laws.Parts.vext o
  | .vclamp o => Laws.Parts.vclamp o
  | .kand o => Laws.Parts.kand o
  | .kor o => Laws.Parts.kor o
  | .kxor o => Laws.Parts.kxor o
  | .knot o => Laws.Parts.knot o
  | .kpop o => Laws.Parts.kpop o
  | .kfirst o => Laws.Parts.kfirst o
  | .kset o => Laws.Parts.kset o
  | .kmov o => Laws.Parts.kmov o
  | .vrcp o => Laws.Parts.vrcp o
  | .vrsq o => Laws.Parts.vrsq o
  | .vsqrt o => Laws.Parts.vsqrt o
  | .vexp2 o => Laws.Parts.vexp2 o
  | .vlog2 o => Laws.Parts.vlog2 o
  | .vsin o => Laws.Parts.vsin o
  | .vcos o => Laws.Parts.vcos o
  | .vtanh o => Laws.Parts.vtanh o
  | .vsigm o => Laws.Parts.vsigm o
  | .vexpd o => Laws.Parts.vexpd o
  | .vredsum o => Laws.Parts.vredsum o
  | .vredmax o => Laws.Parts.vredmax o
  | .vredmin o => Laws.Parts.vredmin o
  | .vscan o => Laws.Parts.vscan o
  | .vperm o => Laws.Parts.vperm o
  | .vshuf o => Laws.Parts.vshuf o
  | .vpack o => Laws.Parts.vpack o
  | .vunpack o => Laws.Parts.vunpack o
  | .sbind o => Laws.Parts.sbind o
  | .sdim o => Laws.Parts.sdim o
  | .sstart o => Laws.Parts.sstart o
  | .sstop o => Laws.Parts.sstop o
  | .swait o => Laws.Parts.swait o
  | .frep o => Laws.Parts.frep o
  | .mcfg o => Laws.Parts.mcfg o
  | .mzero o => Laws.Parts.mzero o
  | .mlda o => Laws.Parts.mlda o
  | .mldb o => Laws.Parts.mldb o
  | .mscl o => Laws.Parts.mscl o
  | .mma o => Laws.Parts.mma o
  | .mmas o => Laws.Parts.mmas o
  | .mdrain o => Laws.Parts.mdrain o
  | .mhand o => Laws.Parts.mhand o
  | .mrowrd o => Laws.Parts.mrowrd o
  | .mrowwr o => Laws.Parts.mrowwr o
  | .msave o => Laws.Parts.msave o
  | .mrest o => Laws.Parts.mrest o
  | .mstat o => Laws.Parts.mstat o
  | .fpush o => Laws.Parts.fpush o
  | .fpop o => Laws.Parts.fpop o
  | .fdrop o => Laws.Parts.fdrop o
  | .fenter o => Laws.Parts.fenter o
  | .farg o => Laws.Parts.farg o
  | .fkeep o => Laws.Parts.fkeep o
  | .fseal o => Laws.Parts.fseal o
  | .fshare o => Laws.Parts.fshare o
  | .fappend o => Laws.Parts.fappend o
  | .fwin o => Laws.Parts.fwin o
  | .fvis o => Laws.Parts.fvis o
  | .fdesc o => Laws.Parts.fdesc o
  | .fmask o => Laws.Parts.fmask o
  | .wcfg o => Laws.Parts.wcfg o
  | .wband o => Laws.Parts.wband o
  | .wseq o => Laws.Parts.wseq o
  | .wtile o => Laws.Parts.wtile o
  | .wbget o => Laws.Parts.wbget o
  | .wbput o => Laws.Parts.wbput o
  | .tbwalk o => Laws.Parts.tbwalk o
  | .xexp o => Laws.Parts.xexp o
  | .xcmp o => Laws.Parts.xcmp o
  | .xquant o => Laws.Parts.xquant o
  | .xconv o => Laws.Parts.xconv o
  | .xpoll o => Laws.Parts.xpoll o
  | .ld o => Laws.Parts.ld o
  | .st o => Laws.Parts.st o
  | .ldc o => Laws.Parts.ldc o
  | .stc o => Laws.Parts.stc o
  | .vld o => Laws.Parts.vld o
  | .vst o => Laws.Parts.vst o
  | .vldg o => Laws.Parts.vldg o
  | .vsts o => Laws.Parts.vsts o
  | .ldfe o => Laws.Parts.ldfe o
  | .stfe o => Laws.Parts.stfe o
  | .pref o => Laws.Parts.pref o
  | .cpy o => Laws.Parts.cpy o
  | .cpyq o => Laws.Parts.cpyq o
  | .fence o => Laws.Parts.fence o
  | .lflush o => Laws.Parts.lflush o
  | .linv o => Laws.Parts.linv o
  | .ldm o => Laws.Parts.ldm o
  | .mig o => Laws.Parts.mig o
  | .home o => Laws.Parts.home o
  | .amoadd o => Laws.Parts.amoadd o
  | .amomin o => Laws.Parts.amomin o
  | .amomax o => Laws.Parts.amomax o
  | .amoand o => Laws.Parts.amoand o
  | .amoor o => Laws.Parts.amoor o
  | .amoxor o => Laws.Parts.amoxor o
  | .amoswp o => Laws.Parts.amoswp o
  | .amocas o => Laws.Parts.amocas o
  | .amofadd o => Laws.Parts.amofadd o
  | .redadd o => Laws.Parts.redadd o
  | .redmin o => Laws.Parts.redmin o
  | .redmax o => Laws.Parts.redmax o
  | .redfadd o => Laws.Parts.redfadd o
  | .mon o => Laws.Parts.mon o
  | .unmon o => Laws.Parts.unmon o
  | .park o => Laws.Parts.park o
  | .smset o => Laws.Parts.smset o
  | .smrd o => Laws.Parts.smrd o
  | .smadd o => Laws.Parts.smadd o
  | .bar o => Laws.Parts.bar o
  | .barmx o => Laws.Parts.barmx o
  | .br o => Laws.Parts.br o
  | .jmp o => Laws.Parts.jmp o
  | .call o => Laws.Parts.call o
  | .ret o => Laws.Parts.ret o
  | .loop o => Laws.Parts.loop o
  | .nop o => Laws.Parts.nop o
  | .spawn o => Laws.Parts.spawn o
  | .yield o => Laws.Parts.yield o
  | .awaitSm o => Laws.Parts.awaitSm o
  | .awaitFull o => Laws.Parts.awaitFull o
  | .awaitEmpty o => Laws.Parts.awaitEmpty o
  | .exit o => Laws.Parts.exit o
  | .callat o => Laws.Parts.callat o
  | .callatW o => Laws.Parts.callatW o
  | .reply o => Laws.Parts.reply o
  | .tjoin o => Laws.Parts.tjoin o
  | .tleave o => Laws.Parts.tleave o
  | .tqry o => Laws.Parts.tqry o
  | .prio o => Laws.Parts.prio o
  | .rclk o => Laws.Parts.rclk o
  | .rcadv o => Laws.Parts.rcadv o
  | .cgeta o => Laws.Parts.cgeta o
  | .cgetb o => Laws.Parts.cgetb o
  | .cgetl o => Laws.Parts.cgetl o
  | .cgetp o => Laws.Parts.cgetp o
  | .ctag o => Laws.Parts.ctag o
  | .cseta o => Laws.Parts.cseta o
  | .cinc o => Laws.Parts.cinc o
  | .cbnd o => Laws.Parts.cbnd o
  | .cbnde o => Laws.Parts.cbnde o
  | .cperm o => Laws.Parts.cperm o
  | .cseal o => Laws.Parts.cseal o
  | .cunseal o => Laws.Parts.cunseal o
  | .cclr o => Laws.Parts.cclr o
  | .csub o => Laws.Parts.csub o
  | .cmov o => Laws.Parts.cmov o
  | .crvkMark o => Laws.Parts.crvkMark o
  | .crvkClear o => Laws.Parts.crvkClear o
  | .cswpStart o => Laws.Parts.cswpStart o
  | .cswpAck o => Laws.Parts.cswpAck o
  | .trap o => Laws.Parts.trap o
  | .ebrk o => Laws.Parts.ebrk o
  | .gsr o => Laws.Parts.gsr o
  | .ssr o => Laws.Parts.ssr o
  | .frec0Rearm o => Laws.Parts.frec0Rearm o
  | .trqstClear o => Laws.Parts.trqstClear o
  | .bmodeWrite o => Laws.Parts.bmodeWrite o
  | .trq o => Laws.Parts.trq o
  | .wfs o => Laws.Parts.wfs o
  | .sretRetry o => Laws.Parts.sretRetry o
  | .sretSkip o => Laws.Parts.sretSkip o
  | .sretPc o => Laws.Parts.sretPc o
  | .sretWake o => Laws.Parts.sretWake o
  | .rdpk o => Laws.Parts.rdpk o
  | .wrpk o => Laws.Parts.wrpk o
  | .suspk o => Laws.Parts.suspk o
  | .suspkQ o => Laws.Parts.suspkQ o
  | .hint o => Laws.Parts.hint o
  | .streamRowFetch => Laws.Parts.streamRowFetch
  | .streamRowPerform => Laws.Parts.streamRowPerform
  | .repetitionPass => Laws.Parts.repetitionPass
  | .latchDataArrival => Laws.Parts.latchDataArrival
  | .drainRowWrite => Laws.Parts.drainRowWrite
  | .latchReload => Laws.Parts.latchReload
  | .wtileComplete => Laws.Parts.wtileComplete
  | .transformRequestExecute => Laws.Parts.transformRequestExecute
  | .transformReservedEntry => Laws.Parts.transformReservedEntry
  | .fullEmptyServe => Laws.Parts.fullEmptyServe
  | .fifoServe => Laws.Parts.fifoServe
  | .quayCoreArrival => Laws.Parts.quayCoreArrival
  | .copyChunk => Laws.Parts.copyChunk
  | .remoteUpdate => Laws.Parts.remoteUpdate
  | .parkWake => Laws.Parts.parkWake
  | .parkTimeout => Laws.Parts.parkTimeout
  | .waitsemGrant => Laws.Parts.waitsemGrant
  | .barrierWaitReturn => Laws.Parts.barrierWaitReturn
  | .awaitConditionHolds => Laws.Parts.awaitConditionHolds
  | .replyGranuleWrite => Laws.Parts.replyGranuleWrite
  | .sweepMemory => Laws.Parts.sweepMemory
  | .sweepComplete => Laws.Parts.sweepComplete
  | .exportImage => Laws.Parts.exportImage
  | .importImage => Laws.Parts.importImage
  | .migrationImport => Laws.Parts.migrationImport
  | .exportImportComplete => Laws.Parts.exportImportComplete
  | .wfsTimeout => Laws.Parts.wfsTimeout
  | .hintYieldEnd => Laws.Parts.hintYieldEnd
  | .trapRecordEnqueue => Laws.Parts.trapRecordEnqueue
  | .wtmo => Laws.Parts.wtmo
  | .slice => Laws.Parts.slice
  | .enqueueApertureWrite => Laws.Parts.enqueueApertureWrite
  | .bind => Laws.Parts.bind
  | .stand => Laws.Parts.stand
  | .preempt => Laws.Parts.preempt
  | .restoreUnitTake => Laws.Parts.restoreUnitTake
  | .poolGrant => Laws.Parts.poolGrant
  | .localRefill => Laws.Parts.localRefill
  | .cmqPromote => Laws.Parts.cmqPromote
  | .heldMessageDelivery => Laws.Parts.heldMessageDelivery
  | .budgetCharge => Laws.Parts.budgetCharge
  | .towSwap => Laws.Parts.towSwap
  | .towReturn => Laws.Parts.towReturn
  | .launchCompletion => Laws.Parts.launchCompletion
  | .coalescingWindowEnd => Laws.Parts.coalescingWindowEnd
  | .towDescriptorActionHeld => Laws.Parts.towDescriptorActionHeld
  | .pageRequestMapped => Laws.Parts.pageRequestMapped
  | .pageRequestRefusal => Laws.Parts.pageRequestRefusal
  | .sideLogAdmit => Laws.Parts.sideLogAdmit
  | .dupInvalidationAck => Laws.Parts.dupInvalidationAck
  | .translationInvalidate => Laws.Parts.translationInvalidate
  | .hostBar2Read => Laws.Parts.hostBar2Read
  | .hostBar2Write => Laws.Parts.hostBar2Write
  | .counterGroupRead => Laws.Parts.counterGroupRead
  | .psemTake => Laws.Parts.psemTake
  | .psemRelease => Laws.Parts.psemRelease
  | .attest => Laws.Parts.attest
  | .towResume => Laws.Parts.towResume
  | .towDiscard => Laws.Parts.towDiscard
  | .uitSet => Laws.Parts.uitSet
  | .cwinSet => Laws.Parts.cwinSet
  | .cwinArm => Laws.Parts.cwinArm
  | .worldCreate => Laws.Parts.worldCreate
  | .worldDestroy => Laws.Parts.worldDestroy
  | .migExport => Laws.Parts.migExport
  | .migImport => Laws.Parts.migImport
  | .fwUpdate => Laws.Parts.fwUpdate
  | .routeSet => Laws.Parts.routeSet
  | .xwinSet => Laws.Parts.xwinSet
  | .importSet => Laws.Parts.importSet
  | .mailboxCompletion => Laws.Parts.mailboxCompletion
  | .mgmtRegisterWrite => Laws.Parts.mgmtRegisterWrite
  | .cwinTimeout => Laws.Parts.cwinTimeout
  | .peerAccessArrival => Laws.Parts.peerAccessArrival
  | .peerResponse => Laws.Parts.peerResponse
  | .ptmo => Laws.Parts.ptmo
  | .fabricFailover => Laws.Parts.fabricFailover
  | .cxlLinkDown => Laws.Parts.cxlLinkDown
  | .hotReset => Laws.Parts.hotReset
  | .hostSessionEstablished => Laws.Parts.hostSessionEstablished
  | .coldReset => Laws.Parts.coldReset
  | .warmReset => Laws.Parts.warmReset
  | .functionLevelReset => Laws.Parts.functionLevelReset
  | .supervisorStart => Laws.Parts.supervisorStart
  | .throttleStep => Laws.Parts.throttleStep
  | .thermalTrip => Laws.Parts.thermalTrip
  | .supplyDroop => Laws.Parts.supplyDroop
  | .vrefRecalibration => Laws.Parts.vrefRecalibration
  | .patrolScrub => Laws.Parts.patrolScrub
  | .accumulatorComplete => Laws.Parts.accumulatorComplete
  | .bankModeSwitchComplete => Laws.Parts.bankModeSwitchComplete
  | .storePerformed => Laws.Parts.storePerformed
  | .invalidationApplied => Laws.Parts.invalidationApplied
  | .debuggerHalt => Laws.Parts.debuggerHalt
  | .debuggerResume => Laws.Parts.debuggerResume
  | .fabricLinkUp => Laws.Parts.fabricLinkUp
  | .cxlLinkUp => Laws.Parts.cxlLinkUp
  | .functionLevelResetComplete => Laws.Parts.functionLevelResetComplete
  | .counterTableRescan => Laws.Parts.counterTableRescan

/-- A well-formed instruction that has parts has an assigned opcode, and its parts build it. -/
theorem build_of_parts {i : Instr} {opc : Nat} {b : Body} (hp : i.parts = some (opc, b)) (hw : i.wf = true) :
    opc < 1024 ∧ assignedOpc opc = true ∧ build opc b = some i := by
  have h := parts_statement i
  simp only [Laws.Parts.Statement, hp] at h
  exact h hw

theorem encode_eq_some {i : Instr} {w : BitVec 96} :
    encode i = some w ↔ ∃ opc b, i.parts = some (opc, b) ∧ b.bits opc = w := by
  simp only [encode, Option.map_eq_some_iff, Prod.exists]

theorem wf_iff_ill {i : Instr} : i.wf = true ↔ i.ill = none := Option.isNone_iff_eq_none

/-- The word of a well-formed instruction decodes to it. -/
theorem decode_encode {i : Instr} {w : BitVec 96} (hw : i.wf = true) (he : encode i = some w) : decode w = .ok i := by
  obtain ⟨opc, b, hp, rfl⟩ := encode_eq_some.1 he
  obtain ⟨hlt, hasg, hb⟩ := build_of_parts hp hw
  exact decode_of (opcOf_bits opc b hlt) (bodyOf_bits opc b) hasg hb (wf_iff_ill.1 hw)

/-- What a word decodes to is well formed, and its word is that word. -/
theorem encode_decode {i : Instr} {w : BitVec 96} (h : decode w = .ok i) : i.wf = true ∧ encode i = some w := by
  obtain ⟨-, hb, hill⟩ := of_decode h
  exact ⟨wf_iff_ill.2 hill, encode_eq_some.2 ⟨_, _, build_parts _ _ _ hb, bits_bodyOf w⟩⟩

end Sys2Proof

section
open Sys2Proof

/-- Settles O56: `decode_encode` and `encode_decode`. -/
theorem decodeAndEncodeAgree : Obligations.DecodeAndEncodeAgree := by
  unfold Obligations.DecodeAndEncodeAgree
  exact ⟨fun _ _ => decode_encode, fun _ _ => encode_decode⟩

end
end

section
/-!
The integer group (R73-R82): what the shared bodies leave, and the integer that a result reads as.
-/

namespace Sys2Proof.Machine

/-! ### The forms in which the rules state a result -/

/-- Division, with the quotient of a zero divisor written out (R76). -/
theorem divV_eq (m : ModF) (a b : Int) : (IntTy.ofCode m.ty).divV a b =
    if b = 0 then (if tySigned m.ty then -1 else 2 ^ tyWidth m - 1) else a.tdiv b := by
  simp only [IntTy.divV, IntTy.maxV, intMax, IntTy.ofCode, tyWidth, tySigned, beq_iff_eq, decide_eq_true_eq]
  split_ifs <;> rfl
theorem remV_eq (t : IntTy) (a b : Int) : t.remV a b = if b = 0 then a else a.tmod b := by
  simp only [IntTy.remV, beq_iff_eq]

/-- A pattern that has been reduced is shifted as it stands. -/
theorem shrPat_srcPat (m : ModF) (v : Word) (n : Nat) : shrPat (tyWidth m) (srcPat m v) n =
    if n < tyWidth m then srcPat m v / 2 ^ n else 0 := by
  simp only [shrPat, srcPat, tyWidth, Nat.mod_mod]
  rfl
/-- A choice by SUB, written with its codes: three ways, and four. -/
theorem ite_sub_three {α : Type} (b : BitVec 4) (x y z : α) : (if b = 0 then x else if b = 1 then y else z) =
    match b.toNat with
    | 0 => x
    | 1 => y
    | _ => z := by
  simp only [← BitVec.toNat_inj]
  rcases b.toNat with _ | _ | n <;> simp
theorem ite_sub_four {α : Type} (b : BitVec 4) (x y z u : α) :
    (if b = 0 then x else if b = 1 then y else if b = 2 then z else u) =
    match b.toNat with
    | 0 => x
    | 1 => y
    | 2 => z
    | _ => u := by
  simp only [← BitVec.toNat_inj]
  rcases b.toNat with _ | _ | _ | n <;> simp

end Sys2Proof.Machine

section
open Sys2Proof
open Sys2Proof.Machine

/-- Settles O1. -/
theorem integerInstructionsComplete : Obligations.IntegerInstructionsComplete := by
  unfold Obligations.IntegerInstructionsComplete
  refine ⟨fun s => ⟨?add, ?sub, ?mul, ?mulh, ?mad, ?div, ?rem, ?min, ?max, ?abs, ?shadd⟩,
    fun s => ⟨?and, ?or, ?xor, ?andn, ?shl, ?shr, ?sra, ?rotl, ?clz, ?ctz, ?popc, ?bswap⟩,
    fun s => ⟨?bfx, ?bfi, ?sel, ?mov, ?li, ?cvt, ?cmp, ?pand, ?por, ?pxor, ?pnot, ?pmov⟩⟩
  case div => exact fun o => by rw [← divV_eq]; exact finish_ok rfl
  case rem => exact fun o => by rw [← remV_eq (IntTy.ofCode o.md.ty)]; exact finish_ok rfl
  case shr => exact fun o => by rw [← shrPat_srcPat]; exact finish_ok rfl
  case sel => exact fun o => by rw [← apply_ite BitVec.toNat]; exact finish_ok rfl
  case li => exact fun o => by rw [ite_sub_three]; exact finish_ok rfl
  case pmov => exact fun o => by rw [ite_sub_four]; exact finish_ok rfl
  all_goals exact fun o => finish_ok rfl

end
end

section
/-!
Integer results as numbers (R61, R73, R75): the integers of a type are a full system of residues modulo 2^w, and one that
is in range stands for itself.
-/

namespace Sys2Proof.Machine

/-! ### The integers of a type -/

/-- An integer lies in the range of a type. -/
def IntTy.has (t : IntTy) (v : Int) : Prop := t.minV ≤ v ∧ v ≤ t.maxV

theorem IntTy.ofCode_w_pos (ty : BitVec 4) : 0 < (IntTy.ofCode ty).w := by
  simp only [IntTy.ofCode]; split <;> decide
theorem IntTy.ofCode_w_le (ty : BitVec 4) : (IntTy.ofCode ty).w ≤ 64 := by
  simp only [IntTy.ofCode]; split <;> decide

theorem two_pow_eq_add {w : Nat} (hw : 0 < w) : (2 : Int) ^ w = 2 ^ (w - 1) + 2 ^ (w - 1) := by
  obtain ⟨n, rfl⟩ := Nat.exists_eq_succ_of_ne_zero hw.ne'
  rw [Nat.succ_sub_one, pow_succ, mul_two]

/-- A range spans less than 2^w. -/
theorem IntTy.maxV_sub_minV {t : IntTy} (hw : 0 < t.w) : t.maxV - t.minV < 2 ^ t.w := by
  have := two_pow_eq_add hw
  simp only [IntTy.maxV, IntTy.minV, intMax, intMin]
  split_ifs <;> omega
theorem IntTy.minV_le_maxV (t : IntTy) : t.minV ≤ t.maxV := by
  have h1 : (0 : Int) < 2 ^ (t.w - 1) := by positivity
  have h2 : (0 : Int) < 2 ^ t.w := by positivity
  simp only [IntTy.maxV, IntTy.minV, intMax, intMin]
  split_ifs <;> omega

/-- Two integers of a type that are congruent modulo 2^w are the same. -/
theorem IntTy.eq_of_emod_eq {t : IntTy} {a b : Int} (hw : 0 < t.w) (ha : t.has a) (hb : t.has b)
    (h : a % 2 ^ t.w = b % 2 ^ t.w) : a = b := by
  have hs := IntTy.maxV_sub_minV hw
  obtain ⟨ha1, ha2⟩ := ha
  obtain ⟨hb1, hb2⟩ := hb
  have hd : (2 : Int) ^ t.w ∣ a - b :=
    Int.dvd_of_emod_eq_zero (Int.emod_eq_emod_iff_emod_sub_eq_zero.1 h)
  have := Int.eq_zero_of_abs_lt_dvd hd (abs_lt.2 ⟨by omega, by omega⟩)
  omega

/-! ### Reading a code -/

theorem intDecode_emod (sg : Bool) (w c : Nat) : intDecode sg w c % 2 ^ w = (c : Int) % 2 ^ w := by
  simp only [intDecode]
  split_ifs
  · rw [Int.sub_emod_right]; push_cast; exact Int.emod_emod_of_dvd _ dvd_rfl
  · push_cast; exact Int.emod_emod_of_dvd _ dvd_rfl

/-- What a type reads is one of its integers. -/
theorem IntTy.rd_has {t : IntTy} (hw : 0 < t.w) (c : Nat) : t.has (t.rd c) := by
  have h2 := two_pow_eq_add hw
  have hc : ((c % 2 ^ t.w : Nat) : Int) < 2 ^ t.w := by exact_mod_cast Nat.mod_lt c (by positivity)
  have hp : ((2 ^ (t.w - 1) : Nat) : Int) = 2 ^ (t.w - 1) := by push_cast; rfl
  simp only [IntTy.has, IntTy.rd, IntTy.minV, IntTy.maxV, intDecode, intMin, intMax, Bool.and_eq_true, decide_eq_true_eq]
  cases t.signed <;> simp only [Bool.false_eq_true, false_and, if_false, true_and, if_true]
  · omega
  · split_ifs <;> omega

/-- A type reads an integer of its own from that integer's code, and from its extension. -/
theorem IntTy.rd_of_emod {t : IntTy} {v : Int} {c : Nat} (hw : 0 < t.w) (hv : t.has v) (h : (c : Int) % 2 ^ t.w = v % 2 ^ t.w) :
    t.rd c = v :=
  IntTy.eq_of_emod_eq hw (IntTy.rd_has hw c) hv ((intDecode_emod ..).trans h)
theorem intCode_emod (w : Nat) (v : Int) : ((intCode w v : Nat) : Int) % 2 ^ w = v % 2 ^ w := by
  rw [intCode, Int.toNat_of_nonneg (Int.emod_nonneg _ (by positivity)), Int.emod_emod_of_dvd _ dvd_rfl]
theorem IntTy.rd_intCode {t : IntTy} {v : Int} (hw : 0 < t.w) (hv : t.has v) : t.rd (intCode t.w v) = v :=
  IntTy.rd_of_emod hw hv (intCode_emod t.w v)
theorem IntTy.rd_ext {t : IntTy} (hw : 0 < t.w) (hle : t.w ≤ 64) (c : Nat) : t.rd (t.ext c).toNat = t.rd c := by
  refine IntTy.rd_of_emod hw (IntTy.rd_has hw c) ?_
  rw [IntTy.ext, BitVec.toNat_ofInt, Int.toNat_of_nonneg (Int.emod_nonneg _ (by positivity))]
  exact Int.emod_emod_of_dvd _ (by exact_mod_cast pow_dvd_pow 2 hle)

/-! ### Results -/

theorem srcInt_intResult (m : ModF) (v : Int) :
    srcInt m (intResult m v) = (IntTy.ofCode m.ty).rd ((IntTy.ofCode m.ty).reduce (m.sat == 1) v) :=
  IntTy.rd_ext (IntTy.ofCode_w_pos _) (IntTy.ofCode_w_le _) _

/-- An integer clamped to a type is one of its integers. -/
theorem IntTy.clamp_has (t : IntTy) (v : Int) : t.has (max t.minV (min v t.maxV)) :=
  ⟨le_max_left _ _, max_le t.minV_le_maxV (min_le_right _ _)⟩

theorem intResult_eq_ofInt (m : ModF) (v : Int) : intResult m v = BitVec.ofInt 64 (srcInt m (intResult m v)) := by
  rw [srcInt_intResult]; rfl
theorem srcInt_has (m : ModF) (v : Word) : (IntTy.ofCode m.ty).has (srcInt m v) := IntTy.rd_has (IntTy.ofCode_w_pos _) _

/-- An integer of a signed type is a signed word, and one of an unsigned type an unsigned word. -/
theorem toInt_ofInt_of_has {ty : BitVec 4} {v : Int} (hs : tySigned ty = true) (h : (IntTy.ofCode ty).has v) :
    (BitVec.ofInt 64 v).toInt = v := by
  obtain ⟨h1, h2⟩ := h
  have hp : (2 : Int) ^ ((IntTy.ofCode ty).w - 1) ≤ 2 ^ 63 :=
    pow_le_pow_right₀ (by decide) (by have := IntTy.ofCode_w_le ty; omega)
  have hsg : (IntTy.ofCode ty).signed = true := hs
  simp only [IntTy.minV, IntTy.maxV, intMin, intMax, hsg, if_true] at h1 h2
  exact BitVec.toInt_ofInt_eq_self (by decide) (by omega) (by omega)
theorem toNat_ofInt_of_has {ty : BitVec 4} {v : Int} (hs : tySigned ty = false) (h : (IntTy.ofCode ty).has v) :
    ((BitVec.ofInt 64 v).toNat : Int) = v := by
  obtain ⟨h1, h2⟩ := h
  have hp : (2 : Int) ^ (IntTy.ofCode ty).w ≤ 2 ^ 64 := pow_le_pow_right₀ (by decide) (IntTy.ofCode_w_le ty)
  have hsg : (IntTy.ofCode ty).signed = false := hs
  simp only [IntTy.minV, IntTy.maxV, intMin, intMax, hsg, Bool.false_eq_true, if_false] at h1 h2
  rw [BitVec.toNat_ofInt, Int.toNat_of_nonneg (Int.emod_nonneg _ (by positivity))]
  exact Int.emod_eq_of_lt h1 (by push_cast; omega)

end Sys2Proof.Machine

section
open Sys2Proof
open Sys2Proof.Machine

/-- Settles O2: the integers of a type are a full system of residues modulo 2^w. -/
theorem integerResultIsReduced : Obligations.IntegerResultIsReduced := by
  unfold Obligations.IntegerResultIsReduced
  intro m v _
  refine ⟨fun hsat => ?_, fun hsat => ⟨?_, (srcInt_has m _).1, (srcInt_has m _).2⟩, fun hs => ?_, fun hs => ?_⟩
  · rw [srcInt_intResult, hsat]
    exact IntTy.rd_intCode (IntTy.ofCode_w_pos _) (IntTy.clamp_has _ _)
  · rw [srcInt_intResult, hsat]
    exact Int.emod_eq_emod_iff_emod_sub_eq_zero.1 ((intDecode_emod ..).trans (intCode_emod ..))
  · conv_lhs => rw [intResult_eq_ofInt]
    exact toInt_ofInt_of_has hs (srcInt_has m _)
  · conv_lhs => rw [intResult_eq_ofInt]
    exact toNat_ofInt_of_has hs (srcInt_has m _)

end
end

section
/-!
Scalar floats (R68, R69, R84): an operation whose flags are masked leaves its result and its flags, one that raises an
enabled flag takes FPE and changes nothing else.
-/

namespace Sys2Proof.Machine

/-! ### What follows the flags -/

theorem raiseFlags_bind_masked {α : Type} {s : State} {fl : Flags} (h : masked s fl) (k : State → R α) :
    (raiseFlags s fl >>= k) = k (flagged s fl) := by
  rw [raiseFlags_masked h, bind_ok]
theorem raiseFlags_bind_enabled {α : Type} {s : State} {fl : Flags} (h : ¬ masked s fl) (k : State → R α) :
    (raiseFlags s fl >>= k) = .error (.trap ⟨cFPE, fl.toNat, 0⟩, s) := by
  rw [raiseFlags_enabled h, bind_error]

/-- A scalar float operation that raises an enabled flag takes FPE (R69). -/
theorem finish_floatBody_enabled {o : ROp} {s : State} {g : FpEnv → Fmt → Nat → Nat → Nat → Nat × Flags} {r : Nat × Flags}
    (hr : g (flEnv s o.md) (flFmt o.md) (flSrc o.md (s.rx o.oa)) (flSrc o.md (s.rx o.ob)) (flSrc o.md (s.rx o.oc)) = r)
    (hm : ¬ masked s r.2) : finish o.hdr (floatBody o g) s = .next (s.takeTrap ⟨cFPE, r.2.toNat, 0⟩) := by
  subst hr
  exact finish_trap (raiseFlags_bind_enabled hm _)

end Sys2Proof.Machine

section
open Sys2Proof
open Sys2Proof.Machine

/-- Settles O3: every instruction of the group raises its flags and then writes its destination. -/
theorem scalarFloatInstructionsComplete : Obligations.ScalarFloatInstructionsComplete := by
  unfold Obligations.ScalarFloatInstructionsComplete
  refine ⟨fun s o => ⟨?_, ?_, ?_, ?_, ?_, ?_, ?fmin, ?fmax, ?fcmp, ?fcvt, ?fclass⟩,
    fun s o => ⟨?_, ?_, ?_, ?_, ?_, ?_, ?fcmpE, ?fcvtE⟩⟩
  case fmin | fmax => exact finish_floatBody_masked rfl (masked_zero s)
  case fcmp =>
    intro r h
    show execFcmp o s = _
    exact finish_ok (raiseFlags_bind_masked h _)
  case fcvt =>
    intro e r h
    show execFcvt o s = _
    exact finish_ok (raiseFlags_bind_masked h _)
  case fclass => exact finish_ok rfl
  case fcmpE =>
    intro r h
    show execFcmp o s = _
    exact finish_trap (raiseFlags_bind_enabled h _)
  case fcvtE =>
    intro e r h
    show execFcvt o s = _
    exact finish_trap (raiseFlags_bind_enabled h _)
  iterate 6 exact fun h => finish_floatBody_masked rfl h
  iterate 6 exact fun h => finish_floatBody_enabled rfl h

end
end

section
/-!
Vector, mask, special-function and cross-lane instructions (R91-R103): the shapes that `lanes1_runs` to `lanes3_runs` do not
cover.
-/

namespace Sys2Proof.Machine

/-! ### Shifts by an immediate, and their sources (R94) -/

theorem vshiftB_imm (f : Nat → Nat → Nat → Nat) (o : IOp) : vshiftB f (.i o) = vecBody o.od [o.oa] fun sl vs =>
    vMap (laneBits o.md.ty) (kmOf sl o.md) (zmOf o.md) fun i =>
      (f (laneBits o.md.ty) (lane (laneBits o.md.ty) (nth vs 0) i) o.imm.toNat, 0) := rfl
theorem shiftImm_runs {i : Instr} {o : IOp} {s : State} {vs : List Line} (f : Nat → Nat → Nat → Nat)
    (e : exec i s = finish o.hdr (vshiftB f (.i o)) s) (hs : vecSources s o.od [o.oa] vs) :
    vecRuns i o.hdr s o.od [o.oa]
      (laneMap s o.md fun j => (f (laneBits o.md.ty) (laneIn o.md vs 0 j) o.imm.toNat, 0)) := by
  rw [vshiftB_imm] at e
  exact vecRuns_finish hs e rfl

/-! ### Special functions (R100) -/

theorem fnLanesRm_runs {i : Instr} {o : ROp} {s : State} {vs : List Line} (f : Num → Num × Flags)
    (e : exec i s = finish o.hdr (fnLanesRm o f) s) (hs : vecSources s o.od [o.oa] vs) :
    vecRuns i o.hdr s o.od [o.oa] (laneMap s o.md fun j => (flEnv s o.md).fin (flFmt o.md)
      (f ((flFmt o.md).decode s.sl.tcx (laneIn o.md vs 0 j)))) :=
  lanes1_runs (fun e a => e.fin (.ofCode o.md.ty 0) (f (Fmt.decode (.ofCode o.md.ty 0) e.tcx a))) e hs
theorem fnLanes_runs {i : Instr} {o : ROp} {s : State} {vs : List Line} (f : Num → Num × Flags)
    (e : exec i s = finish o.hdr (fnLanes o f) s) (hs : vecSources s o.od [o.oa] vs) :
    vecRuns i o.hdr s o.od [o.oa] (laneMap s o.md fun j => ({ flEnv s o.md with rm := .rne } : FpEnv).fin (flFmt o.md)
      (f ((flFmt o.md).decode s.sl.tcx (laneIn o.md vs 0 j)))) :=
  lanes1_runs (fun e a => ({ e with rm := .rne } : FpEnv).fin (.ofCode o.md.ty 0)
    (f (Fmt.decode (.ofCode o.md.ty 0) e.tcx a))) e hs

/-- The difference that vexpd takes the exponential of is of two lanes. -/
theorem vexpd_runs {o : ROp} {s : State} {vs : List Line} (hs : vecSources s o.od [o.oa, o.ob] vs) :
    vecRuns (.vexpd o) o.hdr s o.od [o.oa, o.ob] (laneMap s o.md fun j =>
      ({ flEnv s o.md with rm := .rne } : FpEnv).fin (flFmt o.md) (fnExpd ((flFmt o.md).decode s.sl.tcx (laneIn o.md vs 0 j))
        ((flFmt o.md).decode s.sl.tcx (laneIn o.md vs 1 j)))) :=
  lanes2_runs (fun e a b => ({ e with rm := .rne } : FpEnv).fin (.ofCode o.md.ty 0)
    (fnExpd (Fmt.decode (.ofCode o.md.ty 0) e.tcx a) (Fmt.decode (.ofCode o.md.ty 0) e.tcx b))) rfl hs

/-! ### Permutes (R102) -/

theorem vperm_runs {o : ROp} {s : State} {vs : List Line} (hs : vecSources s o.od [o.oa, o.ob] vs) :
    vecRuns (.vperm o) o.hdr s o.od [o.oa, o.ob] (laneMap s o.md fun j =>
      (laneIn o.md vs 0 (laneIn o.md vs 1 j % (1024 / laneBits o.md.ty)), 0)) := by
  have e : exec (.vperm o) s = finish o.hdr (vpermB o) s := rfl
  unfold vpermB at e
  exact vecRuns_finish hs e (by simp only [laneMap, laneIn, laneCount])
theorem vshuf_runs {o : ROp} {s : State} {vs : List Line} (hs : vecSources s o.od [o.oa, o.ob, o.oc] vs) :
    vecRuns (.vshuf o) o.hdr s o.od [o.oa, o.ob, o.oc] (laneMap s o.md fun j =>
      (let n := 1024 / laneBits o.md.ty
      let k := laneIn o.md vs 1 j % (2 * n)
      if k < n then laneIn o.md vs 0 k else laneIn o.md vs 2 (k - n), 0)) := by
  have e : exec (.vshuf o) s = finish o.hdr (vshufB o) s := rfl
  unfold vshufB at e
  exact vecRuns_finish hs e (by simp only [laneMap, laneIn, laneCount]; rfl)
theorem vpack_runs {o : ROp} {s : State} {vs : List Line} (hs : vecSources s o.od [o.oa, o.ob] vs) :
    vecRuns (.vpack o) o.hdr s o.od [o.oa, o.ob] (laneMap s o.md fun j =>
      (vpackLane o.md.ty (o.md.sat == 1) (nth vs 0) (nth vs 1) j, 0)) := by
  have e : exec (.vpack o) s = finish o.hdr (vpackB o) s := rfl
  unfold vpackB at e
  exact vecRuns_finish hs e (by simp only [laneMap])

theorem vunpack_runs {o : ROp} {s : State} {vs : List Line} (hs : vecSources s o.od [o.oa] vs) :
    vecRuns (.vunpack o) o.hdr s o.od [o.oa] (laneMap s o.md fun j => (vunpackLane o.md.ty o.md.sub.toNat (nth vs 0) j, 0)) := by
  have e : exec (.vunpack o) s = finish o.hdr (vunpackB o) s := rfl
  unfold vunpackB at e
  exact vecRuns_finish hs e (by simp only [laneMap])

/-! ### Reductions (R101) -/

theorem vredsum_runs {o : ROp} {s : State} {vs : List Line} (hs : vecSources s o.od [o.oa] vs) :
    vecRuns (.vredsum o) o.hdr s o.od [o.oa]
      (let r := sumCodes o.md.ty (flEnv s o.md)
        (enabledLanes (laneBits o.md.ty) (kmOf s.sl o.md) (nth vs 0) (1024 / laneBits o.md.ty))
      laneZeroOnly r.1 r.2) := by
  have e : exec (.vredsum o) s = finish o.hdr (vredsumB o) s := rfl
  unfold vredsumB at e
  exact vecRuns_finish hs e (by simp only [flEnv, laneCount])
theorem extreme_runs {i : Instr} {o : ROp} {s : State} {vs : List Line} (wantMax : Bool)
    (e : exec i s = finish o.hdr (extremeB wantMax o) s) (hs : vecSources s o.od [o.oa] vs) :
    vecRuns i o.hdr s o.od [o.oa] (laneZeroOnly (extremeCodes o.md.ty (flEnv s o.md) wantMax
      (enabledLanes (laneBits o.md.ty) (kmOf s.sl o.md) (nth vs 0) (1024 / laneBits o.md.ty))) 0) := by
  unfold extremeB at e
  exact vecRuns_finish hs e (by simp only [flEnv, laneCount])
theorem vscan_runs {o : ROp} {s : State} {vs : List Line} (hs : vecSources s o.od [o.oa] vs) :
    vecRuns (.vscan o) o.hdr s o.od [o.oa] (laneMap s o.md fun j => sumCodes o.md.ty (flEnv s o.md)
      (enabledLanes (laneBits o.md.ty) (kmOf s.sl o.md) (nth vs 0) (j + 1))) := by
  have e : exec (.vscan o) s = finish o.hdr (vscanB o) s := rfl
  unfold vscanB at e
  exact vecRuns_finish hs e (by simp only [flEnv, laneMap, vscanLanes])

/-! ### Instructions whose destination is no v register (R95, R98) -/

theorem vecRead_masked {s : State} {srcs : List (BitVec 6)} {f : Slot → List Line → Flags × (State → State)} {vs : List Line}
    (h : srcs.mapM (readV s) = .ok vs) (hm : masked s (f s.sl vs).1) :
    vecRead srcs f s = .ok ((f s.sl vs).2 (popPorts (flagged s (f s.sl vs).1) srcs [])) := by
  simp only [vecRead, h, bind_ok, raiseFlags_masked hm]
theorem vecRead_enabled {s : State} {srcs : List (BitVec 6)} {f : Slot → List Line → Flags × (State → State)} {vs : List Line}
    (h : srcs.mapM (readV s) = .ok vs) (hm : ¬ masked s (f s.sl vs).1) :
    vecRead srcs f s = .error (.trap ⟨cFPE, (f s.sl vs).1.toNat, 0⟩, s) := by
  simp only [vecRead, h, bind_ok, raiseFlags_enabled hm, bind_error]

/-- vins writes its lane, where the number names one (R98). -/
theorem vins_res (o : ROp) (s : State) :
    (if laneCount (laneBits o.md.ty) ≤ (s.sl.rx o.ob).toNat then VRes.empty
      else VRes.put .empty (laneBits o.md.ty) (s.sl.rx o.ob).toNat (s.sl.rx o.oa).toNat 0) =
    if (s.rx o.ob).toNat < 1024 / laneBits o.md.ty
      then VRes.put .empty (laneBits o.md.ty) (s.rx o.ob).toNat (s.rx o.oa).toNat 0 else .empty := by
  rw [← ite_not]; simp only [Nat.not_le]; rfl
/-- A broadcast immediate is zero-extended (R98). -/
theorem imm_toNat (imm : BitVec 32) : (imm.setWidth 64).toNat = imm.toNat := BitVec.toNat_setWidth_of_le (by decide)

end Sys2Proof.Machine

section
open Sys2Proof
open Sys2Proof.Machine

/-- Settles O4. -/
theorem vectorInstructionsComplete : Obligations.VectorInstructionsComplete := by
  unfold Obligations.VectorInstructionsComplete
  refine ⟨fun s => ⟨fun o vs hs => ?two, fun o vs hs => ?three, fun o vs hs => ?one, fun o vs hs => ?shift, fun o vs hs => ?shiftImm⟩,
    fun s o vs => ⟨fun hs => ?vsel, fun hs => ⟨?vcvt, ?vscl⟩, fun hs => ?vdot, fun hs => ⟨?vbcast, ?vins⟩, fun q hs => ?vbcastImm⟩,
    fun s o vs => ⟨fun hs r hr => ?vcmp, fun hs => ?vext, ?kand, ?kor, ?kxor, ?knot, ?kpop, ?kfirst, ?kset, ?kmov⟩,
    fun s o vs => ⟨fun hs => ?special, fun hs => ?cross, fun hs => ?vshuf⟩⟩
  case two =>
    exact ⟨lanes2_runs (elAdd o.md.ty) rfl hs, lanes2_runs (elSub o.md.ty) rfl hs, lanes2_runs (elMul o.md.ty) rfl hs,
      lanes2_runs (fun e a b => (elMin o.md.ty e a b, 0)) rfl hs, lanes2_runs (fun e a b => (elMax o.md.ty e a b, 0)) rfl hs,
      lanes2_runs (fun _ a b => (a &&& b, 0)) rfl hs, lanes2_runs (fun _ a b => (a ||| b, 0)) rfl hs,
      lanes2_runs (fun _ a b => (a ^^^ b, 0)) rfl hs⟩
  case three =>
    exact ⟨lanes3_runs (elFma o.md.ty) rfl hs, lanes3_runs (elFms o.md.ty) rfl hs,
      lanes3_runs (fun e a b c => (elClamp o.md.ty e a b c, 0)) rfl hs⟩
  case one =>
    exact ⟨lanes1_runs (fun e a => (elAbs o.md.ty e a, 0)) rfl hs, lanes1_runs (fun e a => (elNeg o.md.ty e a, 0)) rfl hs,
      lanes1_runs (fun _ a => (a, 0)) rfl hs⟩
  case shift =>
    exact ⟨lanes2_runs (fun _ a b => (shlPat (laneBits o.md.ty) a b, 0)) rfl hs,
      lanes2_runs (fun _ a b => (elShr o.md.ty (laneBits o.md.ty) a b, 0)) rfl hs⟩
  case shiftImm => exact ⟨shiftImm_runs shlPat rfl hs, shiftImm_runs (elShr o.md.ty) rfl hs⟩
  case vsel => exact vecRuns_finish hs (rfl : _ = finish _ (vselB o) s) rfl
  case vcvt => exact vecRuns_finish hs (rfl : _ = finish _ (vcvtB o) s) rfl
  case vscl => exact vecRuns_finish hs (rfl : _ = finish _ (vsclB o) s) rfl
  case vdot => exact vecRuns_finish hs (rfl : _ = finish _ (vdotB o) s) rfl
  case vbcast => exact vecRuns_finish hs (rfl : _ = finish _ (vbcastB (.r o)) s) rfl
  case vins => exact vecRuns_finish hs (rfl : _ = finish _ (vinsB o) s) (vins_res o s)
  case vbcastImm =>
    rw [← imm_toNat]
    exact vecRuns_finish hs (rfl : _ = finish _ (vbcastB (.i q)) s) rfl
  case vcmp =>
    subst hr
    exact ⟨fun hm => finish_ok (vecRead_masked hs hm), fun hm => finish_trap (vecRead_enabled hs hm)⟩
  case vext => exact finish_ok (vecRead_masked hs (masked_zero s))
  case kmov => rw [ite_sub_four]; exact finish_ok rfl
  case kand | kor | kxor | knot | kpop | kfirst => exact finish_ok rfl
  case kset => exact fun q => finish_ok rfl
  case special =>
    exact ⟨fnLanesRm_runs fnRcp rfl hs, fnLanesRm_runs fnRsq rfl hs, fnLanesRm_runs Machine.Num.sqrt rfl hs,
      fnLanes_runs fnExp2 rfl hs, fnLanes_runs fnLog2 rfl hs, fnLanes_runs fnSin rfl hs, fnLanes_runs fnCos rfl hs,
      fnLanes_runs fnTanh rfl hs, fnLanes_runs fnSigm rfl hs, vredsum_runs hs, extreme_runs true rfl hs,
      extreme_runs false rfl hs, vscan_runs hs, vunpack_runs hs⟩
  case cross =>
    exact ⟨vexpd_runs hs, vperm_runs hs, vpack_runs hs⟩
  case vshuf => exact vshuf_runs hs

end
end

section
/-!
Streams (R103-R109): what the checks of a port answer, and where each stream instruction and each act of the engine ends.
-/

namespace Sys2Proof.Machine

/-! ### Checks of a port -/

theorem needBound_ok {s : State} {i : Fin 4} (h : (s.sl.port i).bound = true) : needBound s i = .ok () := by
  rw [needBound, h, guardR_true]
theorem needBound_error {s : State} {i : Fin 4} (h : (s.sl.port i).bound = false) :
    needBound s i = .error (.trap ⟨cSTRM, 2, (s.sl.port i).row (s.sl.port i).next⟩, s) := by
  rw [needBound, h, guardR_false]
theorem rowsDone_ok {s : State} {i : Fin 4} (h : (s.sl.port i).write = false ∨ s.rowsOpen i = 0) : rowsDone s i = .ok () := by
  rcases h with h | h <;> simp [rowsDone, h]
theorem portSound_untagged {s : State} {i : Fin 4} (h : (s.sl.port i).cap.tag = false) :
    portSound s i = .error (.trap ⟨cCAPT, 0, (s.sl.port i).row (s.sl.port i).next⟩, s) := by
  simp only [portSound, h, Bool.not_false, if_true, raise]
theorem sbindCheck_ok {s : State} {c : Cap} {w : Bool} (h : capCheckKind s.world c (if w then pW else pR) = none) :
    sbindCheck s c w = .ok () := by
  simp only [sbindCheck, h]
theorem streamCheck_ok {s : State} {p : Port} (hl : p.limitsOk = true) (ha : p.aligned = true) (hf : p.firstOut = none) :
    streamCheck s p = .ok () := by
  simp only [streamCheck, hl, ha, hf, guardR_true, bind_ok]

/-! ### The row that vmov takes from a port -/

/-- A port that cannot be read stops vmov with the port's own trap. -/
theorem vmov_stops {s : State} {o : ROp} {i : Fin 4} {f : Fail} (hp : portOf s.sl o.oa = some i)
    (h : portUsable s i false = .error (.trap f, s)) : exec (.vmov o) s = .next (s.takeTrap f) := by
  refine finish_trap (b := vmovB o) ?_
  simp only [vmovB, lanes1, vecBody, List.mapM_cons, readV, hp, h, bind_error]

end Sys2Proof.Machine

section
open Sys2Proof
open Sys2Proof.Machine

/-- Settles O5. -/
theorem streamsComplete : Obligations.StreamsComplete := by
  unfold Obligations.StreamsComplete
  refine ⟨fun s o => ⟨fun hb hc he => ?sbind, fun q hb hs hp => ?sdim, fun i hi hb hp => ⟨fun hs hl ha hf => ?sstart, fun hr => ?sstop⟩,
    fun i hi hb hp hr => ?swait⟩,
    fun s sl i p hp hb => ⟨fun bs t ha hs hw hl hn hld => ?fetch, fun v wr rest t u k ha hw hr hk hn hst => ?perform⟩,
    fun s o i p a hp ha => ⟨fun hi hb => ?sbind1, fun hi hb => ?unbound, fun hi hb => ?swait2, fun hi hb hs => ?sstart2,
      fun hi hb hs hps => ⟨fun hl => ?sstart3, fun hl hal => ?sstart4, fun b hl hal hf => ?sstartB⟩,
      fun hi => ⟨fun hs => ?vmov7, fun hs ht => ?vmovT, fun hs hps => ⟨fun hw => ?vmov5, fun hw hn => ?vmov6⟩⟩⟩⟩
  case sbind =>
    show execSbind o s = _
    refine finish_ok ?_
    have hc' : sbindCheck s (s.rc o.oa) (o.md.sub == 1) = .ok () := sbindCheck_ok (by simpa only [beq_iff_eq] using hc)
    simp only [hb, Bool.not_false, guardR_true, bind_ok, hc', if_neg (Nat.not_le.2 he), beq_iff_eq]
  case sdim =>
    show execSdim q s = _
    refine finish_ok ?_
    simp only [needBound_ok hb, hs, Bool.not_false, guardR_true, hp, bind_ok]
  case sstart =>
    subst hi
    show execSstart o s = _
    refine finish_ok ?_
    simp only [needBound_ok hb, hs, Bool.not_false, guardR_true, hp, bind_ok, streamCheck_ok hl ha hf]
    rfl
  case sstop =>
    subst hi
    show execSstop o s = _
    refine finish_ok ?_
    simp only [needBound_ok hb, hp, bind_ok, rowsDone_ok hr]
  case swait =>
    subst hi
    show execSwait o s = _
    refine finish_ok ?_
    simp only [needBound_ok hb, hp, bind_ok, rowsDone_ok hr]
  case fetch =>
    subst hp
    refine ⟨_, rfl, ?_⟩
    show execStreamRowFetch s = _
    simp only [execStreamRowFetch, ha, fetchRow, hb, hs, hw, hl, hn, hld, Bool.not_false, decide_true, Bool.and_self, if_true]
  case perform =>
    subst hp hk
    show execStreamRowPerform s = _
    rw [hr] at hn hst
    have hfib : (s.onSlot sl).sl.fib = (s.slot sl).fib := rfl
    simp only [execStreamRowPerform, ha, performRow, hr, hb, hw, Bool.and_self, if_true, hfib, hn, bind_ok, hst, allOrNone]
  case sbind1 =>
    subst hi hp ha
    show execSbind o s = _
    refine finish_trap ?_
    simp only [hb, Bool.not_true, guardR_false, bind_error]
  case unbound =>
    subst hi hp ha
    constructor
    · show execSstart o s = _
      refine finish_trap ?_
      simp only [needBound_error hb, bind_error]
    · show execSstop o s = _
      refine finish_trap ?_
      simp only [needBound_error hb, bind_error]
  case swait2 =>
    subst hi hp ha
    show execSwait o s = _
    refine finish_trap ?_
    simp only [needBound_error hb, bind_error]
  case sstart2 =>
    subst hi hp ha
    show execSstart o s = _
    refine finish_trap ?_
    simp only [needBound_ok hb, bind_ok, hs, Bool.not_true, guardR_false, bind_error]
  case sstart3 | sstart4 | sstartB =>
    subst hi hp ha
    show execSstart o s = _
    refine finish_trap ?_
    simp only [needBound_ok hb, bind_ok, Bool.not_false, guardR_true, guardR_false, streamCheck, bind_error, raise, *]
  case vmov7 =>
    subst hp ha
    exact vmov_stops hi (by simp only [portUsable, hs, guardR_false, bind_error])
  case vmovT =>
    subst hp ha
    exact vmov_stops hi (by simp only [portUsable, hs, guardR_true, bind_ok, portSound_untagged ht, bind_error])
  case vmov5 =>
    subst hp ha
    exact vmov_stops hi (by simp [portUsable, hs, hps, hw, bind_ok, bind_error])
  case vmov6 =>
    subst hp ha
    exact vmov_stops hi (by simp [portUsable, hs, hps, hw, bind_ok, Nat.not_lt.2 hn])

end
end

section
/-!
Read ports and vector sources (R91, R93, R103): what popping leaves in each port, and lanes as the bits of a line.
-/

namespace Sys2Proof.Machine

/-! ### Ports -/

theorem port_modPort (sl : Slot) (i j : Fin 4) (f : Port → Port) :
    (sl.modPort i f).port j = if i = j then f (sl.port i) else sl.port j := by
  simp only [Slot.port, Slot.modPort, Fin.getElem_fin, Vector.getElem_set]
  split_ifs with h1 h2 h2
  · rfl
  · exact absurd (Fin.ext h1) h2
  · exact absurd (congrArg Fin.val h2) h1
  · rfl

/-- Which port a register names hangs on which ports are bound, and on nothing else. -/
theorem portOf_congr {a b : Slot} (h : ∀ i, (a.port i).bound = (b.port i).bound) (r : BitVec 6) : portOf a r = portOf b r := by
  unfold portOf
  split
  · next hr =>
    have := h ⟨r.toNat - 60, by have := r.isLt; omega⟩
    simp only [Slot.port] at this
    simp only [this]
  · rfl

theorem modCur_modPort_port (s : State) (i j : Fin 4) (f : Port → Port) :
    (s.modCur fun sl => sl.modPort i f).sl.port j = if i = j then f (s.sl.port i) else s.sl.port j := by
  rw [modCur_sl, port_modPort]

/-- A port that gives its next row has moved on by one (R103, R107). -/
def Port.popped (p : Port) : Port := { p with next := p.next + 1, rows := p.rows.tail }

/-- Popping moves each read port that a source names, once; it moves no other (R93, R103). -/
theorem popPorts_port (srcs : List (BitVec 6)) (i : Fin 4) : ∀ (s : State) (done : List (Fin 4)),
    (popPorts s srcs done).sl.port i =
      if i ∉ done ∧ (∃ r ∈ srcs, portOf s.sl r = some i) ∧ (s.sl.port i).write = false then (s.sl.port i).popped
      else s.sl.port i := by
  induction srcs with
  | nil => intro s done; simp [popPorts]
  | cons r rs ih =>
    intro s done
    rw [popPorts]
    cases hr : portOf s.sl r with
    | none => simp only [ih, List.mem_cons, exists_eq_or_imp, hr, reduceCtorEq, false_or]
    | some j =>
      dsimp only
      by_cases hc : (done.contains j || (s.sl.port j).write) = true
      · rw [if_pos hc, ih]
        simp only [Bool.or_eq_true, List.contains_iff_mem] at hc
        by_cases e : j = i
        · subst e
          rcases hc with h | h <;> simp [h]
        · simp [hr, e]
      · rw [if_neg hc]
        simp only [Bool.or_eq_true, List.contains_iff_mem, not_or, Bool.not_eq_true] at hc
        rw [show (s.modCur fun sl => sl.modPort j fun p => { p with next := p.next + 1, rows := p.rows.tail }) =
          s.modCur fun sl => sl.modPort j Port.popped from rfl]
        set t := (s.modCur fun sl => sl.modPort j Port.popped).post (.streamRowFetch (s.modCur fun sl =>
          sl.modPort j Port.popped).cur j)
        have hp : ∀ k, t.sl.port k = if j = k then (s.sl.port j).popped else s.sl.port k := fun k =>
          modCur_modPort_port s j k _
        have hq : ∀ q, portOf t.sl q = portOf s.sl q := portOf_congr fun k => by
          rw [hp]; split_ifs with e
          · rw [← e]; rfl
          · rfl
        have := ih t (j :: done)
        simp only [hq, hp, List.mem_cons, not_or] at this
        rw [this]
        by_cases e : j = i
        · subst e
          simp [hr, hc]
        · simp [hr, e, Ne.symm e]

/-! ### What sources give -/

theorem Gives.portUsable {s : State} {i : Fin 4} {v : Line} {rest : List Row}
    (h : Gives (s.sl.port i) v rest) : portUsable s i false = .ok () := by
  obtain ⟨hst, ⟨htag, hfail⟩, hw, hl, -⟩ := h
  simp [Machine.portUsable, portSound, hst, htag, hfail, hw, hl, bind_ok]
/-- A source that names a port reads the port's oldest row. -/
theorem readV_port {s : State} {r : BitVec 6} {i : Fin 4} {v : Line} {rest : List Row} (hr : portOf s.sl r = some i)
    (h : Gives (s.sl.port i) v rest) : readV s r = .ok v := by
  have hu := h.portUsable
  obtain ⟨wr, hrow⟩ := h.row
  simp only [readV, hr, hu, bind_ok, hrow]
theorem readV_reg {s : State} {r : BitVec 6} (hr : portOf s.sl r = none) : readV s r = .ok (s.sl.rv r) := by
  simp only [readV, hr]

/-- Sources can be read when each port that they name has a row. -/
theorem readV_gives {s : State} {srcs : List (BitVec 6)}
    (h : ∀ r ∈ srcs, ∀ i, portOf s.sl r = some i → ∃ v rest, Gives (s.sl.port i) v rest) :
    ∃ vs, srcs.mapM (readV s) = .ok vs := by
  induction srcs with
  | nil => exact ⟨[], rfl⟩
  | cons r rs ih =>
    obtain ⟨vs, hvs⟩ := ih fun q hq => h q (List.mem_cons_of_mem _ hq)
    have hv : ∃ v, readV s r = .ok v := by
      cases hr : portOf s.sl r with
      | none => exact ⟨_, readV_reg hr⟩
      | some i =>
        obtain ⟨v, rest, hg⟩ := h r List.mem_cons_self i hr
        exact ⟨v, readV_port hr hg⟩
    obtain ⟨v, hv⟩ := hv
    exact ⟨v :: vs, by rw [List.mapM_cons, hv, bind_ok, hvs, bind_ok]; rfl⟩

theorem destReady_reg {s : State} {d : BitVec 6} (h : portOf s.sl d = none) : destReady s d = .ok () := by
  simp only [destReady, h]
/-- With no flag enabled, none is trapped. -/
theorem masked_of_fte {s : State} (h : s.sl.fmode.extractLsb' 0 5 = 0) (fl : Flags) : masked s fl := by
  rw [masked, h]; exact BitVec.and_zero

/-! ### The ports behind a vector instruction -/

theorem flagged_sl (s : State) (fl : Flags) : (flagged s fl).sl = { s.sl with fstat := s.sl.fstat ||| fl.setWidth 64 } :=
  modCur_sl ..
/-- An instruction that posts no SIG ends with the ports as its effect has left them. -/
theorem ended_ports {h : Hdr} (hs : h.sigInc = 0) (t : State) : (ended h t).sl.ports = t.sl.ports := by
  rw [ended_zero h t hs, advance_eq, modCur_sl]
  show t.retired.sl.ports = _
  rw [retired_sl]; split <;> rfl
theorem ended_rv {h : Hdr} (hs : h.sigInc = 0) (t : State) (r : BitVec 6) : (ended h t).sl.rv r = t.sl.rv r := by
  rw [ended_zero h t hs, advance_eq, modCur_sl]
  show t.retired.sl.rv r = _
  rw [retired_sl]; split <;> rfl

/-- An instruction reads v registers: its sources are read, its flags raised, and its rows popped, before a destination that
touches no port is written. -/
structure ReadsRows (i : Instr) (h : Hdr) (d : BitVec 6) (srcs : List (BitVec 6)) : Prop where
  work : ∀ (s : State) (vs : List Line), srcs.mapM (readV s) = .ok vs → s.sl.fmode.extractLsb' 0 5 = 0 → portOf s.sl d = none →
    ∃ (fl : Flags) (w : State → State), exec i s = .next (ended h (w (popPorts (flagged s fl) srcs []))) ∧
      ((w (popPorts (flagged s fl) srcs [])).sl.ports = (popPorts (flagged s fl) srcs []).sl.ports)

theorem popPorts_flagged_portOf (s : State) (fl : Flags) (srcs : List (BitVec 6)) (d : BitVec 6) :
    portOf (popPorts (flagged s fl) srcs []).sl d = portOf s.sl d := by
  refine (portOf_congr (b := (flagged s fl).sl) (fun i => ?_) d).trans (by rw [flagged_sl]; rfl)
  rw [popPorts_port]; split_ifs <;> rfl

theorem readsRows_vecBody {i : Instr} {h : Hdr} {d : BitVec 6} {srcs : List (BitVec 6)} (f : Slot → List Line → VRes)
    (e : ∀ s, exec i s = finish h (vecBody d srcs f) s) : ReadsRows i h d srcs where
  work s vs hvs hm hd := by
    refine ⟨(f s.sl vs).flags, fun t => writeV t d (f s.sl vs), ?_, ?_⟩
    · rw [e]
      exact finish_ok (vecBody_masked ⟨hvs, destReady_reg hd⟩ (masked_of_fte hm _))
    · simp only [writeV, popPorts_flagged_portOf, hd, modCur_sl]; rfl
theorem readsRows_vecRead {i : Instr} {h : Hdr} {d : BitVec 6} {srcs : List (BitVec 6)}
    (f : Slot → List Line → Flags × (State → State)) (hf : ∀ sl vs t, ((f sl vs).2 t).sl.ports = t.sl.ports)
    (e : ∀ s, exec i s = finish h (vecRead srcs f) s) : ReadsRows i h d srcs where
  work s vs hvs hm _ := by
    refine ⟨(f s.sl vs).1, (f s.sl vs).2, ?_, hf _ _ _⟩
    rw [e]
    exact finish_ok (vecRead_masked hvs (masked_of_fte hm _))

theorem readsRows_body {i : Instr} {h : Hdr} {d : BitVec 6} {srcs : List (BitVec 6)} {b : State → R State}
    (hb : ∃ f, b = vecBody d srcs f) (e : ∀ s, exec i s = finish h b s) : ReadsRows i h d srcs := by
  obtain ⟨f, rfl⟩ := hb
  exact readsRows_vecBody f e
theorem readsRows_vext (o : ROp) : ReadsRows (.vext o) o.hdr o.od [o.oa] :=
  readsRows_vecRead _ (fun _ _ _ => by simp [State.wx]) fun s => show exec _ s = finish o.hdr (vextB o) s from rfl
theorem readsRows_vcmp (o : ROp) : ReadsRows (.vcmp o) o.hdr o.od [o.oa, o.ob] :=
  readsRows_vecRead _ (fun _ _ _ => by simp [State.wk]) fun s => show exec _ s = finish o.hdr (vcmpB o) s from rfl

/-! The shared shapes are bodies over `vecBody`. -/

theorem lanes1_body (o : ROp) (g : FpEnv → Nat → Nat × Flags) : ∃ f, lanes1 o g = vecBody o.od [o.oa] f := ⟨_, rfl⟩
theorem lanes2_body (o : ROp) (g : FpEnv → Nat → Nat → Nat × Flags) : ∃ f, lanes2 o g = vecBody o.od [o.oa, o.ob] f :=
  ⟨_, rfl⟩
theorem lanes3_body (o : ROp) (g : FpEnv → Nat → Nat → Nat → Nat × Flags) :
    ∃ f, lanes3 o g = vecBody o.od [o.oa, o.ob, o.oc] f := ⟨_, rfl⟩
theorem fnLanesRm_body (o : ROp) (g : Num → Num × Flags) : ∃ f, fnLanesRm o g = vecBody o.od [o.oa] f := lanes1_body o _
theorem fnLanes_body (o : ROp) (g : Num → Num × Flags) : ∃ f, fnLanes o g = vecBody o.od [o.oa] f := lanes1_body o _
theorem extreme_body (o : ROp) (m : Bool) : ∃ f, extremeB m o = vecBody o.od [o.oa] f := ⟨_, rfl⟩
theorem vshiftB_body (o : ROp) (g : Nat → Nat → Nat → Nat) : ∃ f, vshiftB g (.r o) = vecBody o.od [o.oa, o.ob] f := by
  simp only [vshiftB]
  exact lanes2_body o _

/-- Every vector instruction with v sources reads rows. -/
theorem vecSourced_readsRows (o : ROp) : ∀ p ∈ vecSourced o, ReadsRows p.1 o.hdr o.od p.2 := by
  simp only [vecSourced, List.map_cons, List.map_nil, List.cons_append, List.nil_append, List.forall_mem_cons,
    List.not_mem_nil, false_imp_iff, implies_true, and_true]
  exact ⟨readsRows_body (b := vabsB o) (lanes1_body o _) fun _ => rfl,
    readsRows_body (b := vnegB o) (lanes1_body o _) fun _ => rfl,
    readsRows_body (b := vmovB o) (lanes1_body o _) fun _ => rfl,
    readsRows_body (b := vcvtB o) (⟨_, rfl⟩) fun _ => rfl,
    readsRows_body (b := vsclB o) (⟨_, rfl⟩) fun _ => rfl,
    readsRows_vext o,
    readsRows_body (b := vrcpB o) (fnLanesRm_body o _) fun _ => rfl,
    readsRows_body (b := vrsqB o) (fnLanesRm_body o _) fun _ => rfl,
    readsRows_body (b := vsqrtB o) (fnLanesRm_body o _) fun _ => rfl,
    readsRows_body (b := vexp2B o) (fnLanes_body o _) fun _ => rfl,
    readsRows_body (b := vlog2B o) (fnLanes_body o _) fun _ => rfl,
    readsRows_body (b := vsinB o) (fnLanes_body o _) fun _ => rfl,
    readsRows_body (b := vcosB o) (fnLanes_body o _) fun _ => rfl,
    readsRows_body (b := vtanhB o) (fnLanes_body o _) fun _ => rfl,
    readsRows_body (b := vsigmB o) (fnLanes_body o _) fun _ => rfl,
    readsRows_body (b := vredsumB o) (⟨_, rfl⟩) fun _ => rfl,
    readsRows_body (b := vredmaxB o) (extreme_body o _) fun _ => rfl,
    readsRows_body (b := vredminB o) (extreme_body o _) fun _ => rfl,
    readsRows_body (b := vscanB o) (⟨_, rfl⟩) fun _ => rfl,
    readsRows_body (b := vunpackB o) (⟨_, rfl⟩) fun _ => rfl,
    readsRows_body (b := vaddB o) (lanes2_body o _) fun _ => rfl,
    readsRows_body (b := vsubB o) (lanes2_body o _) fun _ => rfl,
    readsRows_body (b := vmulB o) (lanes2_body o _) fun _ => rfl,
    readsRows_body (b := vminB o) (lanes2_body o _) fun _ => rfl,
    readsRows_body (b := vmaxB o) (lanes2_body o _) fun _ => rfl,
    readsRows_body (b := vandB o) (lanes2_body o _) fun _ => rfl,
    readsRows_body (b := vorB o) (lanes2_body o _) fun _ => rfl,
    readsRows_body (b := vxorB o) (lanes2_body o _) fun _ => rfl,
    readsRows_body (b := vshlB (.r o)) (vshiftB_body o _) fun _ => rfl,
    readsRows_body (b := vshrB (.r o)) (vshiftB_body o _) fun _ => rfl,
    readsRows_vcmp o,
    readsRows_body (b := vselB o) (⟨_, rfl⟩) fun _ => rfl,
    readsRows_body (b := vexpdB o) (lanes2_body o _) fun _ => rfl,
    readsRows_body (b := vpermB o) (⟨_, rfl⟩) fun _ => rfl,
    readsRows_body (b := vpackB o) (⟨_, rfl⟩) fun _ => rfl,
    readsRows_body (b := vfmaB o) (lanes3_body o _) fun _ => rfl,
    readsRows_body (b := vfmsB o) (lanes3_body o _) fun _ => rfl,
    readsRows_body (b := vclampB o) (lanes3_body o _) fun _ => rfl,
    readsRows_body (b := vdotB o) (⟨_, rfl⟩) fun _ => rfl,
    readsRows_body (b := vshufB o) (⟨_, rfl⟩) fun _ => rfl⟩

/-- The register that a vector instruction without SIG has written (R91). -/
theorem vecEnded_rv {h : Hdr} {s : State} {d : BitVec 6} (hs : h.sigInc = 0) (hd : portOf s.sl d = none)
    (srcs : List (BitVec 6)) (res : VRes) : ∃ old, (vecEnded h s d srcs res).sl.rv d = res.merge old := by
  refine ⟨(popPorts (flagged s res.flags) srcs []).sl.rv d, ?_⟩
  rw [vecEnded, ended_rv hs]
  simp only [writeV, popPorts_flagged_portOf, hd, modCur_sl]
  simp only [Slot.rv, Slot.wv, Slot.mended, Vector.getElem_set_self]

/-! ### Lanes as bits (R91) -/

theorem getLsbD_laneAt (b i c j : Nat) (hj : j < 1024) :
    (laneAt b i c).getLsbD j = (decide (b * i ≤ j ∧ j < b * i + b) && c.testBit (j - b * i)) := by
  simp only [laneAt, BitVec.getLsbD_ofNat, hj, decide_true, Bool.true_and, Nat.testBit_mul_two_pow, Nat.testBit_mod_two_pow]
  by_cases h : b * i ≤ j
  · by_cases h2 : j < b * i + b
    · simp [h, h2, show j - b * i < b by omega]
    · simp [h, h2, show ¬ j - b * i < b by omega]
  · simp [h]

/-- The bits of lanes that are all enabled: bit `j` is bit `j % b` of lane `j / b`. -/
theorem buildLanes_bits {b : Nat} (hb : 0 < b) (zm : Bool) (f : Nat → Nat × Flags) : ∀ n, n ≤ 128 → ∀ j < 1024,
    (buildLanes b (BitVec.allOnes 128) zm id f n).val.getLsbD j = (decide (j < b * n) && (f (j / b)).1.testBit (j % b)) ∧
    (buildLanes b (BitVec.allOnes 128) zm id f n).wr.getLsbD j = decide (j < b * n)
  | 0, _, j, hj => by simp [buildLanes, VRes.empty]
  | n + 1, hn, j, hj => by
    obtain ⟨h1, h2⟩ := buildLanes_bits hb zm f n (by omega) j hj
    have hm : (BitVec.allOnes 128).getLsbD n = true := by
      rw [BitVec.getLsbD_allOnes]; exact decide_eq_true (by omega)
    simp only [buildLanes, hm, if_true, VRes.put, id, BitVec.getLsbD_or, h1, h2, getLsbD_laneAt _ _ _ _ hj,
      Nat.testBit_two_pow_sub_one, Nat.mul_succ]
    by_cases hlo : j < b * n
    · simp [hlo, show j < b * n + b by omega, Nat.not_le.2 hlo]
    · by_cases hhi : j < b * n + b
      · have hd : j / b = n := by
          rw [Nat.div_eq_iff hb]; constructor
          · rw [Nat.mul_comm]; omega
          · rw [Nat.mul_comm]; omega
        have hr : j % b = j - b * n := by rw [Nat.mod_eq_sub_mul_div, hd]
        have hlt : j - b * n < b := by omega
        simp [hlo, hhi, hd, hr, hlt, Nat.le_of_not_lt hlo]
      · simp [hlo, hhi]

/-- Lanes that are all enabled and whose bits are those of a line write that line. -/
theorem vMap_merge {b : Nat} (hb : 0 < b) (hn : b * laneCount b = 1024) (hl : laneCount b ≤ 128) (zm : Bool)
    {f : Nat → Nat × Flags} {v : Line} (hf : ∀ j < 1024, (f (j / b)).1.testBit (j % b) = v.getLsbD j) (old : Line) :
    (vMap b (BitVec.allOnes 128) zm f).merge old = v := by
  refine BitVec.eq_of_getLsbD_eq fun j hj => ?_
  obtain ⟨h1, h2⟩ := buildLanes_bits hb zm f (laneCount b) hl j hj
  simp only [vMap, VRes.merge, BitVec.getLsbD_or, BitVec.getLsbD_and, BitVec.getLsbD_not, h1, h2, hn, hj, hf j hj]
  simp

/-- Lanes that raise no flag raise none together. -/
theorem vMap_flags {b : Nat} {mask : Gran} {zm : Bool} {f : Nat → Nat × Flags} (hf : ∀ i, (f i).2 = 0) :
    (vMap b mask zm f).flags = 0 := by
  unfold vMap
  induction laneCount b with
  | zero => rfl
  | succ n ih =>
    simp only [buildLanes]
    split_ifs
    · simp only [VRes.put, ih, hf]; rfl
    · simp only [VRes.put, ih]; rfl
    · exact ih

theorem testBit_lane {b : Nat} (hb : 0 < b) (v : Line) (j : Nat) : (lane b v (j / b)).testBit (j % b) = v.getLsbD j := by
  rw [lane, Nat.testBit_mod_two_pow, Nat.testBit_div_two_pow, Nat.add_comm, Nat.div_add_mod]
  simp [Nat.mod_lt j hb, BitVec.getLsbD]

/-- The lanes of an integer type fill a line. -/
theorem laneBits_of_tyI {t : BitVec 4} (h : tyI t = true) :
    0 < laneBits t ∧ laneBits t * laneCount (laneBits t) = 1024 ∧ laneCount (laneBits t) ≤ 128 := by
  revert h; revert t; decide

end Sys2Proof.Machine

section
open Sys2Proof
open Sys2Proof.Machine

/-- Settles O6: popping moves each port that is named once (`popPorts_port`), and lanes that copy a row write it whole
(`vMap_merge`). -/
theorem readPortGivesRowsInOrder : Obligations.ReadPortGivesRowsInOrder := by
  unfold Obligations.ReadPortGivesRowsInOrder
  constructor
  · intro s h d p hp hm hs hd hg
    have hr : ReadsRows p.1 h d p.2 := by
      rcases hp with ⟨o, hp, rfl, rfl⟩ | ⟨q, hp, rfl, rfl⟩
      · exact vecSourced_readsRows o p hp
      · simp only [List.mem_cons, List.not_mem_nil, or_false] at hp
        rcases hp with rfl | rfl <;> exact readsRows_vecBody _ fun s => (by rw [← vshiftB_imm]; rfl)
    obtain ⟨vs, hvs⟩ := readV_gives hg
    obtain ⟨fl, w, he, hw⟩ := hr.work s vs hvs hm hd
    have hport : ∀ i, (ended h (w (popPorts (flagged s fl) p.2 []))).sl.port i =
        if (∃ r ∈ p.2, portOf s.sl r = some i) ∧ (s.sl.port i).write = false then (s.sl.port i).popped
        else s.sl.port i := fun i => by
      have h1 : (ended h (w (popPorts (flagged s fl) p.2 []))).sl.port i = (popPorts (flagged s fl) p.2 []).sl.port i := by
        rw [Slot.port, ended_ports hs, hw]; rfl
      rw [h1, popPorts_port]
      simp only [flagged_sl, List.not_mem_nil, not_false_eq_true, true_and]; rfl
    refine ⟨_, he, fun i hi => ?_, fun i hi => ?_⟩
    · obtain ⟨r, hr, hri⟩ := hi
      obtain ⟨v, rest, hgi⟩ := hg r hr i hri
      rw [hport, if_pos ⟨⟨r, hr, hri⟩, hgi.reads⟩]
      exact ⟨rfl, rfl⟩
    · rw [hport, if_neg]
      rintro ⟨⟨r, hr, hri⟩, -⟩
      exact hi r hr hri
  · intro s o i j v w rv rw' ht hs ha hd hgv hkm
    obtain ⟨hb, hn, hl⟩ := laneBits_of_tyI ht
    have h0 : masked s (laneMap s o.md fun j => ((laneIn o.md [v] 0 j), 0)).flags := by
      rw [laneMap, vMap_flags fun _ => rfl]; exact masked_zero s
    constructor
    · have hv : vecSources s o.od [o.oa] [v] := ⟨by rw [List.mapM_cons, readV_port ha hgv, bind_ok]; rfl, destReady_reg hd⟩
      refine ⟨_, (lanes1_runs (fun _ a => (a, 0)) rfl hv).1 h0, ?_⟩
      obtain ⟨old, ho⟩ := vecEnded_rv hs hd [o.oa] (laneMap s o.md fun j => (laneIn o.md [v] 0 j, 0))
      rw [ho, laneMap, hkm]
      exact vMap_merge hb hn hl _ (fun k hk => testBit_lane hb v k) old
    · intro hob hgw
      have hv : vecSources s o.od [o.oa, o.ob] [v, w] :=
        ⟨by rw [List.mapM_cons, readV_port ha hgv, bind_ok, List.mapM_cons, readV_port hob hgw, bind_ok]; rfl, destReady_reg hd⟩
      refine ⟨_, (lanes2_runs (fun _ a b => (a ||| b, 0)) rfl hv).1 ?_, ?_⟩
      · rw [laneMap, vMap_flags fun _ => rfl]; exact masked_zero s
      · obtain ⟨old, ho⟩ := vecEnded_rv hs hd [o.oa, o.ob]
          (laneMap s o.md fun j => (laneIn o.md [v, w] 0 j ||| laneIn o.md [v, w] 1 j, 0))
        rw [ho, laneMap, hkm]
        refine vMap_merge hb hn hl _ (fun k hk => ?_) old
        rw [Nat.testBit_or, BitVec.getLsbD_or]
        exact congrArg₂ _ (testBit_lane hb v k) (testBit_lane hb w k)

end
end

section
/-!
The best of a cell's candidates (R163): the order that a rule compares by is a strict total one, so the best is one of the
candidates and none is better; and its index is that of the first when none beats it.
-/

namespace Sys2Proof.Machine

namespace WRule

variable (r : WRule)

/-! ### The order -/

theorem better_irrefl (a : Int) : r.better a a = false := by simp [better]
/-- What is not better than `b` is not better than what beats `b`. -/
theorem not_better_trans {a b c : Int} (h : r.better a b = false) (k : r.better c b = true) : r.better a c = false := by
  unfold better at *
  split_ifs at * <;> simp only [decide_eq_false_iff_not, decide_eq_true_eq] at * <;> omega
theorem not_better_of_better {a b : Int} (h : r.better a b = true) : r.better b a = false :=
  r.not_better_trans (r.better_irrefl b) h

/-! ### The better of two -/

/-- A plane of an affine gap: the second candidate where it is better (R163). -/
def pick (a b : Int) : Int := if r.better b a then b else a

theorem pick_spec (a b : Int) : r.pick a b ∈ [a, b] ∧ r.better a (r.pick a b) = false ∧ r.better b (r.pick a b) = false := by
  unfold pick
  split_ifs with h
  · exact ⟨by simp, r.not_better_of_better h, r.better_irrefl b⟩
  · exact ⟨by simp, r.better_irrefl a, Bool.eq_false_iff.mpr h⟩

/-! ### The best of many -/

theorem best_mem (cs : List Int) : ∀ (v : Int) (n i : Nat), (r.best v n i cs).1 ∈ v :: cs := by
  induction cs with
  | nil => intro v n i; simp [best]
  | cons c cs ih =>
    intro v n i
    rw [best]
    split_ifs
    · exact List.mem_cons_of_mem _ (ih c i (i + 1))
    · rcases List.mem_cons.1 (ih v n (i + 1)) with h | h
      · exact List.mem_cons.2 (.inl h)
      · exact List.mem_cons_of_mem _ (List.mem_cons_of_mem _ h)

/-- Nothing that does not beat a candidate beats the best. -/
theorem not_better_best {u : Int} (cs : List Int) : ∀ (v : Int) (n i : Nat), r.better u v = false →
    r.better u (r.best v n i cs).1 = false := by
  induction cs with
  | nil => intro v n i h; exact h
  | cons c cs ih =>
    intro v n i h
    rw [best]
    split_ifs with hc
    · exact ih c i (i + 1) (r.not_better_trans h hc)
    · exact ih v n (i + 1) h
theorem best_le (cs : List Int) : ∀ (v : Int) (n i : Nat), ∀ u ∈ v :: cs, r.better u (r.best v n i cs).1 = false := by
  induction cs with
  | nil => intro v n i u hu; rw [List.mem_singleton.1 hu]; exact r.better_irrefl v
  | cons c cs ih =>
    intro v n i u hu
    rw [best]
    split_ifs with hc
    · rcases List.mem_cons.1 hu with rfl | hu
      · exact r.not_better_best cs c _ _ (r.not_better_of_better hc)
      · exact ih c i (i + 1) u hu
    · rcases List.mem_cons.1 hu with rfl | hu
      · exact r.not_better_best cs _ _ _ (r.better_irrefl _)
      · rcases List.mem_cons.1 hu with rfl | hu
        · exact r.not_better_best cs v _ _ (Bool.eq_false_iff.mpr hc)
        · exact ih v n (i + 1) u (List.mem_cons_of_mem _ hu)

/-- The index of the best is that of the first when no other beats it, and else the place of another. -/
theorem best_index (cs : List Int) : ∀ (v : Int) (n i : Nat),
    ((∀ c ∈ cs, r.better c v = false) → (r.best v n i cs).2 = n) ∧
    ((¬ ∀ c ∈ cs, r.better c v = false) → i ≤ (r.best v n i cs).2 ∧ (r.best v n i cs).2 < i + cs.length) := by
  induction cs with
  | nil => intro v n i; exact ⟨fun _ => rfl, fun h => absurd (by simp) h⟩
  | cons c cs ih =>
    intro v n i
    rw [best]
    simp only [List.forall_mem_cons, List.length_cons]
    split_ifs with hc
    · refine ⟨fun h => absurd (h.1.symm.trans hc) (by decide), fun _ => ?_⟩
      obtain ⟨h1, h2⟩ := ih c i (i + 1)
      by_cases h : ∀ d ∈ cs, r.better d c = false
      · rw [h1 h]; omega
      · obtain ⟨h3, h4⟩ := h2 h; omega
    · obtain ⟨h1, h2⟩ := ih v n (i + 1)
      refine ⟨fun h => h1 h.2, fun h => ?_⟩
      obtain ⟨h3, h4⟩ := h2 fun h' => h ⟨Bool.eq_false_iff.mpr hc, h'⟩
      omega
/-- The first candidate has index 0, the others their places. -/
theorem best_index_zero (v : Int) (cs : List Int) : (r.best v 0 1 cs).2 = 0 ↔ ∀ c ∈ cs, r.better c v = false := by
  obtain ⟨h1, h2⟩ := r.best_index cs v 0 1
  refine ⟨fun h => ?_, h1⟩
  by_contra hn
  have := (h2 hn).1
  omega
theorem best_index_le (v : Int) (cs : List Int) : (r.best v 0 1 cs).2 ≤ cs.length := by
  obtain ⟨h1, h2⟩ := r.best_index cs v 0 1
  by_cases h : ∀ c ∈ cs, r.better c v = false
  · rw [h1 h]; omega
  · have := (h2 h).2; omega

/-! ### Candidates with and without the zero of mode 1 -/

/-- The candidates behind the diagonal. -/
def rest (a b : Int) : List Int := [a, b] ++ if r.mode = 1 then [0] else []

theorem forall_rest {P : Int → Prop} {a b : Int} : (∀ c ∈ r.rest a b, P c) ↔ P a ∧ P b ∧ (r.mode = 1 → P 0) := by
  unfold rest
  split_ifs with h <;> simp [h]
theorem length_rest_le (a b : Int) : (r.rest a b).length ≤ 3 := by
  unfold rest; split_ifs <;> simp

theorem cell_linear {r : WRule} (ha : r.aff = false) (s hd hu fu hl el : Int) : r.cell true s hd hu fu hl el =
    ⟨(r.best (r.plus hd s) 0 1 (r.rest (r.plus hu r.gext) (r.plus hl r.gext))).1, r.worst, r.worst,
      (r.best (r.plus hd s) 0 1 (r.rest (r.plus hu r.gext) (r.plus hl r.gext))).2⟩ := by
  simp only [cell, ha, rest]; rfl
theorem cell_affine {r : WRule} (ha : r.aff = true) (s hd hu fu hl el : Int) : r.cell true s hd hu fu hl el =
    let e := r.pick (r.plus hl (r.gopen + r.gext)) (r.plus el r.gext)
    let f := r.pick (r.plus hu (r.gopen + r.gext)) (r.plus fu r.gext)
    let b := r.best (r.plus hd s) 0 1 (r.rest f e)
    ⟨b.1, e, f, b.2 + (if r.better (r.plus el r.gext) (r.plus hl (r.gopen + r.gext)) then 4 else 0) +
      (if r.better (r.plus fu r.gext) (r.plus hu (r.gopen + r.gext)) then 8 else 0)⟩ := by
  simp only [cell, ha, rest, pick]; rfl

end WRule

/-- A code of two bits with a bit for each gap plane above it. -/
theorem testBit_code {n : Nat} (hn : n ≤ 3) (a b : Bool) :
    ((n + (if a then 4 else 0) + (if b then 8 else 0)).testBit 2 = true ↔ a = true) ∧
    ((n + (if a then 4 else 0) + (if b then 8 else 0)).testBit 3 = true ↔ b = true) ∧
    (n + (if a then 4 else 0) + (if b then 8 else 0)) % 4 = n := by
  interval_cases n <;> cases a <;> cases b <;> decide

end Sys2Proof.Machine

section
open Sys2Proof
open Sys2Proof.Machine

/-- Settles O12: the order of R163 is strict and total. -/
theorem wavefrontCellIsBest : Obligations.WavefrontCellIsBest := by
  unfold Obligations.WavefrontCellIsBest
  constructor
  · intro r s hd hu fu hl el c ha hc
    rw [WRule.cell_linear ha] at hc
    subst hc
    exact ⟨r.best_le _ _ _ _, r.best_mem _ _ _ _, (r.best_index_zero _ _).trans r.forall_rest, rfl⟩
  · intro r s hd hu fu hl el e1 e2 f1 f2 c ha hc he1 he2 hf1 hf2
    rw [WRule.cell_affine ha, ← he1, ← he2, ← hf1, ← hf2] at hc
    subst hc
    obtain ⟨hb2, hb3, hlow⟩ := testBit_code ((r.best_index_le (r.plus hd s) _).trans
      (r.length_rest_le (r.pick f1 f2) (r.pick e1 e2))) (r.better e2 e1) (r.better f2 f1)
    obtain ⟨he, hle1, hle2⟩ := r.pick_spec e1 e2
    obtain ⟨hf, hlf1, hlf2⟩ := r.pick_spec f1 f2
    refine ⟨⟨he, hle1, hle2, hb2⟩, ⟨hf, hlf1, hlf2, hb3⟩, r.best_le _ _ _ _, r.best_mem _ _ _ _, ?_, rfl⟩
    rw [hlow]
    exact (r.best_index_zero _ _).trans r.forall_rest

end
end

section
/-!
Derivations of capabilities (R322-R327, R333): which fields each keeps, and that the base is the only number of its residue
in the window that ends at the cursor.
-/

namespace Sys2Proof.Machine

/-! ### Fields of derived capabilities (R322) -/

/-- A field of a field. -/
theorem extractLsb'_extractLsb' {w n m i j : Nat} (x : BitVec w) (h : j + m ≤ n) :
    (x.extractLsb' i n).extractLsb' j m = x.extractLsb' (i + j) m := by
  refine BitVec.eq_of_getLsbD_eq fun k hk => ?_
  simp only [BitVec.getLsbD_extractLsb', hk, show j + k < n by omega, decide_true, Bool.true_and, Nat.add_assoc]

section
variable (c : Cap) (a : Word) (e b t : Nat) (p : BitVec 12)

@[simp] theorem capPerm_capWithCursor : capPerm (capWithCursor c a) = capPerm c := by
  simp (disch := decide) only [capPerm, capWithCursor, BitVec.extractLsb'_append_eq_of_le, extractLsb'_extractLsb']
@[simp] theorem capWorld_capWithCursor : capWorld (capWithCursor c a) = capWorld c := by
  simp (disch := decide) only [capWorld, capWithCursor, BitVec.extractLsb'_append_eq_of_le, extractLsb'_extractLsb']
@[simp] theorem capOtype_capWithCursor : capOtype (capWithCursor c a) = capOtype c := by
  simp (disch := decide) only [capOtype, capWithCursor, BitVec.extractLsb'_append_eq_of_le, extractLsb'_extractLsb']
@[simp] theorem capExp_capWithCursor : capExp (capWithCursor c a) = capExp c := by
  simp (disch := decide) only [capExp, capWithCursor, BitVec.extractLsb'_append_eq_of_le, extractLsb'_extractLsb']
@[simp] theorem capBasem_capWithCursor : capBasem (capWithCursor c a) = capBasem c := by
  simp (disch := decide) only [capBasem, capWithCursor, BitVec.extractLsb'_append_eq_of_le, extractLsb'_extractLsb']
@[simp] theorem capLenm_capWithCursor : capLenm (capWithCursor c a) = capLenm c := by
  simp (disch := decide) only [capLenm, capWithCursor, BitVec.extractLsb'_append_eq_of_le, extractLsb'_extractLsb']

@[simp] theorem capPerm_capWithBounds : capPerm (capWithBounds c e b t) = capPerm c := by
  simp (disch := decide) only [capPerm, capWithBounds, BitVec.extractLsb'_append_eq_of_le, extractLsb'_extractLsb']
@[simp] theorem capWorld_capWithBounds : capWorld (capWithBounds c e b t) = capWorld c := by
  simp (disch := decide) only [capWorld, capWithBounds, BitVec.extractLsb'_append_eq_of_le, extractLsb'_extractLsb']
@[simp] theorem capOtype_capWithBounds : capOtype (capWithBounds c e b t) = capOtype c := by
  simp (disch := decide) only [capOtype, capWithBounds, BitVec.extractLsb'_append_eq_of_le, extractLsb'_extractLsb']
@[simp] theorem capExp_capWithBounds : capExp (capWithBounds c e b t) = e % 2 ^ 6 := by
  simp (disch := decide) only [capExp, capWithBounds, BitVec.extractLsb'_append_eq_of_le,
    BitVec.extractLsb'_append_eq_of_add_le, Nat.reduceSub, BitVec.extractLsb'_eq_self, BitVec.toNat_ofNat]
@[simp] theorem capBasem_capWithBounds : capBasem (capWithBounds c e b t) = b / 2 ^ e % 2 ^ 19 := by
  simp (disch := decide) only [capBasem, capWithBounds, BitVec.extractLsb'_append_eq_of_le,
    BitVec.extractLsb'_append_eq_of_add_le, Nat.reduceSub, BitVec.extractLsb'_eq_self, BitVec.toNat_ofNat]
@[simp] theorem capLenm_capWithBounds : capLenm (capWithBounds c e b t) = (t - b) / 2 ^ e % 2 ^ 18 := by
  simp (disch := decide) only [capLenm, capWithBounds, BitVec.extractLsb'_append_eq_of_le,
    BitVec.extractLsb'_append_eq_of_add_le, Nat.reduceSub, BitVec.extractLsb'_eq_self, BitVec.toNat_ofNat]
@[simp] theorem capCursor_capWithBounds : capCursor (capWithBounds c e b t) = capCursor c := by
  simp (disch := decide) only [capCursor, capWithBounds, BitVec.extractLsb'_append_eq_of_add_le,
    BitVec.extractLsb'_eq_self]

@[simp] theorem capPerm_capWithPerm : capPerm (capWithPerm c p) = p := by
  simp (disch := decide) only [capPerm, capWithPerm, BitVec.extractLsb'_append_eq_of_le, Nat.sub_self, BitVec.extractLsb'_eq_self]
@[simp] theorem capWorld_capWithPerm : capWorld (capWithPerm c p) = capWorld c := by
  simp (disch := decide) only [capWorld, capWithPerm, BitVec.extractLsb'_append_eq_of_add_le, extractLsb'_extractLsb',
    Nat.zero_add]
@[simp] theorem capOtype_capWithPerm : capOtype (capWithPerm c p) = capOtype c := by
  simp (disch := decide) only [capOtype, capWithPerm, BitVec.extractLsb'_append_eq_of_add_le, extractLsb'_extractLsb',
    Nat.zero_add]

@[simp] theorem capUntag_bits : (capUntag c).bits = c.bits := rfl

/-- A cursor that moves changes the cursor, and perhaps the tag. -/
theorem capMoveCursor_bits : (capMoveCursor c a).bits = (capWithCursor c a).bits := by
  unfold capMoveCursor; split <;> rfl

end

/-! ### The base (R325) -/

/-- The base below the largest exponent, before it is reduced modulo 2^64. -/
def rawBase (c : Cap) (cur : Nat) : Int :=
  (if cur / 2 ^ capE c % 2 ^ 19 < capBasem c then ((cur / 2 ^ (capE c + 19) : Nat) : Int) - 1
    else ((cur / 2 ^ (capE c + 19) : Nat) : Int)) * 2 ^ (capE c + 19) + capBasem c * 2 ^ capE c

theorem capBase_of_lt {c : Cap} (h : capE c ≠ 45) : capBase c = (rawBase c (capCursor c).toNat % 2 ^ 64).toNat := by
  simp only [capBase, beq_iff_eq, if_neg h, rawBase]

theorem capBasem_lt (c : Cap) : capBasem c < 2 ^ 19 := BitVec.isLt _

/-- A number in pieces: a window of 2^19 blocks of `P`, a block and an offset in it; the window that ends in this block and begins
at block `B` of a window. -/
theorem window_bounds {P u y x B : Int} (hP : 0 < P) (hx0 : 0 ≤ x) (hx : x < P) (hy0 : 0 ≤ y) (hy : y < 2 ^ 19) (hB0 : 0 ≤ B)
    (hB : B < 2 ^ 19) : 0 ≤ P * (2 ^ 19 * u + y) + x - ((if y < B then u - 1 else u) * (P * 2 ^ 19) + B * P) ∧
      P * (2 ^ 19 * u + y) + x - ((if y < B then u - 1 else u) * (P * 2 ^ 19) + B * P) < P * 2 ^ 19 := by
  have hPy : 0 ≤ P * y := mul_nonneg hP.le hy0
  have hPB : 0 ≤ P * B := mul_nonneg hP.le hB0
  split_ifs with h
  · have h1 : P * (y + 1) ≤ P * B := mul_le_mul_of_nonneg_left (by omega) hP.le
    have h2 : P * (B + 1) ≤ P * 2 ^ 19 := mul_le_mul_of_nonneg_left (by omega) hP.le
    constructor <;> nlinarith
  · have h1 : P * B ≤ P * y := mul_le_mul_of_nonneg_left (by omega) hP.le
    have h2 : P * (y + 1) ≤ P * 2 ^ 19 := mul_le_mul_of_nonneg_left (by omega) hP.le
    constructor <;> nlinarith

/-- The raw base has the residue that BASEM gives, and lies in the window of 2^(E+19) that ends at the cursor. -/
theorem rawBase_spec (c : Cap) (cur : Nat) :
    0 ≤ (cur : Int) - rawBase c cur ∧ (cur : Int) - rawBase c cur < 2 ^ (capE c + 19) ∧
      (2 : Int) ^ (capE c + 19) ∣ rawBase c cur - capBasem c * 2 ^ capE c := by
  have hq : cur / 2 ^ (capE c + 19) = cur / 2 ^ capE c / 2 ^ 19 := by rw [pow_add, ← Nat.div_div_eq_div_mul]
  have hcur : (cur : Int) = 2 ^ capE c * (2 ^ 19 * (cur / 2 ^ capE c / 2 ^ 19 : Nat) + (cur / 2 ^ capE c % 2 ^ 19 : Nat)) +
      (cur % 2 ^ capE c : Nat) := by
    have h1 := Nat.div_add_mod (cur / 2 ^ capE c) (2 ^ 19)
    have h2 := Nat.div_add_mod cur (2 ^ capE c)
    rw [← h1] at h2
    exact_mod_cast h2.symm
  have hw := window_bounds (P := 2 ^ capE c) (u := (cur / 2 ^ capE c / 2 ^ 19 : Nat)) (y := (cur / 2 ^ capE c % 2 ^ 19 : Nat))
    (x := (cur % 2 ^ capE c : Nat)) (B := capBasem c) (by positivity) (by positivity)
    (by exact_mod_cast Nat.mod_lt _ (Nat.two_pow_pos _)) (by positivity) (by exact_mod_cast Nat.mod_lt _ (by decide))
    (by positivity) (by exact_mod_cast capBasem_lt c)
  simp only [Nat.cast_lt] at hw
  rw [← hcur, ← pow_add] at hw
  have hraw : rawBase c cur = (if cur / 2 ^ capE c % 2 ^ 19 < capBasem c then ((cur / 2 ^ capE c / 2 ^ 19 : Nat) : Int) - 1
      else ((cur / 2 ^ capE c / 2 ^ 19 : Nat) : Int)) * 2 ^ (capE c + 19) + capBasem c * 2 ^ capE c := by
    rw [rawBase, hq]
  rw [← hraw] at hw
  exact ⟨hw.1, hw.2, by rw [rawBase, add_sub_cancel_right]; exact Dvd.intro_left _ rfl⟩

/-- Two numbers of one residue in one window are the same. -/
theorem rawBase_unique {c : Cap} {cur : Nat} {b : Int} (h0 : 0 ≤ (cur : Int) - b) (h1 : (cur : Int) - b < 2 ^ (capE c + 19))
    (hd : (2 : Int) ^ (capE c + 19) ∣ b - capBasem c * 2 ^ capE c) : rawBase c cur = b := by
  obtain ⟨g0, g1, gd⟩ := rawBase_spec c cur
  have hdvd : (2 : Int) ^ (capE c + 19) ∣ rawBase c cur - b := by
    have := dvd_sub gd hd
    rwa [sub_sub_sub_cancel_right] at this
  have := Int.eq_zero_of_abs_lt_dvd hdvd (abs_lt.2 ⟨by omega, by omega⟩)
  omega

theorem capE_le (c : Cap) : capE c ≤ 45 := Nat.min_le_right _ _

/-- What lies a distance below a cursor, both modulo 2^64. -/
theorem below_cursor {a b : Nat} {r : Int} (hb : (b : Int) = r % 18446744073709551616) :
    (18446744073709551616 : Int) ∣ (a - ((a + 18446744073709551616 - b) % 18446744073709551616 : Nat) : Int) - r ∧
      ((a - ((a + 18446744073709551616 - b) % 18446744073709551616 : Nat) : Int) % 18446744073709551616).toNat = b := by
  omega

/-- A cursor that stays in the representable region keeps the base (R325). -/
theorem capBase_capWithCursor {c : Cap} {a : Word} (h : capRepresentable c a = true) :
    capBase (capWithCursor c a) = capBase c := by
  have hE : capE (capWithCursor c a) = capE c := by simp only [capE, capExp_capWithCursor]
  by_cases h45 : capE c = 45
  · simp only [capBase, hE, h45, capBasem_capWithCursor, beq_self_eq_true, if_true]
  · have hlt : capE c + 19 < 64 := by have := capE_le c; omega
    simp only [capRepresentable, Bool.or_eq_true, beq_iff_eq, h45, false_or, decide_eq_true_eq, Nat.reducePow] at h
    have hpow : (2 : Int) ^ (capE c + 19) ∣ 18446744073709551616 := by
      have := pow_dvd_pow (2 : Int) hlt.le
      norm_num at this ⊢
      exact this
    obtain ⟨-, -, hd⟩ := rawBase_spec c (capCursor c).toNat
    have hcb : (capBase c : Int) = rawBase c (capCursor c).toNat % 18446744073709551616 := by
      rw [capBase_of_lt h45, Int.toNat_of_nonneg (Int.emod_nonneg _ (by decide))]
      norm_num
    obtain ⟨h1, h2⟩ := below_cursor (a := a.toNat) hcb
    generalize hm : (a.toNat + 18446744073709551616 - capBase c) % 18446744073709551616 = m at h h1 h2
    have hraw' : rawBase (capWithCursor c a) a.toNat = a.toNat - (m : Int) := by
      refine rawBase_unique (by omega) ?_ ?_
      · rw [hE, sub_sub_cancel]; exact_mod_cast h
      · rw [hE, capBasem_capWithCursor]
        have := dvd_add (hpow.trans h1) hd
        rwa [sub_add_sub_cancel] at this
    rw [capBase_of_lt (by rw [hE]; exact h45), capCursor_capWithCursor, hraw', ← h2]
    norm_num

theorem capTop_capWithCursor {c : Cap} {a : Word} (h : capRepresentable c a = true) :
    capTop (capWithCursor c a) = capTop c := by
  simp only [capTop, capBase_capWithCursor h, capLen, capE, capExp_capWithCursor, capLenm_capWithCursor]

/-! ### New bounds (R326) -/

/-- What Enc answers: an exponent of at most 45, the region rounded outward to it, and a length that LENM holds. -/
theorem capEncFrom_spec {b t : Nat} : ∀ {n e e' b2 t2 : Nat}, capEncFrom b t n e = some (e', b2, t2) → e' < e + n ∧
    b2 = b / 2 ^ e' * 2 ^ e' ∧ t2 = (t + 2 ^ e' - 1) / 2 ^ e' * 2 ^ e' ∧ (t2 - b2) / 2 ^ e' ≤ 2 ^ 18 - 1
  | 0, _, _, _, _, h => by simp [capEncFrom] at h
  | n + 1, e, e', b2, t2, h => by
    rw [capEncFrom] at h
    split_ifs at h with hf
    · simp only [Option.some.injEq, Prod.mk.injEq] at h
      obtain ⟨rfl, rfl, rfl⟩ := h
      exact ⟨by omega, rfl, rfl, hf⟩
    · obtain ⟨h1, h2⟩ := capEncFrom_spec h
      exact ⟨by omega, h2⟩

/-- The bounds that were encoded are those that are read back. -/
theorem capBounds_capWithBounds {c : Cap} {e b2 t2 : Nat} (he : e ≤ 45) (hb : b2 = (capCursor c).toNat / 2 ^ e * 2 ^ e)
    (ht : 2 ^ e ∣ t2) (hbt : b2 ≤ t2) (hl : (t2 - b2) / 2 ^ e ≤ 2 ^ 18 - 1) :
    capBase (capWithBounds c e b2 t2) = b2 ∧ capTop (capWithBounds c e b2 t2) = t2 := by
  have hp : 0 < 2 ^ e := Nat.two_pow_pos e
  have hE : capE (capWithBounds c e b2 t2) = e := by
    rw [capE, capExp_capWithBounds, Nat.mod_eq_of_lt (by omega)]; omega
  have hq : b2 / 2 ^ e = (capCursor c).toNat / 2 ^ e := by rw [hb, Nat.mul_div_cancel _ hp]
  have hcur := (capCursor c).isLt
  have hle : b2 ≤ (capCursor c).toNat := hb ▸ Nat.div_mul_le_self _ _
  have hbase : capBase (capWithBounds c e b2 t2) = b2 := by
    by_cases h45 : e = 45
    · subst h45
      simp only [capBase, hE, beq_self_eq_true, if_true, capBasem_capWithBounds]
      omega
    · rw [capBase_of_lt (by rw [hE]; exact h45), capCursor_capWithBounds]
      have hmod : (capCursor c).toNat % 2 ^ e < 2 ^ e := Nat.mod_lt _ hp
      have hdm := Nat.div_add_mod (capCursor c).toNat (2 ^ e)
      have hraw : rawBase (capWithBounds c e b2 t2) (capCursor c).toNat = b2 := by
        refine rawBase_unique (by omega) ?_ ?_
        · rw [hE]
          have h1 : (capCursor c).toNat - b2 < 2 ^ (e + 19) := by
            rw [hb, pow_add]
            rw [Nat.mul_comm] at hdm
            omega
          have h2 : ((capCursor c).toNat - b2 : Nat) < (2 : Int) ^ (e + 19) := by exact_mod_cast h1
          omega
        · rw [hE, capBasem_capWithBounds]
          have h1 := Nat.div_add_mod (b2 / 2 ^ e) (2 ^ 19)
          have h2 : b2 = b2 / 2 ^ e * 2 ^ e := by rw [hq, ← hb]
          refine ⟨(b2 / 2 ^ e / 2 ^ 19 : Nat), ?_⟩
          have h3 : (b2 : Int) = ((2 ^ 19 * (b2 / 2 ^ e / 2 ^ 19) + b2 / 2 ^ e % 2 ^ 19 : Nat) : Int) * 2 ^ e := by
            rw [h1]; exact_mod_cast h2
          conv_lhs => lhs; rw [h3]
          push_cast
          rw [pow_add]
          ring
      rw [hraw]
      omega
  refine ⟨hbase, ?_⟩
  rw [capTop, hbase, capLen, hE, capLenm_capWithBounds, Nat.mod_eq_of_lt (by omega)]
  have : 2 ^ e ∣ t2 - b2 := Nat.dvd_sub ht (hb ▸ Dvd.intro_left _ rfl)
  rw [Nat.div_mul_cancel this]
  omega

/-- What setting bounds answers (R326, R333). -/
theorem capSetBounds_spec {c d : Cap} {n : Nat} {x : Bool} (h : capSetBounds c n x = .ok d) : ∃ e b2 t2,
    d = capWithBounds c e b2 t2 ∧ capBase c ≤ b2 ∧ t2 ≤ capTop c ∧ b2 ≤ (capCursor c).toNat ∧ (capCursor c).toNat + n ≤ t2 ∧
      capBase d = b2 ∧ capTop d = t2 ∧ (x = true → b2 = (capCursor c).toNat ∧ t2 = (capCursor c).toNat + n) := by
  unfold capSetBounds at h
  dsimp only at h
  split_ifs at h with h64
  cases hen : capEnc (capCursor c).toNat ((capCursor c).toNat + n) with
  | none => rw [hen] at h; cases h
  | some r =>
    obtain ⟨e, b2, t2⟩ := r
    rw [hen] at h
    dsimp only at h
    split_ifs at h with hx hin
    simp only [Except.ok.injEq] at h
    simp only [Bool.or_eq_true, decide_eq_true_eq, not_or, Nat.not_lt] at hin
    obtain ⟨he, hb, ht, hl⟩ := capEncFrom_spec hen
    have hp : 0 < 2 ^ e := Nat.two_pow_pos e
    have hb2 : b2 ≤ (capCursor c).toNat := hb ▸ Nat.div_mul_le_self _ _
    have ht2 : (capCursor c).toNat + n ≤ t2 := by
      have h1 := Nat.div_add_mod ((capCursor c).toNat + n + 2 ^ e - 1) (2 ^ e)
      have h2 := Nat.mod_lt ((capCursor c).toNat + n + 2 ^ e - 1) hp
      rw [Nat.mul_comm, ← ht] at h1
      omega
    obtain ⟨h1, h2⟩ := capBounds_capWithBounds (by omega) hb (ht ▸ Dvd.intro_left _ rfl) (by omega) hl
    refine ⟨e, b2, t2, h.symm, hin.1, hin.2, hb2, ht2, h ▸ h1, h ▸ h2, fun hxt => ?_⟩
    subst hxt
    simpa using hx

end Sys2Proof.Machine

section
open Sys2Proof
open Sys2Proof.Machine

/-- Settles O23. -/
theorem noDerivationWidensACapability : Obligations.NoDerivationWidensACapability := by
  unfold Obligations.NoDerivationWidensACapability
  refine ⟨fun c d v n e m hd => ?_, fun c v => ⟨capCursor_capMoveCursor c v, fun h => ?_, fun h => ?_⟩, fun c d n e h => ?_⟩
  · rcases hd with rfl | h | rfl
    · have hb : (capMoveCursor c v).bits = (capWithCursor c v).bits := capMoveCursor_bits c v
      have hp : capPerm (capMoveCursor c v) = capPerm c := by rw [← capPerm_capWithCursor c v]; simp only [capPerm, hb]
      have hw : capWorld (capMoveCursor c v) = capWorld c := by rw [← capWorld_capWithCursor c v]; simp only [capWorld, hb]
      have ho : capOtype (capMoveCursor c v) = capOtype c := by rw [← capOtype_capWithCursor c v]; simp only [capOtype, hb]
      refine ⟨by rw [hp, BitVec.and_self], hw, ho, fun ht => ?_⟩
      unfold capMoveCursor at ht
      split_ifs at ht
      · exact ht
      · cases ht
    · obtain ⟨e', b2, t2, rfl, -⟩ := capSetBounds_spec h
      exact ⟨by rw [capPerm_capWithBounds, BitVec.and_self], capWorld_capWithBounds .., capOtype_capWithBounds .., id⟩
    · refine ⟨?_, capWorld_capWithPerm .., capOtype_capWithPerm .., id⟩
      rw [capPerm_capWithPerm, BitVec.and_assoc, BitVec.and_comm m, ← BitVec.and_assoc, BitVec.and_self]
  · rw [capMoveCursor, if_pos h]
    exact ⟨capBase_capWithCursor h, capTop_capWithCursor h, rfl⟩
  · rw [capMoveCursor, if_neg (by simp [h])]
    rfl
  · obtain ⟨e', b2, t2, rfl, hb, ht, hlo, hhi, h1, h2, hx⟩ := capSetBounds_spec h
    rw [h1, h2]
    exact ⟨hb, ht, hlo, hhi, capCursor_capWithBounds .., hx⟩

end
end

section
/-!
What the end of an instruction leaves in its slot and in the others, beyond the registers (`Laws/Ends.lean`): the fields that
an end or a trap may set, and the semaphores.
-/

namespace Sys2Proof.Machine

/-! ### Slots -/

/-- `b` is `a` but for what a trap or a retirement sets: the status, the place, the units taken, what is begun and held, and the
record of a trap. -/
def SlotKept (a b : Slot) : Prop :=
  b = { a with status := b.status, taken := b.taken, quay := b.quay, peer := b.peer, rep := b.rep, trapRec := b.trapRec,
               trapWord := b.trapWord, begun := b.begun, held := b.held, fresh := b.fresh, startChecks := b.startChecks }
/-- The same, but for the pc too. -/
def SlotEnds (a b : Slot) : Prop := SlotKept { a with pcc := b.pcc } b

theorem SlotKept.refl (a : Slot) : SlotKept a a := rfl
theorem SlotKept.trans {a b c : Slot} (h : SlotKept a b) (k : SlotKept b c) : SlotKept a c :=
  Eq.trans k (congrArg (fun v : Slot =>
    { v with status := c.status, taken := c.taken, quay := c.quay, peer := c.peer, rep := c.rep, trapRec := c.trapRec,
             trapWord := c.trapWord, begun := c.begun, held := c.held, fresh := c.fresh, startChecks := c.startChecks }) h)
theorem SlotKept.pcc {a b : Slot} (h : SlotKept a b) : b.pcc = a.pcc := by rw [h]
theorem SlotKept.ends {a b : Slot} (h : SlotKept a b) : SlotEnds a b := by
  unfold SlotEnds; rw [h.pcc]; exact h
theorem SlotEnds.trans {a b c : Slot} (h : SlotEnds a b) (k : SlotEnds b c) : SlotEnds a c :=
  Eq.trans k (congrArg (fun v : Slot =>
    { v with pcc := c.pcc, status := c.status, taken := c.taken, quay := c.quay, peer := c.peer, rep := c.rep,
             trapRec := c.trapRec, trapWord := c.trapWord, begun := c.begun, held := c.held, fresh := c.fresh,
             startChecks := c.startChecks }) h)
theorem SlotEnds.refl (a : Slot) : SlotEnds a a := rfl

theorem SlotEnds.regs {a b : Slot} (h : SlotEnds a b) : SameRegs b a := by
  rw [SlotEnds, SlotKept] at h; rw [h]; exact .of_files rfl rfl rfl rfl rfl
theorem SlotEnds.specials {a b : Slot} (h : SlotEnds a b) : SameSpecials b a := by
  rw [SlotEnds, SlotKept] at h; rw [h]; exact ⟨rfl, rfl, rfl, rfl, rfl, rfl, rfl, rfl, rfl⟩
theorem SlotEnds.mons {a b : Slot} (h : SlotEnds a b) : b.mons = a.mons := by rw [SlotEnds, SlotKept] at h; rw [h]
theorem SlotEnds.fstat {a b : Slot} (h : SlotEnds a b) : b.fstat = a.fstat := by rw [SlotEnds, SlotKept] at h; rw [h]
theorem SlotEnds.ports {a b : Slot} (h : SlotEnds a b) : b.ports = a.ports := by rw [SlotEnds, SlotKept] at h; rw [h]
theorem SlotEnds.fib {a b : Slot} (h : SlotEnds a b) : b.fib = a.fib := by rw [SlotEnds, SlotKept] at h; rw [h]
theorem SlotEnds.fmode {a b : Slot} (h : SlotEnds a b) : b.fmode = a.fmode := by rw [SlotEnds, SlotKept] at h; rw [h]

/-- Every slot keeps what a relation of slots says. -/
def AllSlots (r : Slot → Slot → Prop) (s t : State) : Prop := t.cur = s.cur ∧ ∀ i, r (s.slot i) (t.slot i)

theorem AllSlots.sl {r : Slot → Slot → Prop} {s t : State} (h : AllSlots r s t) : r s.sl t.sl := by
  have := h.2 s.cur
  simpa only [State.sl, State.slot, h.1] using this
theorem AllSlots.mono {r q : Slot → Slot → Prop} (hrq : ∀ {a b}, r a b → q a b) {s t : State} (h : AllSlots r s t) :
    AllSlots q s t := ⟨h.1, fun i => hrq (h.2 i)⟩
theorem AllSlots.kept_trans {s t u : State} (h : AllSlots SlotKept s t) (k : AllSlots SlotKept t u) : AllSlots SlotKept s u :=
  ⟨k.1.trans h.1, fun i => (h.2 i).trans (k.2 i)⟩
theorem AllSlots.ends_trans {s t u : State} (h : AllSlots SlotEnds s t) (k : AllSlots SlotEnds t u) : AllSlots SlotEnds s u :=
  ⟨k.1.trans h.1, fun i => (h.2 i).trans (k.2 i)⟩
theorem AllSlots.ends {s t : State} (h : AllSlots SlotKept s t) : AllSlots SlotEnds s t := h.mono SlotKept.ends

theorem kept_of_slots {s t : State} (c : t.cur = s.cur) (e : t.slots = s.slots) : AllSlots SlotKept s t :=
  ⟨c, fun i => by simp only [State.slot, e]; exact .refl _⟩
theorem modSlot_all {r : Slot → Slot → Prop} (hr : ∀ a, r a a) (s : State) (i : SlotId) (f : Slot → Slot)
    (h : r (s.slot i) (f (s.slot i))) : AllSlots r s (s.modSlot i f) := by
  refine ⟨rfl, fun j => ?_⟩
  by_cases e : j = i
  · subst e; rw [modSlot_slot]; exact h
  · rw [modSlot_other s i j f e]; exact hr _
theorem modSlot_kept (s : State) (i : SlotId) (f : Slot → Slot) (h : SlotKept (s.slot i) (f (s.slot i))) :
    AllSlots SlotKept s (s.modSlot i f) := modSlot_all SlotKept.refl s i f h
theorem modSlot_ends (s : State) (i : SlotId) (f : Slot → Slot) (h : SlotEnds (s.slot i) (f (s.slot i))) :
    AllSlots SlotEnds s (s.modSlot i f) := modSlot_all SlotEnds.refl s i f h

theorem modCur_kept (s : State) (f : Slot → Slot) (h : SlotKept s.sl (f s.sl)) : AllSlots SlotKept s (s.modCur f) :=
  modSlot_kept s s.cur f h

/-! ### What ends keep of the slots -/

theorem leaveQueue_kept (s : State) (w : Who) : AllSlots SlotKept s (s.leaveQueue w) := by
  rw [leaveQueue_eq]; exact kept_of_slots rfl rfl
theorem joinQueue_kept (s : State) (w : Waiter) : AllSlots SlotKept s (s.joinQueue w) := by
  rw [joinQueue_eq]; exact kept_of_slots rfl rfl
theorem semSet_kept (s : State) (m : BitVec 8) (k : Nat) : AllSlots SlotKept s (s.semSet m k) := by
  rw [semSet_eq]; exact kept_of_slots rfl rfl
theorem sawError_kept (s : State) (w : World) (f : Fail) : AllSlots SlotKept s (s.sawError w f) := by
  unfold State.sawError; split <;> exact kept_of_slots rfl rfl
theorem peerEnd_kept (s : State) : AllSlots SlotKept s s.peerEnd := by
  unfold State.peerEnd
  split
  · exact kept_of_slots rfl rfl
  · exact modSlot_kept _ _ _ rfl
/-- A slot whose fibre has come home. -/
def Slot.homed (sl : Slot) : Slot :=
  { sl with quay := none, status := match sl.status with
            | .away _ => .ready
            | st => st }
theorem goHome_kept (s : State) (i : SlotId) : AllSlots SlotKept s (s.goHome i) := by
  unfold State.goHome
  split
  · exact kept_of_slots rfl rfl
  · refine (modSlot_kept s i Slot.homed rfl).kept_trans ?_
    dsimp only
    split <;> exact kept_of_slots rfl rfl
theorem restoreWait_kept (s : State) : AllSlots SlotKept s s.restoreWait := by
  unfold State.restoreWait
  split
  · exact kept_of_slots rfl rfl
  · exact (modCur_kept s (fun sl => { sl with taken := none }) rfl).kept_trans (semSet_kept _ _ _)
theorem repStop_kept (s : State) (i : SlotId) : AllSlots SlotKept s (s.repStop i) := by
  unfold State.repStop
  split
  · exact kept_of_slots rfl rfl
  · refine (leaveQueue_kept s (.rep i)).kept_trans (AllSlots.kept_trans ?_ (modSlot_kept _ _ _ rfl))
    split
    · exact semSet_kept _ _ _
    · exact kept_of_slots rfl rfl
theorem enqueueRec_kept (s : State) (p : Option SlotId) (r : TrapRec) : AllSlots SlotKept s (s.enqueueRec p r) := by
  unfold State.enqueueRec
  split
  · refine AllSlots.kept_trans (t := { s with trapQ := s.trapQ ++ [r], yielding := false }) (kept_of_slots rfl rfl)
      (modSlot_kept _ 15 _ ?_)
    dsimp only
    split <;> rfl
  · split <;> exact kept_of_slots rfl rfl
theorem parkTrap_kept (s : State) (i : SlotId) (f : Fail) (pc : Word) (w : BitVec 96) :
    AllSlots SlotKept s (s.parkTrap i f pc w) :=
  (repStop_kept s i).kept_trans ((modSlot_kept _ i (fun sl =>
    { sl with
      status := .parked .trap, trapRec := some (mkRec (s.repStop i) i f pc (w.extractLsb' 0 64) true)
      trapWord := w.extractLsb' 64 32, begun := false, held := none, taken := none, fresh := false }) rfl).kept_trans
    ((leaveQueue_kept _ _).kept_trans (enqueueRec_kept _ _ _)))
theorem supTrap_ends (s : State) (f : Fail) (pc : Word) (w : BitVec 96) : AllSlots SlotEnds s (s.supTrap f pc w) := by
  refine ((leaveQueue_kept s (.slot 15)).kept_trans (modSlot_kept _ 15 (fun sl =>
    { sl with
      begun := false, held := none, taken := none
      status := match sl.status with
        | .waiting _ _ => .ready
        | st => st }) rfl)).ends.ends_trans ?_
  unfold State.supTrap
  dsimp only
  split
  · exact (kept_of_slots rfl rfl).ends
  · exact AllSlots.ends_trans (kept_of_slots rfl rfl).ends (modSlot_ends _ _ _ rfl)

/-- A trap begins by giving back what the instruction has taken and bringing the fibre home (R33, R217). -/
def State.trapStart (s : State) (f : Fail) : State := ((s.restoreWait.goHome s.cur).peerEnd).sawError s.world f

theorem trapStart_kept (s : State) (f : Fail) : AllSlots SlotKept s (s.trapStart f) :=
  (restoreWait_kept s).kept_trans ((goHome_kept _ s.cur).kept_trans ((peerEnd_kept _).kept_trans (sawError_kept _ s.world f)))
theorem takeTrap_eq (s : State) (f : Fail) : s.takeTrap f =
    if s.cur = 15 then (s.trapStart f).supTrap f s.sl.pc s.word else (s.trapStart f).parkTrap s.cur f s.sl.pc s.word := by
  obtain ⟨hc, hk⟩ := trapStart_kept s f
  have hpc : (s.trapStart f).sl.pc = s.sl.pc := by
    have h := (AllSlots.sl ⟨hc, hk⟩ : SlotKept s.sl (s.trapStart f).sl)
    simp only [Slot.pc, h.pcc]
  have hw : (s.trapStart f).word = s.word := by
    have h : OnlyEnds s (s.trapStart f) := (restoreWait_only s).trans ((goHome_only _ s.cur).trans
      ((peerEnd_only _).trans (sawError_only _ s.world f)))
    rw [h]
  show (if (s.trapStart f).cur = 15 then (s.trapStart f).supTrap f (s.trapStart f).sl.pc (s.trapStart f).word
    else (s.trapStart f).parkTrap (s.trapStart f).cur f (s.trapStart f).sl.pc (s.trapStart f).word) = _
  rw [hpc, hw, hc]

theorem takeTrap_ends (s : State) (f : Fail) : AllSlots SlotEnds s (s.takeTrap f) := by
  rw [takeTrap_eq]
  split
  · exact (trapStart_kept s f).ends.ends_trans (supTrap_ends _ _ _ _)
  · exact ((trapStart_kept s f).kept_trans (parkTrap_kept _ _ _ _ _)).ends
/-- A trap of a slot 0 to 14 keeps its pc (R357). -/
theorem takeTrap_kept {s : State} (h : s.cur ≠ 15) (f : Fail) : AllSlots SlotKept s (s.takeTrap f) := by
  rw [takeTrap_eq, if_neg h]
  exact (trapStart_kept s f).kept_trans (parkTrap_kept _ _ _ _ _)
theorem retired_kept (s : State) : AllSlots SlotKept s s.retired :=
  (leaveQueue_kept s _).kept_trans ((peerEnd_kept _).kept_trans (modSlot_kept _ _ _ rfl))
theorem advance_ends (s : State) : AllSlots SlotEnds s s.advance := modSlot_ends s s.cur _ rfl
theorem signal_ends (s : State) (h : Hdr) : AllSlots SlotEnds s (s.signal h) := by
  unfold State.signal
  split
  · exact (kept_of_slots rfl rfl).ends
  split
  · exact (kept_of_slots rfl rfl).ends
  dsimp only [State.semAdd]
  split
  · exact (semSet_kept _ _ _).ends.ends_trans (takeTrap_ends _ _)
  · exact (semSet_kept _ _ _).ends
theorem ended_ends (h : Hdr) (t : State) : AllSlots SlotEnds t (ended h t) :=
  (retired_kept t).ends.ends_trans ((advance_ends _).ends_trans (signal_ends _ h))
theorem jumped_ends (h : Hdr) (t : State) : AllSlots SlotEnds t (jumped h t) :=
  (retired_kept t).ends.ends_trans (signal_ends _ h)
theorem handed_ends (t : State) : AllSlots SlotEnds t (handed t) := (retired_kept t).ends.ends_trans (advance_ends _)
theorem stopped_ends (st : Stop) (s : State) : AllSlots SlotEnds s (stopped st s) := by
  cases st with
  | trap f => exact takeTrap_ends s f
  | wait k o n => exact ((modCur_kept s (fun sl => { sl with status := .waiting k o, begun := true }) rfl).kept_trans
      (joinQueue_kept _ _)).ends
  | spin => exact (modCur_kept s (fun sl => { sl with begun := true }) rfl).ends

/-! ### Semaphores -/

theorem semSet_semVal (s : State) (m q : BitVec 8) (k : Nat) :
    (s.semSet m k).semVal q = if q = m then k % 2 ^ 16 else s.semVal q := by
  have h : (s.semSet m k).sem = s.sem.set m.toNat (BitVec.ofNat 16 k) m.isLt := by
    unfold State.semSet; rw [semChanged_eq]
  simp only [State.semVal, h, Vector.getElem_set]
  by_cases e : q = m
  · subst e; simp
  · rw [if_neg fun h => e (BitVec.eq_of_toNat_eq h.symm), if_neg e]
/-- A semaphore holds sixteen bits. -/
theorem semVal_lt (s : State) (q : BitVec 8) : s.semVal q < 65536 := BitVec.isLt _
theorem semVal_congr {s t : State} (h : t.sem = s.sem) (q : BitVec 8) : t.semVal q = s.semVal q := by
  simp only [State.semVal, h]
/-- Units come back, clamped at 65,535 (R33). -/
theorem semSet_giveBack (s : State) (m q : BitVec 8) (k : Nat) :
    (s.semSet m (min (s.semVal m + k) 65535)).semVal q = if q = m then min (s.semVal m + k) 65535 else s.semVal q := by
  rw [semSet_semVal]
  split
  · exact Nat.mod_eq_of_lt (by omega)
  · rfl

theorem repStop_semVal_none {s : State} {i : SlotId} (h : (s.slot i).rep.bind (·.taken) = none) (q : BitVec 8) :
    (s.repStop i).semVal q = s.semVal q := by
  unfold State.repStop
  cases hr : (s.slot i).rep with
  | none => rfl
  | some r =>
    rw [hr] at h
    simp only [Option.bind_some] at h
    simp only [h]
    exact semVal_congr (t := (s.leaveQueue (.rep i)).modSlot i _) (by rw [leaveQueue_eq]; rfl) q
theorem repStop_semVal_some {s : State} {i : SlotId} {m : BitVec 8} {k : Nat} (h : (s.slot i).rep.bind (·.taken) = some (m, k))
    (q : BitVec 8) : (s.repStop i).semVal q = if q = m then min (s.semVal m + k) 65535 else s.semVal q := by
  unfold State.repStop
  cases hr : (s.slot i).rep with
  | none => rw [hr] at h; cases h
  | some r =>
    rw [hr] at h
    simp only [Option.bind_some] at h
    simp only [h]
    have hq : ∀ q, (s.leaveQueue (.rep i)).semVal q = s.semVal q := semVal_congr (by rw [leaveQueue_eq])
    refine (semVal_congr (s := (s.leaveQueue (.rep i)).semSet m (min ((s.leaveQueue (.rep i)).semVal m + k) 65535)) rfl q).trans ?_
    rw [semSet_giveBack, hq, hq]

/-! ### What a trap leaves in semaphores and in the trap queue -/

/-- What a trap undoes touches neither the core's place, nor the exception registers, nor the trap queue. -/
def OnlyUndoes (s t : State) : Prop :=
  t = { s with slots := t.slots, sem := t.sem, waiters := t.waiters, agenda := t.agenda, deferred := t.deferred,
               errSeen := t.errSeen }
theorem OnlyUndoes.trans {s t u : State} (h : OnlyUndoes s t) (k : OnlyUndoes t u) : OnlyUndoes s u :=
  Eq.trans k (congrArg (fun v : State =>
    { v with slots := u.slots, sem := u.sem, waiters := u.waiters, agenda := u.agenda, deferred := u.deferred,
             errSeen := u.errSeen }) h)
theorem trapStart_undoes (s : State) (f : Fail) : OnlyUndoes s (s.trapStart f) := by
  have h1 : OnlyUndoes s s.restoreWait := by
    unfold State.restoreWait
    split
    · rfl
    · rw [semSet_eq]; rfl
  have h2 : OnlyUndoes s.restoreWait (s.restoreWait.goHome s.cur) := by rw [goHome_eq]; rfl
  have h3 : OnlyUndoes (s.restoreWait.goHome s.cur) (s.restoreWait.goHome s.cur).peerEnd := by rw [peerEnd_eq]; rfl
  refine (h1.trans (h2.trans h3)).trans ?_
  unfold State.trapStart State.sawError
  split <;> rfl
theorem repStop_undoes (s : State) (i : SlotId) : OnlyUndoes s (s.repStop i) := by
  have hl : OnlyUndoes s (s.leaveQueue (.rep i)) := by rw [leaveQueue_eq]; rfl
  unfold State.repStop
  split
  · rfl
  · have hs : ∀ t : State, ∀ m k, OnlyUndoes t (t.semSet m k) := fun t m k => by rw [semSet_eq]; rfl
    dsimp only
    split
    · exact (hl.trans (hs _ _ _)).trans rfl
    · exact hl.trans rfl

theorem trapStart_sem (s : State) (f : Fail) : (s.trapStart f).sem = s.restoreWait.sem := by
  have h1 : ((s.restoreWait.goHome s.cur).peerEnd).sem = s.restoreWait.sem := by rw [peerEnd_eq, goHome_eq]
  unfold State.trapStart State.sawError
  split <;> exact h1
theorem restoreWait_semVal_none {s : State} (h : s.sl.taken = none) (q : BitVec 8) : s.restoreWait.semVal q = s.semVal q := by
  simp only [State.restoreWait, h]
theorem restoreWait_semVal_some {s : State} {m : BitVec 8} {k : Nat} (h : s.sl.taken = some (m, k)) (q : BitVec 8) :
    s.restoreWait.semVal q = if q = m then min (s.semVal m + k) 65535 else s.semVal q := by
  simp only [State.restoreWait, h]
  exact semSet_giveBack (s.modCur fun sl => { sl with taken := none }) m q k
theorem parkTrap_semVal (s : State) (i : SlotId) (f : Fail) (pc : Word) (w : BitVec 96) (q : BitVec 8) :
    (s.parkTrap i f pc w).semVal q = (s.repStop i).semVal q :=
  semVal_congr (by unfold State.parkTrap; dsimp only; rw [enqueueRec_eq, leaveQueue_eq]; rfl) q
theorem modSlot_rep {s : State} {i : SlotId} {f : Slot → Slot} (h : ∀ sl, (f sl).rep = sl.rep) (j : SlotId) :
    ((s.modSlot i f).slot j).rep = (s.slot j).rep := by
  by_cases e : j = i
  · subst e; rw [modSlot_slot, h]
  · rw [modSlot_other s i j f e]
theorem goHome_rep (s : State) (i j : SlotId) : ((s.goHome i).slot j).rep = (s.slot j).rep := by
  unfold State.goHome
  split
  · rfl
  · dsimp only
    split <;> exact modSlot_rep (f := Slot.homed) (fun _ => rfl) j
theorem restoreWait_rep (s : State) (j : SlotId) : (s.restoreWait.slot j).rep = (s.slot j).rep := by
  unfold State.restoreWait
  split
  · rfl
  · rw [semSet_eq]; exact modSlot_rep (f := fun sl => { sl with taken := none }) (fun _ => rfl) j
theorem peerEnd_rep (s : State) (j : SlotId) : (s.peerEnd.slot j).rep = (s.slot j).rep := by
  unfold State.peerEnd
  split
  · rfl
  · exact modSlot_rep (f := fun sl => { sl with peer := sl.peer.filter (·.eng) }) (fun _ => rfl) j
/-- The repetition block of a slot is not touched before it is stopped. -/
theorem trapStart_rep (s : State) (f : Fail) (i : SlotId) : ((s.trapStart f).slot i).rep = (s.slot i).rep := by
  have h : (s.trapStart f).slot i = (((s.restoreWait.goHome s.cur).peerEnd).slot i) := by
    unfold State.trapStart State.sawError
    split <;> rfl
  rw [h, peerEnd_rep, goHome_rep, restoreWait_rep]
/-- What a trap of a slot 0 to 14 leaves in a semaphore: the repetition block gives back its units, and so does the WAIT. -/
theorem takeTrap_semVal {s : State} (h : s.cur ≠ 15) (f : Fail) (q : BitVec 8) :
    (s.takeTrap f).semVal q = ((s.trapStart f).repStop s.cur).semVal q := by
  rw [takeTrap_eq, if_neg h, parkTrap_semVal]

end Sys2Proof.Machine
end

section
/-!
Traps, the trap queue, WAIT and SIG.
-/

namespace Sys2Proof.Machine

/-! ### SIG -/

theorem retired_advance_sem (s : State) : s.retired.advance.sem = s.sem := by
  unfold State.retired State.advance
  rw [peerEnd_eq, leaveQueue_eq]; rfl
theorem retired_advance_heldSigs (s : State) : s.retired.advance.heldSigs = s.heldSigs := by
  unfold State.retired State.advance
  rw [peerEnd_eq, leaveQueue_eq]; rfl
theorem handed_cur (s : State) : s.retired.advance.cur = s.cur := (handed_ends s).1
theorem retired_advance_slotDone (s : State) : s.retired.advance.slotDone s.retired.advance.cur = s.slotDone s.cur := by
  have h : OnlyEnds s s.retired.advance := (retired_only s).trans (advance_only _)
  have hfib : (s.retired.advance.slot s.cur).fib = (s.slot s.cur).fib := ((handed_ends s).2 s.cur).fib
  rw [handed_cur]
  unfold State.slotDone State.slotLogs State.slotUps
  rw [hfib, h]
/-- An instruction that retires has no units left that its WAIT took. -/
theorem retired_advance_taken (s : State) : s.retired.advance.sl.taken = none := by
  simp only [State.retired, State.advance, modCur_sl]

theorem post_slot (s : State) (a : Act) (i : SlotId) : (s.post a).slot i = s.slot i := rfl
theorem slot_congr {s t : State} (h : t.slots = s.slots) (i : SlotId) : t.slot i = s.slot i := by simp only [State.slot, h]
theorem joinQueue_slot (s : State) (w : Waiter) (i : SlotId) : (s.joinQueue w).slot i = s.slot i :=
  slot_congr (by rw [joinQueue_eq]) i
/-- A record that enters the queue wakes slot 15 only. -/
theorem enqueueRec_slot (s : State) (p : Option SlotId) (r : TrapRec) {i : SlotId} (hi : i ≠ 15) :
    (s.enqueueRec p r).slot i = s.slot i := by
  unfold State.enqueueRec State.wakeSup
  split
  · exact modSlot_other _ 15 i _ hi
  split
  · rfl
  · rfl
/-- The slot that a trap parks. -/
theorem parkTrap_slot (s : State) {i : SlotId} (hi : i ≠ 15) (f : Fail) (pc : Word) (w : BitVec 96) :
    (s.parkTrap i f pc w).slot i = { (s.repStop i).slot i with
      status := .parked .trap, trapRec := some (mkRec (s.repStop i) i f pc (w.extractLsb' 0 64) true)
      trapWord := w.extractLsb' 64 32, begun := false, held := none, taken := none, fresh := false } := by
  unfold State.parkTrap
  dsimp only
  rw [enqueueRec_slot _ _ _ hi, leaveQueue_slot, modSlot_slot]
theorem takeTrap_parks {s : State} (h : s.cur ≠ 15) (f : Fail) : (s.takeTrap f).sl.status = .parked .trap := by
  have hc := (takeTrap_ends s f).1
  show ((s.takeTrap f).slot (s.takeTrap f).cur).status = _
  rw [hc, takeTrap_eq, if_neg h, parkTrap_slot _ h]
/-- A trap gives back the units that its instruction, and then its repetition block, have taken; no semaphore falls. -/
theorem takeTrap_semVal_full {s : State} (h : s.cur ≠ 15) (f : Fail) {q : BitVec 8} (ht : s.sl.taken = none)
    (hq : s.semVal q = 65535) : (s.takeTrap f).semVal q = 65535 := by
  have hs : (s.trapStart f).semVal q = 65535 := by
    rw [semVal_congr (trapStart_sem s f), restoreWait_semVal_none ht, hq]
  rw [takeTrap_semVal h]
  cases hr : (((s.trapStart f).slot s.cur).rep.bind (·.taken)) with
  | none => rw [repStop_semVal_none hr, hs]
  | some mk =>
    obtain ⟨m, k⟩ := mk
    rw [repStop_semVal_some hr]
    split
    next e => rw [← e, hs]; omega
    next => exact hs

theorem signal_held {s : State} {h : Hdr} (hi : h.sigInc ≠ 0) (hd : s.slotDone s.cur = false) :
    s.signal h = s.holdSig h s.sl.pc false := by
  unfold State.signal
  rw [if_neg hi, if_pos (by rw [hd]; rfl)]
theorem signal_adds {s : State} {h : Hdr} (hi : h.sigInc ≠ 0) (hd : s.slotDone s.cur = true)
    (hk : s.semVal h.sigSm + h.sigInc.toNat ≤ 65535) :
    s.signal h = s.semSet h.sigSm (min (s.semVal h.sigSm + h.sigInc.toNat) 65535) := by
  unfold State.signal
  rw [if_neg hi, if_neg (by rw [hd]; decide)]
  simp [State.semAdd, Nat.not_lt.mpr hk]
theorem signal_overflows {s : State} {h : Hdr} (hi : h.sigInc ≠ 0) (hd : s.slotDone s.cur = true)
    (hk : 65535 < s.semVal h.sigSm + h.sigInc.toNat) :
    s.signal h = (s.semSet h.sigSm (min (s.semVal h.sigSm + h.sigInc.toNat) 65535)).takeTrap ⟨cSEMO, 4, h.sigSm.toNat⟩ := by
  unfold State.signal
  rw [if_neg hi, if_neg (by rw [hd]; decide)]
  simp [State.semAdd, hk]

theorem SlotKept.pc {a b : Slot} (h : SlotKept a b) : b.pc = a.pc := by simp only [Slot.pc, h.pcc]
theorem SlotKept.regs {a b : Slot} (h : SlotKept a b) : SameRegs b a := h.ends.regs

/-! ### The record of a trap -/

/-- PARKED stands at bit 21 of a record's head. -/
theorem parked_bit {a r : Nat} (h : r < 2 ^ 21) : (a * 2 ^ 32 + 2 ^ 21 + r) / 2 ^ 21 % 2 = 1 := by omega
/-- The words of a record's head come apart (R358). -/
theorem recHead_fields (s : State) (i : SlotId) (c a : Nat) :
    (recHead s i c a true).toNat % 64 = c % 64 ∧ (recHead s i c a true).toNat / 2 ^ 6 % 16 = i.val ∧
      (recHead s i c a true).toNat / 2 ^ 10 % 8 = s.core.val ∧ (recHead s i c a true).toNat / 2 ^ 13 % 64 = s.cluster.val ∧
      (recHead s i c a true).toNat / 2 ^ 21 % 2 = 1 ∧ (recHead s i c a true).toNat / 2 ^ 32 = a % 2 ^ 32 := by
  have h1 := s.cluster.isLt
  have h2 := s.core.isLt
  have h3 := i.isLt
  have h4 := Nat.mod_lt a (show 2 ^ 32 > 0 by decide)
  have h5 := Nat.mod_lt c (show 64 > 0 by decide)
  simp only [recHead, BitVec.toNat_ofNat, if_true]
  rw [Nat.mod_eq_of_lt (b := 2 ^ 64) (by omega)]
  generalize a % 2 ^ 32 = a', c % 64 = c' at h4 h5 ⊢
  have h6 : s.cluster.val / 16 * 2 ^ 19 + s.cluster.val * 2 ^ 13 + s.core.val * 2 ^ 10 + i.val * 2 ^ 6 + c' < 2 ^ 21 := by omega
  refine ⟨by omega, by omega, by omega, by omega, ?_, by omega⟩
  have h7 := parked_bit (a := a') h6
  simp only [← Nat.add_assoc] at h7
  exact h7
theorem recHead_unparked (s : State) (i : SlotId) (c a : Nat) :
    (recHead s i c a false).toNat % 64 = c % 64 ∧ (recHead s i c a false).toNat / 2 ^ 32 = a % 2 ^ 32 := by
  have h1 := s.cluster.isLt
  have h2 := s.core.isLt
  have h3 := i.isLt
  have h4 := Nat.mod_lt a (show 2 ^ 32 > 0 by decide)
  have h5 := Nat.mod_lt c (show 64 > 0 by decide)
  simp only [recHead, BitVec.toNat_ofNat, Bool.false_eq_true, if_false]
  rw [Nat.mod_eq_of_lt (b := 2 ^ 64) (by omega)]
  generalize a % 2 ^ 32 = a', c % 64 = c' at h4 h5 ⊢
  constructor <;> omega

theorem enqueueRec_queued {s : State} (h : s.trapQ.length < 16) (hh : s.hold = []) (i : Option SlotId) (r : TrapRec) :
    (s.enqueueRec i r).trapQ = s.trapQ ++ [r] := by
  simp only [State.enqueueRec, h, hh, List.isEmpty_nil, and_self, if_true]
  rfl
/-- A parked slot's record enters the queue where there is room and nothing is held (R359). -/
theorem parkTrap_queued {s : State} (h : s.trapQ.length < 16) (hh : s.hold = []) (i : SlotId) (f : Fail) (pc : Word)
    (w : BitVec 96) :
    (s.parkTrap i f pc w).trapQ = s.trapQ ++ [mkRec (s.repStop i) i f pc (w.extractLsb' 0 64) true] := by
  have hr := repStop_undoes s i
  unfold State.parkTrap
  dsimp only
  rw [leaveQueue_eq, enqueueRec_queued]
  · show (s.repStop i).trapQ ++ _ = _
    rw [hr]
  · show (s.repStop i).trapQ.length < 16
    rw [hr]; exact h
  · show (s.repStop i).hold = []
    rw [hr]; exact hh

/-- Slot 15 with nothing begun, as a trap leaves it. -/
def Slot.dropped (sl : Slot) : Slot :=
  { sl with
    begun := false, held := none, taken := none
    status := match sl.status with
      | .waiting _ _ => .ready
      | st => st }
theorem dropped_undoes (s : State) : OnlyUndoes s ((s.leaveQueue (.slot 15)).modSlot 15 Slot.dropped) := by
  rw [leaveQueue_eq]; rfl
theorem supTrap_eq (s u : State) (f : Fail) (pc : Word) (w : BitVec 96)
    (h : u = (s.leaveQueue (.slot 15)).modSlot 15 Slot.dropped) :
    s.supTrap f pc w = if u.frec[0] != 0 then ({ u with supHalted := true } : State).notice .doubleFault
      else ({ u with frec := #v[(mkRec u 15 f pc (w.extractLsb' 0 64) false).w0, pc, BitVec.ofNat 64 f.addr,
        w.extractLsb' 0 64] } : State).modSlot 15 fun sl => { sl with pcc := capMoveCursor sl.pcc u.svec } := by
  subst h; rfl
theorem supTrap_enters {s : State} (h : s.frec[0] = 0) (hc : s.cur = 15) (f : Fail) (pc : Word) (w : BitVec 96) :
    capCursor (s.supTrap f pc w).sl.pcc = s.svec ∧ (s.supTrap f pc w).supHalted = s.supHalted ∧
      (s.supTrap f pc w).frec = #v[recHead s 15 f.cause f.aux false, pc, BitVec.ofNat 64 f.addr, w.extractLsb' 0 64] := by
  have hu := dropped_undoes s
  rw [supTrap_eq s _ f pc w rfl]
  generalize (s.leaveQueue (.slot 15)).modSlot 15 Slot.dropped = u at hu
  have h0 : (u.frec[0] != 0) = false := by rw [hu, bne_eq_false_iff_eq]; exact h
  rw [h0]
  refine ⟨?_, by rw [hu]; rfl, by rw [hu]; rfl⟩
  have h15 : u.cur = 15 := by rw [hu]; exact hc
  show capCursor (State.slot _ u.cur).pcc = _
  rw [h15, if_neg Bool.false_ne_true, modSlot_slot, capCursor_capMoveCursor, hu]
theorem supTrap_halts {s : State} (h : s.frec[0] ≠ 0) (f : Fail) (pc : Word) (w : BitVec 96) :
    (s.supTrap f pc w).supHalted = true ∧ (s.supTrap f pc w).frec = s.frec := by
  have hu := dropped_undoes s
  rw [supTrap_eq s _ f pc w rfl]
  generalize (s.leaveQueue (.slot 15)).modSlot 15 Slot.dropped = u at hu
  have h0 : (u.frec[0] != 0) = true := by rw [hu, bne_iff_ne]; exact h
  rw [h0, if_pos rfl]
  exact ⟨rfl, by rw [hu]; rfl⟩

/-! ### The trap queue -/

/-- Held records move into the queue in their order, up to sixteen (R359). -/
theorem drainHold_spec (s : State) (hs : List (Option SlotId × TrapRec)) (h : s.hold = hs) :
    (s.drainHold hs).trapQ ++ (s.drainHold hs).hold.map (·.2) = s.trapQ ++ s.hold.map (·.2) ∧
      (s.trapQ.length ≤ 16 → (s.drainHold hs).trapQ.length ≤ 16) ∧
      ((s.drainHold hs).hold = [] ∨ 16 ≤ (s.drainHold hs).trapQ.length) := by
  induction hs generalizing s with
  | nil => exact ⟨rfl, id, .inl h⟩
  | cons x xs ih =>
    unfold State.drainHold
    split
    next hl =>
      obtain ⟨h1, h2, h3⟩ := ih { s.wakeSup with trapQ := s.trapQ ++ [x.2], hold := xs } rfl
      refine ⟨h1.trans ?_, fun _ => h2 ?_, h3⟩
      · simp [h]
      · simp only [List.length_append, List.length_cons, List.length_nil]; omega
    next hl => exact ⟨rfl, id, .inr (by omega)⟩

/-! ### sret -/

/-- The end of an instruction without SIG leaves every other slot. -/
theorem retired_advance_other (s : State) {i : SlotId} (h : i ≠ s.cur) : (s.retired.advance).slot i = s.slot i := by
  have hl : ∀ j, (s.leaveQueue (.slot s.cur)).slot j = s.slot j := fun j => by rw [leaveQueue_eq]; rfl
  have hp : (s.leaveQueue (.slot s.cur)).peerEnd.slot i = s.slot i := by
    unfold State.peerEnd
    split
    · exact hl i
    · have hc : (s.leaveQueue (.slot s.cur)).cur = s.cur := by rw [leaveQueue_eq]
      unfold State.modCur
      rw [modSlot_other _ _ _ _ (by rw [hc]; exact h)]; exact hl i
  have hc : (s.leaveQueue (.slot s.cur)).peerEnd.cur = s.cur := ((leaveQueue_kept s _).kept_trans (peerEnd_kept _)).1
  have hr : s.retired.cur = s.cur := (retired_kept s).1
  unfold State.advance State.modCur
  rw [modSlot_other _ _ _ _ (by rw [hr]; exact h)]
  unfold State.retired State.modCur
  rw [modSlot_other _ _ _ _ (by rw [hc]; exact h), hp]

theorem withdraw_slots (s : State) (i : SlotId) : (s.withdraw i).slots = s.slots := by
  unfold State.withdraw
  split <;> rfl
theorem withdraw_cur (s : State) (i : SlotId) : (s.withdraw i).cur = s.cur := by
  unfold State.withdraw
  split <;> rfl
theorem resume_slot (s : State) (i : SlotId) (f : Slot → Slot) :
    (s.resume i f).slot i = { (f (s.slot i)).unparked with
      status := .ready, begun := false, held := none, taken := none
      rep := (f (s.slot i)).rep.map fun r => { r with trapped := false, passed := false } } := by
  have hw : (s.withdraw i).slot i = s.slot i := by simp only [State.slot, withdraw_slots]
  unfold State.resume
  dsimp only
  split
  · rw [post_slot, modSlot_slot, hw]
  · rw [modSlot_slot, hw]
theorem resume_other (s : State) {i j : SlotId} (h : j ≠ i) (f : Slot → Slot) : (s.resume i f).slot j = s.slot j := by
  have hw : (s.withdraw i).slot j = s.slot j := by simp only [State.slot, withdraw_slots]
  unfold State.resume
  dsimp only
  split
  · rw [post_slot, modSlot_other _ _ _ _ h, hw]
  · rw [modSlot_other _ _ _ _ h, hw]
theorem resume_cur (s : State) (i : SlotId) (f : Slot → Slot) : (s.resume i f).cur = s.cur := by
  unfold State.resume
  dsimp only
  split
  · exact withdraw_cur s i
  · exact withdraw_cur s i

/-- sret of a slot that a trap has parked resumes it (R366). -/
theorem sretBody_resumes {s : State} {o : ROp} {i : SlotId} (f : Slot → Slot) (hx : (s.rx o.oa).toNat < 15)
    (hi : i = Fin.ofNat 16 (s.rx o.oa).toNat) (hp : (s.slot i).stoppedHere = true) (hw : (s.slot i).wsecHeld = false)
    (hr : releaseWait s 1 = .ok ()) : sretBody o f s = .ok (s.resume i f) := by
  subst hi
  simp only [sretBody, targetSlot, decide_eq_true hx, guardR_true, bind_ok, hp, hw, hr, Bool.not_false, Bool.and_self]

/-- sret past an instruction: of the repetition block where that trapped, else of the slot. -/
def Slot.skipped (sl : Slot) : Slot :=
  if sl.repTrapped then { sl with rep := sl.rep.map fun r => { r with skip := !r.passed } }
  else { sl with startChecks := false, pcc := capMoveCursor sl.pcc (sl.pc + 12), wake := 0 }
theorem skipped_slot {sl : Slot} (h : sl.rep = none) :
    sl.skipped = { sl with startChecks := false, pcc := capMoveCursor sl.pcc (sl.pc + 12), wake := 0 } := by
  simp [Slot.skipped, Slot.repTrapped, h]

/-- What sret leaves where the slot has no repetition block. -/
theorem resume_ended {s : State} {o : ROp} {i : SlotId} (f : Slot → Slot) (hs : s.cur = 15) (hi : i ≠ 15)
    (hz : o.hdr.sigInc = 0) (hf : SameRegs (f (s.slot i)) (s.slot i)) (hm : (f (s.slot i)).fmode = (s.slot i).fmode) :
    ((ended o.hdr (s.resume i f)).slot i).status = .ready ∧
      ((ended o.hdr (s.resume i f)).slot i).pcc = (f (s.slot i)).pcc ∧
      SameRegs ((ended o.hdr (s.resume i f)).slot i) (s.slot i) ∧
      ((ended o.hdr (s.resume i f)).slot i).fmode = (s.slot i).fmode ∧
      (ended o.hdr (s.resume i f)).sl.pcc = capMoveCursor s.sl.pcc (s.sl.pc + 12) := by
  have hc : i ≠ (s.resume i f).cur := by rw [resume_cur, hs]; exact hi
  have hsl : (s.resume i f).sl = s.sl := by
    simp only [State.sl, resume_cur]
    exact resume_other s (by rw [hs]; exact hi.symm) f
  rw [ended_zero _ _ hz, retired_advance_other _ hc, resume_slot]
  refine ⟨rfl, rfl, SameRegs.trans (b := f (s.slot i)) (SameRegs.of_files rfl rfl rfl rfl rfl) hf, hm, ?_⟩
  have hcur := (retired_kept (s.resume i f)).1
  have hret := (retired_kept (s.resume i f)).sl
  unfold State.advance
  rw [modCur_sl, hret.pcc, hret.pc, hsl]

/-! ### WAIT -/

theorem modCur_slot (s : State) (f : Slot → Slot) : (s.modCur f).slot s.cur = f s.sl := modSlot_slot s s.cur f

theorem semOut_prot {sl : Slot} {ns : List (BitVec 8)} {f : Fail} (h : semOut sl ns = some f) : f.cause = cPROT ∧ f.aux = 13 := by
  unfold semOut at h
  rw [Option.map_eq_some_iff] at h
  obtain ⟨n, -, rfl⟩ := h
  exact ⟨rfl, rfl⟩

/-- A step whose instruction has not begun: what follows its guards. -/
theorem step_of_comes {s w : State} {n : SlotId} {i : Instr} {opc : Nat} {b : Body} (hc : Comes s n i opc b w)
    (hn : w.sl.begun = false) : step s = match passGuards (issuesAt opc b w) opc b with
      | .ok z => (match z.readsBad i with
        | none => settled (exec i z)
        | some f => .next (z.takeTrap f))
      | .error z => .next z := by
  simp only [step, nextTurn_of_comes hc, hn, Bool.false_eq_true, if_false]
  cases passGuards (issuesAt opc b w) opc b with
  | error z => rfl
  | ok z =>
    simp only [regsSound]
    cases z.readsBad i <;> rfl

theorem passGuards_semOut {opc : Nat} {b : Body} {y : State} {f : Fail} (hb : y.sl.guardBad (bodyHdr b) = none)
    (hg : y.sl.guards (bodyHdr b) = true) (hf : semOut y.sl (semNames opc b) = some f) :
    passGuards y opc b = .error (y.takeTrap f) := by
  simp [passGuards, hb, hg, hf]

theorem passGuards_waits {i : Instr} {opc : Nat} {b : Body} {y : State} (ha : Admitted i opc b y)
    (hg : y.sl.guards (bodyHdr b) = true) (ht : (bodyWait b).thr ≠ 0)
    (hw : y.waitSem (.slot y.cur) (bodyWait b).sm (bodyWait b).thr.toNat = none) :
    passGuards y opc b = .error ((y.modCur fun sl => { sl with status := .waiting .sem (bodyWait b).sm.toNat }).joinQueue
      ⟨.slot y.cur, .sem, (bodyWait b).sm.toNat, (bodyWait b).thr.toNat⟩) := by
  have ht' : ¬ (bodyWait b).thr = 0 := ht
  simp only [passGuards, ha.guards, hg, ha.window, ha.sems, hw, Bool.not_true, Bool.false_eq_true, if_false,
    Option.orElse_none, ht']
  rfl

theorem passGuards_takes {i : Instr} {opc : Nat} {b : Body} {y z : State} (ha : Admitted i opc b y)
    (hg : y.sl.guards (bodyHdr b) = true) (ht : (bodyWait b).thr ≠ 0)
    (hw : y.waitSem (.slot y.cur) (bodyWait b).sm (bodyWait b).thr.toNat = some z) :
    passGuards y opc b = .ok (z.modCur fun sl =>
      { sl with begun := true, taken := some ((bodyWait b).sm, (bodyWait b).thr.toNat) }) := by
  have ht' : ¬ (bodyWait b).thr = 0 := ht
  simp only [passGuards, ha.guards, hg, ha.window, ha.sems, hw, Bool.not_true, Bool.false_eq_true, if_false,
    Option.orElse_none, ht']

theorem waitSem_none {s : State} {who : Who} {m : BitVec 8} {k : Nat}
    (h : s.semVal m < k ∨ s.aheadOf who .sem m.toNat = true) : s.waitSem who m k = none := by
  unfold State.waitSem
  rcases h with h | h
  · have : decide ((s.sem[m.toNat]'m.isLt).toNat < k) = true := decide_eq_true h
    simp only [this, Bool.or_true, if_true]
  · simp only [h, Bool.true_or, if_true]
/-- The whole threshold is taken, in one step (R33). -/
theorem waitSem_takes {s z : State} {who : Who} {m : BitVec 8} {k : Nat} (h : s.waitSem who m k = some z) :
    z.semVal m = s.semVal m - k := by
  unfold State.waitSem at h
  dsimp only at h
  split at h
  · cases h
  · cases h
    rw [leaveQueue_eq]
    have := semVal_lt s m
    simp only [State.semVal, Vector.getElem_set_self, BitVec.toNat_ofNat] at this ⊢
    exact Nat.mod_eq_of_lt (by omega)

end Sys2Proof.Machine

section
open Sys2Proof
open Sys2Proof.Machine

/-- Settles O35: the SIG comes after the instruction has retired; an overflow leaves 65,535 and parks the slot. -/
theorem signalFollowsTheInstruction : Obligations.SignalFollowsTheInstruction := by
  unfold Obligations.SignalFollowsTheInstruction
  rintro s t h hi rfl
  have hd := retired_advance_slotDone s
  have hsem : ∀ q, s.retired.advance.semVal q = s.semVal q := semVal_congr (retired_advance_sem s)
  have hpc := retired_advance_pc s
  unfold ended
  refine ⟨fun hdone hk => ?_, fun hdone hk hc => ?_, fun hdone => ?_⟩
  · rw [signal_adds hi (hd.trans hdone) (by rw [hsem]; exact hk)]
    refine ⟨?_, (semSet_kept _ _ _).sl.pc.trans hpc, fun m hm => ?_⟩
    · rw [semSet_giveBack, if_pos rfl, hsem, Nat.min_eq_left hk]
    · rw [semSet_giveBack, if_neg hm, hsem]
  · rw [signal_overflows hi (hd.trans hdone) (by rw [hsem]; exact hk)]
    have hkept := semSet_kept s.retired.advance h.sigSm (min (s.retired.advance.semVal h.sigSm + h.sigInc.toNat) 65535)
    have hc' : (s.retired.advance.semSet h.sigSm (min (s.retired.advance.semVal h.sigSm + h.sigInc.toNat) 65535)).cur ≠ 15 := by
      rw [hkept.1, handed_cur]; exact hc
    refine ⟨takeTrap_parks hc' _, ((takeTrap_kept hc' _).sl.pc.trans hkept.sl.pc).trans hpc, takeTrap_semVal_full hc' _ ?_ ?_⟩
    · have e : (s.retired.advance.semSet h.sigSm (min (s.retired.advance.semVal h.sigSm + h.sigInc.toNat) 65535)).sl =
          s.retired.advance.sl := by rw [semSet_eq]; rfl
      rw [e, retired_advance_taken]
    · rw [semSet_giveBack, if_pos rfl, hsem]; omega
  · rw [signal_held hi (hd.trans hdone)]
    exact ⟨retired_advance_sem s, hpc, _, congrArg (· ++ _) (retired_advance_heldSigs s), rfl, rfl⟩

/-- Settles O26: the trap undoes what its instruction had begun, makes the record, and parks the slot or enters at SVEC. -/
theorem takingATrap : Obligations.TakingATrap := by
  unfold Obligations.TakingATrap
  refine ⟨?_, ?_⟩
  · rintro s t f hc rfl
    have hkept := (takeTrap_kept hc f).sl
    have hu := (trapStart_undoes s f).trans (repStop_undoes (s.trapStart f) s.cur)
    have hs := trapStart_undoes s f
    obtain ⟨h1, h2, h3, h4, h5, h6⟩ := recHead_fields ((s.trapStart f).repStop s.cur) s.cur f.cause f.aux
    refine ⟨takeTrap_parks hc f, hkept.pcc, hkept.regs.x, mkRec ((s.trapStart f).repStop s.cur) s.cur f s.sl.pc
      (s.word.extractLsb' 0 64) true, ?_, h1, h2, ?_, ?_, h5, h6, rfl, rfl, rfl, fun hl hh => ?_⟩
    · show ((s.takeTrap f).slot (s.takeTrap f).cur).trapRec = _
      rw [(takeTrap_ends s f).1, takeTrap_eq, if_neg hc, parkTrap_slot _ hc]
    · refine h3.trans ?_; rw [hu]
    · refine h4.trans ?_; rw [hu]
    · rw [takeTrap_eq, if_neg hc, parkTrap_queued (by rw [hs]; exact hl) (by rw [hs]; exact hh), hs]
  · rintro s t f hc rfl
    have hs := trapStart_undoes s f
    have hcur : (s.trapStart f).cur = 15 := (trapStart_kept s f).1.trans hc
    have hfrec : (s.trapStart f).frec = s.frec := by rw [hs]
    rw [takeTrap_eq, if_pos hc]
    refine ⟨fun h => ?_, fun h => ?_⟩
    · obtain ⟨h1, h2, hr⟩ := supTrap_enters (s := s.trapStart f) (by rw [hfrec]; exact h) hcur f s.sl.pc s.word
      obtain ⟨h3, h4⟩ := recHead_unparked (s.trapStart f) 15 f.cause f.aux
      simp only [hr]
      exact ⟨h1.trans (by rw [hs]), rfl, rfl, rfl, h3, h4, h2.trans (by rw [hs])⟩
    · obtain ⟨h1, h2⟩ := supTrap_halts (s := s.trapStart f) (by rw [hfrec]; exact h) f s.sl.pc s.word
      exact ⟨h1, h2.trans hfrec⟩

/-- Settles O28, by induction on the records held. -/
theorem trapQueueKeepsItsOrder : Obligations.TrapQueueKeepsItsOrder := by
  unfold Obligations.TrapQueueKeepsItsOrder
  intro s t ha he
  have ht : t = s.drainHold s.hold := by
    have : execTrapRecordEnqueue s = .next t := he
    simp only [execTrapRecordEnqueue, ha] at this
    cases this; rfl
  subst ht
  exact drainHold_spec s s.hold rfl

/-- Settles O27: each form resumes the slot with its own pc, and nothing else of it changes. -/
theorem returnFromTrapResumesTheSlot : Obligations.ReturnFromTrapResumesTheSlot := by
  unfold Obligations.ReturnFromTrapResumesTheSlot
  intro s o i hx hi hc hz hst hw hrep hr p hp
  have hn : i ≠ 15 := by
    subst hi
    intro e
    have := congrArg Fin.val e
    simp only [Fin.ofNat, Nat.mod_eq_of_lt (show (s.rx o.oa).toNat < 16 by omega)] at this
    change (s.rx o.oa).toNat = 15 at this
    omega
  have hp' : (s.slot i).stoppedHere = true := by simp [Slot.stoppedHere, hst]
  simp only [List.mem_cons, List.not_mem_nil, or_false] at hp
  rcases hp with rfl | rfl | rfl
  · exact ⟨_, finish_ok (sretBody_resumes id hx hi hp' hw hr), resume_ended id hc hn hz (SameRegs.refl _) rfl⟩
  · have hsk := skipped_slot hrep
    obtain ⟨h1, h2, h3⟩ := resume_ended (o := o) Slot.skipped hc hn hz (by rw [hsk]; exact .of_files rfl rfl rfl rfl rfl)
      (by rw [hsk])
    exact ⟨_, finish_ok (sretBody_resumes Slot.skipped hx hi hp' hw hr), h1, h2.trans (by rw [hsk]), h3⟩
  · refine ⟨_, finish_ok (sretBody_resumes _ hx hi hp' hw hr), ?_⟩
    exact resume_ended _ hc hn hz (SameRegs.of_files rfl rfl rfl rfl rfl) rfl

/-- Settles O33: the semaphore is tested and lowered in one step, after the window; a trap adds what was taken. -/
theorem waitTakesTheThresholdAtOnce : Obligations.WaitTakesTheThresholdAtOnce := by
  unfold Obligations.WaitTakesTheThresholdAtOnce
  refine ⟨?_, ?_⟩
  · rintro s n i opc b w y hc hn rfl hb hg
    refine ⟨fun f hf => ?_, fun ha ht hy => ⟨fun hw => ?_, fun z hz => ⟨waitSem_takes hz, ?_⟩⟩⟩
    · obtain ⟨h1, h2⟩ := semOut_prot hf
      refine ⟨h1, h2, ?_⟩
      rw [step_of_comes hc hn, passGuards_semOut hb hg hf]
    · subst hy
      refine ⟨_, by rw [step_of_comes hc hn, passGuards_waits ha hg ht (waitSem_none hw)], ?_⟩
      refine ⟨by rw [joinQueue_eq]; rfl, ?_, ?_⟩
      · rw [joinQueue_slot]; rw [modCur_slot]
      · rw [joinQueue_slot]; rw [modCur_slot]
    · rintro z' rfl hr
      subst hy
      rw [step_of_comes hc hn, passGuards_takes ha hg ht hz]
      simp only [hr]
  · intro s f sm k ht hr hc
    have hrep : ((s.trapStart f).slot s.cur).rep.bind (·.taken) = none := by rw [trapStart_rep]; exact hr
    rw [takeTrap_semVal hc, repStop_semVal_none hrep, semVal_congr (trapStart_sem s f), restoreWait_semVal_some ht, if_pos rfl]

end
end

section
/-!
The turn of a slot and of an act (R28 to R31, R49), the registers, the reset state and words of the spec.
-/

namespace Sys2Proof.Machine

/-! ### What a slot's turn comes to -/

theorem step_of_fetches {s w : State} {n : SlotId} {bs : List Byte} (h : Fetches s n bs w) :
    step s = match readyFor w bs with
      | .error t => .next t
      | .ok (i, t) => settled (exec i t) := by
  rw [step, nextTurn_of_fetches h] <;> rfl
/-- A word that is no instruction traps before anything else (R49). -/
theorem readyFor_illegal {s w : State} {n : SlotId} {bs : List Byte} {k : Nat} (h : Fetches s n bs w)
    (hd : decodeBytes bs = .error k) : readyFor w bs = .error (w.takeTrap ⟨cILL, k, 0⟩) := by
  simp only [readyFor, h.started, hd]
/-- An instruction that has begun goes on (R31). -/
theorem step_of_begun {s w : State} {n : SlotId} {i : Instr} {opc : Nat} {b : Body} (hc : Comes s n i opc b w)
    (hb : w.sl.begun = true) (hr : w.filterAway.readsBad i = none) : step s = settled (exec i w.filterAway) := by
  simp only [step, nextTurn_of_comes hc, hb, if_true, regsSound, hr]
theorem passGuards_passedOver {opc : Nat} {b : Body} {y : State} (hb : y.sl.guardBad (bodyHdr b) = none)
    (hg : y.sl.guards (bodyHdr b) = false) : passGuards y opc b = .error y.passOver := by
  simp only [passGuards, hb, hg, Bool.not_false, if_true]

/-! ### The turn of an act -/

section
variable {s : State} {a : Act} {rest : List Act}

theorem step_of_tripped (ha : s.agenda = a :: rest) (ht : s.tripped = true) (hc : a ≠ .coldReset) :
    step s = .next { s with agenda := rest } := by
  have hr : actRevives a = false := beq_false_of_ne hc
  simp only [step, nextTurn, ha, ht, hr, Bool.not_false, Bool.and_self, if_true]

/-- Where no trip forbids it, an act that goes first is performed. -/
theorem step_of_actFirst (ha : s.agenda = a :: rest) (ht : s.tripped = false ∨ a = .coldReset) (hf : s.actFirst a = true) :
    step s = settled (exec a.instr (({ s with freeCtr := s.freeCtr + 1 } : State).onAct a rest)) := by
  have hr : (s.tripped && !actRevives a) = false := by
    rcases ht with h | rfl
    · rw [h, Bool.false_and]
    · simp [actRevives]
  simp only [step, nextTurn, ha, hr, hf, Bool.false_eq_true, if_false, if_true]

/-- The work of a unit beside the slots comes after the slot that has the turn, where the free choice says so. -/
theorem nextTurn_of_slotFirst {n : SlotId} (ha : s.agenda = a :: rest) (ht : s.tripped = false ∨ a = .coldReset)
    (hn : s.nextSlot = some n) (hf : s.actFirst a = false) :
    nextTurn s = turn (({ s with freeCtr := s.freeCtr + 1 } : State).onTurn n) := by
  have hr : (s.tripped && !actRevives a) = false := by
    rcases ht with h | rfl
    · rw [h, Bool.false_and]
    · simp [actRevives]
  simp only [nextTurn, ha, hr, hf, hn, Bool.false_eq_true, if_false]

end

/-! ### Registers -/

theorem ridx_eq {n : Nat} [NeZero n] {r q : BitVec 6} (hr : r.toNat < n) (hq : q.toNat < n) : ridx n r = ridx n q ↔ r = q := by
  constructor
  · intro h
    have := congrArg Fin.val h
    simp only [ridx, Fin.ofNat, Nat.mod_eq_of_lt hr, Nat.mod_eq_of_lt hq] at this
    exact BitVec.eq_of_toNat_eq this
  · rintro rfl; rfl
theorem ridx_eq_zero {n : Nat} [NeZero n] {r : BitVec 6} (hr : r.toNat < n) : ridx n r = 0 ↔ r = 0 :=
  ridx_eq (r := r) (q := 0) hr (NeZero.pos n)

theorem wx_rx (sl : Slot) {r q : BitVec 6} (v : Word) (hr : r.toNat < 32) (hq : q.toNat < 32) :
    (sl.wx r v).rx q = if q = 0 then 0 else if q = r then v else sl.rx q := by
  have h0 := ridx_eq_zero (n := 32) hq
  have hrq := ridx_eq (n := 32) hq hr
  unfold Slot.rx Slot.wx
  by_cases hq0 : q = 0
  · rw [if_pos (h0.mpr hq0), if_pos hq0]
  rw [if_neg (h0.not.mpr hq0), if_neg hq0, if_neg (h0.not.mpr hq0)]
  by_cases hr0 : ridx 32 r = 0
  · have : q ≠ r := fun h => hq0 (h0.mp (by rw [h]; exact hr0))
    rw [if_pos hr0, if_neg this]
  rw [if_neg hr0]
  by_cases e : q = r
  · subst e; rw [if_pos rfl]; exact Vector.getElem_set_self _
  · rw [if_neg e]
    exact Vector.getElem_set_ne (ridx 32 r).isLt (ridx 32 q).isLt fun h => e (hrq.mp (Fin.ext h.symm))

theorem wc_rc (sl : Slot) {r q : BitVec 6} (v : Cap) (hr : r.toNat < 32) (hq : q.toNat < 32) :
    (sl.wc r v).rc q = if q = 0 then Cap.null else if q = r ∧ r ≠ 29 then v else sl.rc q := by
  have h0 := ridx_eq_zero (n := 32) hq
  have hrq := ridx_eq (n := 32) hq hr
  have h29 : ridx 32 r = 29 ↔ r = 29 := ridx_eq (n := 32) (q := 29) hr (by decide)
  unfold Slot.rc Slot.wc
  by_cases hq0 : q = 0
  · rw [if_pos (h0.mpr hq0), if_pos hq0]
  rw [if_neg (h0.not.mpr hq0), if_neg hq0, if_neg (h0.not.mpr hq0)]
  by_cases hr0 : ridx 32 r = 0 ∨ ridx 32 r = 29
  · have : ¬ (q = r ∧ r ≠ 29) := by
      rintro ⟨rfl, h⟩
      exact hr0.elim (fun e => hq0 (h0.mp e)) fun e => h (h29.mp e)
    rw [if_pos hr0, if_neg this]
  rw [if_neg hr0]
  have hr29 : r ≠ 29 := fun h => hr0 (.inr (h29.mpr h))
  by_cases e : q = r
  · subst e; rw [if_pos ⟨rfl, hr29⟩]; exact Vector.getElem_set_self _
  · rw [if_neg fun h => e h.1]
    exact Vector.getElem_set_ne (ridx 32 r).isLt (ridx 32 q).isLt fun h => e (hrq.mp (Fin.ext h.symm))

theorem wk_rk (sl : Slot) {r q : BitVec 6} (v : Gran) (hr : r.toNat < 8) (hq : q.toNat < 8) :
    (sl.wk r v).rk q = if q = 0 then BitVec.allOnes 128 else if q = r then v else sl.rk q := by
  have h0 := ridx_eq_zero (n := 8) hq
  have hrq := ridx_eq (n := 8) hq hr
  unfold Slot.rk Slot.wk
  by_cases hq0 : q = 0
  · rw [if_pos (h0.mpr hq0), if_pos hq0]
  rw [if_neg (h0.not.mpr hq0), if_neg hq0, if_neg (h0.not.mpr hq0)]
  by_cases hr0 : ridx 8 r = 0
  · have : q ≠ r := fun h => hq0 (h0.mp (by rw [h]; exact hr0))
    rw [if_pos hr0, if_neg this]
  rw [if_neg hr0]
  by_cases e : q = r
  · subst e; rw [if_pos rfl]; exact Vector.getElem_set_self _
  · rw [if_neg e]
    exact Vector.getElem_set_ne (ridx 8 r).isLt (ridx 8 q).isLt fun h => e (hrq.mp (Fin.ext h.symm))

theorem setBit8_getLsbD (b : BitVec 8) {i j : Nat} (hi : i < 8) (hj : j < 8) (v : Bool) :
    (setBit8 b i v).getLsbD j = if j = i then v else b.getLsbD j := by
  have h : ((1 : BitVec 8) <<< i).getLsbD j = decide (j = i) := by
    rw [BitVec.getLsbD_shiftLeft]
    simp only [BitVec.ofNat_eq_ofNat, BitVec.getLsbD_one]
    by_cases e : j = i <;> simp [e, hi, hj]; omega
  unfold setBit8
  cases v
  · rw [if_neg Bool.false_ne_true, BitVec.getLsbD_and, BitVec.getLsbD_not, h, decide_eq_true hj]
    by_cases e : j = i <;> simp [e]
  · rw [if_pos rfl, BitVec.getLsbD_or, h]
    by_cases e : j = i <;> simp [e]
theorem wp_rp (sl : Slot) {r q : Nat} (v : Bool) (hr : r < 8) (hq : q < 8) :
    (sl.wp r v).rp q = if q = 0 then true else if q = r then v else sl.rp q := by
  unfold Slot.rp Slot.wp
  rw [Nat.mod_eq_of_lt hr, Nat.mod_eq_of_lt hq]
  by_cases hq0 : q = 0
  · simp [hq0]
  by_cases hr0 : r = 0
  · simp [hq0, hr0]
  · rw [if_neg hq0]
    simp only [beq_false_of_ne hq0, beq_false_of_ne hr0, Bool.false_or, Bool.false_eq_true, if_false]
    exact setBit8_getLsbD sl.p hr hq v
theorem wv_rv (sl : Slot) (r q : BitVec 6) (v : Line) : (sl.wv r v).rv q = if q = r then v else sl.rv q := by
  unfold Slot.rv Slot.wv
  by_cases e : q = r
  · subst e; rw [if_pos rfl]; exact Vector.getElem_set_self _
  · rw [if_neg e]
    exact Vector.getElem_set_ne r.isLt q.isLt fun h => e (BitVec.eq_of_toNat_eq h.symm)

/-! ### Illegal words -/

theorem decode_unassigned {w : BitVec 96} (h : assignedOpc (opcOf w) = false) : decode w = .error 1 := by
  unfold decode decodeRaw
  rw [h]; rfl
theorem decode_unbuilt {w : BitVec 96} (h : assignedOpc (opcOf w) = true) (hb : build (opcOf w) (bodyOf w) = none) :
    decode w = .error 2 := by
  unfold decode decodeRaw
  rw [h, hb]; rfl
theorem decode_built {w : BitVec 96} {i : Instr} (h : assignedOpc (opcOf w) = true)
    (hb : build (opcOf w) (bodyOf w) = some i) : decode w = match i.rows.first with
      | none => .ok i
      | some n => .error n := by
  unfold decode decodeRaw
  rw [h, hb]; rfl

end Sys2Proof.Machine

section
open Sys2Proof
open Sys2Proof.Machine

/-- Settles O29. -/
theorem stepRunsTheDecodedInstruction : Obligations.StepRunsTheDecodedInstruction := by
  unfold Obligations.StepRunsTheDecodedInstruction
  refine ⟨?_, fun s n i opc b w => step_of_begun, ?_⟩
  · rintro s n i opc b w y hc hn rfl ha hg ht
    exact step_of_admitted hc hn ha hg ht
  · rintro s u a rest ha rfl
    refine ⟨step_of_tripped ha, fun ht => ⟨fun hw => ?_, fun n hn hw => ⟨fun hf => ?_, fun hf => ?_⟩, fun hn => ?_⟩⟩
    · exact step_of_actFirst ha ht (by simp [State.actFirst, hw])
    · exact step_of_actFirst ha ht (by simp [State.actFirst, hf])
    · have hs := nextTurn_of_slotFirst ha ht hn (by simp [State.actFirst, hw, hn, hf])
      exact ⟨fun i y hy => by simp only [step, hs, hy], fun y hy => by simp only [step, hs, hy]⟩
    · exact step_of_actFirst ha ht (by simp [State.actFirst, hn])

/-- Settles O30: the instruction is passed over as one that retires without an effect. -/
theorem failedGuardPassesOver : Obligations.FailedGuardPassesOver := by
  unfold Obligations.FailedGuardPassesOver
  rintro s n i opc b w y hc hn rfl hb hg
  have hs : step s = .next (issuesAt opc b w).passOver := by
    rw [step_of_comes hc hn, passGuards_passedOver hb hg]
  have ho : OnlyEnds (issuesAt opc b w) (issuesAt opc b w).passOver := (retired_only _).trans (advance_only _)
  refine ⟨_, hs, passOver_pc _, (handed_ends _).sl.regs, retired_advance_sem _, ?_⟩
  rw [ho]
  exact ⟨rfl, rfl, rfl, rfl, rfl⟩

/-- Settles O32. -/
theorem illegalWordsRaiseTheirSubCode : Obligations.IllegalWordsRaiseTheirSubCode := by
  unfold Obligations.IllegalWordsRaiseTheirSubCode
  refine ⟨fun s n bs w k hf hd => ?_, fun w => ⟨decode_unassigned, decode_unbuilt, fun i ha hb => ⟨fun hr => ?_,
    fun n hr => ?_⟩, by decide, by decide, decode_unassigned (by decide)⟩⟩
  · rw [step_of_fetches hf, readyFor_illegal hf hd]
  · rw [decode_built ha hb, hr]
  · rw [decode_built ha hb, hr]

/-- Settles O36. -/
theorem registersKeepWhatIsWritten : Obligations.RegistersKeepWhatIsWritten := by
  unfold Obligations.RegistersKeepWhatIsWritten
  exact fun sl => ⟨fun r q v hr hq => wx_rx sl v hr hq, fun r q v hr hq => wc_rc sl v hr hq,
    fun r q v hr hq => wk_rk sl v hr hq, fun r q v hr hq => wp_rp sl v hr hq, fun r q v => wv_rv sl r q v⟩

/-- Settles O48. -/
theorem resetIsSafe : Obligations.ResetIsSafe := by
  unfold Obligations.ResetIsSafe
  exact ⟨⟨reset_wf, Nat.zero_le _⟩, rfl, rfl⟩

/-- Settles O57, by evaluating the decoder on each word. -/
theorem wordsOfTheSpecDecode : Obligations.WordsOfTheSpecDecode := by
  unfold Obligations.WordsOfTheSpecDecode
  decide +kernel

end
end

section
/-!
What an instruction on registers leaves alone: writes to registers, and then the end of the instruction.
-/

namespace Sys2Proof.Machine

/-! ### Writes to registers -/

/-- `b` is `a` but for its pc and the registers `ds`. -/
structure SlotWrites (ds : List Reg) (a b : Slot) : Prop where
  regs : SameRegsBut ds b a
  rest : b = { a with x := b.x, c := b.c, k := b.k, v := b.v, p := b.p, bad := b.bad, pcc := b.pcc }
/-- `t` is `s` but for the pc and the registers `ds` of the current slot. -/
structure Writes (ds : List Reg) (s t : State) : Prop where
  slots : t = { s with slots := t.slots }
  slot : SlotWrites ds s.sl t.sl

theorem SameRegs.but {a b : Slot} (h : SameRegs a b) (ds : List Reg) : SameRegsBut ds a b :=
  ⟨fun r _ => h.x r, fun r _ => h.c r, fun r _ => h.k r, fun r _ => h.v r, fun r _ => h.p r⟩
theorem SameRegsBut.trans {ds : List Reg} {a b c : Slot} (h : SameRegsBut ds a b) (k : SameRegsBut ds b c) :
    SameRegsBut ds a c :=
  ⟨fun r e => (h.x r e).trans (k.x r e), fun r e => (h.c r e).trans (k.c r e), fun r e => (h.k r e).trans (k.k r e),
    fun r e => (h.v r e).trans (k.v r e), fun r e => (h.p r e).trans (k.p r e)⟩
theorem SameRegsBut.none {a b : Slot} (h : SameRegsBut [] a b) : SameRegs a b :=
  ⟨fun r => h.x r (by simp), fun r => h.c r (by simp), fun r => h.k r (by simp), fun r => h.v r (by simp),
    fun r => h.p r (by simp)⟩

theorem wx_regs (sl : Slot) {ds : List Reg} {r : BitVec 6} (h : .x r ∈ ds) (v : Word) : SameRegsBut ds (sl.wx r v) sl := by
  unfold Slot.wx
  split
  · exact (SameRegs.refl sl).but ds
  refine ⟨fun q hq => ?_, fun _ _ => rfl, fun _ _ => rfl, fun _ _ => rfl, fun _ _ => rfl⟩
  have e : (sl.x.set (ridx 32 r) v)[ridx 32 q] = sl.x[ridx 32 q] :=
    Vector.getElem_set_ne (ridx 32 r).isLt (ridx 32 q).isLt fun e => hq r h (Fin.ext e)
  simp only [Slot.rx, Slot.mended, e]
theorem wc_regs (sl : Slot) {ds : List Reg} {r : BitVec 6} (h : .c r ∈ ds) (v : Cap) : SameRegsBut ds (sl.wc r v) sl := by
  unfold Slot.wc
  split
  · exact (SameRegs.refl sl).but ds
  refine ⟨fun _ _ => rfl, fun q hq => ?_, fun _ _ => rfl, fun _ _ => rfl, fun _ _ => rfl⟩
  have e : (sl.c.set (ridx 32 r) v)[ridx 32 q] = sl.c[ridx 32 q] :=
    Vector.getElem_set_ne (ridx 32 r).isLt (ridx 32 q).isLt fun e => hq r h (Fin.ext e)
  simp only [Slot.rc, Slot.mended, e]
theorem wk_regs (sl : Slot) {ds : List Reg} {r : BitVec 6} (h : .k r ∈ ds) (v : Gran) : SameRegsBut ds (sl.wk r v) sl := by
  unfold Slot.wk
  split
  · exact (SameRegs.refl sl).but ds
  refine ⟨fun _ _ => rfl, fun _ _ => rfl, fun q hq => ?_, fun _ _ => rfl, fun _ _ => rfl⟩
  have e : (sl.k.set (ridx 8 r) v)[ridx 8 q] = sl.k[ridx 8 q] :=
    Vector.getElem_set_ne (ridx 8 r).isLt (ridx 8 q).isLt fun e => hq r h (Fin.ext e)
  simp only [Slot.rk, Slot.mended, e]
theorem wp_regs (sl : Slot) {ds : List Reg} {r : BitVec 6} (h : .p r ∈ ds) (v : Bool) :
    SameRegsBut ds (sl.wp r.toNat v) sl := by
  unfold Slot.wp
  split
  · exact (SameRegs.refl sl).but ds
  refine ⟨fun _ _ => rfl, fun _ _ => rfl, fun _ _ => rfl, fun _ _ => rfl, fun q hq => ?_⟩
  have e := setBit8_getLsbD sl.p (Nat.mod_lt r.toNat (by decide)) (Nat.mod_lt q (by decide : 8 > 0)) v
  rw [if_neg (hq r h).symm] at e
  simp only [Slot.rp, Slot.mended, e]
theorem wv_regs (sl : Slot) {ds : List Reg} {r : BitVec 6} (h : .v r ∈ ds) (v : Line) : SameRegsBut ds (sl.wv r v) sl := by
  refine ⟨fun _ _ => rfl, fun _ _ => rfl, fun _ _ => rfl, fun q hq => ?_, fun _ _ => rfl⟩
  rw [wv_rv, if_neg fun e => hq (by rw [e]; exact h)]

theorem modCur_writes {ds : List Reg} {s t : State} (h : Writes ds s t) {f : Slot → Slot}
    (hf : SlotWrites ds t.sl (f t.sl)) : Writes ds s (t.modCur f) := by
  refine ⟨?_, ?_⟩
  · obtain ⟨h, -⟩ := h
    rw [h]; rfl
  · rw [modCur_sl]
    refine ⟨hf.regs.trans h.slot.regs, hf.rest.trans ?_⟩
    rw [h.slot.rest]

theorem Writes.refl (ds : List Reg) (s : State) : Writes ds s s := ⟨rfl, (SameRegs.refl _).but ds, rfl⟩

section
variable {ds : List Reg} {s t : State}

theorem Writes.wx (h : Writes ds s t) {r : BitVec 6} (m : .x r ∈ ds) (v : Word) : Writes ds s (t.wx r v) := by
  refine modCur_writes h ⟨wx_regs _ m v, ?_⟩
  unfold Slot.wx
  split <;> rfl
theorem Writes.wc (h : Writes ds s t) {r : BitVec 6} (m : .c r ∈ ds) (v : Cap) : Writes ds s (t.wc r v) := by
  refine modCur_writes h ⟨wc_regs _ m v, ?_⟩
  unfold Slot.wc
  split <;> rfl
theorem Writes.wk (h : Writes ds s t) {r : BitVec 6} (m : .k r ∈ ds) (v : Gran) : Writes ds s (t.wk r v) := by
  refine modCur_writes h ⟨wk_regs _ m v, ?_⟩
  unfold Slot.wk
  split <;> rfl
theorem Writes.wp (h : Writes ds s t) {r : BitVec 6} (m : .p r ∈ ds) (v : Bool) : Writes ds s (t.wp r v) := by
  refine modCur_writes h ⟨wp_regs _ m v, ?_⟩
  unfold Slot.wp
  split <;> rfl
theorem Writes.setPcc (h : Writes ds s t) (c : Cap) : Writes ds s (t.setPcc c) :=
  modCur_writes h (f := fun sl => Slot.mended { sl with pcc := c } 2 0)
    ⟨SameRegs.but (a := Slot.mended { t.sl with pcc := c } 2 0) (b := t.sl) (.of_files rfl rfl rfl rfl rfl) ds, rfl⟩

end

/-! ### The semaphores at the end -/

/-- A trap leaves a semaphore of which neither the instruction nor the repetition block has taken units. -/
theorem takeTrap_semVal_kept {s : State} (f : Fail) {q : BitVec 8} (ht : s.sl.taken = none)
    (hr : ∀ n, s.sl.rep.bind (·.taken) ≠ some (q, n)) : (s.takeTrap f).semVal q = s.semVal q := by
  have hs : (s.trapStart f).semVal q = s.semVal q := by
    rw [semVal_congr (trapStart_sem s f), restoreWait_semVal_none ht]
  by_cases h : s.cur = 15
  · rw [takeTrap_eq, if_pos h, ← hs]
    refine semVal_congr ?_ q
    have hu := dropped_undoes (s.trapStart f)
    rw [supTrap_eq _ _ f _ _ rfl]
    have e : ((s.trapStart f).leaveQueue (.slot 15)).sem = (s.trapStart f).sem := by rw [leaveQueue_eq]
    split <;> exact e
  rw [takeTrap_semVal h, ← hs]
  have hr' : ((s.trapStart f).slot s.cur).rep.bind (·.taken) = s.sl.rep.bind (·.taken) := by rw [trapStart_rep]; rfl
  cases e : s.sl.rep.bind (·.taken) with
  | none => exact repStop_semVal_none (hr'.trans e) q
  | some mk =>
    obtain ⟨m, k⟩ := mk
    rw [repStop_semVal_some (hr'.trans e), if_neg]
    rintro rfl
    exact hr k e

theorem retired_advance_rep (s : State) : s.retired.advance.sl.rep = s.sl.rep := by
  unfold State.advance
  rw [modCur_sl, retired_sl]
  split <;> rfl
theorem retired_rep (s : State) : s.retired.sl.rep = s.sl.rep := by
  rw [retired_sl]
  split <;> rfl
theorem retired_taken (s : State) : s.retired.sl.taken = none := by rw [retired_sl]

/-- SIG leaves every semaphore but its own and, where it traps, those that the repetition block holds. -/
theorem signal_semVal_kept {s : State} {h : Hdr} {m : BitVec 8} (ht : s.sl.taken = none) (hm : m ≠ h.sigSm)
    (hr : ∀ n, s.sl.rep.bind (·.taken) ≠ some (m, n)) : (s.signal h).semVal m = s.semVal m := by
  have he : ∀ k, (s.semSet h.sigSm k).sl = s.sl := fun k => by rw [semSet_eq]; rfl
  by_cases hi : h.sigInc = 0
  · rw [signal_zero _ _ hi]
  cases hd : s.slotDone s.cur with
  | false => rw [signal_held hi hd]; rfl
  | true =>
    by_cases hk : s.semVal h.sigSm + h.sigInc.toNat ≤ 65535
    · rw [signal_adds hi hd hk, semSet_giveBack, if_neg hm]
    · rw [signal_overflows hi hd (Nat.lt_of_not_le hk), takeTrap_semVal_kept _ (by rw [he]; exact ht)
        (fun n => by rw [he]; exact hr n), semSet_giveBack, if_neg hm]

theorem retired_sem (s : State) : s.retired.sem = s.sem := by rw [retired_eq]
theorem retired_advance_trapQ (s : State) : s.retired.advance.trapQ = s.trapQ := by
  unfold State.retired State.advance; rw [peerEnd_eq, leaveQueue_eq]; rfl
theorem retired_advance_frec (s : State) : s.retired.advance.frec = s.frec := by
  unfold State.retired State.advance; rw [peerEnd_eq, leaveQueue_eq]; rfl
theorem retired_advance_hold (s : State) : s.retired.advance.hold = s.hold := by
  unfold State.retired State.advance; rw [peerEnd_eq, leaveQueue_eq]; rfl

theorem ended_traps (h : Hdr) (t : State) : SameTraps h t (ended h t) :=
  ⟨fun m hm hr => (signal_semVal_kept (retired_advance_taken t) hm fun n => by rw [retired_advance_rep]; exact hr n).trans
      (semVal_congr (retired_advance_sem t) m),
    fun hi => by rw [ended_zero h t hi, retired_advance_sem], fun hi => by rw [ended_zero h t hi, retired_advance_trapQ],
    fun hi => by rw [ended_zero h t hi, retired_advance_frec], fun hi => by rw [ended_zero h t hi, retired_advance_hold]⟩
theorem jumped_traps (h : Hdr) (t : State) : SameTraps h t (jumped h t) := by
  have hz : h.sigInc = 0 → jumped h t = t.retired := fun hi => by rw [jumped, signal_zero _ _ hi]
  exact ⟨fun m hm hr => (signal_semVal_kept (retired_taken t) hm fun n => by rw [retired_rep]; exact hr n).trans
      (semVal_congr (retired_sem t) m),
    fun hi => by rw [hz hi, retired_sem], fun hi => by rw [hz hi, retired_eq], fun hi => by rw [hz hi, retired_eq],
    fun hi => by rw [hz hi, retired_eq]⟩

/-! ### The end of an instruction that has written registers -/

/-- Every unit is the same after an end. -/
theorem OnlyEnds.sameUnits {s t : State} (h : OnlyEnds s t) : SameUnits s t := by
  rw [h]; exact ⟨rfl, rfl, rfl, rfl, rfl, rfl, rfl, rfl, rfl⟩
theorem SameTraps.of_writes {ds : List Reg} {h : Hdr} {s t u : State} (w : Writes ds s t) (k : SameTraps h t u) :
    SameTraps h s u := by
  have hrep : t.sl.rep = s.sl.rep := by rw [w.slot.rest]
  have hs := w.slots
  refine ⟨fun m hm hr => (k.sems m hm (by rw [hrep]; exact hr)).trans ?_, fun hi => (k.sem hi).trans ?_,
    fun hi => (k.trapQ hi).trans ?_, fun hi => (k.frec hi).trans ?_, fun hi => (k.hold hi).trans ?_⟩
  · rw [hs]; rfl
  all_goals rw [hs]

/-- What the obligation on register instructions says of one: its SIG, the registers it writes, and what is kept. -/
def KeepsRest (h : Hdr) (ds : List Reg) (s t : State) : Prop :=
  SameRegsBut ds t.sl s.sl ∧ SameSpecials t.sl s.sl ∧ t.sl.mons = s.sl.mons ∧ t.sl.fstat = s.sl.fstat ∧
    t.sl.ports = s.sl.ports ∧ SameTraps h s t ∧ SameUnits s t ∧ SameMemory s t

theorem keepsRest_of {h : Hdr} {ds : List Reg} {s t u : State} (w : Writes ds s t) (k : SlotEnds t.sl u.sl)
    (o : OnlyEnds t u) (tr : SameTraps h t u) : KeepsRest h ds s u := by
  have hw : OnlyEnds s t := by rw [w.slots]; rfl
  have ho := hw.trans o
  have hsp : SameSpecials t.sl s.sl := by
    rw [w.slot.rest]; exact ⟨rfl, rfl, rfl, rfl, rfl, rfl, rfl, rfl, rfl⟩
  obtain ⟨s1, s2, s3, s4, s5, s6, s7, s8, s9⟩ := k.specials
  obtain ⟨t1, t2, t3, t4, t5, t6, t7, t8, t9⟩ := hsp
  refine ⟨(k.regs.but ds).trans w.slot.regs, ⟨s1.trans t1, s2.trans t2, s3.trans t3, s4.trans t4, s5.trans t5, s6.trans t6,
    s7.trans t7, s8.trans t8, s9.trans t9⟩, k.mons.trans ?_, k.fstat.trans ?_, k.ports.trans ?_, tr.of_writes w,
    ho.sameUnits, ho.same⟩
  all_goals rw [w.slot.rest]

theorem ended_keepsRest {h : Hdr} {ds : List Reg} {s t : State} (w : Writes ds s t) : KeepsRest h ds s (ended h t) :=
  keepsRest_of w (ended_ends h t).sl (ended_only h t) (ended_traps h t)
theorem jumped_keepsRest {h : Hdr} {ds : List Reg} {s t : State} (w : Writes ds s t) : KeepsRest h ds s (jumped h t) :=
  keepsRest_of w (jumped_ends h t).sl (jumped_only h t) (jumped_traps h t)

section
variable {i : Instr} {h : Hdr} {s t : State} {r : BitVec 6}

theorem keeps_ended {u : State} {ds : List Reg} (e : exec i s = .next (ended h u)) (w : Writes ds s u)
    (he : exec i s = .next t) : KeepsRest h ds s t := by
  rw [e] at he; cases he; exact ended_keepsRest w
theorem keeps_jumped {u : State} {ds : List Reg} (e : exec i s = .next (jumped h u)) (w : Writes ds s u)
    (he : exec i s = .next t) : KeepsRest h ds s t := by
  rw [e] at he; cases he; exact jumped_keepsRest w
theorem keeps_wx {v : Word} (e : exec i s = .next (ended h (s.wx r v))) (he : exec i s = .next t) :
    KeepsRest h [.x r] s t := keeps_ended e ((Writes.refl _ s).wx (List.mem_singleton_self _) v) he
theorem keeps_wc {v : Cap} (e : exec i s = .next (ended h (s.wc r v))) (he : exec i s = .next t) :
    KeepsRest h [.c r] s t := keeps_ended e ((Writes.refl _ s).wc (List.mem_singleton_self _) v) he
theorem keeps_wp {v : Bool} (e : exec i s = .next (ended h (s.wp r v))) (he : exec i s = .next t) :
    KeepsRest h [.p r] s t := keeps_ended e ((Writes.refl _ s).wp (List.mem_singleton_self _) v) he

end

/-- pmov writes a predicate in its first two forms, an integer register in the others (R82). -/
theorem pmov_writes (s : State) (o : ROp) (a b : Bool) (v w : Word) :
    Writes [if o.md.sub = 0 ∨ o.md.sub = 1 then .p o.od else .x o.od] s (match o.md.sub.toNat with
      | 0 => s.wp o.od a
      | 1 => s.wp o.od b
      | 2 => s.wx o.od v
      | _ => s.wx o.od w) := by
  have h0 : o.md.sub = 0 ↔ o.md.sub.toNat = 0 := by rw [← BitVec.toNat_inj]; rfl
  have h1 : o.md.sub = 1 ↔ o.md.sub.toNat = 1 := by rw [← BitVec.toNat_inj]; rfl
  have hx : ∀ (n : Nat) (v : Word), o.md.sub.toNat = n + 2 →
      Writes [if o.md.sub = 0 ∨ o.md.sub = 1 then .p o.od else .x o.od] s (s.wx o.od v) := fun n v hn => by
    rw [if_neg (by rw [h0, h1]; omega)]
    exact (Writes.refl _ s).wx (List.mem_singleton_self _) _
  generalize hn : o.md.sub.toNat = n at h0 h1 hx ⊢
  match n, h0, h1, hx with
  | 0, h0, _, _ => rw [if_pos (.inl (h0.mpr rfl))]; exact (Writes.refl _ s).wp (List.mem_singleton_self _) a
  | 1, _, h1, _ => rw [if_pos (.inr (h1.mpr rfl))]; exact (Writes.refl _ s).wp (List.mem_singleton_self _) b
  | 2, _, _, hx => exact hx 0 _ rfl
  | n + 3, _, _, hx => exact hx (n + 1) _ rfl

end Sys2Proof.Machine

section
open Sys2Proof
open Sys2Proof.Machine

/-- Settles O51: each instruction ends with its destination written. -/
theorem registerInstructionsKeepTheRest : Obligations.RegisterInstructionsKeepTheRest := by
  unfold Obligations.RegisterInstructionsKeepTheRest
  intro s t o q d
  simp only [List.forall_mem_cons]
  refine ⟨?add, ?sub, ?mul, ?mulh, ?mad, ?div, ?rem, ?and, ?or, ?xor, ?andn, ?shl, ?shr, ?sra, ?rotl, ?min, ?max, ?abs, ?clz,
    ?ctz, ?popc, ?bfx, ?bfi, ?shadd, ?sel, ?mov, ?li, ?cvt, ?bswap, ?cmp, ?pand, ?por, ?pxor, ?pnot, ?pmov, ?br, ?jmp, ?call,
    ?ret, ?loop, ?nop, ?cgeta, ?cgetb, ?cgetl, ?cgetp, ?ctag, ?csub, ?cmov, ?cclr, ?fclass, fun _ hp => absurd hp List.not_mem_nil⟩
  case cmp | pand | por | pxor | pnot | ctag => exact keeps_wp (finish_ok rfl)
  case cmov | cclr => exact keeps_wc (finish_ok rfl)
  case pmov => exact keeps_ended (finish_ok rfl) (pmov_writes s o _ _ _ _)
  case nop => exact keeps_ended (finish_ok rfl) (Writes.refl _ s)
  case br | jmp | ret => exact keeps_jumped (finishJump_ok rfl) ((Writes.refl _ s).setPcc _)
  case call => exact keeps_jumped (finishJump_ok rfl) (((Writes.refl _ s).wc (List.mem_singleton_self _) _).setPcc _)
  case loop => exact keeps_jumped (finishJump_ok rfl) (((Writes.refl _ s).wx (List.mem_singleton_self _) _).setPcc _)
  all_goals exact keeps_wx (finish_ok rfl)

end
end

section
/-!
What float, vector, mask and deriving instructions leave alone: whether the work of the instruction answers or stops, it has
written its destination at most, and so has the end that follows.
-/

namespace Sys2Proof.Machine

/-! ### Work that answers or stops -/

/-- Where the work stops, its state satisfies `q`. -/
def StopsIn {α : Type} (q : State → Prop) (r : R α) : Prop := ∀ e, r = .error e → q e.2
/-- Whether the work answers or stops, its state satisfies `q`. -/
def RunsIn (q : State → Prop) (r : R State) : Prop := (∀ t, r = .ok t → q t) ∧ StopsIn q r

section
variable {α β : Type} {q : State → Prop}

theorem StopsIn.ok (a : α) : StopsIn q (.ok a) := fun _ h => by cases h
theorem StopsIn.error {e : Stop × State} (h : q e.2) : StopsIn q (.error e : R α) := fun _ k => by cases k; exact h
theorem StopsIn.bind {r : R α} {f : α → R β} (h : StopsIn q r) (k : ∀ a, r = .ok a → StopsIn q (f a)) :
    StopsIn q (r >>= f) := by
  cases r with
  | error e => exact .error (h e rfl)
  | ok a => exact k a rfl
theorem RunsIn.ok {t : State} (h : q t) : RunsIn q (.ok t) := ⟨fun _ k => by cases k; exact h, .ok t⟩
theorem RunsIn.error {e : Stop × State} (h : q e.2) : RunsIn q (.error e) := ⟨fun _ k => (by cases k), .error h⟩
theorem RunsIn.bind {r : R α} {f : α → R State} (h : StopsIn q r) (k : ∀ a, r = .ok a → RunsIn q (f a)) :
    RunsIn q (r >>= f) := by
  cases r with
  | error e => exact .error (h e rfl)
  | ok a => exact k a rfl
theorem guardR_stops {s : State} (h : q s) (b : Bool) (c a d : Nat) : StopsIn q (guardR s b c a d) := by
  cases b with
  | true => exact .ok ()
  | false => exact .error h
theorem raise_stops {s : State} (h : q s) (c a d : Nat) : StopsIn q (raise s c a d : R α) := .error h
theorem check_stops {s : State} (h : q s) (f : Option Fail) : StopsIn q (check s f) := by
  cases f with
  | none => exact .ok ()
  | some f => exact .error h
theorem mapM_stops {f : α → R β} {l : List α} (h : ∀ a ∈ l, StopsIn q (f a)) : StopsIn q (l.mapM f) := by
  induction l with
  | nil => exact .ok []
  | cons a l ih =>
    rw [List.mapM_cons]
    exact (h a List.mem_cons_self).bind fun b _ =>
      (ih fun a ha => h a (List.mem_cons_of_mem _ ha)).bind fun bs _ => .ok (b :: bs)

end

/-! ### What an instruction may touch -/

/-- `b` is `a` but for the registers `ds`, FSTAT, and the stream ports where `P` does not hold. -/
structure SlotTouched (P : Prop) (ds : List Reg) (a b : Slot) : Prop where
  regs : SameRegsBut ds b a
  specials : SameSpecials b a
  mons : b.mons = a.mons
  ports : P → b.ports = a.ports
/-- `t` is `s` but for what ends change, and what `SlotTouched` lets change in the current slot. -/
structure Touched (P : Prop) (ds : List Reg) (s t : State) : Prop where
  ends : OnlyEnds s t
  slot : SlotTouched P ds s.sl t.sl

theorem SameSpecials.trans {a b c : Slot} (h : SameSpecials a b) (k : SameSpecials b c) : SameSpecials a c :=
  ⟨h.fmode.trans k.fmode, h.cmwin.trans k.cmwin, h.smwin.trans k.smwin, h.savecap.trans k.savecap, h.tjn.trans k.tjn,
    h.tslice.trans k.tslice, h.wlim.trans k.wlim, h.tow.trans k.tow, h.world.trans k.world⟩
theorem SameSpecials.refl (a : Slot) : SameSpecials a a := ⟨rfl, rfl, rfl, rfl, rfl, rfl, rfl, rfl, rfl⟩

section
variable {P : Prop} {ds : List Reg}

theorem SlotTouched.refl (a : Slot) : SlotTouched P ds a a := ⟨(SameRegs.refl a).but ds, .refl a, rfl, fun _ => rfl⟩
theorem SlotTouched.trans {a b c : Slot} (h : SlotTouched P ds a b) (k : SlotTouched P ds b c) : SlotTouched P ds a c :=
  ⟨k.regs.trans h.regs, k.specials.trans h.specials, k.mons.trans h.mons, fun p => (k.ports p).trans (h.ports p)⟩
theorem SlotEnds.touched {a b : Slot} (h : SlotEnds a b) : SlotTouched P ds a b :=
  ⟨h.regs.but ds, h.specials, h.mons, fun _ => h.ports⟩
theorem Touched.refl (s : State) : Touched P ds s s := ⟨.refl s, .refl _⟩
theorem Touched.trans {s t u : State} (h : Touched P ds s t) (k : Touched P ds t u) : Touched P ds s u :=
  ⟨h.ends.trans k.ends, h.slot.trans k.slot⟩
theorem Writes.touched {s t : State} (h : Writes ds s t) : Touched P ds s t := by
  refine ⟨by rw [h.slots]; rfl, h.slot.regs, ?_, ?_, fun _ => ?_⟩
  · rw [h.slot.rest]; exact ⟨rfl, rfl, rfl, rfl, rfl, rfl, rfl, rfl, rfl⟩
  · rw [h.slot.rest]
  · rw [h.slot.rest]
theorem touched_of_slots {s t : State} (h : OnlyEnds s t) (e : t.slots = s.slots) : Touched P ds s t := by
  have hc : t.sl = s.sl := by
    have : t.cur = s.cur := by rw [h]
    simp only [State.sl, e, this]
  exact ⟨h, by rw [hc]; exact .refl _⟩
theorem modCur_touched (s : State) (f : Slot → Slot) (h : SlotTouched P ds s.sl (f s.sl)) : Touched P ds s (s.modCur f) :=
  ⟨rfl, by rw [modCur_sl]; exact h⟩

theorem ended_touched (h : Hdr) (t : State) : Touched P ds t (ended h t) := ⟨ended_only h t, (ended_ends h t).sl.touched⟩
theorem stopped_touched (st : Stop) (t : State) : Touched P ds t (stopped st t) :=
  ⟨stopped_only st t, (stopped_ends st t).sl.touched⟩
/-- An instruction has touched what its work touches. -/
theorem finish_touched {h : Hdr} {b : State → R State} {s t : State} (hb : RunsIn (Touched P ds s) (b s))
    (e : finish h b s = .next t) : Touched P ds s t := by
  unfold finish at e
  cases hr : b s with
  | ok u => rw [hr] at e; cases e; exact (hb.1 u hr).trans (ended_touched h u)
  | error x => rw [hr] at e; cases e; exact (hb.2 x hr).trans (stopped_touched x.1 x.2)

/-! ### Flags, results and rows -/

theorem flagged_touched (s : State) (fl : Flags) : Touched P ds s (flagged s fl) :=
  modCur_touched s (fun sl => { sl with fstat := sl.fstat ||| fl.setWidth 64 })
    ⟨SameRegs.but (a := { s.sl with fstat := s.sl.fstat ||| fl.setWidth 64 }) (b := s.sl) (.of_files rfl rfl rfl rfl rfl) ds, ⟨rfl, rfl, rfl, rfl, rfl, rfl, rfl, rfl, rfl⟩, rfl, fun _ => rfl⟩
/-- An instruction that raises its flags and then writes. -/
theorem raiseFlags_runs {s : State} {fl : Flags} {f : State → R State} (h : ∀ u, Touched P ds s u → RunsIn (Touched P ds s) (f u)) :
    RunsIn (Touched P ds s) (raiseFlags s fl >>= f) := by
  by_cases hm : masked s fl
  · rw [raiseFlags_masked hm]; exact h _ (flagged_touched s fl)
  · rw [raiseFlags_enabled hm]; exact .error (Touched.refl s)

theorem Touched.wx {s t : State} (h : Touched P ds s t) {r : BitVec 6} (m : .x r ∈ ds) (v : Word) : Touched P ds s (t.wx r v) :=
  h.trans ((Writes.refl ds t).wx m v).touched
theorem Touched.wc {s t : State} (h : Touched P ds s t) {r : BitVec 6} (m : .c r ∈ ds) (v : Cap) : Touched P ds s (t.wc r v) :=
  h.trans ((Writes.refl ds t).wc m v).touched
theorem Touched.wk {s t : State} (h : Touched P ds s t) {r : BitVec 6} (m : .k r ∈ ds) (v : Gran) : Touched P ds s (t.wk r v) :=
  h.trans ((Writes.refl ds t).wk m v).touched
theorem Touched.wp {s t : State} (h : Touched P ds s t) {r : BitVec 6} (m : .p r ∈ ds) (v : Bool) : Touched P ds s (t.wp r v) :=
  h.trans ((Writes.refl ds t).wp m v).touched

theorem modPort_touched (s : State) (i : Fin 4) (f : Port → Port) (h : ¬ P) :
    Touched P ds s (s.modCur fun sl => sl.modPort i f) :=
  modCur_touched s (fun sl => sl.modPort i f)
    ⟨SameRegs.but (a := s.sl.modPort i f) (b := s.sl) (.of_files rfl rfl rfl rfl rfl) ds,
      ⟨rfl, rfl, rfl, rfl, rfl, rfl, rfl, rfl, rfl⟩, rfl, fun p => absurd p h⟩
theorem Touched.post {s t : State} (h : Touched P ds s t) (a : Act) : Touched P ds s (t.post a) :=
  h.trans (touched_of_slots rfl rfl)

end

/-! ### Scalar float, and deriving -/

theorem floatBody_runs (o : ROp) (g : FpEnv → Fmt → Nat → Nat → Nat → Nat × Flags) (s : State) :
    RunsIn (Touched True [.x o.od] s) (floatBody o g s) :=
  raiseFlags_runs fun _ hu => .ok (hu.wx (List.mem_singleton_self _) _)

theorem capRaise_stops {q : State → Prop} {s : State} (h : q s) (c : Cap) (k : Option Nat) : StopsIn q (capRaise s c k) := by
  cases k with
  | none => exact .ok ()
  | some n => exact raise_stops h _ _ _
theorem derive_runs {s : State} {r : BitVec 6} (c : Cap) (k : Option Nat) (v : Cap) :
    RunsIn (Touched True [.c r] s) (capRaise s c k >>= fun _ => .ok (s.wc r v)) :=
  .bind (capRaise_stops (.refl s) c k) fun _ _ => .ok ((Touched.refl s).wc (List.mem_singleton_self _) v)
theorem boundsBody_runs (o : RIOp) (exact : Bool) (s : State) :
    RunsIn (Touched True [.c (riOd o)] s) (boundsBody o exact s) := by
  unfold boundsBody
  refine .bind (capRaise_stops (.refl s) _ _) fun _ _ => ?_
  split
  · exact .ok ((Touched.refl s).wc (List.mem_singleton_self _) _)
  · exact .error (Touched.refl s)
theorem sealAuth_stops {q : State → Prop} {s : State} (h : q s) (a : Cap) (p : BitVec 12) : StopsIn q (sealAuth s a p) := by
  unfold sealAuth
  exact (capRaise_stops h a _).bind fun _ _ => (guardR_stops h _ _ _ _).bind fun _ _ => .ok _

/-- The work of cseal, and of cunseal. -/
def cseals (o : ROp) (s : State) : R State := do
  let c := s.rc o.oa
  guardR s c.tag cCAPT 0 (capCursor c).toNat
  guardR s (capOtype c == 0) cCAPS 1 (capCursor c).toNat
  guardR s ((capWorld c).toNat == s.world.val) cCAPW 0 (capCursor c).toNat
  let t ← sealAuth s (s.rc o.ob) pSEAL
  .ok (s.wc o.od (capWithOtype c t))
def cunseals (o : ROp) (s : State) : R State := do
  let c := s.rc o.oa
  guardR s c.tag cCAPT 0 (capCursor c).toNat
  guardR s ((capWorld c).toNat == s.world.val) cCAPW 0 (capCursor c).toNat
  let t ← sealAuth s (s.rc o.ob) pUNSEAL
  guardR s (capOtype c == t) cCAPS 1 (capCursor c).toNat
  .ok (s.wc o.od (capWithOtype c 0))
theorem cseals_runs (o : ROp) (s : State) : RunsIn (Touched True [.c o.od] s) (cseals o s) := by
  have hr := Touched.refl (P := True) (ds := [.c o.od]) s
  unfold cseals
  exact .bind (guardR_stops hr _ _ _ _) fun _ _ => .bind (guardR_stops hr _ _ _ _) fun _ _ =>
    .bind (guardR_stops hr _ _ _ _) fun _ _ => .bind (sealAuth_stops hr _ _) fun _ _ =>
    .ok (hr.wc (List.mem_singleton_self _) _)
theorem cunseals_runs (o : ROp) (s : State) : RunsIn (Touched True [.c o.od] s) (cunseals o s) := by
  have hr := Touched.refl (P := True) (ds := [.c o.od]) s
  unfold cunseals
  exact .bind (guardR_stops hr _ _ _ _) fun _ _ => .bind (guardR_stops hr _ _ _ _) fun _ _ =>
    .bind (sealAuth_stops hr _ _) fun _ _ => .bind (guardR_stops hr _ _ _ _) fun _ _ =>
    .ok (hr.wc (List.mem_singleton_self _) _)

/-! ### Vectors -/

/-- The slot has no stream port in the place of a v register. -/
def Portless (s : State) : Prop := ∀ r, portOf s.sl r = none

theorem not_portless {s : State} {r : BitVec 6} {i : Fin 4} (h : portOf s.sl r = some i) : ¬ Portless s := fun k => by
  rw [k r] at h; cases h

theorem portUsable_stops {ds : List Reg} {s : State} (hp : ¬ Portless s) (i : Fin 4) (w : Bool) :
    StopsIn (Touched (Portless s) ds s) (portUsable s i w) := by
  have hr := Touched.refl (P := Portless s) (ds := ds) s
  unfold portUsable portSound
  dsimp only
  refine (guardR_stops hr _ _ _ _).bind fun _ _ => StopsIn.bind ?_ fun _ _ =>
    (guardR_stops hr _ _ _ _).bind fun _ _ => guardR_stops hr _ _ _ _
  split
  · exact raise_stops hr _ _ _
  · split
    · exact .error (modPort_touched s i _ hp)
    · exact .ok ()
theorem readV_stops {ds : List Reg} (s : State) (r : BitVec 6) : StopsIn (Touched (Portless s) ds s) (readV s r) := by
  unfold readV
  split
  · exact .ok _
  next i hi =>
    have hp := not_portless hi
    refine (portUsable_stops hp i false).bind fun _ _ => ?_
    dsimp only
    split
    · exact .error ((Touched.refl s).post _)
    · exact .ok _
    · exact .error (modPort_touched s i _ hp)
theorem destReady_stops {ds : List Reg} (s : State) (r : BitVec 6) : StopsIn (Touched (Portless s) ds s) (destReady s r) := by
  unfold destReady
  split
  · exact .ok ()
  next i hi =>
    refine (portUsable_stops (not_portless hi) i true).bind fun _ _ => ?_
    dsimp only
    split
    · exact .error (Touched.refl s)
    · exact .ok ()

/-- Where no port is in the place of a register, none is after what touches no port. -/
theorem Touched.portless {ds : List Reg} {s t : State} (h : Touched (Portless s) ds s t) (hp : Portless s) : Portless t :=
  fun r => (portOf_congr (fun i => by simp only [Slot.port, h.slot.ports hp]) r).trans (hp r)

theorem popPorts_touched {ds : List Reg} {s : State} (rs : List (BitVec 6)) {t : State} (h : Touched (Portless s) ds s t)
    (done : List (Fin 4)) : Touched (Portless s) ds s (popPorts t rs done) := by
  induction rs generalizing t done with
  | nil => exact h
  | cons r rs ih =>
    unfold popPorts
    split
    next i hi =>
      split
      · exact ih h done
      · have hp : ¬ Portless s := fun k => not_portless hi (h.portless k)
        exact ih ((h.trans (modPort_touched t i _ hp)).post _) (i :: done)
    next => exact ih h done
theorem writeV_touched {s t : State} (r : BitVec 6) (h : Touched (Portless s) [.v r] s t) (res : VRes) :
    Touched (Portless s) [.v r] s (writeV t r res) := by
  unfold writeV
  split
  · refine h.trans (modCur_touched t (fun sl => sl.wv r (res.merge (sl.rv r))) ⟨wv_regs _ (List.mem_singleton_self _) _, ?_,
      rfl, fun _ => rfl⟩)
    exact ⟨rfl, rfl, rfl, rfl, rfl, rfl, rfl, rfl, rfl⟩
  next i hi =>
    have hp : ¬ Portless s := fun k => not_portless hi (h.portless k)
    exact (h.trans (modPort_touched t i _ hp)).post _

theorem vecBody_runsIn (s : State) (d : BitVec 6) (srcs : List (BitVec 6)) (f : Slot → List Line → VRes) :
    RunsIn (Touched (Portless s) [.v d] s) (vecBody d srcs f s) := by
  unfold vecBody
  refine .bind (mapM_stops fun r _ => readV_stops s r) fun vs _ => .bind (destReady_stops s d) fun _ _ => ?_
  exact raiseFlags_runs fun u hu => .ok (writeV_touched d (popPorts_touched srcs hu []) _)
theorem vecRead_runsIn {ds : List Reg} {s : State} {srcs : List (BitVec 6)} {f : Slot → List Line → Flags × (State → State)}
    (hf : ∀ vs t, Touched (Portless s) ds s t → Touched (Portless s) ds s ((f s.sl vs).2 t)) :
    RunsIn (Touched (Portless s) ds s) (vecRead srcs f s) := by
  unfold vecRead
  refine .bind (mapM_stops fun r _ => readV_stops s r) fun vs _ => ?_
  exact raiseFlags_runs fun u hu => .ok (hf vs _ (popPorts_touched srcs hu []))

/-- A vector instruction whose work is `b`. -/
theorem body_runsIn {b : State → R State} {d : BitVec 6} {srcs : List (BitVec 6)} (s : State)
    (hb : ∃ f, b = vecBody d srcs f) : RunsIn (Touched (Portless s) [.v d] s) (b s) := by
  obtain ⟨f, rfl⟩ := hb
  exact vecBody_runsIn s d srcs f
theorem vshiftB_runsIn (f : Nat → Nat → Nat → Nat) (q : RIOp) (s : State) :
    RunsIn (Touched (Portless s) [.v (riOd q)] s) (vshiftB f q s) := by
  cases q with
  | r o => exact body_runsIn s (vshiftB_body o f)
  | i o => exact body_runsIn s ⟨_, vshiftB_imm f o⟩
theorem kmov_runs (s : State) (o : ROp) (a b : Gran) (v w : Word) :
    Touched (Portless s) [if o.md.sub.toNat < 2 then .k o.od else .x o.od] s (match o.md.sub.toNat with
      | 0 => s.wk o.od a
      | 1 => s.wk o.od b
      | 2 => s.wx o.od v
      | _ => s.wx o.od w) := by
  generalize o.md.sub.toNat = n
  match n with
  | 0 => exact (Touched.refl s).wk (List.mem_singleton_self _) a
  | 1 => exact (Touched.refl s).wk (List.mem_singleton_self _) b
  | 2 => exact (Touched.refl s).wx (List.mem_singleton_self _) v
  | n + 3 =>
    rw [if_neg (by omega)]
    exact (Touched.refl s).wx (List.mem_singleton_self _) w

section
variable {h : Hdr} {b : State → R State} {d : Reg} {s t : State}

theorem touched_says {P : Prop} (e : finish h b s = .next t) (hb : RunsIn (Touched P [d] s) (b s)) :
    SameRegsBut [d] t.sl s.sl ∧ SameSpecials t.sl s.sl ∧ t.sl.mons = s.sl.mons ∧ SameUnits s t ∧ SameMemory s t ∧
      (P → t.sl.ports = s.sl.ports) := by
  have k := finish_touched hb e
  exact ⟨k.slot.regs, k.slot.specials, k.slot.mons, k.ends.sameUnits, k.ends.same, k.slot.ports⟩
theorem touched_saysPorts (e : finish h b s = .next t) (hb : RunsIn (Touched True [d] s) (b s)) :
    SameRegsBut [d] t.sl s.sl ∧ SameSpecials t.sl s.sl ∧ t.sl.mons = s.sl.mons ∧ t.sl.ports = s.sl.ports ∧ SameUnits s t ∧
      SameMemory s t := by
  obtain ⟨h1, h2, h3, h4, h5, h6⟩ := touched_says e hb
  exact ⟨h1, h2, h3, h6 trivial, h4, h5⟩

end

end Sys2Proof.Machine

section
open Sys2Proof
open Sys2Proof.Machine

/-- Settles O52: the work of each instruction touches its destination, FSTAT and the ports that it names. -/
theorem floatAndVectorKeepTheRest : Obligations.FloatAndVectorKeepTheRest := by
  unfold Obligations.FloatAndVectorKeepTheRest
  refine ⟨fun s t o q => ?_, fun s t o q => ?_⟩
  · simp only [List.forall_mem_cons]
    refine ⟨?fadd, ?fsub, ?fmul, ?ffma, ?fdiv, ?fsqrt, ?fmin, ?fmax, ?fcmp, ?fcvt, ?cseta, ?cinc, ?cbnd, ?cbnde, ?cperm, ?cseal,
      ?cunseal, fun _ hp => absurd hp List.not_mem_nil⟩
    case fcmp =>
      show execFcmp o s = .next t → _
      exact fun e => touched_saysPorts e (raiseFlags_runs fun _ hu => .ok (hu.wp (List.mem_singleton_self _) _))
    case fcvt =>
      show execFcvt o s = .next t → _
      exact fun e => touched_saysPorts e (raiseFlags_runs fun _ hu => .ok (hu.wx (List.mem_singleton_self _) _))
    case cseta =>
      show execCseta o s = .next t → _
      exact fun e => touched_saysPorts e (derive_runs _ _ _)
    case cinc =>
      show execCinc q s = .next t → _
      exact fun e => touched_saysPorts e (derive_runs _ _ _)
    case cperm =>
      show execCperm q s = .next t → _
      exact fun e => touched_saysPorts e (derive_runs _ _ _)
    case cbnd | cbnde => exact fun e => touched_saysPorts e (boundsBody_runs q _ s)
    case cseal => exact fun e => touched_saysPorts (b := cseals o) e (cseals_runs o s)
    case cunseal => exact fun e => touched_saysPorts (b := cunseals o) e (cunseals_runs o s)
    all_goals exact fun e => touched_saysPorts e (floatBody_runs o _ s)
  · simp only [List.forall_mem_cons]
    refine ⟨?vadd, ?vsub, ?vmul, ?vfma, ?vfms, ?vmin, ?vmax, ?vabs, ?vneg, ?vand, ?vor, ?vxor, ?vshl, ?vshr, ?vsel, ?vclamp,
      ?vcvt, ?vexp2, ?vlog2, ?vrcp, ?vrsq, ?vsqrt, ?vmov, ?vdot, ?vscl, ?vbcast, ?vins, ?vext, ?vcmp, ?vsin, ?vcos, ?vtanh,
      ?vsigm, ?vexpd, ?vredsum, ?vredmax, ?vredmin, ?vscan, ?vperm, ?vshuf, ?vpack, ?vunpack, ?kand, ?kor, ?kxor, ?knot, ?kpop,
      ?kfirst, ?kset, ?kmov, fun _ hp => absurd hp List.not_mem_nil⟩
    case vext =>
      exact fun e => touched_says (b := vextB o) e (vecRead_runsIn fun _ _ hu => hu.wx (List.mem_singleton_self _) _)
    case vcmp =>
      exact fun e => touched_says (b := vcmpB o) e (vecRead_runsIn fun _ _ hu => hu.wk (List.mem_singleton_self _) _)
    case kand => exact fun e => touched_says (b := kandB o) e (.ok ((Touched.refl s).wk (List.mem_singleton_self _) _))
    case kor => exact fun e => touched_says (b := korB o) e (.ok ((Touched.refl s).wk (List.mem_singleton_self _) _))
    case kxor => exact fun e => touched_says (b := kxorB o) e (.ok ((Touched.refl s).wk (List.mem_singleton_self _) _))
    case knot => exact fun e => touched_says (b := knotB o) e (.ok ((Touched.refl s).wk (List.mem_singleton_self _) _))
    case kset => exact fun e => touched_says (b := ksetB q) e (.ok ((Touched.refl s).wk (List.mem_singleton_self _) _))
    case kpop => exact fun e => touched_says (b := kpopB o) e (.ok ((Touched.refl s).wx (List.mem_singleton_self _) _))
    case kfirst => exact fun e => touched_says (b := kfirstB o) e (.ok ((Touched.refl s).wx (List.mem_singleton_self _) _))
    case kmov => exact fun e => touched_says (b := kmovB o) e (.ok (kmov_runs s o _ _ _ _))
    case vshl | vshr => exact fun e => touched_says e (vshiftB_runsIn _ q s)
    case vabs | vneg | vmov => exact fun e => touched_says e (body_runsIn s (lanes1_body o _))
    case vrcp | vrsq | vsqrt => exact fun e => touched_says e (body_runsIn s (fnLanesRm_body o _))
    case vexp2 | vlog2 | vsin | vcos | vtanh | vsigm => exact fun e => touched_says e (body_runsIn s (fnLanes_body o _))
    case vfma | vfms | vclamp => exact fun e => touched_says e (body_runsIn s (lanes3_body o _))
    case vredmax | vredmin => exact fun e => touched_says e (body_runsIn s (extreme_body o _))
    case vadd | vsub | vmul | vmin | vmax | vand | vor | vxor | vexpd =>
      exact fun e => touched_says e (body_runsIn s (lanes2_body o _))
    all_goals exact fun e => touched_says e (vecBody_runsIn s _ _ _)

end
end

section
/-!
Control (R292, R293) and capabilities (R332-R334): where each instruction ends.
-/

namespace Sys2Proof.Machine

/-- The count of a loop that has not run out. -/
theorem loop_target {α : Type} (n : Word) (a b : α) : (if n - 1 != 0 then a else b) = if n = 1 then b else a := by
  by_cases h : n = 1
  · rw [(loop_runsOut n).mpr h, if_pos h]; rfl
  · rw [if_neg h, if_pos (by rwa [← Bool.not_eq_false, loop_runsOut])]

/-! ### Checks of a capability -/

theorem capRaise_none (s : State) (c : Cap) : capRaise s c none = .ok () := rfl
theorem capRaise_some (s : State) (c : Cap) (n : Nat) :
    capRaise s c (some n) = .error (.trap ⟨n, 0, (capCursor c).toNat⟩, s) := rfl
theorem boundsBody_ok {s : State} {o : RIOp} {e : Bool} {d : Cap} (hc : capDeriveCheck s.world (s.rc (riOa o)) = none)
    (hb : capSetBounds (s.rc (riOa o)) (riZext s o).toNat e = .ok d) : boundsBody o e s = .ok (s.wc (riOd o) d) := by
  simp only [boundsBody, hc, capRaise_none, bind_ok, hb]
theorem boundsBody_unfit {s : State} {o : RIOp} {e : Bool} {a : Nat} (hc : capDeriveCheck s.world (s.rc (riOa o)) = none)
    (hb : capSetBounds (s.rc (riOa o)) (riZext s o).toNat e = .error a) :
    boundsBody o e s = .error (.trap ⟨cCAPB, a, (capCursor (s.rc (riOa o))).toNat⟩, s) := by
  simp only [boundsBody, hc, capRaise_none, bind_ok, hb, raise]
theorem boundsBody_underived {s : State} {o : RIOp} {n : Nat} (e : Bool)
    (hc : capDeriveCheck s.world (s.rc (riOa o)) = some n) :
    boundsBody o e s = .error (.trap ⟨n, 0, (capCursor (s.rc (riOa o))).toNat⟩, s) := by
  simp only [boundsBody, hc, capRaise_some, bind_error]
/-- An authority whose cursor is a type in its bounds (R334). -/
theorem sealAuth_ok {s : State} {a : Cap} {p : BitVec 12} (hk : capCheckKind s.world a p = none)
    (h1 : capBase a ≤ (capCursor a).toNat) (h2 : (capCursor a).toNat < capTop a) (h3 : 3 ≤ (capCursor a).toNat)
    (h4 : (capCursor a).toNat ≤ 15) : sealAuth s a p = .ok (BitVec.ofNat 4 (capCursor a).toNat) := by
  simp only [sealAuth, hk, capRaise_none, bind_ok, decide_eq_true h1, decide_eq_true h2, decide_eq_true h3,
    decide_eq_true h4, Bool.and_self, guardR_true]

end Sys2Proof.Machine

section
open Sys2Proof
open Sys2Proof.Machine

/-- Settles O18. -/
theorem controlCompletes : Obligations.ControlCompletes := by
  unfold Obligations.ControlCompletes
  refine fun s => ⟨fun o => ?br, fun o => ?jmp, fun o => ?callr, fun o => ?calli, fun o => ?ret, fun o => ?loop, fun o => ?nop⟩
  case loop => rw [exec_loop, loop_target]; rfl
  case nop => exact finish_ok rfl
  all_goals exact finishJump_ok rfl

/-- Settles O22. -/
theorem capabilityInstructionsComplete : Obligations.CapabilityInstructionsComplete := by
  unfold Obligations.CapabilityInstructionsComplete
  refine ⟨fun s o => ⟨?_, ?_, ?_, ?_, ?_, ?_, ?_, ?_⟩, ?derive, ?sealing⟩
  case derive =>
    rintro s o q c d rfl rfl
    refine ⟨fun h => ?_, fun n h => ?_, fun h => ⟨?_, ?_, fun e he => ?_, fun e he => ?_, fun a ha => ?_, fun a ha => ?_⟩,
      fun n h i hi => ?_⟩
    · show execCseta o s = _
      refine finish_ok ?_
      simp only [h, capRaise_none, bind_ok]
    · show execCseta o s = _
      refine finish_trap ?_
      simp only [h, capRaise_some, bind_error]
    · show execCinc q s = _
      refine finish_ok ?_
      simp only [h, capRaise_none, bind_ok]
    · show execCperm q s = _
      refine finish_ok ?_
      simp only [h, capRaise_none, bind_ok]
    · exact finish_ok (boundsBody_ok h he)
    · exact finish_ok (boundsBody_ok h he)
    · exact finish_trap (boundsBody_unfit h ha)
    · exact finish_trap (boundsBody_unfit h ha)
    · simp only [List.mem_cons, List.not_mem_nil, or_false] at hi
      rcases hi with rfl | rfl | rfl | rfl
      · show execCinc q s = _
        refine finish_trap ?_
        simp only [h, capRaise_some, bind_error]
      · show execCperm q s = _
        refine finish_trap ?_
        simp only [h, capRaise_some, bind_error]
      · exact finish_trap (boundsBody_underived false h)
      · exact finish_trap (boundsBody_underived true h)
  case sealing =>
    rintro s o c a t rfl rfl rfl ht hw h1 h2 h3 h4
    have hw' : ((capWorld (s.rc o.oa)).toNat == s.world.val) = true := beq_iff_eq.mpr hw
    refine ⟨fun ho hk => ?_, fun ho hk => ?_⟩
    · show execCseal o s = _
      refine finish_ok ?_
      simp only [ht, ho, hw', beq_self_eq_true, guardR_true, bind_ok, sealAuth_ok hk h1 h2 h3 h4]
    · show execCunseal o s = _
      refine finish_ok ?_
      simp only [ht, ho, hw', beq_self_eq_true, guardR_true, bind_ok, sealAuth_ok hk h1 h2 h3 h4]
  all_goals exact finish_ok rfl

end
end

section
/-!
The system group (R357-R369, R429-R431): where each instruction ends.
-/

namespace Sys2Proof.Machine

/-- A target of a supervisor instruction (R362). -/
theorem targetSlot_ok {s : State} {r : BitVec 6} {i : SlotId} (h : (s.rx r).toNat < 15) (hi : i = Fin.ofNat 16 (s.rx r).toNat) :
    targetSlot s r = .ok i := by
  simp only [targetSlot, decide_eq_true h, guardR_true, bind_ok, hi]
/-- sret finds no slot that it can let go on. -/
theorem sretBody_refuses {s : State} {o : ROp} {i : SlotId} (f : Slot → Slot) (hx : (s.rx o.oa).toNat < 15)
    (hi : i = Fin.ofNat 16 (s.rx o.oa).toNat) (hn : (s.slot i).stoppedHere = false ∨ (s.slot i).wsecHeld = true) :
    sretBody o f s = .error (.trap ⟨cPROT, 27, 0⟩, s) := by
  have hg : ((s.slot i).stoppedHere && !(s.slot i).wsecHeld) = false := by
    rcases hn with h | h <;> simp [h]
  simp only [sretBody, targetSlot_ok hx hi, bind_ok, hg, guardR_false, bind_error]
theorem pkArgs_ok {s : State} {o : ROp} {w : Bool} {i : SlotId} {x : Sel} (hx : (s.rx o.oa).toNat < 15)
    (hi : i = Fin.ofNat 16 (s.rx o.oa).toNat) (hs : (s.slot i).stoppedHere = true)
    (hsel : selOf (s.rx o.ob) (o.md.sub == 1) w = some x) : pkArgs s o w = .ok (i, x) := by
  simp only [pkArgs, targetSlot_ok hx hi, bind_ok, hs, guardR_true, hsel]

/-- The record `r` has been taken from the queue into four registers (R365). -/
def State.tookRecord (s : State) (d : BitVec 6) (r : TrapRec) : State :=
  let t := (((s.wx d r.w0).wx (d + 1) r.w1).wx (d + 2) r.w2).wx (d + 3) r.w3
  ({ t with trapQ := t.trapQ.tail } : State).post .trapRecordEnqueue
theorem tookRecord_trapQ (s : State) (d : BitVec 6) (r : TrapRec) : (s.tookRecord d r).trapQ = s.trapQ.tail := rfl
theorem tookRecord_slots (s : State) (d : BitVec 6) (r : TrapRec) : (s.tookRecord d r).slots =
    ((((s.wx d r.w0).wx (d + 1) r.w1).wx (d + 2) r.w2).wx (d + 3) r.w3).slots := rfl
theorem exec_trq (o : ROp) (s : State) :
    exec (.trq o) s = .next (ended o.hdr (s.tookRecord o.od (s.trapQ.headD TrapRec.zero))) := finish_ok rfl

end Sys2Proof.Machine

section
open Sys2Proof
open Sys2Proof.Machine

/-- Settles O25. -/
theorem systemInstructionsComplete : Obligations.SystemInstructionsComplete := by
  unfold Obligations.SystemInstructionsComplete
  refine ⟨fun s o => ⟨rfl, rfl⟩, fun s => ⟨?gsr, ?regs, ?trq, ?trqEmpty, ?wfs, ?wfsPark, ?hint⟩,
    fun s o i hx hi => ⟨?sret, ?sretNone, ?wake, ?rdpk, ?wrpk, ?suspk, ?suspkQFree, ?suspkQ⟩⟩
  case gsr =>
    rintro o n v rfl hv
    show execGsr o s = _
    refine finish_ok ?_
    simp only [hv, bind_ok]
  case regs =>
    rintro o n rfl
    refine ⟨fun hb hn hf => ?_, fun hb hn hr => ?_, fun hb => ?_, finish_ok rfl, finish_ok rfl, fun hr => ?_⟩
    · show execSsr o s = _
      refine finish_ok ?_
      simp only [hb, Bool.not_false, guardR_true, bind_ok, hf, if_pos hn]
    · have hf : fp4Idle s s.cur (o.imm.toNat % 4096) = .ok () := by
        have h1 : (o.imm.toNat % 4096 == 0x00A) = false := beq_false_of_ne (by omega)
        have h2 : (o.imm.toNat % 4096 == 0x00B) = false := beq_false_of_ne (by omega)
        simp only [fp4Idle, h1, h2, Bool.or_self, Bool.false_and, Bool.false_eq_true, if_false]
      show execSsr o s = _
      refine finish_ok ?_
      simp only [hb, Bool.not_false, guardR_true, bind_ok, hf, if_neg (Nat.not_lt.mpr hn)]
      by_cases h : 0x080 ≤ o.imm.toNat % 4096
      · simp only [if_pos h, hr h, bind_ok]
      · simp only [if_neg h]
    · show execSsr o s = _
      refine finish_trap ?_
      simp only [hb, Bool.not_true, guardR_false, bind_error]
    · show execBmodeWrite o s = _
      refine finish_ok ?_
      simp only [hr, bind_ok]
  case trq =>
    intro o r rest hq
    refine ⟨_, exec_trq o s, ?_, ?_⟩
    · rw [tookRecord_trapQ, hq, List.tail_cons]
    · rw [hq, List.headD_cons, tookRecord_slots]
  case trqEmpty =>
    intro o hq
    refine ⟨_, exec_trq o s, ?_, ?_⟩
    · rw [tookRecord_trapQ, hq, List.tail_nil]
    · rw [hq, List.headD_nil, tookRecord_slots]; rfl
  case wfs =>
    intro o h
    have hn : (s.trapQ.isEmpty && s.sl.wake == 0) = false := by
      rcases h with h | h
      · simp [h]
      · rw [beq_false_of_ne h, Bool.and_false]
    show execWfs o s = _
    unfold execWfs
    rw [hn, if_neg Bool.false_ne_true]
    exact finish_ok rfl
  case wfsPark =>
    intro o hq hw
    show execWfs o s = _
    unfold execWfs
    simp only [hq, hw, List.isEmpty_nil, beq_self_eq_true, Bool.and_self, if_true]
  case hint =>
    intro o
    show execHint o s = _
    refine finish_ok ?_
    simp only [Bool.and_eq_true, beq_iff_eq, bne_iff_ne, List.isEmpty_iff, and_assoc, ne_eq]
  case sret =>
    intro hs hw hr
    exact ⟨finish_ok (sretBody_resumes _ hx hi hs hw hr), finish_ok (sretBody_resumes _ hx hi hs hw hr),
      finish_ok (sretBody_resumes _ hx hi hs hw hr)⟩
  case sretNone =>
    intro hn j hj
    simp only [List.mem_cons, List.not_mem_nil, or_false] at hj
    rcases hj with rfl | rfl | rfl
    · exact finish_trap (sretBody_refuses _ hx hi hn)
    · exact finish_trap (sretBody_refuses _ hx hi hn)
    · exact finish_trap (sretBody_refuses _ hx hi hn)
  case wake =>
    intro hr
    show execSretWake o s = _
    refine finish_ok ?_
    simp only [targetSlot_ok hx hi, bind_ok, hr]
  case rdpk =>
    intro x hs hsel hbad
    have hargs := pkArgs_ok hx hi hs hsel
    refine ⟨fun h1 => ?_, fun h1 hp hn => ?_, fun h1 hp => ?_, fun v h1 hf hn hv => ?_⟩
    · show execRdpk o s = _
      refine finish_ok ?_
      simp only [hargs, bind_ok, hbad, check_none, h1, beq_self_eq_true, if_true, beq_iff_eq]
    · have h22 : (x.file == 6 && x.num == 0x022) = false := by
        rcases hn with h | h <;> simp [h]
      show execRdpk o s = _
      refine finish_ok ?_
      simp only [hargs, bind_ok, hbad, check_none, beq_false_of_ne h1, hp, h22, Bool.false_eq_true, if_false]
    · show execRdpk o s = _
      refine finish_ok ?_
      simp only [hargs, bind_ok, hbad, check_none, beq_false_of_ne h1, hp, Bool.false_eq_true, if_false, if_true]
    · have hp : (s.slot i).selPort x = false := by simp [Slot.selPort, hf]
      show execRdpk o s = _
      refine finish_ok ?_
      simp only [hargs, bind_ok, hbad, check_none, beq_false_of_ne h1, hp, hf, hn, hv, beq_self_eq_true, Bool.and_self,
        Bool.false_eq_true, if_false, if_true]
  case wrpk =>
    intro x hs hsel
    have hargs := pkArgs_ok hx hi hs hsel
    refine ⟨fun h1 => ?_, fun h1 h6 => ?_⟩
    · show execWrpk o s = _
      refine finish_ok ?_
      simp only [hargs, bind_ok, h1, beq_self_eq_true, if_true]
    · have hg : (!(x.file == 6 && sysBound x.num)) = true := by
        by_cases h : x.file = 6
        · simp [(h6 h).1]
        · simp [h]
      have hf : fp4Idle s i (if x.file = 6 then x.num else 0) = .ok () := by
        by_cases h : x.file = 6
        · rw [if_pos h]; exact (h6 h).2
        · rw [if_neg h]; rfl
      show execWrpk o s = _
      refine finish_ok ?_
      simp only [hargs, bind_ok, beq_false_of_ne h1, Bool.false_eq_true, if_false, hg, guardR_true, beq_iff_eq, hf]
  case suspk =>
    intro hr
    refine ⟨fun n hn hst => ?_, fun n hn hst => ?_⟩
    · subst hn
      show execSuspk o s = _
      refine finish_ok ?_
      rcases hst with h | ⟨k, m, h⟩ | ⟨q, h⟩
      all_goals
        simp only [targetSlot_ok hx hi, bind_ok, hr, bne_self_eq_false, Bool.false_eq_true, if_false, h]
    · subst hn
      show execSuspk o s = _
      refine finish_ok ?_
      rcases hst with h | h | h
      all_goals
        simp only [targetSlot_ok hx hi, bind_ok, hr, bne_self_eq_false, Bool.false_eq_true, if_false, h]
  case suspkQFree =>
    intro hf
    show execSuspkQ o s = _
    refine finish_ok ?_
    simp only [targetSlot_ok hx hi, bind_ok, hf, if_true]
  case suspkQ =>
    intro hf hn
    show execSuspkQ o s = _
    refine finish_ok ?_
    simp only [targetSlot_ok hx hi, bind_ok, if_neg hf, hn, Bool.not_true, Bool.false_eq_true, if_false]

end
end

section
/-!
Fibres and tows (R294-R308): where each instruction ends.
-/

namespace Sys2Proof.Machine

/-! ### Leaving a slot (R301) -/

theorem awaitRoom_ok {s : State} {i : Fin 32} (h : s.freeAwait = some i) : awaitRoom s = .ok i := by
  simp only [awaitRoom, h]
/-- A fibre that holds a unit may not leave its slot. -/
theorem mayLeave_refused {s : State}
    (h : s.mat.holder = some s.cur ∨ (∃ i : Fin 4, (s.sl.port i).bound = true) ∨ s.sl.tjn ≠ 0) :
    mayLeave s = .error (.trap ⟨cPROT, 19, 0⟩, s) := by
  have hb : (!(s.mat.holder = some s.cur || s.sl.ports.toList.any (·.bound) || s.sl.tjn != 0)) = false := by
    rw [Bool.not_eq_false']
    rcases h with h | ⟨i, h⟩ | h
    · simp [h]
    · have : s.sl.ports.toList.any (·.bound) = true :=
        List.any_eq_true.mpr ⟨s.sl.ports[i], Vector.mem_toList_iff.mpr (Vector.getElem_mem i.isLt), h⟩
      simp [this]
    · have : (s.sl.tjn != 0) = true := bne_iff_ne.mpr h
      rw [this, Bool.or_true]
  rw [mayLeave, hb, guardR_false]
theorem finishGone_trap {h : Hdr} {b : State → R State} {s t : State} {f : Fail} (e : b s = .error (.trap f, t)) :
    finishGone h b s = .next (t.takeTrap f) := by
  simp only [finishGone, e, stopped]

/-! ### Reply granules (R300) -/

theorem nextReply_head {s : State} {r : Reply} {rest : List Reply} (h : s.replyReady r = true) :
    s.nextReply [] (r :: rest) = some r := by
  simp [State.nextReply, h]
theorem dropFirst_head {α : Type} [DecidableEq α] (a : α) (l : List α) : dropFirst a (a :: l) = l := by
  simp [dropFirst]
theorem replyLands_ok {s : State} {c : Fin 64} {w : World} {off : Nat} (h1 : winBaseOf (s.rpwinOf c w) ≤ off)
    (h2 : off + 16 ≤ winLimitOf (s.rpwinOf c w)) (h3 : s.bankMode c (off / 2 ^ 17) = 0 ∨ s.bankMode c (off / 2 ^ 17) = 3) :
    s.replyLands c w off = true := by
  have h3' : (s.bankMode c (off / 2 ^ 17) == 0 || s.bankMode c (off / 2 ^ 17) == 3) = true := by
    rcases h3 with h | h <;> rw [h] <;> rfl
  simp only [State.replyLands, h1, h2, h3', decide_true, Bool.and_self]
theorem writeReply_lands {s : State} {r : Reply} (h : s.replyLands r.cluster r.world r.off = true) :
    s.writeReply r = s.putReply r.cluster r.off r.lo r.hi r.scope := by
  rw [State.writeReply, if_pos h]
theorem putReply_eq (s : State) (c : Fin 64) (off : Nat) (lo hi : Word) (n : Nat) :
    s.putReply c off lo hi n =
      if n < 2 then s.engineWrite (clKey c.val off) (leBytes 8 lo.toNat ++ leBytes 8 hi.toNat)
      else { s.engineWrite (clKey c.val off) (leBytes 8 lo.toNat ++ leBytes 8 hi.toNat) with
        fullScopes := (s.engineWrite (clKey c.val off) (leBytes 8 lo.toNat ++ leBytes 8 hi.toNat)).fullScopes ++
          [(clKey c.val off / 16, n)] } := by
  unfold State.putReply
  by_cases h : n < 2
  · rw [if_pos h, if_neg (by omega)]
  · rw [if_neg h, if_pos (by omega)]

/-! ### Tows (R306) -/

theorem belongs_ne {sl : Slot} {t : BitVec 16} (h : sl.belongs t = true) : (t != 0) = true := by
  unfold Slot.belongs at h
  exact (Bool.and_eq_true_iff.mp h).1
theorem homeReach_ok {s : State} {n : Need} {k : Nat} (h : s.sl.tow ≠ 0) (e : towReach s s.sl.tow n = .ok k) :
    homeReach s n = .ok k := by
  have : (s.sl.tow != 0) = true := bne_iff_ne.mpr h
  simp only [homeReach, this, guardR_true, bind_ok, e]

end Sys2Proof.Machine

section
open Sys2Proof
open Sys2Proof.Machine

/-- Settles O19. -/
theorem fibresAndRepliesComplete : Obligations.FibresAndRepliesComplete := by
  unfold Obligations.FibresAndRepliesComplete
  refine ⟨?send, fun s => ⟨?reply, ?noReply, ?write, ?sealed, ?far⟩⟩
  case send =>
    rintro s o t k r hc ht hr hk rfl
    refine ⟨fun c hs hroom hq ha => ?_, fun c u hcall hs => ?_⟩
    · show execSpawn o s = _
      refine finish_ok ?_
      have e : sentRecord s o = ⟨capTarget (s.rc o.oa), s.rc o.ob, s.sl.rx 10, s.sl.rx 11, s.sl.rx 12,
        s.buildCtl s.sl (s.rx o.oc) ((s.rx o.oc).extractLsb' 0 16)⟩ := rfl
      simp only [hc, hs, ht, hr, hk, bind_ok, e, hroom, hq, ha, Bool.not_true, Bool.or_self, Bool.false_eq_true, if_false]
    · show execCallat o s = _
      refine finish_ok ?_
      have hs' : sendTo s c (sentRecord s o) = .ok u := hs
      simp only [hc, hcall, ht, hr, hk, bind_ok, hs']
  case reply =>
    rintro o ctl rfl hv hoff
    show execReply o s = _
    refine finish_ok ?_
    simp only [hv, hoff, decide_true, guardR_true, bind_ok]
  case noReply =>
    intro o hv
    show execReply o s = _
    refine finish_trap ?_
    simp only [hv, guardR_false, bind_error]
  case write =>
    rintro r rest w ha hr hready h1 h2 h3 rfl
    show execReplyGranuleWrite s = _
    simp only [execReplyGranuleWrite, ha, hr, nextReply_head hready, dropFirst_head]
    refine congrArg Host.Outcome.next ((writeReply_lands ?_).trans (putReply_eq _ _ _ _ _ _))
    exact replyLands_ok h1 h2 h3
  case sealed =>
    intro r ha ht
    show execReplyGranuleWrite s = _
    simp only [execReplyGranuleWrite, ha, ht, Bool.not_false, if_true, State.transferFails]
  case far =>
    rintro r w ha h16 ht h1 h2 h3 rfl
    have hl := replyLands_ok h1 h2 h3
    show execReplyGranuleWrite s = _
    simp only [execReplyGranuleWrite, ha, ht, hl, h16, Bool.not_true, Bool.false_eq_true, if_false, beq_self_eq_true,
      Bool.and_self, if_true, putReply_eq]

/-- Settles O20. -/
theorem fibresLeaveTheirSlots : Obligations.FibresLeaveTheirSlots := by
  unfold Obligations.FibresLeaveTheirSlots
  refine ⟨?_, ?_⟩
  · rintro s u o rfl
    refine ⟨fun hm hr => ⟨?yield, ?sm, ?gran, ?callat⟩, ?exit⟩
    case yield =>
      show execYield o s = _
      refine finishGone_ok ?_
      simp only [hm, hr, bind_ok, beq_iff_eq]
    case sm =>
      rintro i n hi rfl hn hin hv hb
      show execAwaitSm o s = _
      refine finishGone_ok ?_
      simp only [hn, hin, hv, hb, decide_true, Bool.not_false, guardR_true, bind_ok, hm, awaitRoom_ok hi, hr]
    case gran =>
      rintro i a hi rfl hacc
      constructor
      · show execAwaitFull o s = _
        refine finishGone_ok ?_
        simp only [awaitGran, hacc, bind_ok, hm, awaitRoom_ok hi, hr]
      · show execAwaitEmpty o s = _
        refine finishGone_ok ?_
        simp only [awaitGran, hacc, bind_ok, hm, awaitRoom_ok hi, hr]
    case callat =>
      rintro c ctl t a i k v hs hc rfl hrv hrcl ht rfl hoff hloc hbank hi hrel hk hsend
      have hg : (ctlRv ((s.goHome s.cur).rx o.oc) && ctlRcl ((s.goHome s.cur).rx o.oc) == (s.goHome s.cur).cluster.val) = true := by
        rw [hrv, hrcl, beq_self_eq_true]; rfl
      show execCallatW o s = _
      refine finishGone_ok ?_
      simp only [hs, hc, hg, guardR_true, bind_ok, ht, hoff, decide_true, hloc, hbank, check_none, hm, awaitRoom_ok hi, hrel, hk,
        hsend]
    case exit =>
      intro v hv he
      show execExit o s = _
      refine finishGone_ok ?_
      simp only [hv, he, bind_ok]
  · rintro s u o rfl h
    refine ⟨?_, fun hacc => ⟨?_, ?_⟩⟩
    · show execYield o s = _
      refine finishGone_trap ?_
      simp only [mayLeave_refused h, bind_error]
    · show execAwaitFull o s = _
      refine finishGone_trap ?_
      simp only [awaitGran, hacc, bind_ok, mayLeave_refused h, bind_error]
    · show execAwaitEmpty o s = _
      refine finishGone_trap ?_
      simp only [awaitGran, hacc, bind_ok, mayLeave_refused h, bind_error]

/-- Settles O21. -/
theorem towsComplete : Obligations.TowsComplete := by
  unfold Obligations.TowsComplete
  refine fun s => ⟨fun o t k ht hr hk => ⟨fun h0 hb h1 hw => ?home, fun h0 hb h1 ha => ?first, fun h0 hb h1 ha hj => ?second,
    fun hb => ⟨?leave, ?again⟩, fun hb => ?stranger⟩, ?query, fun o => ?prio, fun k hw => ⟨fun o hk => ?rclk, ?rcadv⟩,
    fun o hw => ?noTow⟩
  case home =>
    have h0' : (t != 0) = true := bne_iff_ne.mpr h0
    show execTjoin o s = _
    refine finish_ok ?_
    simp only [ht, bind_ok, h0', hb, h1, hw, beq_self_eq_true, if_true, Bool.not_false, Bool.and_self, guardR_true, hr, hk]
  case first =>
    have h0' : (t != 0) = true := bne_iff_ne.mpr h0
    show execTjoin o s = _
    refine finish_ok ?_
    simp only [ht, bind_ok, h0', hb, beq_false_of_ne h1, ha, beq_self_eq_true, Bool.false_eq_true, if_false, if_true,
      Bool.not_false, Bool.true_or, Bool.and_self, guardR_true, hr, hk]
  case second =>
    have h0' : (t != 0) = true := bne_iff_ne.mpr h0
    show execTjoin o s = _
    refine finish_ok ?_
    simp only [ht, bind_ok, h0', hb, beq_false_of_ne h1, beq_false_of_ne ha, hj, beq_self_eq_true, Bool.false_eq_true, if_false,
      Bool.not_false, Bool.or_true, Bool.and_self, guardR_true, hr, hk]
  case leave =>
    show execTleave o s = _
    refine finish_ok ?_
    simp only [ht, bind_ok, hb, guardR_true, hr, hk]
  case again =>
    show execTjoin o s = _
    refine finish_trap ?_
    simp only [ht, bind_ok, hb, Bool.not_true, Bool.and_false, Bool.false_and, guardR_false, bind_error]
  case stranger =>
    show execTleave o s = _
    refine finish_trap ?_
    simp only [ht, bind_ok, hb, guardR_false, bind_error]
  case query =>
    rintro o t ht u rfl hu
    have hu' : ((if t = 0 then s.sl.tow else t) != 0) = true := bne_iff_ne.mpr hu
    refine ⟨fun h => ?_, fun h => ?_, fun k h7 h8 hk => ?_⟩
    · show execTqry o s = _
      refine finish_ok ?_
      simp only [ht, bind_ok, hu', guardR_true, h]
      rfl
    · show execTqry o s = _
      refine finish_ok ?_
      simp only [ht, bind_ok, hu', guardR_true, h]
      rfl
    · have h7' : (o.md.sub.toNat == 7) = false := beq_false_of_ne fun e => h7 (BitVec.eq_of_toNat_eq e)
      have h8' : (o.md.sub.toNat == 8) = false := beq_false_of_ne fun e => h8 (BitVec.eq_of_toNat_eq e)
      show execTqry o s = _
      refine finish_ok ?_
      simp only [ht, bind_ok, hu', guardR_true, h7', h8', Bool.false_eq_true, if_false, hk]
  case prio => exact finish_ok rfl
  case rclk =>
    show execRclk o s = _
    refine finish_ok ?_
    simp only [homeReach_ok hw hk, bind_ok]
  case rcadv =>
    rintro o hk v rfl
    show execRcadv o s = _
    refine finish_ok ?_
    simp only [homeReach_ok hw hk, bind_ok]
  case noTow =>
    show execRclk o s = _
    refine finish_trap ?_
    simp only [homeReach, hw, bne_self_eq_false, guardR_false, bind_error]

end
end

section
/-!
The transform coprocessor (R178-R186) and revocation (R335-R337): where each instruction and each act ends.
-/

namespace Sys2Proof.Machine

/-! ### The port of the coprocessor -/

section
variable {s : State} {o : ROp} {op : BitVec 2}

theorem xPresent_accepted (hc : xChecks s (xRequest s o op) = .ok ()) (hl : s.cl.xreqs.length < 4) :
    xPresent s o op = .ok (((s.modCl fun c =>
      { c with xreqs := c.xreqs ++ [xRequest s o op], xbusy := 0, xresv := false }).wp o.od true).post
        .transformRequestExecute) := by
  simp only [xPresent, hc, bind_ok, if_pos hl]
theorem xPresent_busy (hc : xChecks s (xRequest s o op) = .ok ()) (hl : 4 ≤ s.cl.xreqs.length) (hb : s.cl.xbusy < 7) :
    xPresent s o op = .ok ((s.restoreWait.modCl fun c => { c with xbusy := c.xbusy + 1, xresv := true }).wp o.od false) := by
  simp only [xPresent, hc, bind_ok, if_neg (Nat.not_lt.mpr hl), if_neg (Nat.not_le.mpr hb)]
theorem xPresent_waits (hc : xChecks s (xRequest s o op) = .ok ()) (hl : 4 ≤ s.cl.xreqs.length) (hb : 7 ≤ s.cl.xbusy) :
    xPresent s o op = .error (.wait .pool 0 0, s) := by
  simp only [xPresent, hc, bind_ok, if_neg (Nat.not_lt.mpr hl), if_pos hb, waitFor]
/-- An instruction that waits stands with its pc, in the queue of what it waits for. -/
theorem stopped_wait (s : State) (k : WaitKind) (obj n : Nat) :
    (stopped (.wait k obj n) s).sl.status = .waiting k obj ∧ (stopped (.wait k obj n) s).sl.pcc = s.sl.pcc ∧
      (stopped (.wait k obj n) s).cl = s.cl := by
  have hc : (stopped (.wait k obj n) s).cur = s.cur := (stopped_ends _ s).1
  have hs : (stopped (.wait k obj n) s).sl = { s.sl with status := .waiting k obj, begun := true } := by
    show (stopped (.wait k obj n) s).slot (stopped (.wait k obj n) s).cur = _
    rw [hc]
    unfold stopped
    dsimp only
    rw [joinQueue_slot]
    exact modCur_slot s fun sl => { sl with status := .waiting k obj, begun := true }
  refine ⟨by rw [hs], by rw [hs], ?_⟩
  unfold stopped
  dsimp only
  rw [joinQueue_eq]
  rfl

end

/-- What a request does at the port, whatever it computes. -/
theorem presents {s : State} {o : ROp} {op : BitVec 2} {i : Instr} (e : exec i s = finishHanded (xPresent · o op) s)
    (hc : xChecks s (xRequest s o op) = .ok ()) :
    (s.cl.xreqs.length < 4 → exec i s = .next (handed (((s.modCl fun c =>
        { c with xreqs := c.xreqs ++ [xRequest s o op], xbusy := 0, xresv := false }).wp o.od true).post
          .transformRequestExecute))) ∧
      (4 ≤ s.cl.xreqs.length → s.cl.xbusy < 7 → exec i s = .next (handed ((s.restoreWait.modCl fun c =>
        { c with xbusy := c.xbusy + 1, xresv := true }).wp o.od false))) ∧
      (4 ≤ s.cl.xreqs.length → 7 ≤ s.cl.xbusy → ∃ t, exec i s = .next t ∧ t.sl.status = .waiting .pool 0 ∧
        t.sl.pcc = s.sl.pcc ∧ t.cl = s.cl) := by
  rw [e]
  refine ⟨fun hl => finishHanded_ok (xPresent_accepted hc hl), fun hl hb => finishHanded_ok (xPresent_busy hc hl hb),
    fun hl hb => ⟨stopped (.wait .pool 0 0) s, ?_, stopped_wait s .pool 0 0⟩⟩
  simp only [finishHanded, xPresent_waits hc hl hb]

/-! ### Revocation -/

section
variable {s r u v : State} {o : ROp} {ps : List Piece} {bs : List Byte}

/-- The bits of a region are changed in the bytes of the bitmap that hold them (R336). -/
theorem crvkBody_ok (set : Bool) {i0 i1 : Nat}
    (hc : capCheck s.world (s.rc o.oa) (capBase (s.rc o.oa)) (capLen (s.rc o.oa)) pSYS = none)
    (hb : capBase (s.rc o.oa) % 64 = 0) (hl : capLen (s.rc o.oa) % 64 = 0) (h0 : capLen (s.rc o.oa) ≠ 0)
    (hg : capLocal (s.rc o.oa) = false) (hlo : s.rvLo ≤ capBase (s.rc o.oa)) (hhi : capTop (s.rc o.oa) ≤ s.rvHi)
    (hr : releaseWait s 3 = .ok ()) (hi0 : i0 = (capBase (s.rc o.oa) - s.rvLo) / 64)
    (hi1 : i1 = i0 + capLen (s.rc o.oa) / 64)
    (hp : s.globalPieces s.world (some s.cluster.val) { r := true, w := true } false ((s.rvMap + i0 / 8) % 2 ^ 56)
      ((i1 - 1) / 8 - i0 / 8 + 1) = .ok ps)
    (hh : ps.all (fun p => p.place != .hold) = true) (hf : mapFree s ps = .ok ()) (ha : arrive s s.world ps = .ok r)
    (hld : loadPieces r ps { served := .owner } = .ok (bs, u))
    (hst : storePieces u ps (rvChange i0 i1 set (i0 / 8) bs) [] = .ok v) :
    crvkBody o set s = .ok (v.dropWorld s.world) := by
  subst hi0 hi1
  have hfind : ps.find? (fun p => p.place == .hold) = none := by
    rw [List.find?_eq_none]
    intro p hp'
    have := List.all_eq_true.mp hh p hp'
    simpa only [bne_iff_ne, ne_eq, beq_iff_eq] using this
  have h0' : (capLen (s.rc o.oa) == 0) = false := beq_false_of_ne h0
  have hwf : (capBase (s.rc o.oa) % 64 == 0 && capLen (s.rc o.oa) % 64 == 0 && !capLocal (s.rc o.oa) &&
      decide (s.rvLo ≤ capBase (s.rc o.oa)) && decide (capTop (s.rc o.oa) ≤ s.rvHi)) = true := by
    rw [hb, hl, hg, decide_eq_true hlo, decide_eq_true hhi]; rfl
  simp only [crvkBody, hc, check_none, bind_ok, hwf, guardR_true, h0', Bool.false_eq_true, if_false, hr, hp, hfind, hf, ha, hld,
    hst]

end

end Sys2Proof.Machine

section
open Sys2Proof
open Sys2Proof.Machine

/-- Settles O13. -/
theorem transformCompletes : Obligations.TransformCompletes := by
  unfold Obligations.TransformCompletes
  refine fun s => ⟨fun o p hp hc => ?port, fun o => exec_xpoll o s, fun ha hl => ?reserved, fun q rest r ha hq hf hr u hu => ?run⟩
  case port =>
    simp only [List.mem_cons, List.not_mem_nil, or_false] at hp
    rcases hp with rfl | rfl | rfl | rfl
    · exact presents rfl hc
    · exact presents rfl hc
    · exact presents rfl hc
    · exact presents rfl hc
  case reserved =>
    show execTransformReservedEntry s = _
    simp only [execTransformReservedEntry, ha, if_pos hl]
  case run =>
    subst hr hu
    show execTransformRequestExecute s = _
    simp only [execTransformRequestExecute, ha, hq, State.xRun, hf]

/-- Settles O24. -/
theorem revocationCompletes : Obligations.RevocationCompletes := by
  unfold Obligations.RevocationCompletes
  refine fun s => ⟨?crvk, fun o w hw hn => ?start, fun o w x hw hx hk => ?ack, fun w x ha hx => ?sweep,
    fun w x ha hx hk hs hd => ?complete⟩
  case crvk =>
    rintro o c b i0 i1 ps bs r u v rfl rfl hc hb hl h0 hg hlo hhi hr hi0 hi1 hp hh hf ha hld
    exact ⟨fun hst => finish_ok (crvkBody_ok true hc hb hl h0 hg hlo hhi hr hi0 hi1 hp hh hf ha hld hst),
      fun hst => finish_ok (crvkBody_ok false hc hb hl h0 hg hlo hhi hr hi0 hi1 hp hh hf ha hld hst)⟩
  case start =>
    show execCswpStart o s = _
    refine finishHanded_ok ?_
    simp only [hw, bind_ok, hn, Option.isSome_none, Bool.false_eq_true, if_false]
  case ack =>
    refine ⟨({ s with slots := s.slots.map (s.sweepSlot w), mat := s.sweepMat w s.mat } : State).modWorld w fun y =>
      { y with sweep := some { x with acked := true } }, ?_, rfl, ?_, rfl, rfl⟩
    · show execCswpAck o s = _
      refine finish_ok ?_
      simp only [hw, bind_ok, hx, hk, Bool.false_eq_true, if_false]
    · simp [State.wst, State.modWorld]
  case sweep =>
    show execSweepMemory s = _
    simp only [execSweepMemory, ha, hx]
  case complete =>
    show execSweepComplete s = _
    simp only [execSweepComplete, ha, hx, hd, hk, hs, Bool.not_true, Bool.false_eq_true, if_false, Bool.and_self, if_true]

end
end

section
/-!
Synchronisation (R226-R231): monitors, park, semaphores and barriers, and where each instruction ends.
-/

namespace Sys2Proof.Machine

/-! ### Barriers -/

section
variable {s : State} {o : ROp} {t : BitVec 16} {k : Nat}

/-- An arrival at a barrier whose tow can be reached. -/
theorem arriveBody_ok {f : State → BitVec 16 → Nat → State} (ht : barTow s o.oa = .ok t)
    (hr : releaseWait s (o.md.isp.toNat % 8) = .ok ()) (hk : towReach s t { r := true, w := true } = .ok k) :
    arriveBody o f s = .ok (((f s t k).arrive t k).wx o.od (BitVec.ofNat 64 (s.towNat k 0x10 4))) := by
  simp only [arriveBody, ht, hr, hk, bind_ok]
/-- A wait ends once the generation differs. -/
theorem barWait_ok (ht : barTow s o.oa = .ok t) (hk : towReach s t { r := true } = .ok k)
    (hg : s.towNat k 0x10 4 ≠ (s.rx o.ob).toNat % 2 ^ 32) : barWait o s = .ok t := by
  simp only [barWait, ht, hk, bind_ok, beq_iff_eq, if_neg hg]

end

end Sys2Proof.Machine

section
open Sys2Proof
open Sys2Proof.Machine

/-- Settles O16. -/
theorem synchronisationCompletes : Obligations.SynchronisationCompletes := by
  unfold Obligations.SynchronisationCompletes
  refine ⟨fun s u v => ⟨fun o c ea ps i bs hc he ha hm hb hv hl => ?mon, fun o hx => ?unmonAll,
      fun o ps hx ha f hf => ?unmonLine, fun o => ⟨fun hp => ?park, fun hp => if_pos hp⟩,
      fun i => ⟨fun ha ht hs => ?wake, fun ha ht hd hs => ?timeout⟩⟩,
    fun s => ⟨fun o hv hr => ?smset, fun o hv => ?smsetTrap, fun o => finish_ok rfl,
      fun o t ht => ⟨fun h0 h1 hr => ?smadd, fun h1 => ?smaddOver, fun h0 => ?smaddUnder⟩⟩,
    fun s o t k ht => ⟨fun hs hr hk => ⟨?bar, ?barmx⟩, fun hs hk hg => ⟨?barW, ?barmxW⟩⟩⟩
  case mon =>
    subst hc; subst he
    show execMon o s = _
    refine finish_ok ?_
    simp only [beq_iff_eq, ha, bind_ok, hm, hb, hv, hl]
  case unmonAll =>
    show execUnmon o s = _
    refine finish_ok ?_
    simp only [hx, beq_self_eq_true, if_true]
  case unmonLine =>
    subst hf
    show execUnmon o s = _
    refine finish_ok ?_
    have hx' : (o.x == 1) = false := by rw [hx]; rfl
    simp only [hx', Bool.false_eq_true, if_false, ha, bind_ok]
  case park =>
    show execPark o s = _
    exact (if_neg hp).trans (finish_ok rfl)
  case wake =>
    show execParkWake s = _
    simp only [execParkWake, ha, if_neg ht, State.unpark, if_pos hs]
  case timeout =>
    show execParkTimeout s = _
    simp only [execParkTimeout, ha, ht, hd, Bool.false_eq_true, or_self, if_false, State.unpark, if_pos hs]
  case smset =>
    show execSmset o s = _
    refine finish_ok ?_
    simp only [decide_eq_true hv, guardR_true, hr, bind_ok]
  case smsetTrap =>
    show execSmset o s = _
    refine finish_trap ?_
    simp only [decide_eq_false (Nat.not_le.mpr hv), guardR_false, bind_error]
  case smadd =>
    subst ht
    show execSmadd o s = _
    refine finish_ok ?_
    simp only [decide_eq_true h1, decide_eq_true h0, guardR_true, hr, bind_ok]
  case smaddOver =>
    subst ht
    show execSmadd o s = _
    refine finish_trap ?_
    simp only [decide_eq_false (Int.not_le.mpr h1), guardR_false, bind_error]
  case smaddUnder =>
    subst ht
    show execSmadd o s = _
    refine finish_trap ?_
    have h1 : (s.semVal (semOf (riMd o)) : Int) + (riAorImmS s o).toInt ≤ 65535 := by omega
    simp only [decide_eq_true h1, guardR_true, bind_ok, decide_eq_false (Int.not_le.mpr h0), guardR_false, bind_error]
  case bar =>
    show execBar o s = _
    refine finish_ok ?_
    simp only [beq_iff_eq, if_neg hs]
    exact arriveBody_ok ht hr hk
  case barmx =>
    show execBarmx o s = _
    refine finish_ok ?_
    simp only [beq_iff_eq, if_neg hs]
    exact arriveBody_ok ht hr hk
  case barW =>
    show execBar o s = _
    refine finish_ok ?_
    simp only [hs, beq_self_eq_true, if_true, barWait_ok ht hk hg, bind_ok]
  case barmxW =>
    show execBarmx o s = _
    refine finish_ok ?_
    simp only [hs, beq_self_eq_true, if_true, barWait_ok ht hk hg, bind_ok]

end
end

section
/-!
The events that serve those who wait (R312-R314, R361): what a grant gives, and where each act ends.
-/

namespace Sys2Proof.Machine

/-! ### A grant (R312) -/

/-- A waiter that has left its queue stands nowhere. -/
theorem leaveQueue_gone (s : State) (w : Who) : ∀ v ∈ (s.leaveQueue w).waiters, v.who ≠ w := by
  unfold State.leaveQueue
  split
  · next h => exact fun v hv e => by simpa [e] using List.find?_eq_none.mp h v hv
  · exact fun v hv => by simpa using (List.mem_filter.mp hv).2
/-- A slot that is roused keeps the units that it has taken. -/
theorem rouse_taken (s : State) (i : SlotId) : ((s.rouse i).slot i).taken = (s.slot i).taken := by
  unfold State.rouse
  dsimp only
  have post_taken : ∀ (t : State) (a : Act), ((t.post a).slot i).taken = (t.slot i).taken := fun _ _ => rfl
  have woken : ((match (s.slot i).status with
      | .waiting _ _ => if (s.slot i).restoring != RestorePh.none then s.post (.restoreUnitTake i) else s.modSlot i fun sl =>
        { sl with status := match sl.quay with
                  | some q => .away q
                  | none => .ready }
      | _ => s).slot i).taken = (s.slot i).taken := by
    split
    · split
      · exact post_taken _ _
      · rw [modSlot_slot]
    · rfl
  refine Eq.trans ?_ woken
  split
  · split
    · exact post_taken _ _
    · rfl
  · rfl
/-- Swaps that are tested post their acts, and nothing else changes. -/
theorem serveSwaps_eq (s : State) (p : AwaitEntry → Bool) : s.serveSwaps p = { s with agenda := (s.serveSwaps p).agenda } := by
  unfold State.serveSwaps
  generalize List.finRange 32 = l
  induction l generalizing s with
  | nil => rfl
  | cons i l ih =>
    rw [List.foldl_cons, ih]
    split
    · split <;> rfl
    · rfl

section
variable (s : State) (p : AwaitEntry → Bool)

theorem serveSwaps_sem : (s.serveSwaps p).sem = s.sem := by rw [serveSwaps_eq]
theorem serveSwaps_waiters : (s.serveSwaps p).waiters = s.waiters := by rw [serveSwaps_eq]
theorem serveSwaps_slots : (s.serveSwaps p).slots = s.slots := by rw [serveSwaps_eq]

end

/-- Units that are not there stay, and so do those who wait for them. -/
theorem grantSem_short {s : State} {sm : BitVec 8} {w : Waiter}
    (hf : (s.waiters.find? fun w => w.kind == .sem && w.obj == sm.toNat) = some w) (h : s.semVal sm < w.thr) :
    s.grantSem sm = s := by
  simp only [State.grantSem, hf, if_pos h]
/-- The units of a semaphore after some were taken. -/
theorem semTaken_semVal (s : State) (sm q : BitVec 8) (k : Nat) :
    State.semVal { s with sem := s.sem.set sm.toNat (BitVec.ofNat 16 (s.semVal sm - k)) sm.isLt } q =
      if q = sm then s.semVal sm - k else s.semVal q := by
  simp only [State.semVal, Vector.getElem_set]
  by_cases e : q = sm
  · subst e
    have := (s.sem[q.toNat]'q.isLt).isLt
    rw [if_pos rfl, if_pos rfl, BitVec.toNat_ofNat, Nat.mod_eq_of_lt (by omega)]
  · rw [if_neg e, if_neg fun h => e (BitVec.eq_of_toNat_eq h.symm)]
/-- The head of the queue takes its threshold and leaves the queue. -/
theorem grantSem_takes {s : State} {sm : BitVec 8} {w : Waiter} {i : SlotId}
    (hf : (s.waiters.find? fun w => w.kind == .sem && w.obj == sm.toNat) = some w) (hi : w.who = .slot i)
    (h : w.thr ≤ s.semVal sm) :
    (∀ q, (s.grantSem sm).semVal q = if q = sm then s.semVal sm - w.thr else s.semVal q) ∧
      ((s.grantSem sm).slot i).taken = some (sm, w.thr) ∧ ∀ v ∈ (s.grantSem sm).waiters, v.who ≠ .slot i := by
  simp only [State.grantSem, hf, if_neg (Nat.not_lt.mpr h), hi]
  refine ⟨fun q => ?_, ?_, ?_⟩
  · rw [← semTaken_semVal s sm q w.thr]
    refine semVal_congr ?_ q
    rw [rouse_eq]
    dsimp only [State.modSlot]
    rw [leaveQueue_eq]
  · rw [rouse_taken, modSlot_slot]
  · rw [rouse_eq]
    exact leaveQueue_gone _ (.slot i)

end Sys2Proof.Machine

section
open Sys2Proof
open Sys2Proof.Machine

/-- Settles O17. -/
theorem waitAndSystemEventsComplete : Obligations.WaitAndSystemEventsComplete := by
  unfold Obligations.WaitAndSystemEventsComplete
  refine ⟨fun s => ⟨fun ha => ?pool, fun g ha => ?fullEmpty, fun b ha => ?fifo, fun q ha => ?quay, fun i ha hw => ?barrier,
      fun i u ha ht hd hw hu => ⟨fun hs => ?sliceOn, fun k n hr hs => ?sliceWait, fun hr hs => ?slicePark⟩,
      fun i k n hl hr hd hk => ⟨fun ha hb hs => ?wtmo, fun r ha hb hp hw => ?wtmoBlock⟩⟩,
    fun s => ⟨fun ha => ?enqueue, fun ha hs hp => ?wfs, fun ha => ?bank, fun ha => ?hint, fun i ha => ?halt,
      fun i t ha ht => ?resume, fun v u ha hs hu => ?start⟩,
    fun s sm w i ha hf hi => ⟨fun hlt => ?short, fun hle => ?taken⟩⟩
  case pool =>
    show execPoolGrant s = _
    simp only [execPoolGrant, ha]
  case fullEmpty =>
    show execFullEmptyServe s = _
    simp only [execFullEmptyServe, ha]
  case fifo =>
    show execFifoServe s = _
    simp only [execFifoServe, ha]
  case quay =>
    show execQuayCoreArrival s = _
    simp only [execQuayCoreArrival, ha]
  case barrier =>
    show execBarrierWaitReturn s = _
    simp only [execBarrierWaitReturn, ha, hw, if_true]
  case sliceOn =>
    subst hu
    show execSlice s = _
    simp only [execSlice, ha, ht, hd, hw, Bool.false_eq_true, or_self, if_false]
    rcases hs with hs | hs | hs
    · simp only [hs, ite_self]
    · simp only [hs, ite_self]
    · rw [if_pos hs]
  case sliceWait =>
    subst hu
    show execSlice s = _
    simp only [execSlice, ha, ht, hd, hw, hr, hs, Bool.false_eq_true, or_self, if_false, ne_eq, not_true_eq_false]
  case slicePark =>
    subst hu
    show execSlice s = _
    simp only [execSlice, ha, ht, hd, hw, hr, hs, Bool.false_eq_true, or_self, if_false, ne_eq, not_true_eq_false]
  case wtmo =>
    show execWtmo s = _
    simp only [execWtmo, ha, hl, hr, hd, hb, hs, hk, Bool.false_eq_true, or_self, if_false, ne_eq, not_true_eq_false,
      if_true]
  case wtmoBlock =>
    show execWtmo s = _
    simp only [execWtmo, ha, hl, hr, hd, hb, hp, hw, hk, Bool.false_eq_true, or_self, if_false, ne_eq,
      not_true_eq_false, if_true, Option.bind_some, Option.map_some]
  case enqueue =>
    show execTrapRecordEnqueue s = _
    simp only [execTrapRecordEnqueue, ha]
  case wfs =>
    show execWfsTimeout s = _
    simp only [execWfsTimeout, ha, if_pos (And.intro hs hp)]
  case bank =>
    show execBankModeSwitchComplete s = _
    simp only [execBankModeSwitchComplete, ha]
  case hint =>
    show execHintYieldEnd s = _
    simp only [execHintYieldEnd, ha]
  case halt =>
    show execDebuggerHalt s = _
    simp only [execDebuggerHalt, ha]
  case resume =>
    subst ht
    show execDebuggerResume s = _
    simp only [execDebuggerResume, ha]
  case start =>
    subst hu
    show execSupervisorStart s = _
    simp only [execSupervisorStart, ha, hs, Bool.false_eq_true, if_false]
  case short =>
    refine ⟨s.serveSwaps fun e => e.kind == .sem && e.obj == sm.toNat, ?_, ?_⟩
    · show execWaitsemGrant s = _
      simp only [execWaitsemGrant, ha, grantSem_short hf hlt]
    · exact ⟨serveSwaps_sem _ _, serveSwaps_waiters _ _, serveSwaps_slots _ _⟩
  case taken =>
    obtain ⟨hv, ht, hq⟩ := grantSem_takes hf hi hle
    refine ⟨(s.grantSem sm).serveSwaps fun e => e.kind == .sem && e.obj == sm.toNat, ?_, ?_⟩
    · show execWaitsemGrant s = _
      simp only [execWaitsemGrant, ha]
    · have hq' := hq
      rw [← serveSwaps_waiters (s.grantSem sm)] at hq'
      exact ⟨(semVal_congr (serveSwaps_sem _ _) sm).trans ((hv sm).trans (if_pos rfl)),
        (congrArg Slot.taken (slot_congr (serveSwaps_slots _ _) i)).trans ht, hq',
        fun n hn => (semVal_congr (serveSwaps_sem _ _) n).trans ((hv n).trans (if_neg hn))⟩

end
end

section
/-!
A store to cluster memory (R195, R209-R213) and the side log (R268-R270): where the store goes when an entry of its own fibre
has its address.
-/

namespace Sys2Proof.Machine

/-! ### Cluster memory -/

theorem keyIsCl_locKey (a : Nat) : keyIsCl (locKey a) = true := by
  have h1 : a / 2 ^ 58 % 64 < 64 := Nat.mod_lt _ (by decide)
  have h2 : a % 2 ^ 22 < 2 ^ 22 := Nat.mod_lt _ (by decide)
  unfold keyIsCl locKey clKey
  generalize a / 2 ^ 58 % 64 = c at h1
  generalize a % 2 ^ 22 = d at h2
  simp only [Bool.and_eq_true, decide_eq_true_eq]
  omega
theorem placed_local {s : State} {c : Cap} (h : capLocal c = true) (a n : Nat) (d : Need) :
    placed s c a n d = .ok [⟨.at (locKey a) 0, a, n⟩] := if_pos h
/-- An access to cluster memory reaches no page. -/
theorem arrive_local (s : State) (w : World) (a n : Nat) : arrive s w [⟨.at (locKey a) 0, a, n⟩] = .ok s := by
  simp only [arrive, State.logReady, keyIsCl_locKey, List.any_cons, List.any_nil, Bool.not_true, Bool.false_and,
    Bool.or_self, Bool.false_eq_true, if_false, State.reached, List.foldl_cons, List.foldl_nil, State.reachedPiece, if_true]
theorem travel_local {s : State} {c : Cap} (h : capLocal c = true) (hq : s.sl.quay = none) (a : Nat) (q : Bool) :
    travel s c a q = .ok s := by
  have hg : s.goHome s.cur = s := by
    unfold State.goHome
    rw [show (s.slot s.cur).quay = none from hq]
  simp only [travel, h, Bool.true_or, if_true, hg]

theorem leBytes_length (n v : Nat) : (leBytes n v).length = n := by
  induction n generalizing v with
  | zero => rfl
  | succ n ih => simp only [leBytes, List.length_cons, ih]

/-! ### A store whose address an entry of the side log has -/

/-- The entry that such a store leaves in the log. -/
def State.stEntry (s : State) (o : MOp) : LogEntry :=
  { s.logEntry s.writer (some s.cur) s.world (s.logQuay 0 (locKey (mEa s o)) (mEa s o) (szBytes o.size)) (mEa s o)
      (leBytes (szBytes o.size) (s.rx o.od).toNat) [] with
    isCap := false, sc := o.ord == 4, keep := [], hint := mHint o }

section
variable {s : State} {o : MOp}

theorem scWait_relaxed (c : BitVec 3) : scWait s 0 c = .ok () := if_neg (by decide)
theorem storePiece_logged (hw : s.ownLogged s.writer (some s.cur) s.world (mEa s o) (szBytes o.size) = true)
    (ha : ∀ q, s.logAdmits s.cur q = true) :
    storePiece s ⟨.at (locKey (mEa s o)) 0, mEa s o, szBytes o.size⟩ (leBytes (szBytes o.size) (s.rx o.od).toNat) []
      (mStore o) = .ok (s.logPut (s.stEntry o)) := by
  simp only [storePiece, mStore, Option.any_none, Bool.false_and, Bool.false_eq_true, if_false, Option.getD_none,
    leBytes_length, hw, Bool.or_true, if_true, logPiece, logStore, ha, State.stEntry, State.logEntry]

theorem storeBytes_logged (hl : capLocal (s.rc o.oa) = true)
    (hc : accessChecks s (s.rc o.oa) (mEa s o) (szBytes o.size) pW .plain 1 = .ok ())
    (hw : s.ownLogged s.writer (some s.cur) s.world (mEa s o) (szBytes o.size) = true)
    (ha : ∀ q, s.logAdmits s.cur q = true) :
    storeBytes s (s.rc o.oa) (mEa s o) (leBytes (szBytes o.size) (s.rx o.od).toNat) 1 (mStore o) =
      .ok (s.logPut (s.stEntry o)) := by
  have hb : (leBytes (szBytes o.size) (s.rx o.od).toNat).take (szBytes o.size) =
      leBytes (szBytes o.size) (s.rx o.od).toNat := List.take_of_length_le (Nat.le_of_eq (leBytes_length _ _))
  have hp : accessPieces s (s.rc o.oa) (mEa s o) (leBytes (szBytes o.size) (s.rx o.od).toNat).length pW { w := true } .plain 1 =
      .ok [⟨.at (locKey (mEa s o)) 0, mEa s o, szBytes o.size⟩] := by
    rw [leBytes_length, accessPieces, hc, bind_ok, placed_local hl]
  have hs : storePieces s [⟨.at (locKey (mEa s o)) 0, mEa s o, szBytes o.size⟩]
      (leBytes (szBytes o.size) (s.rx o.od).toNat) [] (mStore o) = .ok (s.logPut (s.stEntry o)) := by
    rw [storePieces, hb, storePiece_logged hw ha, bind_ok, storePieces]
  rw [storeBytes, hp, bind_ok, arrive_local, bind_ok, hs, allOrNone]

/-- The side log compares addresses as numbers: the store of a fibre to cluster memory enters the log where an older entry of
the fibre has its number, though that entry's address is a global one. -/
theorem st_logged (hl : capLocal (s.rc o.oa) = true) (ho : o.ord = 0) (hq : s.sl.quay = none)
    (hc : accessChecks s (s.rc o.oa) (mEa s o) (szBytes o.size) pW .plain 1 = .ok ())
    (hw : s.ownLogged s.writer (some s.cur) s.world (mEa s o) (szBytes o.size) = true)
    (ha : ∀ q, s.logAdmits s.cur q = true) : exec (.st o) s = .next (ended o.hdr (s.logPut (s.stEntry o))) := by
  show execSt o s = _
  refine finish_ok ?_
  simp only [ho, beq_self_eq_true, if_true, hc, bind_ok, travel_local hl hq, storeBytes_logged hl hc hw ha, scWait_relaxed]

end

/-! ### Such a state -/

/-- The fibre of slot 15 of cluster 0 has logged a store to the global address 0, and holds a capability for its cluster's
memory, whose address 0 is the same number. -/
def State.loggedAtZero : State :=
  { State.reset.wc 1 (capMake (pR ||| pW) 0 0 true 5 0 0x20000 0) with
    sideLog := [⟨.fibre 0, some 15, 0, false, 0, 0, 0, [0], [], [], false, {}, none⟩] }
/-- A byte is stored at address 0 through c1. -/
def storeAtZero : MOp := ⟨⟨0, 0, 0, 0⟩, 0, 1, 0, 0, ⟨0, 0⟩, 0, 0, 0, 0, 0, 0⟩

/-- The hypotheses of the statement hold of this store. -/
theorem loggedAtZero_checks : accessChecks State.loggedAtZero (State.loggedAtZero.rc storeAtZero.oa)
    (mEa State.loggedAtZero storeAtZero) (szBytes storeAtZero.size) pW .plain 1 = .ok () := rfl
/-- But the store enters the log. -/
theorem loggedAtZero_logs : exec (.st storeAtZero) State.loggedAtZero =
    .next (ended storeAtZero.hdr (State.loggedAtZero.logPut (State.loggedAtZero.stEntry storeAtZero))) :=
  st_logged (by decide) rfl (by decide) loggedAtZero_checks (by decide) (by decide)
/-- What the end of an instruction leaves of the side log. -/
theorem ended_sideLog (h : Hdr) (t : State) : (ended h t).sideLog = t.sideLog := by
  rw [show ended h t = _ from ended_only h t]
/-- A write where nothing is in error leaves the side log. -/
theorem writeBytes_sideLog {s : State} {k : Nat} {bs : List Byte} (e : s.repair k bs.length = s) :
    (s.writeBytes k bs).sideLog = s.sideLog := by
  unfold State.writeBytes
  split
  · rfl
  · rw [e, trigger_eq]
    rfl

end Sys2Proof.Machine

section
open Sys2Proof
open Sys2Proof.Machine

/-- Refutes O50: the side log compares addresses as numbers, so the store of a fibre of cluster 0 to its cluster memory enters
the log where an earlier store of the fibre to the global address of the same number is still logged. -/
theorem not_writesAreReadBack : ¬ Obligations.WritesAreReadBack := by
  unfold Obligations.WritesAreReadBack
  rintro ⟨-, h⟩
  have hx := (h State.loggedAtZero _ storeAtZero storeAtZero _ _ _ reset_wf rfl rfl rfl (by decide) rfl (by decide) rfl
    loggedAtZero_checks (by decide) rfl).1
  rw [loggedAtZero_logs] at hx
  have hl := congrArg (fun x : State => x.sideLog.length) (Host.Outcome.next.inj hx)
  simp only [ended_sideLog] at hl
  rw [writeBytes_sideLog (repair_sound (fun _ _ => List.not_mem_nil) (fun _ _ => List.not_mem_nil))] at hl
  exact absurd hl (by decide)

end
end

section
/-!
Where an atomic acts (R224, R274): at the quay to which its fibre has gone, and through the translation cache that stands there.
-/

namespace Sys2Proof.Machine

/-- The fibre of slot 15 stands at home on die 0. The cache of its own quay has page 0 at the frame of 2^37, on die 1; that of
the quay there has it one frame further on. -/
def State.twoLeaves : State :=
  { ((State.reset.wc 1 (capMake (pR ||| pW) 0 0 false 39 0 0x20000 0)).wx 2 1).modWorld 0 (fun w => { w with troot := 1 }) with
    tcache := [⟨0, 0, 0, 2 ^ 45 + 0x1B, 1⟩, ⟨32, 0, 0, 2 ^ 45 + 2 ^ 24 + 0x1B, 1⟩] }
/-- One is added to the byte at address 0 through c1. -/
def addAtZero : MOp := ⟨⟨0, 0, 0, 0⟩, 0, 1, 2, 0, ⟨0, 0⟩, 0, 0, 0, 0, 0, 0⟩

/-- The byte of the frame that the quay of die 1 knows, once an instruction has ended. -/
def farByte (r : Out) : Byte :=
  match r with
  | .next t => t.byte (2 ^ 37 + 2 ^ 16)
  | _ => 0

theorem addAtZero_adds : farByte (exec (.amoadd addAtZero) State.twoLeaves) = 1 := by decide +kernel
theorem addAtZero_spans : atomicSpans State.twoLeaves (State.twoLeaves.rc addAtZero.oa)
    (mEaAtomic State.twoLeaves addAtZero) (szBytes addAtZero.size) { r := true, w := true } = [(2 ^ 37, 1)] := by decide +kernel
theorem next_of_farByte {r : Out} (h : farByte r = 1) : ∃ t, r = .next t ∧ t.byte (2 ^ 37 + 2 ^ 16) = 1 := by
  cases r with
  | next t => exact ⟨t, rfl, h⟩
  | fault f => exact absurd (show (0 : Byte) = 1 from h) (by decide)
  | refused f => exact absurd (show (0 : Byte) = 1 from h) (by decide)

end Sys2Proof.Machine

section
open Sys2Proof
open Sys2Proof.Machine

/-- Refutes O54: an atomic is translated at the quay to which its fibre goes, while `atomicSpans` translates at home; where the
two caches hold different leaves of the page, the atomic changes a byte outside the spans. -/
theorem not_atomicsAndCopiesKeepTheRest : ¬ Obligations.AtomicsAndCopiesKeepTheRest := by
  unfold Obligations.AtomicsAndCopiesKeepTheRest
  intro h
  obtain ⟨t, ht, hb⟩ := next_of_farByte addAtZero_adds
  obtain ⟨hd, -⟩ := h State.twoLeaves t addAtZero ⟨⟨0, 0, 0, 0⟩, 0, 0, 0, 0, 0, ⟨0, 0⟩, ⟨0, 0, 0, 0, 0, 0, 0⟩⟩ _ _ reset_wf rfl rfl
  obtain ⟨-, -, -, ho⟩ := hd (.amoadd addAtZero) List.mem_cons_self ht
  rw [addAtZero_spans] at ho
  have hs : t.byte (2 ^ 37 + 2 ^ 16) = State.twoLeaves.byte (2 ^ 37 + 2 ^ 16) :=
    ho.bytes _ List.not_mem_nil List.not_mem_nil fun p hp => by
      rw [List.mem_singleton.mp hp]
      exact .inr (by decide)
  rw [hb] at hs
  exact absurd hs (by decide +kernel)

end
end

section
/-!
Repetition (R110-R113): what a pass does with the instruction whose turn it is.
-/

namespace Sys2Proof.Machine

section
variable {s : State} {i : SlotId} {r : Rep} {ins : Instr} {opc : Nat} {b : Body}

theorem issued_cur (s : State) : s.issued.cur = s.cur := by
  unfold State.issued
  dsimp only
  split <;> rfl
/-- The instruction of a block whose turn it is. -/
theorem repTurn_issues (hb : r.block[r.idx]? = some ins) : s.repTurn i r = s.repIssue i r.going ins := by
  unfold State.repTurn
  cases h : r.block with
  | nil => simp [h] at hb
  | cons c cs =>
    have he : (c :: cs).getD r.idx c = ins := by
      rw [List.getD_eq_getElem?_getD, ← h, hb]
      rfl
    exact congrArg (s.repIssue i r.going) he
/-- An instruction that is skipped, or whose guard fails, is passed over. -/
theorem repIssue_passes {u : State} (hu : u = s.withWord ((encode ins).getD 0)) (hi : i = s.cur) (hp : ins.parts = some (opc, b))
    (h : r.skip = true ∨ ({ u.sl with p := r.preds } : Slot).guards (bodyHdr b) = false) :
    s.repIssue i r ins = u.repNext i r := by
  subst hu hi
  unfold State.repIssue
  rw [hp]
  refine if_pos ?_
  rcases h with h | h
  · rw [h, Bool.true_or]
  · have h' : (!({ (s.withWord ((encode ins).getD 0)).slot s.cur with p := r.preds } : Slot).guards (bodyHdr b)) = true := by
      rw [Bool.not_eq_true']; exact h
    rw [h', Bool.or_true]
/-- One that may issue, waits for nothing and names no port takes effect. -/
theorem repIssue_runs {u : State} (hu : u = s.withWord ((encode ins).getD 0)) (hi : i = s.cur) (hp : ins.parts = some (opc, b))
    (hk : r.skip = false) (hg : ({ u.sl with p := r.preds } : Slot).guards (bodyHdr b) = true)
    (hn : semOut u.sl (semNames opc b) = none) (hf : u.semFail (semReads opc b) = none)
    (hb : u.readsBad (r.staggered ins).1 = none) (hw : (bodyWait b).thr = 0) (hl : repLoads opc = false ∨ u.heldBack = false) :
    s.repIssue i r ins = u.repExec i r ins (bodyHdr b) := by
  have hg' : (r.skip || !({ u.slot s.cur with p := r.preds } : Slot).guards (bodyHdr b)) = false := by
    rw [hk, Bool.false_or, Bool.not_eq_false']
    subst hu; exact hg
  have hl' : (repLoads opc && (u.onSlot s.cur).heldBack) = false := by
    subst hu
    rcases hl with h | h
    · rw [h, Bool.false_and]
    · exact (congrArg (repLoads opc && ·) h).trans (Bool.and_false _)
  subst hi
  unfold State.repIssue
  rw [hp]
  dsimp only
  rw [← hu, if_neg (by rw [hg']; decide)]
  have hx : ((semOut (u.slot s.cur) (semNames opc b)).orElse fun _ => u.semFail (semReads opc b)).orElse
      (fun _ => (u.onSlot s.cur).readsBad (r.staggered ins).1) = none := by
    subst hu
    rw [show semOut ((s.withWord ((encode ins).getD 0)).slot s.cur) (semNames opc b) = none from hn]
    exact (congrArg (fun x => (Option.orElse x _).orElse _) rfl).trans (by rw [hf]; exact hb)
  rw [hx]
  dsimp only
  rw [if_pos (by rw [decide_eq_true hw, Bool.true_or]), if_neg (by rw [hl']; decide)]
/-- The effect of an instruction of the block. -/
theorem repExec_ok {u t : State} {h : Hdr} {f : State → R State} (hq : (r.staggered ins).2.findSome? (portOf (u.slot i)) = none)
    (hf : blockBody (r.staggered ins).1 = some f) (ht : f u = .ok t) : u.repExec i r ins h = t.repSignal i r h := by
  unfold State.repExec
  dsimp only
  rw [hq]
  dsimp only
  rw [hf]
  dsimp only
  rw [ht]

end

end Sys2Proof.Machine

section
open Sys2Proof
open Sys2Proof.Machine

/-- Settles O7. -/
theorem repetitionCompletes : Obligations.RepetitionCompletes := by
  unfold Obligations.RepetitionCompletes
  refine ⟨fun s o block t hc => ⟨fun hi => ?none, fun hi hb => ?some⟩,
    fun s u i r ins opc b ha hr hrun hne hb hp hu => ?pass⟩
  case none =>
    show execFrep o s = _
    refine finishJump_ok ?_
    simp only [hc, bind_ok, hi, if_true]
  case some =>
    show execFrep o s = _
    refine finishJump_ok ?_
    simp only [hc, bind_ok]
    rw [if_neg hi, if_neg (Nat.not_le.mpr hb)]
    rfl
  case pass =>
    have hcur : i = (s.onSlot i).issued.cur := (issued_cur (s.onSlot i)).symm
    have hx : exec .repetitionPass s = .next ((s.onSlot i).issued.repIssue i r.going ins) := by
      show execRepetitionPass s = _
      simp only [execRepetitionPass, ha, hr, hrun, if_true, repTurn_issues hb]
    refine ⟨fun h => ?_, fun hk hg hn hf hbad hw hl hq f t hbody ht => ?_⟩
    · exact hx.trans (congrArg _ (repIssue_passes hu hcur hp h))
    · have hs : u.slot i = u.sl := by
        subst hu
        exact congrArg (State.slot _) hcur
      refine hx.trans (congrArg _ ((repIssue_runs (r := r.going) hu hcur hp hk hg hn hf hbad hw hl).trans
        (repExec_ok (r := r.going) ?_ hbody ht)))
      rw [hs]
      exact hq

end
end

section
/-!
The matrix unit (R114-R133): what its checks answer, and where each instruction and each act of its drain engine ends.
-/

namespace Sys2Proof.Machine

/-! ### What the checks answer -/

section
variable {s : State} {at_ : Nat} {ks : List Nat}

theorem matReady_other (h : s.mat.holder ≠ some s.cur) : matReady s = .ok s := by
  simp only [matReady, h, Bool.false_eq_true, if_false, decide_false, Bool.false_and, bind_ok]
theorem matReady_loaded (h : s.mat.reload = false) (hb : s.mat.busy.any (·.resumed) = false) : matReady s = .ok s := by
  simp only [matReady, h, hb, Bool.and_false, Bool.false_eq_true, if_false, bind_ok]
theorem holdsMat.ready (h : holdsMat s ks) : matReady s = .ok s := by
  obtain ⟨-, hr, -, hb⟩ := h
  exact matReady_loaded hr hb
theorem holdsMat.held (h : holdsMat s ks) : heldCheck s at_ ks = .ok () := by
  obtain ⟨hh, -, hk, -⟩ := h
  simp only [heldCheck, hh, decide_true, guardR_true, bind_ok, List.contains_iff_mem.mpr hk]
theorem heldCheck_other (h : s.mat.holder ≠ some s.cur) : heldCheck s at_ ks = .error (.trap ⟨cMCFG, 1, at_⟩, s) := by
  simp only [heldCheck, h, decide_false, guardR_false, bind_error]
/-- A unit that is set up for neither kind of product. -/
theorem heldCheck_kind (h : holdsMat s [0, 3]) : heldCheck s at_ [1, 2] = .error (.trap ⟨cMCFG, 2, at_⟩, s) := by
  obtain ⟨hh, -, hk, -⟩ := h
  have hn : List.contains [1, 2] s.mat.kind.toNat = false := by
    rcases List.mem_cons.mp hk with h0 | h0
    · rw [h0]; rfl
    · rw [List.mem_singleton.mp h0]; rfl
  simp only [heldCheck, hh, decide_true, guardR_true, bind_ok, hn, guardR_false]
theorem matFree_idle (h : s.mat.busy = none) (p : Stopped → Bool) : matFree s p = .ok () := by
  simp only [matFree, h, Option.any_none, Bool.false_eq_true, if_false]
theorem accFree_ok {a : Fin 4} (hr : s.mat.reads a = false) (hf : matFree s (fun p => p.acc.toNat == a.val) = .ok ()) :
    accFree s a = .ok () := by
  simp only [accFree, hf, hr, bind_ok, Bool.false_eq_true, if_false]
theorem noPort_ok {r : BitVec 6} (h : portOf s.sl r = none) : noPort s r = .ok () := by simp only [noPort, h]
theorem rowCheck_ok {o : ROp} {x : BitVec 6} (h : holdsMat s [1, 2]) (ht : o.md.ty = (if s.mat.fmt.isInt then 2 else 8))
    (hx : (s.rx x).toNat < 32) : rowCheck s o x = .ok (s.rx x).toNat := by
  simp only [rowCheck, h.held, bind_ok, ht, beq_self_eq_true, guardR_true, decide_eq_true hx]
/-- A unit that is idle has no product in flight. -/
theorem busy_of_matIdle (h : matIdle s = .ok ()) : s.mat.busy = none := by
  unfold matIdle at h
  split at h
  · cases h
  · next hc =>
    simp only [Bool.or_eq_true, not_or, Bool.not_eq_true] at hc
    simpa using hc.1.1.2

end

/-! ### Rows (R131) -/

/-- A row of an accumulator is written under a mask. -/
def Matrix.putRow (m : Matrix) (a : Fin 4) (r : Nat) (km : Gran) (v : Line) (zm : Bool) : Matrix :=
  { m with badAcc := m.badAcc.filter (· != a.val), acc := m.acc.set a (Vector.ofFn fun (n : Fin 1024) =>
      if n.val / 32 = r then
        (if km.getLsbD (n.val % 32) then BitVec.ofNat 32 (lane 32 v (n.val % 32)) else if zm then 0 else m.acc[a][n])
      else m.acc[a][n]) }

section
variable {m : Matrix} {a : Fin 4} {r : Nat} {km : Gran} {v : Line} {zm : Bool}

theorem putRow_other {b : Fin 4} (h : b ≠ a) : (m.putRow a r km v zm).acc[b] = m.acc[b] :=
  Vector.getElem_set_ne a.isLt b.isLt fun e => h (Fin.ext e.symm)
theorem putRow_same (n : Fin 1024) : (m.putRow a r km v zm).acc[a][n] =
    if n.val / 32 = r then
      (if km.getLsbD (n.val % 32) then BitVec.ofNat 32 (lane 32 v (n.val % 32)) else if zm then 0 else m.acc[a][n])
    else m.acc[a][n] := by
  simp only [Matrix.putRow, Fin.getElem_fin, Vector.getElem_set_self, Vector.getElem_ofFn]

end

/-! ### Drains (R129) -/

/-- What mdrain leaves with the drain engine. -/
def Drain.ofUnit (s : State) (o : MOp) : Drain :=
  { sl := s.cur, world := s.world, acc := accIx o.od, reading := true, zero := o.x == 1, cells := Vector.replicate 1024 0,
    row := 0, spawned := 0, halted := false, lost := [], cap := s.rc o.oa,
    ea := BitVec.ofNat 64 (mEa s o), dty := s.mat.dty, dsat := s.mat.cfg.getLsbD 28, isInt := s.mat.fmt.isInt,
    tsa := s.mat.tsa, tsb := s.mat.tsb, sigSm := o.hdr.sigSm, sigInc := o.hdr.sigInc,
    handler := s.mat.hcode[accIx o.od], hword := s.mat.hword[accIx o.od],
    ctl := s.buildCtl s.sl (s.sl.rx 13 &&& 0x30000) s.sl.tow, flags := 0, own := true,
    hint := { nud := o.nud, lvl := o.lvl }, pc := s.sl.pc, insn := s.insn }

/-- The first drain reads its accumulator. -/
theorem drainRead_mat {s : State} {d : Drain} (hd : s.mat.drains = [d]) (hr : d.reading = true) :
    s.drainRead.mat.drains = [{ d with reading := false, cells := s.mat.acc[d.acc] }] ∧
      s.drainRead.mat.acc = (if d.zero then s.mat.acc.set d.acc (Vector.replicate 1024 0) else s.mat.acc) := by
  have hm : s.drainRead.mat = { (s.mat.readDrains s.mat.drains).1 with drains := (s.mat.readDrains s.mat.drains).2 } := by
    unfold State.drainRead State.drainOn
    split <;> rfl
  rw [hm, hd]
  simp only [Matrix.readDrains, hr, if_true, Matrix.readDrain]
  exact ⟨trivial, trivial⟩

/-- No drain is still reading: the oldest goes on. -/
theorem drainRowWrite_first {s : State} {d : Drain} {ds : List Drain} (ha : s.act = some .drainRowWrite)
    (hr : s.mat.drains.any (·.reading) = false) (hd : s.mat.drains = d :: ds) :
    exec .drainRowWrite s = .next (if d.row < 32 && !d.halted then s.drainRow d else s.drainEnd d) := by
  show execDrainRowWrite s = _
  unfold execDrainRowWrite
  rw [ha]
  dsimp only
  rw [hr, hd]
  rfl
/-- A drain whose rows have all been performed is over. -/
theorem drainEnd_over {s : State} {d : Drain} (h : (List.range d.row).any (s.rowHeld d) = false) :
    s.drainEnd d =
      if d.halted || !d.lost.isEmpty then ((s.spawnRows d 32).1.setDrain none).drainOn
      else ((if d.own then ((s.spawnRows d 32).1.setDrain none).orFlags d.sl d.flags
        else (s.spawnRows d 32).1.setDrain none).engineSignal d.sl d.sigSm d.sigInc d.pc d.insn).drainOn := by
  simp only [State.drainEnd, h, Bool.false_eq_true, if_false]
/-- The latches that mscl sets, by its sub-code. -/
theorem mscl_sets (sub : BitVec 4) (a b : Word) (m : Matrix) :
    (match sub.toNat with
      | 0 => { m with tsa := a.extractLsb' 0 32, tsb := b.extractLsb' 0 32 }
      | 1 => { m with fp4xa := a.extractLsb' 0 16, fp4xb := b.extractLsb' 0 16 }
      | _ => { m with qbase := a.extractLsb' 0 32 }) =
    if sub = 0 then { m with tsa := a.extractLsb' 0 32, tsb := b.extractLsb' 0 32 }
    else if sub = 1 then { m with fp4xa := a.extractLsb' 0 16, fp4xb := b.extractLsb' 0 16 }
    else { m with qbase := a.extractLsb' 0 32 } := by
  split
  next h => rw [if_pos (BitVec.eq_of_toNat_eq h)]
  next h =>
    have hs : sub = 1 := BitVec.eq_of_toNat_eq h
    rw [if_neg (by rw [hs]; decide), if_pos hs]
  next h0 h1 => rw [if_neg fun h => h0 (by rw [h]; rfl), if_neg fun h => h1 (by rw [h]; rfl)]

end Sys2Proof.Machine

section
open Sys2Proof
open Sys2Proof.Machine

/-- Settles O8. -/
theorem matrixUnitCompletes : Obligations.MatrixUnitCompletes := by
  unfold Obligations.MatrixUnitCompletes
  refine ⟨fun s o => ⟨fun hk hh => ?cfg0, fun hk hh hr hi => ?cfgFree, fun kind r4 cfg hk hk0 hr4 hcfg hc hh => ?cfg,
      fun hm hb => ?mscl, fun hm hr => ⟨fun hf => ?mzero, fun ho => ?mhand0, fun ho hc => ?mhand⟩, fun hm => ?mstat⟩,
    fun s o => ⟨fun hh => ⟨fun i hi => ?other, ?otherHand⟩, fun hm => ⟨fun i hi => ?kind, ?kindHand⟩⟩,
    fun s => ⟨fun o hm hd ha => ?mdrain, fun d ha hd hr => ?read,
      fun d ds ha hd hr => ⟨fun hrow hh cs t hcs ht r hr' => ?row,
        fun hrow hheld t ht => ⟨fun hl => ?halted, fun hh hl => ?ended⟩⟩⟩,
    fun s o hm ht => ⟨fun hx hp ha => ?rowrd, fun hx hp ha => ?rowwr⟩,
    fun s o b bytes t u v hm hi => ⟨fun hc ⟨ps, hps⟩ hb hbytes ht hu hv => ?msave,
      fun g l m img hc ⟨ps, hps⟩ hg hl himg hs hm' => ?mrest⟩⟩
  case cfg0 =>
    show execMcfg o s = _
    refine finish_ok ?_
    simp only [hk, if_true, hh, if_false]
  case cfgFree =>
    show execMcfg o s = _
    refine finish_ok ?_
    have hb : s.mat.busy.any (·.resumed) = false := by rw [busy_of_matIdle hi]; rfl
    simp only [hk, if_true, hh, matReady_loaded hr hb, bind_ok, hi]
  case cfg =>
    subst hk hr4 hcfg
    show execMcfg o s = _
    refine finish_ok ?_
    simp only [if_neg hk0]
    rcases hh with hh | ⟨hh, hr, hi⟩
    · have ho : s.mat.holder ≠ some s.cur := by rw [hh]; exact fun h => by cases h
      have hn : s.mat.holder.isSome = false := by rw [hh]; rfl
      simp only [matReady_other ho, bind_ok, hc, guardR_true, if_neg ho, hn, Bool.false_and, Bool.false_eq_true, if_false]
    · have hb : s.mat.busy.any (·.resumed) = false := by rw [busy_of_matIdle hi]; rfl
      have hn : (s.mat.holder != some s.cur) = false := by rw [hh]; exact bne_self_eq_false _
      simp only [matReady_loaded hr hb, bind_ok, hc, guardR_true, if_pos hh, hi, hn, Bool.and_false, Bool.false_eq_true,
        if_false]
  case mscl =>
    refine finish_ok (b := msclB o) ?_
    simp only [msclB, hm.ready, bind_ok, hm.held, matFree_idle hb]
    exact congrArg (fun f => Except.ok (s.modMat f)) (funext fun m => mscl_sets o.md.sub (s.rx o.oa) (s.rx o.ob) m)
  case mzero =>
    refine finish_ok (b := mzeroB o) ?_
    simp only [mzeroB, hm.ready, bind_ok, hm.held, accFree_ok hr hf]
  case mhand0 =>
    show execMhand o s = _
    refine finish_ok ?_
    simp only [hm.ready, bind_ok, hm.held, hr, Bool.false_eq_true, if_false, if_pos ho]
  case mhand =>
    show execMhand o s = _
    refine finish_ok ?_
    simp only [hm.ready, bind_ok, hm.held, hr, Bool.false_eq_true, if_false, if_neg ho, hc]
  case mstat =>
    show execMstat o s = _
    refine finish_ok ?_
    simp only [hm.ready, bind_ok, hm.held]
  case other =>
    simp only [List.mem_cons, List.not_mem_nil, or_false] at hi
    rcases hi with rfl | rfl | rfl | rfl | rfl | rfl | rfl
    · exact finish_trap (b := msclB o) (by simp only [msclB, matReady_other hh, bind_ok, heldCheck_other hh, bind_error])
    · exact finish_trap (b := mzeroB o) (by simp only [mzeroB, matReady_other hh, bind_ok, heldCheck_other hh, bind_error])
    · exact finish_trap (b := mmaB o)
        (by simp only [mmaB, productB, matReady_other hh, bind_ok, heldCheck_other hh, bind_error])
    · exact finish_trap (b := mmasB o)
        (by simp only [mmasB, productB, matReady_other hh, bind_ok, heldCheck_other hh, bind_error])
    · show execMrowrd o s = _
      exact finish_trap (by simp only [matReady_other hh, bind_ok, rowCheck, heldCheck_other hh, bind_error])
    · show execMrowwr o s = _
      exact finish_trap (by simp only [matReady_other hh, bind_ok, rowCheck, heldCheck_other hh, bind_error])
    · show execMstat o s = _
      exact finish_trap (by simp only [matReady_other hh, bind_ok, heldCheck_other hh, bind_error])
  case otherHand =>
    show execMhand o s = _
    refine finish_trap ?_
    simp only [matReady_other hh, bind_ok, heldCheck_other hh, bind_error]
  case kind =>
    simp only [List.mem_cons, List.not_mem_nil, or_false] at hi
    rcases hi with rfl | rfl | rfl | rfl | rfl
    · exact finish_trap (b := mzeroB o) (by simp only [mzeroB, hm.ready, bind_ok, heldCheck_kind hm, bind_error])
    · exact finish_trap (b := mmaB o) (by simp only [mmaB, productB, hm.ready, bind_ok, heldCheck_kind hm, bind_error])
    · exact finish_trap (b := mmasB o) (by simp only [mmasB, productB, hm.ready, bind_ok, heldCheck_kind hm, bind_error])
    · show execMrowrd o s = _
      exact finish_trap (by simp only [hm.ready, bind_ok, rowCheck, heldCheck_kind hm, bind_error])
    · show execMrowwr o s = _
      exact finish_trap (by simp only [hm.ready, bind_ok, rowCheck, heldCheck_kind hm, bind_error])
  case kindHand =>
    show execMhand o s = _
    refine finish_trap ?_
    simp only [hm.ready, bind_ok, heldCheck_kind hm, bind_error]
  case mdrain =>
    refine ⟨Drain.ofUnit s o, (s.modMat fun m => { m with drains := m.drains ++ [Drain.ofUnit s o] }).post .drainRowWrite, ?_,
      rfl, rfl, rfl, rfl, rfl, rfl, rfl, rfl, rfl, rfl, rfl, rfl, rfl, rfl, rfl⟩
    show execMdrain o s = _
    refine finishHanded_ok ?_
    simp only [hm.ready, bind_ok, hm.held, hd, ha]
    rfl
  case read =>
    obtain ⟨h1, h2⟩ := drainRead_mat hd hr
    refine ⟨s.drainRead, ?_, h1, h2⟩
    show execDrainRowWrite s = _
    simp only [execDrainRowWrite, ha, hd, List.any_cons, hr, Bool.true_or, if_true]
  case row =>
    subst hcs hr'
    rw [drainRowWrite_first ha hr hd, if_pos (by simp only [hrow, decide_true, hh, Bool.not_false, Bool.and_self])]
    simp only [State.drainRow, ht]
  case halted =>
    subst ht
    rw [drainRowWrite_first ha hr hd, if_neg (by simpa using fun h => hrow.resolve_left (Nat.not_le.mpr h)),
      drainEnd_over hheld]
    refine congrArg _ (if_pos ?_)
    rcases hl with hl | hl
    · rw [hl, Bool.true_or]
    · rw [show d.lost.isEmpty = false by simpa using hl, Bool.not_false, Bool.or_true]
  case ended =>
    subst ht
    rw [drainRowWrite_first ha hr hd, if_neg (by simpa using fun h => hrow.resolve_left (Nat.not_le.mpr h)),
      drainEnd_over hheld, if_neg (by rw [hh, hl]; decide)]
  case rowrd =>
    show execMrowrd o s = _
    refine finish_ok ?_
    simp only [hm.ready, bind_ok, rowCheck_ok hm ht hx, noPort_ok hp, ha]
  case rowwr =>
    refine ⟨s.modMat fun m => m.putRow (accIx o.od) (s.rx o.oa).toNat (kmOf s.sl o.md) (s.sl.rv o.ob) (zmOf o.md), ?_,
      fun a hne => ?_, fun n => ?_⟩
    · show execMrowwr o s = _
      refine finish_ok ?_
      simp only [hm.ready, bind_ok, rowCheck_ok hm ht hx, noPort_ok hp, ha]
      rfl
    · exact putRow_other hne
    · refine (putRow_same n).trans ?_
      simp only [zmOf, beq_iff_eq]
  case msave =>
    subst hb hbytes
    show execMsave o s = _
    refine finish_ok ?_
    simp only [hm.ready, bind_ok, hm.held, hi, hc, hps, ht, hu, hv, allOrNone]
  case mrest =>
    subst himg
    show execMrest o s = _
    refine finish_ok ?_
    simp only [hm.ready, bind_ok, hm.held, hi, hc, hps, hg, hl, hs, guardR_true, hm']

end
end

section
/-!
Latches and products of the matrix unit (R117-R127): a product goes on from group boundary to group boundary, and its steps come
to the whole product.
-/

namespace Sys2Proof.Machine

/-! ### Groups -/

section
variable (m : Matrix) (tcx sat : Bool) (sub apart : BitVec 2) (bs : List (List Elem))

/-- Groups one after another: so many, and then so many more. -/
theorem groups_add (acc : Acc) (fl : Flags) (g a b : Nat) :
    m.groups tcx sat sub apart bs acc fl g (a + b) =
      m.groups tcx sat sub apart bs (m.groups tcx sat sub apart bs acc fl g a).1
        (m.groups tcx sat sub apart bs acc fl g a).2 (g + a) b := by
  induction a generalizing acc fl g with
  | zero => rw [Nat.zero_add]; rfl
  | succ a ih =>
    rw [Nat.succ_add, Nat.add_succ g a, ← Nat.succ_add g a]
    simp only [Matrix.groups, Nat.succ_eq_add_one]
    exact ih _ _ _
/-- The flags of groups are gathered on top of those before. -/
theorem groups_flags (acc : Acc) (fl : Flags) (g n : Nat) :
    m.groups tcx sat sub apart bs acc fl g n =
      ((m.groups tcx sat sub apart bs acc 0 g n).1, fl ||| (m.groups tcx sat sub apart bs acc 0 g n).2) := by
  induction n generalizing acc fl g with
  | zero => simp [Matrix.groups]
  | succ n ih =>
    simp only [Matrix.groups]
    rw [ih _ (fl ||| _), ih _ (0 ||| _)]
    have h0 : ∀ x : Flags, (0 : Flags) ||| x = x := fun x => BitVec.zero_or
    simp only [h0, BitVec.or_assoc]
/-- A product reads neither the accumulators nor the flags of the unit. -/
theorem groups_with (ac : Vector Acc 4) (f : Flags) (bu : Option Busy) (acc : Acc) (fl : Flags) (g n : Nat) :
    { m with acc := ac, flags := f, busy := bu }.groups tcx sat sub apart bs acc fl g n =
      m.groups tcx sat sub apart bs acc fl g n := by
  induction n generalizing acc fl g with
  | zero => rfl
  | succ n ih =>
    simp only [Matrix.groups]
    exact ih _ _ _

end

/-! ### Steps (R127) -/

/-- The steps of a product of a kind. -/
def Matrix.steps (m : Matrix) (sub : BitVec 2) : Nat := m.total sub / m.stepGroups sub

/-- A product is a whole number of steps, and no chunk of it is numbered beyond 63. -/
theorem steps_sound (m : Matrix) (sub : BitVec 2) :
    m.total sub = m.steps sub * m.stepGroups sub ∧ 0 < m.steps sub ∧ m.steps sub ≤ 64 ∧
      (m.steps sub - 1) * m.stepChunks sub < 64 ∧ 0 < m.stepGroups sub ∧
      m.stepChunks sub * 2 ^ sub.toNat = m.stepGroups sub * matCpg m.ty ∧ 0 < matCpg m.ty := by
  unfold Matrix.steps Matrix.total Matrix.stepGroups Matrix.stepChunks
  generalize m.ty = ty
  revert ty sub
  decide

section
variable (m : Matrix) (tcx : Bool) (p : Stopped)

/-- The first groups of a product from its first on. -/
def Matrix.upTo (k : Nat) : Acc × Flags :=
  m.groups tcx p.sat p.sub p.apart (m.bCols p.sub) m.acc[p.acc.toNat] 0 0 k
/-- The unit after some steps of a product, the last of them apart. -/
def Matrix.after (r : Bool) (k : Nat) : Matrix :=
  { m with
    acc := m.acc.set p.acc.toNat (m.upTo tcx p (k * m.stepGroups p.sub)).1
    flags := m.flags ||| (m.upTo tcx p (k * m.stepGroups p.sub)).2
    busy := some ⟨{ p with koff := BitVec.ofNat 6 (k * m.stepChunks p.sub) }, tcx, r⟩ }

theorem after_zero {r : Bool} (hb : m.busy = some ⟨p, tcx, r⟩) (hk : p.koff = 0) : m.after tcx p r 0 = m := by
  have ha : m.acc.set p.acc.toNat m.acc[p.acc.toNat] = m.acc := Vector.set_getElem_self _
  have hf : m.flags ||| (0 : Flags) = m.flags := BitVec.or_zero
  have hp : ({ p with koff := 0 } : Stopped) = p := by rw [← hk]
  simp only [Matrix.after, Matrix.upTo, Nat.zero_mul, Matrix.groups, ha, hf]
  rw [show BitVec.ofNat 6 0 = 0 from rfl, hp, ← hb]
/-- The group at which a product stands. -/
theorem groupAt_after {k : Nat} (hk : k < m.steps p.sub) :
    m.groupAt { p with koff := BitVec.ofNat 6 (k * m.stepChunks p.sub) } = k * m.stepGroups p.sub := by
  obtain ⟨-, -, -, hs, -, hg, hc⟩ := steps_sound m p.sub
  have hlt : k * m.stepChunks p.sub < 64 :=
    Nat.lt_of_le_of_lt (Nat.mul_le_mul_right _ (Nat.le_sub_one_of_lt hk)) hs
  simp only [Matrix.groupAt, BitVec.toNat_ofNat]
  rw [Nat.mod_eq_of_lt (b := 2 ^ 6) hlt, Nat.mul_assoc, hg, ← Nat.mul_assoc, Nat.mul_div_cancel _ hc]
/-- So many groups of a product and one more step. -/
theorem upTo_step (k : Nat) : m.upTo tcx p ((k + 1) * m.stepGroups p.sub) =
    ((m.groups tcx p.sat p.sub p.apart (m.bCols p.sub) (m.upTo tcx p (k * m.stepGroups p.sub)).1 0
        (k * m.stepGroups p.sub) (m.stepGroups p.sub)).1,
      (m.upTo tcx p (k * m.stepGroups p.sub)).2 |||
        (m.groups tcx p.sat p.sub p.apart (m.bCols p.sub) (m.upTo tcx p (k * m.stepGroups p.sub)).1 0
          (k * m.stepGroups p.sub) (m.stepGroups p.sub)).2) := by
  rw [Matrix.upTo, Nat.succ_mul, groups_add, groups_flags, Nat.zero_add]
  rfl

/-- The last step of a product is the one behind which no group is left. -/
theorem total_le_iff {k : Nat} (hk : k < m.steps p.sub) :
    m.total p.sub ≤ k * m.stepGroups p.sub + m.stepGroups p.sub ↔ k + 1 = m.steps p.sub := by
  obtain ⟨ht, -, -, -, hg, -, -⟩ := steps_sound m p.sub
  rw [ht, ← Nat.succ_mul]
  constructor
  · intro h
    exact Nat.le_antisymm hk (Nat.le_of_mul_le_mul_right h hg)
  · intro h
    rw [← h]
/-- A step of a product in flight. -/
theorem after_advanced {r : Bool} {k : Nat} (hk : k < m.steps p.sub) : (m.after tcx p r k).advanced =
    { m with
      acc := m.acc.set p.acc.toNat (if k + 1 = m.steps p.sub then m.maskCells p.sub p.apart (m.upTo tcx p ((k + 1) * m.stepGroups p.sub)).1
        else (m.upTo tcx p ((k + 1) * m.stepGroups p.sub)).1)
      flags := m.flags ||| (m.upTo tcx p ((k + 1) * m.stepGroups p.sub)).2
      busy := if k + 1 = m.steps p.sub then none
        else some ⟨{ p with koff := BitVec.ofNat 6 ((k + 1) * m.stepChunks p.sub) }, tcx, r⟩ } := by
  have hg : (m.after tcx p r k).groupAt { p with koff := BitVec.ofNat 6 (k * m.stepChunks p.sub) } =
      k * m.stepGroups p.sub := groupAt_after m p hk
  have hs : (m.after tcx p r k).groups tcx p.sat p.sub p.apart (m.bCols p.sub) (m.after tcx p r k).acc[p.acc.toNat] 0
      (k * m.stepGroups p.sub) (m.stepGroups p.sub) =
      m.groups tcx p.sat p.sub p.apart (m.bCols p.sub) (m.upTo tcx p (k * m.stepGroups p.sub)).1 0
        (k * m.stepGroups p.sub) (m.stepGroups p.sub) := by
    rw [show (m.after tcx p r k).acc[p.acc.toNat] = (m.upTo tcx p (k * m.stepGroups p.sub)).1 from
      Vector.getElem_set_self _]
    exact groups_with ..
  have hsg : (m.after tcx p r k).stepGroups p.sub = m.stepGroups p.sub := rfl
  have hsc : (m.after tcx p r k).stepChunks p.sub = m.stepChunks p.sub := rfl
  have htt : (m.after tcx p r k).total p.sub = m.total p.sub := rfl
  have hbc : (m.after tcx p r k).bCols p.sub = m.bCols p.sub := rfl
  have hmc : (m.after tcx p r k).maskCells p.sub p.apart = m.maskCells p.sub p.apart := rfl
  have hf : (m.after tcx p r k).flags = m.flags ||| (m.upTo tcx p (k * m.stepGroups p.sub)).2 := rfl
  have hko : BitVec.ofNat 6 (k * m.stepChunks p.sub) + BitVec.ofNat 6 (m.stepChunks p.sub) =
      BitVec.ofNat 6 ((k + 1) * m.stepChunks p.sub) := by rw [← BitVec.ofNat_add, Nat.succ_mul]
  have hu : (m.after tcx p r k).advanced =
      { ((m.after tcx p r k).onward tcx { p with koff := BitVec.ofNat 6 (k * m.stepChunks p.sub) }).1 with
        busy := ((m.after tcx p r k).onward tcx { p with koff := BitVec.ofNat 6 (k * m.stepChunks p.sub) }).2.map
          fun q => ⟨q, tcx, r⟩ } := rfl
  rw [hu]
  simp only [Matrix.onward, hg, hsg, hsc, htt, hbc, hmc, hs, hf, hko, total_le_iff m p hk, upTo_step, decide_eq_true_eq,
    BitVec.or_assoc]
  by_cases h : k + 1 = m.steps p.sub
  · simp only [if_pos h, Option.map_none, Matrix.after, Vector.set_set]
  · simp only [if_neg h, Option.map_some, Matrix.after, Vector.set_set]
theorem after_next {r : Bool} {k : Nat} (hk : k + 1 < m.steps p.sub) :
    (m.after tcx p r k).advanced = m.after tcx p r (k + 1) := by
  rw [after_advanced m tcx p (Nat.lt_of_succ_lt hk), if_neg (Nat.ne_of_lt hk), if_neg (Nat.ne_of_lt hk)]
  rfl
theorem after_last {r : Bool} {k : Nat} (hk : k + 1 = m.steps p.sub) :
    (m.after tcx p r k).advanced = m.product tcx p := by
  obtain ⟨ht, -⟩ := steps_sound m p.sub
  rw [after_advanced m tcx p (Nat.lt_of_succ_le (Nat.le_of_eq hk)), if_pos hk, if_pos hk, hk, ← ht]
  rfl
/-- Steps that leave some of the product. -/
theorem iterate_after {r : Bool} {k : Nat} (hk : k < m.steps p.sub) :
    Nat.iterate Matrix.advanced k (m.after tcx p r 0) = m.after tcx p r k := by
  induction k with
  | zero => rfl
  | succ k ih => rw [Function.iterate_succ_apply', ih (Nat.lt_of_succ_lt hk), after_next m tcx p hk]
/-- The steps of a product come to the whole of it. -/
theorem iterate_product {r : Bool} (hb : m.busy = some ⟨p, tcx, r⟩) (hk : p.koff = 0) :
    Nat.iterate Matrix.advanced (m.steps p.sub) m = m.product tcx p := by
  obtain ⟨-, hpos, -⟩ := steps_sound m p.sub
  obtain ⟨n, hn⟩ := Nat.exists_eq_succ_of_ne_zero (Nat.ne_of_gt hpos)
  have h0 := iterate_after m tcx p (r := r) (k := n) (by rw [hn]; exact Nat.lt_succ_self n)
  rw [after_zero m tcx p hb hk] at h0
  rw [hn, Function.iterate_succ_apply', h0, after_last m tcx p hn.symm]

end

/-! ### Latches (R121-R125) -/

section
variable {s : State}

theorem partsHere_ok {is : List (Fin 6)}
    (h : (is.all fun i => (s.mat.part i).err.isNone && (s.mat.part i).rows.isSome) = true) : partsHere s is = .ok () := by
  induction is with
  | nil => rfl
  | cons i is ih =>
    simp only [List.all_cons, Bool.and_eq_true, Option.isNone_iff_eq_none] at h
    obtain ⟨⟨he, hr⟩, hs⟩ := h
    simp only [partsHere, he, hr, if_true, ih hs]
/-- The type that a product names is the unit's. -/
theorem productTy_ok {o : ROp} (ht : o.md.ty = s.mat.ty) (hr : o.md.ty = 15 → o.md.isp.extractLsb' 0 2 = s.mat.r4) :
    (o.md.ty == s.mat.ty && (o.md.ty != 15 || o.md.isp.extractLsb' 0 2 == s.mat.r4)) = true := by
  by_cases h : o.md.ty = 15
  · rw [hr h, ht, beq_self_eq_true, beq_self_eq_true, Bool.or_true, Bool.and_true]
  · rw [bne_iff_ne.mpr h, Bool.true_or, Bool.and_true, ht, beq_self_eq_true]
/-- A load of a gather names its register as the kind of the unit asks. -/
theorem gatherArg_ok {b : Bool} {o : MOp}
    (h : o.x = 1 → if s.mat.kind = 2 then o.oa = 29 else o.oa ≠ 29 ∧ (b && o.od.getLsbD 2) = false) :
    (!(o.x == 1) || (if s.mat.kind = 2 then o.oa == 29 else o.oa != 29 && !(b && o.od.getLsbD 2))) = true := by
  by_cases hx : o.x = 1
  · have := h hx
    split at this
    next hk => rw [if_pos hk, this, beq_self_eq_true, Bool.or_true]
    next hk =>
      obtain ⟨ho, hg⟩ := this
      rw [if_neg hk, hg, bne_iff_ne.mpr ho]
      exact Bool.or_true _
  · rw [beq_false_of_ne hx]; rfl

end

end Sys2Proof.Machine

section
open Sys2Proof
open Sys2Proof.Machine

/-- Settles O9. -/
theorem matrixLatchesAndProductsComplete : Obligations.MatrixLatchesAndProductsComplete := by
  unfold Obligations.MatrixLatchesAndProductsComplete
  refine ⟨fun s => ⟨fun b o d p hm hp hg hd hl hf => ?load, fun i h rows t ha hh hpe hr hrd => ?arrive,
      fun h t ha hh hr hrl => ?reload⟩,
    fun s => ⟨fun o hm hb hr hty hr4 => ⟨fun is his hv hh htok => ?mma, fun sub is hsub hs0 his hv hh hbg hbm htok => ?mmas⟩,
      fun h t ha hh ht => ⟨fun hb => ?goes, fun hb => ?complete⟩,
      fun m p tcx r hb hk => ?product⟩⟩
  case load =>
    have hx : exec (if b then .mldb o else .mlda o) s = finish o.hdr (mldB b o) s := by cases b <;> rfl
    rw [hx]
    subst hd
    refine finish_ok ?_
    have hk : decide (s.mat.kind = 2) = (s.mat.kind == 2) := rfl
    simp only [mldB, hm.ready, bind_ok, hm.held, gatherArg_ok hg, guardR_true, hk, beq_iff_eq, hl, hf]
    split
    next h => rw [noPort_ok (hp h), bind_ok]
    next => rfl
  case arrive =>
    show execLatchDataArrival s = _
    simp only [execLatchDataArrival, ha, hh, hpe, hr, Bool.not_false, Bool.and_self, if_true, hrd]
  case reload =>
    show execLatchReload s = _
    simp only [execLatchReload, ha, hh, hr, if_true, hrl]
  case mma =>
    subst his
    refine finish_ok (b := mmaB o) ?_
    simp only [mmaB, productB, hm.ready, bind_ok, hm.held, productTy_ok hty hr4, guardR_true, hv, decide_true, Bool.true_or,
      if_true, decide_eq_true htok, partsHere_ok hh, matFree_idle hb, accFree_ok hr (matFree_idle hb _)]
  case mmas =>
    subst hsub his
    refine finish_ok (b := mmasB o) ?_
    have hbg' : ((s.mat.part 4).bg == 0) = true := beq_iff_eq.mpr hbg
    have htok' : ((((partsRead (o.md.sub.extractLsb' 0 2) 0).filter fun i => (s.mat.part i).desc.token).length) == 0) = true :=
      beq_iff_eq.mpr htok
    simp only [mmasB, productB, hm.ready, bind_ok, hm.held, productTy_ok hty hr4, guardR_true, hv, hbg', Bool.or_true,
      if_neg hs0, partsHere_ok hh, hbm, htok', matFree_idle hb, accFree_ok hr (matFree_idle hb _)]
  case goes =>
    subst ht
    show execAccumulatorComplete s = _
    simp only [execAccumulatorComplete, ha, hh, hb, if_true]
  case complete =>
    subst ht
    show execAccumulatorComplete s = _
    simp only [execAccumulatorComplete, ha, hh, hb, Option.isSome_none, Bool.false_eq_true, if_false]
  case product =>
    obtain ⟨-, -, hle, -⟩ := steps_sound m p.sub
    exact ⟨m.steps p.sub, hle, iterate_product m tcx p hb hk⟩

end
end

section
/-!
Attention frames (R134-R156): what the checks of a frame capability answer, and where each frame instruction ends.
-/

namespace Sys2Proof.Machine

/-! ### What the checks answer -/

section
variable {h : Hdr} {body : State → R State} {s u t : State} {f : Fail}

theorem finishFrame_ok (hu : u = s.dropWorld s.world) (e : body u = .ok t) : finishFrame h body s = .next (ended h t) :=
  finish_ok (by rw [← hu]; exact e)
theorem finishFrame_trap (hu : u = s.dropWorld s.world) (e : body u = .error (.trap f, u)) :
    finishFrame h body s = .next (u.takeTrap f) := finish_trap (by rw [← hu]; exact e)

end

section
variable {u : State} {t : FTable} {i : Nat} {c : Cap} {o : ROp}

theorem openFrame_ok (hc : cfrCheck u = .ok (t, i)) (hs : (t.get i).sealedB = false) : openFrame u = .ok (t, i) := by
  simp only [openFrame, hc, bind_ok, hs, Bool.not_false, guardR_true]
theorem openFrame_sealed (hc : cfrCheck u = .ok (t, i)) (hs : (t.get i).sealedB = true) :
    openFrame u = .error (.trap ⟨cFRMS, 2, t.addr i⟩, u) := by
  simp only [openFrame, hc, bind_ok, hs, Bool.not_true, guardR_false, bind_error]
theorem cfrCheck_null (h : capIsNull u.cfr = true) : cfrCheck u = .error (.trap ⟨cFRMU, 2, 0⟩, u) := by
  simp only [cfrCheck, h, Bool.not_true, guardR_false, bind_error]
theorem cfrCheck_of (h : capIsNull u.cfr = false) : cfrCheck u = frameCheck u u.cfr := by
  simp only [cfrCheck, h, Bool.not_false, guardR_true, bind_ok]
theorem openFrame_null (h : capIsNull u.cfr = true) : openFrame u = .error (.trap ⟨cFRMU, 2, 0⟩, u) := by
  simp only [openFrame, cfrCheck_null h, bind_error]
theorem reg32_ok {r : BitVec 6} {a : Nat} (h : (u.rx r).toNat < 2 ^ 32) : reg32 u r a = .ok (u.rx r).toNat := by
  simp only [reg32, decide_eq_true h, guardR_true, bind_ok]
theorem keepsTag_ok {a : Nat} (h : (c.tag || capIsNull c) = true) : keepsTag u a c = .ok c := by
  simp only [keepsTag, h, guardR_true, bind_ok]

/-! ### The causes of a capability that names no frame (R134) -/

theorem frameCheck_untagged (h : c.tag = false) : frameCheck u c = .error (.trap ⟨cCAPT, 0, (capCursor c).toNat⟩, u) := by
  simp only [frameCheck, h, guardR_false, bind_error]
theorem frameCheck_type (h : c.tag = true) (ht : capOtype c ≠ 2) :
    frameCheck u c = .error (.trap ⟨cCAPS, 0, (capCursor c).toNat⟩, u) := by
  simp only [frameCheck, h, guardR_true, bind_ok, beq_false_of_ne ht, guardR_false, bind_error]
theorem frameCheck_world (h : c.tag = true) (ht : capOtype c = 2) (hw : (capWorld c).toNat ≠ u.world.val) :
    frameCheck u c = .error (.trap ⟨cCAPW, 0, (capCursor c).toNat⟩, u) := by
  simp only [frameCheck, h, ht, beq_self_eq_true, guardR_true, bind_ok, beq_false_of_ne hw, guardR_false, bind_error]
theorem frameCheck_perm (h : c.tag = true) (ht : capOtype c = 2) (hw : (capWorld c).toNat = u.world.val)
    (hp : capHas c pFRAME = false) : frameCheck u c = .error (.trap ⟨cCAPP, 0, (capCursor c).toNat⟩, u) := by
  simp only [frameCheck, h, ht, hw, hp, beq_self_eq_true, guardR_true, bind_ok, guardR_false, bind_error]
theorem frameCheck_shape (h : c.tag = true) (ht : capOtype c = 2) (hw : (capWorld c).toNat = u.world.val)
    (hp : capHas c pFRAME = true) (hb : tableShape c = false) :
    frameCheck u c = .error (.trap ⟨cCAPB, 0, (capCursor c).toNat⟩, u) := by
  simp only [frameCheck, h, ht, hw, hp, hb, beq_self_eq_true, guardR_true, bind_ok, guardR_false, bind_error]
theorem frameCheck_dead (h : c.tag = true) (ht : capOtype c = 2) (hw : (capWorld c).toNat = u.world.val)
    (hp : capHas c pFRAME = true) (hb : tableShape c = true) (hr : readTable u c = .ok t)
    (hl : (t.get (t.slotOf c)).live = false) :
    frameCheck u c = .error (.trap ⟨cFRMV, 1, t.addr (t.slotOf c)⟩, u) := by
  simp only [frameCheck, h, ht, hw, hp, hb, hr, hl, beq_self_eq_true, guardR_true, bind_ok, guardR_false, bind_error]

end

theorem kindCheck_ok {u : State} {c : Cap} {p : BitVec 12} (h : capCheckKind u.world c p = none) : kindCheck u c p = .ok () := by
  simp only [kindCheck, h]

/-! ### Instructions that share a first check -/

/-- An instruction on a sealed or a null cfr stops with the cause of the check. -/
theorem openFrame_stops {s u : State} (hu : u = s.dropWorld s.world) {f : Fail} (e : openFrame u = .error (.trap f, u))
    (o : ROp) (q : RIOp) : ∀ i ∈ [Instr.farg o, .fkeep o, .fwin q, .fappend q], exec i s = .next (u.takeTrap f) := by
  intro i hi
  simp only [List.mem_cons, List.not_mem_nil, or_false] at hi
  rcases hi with rfl | rfl | rfl | rfl
  · exact (finishFrame_trap (f := f) hu (by simp only [e, bind_error]) : execFarg o s = _)
  · exact (finishFrame_trap (f := f) hu (by simp only [e, bind_error]) : execFkeep o s = _)
  · exact (finishFrame_trap (f := f) hu (by simp only [e, bind_error]) : execFwin q s = _)
  · exact (finishFrame_trap (f := f) hu (by simp only [e, bind_error]) : execFappend q s = _)
/-- An instruction whose capability names no frame stops with the cause of the check. -/
theorem frameCheck_stops {s u : State} (hu : u = s.dropWorld s.world) {f : Fail} {o : ROp}
    (e : frameCheck u (u.rc o.oa) = .error (.trap f, u)) :
    ∀ i ∈ [Instr.fenter o, .fseal o, .fshare o, .fdrop o], exec i s = .next (u.takeTrap f) := by
  intro i hi
  simp only [List.mem_cons, List.not_mem_nil, or_false] at hi
  rcases hi with rfl | rfl | rfl | rfl
  · exact (finishFrame_trap (f := f) hu (by simp only [e, bind_error]) : execFenter o s = _)
  · exact (finishFrame_trap (f := f) hu (by simp only [e, bind_error]) : execFseal o s = _)
  · exact (finishFrame_trap (f := f) hu (by simp only [e, bind_error]) : execFshare o s = _)
  · exact (finishFrame_trap (f := f) hu (by simp only [e, bind_error]) : execFdrop o s = _)

end Sys2Proof.Machine

section
open Sys2Proof
open Sys2Proof.Machine

/-- Settles O10. -/
theorem framesComplete : Obligations.FramesComplete := by
  unfold Obligations.FramesComplete
  refine ⟨fun s u t i d hu hd => ⟨fun o hf => ⟨?fenter, ?fseal, fun hs hk => ?fshare⟩,
      fun o hc hs ha hb => ⟨fun hz => ?fargNone, fun f j n hf hj hn hn0 hl he hle => ?farg, fun hk => ?fkeep⟩,
      fun o v hc hs hv hw => ?fwin⟩,
    fun s u o hu => ⟨fun hn i hi => ?nullCfr, fun q i hi => ⟨fun hn => ?nullImm, fun t k hc hs => ?sealedImm⟩,
      fun c hc i hi => ?badCap, fun t i hc hs j hj => ?sealed, fun t i hf hs => ?unshared⟩,
    fun s u t i d hu hd => ⟨fun o n v hc hs hn hcap hk hm hr d2 hd2 hg => ?fappend,
      fun o hn => ⟨?fvisNull, fun hp => ?fmaskNull⟩,
      fun o hn hf => ⟨fun v hv => ?fvis, fun r hp hr => ?fmask⟩,
      fun o n hf hn => ⟨fun h0 hle => ?fdescNum, fun h0 hz hk => ?fdescParent, fun h0 hz hk => ?fdescTail,
        fun h0 hz hk => ?fdescRot⟩⟩,
    fun s u o p i slice fits req cap hu hp hpush hi hsl hfits hreq hcap hw hrow hl hb hle => ?fpush,
    fun s u o t ci c hu hc => ⟨fun gi g kl hcfr hpar hsh hch hgi hg hkl hks hcap hkv hgkv s1 s2 fl hm hcp g2 r s3 t2 hg2 hr hga
        hs3 ht2 => ?fpop,
      fun hf hp hk same hsame => ⟨fun hs => ?fdropPinned, fun hs hch hga v hv => ?fdropLast, fun h2 hs v hv => ?fdropShared⟩⟩⟩
  case fenter =>
    show execFenter o s = _
    exact finishFrame_ok hu (by simp only [hf, bind_ok])
  case fseal =>
    subst hd
    show execFseal o s = _
    exact finishFrame_ok hu (by simp only [hf, bind_ok])
  case fshare =>
    subst hd
    show execFshare o s = _
    exact finishFrame_ok hu (by simp only [hf, bind_ok, hs, guardR_true, keepsTag_ok hk])
  case fargNone =>
    subst hd
    show execFarg o s = _
    refine finishFrame_ok hu ?_
    have h0 : ((u.rx o.ob).toNat == 0) = true := by rw [hz]; rfl
    simp only [openFrame_ok hc hs, bind_ok, reg32_ok ha, reg32_ok hb, h0, if_true]
  case farg =>
    subst hf hj hn
    show execFarg o s = _
    refine finishFrame_ok hu ?_
    subst hd
    simp only [openFrame_ok hc hs, bind_ok, reg32_ok ha, reg32_ok hb, beq_false_of_ne hn0, Bool.false_eq_true, if_false, hl,
      guardR_true, decide_eq_true he, decide_eq_true hle, Bool.and_self]
  case fkeep =>
    subst hd
    show execFkeep o s = _
    refine finishFrame_ok hu ?_
    have hg : ((u.rx o.ob).toNat == 0 || (decide ((u.rx o.oa).toNat + (u.rx o.ob).toNat ≤ (t.get i).len) &&
        decide ((t.get i).edge ≤ (u.rx o.oa).toNat))) = true := by
      rcases hk with hk | ⟨h1, h2⟩
      · rw [hk]; rfl
      · rw [decide_eq_true h1, decide_eq_true h2]; exact Bool.or_true _
    simp only [openFrame_ok hc hs, bind_ok, reg32_ok ha, reg32_ok hb, hg, guardR_true]
  case fwin =>
    subst hd
    show execFwin o s = _
    refine finishFrame_ok hu ?_
    have hg : ((t.get i).win == 0 || (v != 0 && decide (v ≤ (t.get i).win))) = true := by
      rcases hw with hw | ⟨h1, h2⟩
      · rw [hw]; rfl
      · rw [bne_iff_ne.mpr h1, decide_eq_true h2]; exact Bool.or_true _
    simp only [openFrame_ok hc hs, bind_ok, hv, hg, guardR_true]
  case nullCfr =>
    simp only [List.mem_cons, List.not_mem_nil, or_false] at hi
    rcases hi with rfl | rfl | rfl | hi
    · exact openFrame_stops hu (openFrame_null hn) o (.r o) _ (by simp)
    · exact openFrame_stops hu (openFrame_null hn) o (.r o) _ (by simp)
    · exact (finishFrame_trap (f := ⟨cFRMU, 2, 0⟩) hu (by simp only [cfrCheck_null hn, bind_error]) : execFpop o s = _)
    · exact openFrame_stops hu (openFrame_null hn) o (.r o) i (by rcases hi with rfl | rfl <;> simp)
  case nullImm =>
    exact openFrame_stops hu (openFrame_null hn) o (.i q) i (List.mem_cons_of_mem _ (List.mem_cons_of_mem _ hi))
  case sealedImm =>
    exact openFrame_stops hu (openFrame_sealed hc hs) o (.i q) i (List.mem_cons_of_mem _ (List.mem_cons_of_mem _ hi))
  case badCap =>
    subst hc
    exact ⟨fun h => frameCheck_stops hu (frameCheck_untagged h) i hi,
      fun h ht => frameCheck_stops hu (frameCheck_type h ht) i hi,
      fun h ht hw => frameCheck_stops hu (frameCheck_world h ht hw) i hi,
      fun h ht hw hp => frameCheck_stops hu (frameCheck_perm h ht hw hp) i hi,
      fun h ht hw hp hb => frameCheck_stops hu (frameCheck_shape h ht hw hp hb) i hi,
      fun t h ht hw hp hb hr hl => frameCheck_stops hu (frameCheck_dead h ht hw hp hb hr hl) i hi⟩
  case sealed => exact openFrame_stops hu (openFrame_sealed hc hs) o (.r o) j hj
  case unshared =>
    show execFshare o s = _
    exact finishFrame_trap hu (by simp only [hf, bind_ok, hs, guardR_false, bind_error])
  case fappend =>
    subst hd hd2
    show execFappend o s = _
    refine finishFrame_ok hu ?_
    simp only [openFrame_ok hc hs, bind_ok, hn, decide_eq_true hcap, guardR_true, keepsTag_ok hk, hm, hr, hg]
  case fvisNull =>
    show execFvis o s = _
    exact finishFrame_ok hu (by rw [if_pos hn])
  case fmaskNull =>
    show execFmask o s = _
    refine finishFrame_ok hu ?_
    simp only [noPort_ok hp, bind_ok, hn, if_true, zmOf, beq_iff_eq]
  case fvis =>
    show execFvis o s = _
    refine finishFrame_ok hu ?_
    simp only [hn, Bool.false_eq_true, if_false, cfrCheck_of hn, hf, bind_ok, hv]
  case fmask =>
    show execFmask o s = _
    refine finishFrame_ok hu ?_
    simp only [noPort_ok hp, bind_ok, hn, Bool.false_eq_true, if_false, cfrCheck_of hn, hf, hr]
  case fdescNum =>
    subst hd
    show execFdesc o s = _
    refine finishFrame_ok hu ?_
    have h0' : ((riMd o).sub == 0) = true := beq_iff_eq.mpr h0
    have hle' := decide_eq_true hle
    cases o <;> subst hn <;> simp only [hf, bind_ok, h0', if_true, hle', guardR_true]
  case fdescParent =>
    subst hd
    show execFdesc o s = _
    refine finishFrame_ok hu ?_
    cases o <;> subst hz <;>
      simp only [hf, bind_ok, beq_iff_eq, if_neg h0, ← hn, keepsTag_ok hk, decide_eq_true (Nat.zero_le 2), guardR_true]
  case fdescTail =>
    subst hd
    show execFdesc o s = _
    refine finishFrame_ok hu ?_
    cases o <;> subst hz <;>
      simp only [hf, bind_ok, beq_iff_eq, if_neg h0, ← hn, keepsTag_ok hk, decide_eq_true (show 1 ≤ 2 by decide), guardR_true]
  case fdescRot =>
    subst hd
    show execFdesc o s = _
    refine finishFrame_ok hu ?_
    cases o <;> subst hz <;>
      simp only [hf, bind_ok, beq_iff_eq, if_neg h0, ← hn, keepsTag_ok hk, decide_eq_true (Nat.le_refl 2), guardR_true]
  case fpush =>
    refine ⟨_, rfl, ?_⟩
    show execFpush o s = _
    refine finishFrame_ok hu ?_
    subst hsl hfits hreq hcap
    have hg : (p.wordOk && rowbOk p.rowb && capLen (u.rc o.oa) % 2 ^ 22 == 0 && capBase (u.rc o.oa) % 2 ^ 16 == 0 &&
        decide ((u.rx o.ob).toNat % 2 ^ 32 ≤ capLen (u.rc o.oa) / 64 / p.rowb)) = true := by
      rw [hw, hrow, hl, hb, decide_eq_true hle]; rfl
    by_cases h0 : o.oc = 0
    · rw [if_pos h0] at hpush
      simp only [kindCheck_ok hp, bind_ok, beq_iff_eq, if_pos h0, hpush, hi, if_pos hrow, hg, guardR_true]
    · rw [if_neg h0] at hpush
      simp only [kindCheck_ok hp, bind_ok, beq_iff_eq, if_neg h0, hpush, hi, if_pos hrow, hg, guardR_true]
  case fpop =>
    subst hgi hg hg2 hr hs3 ht2 hc
    show execFpop o s = _
    refine finishFrame_ok hu ?_
    have hnull : (!capIsNull (t.get ci).parent) = true := by simp [capIsNull, hpar]
    have h1 : (kl == 0 || !(t.get (t.slotOf (t.get ci).parent)).sealedB) = true := by
      rcases hks with h | ⟨h, -⟩
      · rw [h]; rfl
      · rw [h]; exact Bool.or_true _
    have h2 : (kl == 0 || decide ((t.get ci).edge ≤ (t.get ci).kstart)) = true := by
      rcases hks with h | ⟨-, h⟩
      · rw [h]; rfl
      · rw [decide_eq_true h]; exact Bool.or_true _
    simp only [hcfr, bind_ok, keepsTag_ok (show ((t.get ci).parent.tag || capIsNull (t.get ci).parent) = true by rw [hpar]; rfl),
      hnull, guardR_true, decide_eq_true hsh, hch, ← hkl, h1, h2, decide_eq_true hcap, keepsTag_ok hkv, keepsTag_ok hgkv, hm,
      beq_iff_eq, hcp, hga]
  case fdropPinned =>
    subst hc
    show execFdrop o s = _
    refine finishFrame_ok hu ?_
    simp only [hf, bind_ok, hsame, hs, beq_self_eq_true, if_true, keepsTag_ok hp]
    cases same
    · simp only [Bool.false_eq_true, if_false]
    · simp only [if_true]
  case fdropLast =>
    subst hc
    rw [hv]
    show execFdrop o s = _
    refine finishFrame_ok hu ?_
    have h255 : ((t.get ci).sharers == 255) = false := beq_false_of_ne (by omega)
    simp only [hf, bind_ok, hsame, h255, Bool.false_eq_true, if_false, keepsTag_ok hp, keepsTag_ok hk,
      if_neg (Nat.not_le.mpr hs), hch, hga]
    cases same
    · simp only [Bool.false_eq_true, if_false]
    · simp only [if_true]
  case fdropShared =>
    subst hc
    rw [hv]
    show execFdrop o s = _
    refine finishFrame_ok hu ?_
    simp only [hf, bind_ok, hsame, beq_false_of_ne hs, Bool.false_eq_true, if_false, keepsTag_ok hp, keepsTag_ok hk,
      if_pos h2]
    cases same
    · simp only [Bool.false_eq_true, if_false]
    · simp only [if_true]

end
end

section
/-!
The wavefront array (R158-R171): where each instruction of a slot that holds it, and the oldest tile, ends.
-/

namespace Sys2Proof.Machine

section
variable {s : State}

theorem waveHeld_ok (h : holdsMat s [3]) (a : Nat) : waveHeld s a = .ok s := by
  simp only [waveHeld, h.ready, bind_ok, h.held]

/-- The rule of a `wcfg` is the low word of its register: its table bit is the register's bit 5. -/
theorem ruleWord_table {v : BitVec 64} {b : Bool} (h : v.getLsbD 5 = b) : (v.extractLsb' 0 32).getLsbD 5 = b := by
  rw [BitVec.getLsbD_extractLsb', h]; rfl

end

end Sys2Proof.Machine

section
open Sys2Proof
open Sys2Proof.Machine

/-- Settles O11. -/
theorem wavefrontCompletes : Obligations.WavefrontCompletes := by
  unfold Obligations.WavefrontCompletes
  refine ⟨fun s hm => ⟨fun o hi hr => ⟨fun h5 ho => ?rulePlain, fun t u h5 ho hc ht => ?ruleTable⟩,
      fun o hi => ⟨fun h0 hr ht => ?ruleImm, fun h0 => ?gapImm⟩, fun o lo hi hidle heq hle => ?wband,
      fun o ha hb hp => ?wseq, fun o t hs hn hp hl rows hrows => ?wtile,
      fun o ps hp => ⟨fun bs u hc hw hpl hl => ?wbget, fun u hc hw hpl hst => ?wbput⟩,
      fun o c w bs u hc hi hp hpp hcc hloc hal hw hr hcol hst hl x hx => ?tbwalk⟩,
    fun s u v t rest ha ht hu hv => ?complete⟩
  case rulePlain =>
    refine finish_ok (b := wcfgR o) ?_
    simp only [wcfgR, waveHeld_ok hm, bind_ok, hi, ruleWord_table h5, Bool.false_and, Bool.false_eq_true, if_false, hr,
      guardR_true, ho, bne_self_eq_false, beq_self_eq_true]
  case ruleTable =>
    refine finish_ok (b := wcfgR o) ?_
    simp only [wcfgR, waveHeld_ok hm, bind_ok, hi, ruleWord_table h5, Bool.true_and, bne_iff_ne.mpr ho, if_true, if_neg ho, hc,
      check_none, hr, guardR_true, beq_self_eq_true, ht]
  case ruleImm =>
    refine finish_ok (b := wcfgX o) ?_
    simp only [wcfgX, waveHeld_ok hm, bind_ok, hi, if_pos h0, hr, ht, Bool.not_false, guardR_true]
  case gapImm =>
    refine finish_ok (b := wcfgX o) ?_
    simp only [wcfgX, waveHeld_ok hm, bind_ok, hi, if_neg h0]
  case wband =>
    show execWband o s = _
    refine finish_ok ?_
    have hle' := decide_eq_true hle
    cases o <;> obtain ⟨rfl, rfl⟩ := Prod.mk.inj heq <;> simp only [waveHeld_ok hm, bind_ok, hidle, hle', guardR_true]
  case wseq =>
    show execWseq o s = _
    refine finish_ok ?_
    simp only [waveHeld_ok hm, bind_ok, noPort_ok ha, noPort_ok hb, hp]
  case wtile =>
    subst hrows
    show execWtile o s = _
    refine finishHanded_ok ?_
    simp only [waveHeld_ok hm, bind_ok, hs, hn, hp, if_neg (Nat.not_le.mpr hl)]
  case wbget =>
    show execWbget o s = _
    refine finish_ok ?_
    simp only [waveHeld_ok hm, bind_ok, noPort_ok hp, hc, hw, hpl, hl, beq_iff_eq]
  case wbput =>
    show execWbput o s = _
    refine finish_ok ?_
    by_cases hx : o.x = 1
    · obtain ⟨hr, hlw⟩ := hw hx
      simp only [waveHeld_ok hm, bind_ok, noPort_ok hp, hc, beq_iff_eq, if_pos hx, hr, hlw, hpl, hst]
    · simp only [waveHeld_ok hm, bind_ok, noPort_ok hp, hc, beq_iff_eq, if_neg hx, hpl, hst]
  case tbwalk =>
    subst hc hw hx
    show execTbwalk o s = _
    refine finish_ok ?_
    have hg : (decide ((walkerOf (s.rx o.oa)).row < 32) && decide ((walkerOf (s.rx o.oa)).col < 32) &&
        ((walkerOf (s.rx o.oa)).st == 0 || (decide ((walkerOf (s.rx o.oa)).st < 3) && s.wave.aff))) = true := by
      rw [decide_eq_true hr, decide_eq_true hcol]
      rcases hst with h | ⟨h, ha⟩
      · rw [h]; rfl
      · rw [decide_eq_true h, ha]; exact Bool.or_true _
    by_cases h1 : o.md.sub = 1
    · obtain ⟨hpc, hpe⟩ := hpp h1
      simp only [waveHeld_ok hm, bind_ok, noPort_ok hp, if_pos h1, noPort_ok hpc, noPort_ok hpe, hi, hcc, check_none, hloc, hal,
        beq_self_eq_true, Bool.and_self, guardR_true, hg, hl]
    · simp only [waveHeld_ok hm, bind_ok, noPort_ok hp, if_neg h1, hi, hcc, check_none, hloc, hal, beq_self_eq_true,
        Bool.and_self, guardR_true, hg, hl]
  case complete =>
    subst hu
    show execWtileComplete s = _
    simp only [execWtileComplete, ha, ht, hv]

end
end

section
/-!
Memory instructions (R209-R222): where each one whose checks pass, and whose memory is reached, ends.
-/

namespace Sys2Proof.Machine

section
variable {s : State}

/-- A pop of `n` good granules that stand in the bank, with nobody ahead. -/
theorem fifoPop_ok {a n : Nat} (hb : s.fifoBehind .fpop (fifoIx a) = false) (hn : n ≤ (s.fifo (fifoIx a)).length)
    (hg : s.fifoBad (fifoIx a) n = false) :
    fifoPop s a n = .ok (((s.fifo (fifoIx a)).take n).map s.filterCap, s.fifoTaken (fifoIx a) n) := by
  simp only [fifoPop, hb, decide_eq_false (Nat.not_lt.mpr hn), hg, Bool.or_self, Bool.false_eq_true, if_false]

theorem fifoPop_bad {a n : Nat} (hb : s.fifoBehind .fpop (fifoIx a) = false) (hn : n ≤ (s.fifo (fifoIx a)).length)
    (hg : s.fifoBad (fifoIx a) n = true) : fifoPop s a n = .error (.trap ⟨cMEMERR, 0, a⟩, s) := by
  simp only [fifoPop, hb, decide_eq_false (Nat.not_lt.mpr hn), hg, Bool.or_self, Bool.false_eq_true, if_false, if_true]
  rfl

/-- A push into a bank that has the room, with nobody ahead. -/
theorem fifoPush_ok {a : Nat} {gs : List Cap} (hr : releaseWait s 1 = .ok ()) (hb : s.fifoBehind .fpush (fifoIx a) = false)
    (hn : (s.fifo (fifoIx a)).length + gs.length ≤ 8192) :
    fifoPush s a gs = .ok (s.fifoPut (fifoIx a) (gs.map s.filterCap)) := by
  simp only [fifoPush, hr, bind_ok, hb, decide_eq_false (Nat.not_lt.mpr hn), Bool.or_self, Bool.false_eq_true, if_false]

/-- A well-formed command whose checks pass enters a table that has room. -/
theorem copyIssue_ok {a : Nat} {c d : CopyCmd} (hm : d.malformed = false)
    (hc : c = if d.raw then d else { d with rm := s.sl.rmCode d.rm }) (hk : copyCheck s c = .ok ())
    (hp : copyFirstPage s c = .ok ()) (hn : s.sl.copies.length < 8) :
    copyIssue s a d = .ok ((s.modCur fun sl => { sl with copies := sl.copies ++ [c] }).post .copyChunk) := by
  subst hc
  simp only [copyIssue, hm, Bool.not_false, guardR_true, bind_ok, hk, hp, if_neg (Nat.not_le.mpr hn)]

/-- An access of plain order is aligned to bytes, one of another order to its size (R212). -/
theorem mAlign_eq {n : Nat} {b : BitVec 3} : (if (b == 0) = true then 1 else n) = if b = 0 then 1 else n := by
  simp only [beq_iff_eq]

end

end Sys2Proof.Machine

section
open Sys2Proof
open Sys2Proof.Machine

/-- Settles O14. -/
theorem memoryInstructionsComplete : Obligations.MemoryInstructionsComplete := by
  unfold Obligations.MemoryInstructionsComplete
  refine ⟨fun s u o c ea n al hc he hn hal => ⟨fun bs v ha hw => ⟨fun ht hl => ?ld, fun ht hl => ?ldm⟩, fun v ha ht hw hst => ?st,
      fun hf g v ha ht hw hl => ?ldc, fun hf v ha ht hw hst => ?stc,
      fun hp hf => ⟨fun bs v hl => ?vld, fun v ha hw hst => ?vst⟩⟩,
    fun s o c ea hc he hf => ⟨fun g gs u hu hk hl hb => ⟨fun hbad => ?ldcBad, fun hbad => ?ldcFifo⟩,
      fun v u hu hv hk hr hl hb => ?stcFifo,
      fun hp => ⟨fun hk hl hb hbad => ?vldFifo, fun hk hr hl hb => ?vstFifo⟩⟩,
    fun s o c ea n hc he hn => ⟨fun hd hb => ⟨fun live sup bits v hl hg => ?vldg, fun live sup v hl hs => ?vsts⟩,
      fun ha hw => ⟨fun g v t hz hl ht => ?ldfeCap, fun ps bs v t hz hp hl ht => ?ldfe⟩,
      fun hr hw => ⟨fun v hz ha hst => ?stfeCap, fun ps v hz ha hp hst => ?stfe⟩⟩,
    fun s u => ⟨fun o key main va len hc hp => ⟨?pref, ?lflush, ?linv⟩, fun o f t hc hp => ⟨?lflushFault, ?linvFault, ?prefFault⟩,
      fun o ha => ⟨fun hs => ?migSealed, fun hs ht hm => ?mig⟩, fun o => ?home, fun o d c hd hc hm hk hp hl => ?cpy,
      fun o gs d c e ha hg hd hc he hm hk hp hl => ?cpyq, fun o hr => ?fence⟩⟩
  case ld =>
    subst hc he hn hal
    refine finish_ok (b := ldBody o false) ?_
    simp only [ldBody, mAlign_eq, ha, bind_ok, ht, hw, hl]
  case ldm =>
    subst hc he hn hal
    refine finish_ok (b := ldBody o true) ?_
    simp only [ldBody, mAlign_eq, ha, bind_ok, ht, hw, hl]
  case st =>
    subst hc he hn hal
    show execSt o s = _
    refine finish_ok ?_
    simp only [mAlign_eq, ha, bind_ok, ht, hw, hst]
  case ldc =>
    subst hc he
    show execLdc o s = _
    refine finish_ok ?_
    simp only [hf, Bool.false_eq_true, if_false, ha, bind_ok, ht, hw, hl]
  case stc =>
    subst hc he
    show execStc o s = _
    refine finish_ok ?_
    simp only [hf, Bool.false_eq_true, if_false, ha, bind_ok, ht, hw, hst]
  case vld =>
    subst hc he
    show execVld o s = _
    refine finish_ok ?_
    simp only [noPort_ok hp, hf, Bool.false_eq_true, if_false, bind_ok, hl]
  case vst =>
    subst hc he
    show execVst o s = _
    refine finish_ok ?_
    simp only [noPort_ok hp, hf, Bool.false_eq_true, if_false, ha, bind_ok, hw, hst]
  case ldcBad =>
    subst hc he hu
    show execLdc o s = _
    refine finish_trap ?_
    have hn : 1 ≤ ((s.goHome s.cur).fifo (fifoIx (mEa s o))).length := by rw [hl]; exact Nat.succ_pos _
    simp only [hf, if_true, hk, bind_ok, fifoPop_bad hb hn hbad, bind_error]
  case ldcFifo =>
    subst hc he hu
    show execLdc o s = _
    refine finish_ok ?_
    have hn : 1 ≤ ((s.goHome s.cur).fifo (fifoIx (mEa s o))).length := by rw [hl]; exact Nat.succ_pos _
    simp only [hf, if_true, hk, bind_ok, fifoPop_ok hb hn hbad, hl, List.take_succ_cons, List.map_cons, List.headD_cons]
  case stcFifo =>
    subst hc he hu hv
    show execStc o s = _
    refine finish_ok ?_
    simp only [hf, if_true, hk, bind_ok, fifoPush_ok hr hb (gs := [_]) hl, List.map_cons, List.map_nil]
  case vldFifo =>
    subst hc he
    show execVld o s = _
    refine finish_ok ?_
    simp only [noPort_ok hp, hf, if_true, hk, bind_ok, fifoPop_ok hb hl hbad]
  case vstFifo =>
    subst hc he
    show execVst o s = _
    refine finish_ok ?_
    simp only [noPort_ok hp, hf, if_true, hk, bind_ok, fifoPush_ok hr hb (gs := granulesOf _) hl]
  case vldg =>
    subst hc hn
    show execVldg o s = _
    refine finish_ok ?_
    simp only [noPort_ok hd, noPort_ok hb, bind_ok, hl, hg]
  case vsts =>
    subst hc hn
    show execVsts o s = _
    refine finish_ok ?_
    simp only [noPort_ok hd, noPort_ok hb, bind_ok, hl, hs, allOrNone]
  case ldfeCap =>
    subst hc he hn ht
    show execLdfe o s = _
    refine finish_ok ?_
    simp only [ha, bind_ok, hw, beq_iff_eq, if_pos hz, hl]
  case ldfe =>
    subst hc he hn ht
    show execLdfe o s = _
    refine finish_ok ?_
    simp only [ha, bind_ok, hw, beq_iff_eq, if_neg hz, hp, hl]
  case stfeCap =>
    subst hc he hn
    show execStfe o s = _
    refine finish_ok ?_
    by_cases hx : o.x = 1
    · simp only [beq_iff_eq, if_pos hz, ha, bind_ok, if_pos hx, hr hx, hw, hst]
    · simp only [beq_iff_eq, if_pos hz, ha, bind_ok, if_neg hx, hw, hst]
  case stfe =>
    subst hc he hn
    show execStfe o s = _
    refine finish_ok ?_
    by_cases hx : o.x = 1
    · simp only [beq_iff_eq, if_neg hz, ha, bind_ok, if_pos hx, hr hx, hw, hp, hst]
    · simp only [beq_iff_eq, if_neg hz, ha, bind_ok, if_neg hx, hw, hp, hst]
  case pref =>
    show execPref o s = _
    refine finish_ok ?_
    simp only [hc, bind_ok, hp]
  case lflush =>
    show execLflush o s = _
    refine finish_ok ?_
    simp only [hc, bind_ok, hp]
  case linv =>
    show execLinv o s = _
    refine finish_ok ?_
    simp only [hc, bind_ok, hp]
  case lflushFault =>
    show execLflush o s = _
    refine finish_ok ?_
    simp only [hc, bind_ok, hp]
  case linvFault =>
    show execLinv o s = _
    refine finish_ok ?_
    simp only [hc, bind_ok, hp]
  case prefFault =>
    show execPref o s = _
    by_cases hk : f.cause = cKVPA
    · rw [if_pos hk]
      refine finish_trap (f := f) ?_
      simp only [hc, bind_ok, hp, beq_iff_eq, if_pos hk]
    · rw [if_neg hk]
      refine finish_ok ?_
      simp only [hc, bind_ok, hp, beq_iff_eq, if_neg hk]
  case migSealed =>
    obtain ⟨hloc, hsea⟩ := hs
    show execMig o s = _
    refine finish_ok ?_
    simp only [ha, bind_ok, hloc, hsea, Bool.not_false, Bool.and_self, if_true]
  case mig =>
    show execMig o s = _
    refine finish_ok ?_
    have hno : (!capLocal (s.rc o.oa) && s.sealedVa s.world (mEa s o)) = false := by
      rcases hs with h | h <;> rw [h]
      · rfl
      · exact Bool.and_false _
    simp only [ha, bind_ok, hno, Bool.false_eq_true, if_false, ht, hm]
  case home => exact finish_ok (b := fun s => .ok (s.goHome s.cur)) rfl
  case cpy =>
    subst hd
    show execCpy o s = _
    exact finishHanded_ok (copyIssue_ok hm hc hk hp hl)
  case cpyq =>
    show execCpyq o s = _
    refine finishHanded_ok ?_
    simp only [ha, bind_ok, hg, hd]
    subst hc
    exact copyIssue_ok hm he hk hp hl
  case fence =>
    show execFence o s = _
    refine finish_ok ?_
    by_cases h2 : 2 ≤ o.md.sub.toNat % 8
    · simp only [if_pos h2, hr h2, bind_ok]
    · simp only [if_neg h2]

end
end

section
/-!
Atomics and reductions (R223-R225): where one whose operand can be reached ends.
-/

namespace Sys2Proof.Machine

section
variable {s u v t : State} {o : MOp} {p : Piece} {need : Need} {bs : List Byte} {tag : Bool}

/-- An atomic whose flags are masked writes what its operation gives, and its destination takes the old bytes. -/
theorem amoBody_ok {ext arrives : Bool} {op : AmoOp} {f : Nat → Nat → Nat → Option Nat × Flags} {b : Nat} {r : Option Nat × Flags}
    (hg : atomicGo s o (pR ||| pW) = .ok u)
    (hp : placed u (u.rc o.oa) (mEaAtomic u o) (szBytes o.size) { r := true, w := true } = .ok [p])
    (ha : arrive u u.world [p] = .ok v) (hb : b = (u.rx o.ob).toNat % 2 ^ (8 * szBytes o.size))
    (hr : atomicRead v p { r := true, w := true } (mHint o true) (.atomic op (o.x == 1), b) = .ok (bs, tag, t))
    (hf : f (szBytes o.size) (leNat bs) b = r) (hm : masked t r.2) :
    amoBody o ext arrives op f s = .ok (((atomicWrite (flagged t r.2) p (mHint o true)
      (arrives && szBytes o.size == 8 && b == 1) (r.1.map (leBytes (szBytes o.size)))).acquired o.ord o.scope).wx o.od
        (extBytes bs (ext && o.x == 1))) := by
  subst hb hf
  simp only [amoBody, hg, bind_ok, hp, ha, hr, raiseFlags_masked hm]

/-- An atomic that raises an enabled flag traps before it writes (R223). -/
theorem amoBody_enabled {ext arrives : Bool} {op : AmoOp} {f : Nat → Nat → Nat → Option Nat × Flags} {b : Nat}
    {r : Option Nat × Flags} (hg : atomicGo s o (pR ||| pW) = .ok u)
    (hp : placed u (u.rc o.oa) (mEaAtomic u o) (szBytes o.size) { r := true, w := true } = .ok [p])
    (ha : arrive u u.world [p] = .ok v) (hb : b = (u.rx o.ob).toNat % 2 ^ (8 * szBytes o.size))
    (hr : atomicRead v p { r := true, w := true } (mHint o true) (.atomic op (o.x == 1), b) = .ok (bs, tag, t))
    (hf : f (szBytes o.size) (leNat bs) b = r) (hm : ¬ masked t r.2) :
    amoBody o ext arrives op f s = .error (.trap ⟨cFPE, r.2.toNat, 0⟩, t) := by
  subst hb hf
  simp only [amoBody, hg, bind_ok, hp, ha, hr, raiseFlags_enabled hm, bind_error]

/-- An atomic on a granule at its key: the new capability is written where the expected one is found. -/
theorem amoCapBody_ok {e : Option Cap} {key main : Nat} (hpl : p.place = .at key main)
    (hg : atomicGo s o (pR ||| pCL ||| pCW ||| stcPerm (s.rc o.ob)) = .ok u)
    (hp : placed u (u.rc o.oa) (mEaAtomic u o) 16 { r := true, w := true, cw := (s.rc o.ob).tag } = .ok [p])
    (ha : arrive u u.world [p] = .ok v)
    (hr : atomicRead v p { r := true, w := true, cw := (s.rc o.ob).tag } (mHint o true)
      (.atomicCap e (u.filterCap (s.rc o.ob)), 0) = .ok (bs, tag, t)) {x : State} {old : Cap}
    (ho : old = ⟨tag, BitVec.ofNat 128 (leNat bs)⟩)
    (hx : x = if e.all (· == old) then t.capWrite (mHint o true) key p.va (t.filterCap (s.rc o.ob))
      else atomicWrite t p (mHint o true) false none) :
    amoCapBody o e s = .ok ((x.acquired o.ord o.scope).wc o.od (x.filterCap old)) := by
  subst hx ho
  simp only [amoCapBody, hg, bind_ok, hp, ha, hr, hpl]

/-- A reduction to its own cluster or to a window is on its way at once. -/
theorem redBody_sent {op : BitVec 4} (ha : accessChecks s (s.rc o.oa) (mEaAtomic s o) (szBytes o.size) (pR ||| pW) .plain
      (szBytes o.size) = .ok ()) (hh : s.hostVa (s.rc o.oa) (mEaAtomic s o) = false) (hc : s.redCount s.cur < 16)
    (hl : (capLocal (s.rc o.oa) || (s.window s.world (mEaAtomic s o)).isSome) = true) :
    redBody o op s = .ok { s.sendUpdate (updateOf s o op) with opCtr := s.opCtr + 1 } := by
  simp only [redBody, ha, hh, Bool.not_false, guardR_true, bind_ok, if_neg (Nat.not_le.mpr hc), hl, if_true]
  rfl

/-- A reduction to a mapped page that nothing of the log touches is on its way. -/
theorem redBody_mapped {op : BitVec 4} {pa main : Nat} (ha : accessChecks s (s.rc o.oa) (mEaAtomic s o) (szBytes o.size)
      (pR ||| pW) .plain (szBytes o.size) = .ok ()) (hh : s.hostVa (s.rc o.oa) (mEaAtomic s o) = false)
    (hc : s.redCount s.cur < 16) (hl : capLocal (s.rc o.oa) = false) (hw : s.window s.world (mEaAtomic s o) = none)
    (ht : s.translate s.world (some s.cluster.val) (mEaAtomic s o) { r := true, w := true } = .ok pa main)
    (hp : s.pageFail { r := true, w := true } false s.world (mEaAtomic s o) main = none)
    (har : arrive s s.world [⟨.at pa main, mEaAtomic s o, szBytes o.size⟩] = .ok u)
    (hlog : u.logTouches u.sl.fib (mEaAtomic s o) (szBytes o.size) = false) :
    redBody o op s = .ok { u.sendUpdate (updateOf s o op) with opCtr := u.opCtr + 1 } := by
  simp only [redBody, ha, hh, Bool.not_false, guardR_true, bind_ok, if_neg (Nat.not_le.mpr hc), hl, hw, Option.isSome_none,
    Bool.or_self, Bool.false_eq_true, if_false, ht, hp, har, hlog]
  rfl

end

end Sys2Proof.Machine

section
open Sys2Proof
open Sys2Proof.Machine

/-- Settles O15. -/
theorem atomicsAndReductionsComplete : Obligations.AtomicsAndReductionsComplete := by
  unfold Obligations.AtomicsAndReductionsComplete
  refine ⟨fun s u v t o h p bs tag n m b need hneed hg hp ha hh hn hm hb =>
      ⟨fun q hq hr => ?amo, fun e hz he hr => ?cas, fun r hrr hr => ⟨fun hk => ?fadd, fun hk => ?faddTrap⟩⟩,
    fun s u v t w o h p key main bs tag need old hz hg hh hneed hpl hp ha hw hold =>
      ⟨fun hr => ?swpCap, fun hr => ⟨fun he => ?casCap, fun he x hx => ?casCapNot⟩⟩,
    fun s u => ⟨fun o p hp ha hh hc hu => ?red, fun v t ha hf hb hv => ?update⟩⟩
  case amo =>
    subst hneed hh hn hm
    simp only [List.mem_append, List.mem_cons, List.not_mem_nil, or_false] at hq
    rcases hq with (rfl | rfl | rfl | rfl | rfl | rfl) | hq
    · show execAmoadd o s = _
      exact finish_ok ((amoBody_ok hg hp ha hb hr rfl (masked_zero t)).trans (by simp only [Bool.true_and]; rfl))
    · show execAmomin o s = _
      exact finish_ok ((amoBody_ok hg hp ha hb hr rfl (masked_zero t)).trans (by simp only [Bool.true_and, Bool.false_and]; rfl))
    · show execAmomax o s = _
      exact finish_ok ((amoBody_ok hg hp ha hb hr rfl (masked_zero t)).trans (by simp only [Bool.true_and, Bool.false_and]; rfl))
    · show execAmoand o s = _
      exact finish_ok ((amoBody_ok hg hp ha hb hr rfl (masked_zero t)).trans (by simp only [Bool.true_and, Bool.false_and]; rfl))
    · show execAmoor o s = _
      exact finish_ok ((amoBody_ok hg hp ha hb hr rfl (masked_zero t)).trans (by simp only [Bool.true_and, Bool.false_and]; rfl))
    · show execAmoxor o s = _
      exact finish_ok ((amoBody_ok hg hp ha hb hr rfl (masked_zero t)).trans (by simp only [Bool.true_and, Bool.false_and]; rfl))
    · by_cases hz : o.size = 6
      · rw [if_pos hz] at hq
        exact absurd hq List.not_mem_nil
      · rw [if_neg hz, List.mem_singleton] at hq
        subst hq
        show execAmoswp o s = _
        unfold execAmoswp
        rw [if_neg (mt eq_of_beq hz)]
        exact finish_ok ((amoBody_ok hg hp ha hb hr rfl (masked_zero t)).trans
          (by simp only [Bool.true_and, Bool.false_and]; rfl))
  case cas =>
    subst hneed hh hn hm he
    show execAmocas o s = _
    unfold execAmocas
    rw [if_neg (mt eq_of_beq hz)]
    refine finish_ok ((amoBody_ok hg hp ha hb hr rfl (masked_zero t)).trans ?_)
    rw [apply_ite (Option.map _)]
    rfl
  case fadd =>
    subst hneed hh hn hm
    show execAmofadd o s = _
    exact finish_ok ((amoBody_ok (r := (some r.1, r.2)) hg hp ha hb hr (by rw [hrr]) hk).trans
      (by simp only [Bool.false_and]; rfl))
  case faddTrap =>
    subst hneed hh hn hm
    show execAmofadd o s = _
    exact finish_trap (amoBody_enabled (r := (some r.1, r.2)) hg hp ha hb hr (by rw [hrr]) hk)
  case swpCap =>
    subst hneed hh hw
    show execAmoswp o s = _
    unfold execAmoswp
    rw [if_pos (beq_iff_eq.mpr hz)]
    exact finish_ok (amoCapBody_ok hpl hg hp ha hr hold rfl)
  case casCap =>
    subst hneed hh hw
    show execAmocas o s = _
    unfold execAmocas
    rw [if_pos (beq_iff_eq.mpr hz)]
    refine finish_ok (amoCapBody_ok hpl hg hp ha hr hold (if_pos ?_).symm)
    exact beq_iff_eq.mpr he
  case casCapNot =>
    subst hneed hh hx
    show execAmocas o s = _
    unfold execAmocas
    rw [if_pos (beq_iff_eq.mpr hz)]
    refine finish_ok (amoCapBody_ok hpl hg hp ha hr hold (if_neg ?_).symm)
    exact mt eq_of_beq he
  case red =>
    have body : redBody o p.2 s = .ok { u.sendUpdate (updateOf s o p.2) with opCtr := u.opCtr + 1 } := by
      rcases hu with ⟨hl, rfl⟩ | ⟨hl, hw, pa, main, ht, hpf, har, hlog⟩
      · refine redBody_sent ha hh hc ?_
        rcases hl with h | h <;> simp only [h, Bool.true_or, Bool.or_true]
      · exact redBody_mapped ha hh hc hl hw ht hpf har hlog
    simp only [List.mem_cons, List.not_mem_nil, or_false] at hp
    rcases hp with rfl | rfl | rfl | rfl <;> exact finish_ok body
  case update =>
    show execRemoteUpdate s = _
    simp only [execRemoteUpdate, ha, hf, hb, Bool.false_eq_true, if_false, hv]

end
end

section
/-!
The events that give records to slots (R18-R25, R280-R286): binds, preemptions, restores, refills and the aperture.
-/

namespace Sys2Proof.Machine

section
variable {s : State} {i : SlotId} {e : BindEntry}

theorem writeEntry_worlds : (s.writeEntry i e).worlds = s.worlds := by
  unfold State.writeEntry; split <;> rfl

/-- What an entry's write leaves of its slot: all but the entry. -/
theorem writeEntry_slot : (s.writeEntry i e).slot i = s.slot i ∨ (s.writeEntry i e).slot i = { s.slot i with entry := e } := by
  unfold State.writeEntry
  split
  · exact .inl rfl
  · exact .inr (modSlot_slot ..)

theorem bindRefused_writeEntry {e' : BindEntry} : (s.writeEntry i e').bindRefused i e = s.bindRefused i e := by
  have hs : ((s.writeEntry i e').slot i).status = (s.slot i).status := by
    rcases writeEntry_slot (s := s) (i := i) (e := e') with h | h <;> rw [h]
  have hb : (s.writeEntry i e').saveBad e.world e.savecap = s.saveBad e.world e.savecap := by
    unfold State.saveBad State.sealedRange State.isProt State.wst
    rw [writeEntry_worlds]
  simp only [State.bindRefused, hs, hb]

/-- A refused bind ends with its code in the slot's STAT. -/
theorem bindWith_refused {f : State → State} {code : BitVec 8} (h : (s.writeEntry i e).bindRefused i e = some code) :
    s.bindWith i e f = ((s.writeEntry i e).setStat i code).post .localRefill := by
  simp only [State.bindWith, h]

theorem bindWith_given {f : State → State} (h : (s.writeEntry i e).bindRefused i e = none) :
    s.bindWith i e f = f ((s.writeEntry i e).modSlot i (·.given e)) := by
  simp only [State.bindWith, h]

/-- The slot of a bind that has been refused: all but its entry and its STAT is as it was. -/
theorem refused_slot {code : BitVec 8} : ∃ e' c n, (((s.writeEntry i e).setStat i code).post .localRefill).slot i =
    { s.slot i with entry := e', stat := c, statCause := n } := by
  have hs : (((s.writeEntry i e).setStat i code).post .localRefill).slot i =
      { (s.writeEntry i e).slot i with stat := code, statCause := 0 } :=
    modSlot_slot (s.writeEntry i e) i fun sl => { sl with stat := code, statCause := 0 }
  rcases writeEntry_slot (s := s) (i := i) (e := e) with h | h <;> rw [hs, h]
  · exact ⟨_, _, _, rfl⟩
  · exact ⟨_, _, _, rfl⟩

/-- The first two checks of a bind, in their order (R281). -/
theorem bindRefused_code {code : BitVec 8} (h : s.bindRefused i e = some code) :
    (i = 15 ∨ (s.slot i).status ≠ .free → code = 5) ∧
    (i ≠ 15 → (s.slot i).status = .free → s.saveBad e.world e.savecap = true → code = 6) := by
  unfold State.bindRefused at h
  refine ⟨fun hb => ?_, fun hi hf hs => ?_⟩
  · rw [if_pos hb] at h
    exact (Option.some.inj h).symm
  · rw [if_neg (not_or.mpr ⟨hi, not_not.mpr hf⟩), if_pos hs] at h
    exact (Option.some.inj h).symm

theorem askPage_slots_act {w : World} {va : Nat} {why : PageReason} :
    (s.askPage w va why).slots = s.slots ∧ (s.askPage w va why).act = s.act := by
  unfold State.askPage State.askPageAt
  dsimp only
  split <;> exact ⟨rfl, rfl⟩

theorem askImage_slots_act : (s.askImage i).slots = s.slots ∧ (s.askImage i).act = s.act := by
  unfold State.askImage
  dsimp only
  split
  · split
    · exact askPage_slots_act
    · exact ⟨rfl, rfl⟩
  · exact ⟨rfl, rfl⟩

theorem stall_slots : s.stall.slots = s.slots := by
  unfold State.stall
  repeat' split
  all_goals rfl

/-- An act that is put off stands among the deferred ones. -/
theorem stall_deferred {a : Act} (h : s.act = some a) : s.stall.deferred ≠ [] := by
  simp only [State.stall, h]
  split
  · rename_i hc
    rw [Bool.and_eq_true, List.contains_iff_mem] at hc
    exact List.ne_nil_of_mem hc.2
  · exact List.append_ne_nil_of_right_ne_nil _ (List.cons_ne_nil _ _)

end

end Sys2Proof.Machine

section
open Sys2Proof
open Sys2Proof.Machine

/-- Settles O37. -/
theorem slotTableEventsGiveRecordsToSlots : Obligations.SlotTableEventsGiveRecordsToSlots := by
  unfold Obligations.SlotTableEventsGiveRecordsToSlots
  refine ⟨fun s => ⟨fun i e u ha hu => ⟨fun code hb => ?bindRefused, fun hb => ?bind⟩,
      fun i e u ha hu => ⟨fun code hb => ?standRefused, fun hb => ?stand⟩,
      fun i ha hi hs hn => ?preempt, fun i ha hi hs hn => ?preemptLater,
      fun i ha => ⟨fun hr => ?image, fun hr => ?units⟩, fun r i ha hr hl => ?refill, fun w ha => ?promote,
      fun ha => ?held, fun r ok ha => ⟨fun hk => ?arrives, fun hk => ?dropped⟩,
      fun p fn off data ha hf hw => ⟨fun ho hb => ?apertureBad, fun r c hd h64 ho hr hc => ⟨fun hk => ?aperture, fun hk => ?full⟩⟩⟩,
    fun s t i e code ha hb ht => ?keeps⟩
  case bindRefused =>
    subst hu
    show execBind s = _
    simp only [execBind, ha, bindWith_refused hb]
    rfl
  case bind =>
    subst hu
    show execBind s = _
    simp only [execBind, ha, bindWith_given hb]
    rfl
  case standRefused =>
    subst hu
    show execStand s = _
    simp only [execStand, ha, bindWith_refused hb]
    rfl
  case stand =>
    subst hu
    show execStand s = _
    simp only [execStand, ha, bindWith_given hb]
    rfl
  case preempt =>
    show execPreempt s = _
    simp only [execPreempt, ha, if_neg (not_or.mpr ⟨hi, hs⟩), if_pos hn]
  case preemptLater =>
    have hx : exec .preempt s = .next (((s.modSlot i fun sl => { sl with op := 2 }).askImage i).stall) := by
      show execPreempt s = _
      simp only [execPreempt, ha, if_neg (not_or.mpr ⟨hi, hs⟩), hn, Bool.false_eq_true, if_false]
      rfl
    have hslot : (((s.modSlot i fun sl => { sl with op := 2 }).askImage i).stall).slot i = { s.slot i with op := 2 } := by
      rw [slot_congr (stall_slots.trans askImage_slots_act.1), modSlot_slot]
    refine ⟨_, hx, ?_, ?_, stall_deferred (askImage_slots_act.2.trans ha)⟩ <;> rw [hslot]
  case image =>
    show execRestoreUnitTake s = _
    simp only [execRestoreUnitTake, ha, hr]
  case units =>
    show execRestoreUnitTake s = _
    simp only [execRestoreUnitTake, ha, hr]
  case refill =>
    show execLocalRefill s = _
    simp only [execLocalRefill, ha, hr, hl]
  case promote =>
    have hx : exec .cmqPromote s = execCmqPromote s := rfl
    rw [hx]
    simp only [execCmqPromote, ha]
    refine ⟨_, rfl, ?_, ?_⟩ <;> (repeat' split) <;> rfl
  case held =>
    show execHeldMessageDelivery s = _
    simp only [execHeldMessageDelivery, ha]
  case arrives =>
    show execHeldMessageDelivery s = _
    simp only [execHeldMessageDelivery, ha, if_pos hk]
  case dropped =>
    show execHeldMessageDelivery s = _
    simp only [execHeldMessageDelivery, ha, hk, Bool.false_eq_true, if_false]
    rfl
  case apertureBad =>
    show execEnqueueApertureWrite s = _
    simp only [execEnqueueApertureWrite, ha, hf, hw, Bool.false_eq_true, if_false, State.bar0Write, if_pos (show off < 0x4000 from ho),
      State.apertureWrite, if_pos hb]
  case aperture =>
    subst hr hc
    show execEnqueueApertureWrite s = _
    simp only [execEnqueueApertureWrite, ha, hf, hw, Bool.false_eq_true, if_false, State.bar0Write, if_pos (show off < 0x4000 from ho),
      State.apertureWrite, if_neg (not_or.mpr ⟨not_not.mpr hd, not_not.mpr h64⟩), if_pos hk]
  case full =>
    subst hr hc
    show execEnqueueApertureWrite s = _
    simp only [execEnqueueApertureWrite, ha, hf, hw, Bool.false_eq_true, if_false, State.bar0Write, if_pos (show off < 0x4000 from ho),
      State.apertureWrite, if_neg (not_or.mpr ⟨not_not.mpr hd, not_not.mpr h64⟩), hk, Bool.false_eq_true,
      if_false]
  case keeps =>
    have hx : exec .bind s = .next (((s.writeEntry i e).setStat i code).post .localRefill) := by
      show execBind s = _
      simp only [execBind, ha, bindWith_refused (bindRefused_writeEntry.trans hb)]
    obtain rfl := Host.Outcome.next.inj (ht.symm.trans hx)
    obtain ⟨e', c, n, hs⟩ := refused_slot (s := s) (i := i) (e := e) (code := code)
    rw [hs]
    exact ⟨rfl, rfl, rfl, rfl, rfl, SameRegs.of_files rfl rfl rfl rfl rfl, bindRefused_code hb⟩

end
end

section
/-!
The device's actions on tows (R289, R290, R303, R315-R319, R436).
-/

namespace Sys2Proof.Machine

section
variable {s : State} {w : World} {t : BitVec 16} {k : Nat}

/-- A swap that has been decided, with members that can all be suspended, is done. -/
theorem goSwap_done (hm : s.members w t ≠ []) (hb : bitN (s.towNat k 4 4) 5 = false) (ha : s.allSuspend (s.members w t) = true) :
    s.goSwap w t k = s.doSwap w t := by
  simp only [State.goSwap, List.isEmpty_eq_false_iff.mpr hm, hb, Bool.or_self, Bool.false_eq_true, if_false, if_pos ha]

theorem goSwap_later (hm : s.members w t ≠ []) (hb : bitN (s.towNat k 4 4) 5 = false)
    (ha : s.allSuspend (s.members w t) = false) : s.goSwap w t k = s.suspendLater (s.members w t) := by
  simp only [State.goSwap, List.isEmpty_eq_false_iff.mpr hm, hb, Bool.or_self, Bool.false_eq_true, if_false, ha]

/-- The decision of a swap (R318): a tow with a TSW, not swapped and within its budget, whose members all wait, one of them
longer than TSW. -/
theorem swapAct_decides (hs : s.swapping.contains (w, t) = false) (ht : t ≠ 0) (hn : s.towNat k 0x30 8 ≠ 0)
    (h4 : bitN (s.towNat k 4 4) 4 = false) (h5 : bitN (s.towNat k 4 4) 5 = false) (hd : s.swapDue (s.members w t) = true)
    (hr : s.swapRoom (s.members w t) = true) : s.swapAct w t k = (s.decideSwap w t k).goSwap w t k := by
  simp only [State.swapAct, hs, Bool.false_eq_true, if_false, decide_eq_false ht, beq_false_of_ne hn, h4, h5, Bool.or_self, hd, hr,
    Bool.and_self, if_true]

theorem swapAct_decided (hs : s.swapping.contains (w, t) = true) : s.swapAct w t k = s.goSwap w t k := by
  simp only [State.swapAct, if_pos hs]

/-- The act of a tow whose descriptor can be reached and which no action stands before. -/
theorem towSwap_acts {m : Nat} (ha : s.act = some (.towSwap w t)) (ht : s.towTr w t = .ok k m) (hd : s.dupBusy m k 256 = false)
    (hh : s.actsHeld w t = false) : exec .towSwap s = .next (s.swapAct w t k) := by
  show execTowSwap s = _
  simp only [execTowSwap, ha, hh, Bool.false_eq_true, if_false, ht, hd]

/-- The semaphore of an await entry after its threshold has been taken at once. -/
def State.awaitTaken (s : State) (e : AwaitEntry) : State :=
  let v := (s.sem[e.obj % 256]'(Nat.mod_lt _ (by decide))).toNat
  { s with sem := s.sem.set (e.obj % 256) (BitVec.ofNat 16 (v - e.thr)) (Nat.mod_lt _ (by decide)) }

theorem awaitTaken_semVal (e : AwaitEntry) :
    (s.awaitTaken e).semVal (BitVec.ofNat 8 e.obj) = s.semVal (BitVec.ofNat 8 e.obj) - e.thr := by
  have hi : (BitVec.ofNat 8 e.obj).toNat = e.obj % 256 := BitVec.toNat_ofNat e.obj 8
  simp only [State.semVal, State.awaitTaken, hi, Vector.getElem_set_self, BitVec.toNat_ofNat]
  exact Nat.mod_eq_of_lt (Nat.lt_of_le_of_lt (Nat.sub_le _ _) (BitVec.isLt _))

end

end Sys2Proof.Machine

section
open Sys2Proof
open Sys2Proof.Machine

/-- Settles O38. -/
theorem towEventsComplete : Obligations.TowEventsComplete := by
  unfold Obligations.TowEventsComplete
  refine fun s => ⟨fun n e ha he hh => ⟨fun hs => ?swap, fun hs hk => ?await, fun hs hk => ?awaitSem⟩,
    fun w t n ha h0 hn => ?charge, fun w t k m ha ht hd h0 => ?budget,
    fun w t k m ha ht hd hh => ⟨fun hs h0 hn h4 h5 hm hw hl hr => ?decide, fun hs hm h5 => ⟨fun hx => ?done, fun hx => ?later⟩⟩,
    fun w t k m mine u ha hm hne ht hd hu v hv => ⟨fun h5 => ?back, fun h5 => ?hold⟩,
    fun w t l k m ha hl hh ht hq => ?launch, fun p u f v c is ha his hc => ⟨fun hp => ?pending, fun hp => ?window⟩,
    fun ha => ?held⟩
  case swap =>
    show execAwaitConditionHolds s = _
    simp only [execAwaitConditionHolds, ha, he, hh, Bool.not_true, Bool.false_eq_true, if_false, if_pos hs]
  case await =>
    show execAwaitConditionHolds s = _
    simp only [execAwaitConditionHolds, ha, he, hh, Bool.not_true, Bool.false_eq_true, if_false, hs, beq_iff_eq, if_neg hk]
  case awaitSem =>
    refine ⟨s.awaitTaken e, ?_, awaitTaken_semVal e, rfl, rfl⟩
    show execAwaitConditionHolds s = _
    simp only [execAwaitConditionHolds, ha, he, hh, Bool.not_true, Bool.false_eq_true, if_false, hs, beq_iff_eq, if_pos hk,
      State.awaitTaken]
  case charge =>
    show execBudgetCharge s = _
    simp only [execBudgetCharge, ha, if_neg (Nat.not_lt.mpr hn), if_pos h0]
  case budget =>
    show execBudgetCharge s = _
    simp only [execBudgetCharge, ha, if_neg (Nat.not_lt_zero 1024), if_neg (Nat.lt_irrefl 0), if_neg h0, ht, hd,
      Bool.false_eq_true, if_false]
  case decide =>
    rw [towSwap_acts ha ht hd hh, swapAct_decides hs h0 hn h4 h5 ?_ hr]
    simp only [State.swapDue, List.isEmpty_eq_false_iff.mpr hm, hw, hl, Bool.not_false, Bool.and_self]
  case done => rw [towSwap_acts ha ht hd hh, swapAct_decided hs, goSwap_done hm h5 hx]
  case later => rw [towSwap_acts ha ht hd hh, swapAct_decided hs, goSwap_later hm h5 hx]
  case back =>
    subst hm
    show execTowReturn s = _
    simp only [execTowReturn, ha, List.isEmpty_eq_false_iff.mpr hne, ht, hd, Bool.false_eq_true, if_false, ← hu, ← hv, h5]
  case hold =>
    subst hm
    show execTowReturn s = _
    simp only [execTowReturn, ha, List.isEmpty_eq_false_iff.mpr hne, ht, hd, Bool.false_eq_true, if_false, ← hu, ← hv, h5, if_true]
  case launch =>
    show execLaunchCompletion s = _
    simp only [execLaunchCompletion, ha, hl, hh, ht, Bool.false_eq_true, if_false, if_pos hq]
  case pending =>
    subst his
    show execCoalescingWindowEnd s = _
    simp only [execCoalescingWindowEnd, ha, hc, if_pos hp]
  case window =>
    subst his
    show execCoalescingWindowEnd s = _
    simp only [execCoalescingWindowEnd, ha, hc, hp, Bool.false_eq_true, if_false]
  case held =>
    show execTowDescriptorActionHeld s = _
    simp only [execTowDescriptorActionHeld, ha]

end
end

section
/-!
The events of pages, side logs, DUP copies, other agents' stores, the copy engine and the image engine (R220, R247, R251,
R268-R274, R350-R352).
-/

namespace Sys2Proof.Machine

section
variable {s : State} {e : ExpOp} {m : Bool}

/-- An act of the image engine on an operation that has not ended. -/
theorem expAct_runs {f : ExpOp → State} (he : s.cl.exp = some e) (hc : e.code = 0) : s.expAct f = f e := by
  simp only [State.expAct, he, if_pos hc]

theorem doExport_fenced (h : s.portUp e.port = false) : s.doExport e = s.expEnd 5 := by
  simp only [State.doExport, h, Bool.not_false, if_true]

theorem doImport_fenced (h : s.portUp e.port = false) : s.doImport e m = s.expEnd 5 := by
  simp only [State.doImport, h, Bool.not_false, if_true]

theorem doImport_first (h : s.portUp e.port = true) (hp : e.passed = none) : s.doImport e m = s.importCheck e m := by
  simp only [State.doImport, h, hp, Bool.not_true, Bool.false_eq_true, if_false]

/-- A line whose MAC does not match fails the whole image. -/
theorem lines_bad {gen ctr ix : Nat} (hi : ix < e.lines) (hb : s.imageLineOk e gen ctr ix = false) :
    (List.range e.lines).all (s.imageLineOk e gen ctr) = false :=
  List.all_eq_false.mpr ⟨ix, List.mem_range.mpr hi, ne_true_of_eq_false hb⟩

theorem importWrite_bad {ctr ix : Nat} (hi : ix < e.lines) (hb : s.imageLineOk e (s.wst e.world).kcGen ctr ix = false) :
    s.importWrite e m ctr = (s.zeroRegion e).expEnd 4 := by
  simp only [State.importWrite, lines_bad hi hb, Bool.not_false, if_true]

/-- The header of the image is the one of R350. -/
def State.headOk (s : State) (e : ExpOp) : Bool :=
  !(s.nat (e.at 0) 4 != 0x4C583943 || s.nat (e.at 4) 2 != 1 || s.nat (e.at 6) 2 != e.world.val || s.nat (e.at 16) 8 != e.lines)

theorem headOk_iff : s.headOk e = true ↔
    s.nat (e.at 0) 4 = 0x4C583943 ∧ s.nat (e.at 4) 2 = 1 ∧ s.nat (e.at 6) 2 = e.world.val ∧ s.nat (e.at 16) 8 = e.lines := by
  simp only [State.headOk, Bool.not_eq_true', Bool.or_eq_false_iff, bne_eq_false_iff_eq, and_assoc]

theorem importCheck_head (h : s.headOk e = false) : s.importCheck e m = s.expEnd 7 :=
  if_pos ((Bool.not_eq_false' _).mp h)

theorem importCheck_counter (h : s.headOk e = true) (hm : m = false) (hc : s.nat (e.at 8) 8 < (s.wst e.world).sctr.toNat) :
    s.importCheck e m = s.expEnd 3 := by
  refine (if_neg (ne_true_of_eq_false ((Bool.not_eq_true' _).mp h))).trans (if_pos ?_)
  rw [hm, decide_eq_true hc]
  rfl

theorem importCheck_line {ix : Nat} (h : s.headOk e = true) (hm : m = true ∨ (s.wst e.world).sctr.toNat ≤ s.nat (e.at 8) 8)
    (hi : ix < e.lines) (hb : s.imageLineOk e (s.wst e.world).kcGen (s.nat (e.at 8) 8) ix = false) :
    s.importCheck e m = s.expEnd 4 := by
  refine (if_neg (ne_true_of_eq_false ((Bool.not_eq_true' _).mp h))).trans ((if_neg ?_).trans (if_pos ?_))
  · rcases hm with hm | hm
    · rw [hm]; exact Bool.false_ne_true
    · rw [decide_eq_false (Nat.not_lt.mpr hm), Bool.and_false]; exact Bool.false_ne_true
  · rw [lines_bad hi hb]; rfl

end

end Sys2Proof.Machine

section
open Sys2Proof
open Sys2Proof.Machine

/-- Settles O39. -/
theorem pageEventsComplete : Obligations.PageEventsComplete := by
  unfold Obligations.PageEventsComplete
  refine fun s => ⟨fun w va mine u hm hu => ⟨fun ha => ?mapped, fun q is ha his hne => ?refused⟩, fun w va ha => ?invalidate,
    fun ha => ?replays, fun l d ha hd => ?applied, fun l ha => ?ack,
    fun c g data full ok ha hl => ⟨fun hk ho => ?sealFails, fun hk hd hq => ?store⟩, fun die ha => ?rescan,
    fun is ha hc his => ?copy⟩
  case mapped =>
    subst hm hu
    show execPageRequestMapped s = _
    simp only [execPageRequestMapped, ha]
  case refused =>
    subst his
    show execPageRequestRefusal s = _
    simp only [execPageRequestRefusal, ha, List.isEmpty_eq_false_iff.mpr hne, Bool.false_eq_true, if_false]
  case invalidate =>
    show execTranslationInvalidate s = _
    simp only [execTranslationInvalidate, ha]
  case replays =>
    show execSideLogAdmit s = _
    simp only [execSideLogAdmit, ha]
  case applied =>
    show execInvalidationApplied s = _
    simp only [execInvalidationApplied, ha, if_pos hd]
  case ack =>
    show execDupInvalidationAck s = _
    simp only [execDupInvalidationAck, ha]
  case sealFails =>
    show execStorePerformed s = _
    simp only [execStorePerformed, ha, if_neg (Nat.not_lt.mpr hl), hk, ho, Bool.not_false, Bool.and_self, if_true]
    rfl
  case store =>
    have hok : (keyIsCl (16 * g) && !ok) = false := by
      rcases hk with h | h <;> rw [h]
      · rfl
      · exact Bool.and_false _
    show execStorePerformed s = _
    simp only [execStorePerformed, ha, if_neg (Nat.not_lt.mpr hl), hok, hd, hq, Bool.or_self, Bool.false_eq_true, if_false]
  case rescan =>
    show execCounterTableRescan s = _
    simp only [execCounterTableRescan, ha]
  case copy =>
    subst his
    show execCopyChunk s = _
    simp only [execCopyChunk, ha, hc, Bool.false_eq_true, if_false]

/-- Settles O40. -/
theorem imagesAreCheckedFirst : Obligations.ImagesAreCheckedFirst := by
  unfold Obligations.ImagesAreCheckedFirst
  refine ⟨fun s e he => ⟨fun hc => ⟨fun ha => ?exporting, fun ha => ?importing, fun ha => ?migration⟩, fun hc ha => ?complete⟩,
    fun s e m => ⟨fun hp => ⟨doExport_fenced hp, doImport_fenced hp⟩, fun ctr hp hps ix hi hb => ?second,
      fun hp hps => ⟨fun hh => ?head, fun h0 h4 h6 h16 => ?checks⟩, fun n => ⟨rfl, rfl⟩⟩⟩
  case exporting =>
    show execExportImage s = _
    simp only [execExportImage, ha, expAct_runs he hc]
  case importing =>
    show execImportImage s = _
    simp only [execImportImage, ha, expAct_runs he hc]
  case migration =>
    show execMigrationImport s = _
    simp only [execMigrationImport, ha, expAct_runs he hc]
  case complete =>
    show execExportImportComplete s = _
    simp only [execExportImportComplete, ha, he, if_neg hc]
  case second =>
    simp only [State.doImport, hp, hps, Bool.not_true, Bool.false_eq_true, if_false, importWrite_bad hi hb]
  case head =>
    rw [doImport_first hp hps]
    refine importCheck_head (Bool.eq_false_iff.mpr fun hk => ?_)
    obtain ⟨k0, k4, k6, k16⟩ := headOk_iff.mp hk
    rcases hh with h | h | h | h
    exacts [h k0, h k4, h k6, h k16]
  case checks =>
    have hk := headOk_iff.mpr ⟨h0, h4, h6, h16⟩
    rw [doImport_first hp hps]
    exact ⟨fun hm hc => importCheck_counter hk hm hc, fun hm ix hi hb => importCheck_line hk hm hi hb⟩

end
end

section
/-!
Accesses of a host (R254, R354, R387, R388, R397-R399, R432): what a read of BAR 2 and of the counters answers, and what the other
accesses do.
-/

namespace Sys2Proof.Machine

theorem leNat_leBytes (n v : Nat) : leNat (leBytes n v) = v % 256 ^ n := by
  induction n generalizing v with
  | zero => rw [Nat.pow_zero, Nat.mod_one]; rfl
  | succ n ih =>
    show (BitVec.ofNat 8 v).toNat + 256 * leNat (leBytes n (v / 256)) = _
    rw [ih, BitVec.toNat_ofNat, show 256 ^ (n + 1) = 256 * 256 ^ n from Nat.pow_succ']
    exact (Nat.mod_mul (a := 256)).symm

/-- A dword is read back from its bytes. -/
theorem leNat_dword (v : Word) : leNat (leBytes 8 v.toNat) = v.toNat := by
  rw [leNat_leBytes]
  exact Nat.mod_eq_of_lt v.isLt

theorem leNat_zeros (n : Nat) : leNat (List.replicate n 0) = 0 := by
  induction n with
  | zero => rfl
  | succ n ih =>
    show (0 : Byte).toNat + 256 * leNat (List.replicate n 0) = 0
    rw [ih]; rfl

/-- What the accesses of a host that answer leave as it was: memory and the messages that have gone out. -/
def State.HostKept (s t : State) : Prop := t.mem = s.mem ∧ t.hostOut = s.hostOut

section
variable {s t u : State} {w : World} {p : HostPort}

theorem State.HostKept.trans (h : s.HostKept t) (k : t.HostKept u) : s.HostKept u := ⟨k.1.trans h.1, k.2.trans h.2⟩

theorem auditSealed_hostKept {cuts : List (Nat × Nat)} : s.HostKept (s.auditSealed w p cuts) := by
  unfold State.auditSealed
  split <;> exact ⟨rfl, rfl⟩

theorem countPage_hostKept {q : Fin 128} {page : Nat} : s.HostKept (s.countPage w q page) := by
  unfold State.countPage State.tierPost
  dsimp only
  split
  · split <;> exact ⟨rfl, rfl⟩
  · exact ⟨rfl, rfl⟩

theorem sawError_hostKept {f : Fail} : s.HostKept (s.sawError w f) := by
  unfold State.sawError
  split <;> exact ⟨rfl, rfl⟩

theorem outsideSees_hostKept {key va n : Nat} : s.HostKept (s.outsideSees w key va n) := by
  have hc : s.HostKept (s.outsideCounts w key va) := by
    unfold State.outsideCounts
    split
    · exact countPage_hostKept
    · exact ⟨rfl, rfl⟩
  unfold State.outsideSees
  dsimp only
  split
  · exact hc.trans sawError_hostKept
  · exact hc

theorem outsideGet_hostKept {va n : Nat} : s.HostKept (s.outsideGet w va n).2 := by
  unfold State.outsideGet
  split
  · split
    · exact ⟨rfl, rfl⟩
    · exact outsideSees_hostKept
  · exact ⟨rfl, rfl⟩

theorem outsideGets_hostKept {cuts : List (Nat × Nat)} : s.HostKept (s.outsideGets w cuts).2 := by
  induction cuts generalizing s with
  | nil => exact ⟨rfl, rfl⟩
  | cons c cs ih => exact outsideGet_hostKept.trans ih

/-- A read of BAR 2 answers its bytes in the order of its port. -/
theorem hostRead {off n : Nat} {cuts : List (Nat × Nat)} (ha : s.act = some (.hostBar2Read p w off n)) (hin : inBar2 off n = true)
    (hp : s.portBehind p = false) (hc : cuts = outsideCuts ((s.wst w).hbase.toNat + off) n) :
    ∃ t, exec .hostBar2Read s = .next t ∧
      t.hostOut = s.hostOut ++ [.readReply p w ((s.auditSealed w p cuts).outsideGets w cuts).1] ∧ t.mem = s.mem := by
  subst hc
  generalize hr : (s.auditSealed w p (outsideCuts ((s.wst w).hbase.toNat + off) n)).outsideGets w
    (outsideCuts ((s.wst w).hbase.toNat + off) n) = r
  obtain ⟨hm, ho⟩ : s.HostKept r.2 := hr ▸ auditSealed_hostKept.trans outsideGets_hostKept
  have hx : exec .hostBar2Read s = .next { r.2 with hostOut := r.2.hostOut ++ [.readReply p w r.1] } := by
    show execHostBar2Read s = _
    simp only [execHostBar2Read, ha, hin, hp, Bool.not_true, Bool.false_eq_true, if_false, hr]
  exact ⟨_, hx, congrArg (· ++ [.readReply p w r.1]) ho, hm⟩

/-! ### The dwords of BAR 0 (R354, R387, R433) -/

theorem bar0Words_hostKept {off n : Nat} : s.HostKept (s.bar0Words w off n).2 := by
  induction n generalizing s off with
  | zero => exact ⟨rfl, rfl⟩
  | succ n ih =>
    unfold State.bar0Words
    dsimp only
    split
    · exact ih
    · exact State.HostKept.trans (t := s.takeFree.2) ⟨rfl, rfl⟩ ih

theorem bar0Words_length {off n : Nat} : (s.bar0Words w off n).1.length = 8 * n := by
  induction n generalizing s off with
  | zero => rfl
  | succ n ih =>
    unfold State.bar0Words
    dsimp only
    rw [List.length_append, leBytes_length, ih, Nat.mul_succ, Nat.add_comm]

/-- Dwords of the aperture read as zero. -/
theorem bar0Words_aperture {off n : Nat} (h : n ≠ 0 → off + 8 * n ≤ 0x4000 + 7) :
    (s.bar0Words w off n).1 = List.replicate (8 * n) 0 := by
  induction n generalizing s off with
  | zero => rfl
  | succ n ih =>
    have hb := h (Nat.succ_ne_zero n)
    have h0 : s.bar0Word w off = some 0 := if_pos (by omega)
    unfold State.bar0Words
    dsimp only
    rw [h0, ih fun hn => by omega, Nat.mul_succ, Nat.add_comm (8 * n) 8, List.replicate_add]
    exact congrArg (· ++ _) (show leBytes 8 0 = List.replicate 8 0 by decide)

/-- One dword at its own offset. -/
theorem bar0Words_one {off : Nat} {v : Word} (h : s.bar0Word w off = some v) : (s.bar0Words w off 1).1 = leBytes 8 v.toNat := by
  unfold State.bar0Words
  dsimp only
  rw [h]
  exact List.append_nil _

theorem auditGroups_hostKept {off n : Nat} : s.HostKept (s.auditGroups p w off n) := by
  unfold State.auditGroups
  split <;> exact ⟨rfl, rfl⟩

/-- The record of a read of a group outside ALLOW changes no dword. -/
theorem auditGroups_bar0Word {off n a : Nat} : (s.auditGroups p w off n).bar0Word w a = s.bar0Word w a := by
  unfold State.auditGroups
  split <;> rfl

/-- The groups of counters stand above every register of BAR 0. -/
theorem bar0Word_group {off g : Nat} (hg : g < 64) (h : off / 0x1000 = 0x100 + g) : s.bar0Word w off =
    if (s.wst w).allow[g]?.getD false then s.groupWord g ((off - 0x100000) % 0x1000 / 8) else some 0 := by
  have hat : groupAt off = some g := by
    unfold groupAt
    rw [decide_eq_true (show 0x100000 ≤ off by omega), decide_eq_true (show off < 0x140000 by omega)]
    exact congrArg some (by omega)
  unfold State.bar0Word
  dsimp only
  rw [if_neg (by omega), if_neg (by omega), beq_false_of_ne (by omega), beq_false_of_ne (by omega), beq_false_of_ne (by omega),
    beq_false_of_ne (by omega), beq_false_of_ne (by omega), decide_eq_false (show ¬ off < 0x8400 by omega),
    beq_false_of_ne (by omega), hat, Bool.and_false]
  rfl

/-- The groups above 61 hold nothing. -/
theorem groupWord_high {g k : Nat} (hg : 62 ≤ g) : s.groupWord g k = some 0 := by
  have hb : groupBank g (k / 2) = none := by
    unfold groupBank
    rw [decide_eq_false (show ¬ g < 8 by omega), decide_eq_false (show ¬ g < 40 by omega), decide_eq_false (show ¬ g < 56 by omega)]
    simp only [Bool.and_false, Bool.false_and, Bool.false_eq_true, if_false]
  unfold State.groupWord
  rw [hb]
  dsimp only
  rw [if_neg (by omega), decide_eq_false (show ¬ g < 60 by omega), beq_false_of_ne (show g ≠ 60 by omega),
    beq_false_of_ne (show g ≠ 61 by omega)]
  simp only [Bool.and_false, Bool.false_and, Bool.or_self, Bool.false_eq_true, if_false]

/-- THROT stands at dword 24 of its die's group. -/
theorem groupWord_throt {g : Nat} (hg : g < 4) : s.groupWord g 24 = some s.throt[Fin.ofNat 4 g] := by
  have hb : groupBank g 12 = none := by
    unfold groupBank
    rw [decide_eq_false (show ¬ 4 ≤ g by omega), decide_eq_false (show ¬ 8 ≤ g by omega), decide_eq_false (show ¬ 40 ≤ g by omega)]
    rfl
  unfold State.groupWord
  rw [show (24 : Nat) / 2 = 12 from rfl, hb]
  exact if_pos hg

/-- The dwords that a read of the counters covers, after its record. -/
def State.counterWords (s : State) (p : HostPort) (w : World) (off len : Nat) : List Byte × State :=
  let a := off / 8 * 8
  let n := (off + len - a + 7) / 8
  (s.auditGroups p w a n).bar0Words w a n

/-- The bytes that a read of the counters answers. -/
def State.counterBytes (s : State) (p : HostPort) (w : World) (off len : Nat) : List Byte :=
  ((s.counterWords p w off len).1.drop (off - off / 8 * 8)).take len

/-- A read of the counters answers in the order of its port. -/
theorem counterRead {off len : Nat} (ha : s.act = some (.counterGroupRead p w off len)) (hl : 0 < len) (hb : off + len ≤ 2 ^ 21)
    (hp : s.portBehind p = false) : ∃ t, exec .counterGroupRead s = .next t ∧ t.mem = s.mem ∧
      t.hostOut = s.hostOut ++ [.readReply p w (some (s.counterBytes p w off len))] := by
  have hk : s.HostKept (s.counterWords p w off len).2 := auditGroups_hostKept.trans bar0Words_hostKept
  obtain ⟨hm, ho⟩ := hk
  have hx : exec .counterGroupRead s = .next { (s.counterWords p w off len).2 with
      hostOut := (s.counterWords p w off len).2.hostOut ++ [.readReply p w (some (s.counterBytes p w off len))] } := by
    show execCounterGroupRead s = _
    simp only [execCounterGroupRead, ha, if_neg (not_or.mpr ⟨Nat.pos_iff_ne_zero.mp hl, Nat.not_lt.mpr hb⟩), hp,
      Bool.false_eq_true, if_false]
    rfl
  exact ⟨_, hx, hm, congrArg (· ++ [.readReply p w (some (s.counterBytes p w off len))]) ho⟩

theorem counterBytes_length {off len : Nat} : (s.counterBytes p w off len).length = len := by
  simp only [State.counterBytes, State.counterWords, List.length_take, List.length_drop, bar0Words_length]
  omega

theorem counterBytes_aperture {off len : Nat} (h : off + len ≤ 0x4000) : leNat (s.counterBytes p w off len) = 0 := by
  simp only [State.counterBytes, State.counterWords]
  rw [bar0Words_aperture fun _ => by omega, List.drop_replicate, List.take_replicate, leNat_zeros]

/-- A read of one dword answers it. -/
theorem counterBytes_dword {off : Nat} {v : Word} (h8 : off % 8 = 0) (h : s.bar0Word w off = some v) :
    leNat (s.counterBytes p w off 8) = v.toNat := by
  have ha : off / 8 * 8 = off := by omega
  have hn : (off + 8 - off + 7) / 8 = 1 := by omega
  simp only [State.counterBytes, State.counterWords]
  rw [ha, hn, bar0Words_one (auditGroups_bar0Word.trans h), Nat.sub_self, List.drop_zero,
    List.take_of_length_le (Nat.le_of_eq (leBytes_length 8 _)), leNat_dword]

end

end Sys2Proof.Machine

section
open Sys2Proof
open Sys2Proof.Machine

/-- Settles O41. -/
theorem hostAccessesComplete : Obligations.HostAccessesComplete := by
  unfold Obligations.HostAccessesComplete
  refine fun s => ⟨fun p fn off n cuts ha hin hp hc => ?read, fun p fn off data ro cuts t ha hin hf hp hc ht => ?write,
    fun p fn off len ha hl hb hp => ?counters, fun p fn off data ha hf hw => ⟨fun h1 h2 => ?readOnly, fun h1 h2 => ?msix⟩,
    fun p => ⟨fun ha => ?take, fun ha => ?release⟩, fun reg w u v ha => ?mgmtWrite, fun reg w u v ha hv => ?mgmtRead,
    fun i c k u ha hc ht hu hk => ?timeout⟩
  case read => exact hostRead ha hin hp hc
  case write =>
    subst hc
    have hp' : (!ro && s.portWaits p) = false := by
      rcases hp with h | h <;> rw [h]
      · rfl
      · exact Bool.and_false _
    show execHostBar2Write s = _
    simp only [execHostBar2Write, ha, hin, hf, hp', Bool.not_true, Bool.or_self, Bool.false_eq_true, if_false, ht]
  case counters =>
    obtain ⟨t, hx, hm, ho⟩ := counterRead ha hl hb hp
    refine ⟨t, _, hx, ho, counterBytes_length, hm, counterBytes_aperture, fun h8 h1 => ?_⟩
    · subst h1
      refine ⟨fun h => counterBytes_dword h8 ?_, fun h => (counterBytes_dword (v := (s.wst fn).enqlost.setWidth 64) h8 ?_).trans ?_,
        fun h => counterBytes_dword h8 ?_, fun h => counterBytes_dword h8 ?_, fun g hg hog => ⟨fun h => counterBytes_dword (v := 0) h8 ?_, fun h h4 hk => ?_⟩⟩
      · subst h; rfl
      · subst h; rfl
      · exact BitVec.toNat_setWidth_of_le (by decide)
      · subst h; rfl
      · subst h; rfl
      · rw [bar0Word_group hg hog]
        rcases h with h | h
        · rw [BitVec.getLsbD_eq_getElem?_getD] at h
          rw [h]; rfl
        · rw [groupWord_high h]
          exact ite_self _
      · refine counterBytes_dword h8 ?_
        rw [BitVec.getLsbD_eq_getElem?_getD] at h
        rw [bar0Word_group hg hog, h, if_pos rfl, show (off - 0x100000) % 0x1000 / 8 = 24 by omega, groupWord_throt h4]
  case readOnly =>
    show execEnqueueApertureWrite s = _
    simp only [execEnqueueApertureWrite, ha, hf, hw, Bool.false_eq_true, if_false, State.bar0Write]
    rw [if_neg (by omega), if_neg (by omega), if_neg (by omega), if_neg (by omega)]
  case msix =>
    show execEnqueueApertureWrite s = _
    simp only [execEnqueueApertureWrite, ha, hf, hw, Bool.false_eq_true, if_false, State.bar0Write]
    rw [if_neg (by omega), if_neg (by omega), if_neg (by omega), if_pos ⟨h1, h2⟩]
  case take =>
    show execPsemTake s = .next (s.psemTake p)
    simp only [execPsemTake, ha]
  case release =>
    show execPsemRelease s = .next (s.psemRelease p)
    simp only [execPsemRelease, ha]
  case mgmtWrite =>
    show execMgmtRegisterWrite s = _
    simp only [execMgmtRegisterWrite, ha]
  case mgmtRead =>
    show execMgmtRegisterWrite s = _
    simp only [execMgmtRegisterWrite, ha, State.mgmtReads, hv]
  case timeout =>
    rw [ha] at hu
    show execCwinTimeout s = _
    simp only [execCwinTimeout, ha, hc, ht, Bool.not_true, Bool.false_eq_true, if_false, ← hu, hk]

end
end

section
/-!
What a write of memory leaves in the state: every write changes cells, tags and what watches them, and in the slots their monitors.
-/

namespace Sys2Proof.Machine

/-- `b` is `a` but for its monitors. -/
def SlotSees (a b : Slot) : Prop := b = { a with mons := b.mons }

theorem SlotSees.refl (a : Slot) : SlotSees a a := rfl
theorem SlotSees.trans {a b c : Slot} (h : SlotSees a b) (k : SlotSees b c) : SlotSees a c :=
  Eq.trans k (congrArg (fun v : Slot => { v with mons := c.mons }) h)
theorem SlotSees.regs {a b : Slot} (h : SlotSees a b) : SameRegs b a := by
  rw [SlotSees] at h; rw [h]; exact .of_files rfl rfl rfl rfl rfl
theorem SlotSees.specials {a b : Slot} (h : SlotSees a b) : SameSpecials b a := by
  rw [SlotSees] at h; rw [h]; exact ⟨rfl, rfl, rfl, rfl, rfl, rfl, rfl, rfl, rfl⟩

/-- `t` is `s` but for memory, what watches it, what seals it and what is in error. -/
structure OnlyWrites (s t : State) : Prop where
  state : t = { s with slots := t.slots, mem := t.mem, tags := t.tags, seals := t.seals, agenda := t.agenda,
                       quayMons := t.quayMons, cl := t.cl, badLines := t.badLines, blList := t.blList, badGrans := t.badGrans,
                       notices := t.notices }
  slots : AllSlots SlotSees s t

section
variable {s t u : State}

theorem OnlyWrites.refl (s : State) : OnlyWrites s s := ⟨rfl, rfl, fun _ => rfl⟩
theorem OnlyWrites.trans (h : OnlyWrites s t) (k : OnlyWrites t u) : OnlyWrites s u :=
  ⟨Eq.trans k.state (congrArg (fun v : State =>
    { v with slots := u.slots, mem := u.mem, tags := u.tags, seals := u.seals, agenda := u.agenda, quayMons := u.quayMons,
             cl := u.cl, badLines := u.badLines, blList := u.blList, badGrans := u.badGrans, notices := u.notices }) h.state),
    k.slots.1.trans h.slots.1, fun i => (h.slots.2 i).trans (k.slots.2 i)⟩
/-- A change of fields of memory alone. -/
theorem OnlyWrites.of_eq (e : t = { s with mem := t.mem, tags := t.tags, seals := t.seals, badLines := t.badLines,
                                           blList := t.blList, badGrans := t.badGrans, notices := t.notices }) :
    OnlyWrites s t := by
  rw [e]
  exact ⟨rfl, rfl, fun _ => rfl⟩
/-- A change of what watches memory beside the slots. -/
theorem OnlyWrites.of_watch (e : t = { s with agenda := t.agenda, quayMons := t.quayMons, cl := t.cl }) : OnlyWrites s t := by
  rw [e]
  exact ⟨rfl, rfl, fun _ => rfl⟩
theorem OnlyWrites.foldl {α : Type} {f : State → α → State} (hf : ∀ s a, OnlyWrites s (f s a)) (l : List α) (s : State) :
    OnlyWrites s (l.foldl f s) := by
  induction l generalizing s with
  | nil => exact .refl s
  | cons a l ih => exact (hf s a).trans (ih _)
theorem OnlyWrites.worlds (h : OnlyWrites s t) : t.worlds = s.worlds := by rw [h.state]
theorem OnlyWrites.regs (h : OnlyWrites s t) (i : SlotId) : SameRegs (t.slot i) (s.slot i) := (h.slots.2 i).regs

theorem trigSlots_writes (e : Seen) (is : List SlotId) (s : State) : OnlyWrites s (s.trigSlots e is) := by
  induction is generalizing s with
  | nil => exact .refl s
  | cons i is ih =>
    have hs : OnlyWrites s (s.modSlot i fun sl => { sl with mons := s.trigMons i e }) := ⟨rfl, modSlot_all .refl s i _ rfl⟩
    unfold State.trigSlots
    dsimp only
    refine OnlyWrites.trans ?_ (ih _)
    split
    · exact .refl s
    · split
      · refine hs.trans ?_
        exact .of_watch rfl
      · exact hs

theorem trigger_writes (s : State) (k n : Nat) : OnlyWrites s (s.trigger k n) := by
  refine (trigSlots_writes (.mem k n) allSlots s).trans ?_
  unfold State.trigger State.triggerBy
  dsimp only
  refine .of_watch ?_
  rw [trigTows_eq]

theorem repair_writes (s : State) (k n : Nat) : OnlyWrites s (s.repair k n) := by
  unfold State.repair State.unlistLine
  generalize List.replicate 128 (0 : Byte) = y
  generalize List.replicate 16 (0 : Byte) = z
  refine OnlyWrites.trans (OnlyWrites.foldl (fun s l => ?_) _ s) (OnlyWrites.foldl (fun s l => ?_) _ _) <;> exact .of_eq rfl

theorem writeBytes_writes (s : State) (k : Nat) (bs : List Byte) : OnlyWrites s (s.writeBytes k bs) := by
  unfold State.writeBytes
  split
  · exact .refl s
  · refine (repair_writes s k bs.length).trans ?_
    generalize s.repair k bs.length = u
    refine OnlyWrites.trans ?_ (trigger_writes _ k bs.length)
    exact .of_eq rfl

theorem writeGran_writes (s : State) (k : Nat) (c : Cap) : OnlyWrites s (s.writeGran k c) := by
  have hw := writeBytes_writes s k (leBytes 16 c.bits.toNat)
  unfold State.writeGran
  generalize s.writeBytes k (leBytes 16 c.bits.toNat) = u at hw ⊢
  dsimp only
  split
  · exact hw
  · refine hw.trans ?_
    exact .of_eq rfl

end

end Sys2Proof.Machine
end

section
/-!
The mailbox (R389, R390) and the commands of the physical function (R343, R352, R388, R390, R393-R395).
-/

namespace Sys2Proof.Machine

section
variable {s t : State} {m : MbCmd} {fn w : World} {p : HostPort} {code n : Nat}

/-! ### Worlds -/

theorem modWorld_wst_other {v : World} {g : WorldSt → WorldSt} (h : w ≠ v) : (s.modWorld v g).wst w = s.wst w :=
  Vector.getElem_set_ne v.isLt w.isLt fun e => h (Fin.ext e.symm)

/-- A change of a world leaves, in every world, what it leaves in each. -/
theorem modWorld_keeps {α : Type} {v : World} {g : WorldSt → WorldSt} (f : WorldSt → α) (h : ∀ x, f (g x) = f x) (w : World) :
    f ((s.modWorld v g).wst w) = f (s.wst w) := by
  by_cases e : w = v
  · subst e; rw [modWorld_wst, h]
  · rw [modWorld_wst_other e]

/-- The measurements follow from what worlds exist and what their loaders are. -/
theorem loaders_congr {ws xs : List WorldSt} (h : ws.map (fun x => (x.created, x.loader)) = xs.map fun x => (x.created, x.loader)) :
    (ws.filter (·.created)).map (·.loader) = (xs.filter (·.created)).map (·.loader) := by
  have key : ∀ l : List WorldSt, (l.filter (·.created)).map (·.loader) =
      ((l.map fun x => (x.created, x.loader)).filter (·.1)).map (·.2) := fun l => by
    rw [List.filter_map, List.map_map]; rfl
  rw [key, key, h]

/-! ### Commands (R389, R390) -/

theorem command_free {f : State → State × Nat} (h : s.mbFree m.fn = true) :
    s.command m code f = (f (s.mbBegin m code)).1.mbEnds m.fn (f (s.mbBegin m code)).2 := by
  simp only [State.command, h, Bool.not_true, Bool.false_eq_true, if_false]

/-- A command of a function that is free runs, and will end with its status. -/
theorem command_ends {f : State → State × Nat} (h : s.mbFree m.fn = true) (hf : f (s.mbBegin m code) = (t, n)) :
    s.command m code f = t.mbEnds m.fn n := by
  rw [command_free h, hf]

theorem exclusive_denied {f : State → State × Nat} (h : s.mbFree m.fn = true) (hn : m.fn ≠ 0) :
    s.exclusive m code f = (s.mbBegin m code).mbEnds m.fn 4 :=
  command_ends h (if_pos hn)

theorem exclusive_noSem {f : State → State × Nat} (h : s.mbFree m.fn = true) (hn : m.fn = 0) (hp : s.psem &&& 3 ≠ portId m.port) :
    s.exclusive m code f = (s.mbBegin m code).mbEnds m.fn 5 :=
  command_ends h ((if_neg (not_not.mpr hn)).trans (if_pos hp))

/-- A command of the physical function under PSEM runs. -/
theorem exclusive_ends {f : State → State × Nat} (hn : m.fn = 0) (h : s.mbFree 0 = true) (hp : s.psem &&& 3 = portId m.port)
    (hf : f (s.mbBegin m code) = (t, n)) : s.exclusive m code f = t.mbEnds 0 n := by
  have hb : s.exclusive m code f = t.mbEnds m.fn n :=
    command_ends (by rw [hn]; exact h) ((if_neg (not_not.mpr hn)).trans ((if_neg (not_not.mpr hp)).trans hf))
  rw [hb, hn]

/-! ### What the beginning and the end of a command leave -/

theorem mbBegin_keeps {α : Type} (f : WorldSt → α) (h : ∀ (x : WorldSt) a b c d,
    f { x with mbcmd := a, mbst := b, mbPort := c, mbargs := d } = f x) (w : World) :
    f ((s.mbBegin m code).wst w) = f (s.wst w) :=
  modWorld_keeps f (fun x => h x ..) w

theorem mbBegin_measurements : (s.mbBegin m code).measurements = s.measurements := by
  have hl : ((s.mbBegin m code).worlds.toList.map fun x => (x.created, x.loader)) =
      s.worlds.toList.map fun x => (x.created, x.loader) := by
    show ((s.worlds.set m.fn _).toList.map _) = _
    rw [Vector.toList_set, List.map_set]
    refine Eq.trans (congrArg (List.set _ _) ?_) (List.set_getElem_self (as := s.worlds.toList.map _) (i := m.fn.val) (by simp))
    simp only [List.getElem_map, Vector.getElem_toList]
    rfl
  show _ :: _ :: _ = _ :: _ :: _
  rw [loaders_congr hl]
  rfl

theorem mbBegin_policyOk {d : Nat} {l : List (BitVec 256)} {pol : Policy} :
    (s.mbBegin m code).policyOk w d l pol = s.policyOk w d l pol := by
  have ht : ((s.mbBegin m code).wst w).tenant = (s.wst w).tenant := mbBegin_keeps (·.tenant) (fun _ _ _ _ _ => rfl) w
  simp only [State.policyOk, ht, mbBegin_measurements]

theorem mbEnds_mbEnd : ((t.mbEnds fn n).wst fn).mbEnd = n := by
  show ((t.modWorld fn fun x => { x with mbEnd := n }).wst fn).mbEnd = n
  rw [modWorld_wst]

theorem mbBegin_mem : (s.mbBegin m code).mem = s.mem := rfl
theorem mbBegin_slots : (s.mbBegin m code).slots = s.slots := rfl
theorem mbEnds_mem : (t.mbEnds fn n).mem = t.mem := rfl
theorem mbEnds_slots : (t.mbEnds fn n).slots = t.slots := rfl
theorem mbEnds_cl : (t.mbEnds fn n).cl = t.cl := rfl
theorem mbEnds_slot (i : SlotId) : (t.mbEnds fn n).slot i = t.slot i := rfl

/-- The end of a command is noted in its function's world alone. -/
theorem mbEnds_wst (w : World) : (t.mbEnds fn n).wst w = { t.wst w with mbEnd := ((t.mbEnds fn n).wst w).mbEnd } := by
  show (t.modWorld fn fun x => { x with mbEnd := n }).wst w =
    { t.wst w with mbEnd := ((t.modWorld fn fun x => { x with mbEnd := n }).wst w).mbEnd }
  by_cases e : w = fn
  · subst e; rw [modWorld_wst]
  · rw [modWorld_wst_other e]

/-- The results of a command are dwords that nothing states. -/
theorem freeBytes_eq : (s.freeBytes n).2 = { s with freeCtr := (s.freeBytes n).2.freeCtr } := by
  induction n generalizing s with
  | zero => rfl
  | succ n ih => exact ih (s := s.takeFree.2)

/-- The results and the status of a command that has ended. -/
def State.mbDone (s : State) (fn : World) : State :=
  let r := s.freeBytes 15
  r.2.modWorld fn fun x => { x with mbst := (x.mbcmd &&& 0xFFFF0000) ||| BitVec.ofNat 64 x.mbEnd, mbres := r.1 }

theorem mbDone_portUp : (s.mbDone fn).portUp p = s.portUp p := by
  unfold State.mbDone
  dsimp only
  rw [freeBytes_eq]
  rfl

theorem mbDone_hostOut : (s.mbDone fn).hostOut = s.hostOut := by
  show (s.freeBytes 15).2.hostOut = _
  rw [freeBytes_eq]

theorem mbDone_mem : (s.mbDone fn).mem = s.mem := by
  show (s.freeBytes 15).2.mem = _
  rw [freeBytes_eq]

theorem mbDone_mbst : ((s.mbDone fn).wst fn).mbst =
    ((s.wst fn).mbcmd &&& 0xFFFF0000) ||| BitVec.ofNat 64 (s.wst fn).mbEnd := by
  have hw : (s.freeBytes 15).2.wst fn = s.wst fn := by
    have hs : (s.freeBytes 15).2.worlds = s.worlds := by rw [freeBytes_eq]
    simp only [State.wst, hs]
  unfold State.mbDone
  dsimp only
  rw [modWorld_wst, hw]

theorem sendHost_msix {v : Nat} (h : t.portUp p = true) :
    t.sendHost p (.msix p fn v) = { t with hostOut := t.hostOut ++ [.msix p fn v] } :=
  if_pos h

/-- The completion of a command that runs reports its status. -/
theorem mailboxCompletion_reports (ha : s.act = some (.mailboxCompletion fn)) (hb : (s.wst fn).mbst.extractLsb' 0 8 = 1)
    (hp : (s.wst fn).mbPort = some p) (hu : s.portUp p = true) : exec .mailboxCompletion s =
      .next { s.mbDone fn with hostOut := (s.mbDone fn).hostOut ++ [.msix p fn 0] } := by
  rw [← sendHost_msix (mbDone_portUp.trans hu)]
  show execMailboxCompletion s = _
  simp only [execMailboxCompletion, ha, hb, bne_self_eq_false, Bool.false_eq_true, if_false, hp, Option.getD_some]
  rfl

end

/-! ### The commands of the physical function (R343, R352, R390, R393-R395) -/

section
variable {s : State} {m : MbCmd} {w : World} {d : Nat} {l : List (BitVec 256)} {pol : Policy} (hm : m.fn = 0)
  (hf : s.mbFree 0 = true) (hs : s.psem &&& 3 = portId m.port)
include hm hf hs

theorem worldCreate_ends {tk : Nat} {ld : BitVec 256} (ha : s.act = some (.worldCreate m w tk ld)) (hw : w ≠ 0)
    (hc : (s.wst w).created = false) : exec .worldCreate s = .next (((((s.mbBegin m 0x10).newKeys w).modWorld w fun x =>
      { x with created := true, tenant := tk, loader := ld }).writeRoots w).mbEnds 0 2) := by
  have hc' : ((s.mbBegin m 0x10).wst w).created = false := (mbBegin_keeps (·.created) (fun _ _ _ _ _ => rfl) w).trans hc
  show execWorldCreate s = _
  simp only [execWorldCreate, ha]
  exact congrArg Host.Outcome.next (exclusive_ends hm hf hs (if_neg (not_or.mpr ⟨hw, ne_true_of_eq_false hc'⟩)))

theorem worldDestroy_ends (ha : s.act = some (.worldDestroy m w)) (hw : w ≠ 0) (hc : (s.wst w).created = true) :
    exec .worldDestroy s = .next ((((s.mbBegin m 0x11).dropKeys w).modWorld w fun x =>
      { x with created := false, tenant := 0, loader := 0 }).mbEnds 0 2) := by
  have hc' : ((s.mbBegin m 0x11).wst w).created = true := (mbBegin_keeps (·.created) (fun _ _ _ _ _ => rfl) w).trans hc
  show execWorldDestroy s = _
  simp only [execWorldDestroy, ha]
  refine congrArg Host.Outcome.next (exclusive_ends hm hf hs (if_neg (not_or.mpr ⟨hw, ?_⟩)))
  rw [hc']
  exact Bool.false_ne_true

/-- A world whose image is exported: its save counter raised, its keys those of the transport. -/
def State.exporting (s : State) (w : World) : State :=
  (s.transportKey w).modWorld w fun x => { x with expBusy := true, sctr := x.sctr + 1 }

/-- The image of a world is begun, and the world is frozen (R352 step 4). -/
def State.frozen (v : State) (w : World) (e : ExpOp) : State :=
  ((({ v with cl := { v.cl with expst := 1, exp := some e } } : State).post .exportImage).modWorld w fun x =>
    { x with wseal := x.wseal ||| 2 }).raiseWsec w 2

theorem migExport_ends (ha : s.act = some (.migExport m w d l pol)) (hk : s.policyOk w d l pol = true)
    (hx : (s.mbBegin m 0x12).expRefused w 1 m.port = 0) : exec .migExport s = .next ((((s.mbBegin m 0x12).exporting w).frozen w
      ⟨1, w, m.port, 0, 0, s.cl.expsrc, s.cl.expdst, 0, none⟩).mbEnds 0 2) := by
  show execMigExport s = _
  simp only [execMigExport, ha]
  refine congrArg Host.Outcome.next (exclusive_ends hm hf hs ((if_neg ?_).trans ?_))
  · rw [mbBegin_policyOk, hk]
    exact Bool.false_ne_true
  · simp only [hx]
    rfl

theorem migExport_denied (ha : s.act = some (.migExport m w d l pol)) (hk : s.policyOk w d l pol = false) :
    exec .migExport s = .next ((s.mbBegin m 0x12).mbEnds 0 4) := by
  show execMigExport s = _
  simp only [execMigExport, ha]
  refine congrArg Host.Outcome.next (exclusive_ends hm hf hs (if_pos ?_))
  rw [mbBegin_policyOk, hk]
  rfl

theorem migImport_ends (ha : s.act = some (.migImport m w d l pol)) (hk : s.policyOk w d l pol = true)
    (hi : (s.mbBegin m 0x13).isProt w = true) (hc : (s.wst w).sctr = 0) :
    exec .migImport s = .next (((s.mbBegin m 0x13).transportKey w).mbEnds 0 2) := by
  have hc' : ((s.mbBegin m 0x13).wst w).sctr = 0 := (mbBegin_keeps (·.sctr) (fun _ _ _ _ _ => rfl) w).trans hc
  show execMigImport s = _
  simp only [execMigImport, ha]
  refine congrArg Host.Outcome.next (exclusive_ends hm hf hs ((if_neg ?_).trans (if_neg ?_)))
  · rw [mbBegin_policyOk, hk]
    exact Bool.false_ne_true
  · rw [hc', hi]
    simp

theorem migImport_denied (ha : s.act = some (.migImport m w d l pol)) (hk : s.policyOk w d l pol = false) :
    exec .migImport s = .next ((s.mbBegin m 0x13).mbEnds 0 4) := by
  show execMigImport s = _
  simp only [execMigImport, ha]
  refine congrArg Host.Outcome.next (exclusive_ends hm hf hs (if_pos ?_))
  rw [mbBegin_policyOk, hk]
  rfl

theorem fwUpdate_ends {iova len : Nat} (ha : s.act = some (.fwUpdate m iova len)) : exec .fwUpdate s =
    .next (({ s.mbBegin m 0x14 with fwImage := some (s.bytes (hostKey m.port iova) len) } : State).mbEnds 0 2) := by
  show execFwUpdate s = _
  simp only [execFwUpdate, ha]
  exact congrArg Host.Outcome.next (exclusive_ends hm hf hs rfl)

theorem routeSet_ends {d : Fin 256} {a b : Fin 12} (ha : s.act = some (.routeSet m d a b)) :
    exec .routeSet s = .next (({ s.mbBegin m 0x15 with routes := s.routes.set d (a, b) } : State).mbEnds 0 2) := by
  show execRouteSet s = _
  simp only [execRouteSet, ha]
  exact congrArg Host.Outcome.next (exclusive_ends hm hf hs rfl)

theorem xwinSet_ends {i : Fin 16} {e : BitVec 256} (ha : s.act = some (.xwinSet m w i e)) (h1 : winBase e % 2 ^ 21 = 0)
    (h2 : winLimit e % 2 ^ 21 = 0) (h3 : e.extractLsb' 204 52 = 0) : exec .xwinSet s =
      .next (((s.mbBegin m 0x16).modWorld w fun x => { x with wins := x.wins.set i e }).pagesChanged.mbEnds 0 2) := by
  show execXwinSet s = _
  simp only [execXwinSet, ha]
  refine congrArg Host.Outcome.next (exclusive_ends hm hf hs (if_neg ?_))
  rw [h1, h2, h3]
  decide

theorem importSet_ends {i : Fin 1024} {sd : BitVec 8} {sw : World} {lo hi : Nat} {pm : BitVec 3}
    (ha : s.act = some (.importSet m i sd sw w lo hi pm)) : exec .importSet s =
      .next (({ s.mbBegin m 0x16 with imports := s.imports.set i (some ⟨sd, sw, w, lo, hi, pm⟩) } : State).mbEnds 0 2) := by
  show execImportSet s = _
  simp only [execImportSet, ha]
  exact congrArg Host.Outcome.next (exclusive_ends hm hf hs rfl)

end

/-! ### What these commands leave -/

section
variable {s t v : State} {m : MbCmd} {w : World} {p : HostPort} {code : Nat} {e : ExpOp}

theorem wst_congr (h : t.worlds = s.worlds) : t.wst w = s.wst w := by simp only [State.wst, h]

theorem writeRoots_writes : OnlyWrites s (s.writeRoots w) := by
  unfold State.writeRoots
  refine OnlyWrites.foldl (fun s i => ?_) _ s
  dsimp only
  split
  · exact .refl s
  · split
    · exact writeGran_writes ..
    · split
      · exact writeGran_writes ..
      · exact .refl s

/-- A world that has been created: its keys are new, its counters 0. -/
theorem created_wst {tk : Nat} {ld : BitVec 256} :
    ((((s.newKeys w).modWorld w fun x => { x with created := true, tenant := tk, loader := ld }).writeRoots w).wst w) =
      { s.wst w with created := true, tenant := tk, loader := ld, keys := true, keyGen := s.keyCtr, kcGen := s.keyCtr + 1,
                     sctr := 0, rctr := 0 } := by
  have hn : (s.newKeys w).wst w =
      { s.wst w with keys := true, keyGen := s.keyCtr, kcGen := s.keyCtr + 1, sctr := 0, rctr := 0 } :=
    modWorld_wst s w fun x => { x with keys := true, keyGen := s.keyCtr, kcGen := s.keyCtr + 1, sctr := 0, rctr := 0 }
  rw [wst_congr writeRoots_writes.worlds, modWorld_wst, hn]

theorem created_regs {tk : Nat} {ld : BitVec 256} {fn : World} {n : Nat} (i : SlotId) :
    SameRegs (((((s.newKeys w).modWorld w fun x =>
      { x with created := true, tenant := tk, loader := ld }).writeRoots w).mbEnds fn n).slot i) (s.slot i) := by
  have hk : ((s.newKeys w).modWorld w fun x => { x with created := true, tenant := tk, loader := ld }).slot i = s.slot i := rfl
  rw [mbEnds_slot, ← hk]
  exact writeRoots_writes.regs i

theorem destroyed_wst : ((s.dropKeys w).modWorld w fun x => { x with created := false, tenant := 0, loader := 0 }).wst w =
      { s.wst w with created := false, tenant := 0, loader := 0, keys := false, keyGen := s.keyCtr, kcGen := s.keyCtr + 1,
                     sctr := 0, rctr := 0 } := by
  have hn : (s.dropKeys w).wst w =
      { s.wst w with keys := false, keyGen := s.keyCtr, kcGen := s.keyCtr + 1, sctr := 0, rctr := 0 } :=
    modWorld_wst s w fun x => { x with keys := false, keyGen := s.keyCtr, kcGen := s.keyCtr + 1, sctr := 0, rctr := 0 }
  rw [modWorld_wst, hn]

theorem dropKeys_mem : (s.dropKeys w).mem = s.mem := rfl
theorem dropKeys_slots : (s.dropKeys w).slots = s.slots := rfl
theorem transportKey_mem : (s.transportKey w).mem = s.mem := rfl
theorem transportKey_slots : (s.transportKey w).slots = s.slots := rfl
theorem exporting_mem : (s.exporting w).mem = s.mem := rfl
theorem exporting_cl : (s.exporting w).cl = s.cl := rfl
theorem mbBegin_cl : (s.mbBegin m code).cl = s.cl := rfl

theorem transportKey_wst : (s.transportKey w).wst w = { s.wst w with kcGen := 2 ^ 64 + s.takeFree.1.toNat } :=
  modWorld_wst ..

theorem exporting_wst : (s.exporting w).wst w =
    { s.wst w with kcGen := 2 ^ 64 + s.takeFree.1.toNat, expBusy := true, sctr := (s.wst w).sctr + 1 } := by
  rw [State.exporting, modWorld_wst, transportKey_wst]

/-- WSEC is raised in slots, which may begin again what they waited for. -/
theorem raiseWsec_eq {n : Nat} : s.raiseWsec w n =
    { s with slots := (s.raiseWsec w n).slots, waiters := (s.raiseWsec w n).waiters, agenda := (s.raiseWsec w n).agenda } := by
  unfold State.raiseWsec
  generalize allSlots = is
  induction is generalizing s with
  | nil => rfl
  | cons i is ih =>
    rw [List.foldl_cons, ih]
    dsimp only
    split
    · rfl
    · split
      · split
        · rfl
        · rw [leaveQueue_eq]; rfl
      · rfl
      · rfl

theorem frozen_wst : (v.frozen w e).wst w = { v.wst w with wseal := (v.wst w).wseal ||| 2 } := by
  have hw : (v.frozen w e).worlds = (v.modWorld w fun x => { x with wseal := x.wseal ||| 2 }).worlds := by
    rw [State.frozen, raiseWsec_eq]
    rfl
  rw [wst_congr hw, modWorld_wst]

theorem frozen_cl : (v.frozen w e).cl = { v.cl with expst := 1, exp := some e } := by
  rw [State.frozen, raiseWsec_eq]
  rfl

theorem frozen_mem : (v.frozen w e).mem = v.mem := by
  rw [State.frozen, raiseWsec_eq]
  rfl

theorem mbBegin_expRefused {op : BitVec 2} : (s.mbBegin m code).expRefused w op p = s.expRefused w op p := by
  have hb : ((s.mbBegin m code).wst w).expBusy = (s.wst w).expBusy := mbBegin_keeps (·.expBusy) (fun _ _ _ _ _ => rfl) w
  have hw : ((s.mbBegin m code).wst w).wseal = (s.wst w).wseal := mbBegin_keeps (·.wseal) (fun _ _ _ _ _ => rfl) w
  have hc : ((s.mbBegin m code).wst w).sctr = (s.wst w).sctr := mbBegin_keeps (·.sctr) (fun _ _ _ _ _ => rfl) w
  unfold State.expRefused
  dsimp only
  rw [hb, hw, hc]
  rfl

theorem mbBegin_isProt : (s.mbBegin m code).isProt w = s.isProt w := by
  have hw : ((s.mbBegin m code).wst w).wseal = (s.wst w).wseal := mbBegin_keeps (·.wseal) (fun _ _ _ _ _ => rfl) w
  simp only [State.isProt, hw]

end

section
variable {s : State} {m : MbCmd} {w : World} {d : Nat} {l : List (BitVec 256)} {pol : Policy} (hm : m.fn = 0)
  (hf : s.mbFree 0 = true) (hs : s.psem &&& 3 = portId m.port)
include hm hf hs

theorem worldCreate_leaves {tk : Nat} {ld : BitVec 256} (ha : s.act = some (.worldCreate m w tk ld)) (hw : w ≠ 0)
    (hc : (s.wst w).created = false) : ∃ t, exec .worldCreate s = .next t ∧
      (t.wst w).created = true ∧ (t.wst w).tenant = tk ∧ (t.wst w).loader = ld ∧ (t.wst w).keys = true ∧ (t.wst w).sctr = 0 ∧
      (t.wst w).rctr = 0 ∧ (t.wst 0).mbEnd = 2 ∧ ∀ i, SameRegs (t.slot i) (s.slot i) := by
  refine ⟨_, worldCreate_ends hm hf hs ha hw hc, ?_⟩
  rw [mbEnds_wst w, created_wst]
  exact ⟨rfl, rfl, rfl, rfl, rfl, rfl, mbEnds_mbEnd, created_regs (s := s.mbBegin m 0x10)⟩

theorem worldDestroy_leaves (ha : s.act = some (.worldDestroy m w)) (hw : w ≠ 0) (hc : (s.wst w).created = true) :
    ∃ t, exec .worldDestroy s = .next t ∧ (t.wst w).created = false ∧ (t.wst w).keys = false ∧ (t.wst 0).mbEnd = 2 ∧
      t.slots = s.slots ∧ t.mem = s.mem := by
  refine ⟨_, worldDestroy_ends hm hf hs ha hw hc, ?_⟩
  rw [mbEnds_wst w, destroyed_wst, mbEnds_mbEnd, mbEnds_slots, mbEnds_mem, modWorld_slots, modWorld_mem, dropKeys_slots,
    dropKeys_mem, mbBegin_slots, mbBegin_mem]
  exact ⟨rfl, rfl, rfl, rfl, rfl⟩

theorem migExport_leaves (ha : s.act = some (.migExport m w d l pol)) (hk : s.policyOk w d l pol = true)
    (hx : s.expRefused w 1 m.port = 0) : ∃ t, exec .migExport s = .next t ∧
      (t.wst w).wseal = (s.wst w).wseal ||| 2 ∧ (t.wst w).sctr = (s.wst w).sctr + 1 ∧ (t.wst w).expBusy = true ∧
      t.cl.exp = some ⟨1, w, m.port, 0, 0, s.cl.expsrc, s.cl.expdst, 0, none⟩ ∧ t.cl.expst = 1 ∧ (t.wst 0).mbEnd = 2 ∧
      t.mem = s.mem := by
  have hseal : ((s.mbBegin m 0x12).wst w).wseal = (s.wst w).wseal := mbBegin_keeps (·.wseal) (fun _ _ _ _ _ => rfl) w
  have hctr : ((s.mbBegin m 0x12).wst w).sctr = (s.wst w).sctr := mbBegin_keeps (·.sctr) (fun _ _ _ _ _ => rfl) w
  refine ⟨_, migExport_ends hm hf hs ha hk (mbBegin_expRefused.trans hx), ?_⟩
  rw [mbEnds_wst w, frozen_wst, exporting_wst, hseal, hctr, mbEnds_mbEnd, mbEnds_cl, mbEnds_mem, frozen_cl, frozen_mem,
    exporting_mem, mbBegin_mem]
  exact ⟨rfl, rfl, rfl, rfl, rfl, rfl, rfl⟩

theorem migImport_leaves (ha : s.act = some (.migImport m w d l pol)) (hk : s.policyOk w d l pol = true) (hi : s.isProt w = true)
    (hc : (s.wst w).sctr = 0) : ∃ t, exec .migImport s = .next t ∧ 2 ^ 64 ≤ (t.wst w).kcGen ∧ (t.wst 0).mbEnd = 2 ∧
      t.slots = s.slots ∧ t.mem = s.mem := by
  refine ⟨_, migImport_ends hm hf hs ha hk (mbBegin_isProt.trans hi) hc, ?_⟩
  rw [mbEnds_wst w, transportKey_wst, mbEnds_mbEnd, mbEnds_slots, mbEnds_mem, transportKey_slots, transportKey_mem, mbBegin_slots,
    mbBegin_mem]
  exact ⟨Nat.le_add_right .., rfl, rfl, rfl⟩

end

end Sys2Proof.Machine

section
open Sys2Proof
open Sys2Proof.Machine

/-- Settles O42. -/
theorem mailboxCompletes : Obligations.MailboxCompletes := by
  unfold Obligations.MailboxCompletes
  refine ⟨fun s m fn hfn hf => ⟨fun nonce iova ha u hu => ?attest, fun t b ha u hu => ⟨fun hn => ?resumeBad, fun k hk => ?resume⟩,
      fun t ha u hu => ⟨fun hn => ?discardBad, fun k hk => ?discard⟩, fun iova ha => ?uit,
      fun w i va len ex tmo ha u hu => ⟨fun hn => ?setDenied, fun hw ht h1 h2 h3 h4 h5 h6 h7 h8 hp => ?set⟩,
      fun i ha u hu => ⟨fun ht => ?armDenied, fun ht => ⟨fun hn => ?armBad, fun k hk => ?arm⟩⟩⟩,
    fun s fn p ha hb hp hu => ?complete⟩
  case attest =>
    subst hfn hu
    show execAttest s = _
    simp only [execAttest, ha, command_free hf]
    rfl
  case resumeBad =>
    subst hfn hu
    show execTowResume s = _
    simp only [execTowResume, ha, command_free hf, hn]
    rfl
  case resume =>
    subst hfn hu
    show execTowResume s = _
    simp only [execTowResume, ha, command_free hf, hk]
    rfl
  case discardBad =>
    subst hfn hu
    show execTowDiscard s = _
    simp only [execTowDiscard, ha, command_free hf, hn]
    rfl
  case discard =>
    subst hfn hu
    show execTowDiscard s = _
    simp only [execTowDiscard, ha, command_free hf, hk]
    rfl
  case uit =>
    subst hfn
    refine ⟨(s.mbBegin m 0x04).modWorld m.fn fun x => { x with uit := some iova }, ?_, congrArg WorldSt.uit (modWorld_wst ..)⟩
    show execUitSet s = _
    simp only [execUitSet, ha, command_free hf]
    rfl
  case setDenied =>
    subst hfn hu
    have hd : (decide (w ≠ m.fn) || (s.mbBegin m 0x05).cwinTaken w i) = true := by
      rcases hn with h | h
      · rw [decide_eq_true h]; rfl
      · rw [h, Bool.or_true]
    show execCwinSet s = _
    simp only [execCwinSet, ha, command_free hf, if_pos hd]
    rfl
  case set =>
    subst hfn hu hw
    show execCwinSet s = _
    simp only [execCwinSet, ha, command_free hf, ht, ne_eq, not_true, decide_false, Bool.or_self, Bool.false_eq_true, if_false,
      h1, h2, bne_self_eq_false, decide_eq_false (Nat.not_lt.mpr h3), decide_eq_false (Nat.not_lt.mpr h4),
      decide_eq_false (Nat.not_lt.mpr h5), decide_eq_false (Nat.not_lt.mpr h6), decide_eq_false (Nat.not_lt.mpr h7),
      decide_eq_false (Nat.not_lt.mpr h8), hp, Bool.not_true]
    rfl
  case armDenied =>
    subst hfn hu
    show execCwinArm s = _
    simp only [execCwinArm, ha, command_free hf, if_pos ht]
    rfl
  case armBad =>
    subst hfn hu
    show execCwinArm s = _
    simp only [execCwinArm, ha, command_free hf, ht, Bool.false_eq_true, if_false, hn]
    rfl
  case arm =>
    subst hfn hu
    show execCwinArm s = _
    simp only [execCwinArm, ha, command_free hf, ht, Bool.false_eq_true, if_false, hk]
    rfl
  case complete =>
    exact ⟨_, mailboxCompletion_reports ha hb hp hu, congrArg (· ++ [.msix p fn 0]) mbDone_hostOut, mbDone_mbst,
      mbDone_mem (fn := fn)⟩

/-- Settles O43. -/
theorem exclusiveCommandsNeedTheSemaphore : Obligations.ExclusiveCommandsNeedTheSemaphore := by
  unfold Obligations.ExclusiveCommandsNeedTheSemaphore
  refine ⟨fun s m code f hf => ⟨fun hn => exclusive_denied hf hn, fun hn hp => hn ▸ exclusive_noSem hf hn hp⟩,
    fun s m p u hm hp hf hs hu => ?_⟩
  subst hp hu
  refine ⟨fun w tk ld => worldCreate_ends hm hf hs, fun w => worldDestroy_ends hm hf hs,
    fun w d l pol v e ha hk hx hv he => ?_, fun w d l pol => migImport_ends hm hf hs,
    fun w d l pol hk => ⟨fun ha => migExport_denied hm hf hs ha hk, fun ha => migImport_denied hm hf hs ha hk⟩,
    fun iova len => fwUpdate_ends hm hf hs, fun d a b => routeSet_ends hm hf hs, fun w i e => xwinSet_ends hm hf hs,
    fun i sd sw w lo hi pm => importSet_ends hm hf hs⟩
  subst hv he
  exact migExport_ends hm hf hs ha hk hx

/-- Settles O44. -/
theorem worldAndTableCommandsComplete : Obligations.WorldAndTableCommandsComplete := by
  unfold Obligations.WorldAndTableCommandsComplete
  refine ⟨fun s m p w hm hp hf hs => ?_, fun s m p hm hp hf hs => ?_⟩
  · subst hp
    exact ⟨fun tk ld => worldCreate_leaves hm hf hs, worldDestroy_leaves hm hf hs, fun d l pol => migExport_leaves hm hf hs,
      fun d l pol => migImport_leaves hm hf hs⟩
  · subst hp
    refine ⟨fun iova len ha => ⟨_, fwUpdate_ends hm hf hs ha, rfl, mbEnds_mbEnd, rfl, rfl⟩,
      fun d a b ha => ⟨_, routeSet_ends hm hf hs ha, ?_, fun e he => ?_, mbEnds_mbEnd, rfl, rfl⟩,
      fun w i e u ha h1 h2 h3 hu => ?_,
      fun i sd sw w lo hi pm ha => ⟨_, importSet_ends hm hf hs ha, ?_, fun j hj => ?_, mbEnds_mbEnd, rfl, rfl⟩⟩
    · exact Vector.getElem_set_self ..
    · exact Vector.getElem_set_ne d.isLt e.isLt fun h => he (Fin.ext h.symm)
    · subst hu
      refine ⟨?_, xwinSet_ends hm hf hs ha h1 h2 h3⟩
      rw [modWorld_wst]
      exact Vector.getElem_set_self ..
    · exact Vector.getElem_set_self ..
    · exact Vector.getElem_set_ne i.isLt j.isLt fun h => hj (Fin.ext h.symm)

end
end

section
/-!
The fabric, the sessions, the resets and the monitors (R340, R353, R379, R382-R385, R392-R396).
-/

namespace Sys2Proof.Machine

/-! ### What a reset leaves of memory (R382) -/

/-- Where no cell is listed, the byte is the one of new memory. -/
theorem cellGet_unlisted {m : List Host.Cell} {k : Nat} (h : ∀ c ∈ m, c.1 ≠ k) : cellGet m k = unlisted := by
  induction m with
  | nil => rfl
  | cons c t ih =>
    obtain ⟨a, b⟩ := c
    have ha : k ≠ a := (h (a, b) List.mem_cons_self).symm
    show (if k < a then unlisted else if k = a then b else cellGet t k) = unlisted
    rw [if_neg ha, ih fun c hc => h c (List.mem_cons_of_mem _ hc), ite_self]

/-- What stands in the module's own memory reads as after reset. -/
theorem resetAll_byte (s : State) {k : Nat} (h : keyIsHost k = false) : s.resetAll.byte k = State.reset.byte k :=
  cellGet_unlisted fun c hc e => by
    obtain ⟨-, hh⟩ := List.mem_filter.mp hc
    rw [e, h] at hh
    exact Bool.false_ne_true hh

/-! ### Sessions and monitors (R353, R385, R388) -/

section
variable {s : State} {p : HostPort} {v : Bool}

theorem setSession_portUp : (s.setSession p v).portUp p = v := by cases p <;> rfl
theorem setSession_psem : (s.setSession p v).psem = s.psem := by cases p <;> rfl
theorem setSession_mem : (s.setSession p v).mem = s.mem := by cases p <;> rfl
theorem setSession_slots : (s.setSession p v).slots = s.slots := by cases p <;> rfl

/-- The port is fenced, and PSEM is released where it held it. -/
theorem hotReset_fences (ha : s.act = some (.hotReset p)) : ∃ t, exec .hotReset s = .next t ∧ t.portUp p = false ∧ t.mem = s.mem ∧
    t.slots = s.slots ∧ t.psem = (if s.psem &&& 3 = portId p then (s.psem &&& ~~~3) ||| 0x100 else s.psem) := by
  have hu : ∀ x, ({ s.setSession p false with psem := x } : State).portUp p = (s.setSession p false).portUp p := fun x => by
    cases p <;> rfl
  by_cases h : s.psem &&& 3 = portId p
  · refine ⟨{ s.setSession p false with psem := (s.psem &&& ~~~3) ||| 0x100 }, ?_, (hu _).trans setSession_portUp, setSession_mem,
      setSession_slots, (if_pos h).symm⟩
    show execHotReset s = _
    simp only [execHotReset, ha, setSession_psem, if_pos h]
  · refine ⟨s.setSession p false, ?_, setSession_portUp, setSession_mem, setSession_slots, setSession_psem.trans (if_neg h).symm⟩
    show execHotReset s = _
    simp only [execHotReset, ha, setSession_psem, if_neg h]

/-- STEP stands in the lowest four bits of THROT. -/
theorem throt_step {ms step : Nat} (h : step < 16) : ((BitVec.ofNat 64 (ms * 2 ^ 8 + step)).extractLsb' 0 4).toNat = step := by
  rw [BitVec.extractLsb'_toNat, BitVec.toNat_ofNat]
  omega

end

/-! ### A function-level reset (R373, R383) -/

/-- What discarding the fibres of a world that stand in no slot leaves: memory, the worlds, and the WSEC of every slot. -/
structure WsecKept (s t : State) : Prop where
  mem : t.mem = s.mem
  worlds : t.worlds = s.worlds
  wsec : ∀ j, (t.slot j).pendWsec = (s.slot j).pendWsec

theorem WsecKept.refl (s : State) : WsecKept s s := ⟨rfl, rfl, fun _ => rfl⟩
theorem WsecKept.trans {s t u : State} (h : WsecKept s t) (k : WsecKept t u) : WsecKept s u :=
  ⟨k.mem.trans h.mem, k.worlds.trans h.worlds, fun j => (k.wsec j).trans (h.wsec j)⟩
theorem WsecKept.foldl {α : Type} {f : State → α → State} (hf : ∀ s a, WsecKept s (f s a)) (l : List α) (s : State) :
    WsecKept s (l.foldl f s) := by
  induction l generalizing s with
  | nil => exact .refl s
  | cons a l ih => exact (hf s a).trans (ih _)

/-- A slot changes, but not its WSEC. -/
theorem modSlot_wsecKept (s : State) (i : SlotId) (f : Slot → Slot) (h : ∀ x, (f x).pendWsec = x.pendWsec) :
    WsecKept s (s.modSlot i f) := by
  refine ⟨rfl, rfl, fun j => ?_⟩
  by_cases e : j = i
  · subst e; rw [modSlot_slot, h]
  · rw [modSlot_other s i j f e]

theorem post_wsecKept (s : State) (a : Act) : WsecKept s (s.post a) := ⟨rfl, rfl, fun _ => rfl⟩

/-- A repetition block that waits is to test its own wait. -/
theorem repRouse_wsecKept (s : State) (i : SlotId) : WsecKept s (match (s.slot i).rep with
    | some r => if r.wait.isSome then s.post (.repetitionPass i) else s
    | none => s) := by
  split
  · split
    · exact post_wsecKept ..
    · exact .refl s
  · exact .refl s

theorem rouse_wsecKept (s : State) (i : SlotId) : WsecKept s (s.rouse i) := by
  have woken : WsecKept s (match (s.slot i).status with
      | .waiting _ _ => if (s.slot i).restoring != RestorePh.none then s.post (.restoreUnitTake i) else s.modSlot i fun sl =>
        { sl with status := match sl.quay with
                  | some q => .away q
                  | none => .ready }
      | _ => s) := by
    split
    · split
      · exact post_wsecKept ..
      · exact modSlot_wsecKept s i _ fun _ => rfl
    · exact .refl s
  exact woken.trans (repRouse_wsecKept _ i)

theorem rouseAll_wsecKept (s : State) (p : WaitKind → Nat → Bool) : WsecKept s (s.rouseAll p) := by
  refine WsecKept.foldl (fun s i => ?_) allSlots s
  split
  · exact rouse_wsecKept s i
  · exact .refl s

theorem leaveQueue_wsecKept (s : State) (v : Who) : WsecKept s (s.leaveQueue v) := by
  rw [leaveQueue_eq]
  exact ⟨rfl, rfl, fun _ => rfl⟩

theorem dropAwait_wsecKept (s : State) (i : Fin 32) : WsecKept s (s.dropAwait i) := by
  refine WsecKept.trans ?_ (rouseAll_wsecKept _ _)
  exact WsecKept.trans (t := { s with await := s.await.set i none }) ⟨rfl, rfl, fun _ => rfl⟩ (leaveQueue_wsecKept _ _)

/-- The await entries of a world are dropped. -/
def State.dropAwaits (s : State) (w : World) : State :=
  (List.finRange 32).foldl (fun (s : State) i => match s.await[i] with
    | some e => if e.world == w then s.dropAwait i else s
    | none => s) s

theorem dropAwaits_wsecKept (s : State) (w : World) : WsecKept s (s.dropAwaits w) := by
  refine WsecKept.foldl (fun s i => ?_) (List.finRange 32) s
  split
  · split
    · exact dropAwait_wsecKept s i
    · exact .refl s
  · exact .refl s

/-- What stands in the queues of a world, and what its stores have not yet performed, is discarded. -/
def State.clearQueues (s : State) (w : World) : State :=
  let q := fun (x : Queued) => recWorld x.rcd != w
  let r := fun (x : Rec) => recWorld x != w
  { s with
    clq := s.clq.filter q, heldQ := s.heldQ.filter q, lrq := s.lrq.filter r, heldMsgs := s.heldMsgs.filter r,
    cmq := s.cmq.set w { s.ring w with recs := [] }, susp := s.susp.filter (·.1 != w), swapped := s.swapped.filter (·.1 != w),
    farMsgs := s.farMsgs.filter fun m => r m.2, sideLog := s.sideLog.filter (·.world != w),
    heldSigs := s.heldSigs.filter (·.world != w), updates := s.updates.filter (·.world != w),
    asleep := s.asleep.filter (·.world != w), swapping := s.swapping.filter (·.1 != w),
    pageReqs := s.pageReqs.filter (·.world != w), quayMons := s.quayMons.filter (·.world != w),
    cl := { s.cl with parkedMons := s.cl.parkedMons.filter (·.world != w), replies := s.cl.replies.filter (·.world != w) },
    pageCounts := s.pageCounts.filter (·.world != w), barScales := s.barScales.filter (·.world != w) }

theorem discardQueues_eq (s : State) (w : World) : s.discardQueues w = (s.dropAwaits w).clearQueues w := by
  unfold State.discardQueues State.dropAwaits State.clearQueues
  generalize List.foldl _ s (List.finRange 32) = t
  rfl

theorem clearQueues_wsecKept (s : State) (w : World) : WsecKept s (s.clearQueues w) := ⟨rfl, rfl, fun _ => rfl⟩

theorem clearQueues_ring (s : State) (w : World) : ((s.clearQueues w).ring w).recs = [] := by
  show ((s.cmq.set w { s.ring w with recs := [] })[w]).recs = []
  rw [Fin.getElem_fin, Vector.getElem_set_self]

theorem discardQueues_wsecKept (s : State) (w : World) : WsecKept s (s.discardQueues w) := by
  rw [discardQueues_eq]
  exact (dropAwaits_wsecKept s w).trans (clearQueues_wsecKept _ w)

/-! WSEC is raised slot by slot. -/

section
variable {s : State} {w : World} {n : Nat} {i j : SlotId}

/-- A fibre of a world stands in slot `j`. -/
def State.holds (s : State) (w : World) (j : SlotId) : Prop := (s.slot j).world = w ∧ (s.slot j).status ≠ .free

/-- WSEC is raised in one slot. -/
def State.wsecAt (s : State) (w : World) (n : Nat) (i : SlotId) : State :=
  let sl := s.slot i
  if i = 15 || sl.world != w || sl.status = .free then s
  else
    let s := s.modSlot i fun sl => { sl with pendWsec := some (n * 16 + w.val) }
    match sl.status with
    | .waiting _ _ =>
      if sl.restoring != RestorePh.none then s
      else (s.leaveQueue (.slot i)).modSlot i fun sl => { sl with status := match sl.quay with
        | some q => .away q
        | none => .ready }
    | .parked .park => s.modSlot i fun sl => { sl with status := .ready }
    | _ => s

theorem wsecAt_other (h : j ≠ i) : (s.wsecAt w n i).slot j = s.slot j := by
  unfold State.wsecAt
  dsimp only
  split
  · rfl
  · split
    · split
      · rw [modSlot_other _ _ _ _ h]
      · rw [modSlot_other _ _ _ _ h, leaveQueue_slot, modSlot_other _ _ _ _ h]
    · rw [modSlot_other _ _ _ _ h, modSlot_other _ _ _ _ h]
    · rw [modSlot_other _ _ _ _ h]

theorem wsecAt_self (hi : i ≠ 15) (h : s.holds w i) :
    (s.wsecAt w n i).holds w i ∧ ((s.wsecAt w n i).slot i).pendWsec = some (n * 16 + w.val) := by
  obtain ⟨hw, hs⟩ := h
  have hc : ¬ ((i = 15 || (s.slot i).world != w || (s.slot i).status = .free) = true) := by
    simp [hi, hw, hs]
  unfold State.wsecAt State.holds
  dsimp only
  rw [if_neg hc]
  split
  · split
    · rw [modSlot_slot]
      exact ⟨⟨hw, hs⟩, rfl⟩
    · rw [modSlot_slot, leaveQueue_slot, modSlot_slot]
      refine ⟨⟨hw, ?_⟩, rfl⟩
      dsimp only
      split <;> exact SlotStatus.noConfusion
  · rw [modSlot_slot, modSlot_slot]
    exact ⟨⟨hw, SlotStatus.noConfusion⟩, rfl⟩
  · rw [modSlot_slot]
    exact ⟨⟨hw, hs⟩, rfl⟩

theorem wsecs_raised (is : List SlotId) (hj : j ≠ 15) (h : s.holds w j)
    (hm : j ∈ is ∨ (s.slot j).pendWsec = some (n * 16 + w.val)) :
    ((is.foldl (fun s i => s.wsecAt w n i) s).slot j).pendWsec = some (n * 16 + w.val) := by
  induction is generalizing s with
  | nil => exact hm.resolve_left List.not_mem_nil
  | cons i is ih =>
    rw [List.foldl_cons]
    by_cases e : j = i
    · subst e
      obtain ⟨hh, hp⟩ := wsecAt_self (n := n) hj h
      exact ih hh (.inr hp)
    · have hs : (s.wsecAt w n i).slot j = s.slot j := wsecAt_other e
      refine ih (by unfold State.holds; rw [hs]; exact h) ?_
      rw [hs]
      exact hm.imp_left fun hk => (List.mem_cons.mp hk).resolve_left e

theorem raiseWsec_raises (hj : j ≠ 15) (h : s.holds w j) : ((s.raiseWsec w n).slot j).pendWsec = some (n * 16 + w.val) :=
  wsecs_raised allSlots hj h (.inl (List.mem_finRange j))

/-- The first state of a function-level reset: the world's fibres will take WSEC. -/
def State.flrBegun (s : State) (w : World) : State := (s.modWorld w fun x => { x with inFlr := true, flrst := 0 }).raiseWsec w 1

/-- The fibres that stand in no slot are discarded, with what engines do for the world. -/
def State.flrDiscards (s : State) (w : World) : State :=
  { s with launches := s.launches.filter (·.1 != w) ++ (s.flrTows w).map fun t => (w, t, 3) }

theorem flrDiscards_wsecKept (s : State) (w : World) : WsecKept s (s.flrDiscards w) := ⟨rfl, rfl, fun _ => rfl⟩

theorem functionLevelReset_begins (ha : s.act = some (.functionLevelReset w)) (hw : w ≠ 0) :
    exec .functionLevelReset s = .next (((s.flrBegun w).flrDiscards w).discardQueues w).unstall := by
  show execFunctionLevelReset s = _
  simp only [execFunctionLevelReset, ha, if_neg hw]
  rfl

theorem flrBegun_worlds_mem : (s.flrBegun w).worlds = (s.modWorld w fun x => { x with inFlr := true, flrst := 0 }).worlds ∧
    (s.flrBegun w).mem = s.mem := by
  unfold State.flrBegun
  rw [raiseWsec_eq]
  exact ⟨rfl, rfl⟩

theorem flrBegun_wsec (hi : i ≠ 15) (h : s.holds w i) : ((s.flrBegun w).slot i).pendWsec = some (16 + w.val) := by
  have hm : (s.modWorld w fun x => { x with inFlr := true, flrst := 0 }).holds w i := h
  have hr := raiseWsec_raises (n := 1) hi hm
  rw [Nat.one_mul] at hr
  exact hr

theorem functionLevelReset_leaves (ha : s.act = some (.functionLevelReset w)) (hw : w ≠ 0) : ∃ t,
    exec .functionLevelReset s = .next t ∧ (t.wst w).inFlr = true ∧ (t.ring w).recs = [] ∧ t.mem = s.mem ∧
      ∀ i, i ≠ 15 → (s.slot i).world = w → (s.slot i).status ≠ .free → (t.slot i).pendWsec = some (16 + w.val) := by
  have hk := (flrDiscards_wsecKept (s.flrBegun w) w).trans (discardQueues_wsecKept ((s.flrBegun w).flrDiscards w) w)
  obtain ⟨hworlds, hmem⟩ := flrBegun_worlds_mem (s := s) (w := w)
  have hring : ((((s.flrBegun w).flrDiscards w).discardQueues w).ring w).recs = [] := by
    rw [discardQueues_eq]
    exact clearQueues_ring ..
  have hx := functionLevelReset_begins ha hw
  generalize ((s.flrBegun w).flrDiscards w).discardQueues w = u at hk hring hx
  refine ⟨_, hx, ?_, hring, hk.mem.trans hmem, fun i hi hiw hs => ?_⟩
  · rw [wst_congr (show u.unstall.worlds = _ from hk.worlds.trans hworlds), modWorld_wst]
  · exact (hk.wsec i).trans (flrBegun_wsec hi ⟨hiw, hs⟩)

end

end Sys2Proof.Machine

section
open Sys2Proof
open Sys2Proof.Machine

/-- Settles O45. -/
theorem peerAccessesComplete : Obligations.PeerAccessesComplete := by
  unfold Obligations.PeerAccessesComplete
  refine fun s => ⟨fun port dev sw op va data e ha hz he => ⟨fun hn => ?none, fun i hi hs => ?sealed, fun i t hi hs hb ht => ?done⟩,
    fun num data i q ha hq => ?answer, fun num data c i q r ha hq hr => ?answerCap,
    fun num data c ha hq => ⟨fun p hp => ?stored, fun hp => ?late⟩, fun num ha => ⟨fun i q hq => ?timeout, fun hq p hp => ?storeTimeout⟩⟩
  case none =>
    subst he
    show execPeerAccessArrival s = _
    simp only [execPeerAccessArrival, ha, hz, Bool.not_true, Bool.false_eq_true, if_false, hn]
  case sealed =>
    subst he
    show execPeerAccessArrival s = _
    simp only [execPeerAccessArrival, ha, hz, Bool.not_true, Bool.false_eq_true, if_false, hi, if_pos hs]
  case done =>
    subst he
    show execPeerAccessArrival s = _
    simp only [execPeerAccessArrival, ha, hz, Bool.not_true, Bool.false_eq_true, if_false, hi, hs, hb, ht]
  case answer =>
    show execPeerResponse s = _
    simp only [execPeerResponse, ha, hq]
  case answerCap =>
    subst hr
    show execPeerResponse s = _
    simp only [execPeerResponse, ha, hq]
  case stored =>
    show execPeerResponse s = _
    simp only [execPeerResponse, ha, hq, hp]
  case late =>
    show execPeerResponse s = _
    simp only [execPeerResponse, ha, hq, hp]
  case timeout =>
    show execPtmo s = _
    simp only [execPtmo, ha, hq]
  case storeTimeout =>
    show execPtmo s = _
    simp only [execPtmo, ha, hq, hp]

/-- Settles O46. -/
theorem linksAndMonitorsComplete : Obligations.LinksAndMonitorsComplete := by
  unfold Obligations.LinksAndMonitorsComplete
  refine ⟨fun s => ⟨fun p => ⟨fun ha => ?linkDown, fun ha => ?linkUp⟩, fun p => ⟨fun ha => ?cxlDown, fun ha => ?cxlUp⟩,
      fun p ha => ?reset, fun p u ha hu => ?session⟩,
    fun s => ⟨fun die up ha => ?throttle, fun ha => ?droop, fun n ha => ?vref, fun l e ha => ?scrub⟩⟩
  case linkDown =>
    show execFabricFailover s = _
    simp only [execFabricFailover, ha]
  case linkUp =>
    show execFabricLinkUp s = _
    simp only [execFabricLinkUp, ha]
  case cxlDown =>
    show execCxlLinkDown s = _
    simp only [execCxlLinkDown, ha]
  case cxlUp =>
    show execCxlLinkUp s = _
    simp only [execCxlLinkUp, ha]
  case reset =>
    exact hotReset_fences ha
  case session =>
    subst hu
    show execHostSessionEstablished s = _
    simp only [execHostSessionEstablished, ha]
    cases p <;> rfl
  case throttle =>
    show ∃ t, execThrottleStep s = .next t ∧ _
    simp only [execThrottleStep, ha]
    have h16 : (s.throt[die].extractLsb' 0 4).toNat < 16 := BitVec.isLt _
    refine ⟨_, rfl, ?_, rfl, rfl⟩
    rw [Fin.getElem_fin, Vector.getElem_set_self, throt_step (by split <;> omega)]
  case droop =>
    show execSupplyDroop s = _
    simp only [execSupplyDroop, ha]
  case vref =>
    show execVrefRecalibration s = _
    simp only [execVrefRecalibration, ha]
  case scrub =>
    show execPatrolScrub s = _
    simp only [execPatrolScrub, ha]

/-- Settles O47. -/
theorem resetsComplete : Obligations.ResetsComplete := by
  unfold Obligations.ResetsComplete
  refine ⟨fun s => ⟨fun ha => ?cold, fun ha => ?warm, fun ha => ?trip, rfl, rfl, rfl, rfl, rfl, rfl, fun k => resetAll_byte s⟩,
    fun s w => ⟨fun ha hw => ?flr, fun u ha hf hu hn => ?complete⟩⟩
  case cold =>
    show execColdReset s = _
    simp only [execColdReset, ha, State.coldReset]
  case warm =>
    show execWarmReset s = _
    simp only [execWarmReset, ha]
  case trip =>
    show ∃ t, execThermalTrip s = .next t ∧ _
    simp only [execThermalTrip, ha]
    exact ⟨_, rfl, rfl, rfl, rfl, rfl, rfl⟩
  case flr => exact functionLevelReset_leaves ha hw
  case complete =>
    subst hu
    show execFunctionLevelResetComplete s = _
    simp only [execFunctionLevelResetComplete, ha, hf, Bool.not_true, Bool.false_eq_true, if_false, hn]

end
end

section
/-!
What a load leaves in the slots, beyond the registers (`Laws/Load.lean`): a load may ask a peer, and changes nothing else of any slot.
-/

namespace Sys2Proof.Machine

/-! ### Work that answers a value and a state -/

/-- Whether the work answers or stops, its state satisfies `q`. -/
def AnswersIn {α : Type} (q : State → Prop) (r : R (α × State)) : Prop := (∀ a, r = .ok a → q a.2) ∧ StopsIn q r

section
variable {α β : Type} {q p : State → Prop}

theorem AnswersIn.ok {a : α × State} (h : q a.2) : AnswersIn q (.ok a) := ⟨fun _ k => by cases k; exact h, .ok a⟩
theorem AnswersIn.error {e : Stop × State} (h : q e.2) : AnswersIn q (.error e : R (α × State)) :=
  ⟨fun _ k => (by cases k), .error h⟩
theorem AnswersIn.bind {r : R α} {f : α → R (β × State)} (h : StopsIn q r) (k : ∀ a, r = .ok a → AnswersIn q (f a)) :
    AnswersIn q (r >>= f) := by
  cases r with
  | error e => exact .error (h e rfl)
  | ok a => exact k a rfl
/-- Work on the state that earlier work has answered. -/
theorem AnswersIn.then_ {r : R (α × State)} {f : α × State → R (β × State)} (h : AnswersIn q r)
    (k : ∀ a, q a.2 → AnswersIn q (f a)) : AnswersIn q (r >>= f) := .bind h.2 fun a e => k a (h.1 a e)
theorem RunsIn.then_ {r : R State} {f : State → R State} (h : RunsIn q r) (k : ∀ t, q t → RunsIn q (f t)) :
    RunsIn q (r >>= f) := .bind h.2 fun t e => k t (h.1 t e)
theorem StopsIn.mono {r : R α} (h : StopsIn q r) (k : ∀ t, q t → p t) : StopsIn p r := fun e he => k _ (h e he)
theorem AnswersIn.mono {r : R (α × State)} (h : AnswersIn q r) (k : ∀ t, q t → p t) : AnswersIn p r :=
  ⟨fun a e => k _ (h.1 a e), h.2.mono k⟩
theorem RunsIn.mono {r : R State} (h : RunsIn q r) (k : ∀ t, q t → p t) : RunsIn p r :=
  ⟨fun a e => k _ (h.1 a e), h.2.mono k⟩
/-- Checks stop in the state they find. -/
theorem accessChecks_stops {s : State} (h : q s) (c : Cap) (a n : Nat) (m : BitVec 12) (u : BankUse) (l : Nat) :
    StopsIn q (accessChecks s c a n m u l) := by
  unfold accessChecks
  refine (check_stops h _).bind fun _ _ => ?_
  split
  · exact (check_stops h _).bind fun _ _ => (guardR_stops h _ _ _ _).bind fun _ _ => (check_stops h _).bind fun _ _ =>
      guardR_stops h _ _ _ _
  · exact (guardR_stops h _ _ _ _).bind fun _ _ => (guardR_stops h _ _ _ _).bind fun _ _ => guardR_stops h _ _ _ _
theorem placed_stops {s : State} (h : q s) (c : Cap) (a n : Nat) (d : Need) : StopsIn q (placed s c a n d) := by
  unfold placed
  split
  · exact .ok _
  · split
    · exact .ok _
    · exact .error h
theorem accessPieces_stops {s : State} (h : q s) (c : Cap) (a n : Nat) (m : BitVec 12) (d : Need) (u : BankUse) (l : Nat) :
    StopsIn q (accessPieces s c a n m d u l) :=
  (accessChecks_stops h c a n m u l).bind fun _ _ => placed_stops h c a n d

end

/-! ### What a load leaves in the slots -/

/-- `b` is `a` but for what it has asked of peers. -/
def SlotAsks (a b : Slot) : Prop := b = { a with peerAsk := b.peerAsk }

theorem SlotAsks.refl (a : Slot) : SlotAsks a a := rfl
theorem SlotAsks.trans {a b c : Slot} (h : SlotAsks a b) (k : SlotAsks b c) : SlotAsks a c :=
  Eq.trans k (congrArg (fun v : Slot => { v with peerAsk := c.peerAsk }) h)

/-- `t` is `s` but for what a load can change, and its slots have asked peers at most. -/
structure Loads (s t : State) : Prop where
  only : OnlyLoads s t
  slots : AllSlots SlotAsks s t

theorem Loads.trans {s t u : State} (h : Loads s t) (k : Loads t u) : Loads s u :=
  ⟨h.only.trans k.only, k.slots.1.trans h.slots.1, fun i => (h.slots.2 i).trans (k.slots.2 i)⟩
theorem OnlyLoads.cur {s t : State} (h : OnlyLoads s t) : t.cur = s.cur := by rw [h.1]
theorem OnlyLoads.loads {s t : State} (h : OnlyLoads s t) (e : t.slots = s.slots) : Loads s t :=
  ⟨h, h.cur, fun i => by simp only [State.slot, e]; exact .refl _⟩
theorem Loads.refl (s : State) : Loads s s := (OnlyLoads.refl s).loads rfl
theorem Loads.of_eq {s t : State}
    (e : t = { s with cl := t.cl, quays := t.quays, dup := t.dup, dupHeld := t.dupHeld, dupAcks := t.dupAcks,
                      tcache := t.tcache, agenda := t.agenda, pageReqs := t.pageReqs, pageCounts := t.pageCounts,
                      pageNotes := t.pageNotes, pageOvf := t.pageOvf, blList := t.blList, blOvf := t.blOvf,
                      blFound := t.blFound, notices := t.notices, opCtr := t.opCtr }) : Loads s t :=
  (OnlyLoads.of_eq e).loads (by rw [e])

section
variable (s : State)

theorem foldl_slots {α : Type} {f : State → α → State} (hf : ∀ s a, (f s a).slots = s.slots) (l : List α) (s : State) :
    (l.foldl f s).slots = s.slots := by
  induction l generalizing s with
  | nil => rfl
  | cons a l ih => exact (ih _).trans (hf s a)
@[simp] theorem listBad_slots (w : World) (l : Nat) : (s.listBad w l).slots = s.slots := by
  unfold State.listBad
  split
  · rfl
  · dsimp only
    split <;> rfl
@[simp] theorem touchCluster_slots (i : SlotId) (w : World) (h : Hint) (va : Nat) (d : List Byte) (g : List Bool) :
    (s.touchCluster i w h va d g).slots = s.slots := by
  unfold State.touchCluster
  dsimp only
  split
  · rfl
  · split
    · rfl
    · split <;> rfl
@[simp] theorem touchQuay_slots (i : SlotId) (w : World) (h : Hint) (q : Fin 128) (k : Nat) (d : Bool) :
    (s.touchQuay i w h q k d).slots = s.slots := by
  unfold State.touchQuay
  exact foldl_slots (fun s (l : CacheLine) => listBad_slots s l.world l.line) _ _
@[simp] theorem touchQuays_slots (i : SlotId) (w : World) (h : Hint) (k va n : Nat) (d : Bool) :
    (s.touchQuays i w h k va n d).slots = s.slots := by
  unfold State.touchQuays
  split
  · rfl
  · exact foldl_slots (fun s l => touchQuay_slots s i w h _ _ d) _ _
@[simp] theorem readQuays_slots (i : SlotId) (w : World) (h : Hint) (m k va : Nat) :
    (s.readQuays i w h m k va).slots = s.slots := by
  unfold State.readQuays
  dsimp only
  split
  · rfl
  · split
    · exact touchQuays_slots s _ _ _ _ _ _ _
    · split
      · exact touchQuay_slots s _ _ _ _ _ _
      · exact (touchQuay_slots _ _ _ _ _ _ _).trans (touchQuays_slots s _ _ _ _ _ _ _)
@[simp] theorem dropOlder_slots (w : World) (h : Hint) (k va : Nat) : (s.dropOlder w h k va).slots = s.slots := by
  unfold State.dropOlder
  split
  · rfl
  · dsimp only
    split <;> split <;> rfl
@[simp] theorem tierPost_slots (c : PageCount) : (s.tierPost c).1.slots = s.slots := by
  unfold State.tierPost
  split <;> rfl
@[simp] theorem countPage_slots (w : World) (q : Fin 128) (p : Nat) : (s.countPage w q p).slots = s.slots := by
  unfold State.countPage
  dsimp only
  split
  · exact tierPost_slots s _
  · rfl
@[simp] theorem cacheLeaf_slots (w : World) (va : Nat) : (s.cacheLeaf w va).slots = s.slots := by
  unfold State.cacheLeaf
  split
  · rfl
  · split <;> rfl
theorem reached_slots (w : World) (ps : List Piece) : (s.reached w ps).slots = s.slots := by
  unfold State.reached
  refine foldl_slots (fun s p => ?_) ps s
  unfold State.reachedPiece
  split
  · split
    · rfl
    · dsimp only
      split <;> simp only [countPage_slots, cacheLeaf_slots]
  · rfl

end

/-! ### Reads -/

theorem readLine_slots {s : State} {i : SlotId} {w : World} {h : Hint} {k m va n : Nat} {r : List Byte × State}
    (e : s.readLine i w h k m va n = .ok r) : r.2.slots = s.slots := by
  unfold State.readLine at e
  split at e
  · cases e; exact touchCluster_slots s _ _ _ _ _ _
  · split at e
    · cases e
    · cases e
      simp only [touchCluster_slots, dropOlder_slots, readQuays_slots]
theorem readLines_slots {i : SlotId} {w : World} {h : Hint} {k m va : Nat} {cuts : List (Nat × Nat)} {s : State}
    {r : List Byte × State} (e : s.readLines i w h k m va cuts = .ok r) : r.2.slots = s.slots := by
  induction cuts generalizing s r with
  | nil => cases e; rfl
  | cons c cs ih =>
    unfold State.readLines at e
    split at e
    · cases e
    · rename_i h1
      split at e
      · cases e
      · rename_i h2
        cases e
        exact (ih (r := (_, _)) h2).trans (readLine_slots h1)
theorem readRange_slots {s : State} {i : SlotId} {w : World} {h : Hint} {k m va n : Nat} {r : List Byte × State}
    (e : s.readRange i w h k m va n = .ok r) : r.2.slots = s.slots := by
  unfold State.readRange at e
  split at e
  · split at e
    · cases e
    · cases e; rfl
  · exact readLines_slots e
theorem compRead_slots {s : State} {i : SlotId} {w : World} {h : Hint} {k m bm s0 va n : Nat} {r : List Byte × State}
    (e : s.compRead i w h k m bm s0 va n = .ok r) : r.2.slots = s.slots := by
  unfold State.compRead at e
  split at e
  · cases e; exact touchCluster_slots s _ _ _ _ _ _
  · dsimp only at e
    split at e
    · cases e
    · cases e
      simp only [touchCluster_slots, touchQuays_slots]
theorem compReads_slots {i : SlotId} {w : World} {h : Hint} {k m bm s0 va : Nat} {cuts : List (Nat × Nat)} {s : State}
    {r : List Byte × State} (e : s.compReads i w h k m bm s0 va cuts = .ok r) : r.2.slots = s.slots := by
  induction cuts generalizing s r with
  | nil => cases e; rfl
  | cons c cs ih =>
    unfold State.compReads at e
    split at e
    · cases e
    · rename_i h1
      split at e
      · cases e
      · rename_i h2
        cases e
        exact (ih (r := (_, _)) h2).trans (compRead_slots h1)

section
variable {s : State}

theorem askPage_asks (s : State) (w : World) (va : Nat) (y : PageReason) : Loads s (s.askPage w va y) :=
  (askPage_loads s w va y).loads askPage_slots_act.1
theorem reached_asks (s : State) (w : World) (ps : List Piece) : Loads s (s.reached w ps) :=
  (reached_loads s w ps).loads (reached_slots s w ps)
theorem acquired_asks (s : State) (o c : BitVec 3) : Loads s (s.acquired o c) :=
  (acquired_loads s o c).loads (by unfold State.acquired; split <;> rfl)
theorem askPeer_asks (s : State) (r : Reader) (d a : Nat) (p : Piece) : Loads s (s.askPeer r d a p) := by
  refine ⟨askPeer_loads s r d a p, ?_⟩
  unfold State.askPeer
  dsimp only
  split
  · exact (Loads.refl s).slots
  · exact modSlot_all SlotAsks.refl { s with opCtr := s.opCtr + 1 } s.cur _ rfl

theorem arrive_runs (s : State) (w : World) (ps : List Piece) : RunsIn (Loads s) (arrive s w ps) := by
  unfold arrive
  split
  · exact .error (.of_eq (by rfl))
  · exact .ok (reached_asks s w ps)
theorem rawPiece_answers (s : State) (r : Reader) (p : Piece) : AnswersIn (Loads s) (rawPiece s r p) := by
  unfold rawPiece
  split
  case h_1 => exact .error (.refl s)
  case h_2 =>
    split
    · exact .ok (.refl s)
    · exact .error (askPage_asks _ _ _ _)
  case h_3 =>
    split
    · exact .ok (.refl s)
    · exact .error (.refl s)
  case h_4 =>
    split
    · exact .error (.refl s)
    · split
      · exact .ok (.refl s)
      · exact .error (.refl s)
      · exact .error (askPeer_asks s r _ _ p)
  case h_5 =>
    split
    · split
      · exact .ok (.refl s)
      · exact .error (.refl s)
    · split
      · exact .error (.refl s)
      · split
        · exact .error (.refl s)
        · rename_i h1
          exact .ok ((readRange_loads h1).loads (readRange_slots h1))
theorem rawPieces_answers (r : Reader) (ps : List Piece) (s : State) : AnswersIn (Loads s) (rawPieces s r ps) := by
  induction ps generalizing s with
  | nil => exact .ok (.refl s)
  | cons p ps ih =>
    unfold rawPieces
    exact (rawPiece_answers s r p).then_ fun a ha => ((ih a.2).mono fun _ => ha.trans).then_ fun _ hb => .ok hb
theorem shadowRead_answers (s : State) (r : Reader) (h : r.copies = false) (a n : Nat) :
    AnswersIn (Loads s) (shadowRead s r a n) := by
  unfold shadowRead
  split
  · exact .error (.refl s)
  · rw [h]
    exact .bind (arrive_runs s r.world _).2 fun t ht =>
      (rawPieces_answers r _ t).mono fun _ => ((arrive_runs s r.world _).1 t ht).trans
theorem readPiece_answers (s : State) (r : Reader) (h : r.copies = false) (p : Piece) : AnswersIn (Loads s) (readPiece s r p) := by
  unfold readPiece
  split
  · split
    · refine (shadowRead_answers s r h _ _).then_ fun b hb => ?_
      split
      · exact .error hb
      · rename_i hx
        exact .ok (hb.trans ((compReads_loads hx).loads (compReads_slots hx)))
    · exact rawPiece_answers s r p
  · exact rawPiece_answers s r p
theorem readPieces_answers (r : Reader) (h : r.copies = false) (ps : List Piece) (s : State) :
    AnswersIn (Loads s) (readPieces s r ps) := by
  induction ps generalizing s with
  | nil => exact .ok (.refl s)
  | cons p ps ih =>
    unfold readPieces
    exact (readPiece_answers s r h p).then_ fun a ha => ((ih a.2).mono fun _ => ha.trans).then_ fun _ hb => .ok hb
theorem mixedLog_stops (s : State) (r : Reader) (ps : List Piece) : StopsIn (Loads s) (mixedLog s r ps) := by
  unfold mixedLog
  split
  · split
    · exact .error (askPage_asks _ _ _ _)
    · exact .error (.refl s)
  · exact .ok ()
theorem loadPieces_answers (h : Hint) (ps : List Piece) (s : State) : AnswersIn (Loads s) (loadPieces s ps h) :=
  .bind (mixedLog_stops s _ ps) fun _ _ => readPieces_answers (s.reader h) rfl ps s
theorem bitmapsReadable_stops (s : State) (c : Cap) (ps : List Piece) : StopsIn (Loads s) (bitmapsReadable s c ps) := by
  induction ps with
  | nil => exact .ok ()
  | cons p ps ih =>
    unfold bitmapsReadable
    split
    · split
      · refine StopsIn.bind ?_ fun _ _ => ih
        unfold readable
        refine (accessPieces_stops (.refl s) _ _ _ _ _ _ _).bind fun qs _ => ?_
        split
        · exact .error (askPage_asks _ _ _ _)
        · exact .ok ()
      · exact ih
    · exact .ok ()
    · exact ih

/-! ### Loads of a slot -/

theorem loadBytes_answers (s : State) (c : Cap) (a n : Nat) (m : BitVec 12) (l : Nat) (h : Hint) :
    AnswersIn (Loads s) (loadBytes s c a n m l h) := by
  unfold loadBytes
  refine .bind (accessPieces_stops (.refl s) _ _ _ _ _ _ _) fun ps _ => .bind (bitmapsReadable_stops s c ps) fun _ _ => ?_
  exact .bind (arrive_runs s s.world ps).2 fun t ht =>
    (loadPieces_answers h ps t).mono fun _ => ((arrive_runs s s.world ps).1 t ht).trans
theorem loadGran_answers (s : State) (c : Cap) (a : Nat) (m : BitVec 12) (u : BankUse) (h : Hint) :
    AnswersIn (Loads s) (loadGran s c a m u h) := by
  unfold loadGran
  refine .bind (accessPieces_stops (.refl s) _ _ _ _ _ _ _) fun ps _ => .bind (bitmapsReadable_stops s c ps) fun _ _ => ?_
  refine .bind (arrive_runs s s.world ps).2 fun t ht => ?_
  exact ((loadPieces_answers h ps t).mono fun _ => ((arrive_runs s s.world ps).1 t ht).trans).then_ fun _ hb => .ok hb
theorem gatherLoad_answers (c : Cap) (n : Nat) (h : Hint) (ls : List (Nat × Nat)) (s : State) :
    AnswersIn (Loads s) (gatherLoad s c n h ls) := by
  induction ls generalizing s with
  | nil => exact .ok (.refl s)
  | cons l ls ih =>
    unfold gatherLoad
    exact (loadBytes_answers s c l.2 n pR 1 h).then_ fun a ha => ((ih a.2).mono fun _ => ha.trans).then_ fun _ hb => .ok hb
theorem loadGrans_answers (c : Cap) (h : Hint) (n a : Nat) (s : State) : AnswersIn (Loads s) (loadGrans s c a h n) := by
  induction n generalizing s a with
  | zero => exact .ok (.refl s)
  | succ n ih =>
    unfold loadGrans
    exact (loadGran_answers s c a pR .plain h).then_ fun r hr => ((ih (a + 16) r.2).mono fun _ => hr.trans).then_ fun _ hb => .ok hb

end

end Sys2Proof.Machine
end

section
/-!
Where a fibre stands (R217, R250), and what an instruction that reads leaves alone: what its fibre takes to another quay, its
destination, and the end that follows.
-/

namespace Sys2Proof.Machine

/-! ### The filter of R338 -/

section
variable {s t : State}

theorem walk_congr (m : t.mem = s.mem) (w : t.worlds = s.worlds) (x : World) (va : Nat) : t.walk x va = s.walk x va := by
  simp only [State.walk, State.wst, m, w]
theorem translate_table (m : t.mem = s.mem) (w : t.worlds = s.worlds) (p : t.pageReqs = s.pageReqs) (x : World) (va : Nat)
    (d : Need) : t.translate x none va d = s.translate x none va d := by
  have hk : t.walk x va = s.walk x va := walk_congr m w x va
  unfold State.translate State.wst State.kvAsked
  rw [w, p, if_neg (show ¬ (none : Option Nat).isSome = true from Bool.false_ne_true),
    if_neg (show ¬ (none : Option Nat).isSome = true from Bool.false_ne_true), hk]
theorem readVa_congr (m : t.mem = s.mem) (w : t.worlds = s.worlds) (p : t.pageReqs = s.pageReqs) (x : World) (va n : Nat) :
    t.readVa x va n = s.readVa x va n := by
  induction n generalizing va with
  | zero => rfl
  | succ n ih =>
    have hb : t.byte = s.byte := by funext a; unfold State.byte; rw [m]
    unfold State.readVa
    rw [translate_table m w p, ih, hb]
/-- The bitmap of revocation is read through the table as it stands, wherever the fibre stands. -/
theorem filterCap_congr (m : t.mem = s.mem) (w : t.worlds = s.worlds) (p : t.pageReqs = s.pageReqs) :
    t.filterCap = s.filterCap := by
  funext c
  have hr : t.readVa = s.readVa := by funext x va n; exact readVa_congr m w p x va n
  unfold State.filterCap State.revoked State.wst
  rw [hr, w]
theorem filterRegs_congr (m : t.mem = s.mem) (w : t.worlds = s.worlds) (p : t.pageReqs = s.pageReqs) :
    t.filterRegs = s.filterRegs := by
  funext sl
  unfold State.filterRegs
  rw [filterCap_congr m w p]

end

/-! ### What an instruction leaves in its slot -/

/-- `b` is `a` but for the registers `ds`, and its monitors watch the same lines. -/
structure SlotGoes (ds : List Reg) (a b : Slot) : Prop where
  regs : SameRegsBut ds b a
  specials : SameSpecials b a
  watch : SameWatch b a

theorem SameWatch.refl (a : Slot) : SameWatch a a := fun _ => ⟨rfl, rfl, rfl⟩
theorem SameWatch.trans {a b c : Slot} (h : SameWatch a b) (k : SameWatch b c) : SameWatch a c := fun i =>
  ⟨(h i).1.trans (k i).1, (h i).2.1.trans (k i).2.1, (h i).2.2.trans (k i).2.2⟩
theorem SameWatch.of_eq {a b : Slot} (h : a.mons = b.mons) : SameWatch a b := fun i => by rw [h]; exact ⟨rfl, rfl, rfl⟩

section
variable {ds es : List Reg} {a b c : Slot}

theorem SlotGoes.refl (ds : List Reg) (a : Slot) : SlotGoes ds a a := ⟨(SameRegs.refl a).but ds, .refl a, .refl a⟩
theorem SlotGoes.trans (h : SlotGoes ds a b) (k : SlotGoes ds b c) : SlotGoes ds a c :=
  ⟨k.regs.trans h.regs, k.specials.trans h.specials, k.watch.trans h.watch⟩
theorem SameRegsBut.mono (h : SameRegsBut ds a b) (k : ∀ r ∈ ds, r ∈ es) : SameRegsBut es a b :=
  ⟨fun r e => h.x r fun d m => e d (k _ m), fun r e => h.c r fun d m => e d (k _ m), fun r e => h.k r fun d m => e d (k _ m),
    fun r e => h.v r fun m => e (k _ m), fun r e => h.p r fun d m => e d (k _ m)⟩
theorem SameRegsBut.of_files (x : b.x = a.x) (c : b.c = a.c) (k : b.k = a.k) (v : b.v = a.v) (p : b.p = a.p) :
    SameRegsBut ds b a := (SameRegs.of_files x c k v p).but ds
theorem SlotGoes.any (h : SlotGoes [] a b) : SlotGoes ds a b := ⟨h.regs.mono (by simp), h.specials, h.watch⟩
theorem SlotEnds.goes (h : SlotEnds a b) : SlotGoes ds a b := ⟨h.regs.but ds, h.specials, .of_eq h.mons⟩
theorem SlotWrites.specials (h : SlotWrites ds a b) : SameSpecials b a := by
  rw [h.rest]; exact ⟨rfl, rfl, rfl, rfl, rfl, rfl, rfl, rfl, rfl⟩
theorem SlotWrites.mons (h : SlotWrites ds a b) : b.mons = a.mons := by rw [h.rest]
theorem SlotWrites.goes (h : SlotWrites ds a b) : SlotGoes ds a b := ⟨h.regs, h.specials, .of_eq h.mons⟩
theorem SlotAsks.mons (h : SlotAsks a b) : b.mons = a.mons := by rw [SlotAsks] at h; rw [h]
theorem SlotAsks.goes (h : SlotAsks a b) : SlotGoes ds a b := by
  rw [SlotAsks] at h; rw [h]
  exact ⟨.of_files rfl rfl rfl rfl rfl, ⟨rfl, rfl, rfl, rfl, rfl, rfl, rfl, rfl, rfl⟩, .of_eq rfl⟩

end

/-! ### Where a fibre stands -/

/-- A fibre has gone where its access is performed: its capability registers may have been filtered. -/
structure Stands (s t : State) : Prop where
  only : OnlyEnds s t
  cur : t.cur = s.cur
  goes : SlotGoes [] s.sl t.sl ∨ SlotGoes [] (s.filterRegs s.sl) t.sl
  specials : SameSpecials t.sl s.sl
  mons : t.sl.mons = s.sl.mons

theorem Stands.of_ends {s t : State} (h : OnlyEnds s t) (k : AllSlots SlotEnds s t) : Stands s t :=
  ⟨h, k.1, .inl k.sl.goes, k.sl.specials, k.sl.mons⟩
theorem Stands.refl (s : State) : Stands s s := .of_ends rfl (kept_of_slots rfl rfl).ends
theorem goHome_stands (s : State) : Stands s (s.goHome s.cur) := .of_ends (goHome_only s s.cur) (goHome_kept s s.cur).ends
/-- The slot of a fibre that has moved to a quay. -/
def Slot.gone (u : State) (q : Fin 128) (sl : Slot) : Slot := { u.filterRegs sl with quay := some q, status := .away q }
theorem gone_stands (s : State) (q : Fin 128) : 
    Stands s ((s.goHome s.cur).modCur (Slot.gone (s.goHome s.cur) q)) := by
  have ho := goHome_only s s.cur
  have hk := goHome_kept s s.cur
  have hf : (s.goHome s.cur).filterRegs = s.filterRegs := by
    rw [goHome_eq]; exact filterRegs_congr rfl rfl rfl
  have hsl := hk.sl
  generalize s.goHome s.cur = u at ho hk hf hsl ⊢
  refine ⟨ho.trans rfl, hk.1, .inr ?_, ?_, ?_⟩
  all_goals rw [modCur_sl, Slot.gone, hf]; rw [SlotKept] at hsl; rw [hsl]
  · exact ⟨.of_files rfl rfl rfl rfl rfl, ⟨rfl, rfl, rfl, rfl, rfl, rfl, rfl, rfl, rfl⟩, .of_eq rfl⟩
  · exact ⟨rfl, rfl, rfl, rfl, rfl, rfl, rfl, rfl, rfl⟩
  · rfl
theorem moveTo_runs (s : State) (q : Fin 128) : RunsIn (Stands s) (moveTo s q) := by
  unfold moveTo
  split
  · exact .ok (.refl s)
  · split
    · exact .error (Stands.refl s)
    · exact .ok (gone_stands s q)
theorem travel_runs (s : State) (c : Cap) (ea : Nat) (q : Bool) : RunsIn (Stands s) (travel s c ea q) := by
  unfold travel
  split
  · exact .ok (goHome_stands s)
  · split
    · split
      · exact .ok (goHome_stands s)
      · exact .ok (.refl s)
    · split
      · exact moveTo_runs s _
      · exact .ok (.refl s)

/-! ### What an instruction that reads leaves alone -/

/-- `t` is `s` but for what a read changes and the registers `ds` of the current slot. -/
structure Reads (ds : List Reg) (s t : State) : Prop where
  cur : t.cur = s.cur
  goes : SlotGoes ds s.sl t.sl
  mons : t.sl.mons = s.sl.mons
  memory : SameMemory s t
/-- The same, once the fibre has gone where its access is performed. -/
def GoesAndReads (ds : List Reg) (s t : State) : Prop := ∃ u, Stands s u ∧ Reads ds u t

theorem SameMemory.trans {s t u : State} (h : SameMemory s t) (k : SameMemory t u) : SameMemory s u :=
  ⟨fun a => (k.mem a).trans (h.mem a), fun a => (k.tags a).trans (h.tags a), fun a => (k.full a).trans (h.full a)⟩

section
variable {ds : List Reg} {s t u : State}

theorem Reads.trans (h : Reads ds s t) (k : Reads ds t u) : Reads ds s u :=
  ⟨k.cur.trans h.cur, h.goes.trans k.goes, k.mons.trans h.mons, h.memory.trans k.memory⟩
/-- The slots and memory are as they were. -/
theorem Reads.of_slots (e : t.slots = s.slots) (c : t.cur = s.cur) (m : SameMemory s t) : Reads ds s t := by
  have hs : t.sl = s.sl := by simp only [State.sl, e, c]
  exact ⟨c, by rw [hs]; exact .refl ds _, by rw [hs], m⟩
theorem Reads.refl (ds : List Reg) (s : State) : Reads ds s s := .of_slots rfl rfl (.of_cells rfl rfl rfl)
theorem Loads.reads (h : Loads s t) : Reads ds s t := ⟨h.slots.1, h.slots.sl.goes, h.slots.sl.mons, h.only.same⟩
theorem Reads.of_ends (h : OnlyEnds s t) (k : AllSlots SlotEnds s t) : Reads ds s t := ⟨k.1, k.sl.goes, k.sl.mons, h.same⟩
theorem Writes.reads (h : Writes ds s t) : Reads ds s t := by
  refine ⟨?_, h.slot.goes, h.slot.mons, ?_⟩ <;> rw [h.slots]
  exact .of_cells rfl rfl rfl
theorem Reads.wx (h : Reads ds s t) {r : BitVec 6} (m : .x r ∈ ds) (v : Word) : Reads ds s (t.wx r v) :=
  h.trans ((Writes.refl ds t).wx m v).reads
theorem Reads.wc (h : Reads ds s t) {r : BitVec 6} (m : .c r ∈ ds) (v : Cap) : Reads ds s (t.wc r v) :=
  h.trans ((Writes.refl ds t).wc m v).reads
theorem Reads.wk (h : Reads ds s t) {r : BitVec 6} (m : .k r ∈ ds) (v : Gran) : Reads ds s (t.wk r v) :=
  h.trans ((Writes.refl ds t).wk m v).reads
theorem Reads.wv (h : Reads ds s t) {r : BitVec 6} (m : .v r ∈ ds) (v : Line) : Reads ds s (t.modCur (·.wv r v)) :=
  h.trans (modCur_writes (Writes.refl ds t) ⟨wv_regs t.sl m v, rfl⟩).reads
theorem GoesAndReads.then_ (h : GoesAndReads ds s t) (k : Reads ds t u) : GoesAndReads ds s u :=
  let ⟨v, hv, hr⟩ := h
  ⟨v, hv, hr.trans k⟩
theorem Reads.stays (h : Reads ds s t) : GoesAndReads ds s t := ⟨s, .refl s, h⟩
theorem Stands.reads (h : Stands s t) : GoesAndReads ds s t := ⟨t, h, .refl ds t⟩
/-- What such an instruction has left alone, as the statement says it. -/
theorem GoesAndReads.says (h : GoesAndReads ds s t) :
    (SameRegsBut ds t.sl s.sl ∨ SameRegsBut ds t.sl (s.filterRegs s.sl)) ∧ SameSpecials t.sl s.sl ∧ t.sl.mons = s.sl.mons ∧
      SameMemory s t := by
  obtain ⟨u, hu, hr⟩ := h
  refine ⟨?_, hr.goes.specials.trans hu.specials, hr.mons.trans hu.mons, hu.only.same.trans hr.memory⟩
  exact hu.goes.imp (fun g => (g.any.trans hr.goes).regs) fun g => (g.any.trans hr.goes).regs

/-- An end leaves what an instruction that reads leaves. -/
theorem finish_goes {h : Hdr} {b : State → R State} (hb : RunsIn (GoesAndReads ds s) (b s)) (e : finish h b s = .next t) :
    GoesAndReads ds s t := by
  unfold finish at e
  cases hr : b s with
  | ok u => rw [hr] at e; cases e; exact (hb.1 u hr).then_ (.of_ends (ended_only h u) (ended_ends h u))
  | error x => rw [hr] at e; cases e; exact (hb.2 x hr).then_ (.of_ends (stopped_only x.1 x.2) (stopped_ends x.1 x.2))
/-- Work that begins with the way to where the access is performed. -/
theorem travel_then {c : Cap} {ea : Nat} {q : Bool} {f : State → R State} (h : ∀ u, RunsIn (Reads ds u) (f u)) :
    RunsIn (GoesAndReads ds s) (travel s c ea q >>= f) :=
  .bind ((travel_runs s c ea q).2.mono fun _ => Stands.reads) fun u hu =>
    (h u).mono fun _ hr => ⟨u, (travel_runs s c ea q).1 u hu, hr⟩
theorem scWait_stops {p : State → Prop} (h : p s) (o c : BitVec 3) : StopsIn p (scWait s o c) := by
  unfold scWait releaseWait
  split
  · split
    · exact .error h
    · split
      · exact .error h
      · exact .ok ()
  · exact .ok ()
theorem releaseWait_stops {p : State → Prop} (h : p s) (n : Nat) : StopsIn p (releaseWait s n) := by
  unfold releaseWait
  split
  · exact .error h
  · split
    · exact .error h
    · exact .ok ()
theorem noPort_stops {p : State → Prop} (h : p s) (r : BitVec 6) : StopsIn p (noPort s r) := by
  unfold noPort
  split
  · exact .error h
  · exact .ok ()

end

end Sys2Proof.Machine
end

section
/-!
What a load, a gather, a line instruction, a fence and a migration leave alone (R209-R217, R222).
-/

namespace Sys2Proof.Machine

section
variable {ds : List Reg} (s : State) (o : MOp)

/-! ### FIFO banks -/

theorem fifoTaken_reads (x n : Nat) : Reads ds s (s.fifoTaken x n) := by
  unfold State.fifoTaken State.setFifo
  exact .of_slots rfl rfl (.of_cells rfl rfl rfl)
theorem fifoPop_answers (a n : Nat) : AnswersIn (Reads ds s) (fifoPop s a n) := by
  unfold fifoPop
  dsimp only
  split
  · exact .error (Reads.refl ds s)
  · split
    · exact .error (Reads.refl ds s)
    · exact .ok (fifoTaken_reads s _ _)
theorem fifoChecks_stops {q : State → Prop} {s : State} (h : q s) (c : Cap) (a n : Nat) (m : BitVec 12) (d : BitVec 3) :
    StopsIn q (fifoChecks s c a n m d) :=
  (accessChecks_stops h c a n m .fifoCap 16).bind fun _ _ => guardR_stops h _ _ _ _

/-! ### Loads -/

theorem ldBody_runs (b : Bool) : RunsIn (GoesAndReads [.x o.od] s) (ldBody o b s) := by
  unfold ldBody
  refine .bind (accessChecks_stops (Reads.refl _ s).stays _ _ _ _ _ _) fun _ _ => travel_then fun u => ?_
  refine .bind (scWait_stops (.refl _ u) _ _) fun _ _ => ?_
  refine .bind ((loadBytes_answers u _ _ _ _ _ _).2.mono fun _ => Loads.reads) fun r hr => ?_
  exact .ok (((((loadBytes_answers u _ _ _ _ _ _).1 r hr).trans (acquired_asks r.2 _ _)).reads).wx (by simp) _)

theorem execLdc_goes {t : State} (e : execLdc o s = .next t) : GoesAndReads [.c o.od] s t := by
  refine finish_goes ?_ e
  dsimp only
  split
  · refine .bind (fifoChecks_stops (Reads.refl _ s).stays _ _ _ _ _) fun _ _ => ?_
    have hp := fifoPop_answers (ds := [.c o.od]) (s.goHome s.cur) (mEa s o) 1
    refine .bind (hp.2.mono fun _ => (goHome_stands s).reads.then_) fun r hr => ?_
    exact .ok ((goHome_stands s).reads.then_ ((hp.1 r hr).wc (by simp) _))
  · refine .bind (accessChecks_stops (Reads.refl _ s).stays _ _ _ _ _ _) fun _ _ => travel_then fun u => ?_
    refine .bind (scWait_stops (.refl _ u) _ _) fun _ _ => ?_
    refine .bind ((loadGran_answers u _ _ _ _ _).2.mono fun _ => Loads.reads) fun r hr => ?_
    exact .ok (((((loadGran_answers u _ _ _ _ _).1 r hr).trans (acquired_asks r.2 _ _)).reads).wc (by simp) _)

theorem execVld_goes {t : State} (e : execVld o s = .next t) : GoesAndReads [.v o.od] s t := by
  refine finish_goes (RunsIn.mono (q := Reads [.v o.od] s) ?_ fun _ => Reads.stays) e
  refine .bind (noPort_stops (.refl _ s) _) fun _ _ => ?_
  dsimp only
  split
  · refine .bind (fifoChecks_stops (.refl _ s) _ _ _ _ _) fun _ _ => .bind (fifoPop_answers s _ _).2 fun r hr => ?_
    exact .ok (((fifoPop_answers s _ _).1 r hr).wv (by simp) _)
  · refine .bind ((loadBytes_answers s _ _ _ _ _ _).2.mono fun _ => Loads.reads) fun r hr => ?_
    exact .ok (((((loadBytes_answers s _ _ _ _ _ _).1 r hr).trans (acquired_asks r.2 _ _)).reads).wv (by simp) _)

/-! ### Gathers -/

theorem laneRaise_stops {q : State → Prop} {s : State} (h : q s) (c n : Nat) (ls : List (Nat × Nat)) :
    StopsIn q (laneRaise s c n ls) := by
  unfold laneRaise
  split
  · exact .ok ()
  · exact .error h
theorem lanesChecked_stops {q : State → Prop} {s : State} (h : q s) (o : MOp) (m : BitVec 12) (d : Need) :
    StopsIn q (lanesChecked s o m d) := by
  unfold lanesChecked
  dsimp only
  split
  · exact (raise_stops h _ _ _).bind fun _ e => by cases e
  refine (laneRaise_stops h _ _ _).bind fun _ _ => (laneRaise_stops h _ _ _).bind fun _ _ => (guardR_stops h _ _ _ _).bind fun _ _ => ?_
  split
  · split
    · exact .error h
    · exact (laneRaise_stops h _ _ _).bind fun _ _ => .ok _
  · exact .ok _
/-- The registers that a gather writes. -/
def gathered (o : MOp) : List Reg := if o.x = 1 then [.v o.od, .k 7] else [.v o.od]
theorem supMask_reads {t : State} (h : Reads (gathered o) s t) (sup : List Nat) : Reads (gathered o) s (supMask o sup t) := by
  unfold supMask
  split
  · rename_i hx
    exact h.wk (by rw [gathered, if_pos (eq_of_beq hx)]; simp) _
  · exact h
theorem execVldg_goes {t : State} (e : execVldg o s = .next t) : GoesAndReads (gathered o) s t := by
  refine finish_goes (RunsIn.mono (q := Reads (gathered o) s) ?_ fun _ => Reads.stays) e
  refine .bind (noPort_stops (.refl _ s) _) fun _ _ => .bind (noPort_stops (.refl _ s) _) fun _ _ => ?_
  refine .bind (lanesChecked_stops (.refl _ s) _ _ _) fun r _ => ?_
  have hg := gatherLoad_answers (s.rc o.oa) (szBytes o.size) (mHint o) r.1 s
  refine .bind (hg.2.mono fun _ => Loads.reads) fun g hr => .ok (supMask_reads s o ?_ _)
  exact (hg.1 g hr).reads.wv (by unfold gathered; split <;> simp) _

/-! ### Lines, migration and fences -/

theorem lineChecks_then {f : State → R State} (h : ∀ u, RunsIn (Reads ds u) (f u)) :
    RunsIn (GoesAndReads ds s) (lineChecks s o >>= f) := by
  have he : lineChecks s o >>= f = accessChecks s (s.rc o.oa) (mEa s o) 1 pR .plain 1 >>= fun _ =>
      travel s (s.rc o.oa) (mEa s o) false >>= f := by
    show (accessChecks s (s.rc o.oa) (mEa s o) 1 pR .plain 1 >>= fun _ => travel s (s.rc o.oa) (mEa s o) false) >>= f = _
    cases accessChecks s (s.rc o.oa) (mEa s o) 1 pR .plain 1 <;> rfl
  rw [he]
  exact .bind (accessChecks_stops (Reads.refl _ s).stays _ _ _ _ _ _) fun _ _ => travel_then h
theorem prefLine_reads (c : Cap) (h : Hint) (p : Piece) : Reads ds s (prefLine s c h p) := by
  unfold prefLine
  have hr := reached_asks s s.world [p]
  generalize s.reached s.world [p] = u at hr ⊢
  dsimp only
  have hb : AnswersIn (Loads u) (bitmapsReadable u c [p] >>= fun _ => loadPiece u p h) :=
    .bind (bitmapsReadable_stops u c [p]) fun _ _ => readPiece_answers u (u.reader h) rfl p
  split
  · rename_i r he
    exact (hr.trans (hb.1 r he)).reads
  · split
    · refine hr.reads.trans ?_
      unfold State.sawLine
      split
      · exact ((listBad_loads u _ _).loads (listBad_slots u _ _)).reads
      · exact .refl ds u
    · exact hr.reads
theorem execPref_goes {t : State} (e : execPref o s = .next t) : GoesAndReads ([] : List Reg) s t := by
  refine finish_goes (lineChecks_then s o fun u => ?_) e
  split
  · split
    · exact .error (Reads.refl [] u)
    · exact .ok (.refl [] u)
  · split
    · exact .ok (.refl [] u)
    · exact .ok (prefLine_reads u _ _ _)
  · exact .ok (.refl [] u)
theorem dropLine_reads (w : World) (va : Nat) : Reads ds s (s.dropLine w va) :=
  .of_slots rfl rfl (.of_cells rfl rfl rfl)
theorem cleanLine_reads (w : World) (k va : Nat) : Reads ds s (s.cleanLine w k va) := by
  have hs : Reads ds s (s.sawLine w k va) := by
    unfold State.sawLine
    split
    · exact ((listBad_loads s _ _).loads (listBad_slots s _ _)).reads
    · exact .refl ds s
  unfold State.cleanLine
  exact hs.trans (.of_slots rfl rfl (.of_cells rfl rfl rfl))
theorem execLflush_goes {t : State} (e : execLflush o s = .next t) : GoesAndReads ([] : List Reg) s t := by
  refine finish_goes (lineChecks_then s o fun u => ?_) e
  split
  · split
    · exact .ok (.refl [] u)
    · exact .ok ((cleanLine_reads u _ _ _).trans (dropLine_reads _ _ _))
  · exact .ok (.refl [] u)
theorem execLinv_goes {t : State} (e : execLinv o s = .next t) : GoesAndReads ([] : List Reg) s t := by
  refine finish_goes (lineChecks_then s o fun u => ?_) e
  split
  · split
    · exact .ok (.refl [] u)
    · exact .ok (dropLine_reads u _ _)
  · exact .ok (.refl [] u)
theorem mapped_stops (c : Cap) (a n : Nat) (d : Need) : StopsIn (Loads s) (mapped s c a n d) := by
  unfold mapped
  refine (placed_stops (.refl s) _ _ _ _).bind fun ps _ => ?_
  split
  · exact .error (askPage_asks s _ _ _)
  · exact .ok ()
theorem execMig_goes {t : State} (e : execMig o s = .next t) : GoesAndReads ([] : List Reg) s t := by
  refine finish_goes (.bind (accessChecks_stops (Reads.refl _ s).stays _ _ _ _ _ _) fun _ _ => ?_) e
  split
  · exact .ok (Reads.refl _ s).stays
  · exact travel_then fun u => .bind ((mapped_stops u _ _ _ _).mono fun _ => Loads.reads) fun _ _ => .ok (.refl [] u)
theorem execHome_goes (f : ROp) {t : State} (e : execHome f s = .next t) : GoesAndReads ([] : List Reg) s t :=
  finish_goes (b := fun s => .ok (s.goHome s.cur)) (.ok (goHome_stands s).reads) e
theorem execFence_goes (f : ROp) {t : State} (e : execFence f s = .next t) : GoesAndReads ([] : List Reg) s t := by
  refine finish_goes (RunsIn.mono (q := Reads [] s) ?_ fun _ => Reads.stays) e
  dsimp only
  split
  · exact .bind (releaseWait_stops (.refl [] s) _) fun _ _ => .ok (acquired_asks s _ _).reads
  · exact .ok (acquired_asks s _ _).reads

end

/-- A load, a gather, a line instruction, a fence or a migration leaves memory and every register but its destination. -/
theorem loads_keep (s t : State) (o : MOp) (f : ROp) :
    ∀ p ∈ [(Instr.ld o, [Reg.x o.od]), (.ldm o, [.x o.od]), (.ldc o, [.c o.od]), (.vld o, [.v o.od]),
        (.vldg o, gathered o), (.pref o, []), (.lflush o, []), (.linv o, []), (.fence f, []), (.mig o, []), (.home f, [])],
      exec p.1 s = .next t → GoesAndReads p.2 s t := by
  simp only [List.forall_mem_cons]
  exact ⟨finish_goes (ldBody_runs s o false), finish_goes (ldBody_runs s o true), execLdc_goes s o, execVld_goes s o,
    execVldg_goes s o, execPref_goes s o, execLflush_goes s o, execLinv_goes s o, execFence_goes s f, execMig_goes s o,
    execHome_goes s f, by simp⟩

end Sys2Proof.Machine
end

section
/-!
What a store leaves alone (R195, R210, R213, R378, R399): memory outside the spans it stores, and in its slot everything but
the marks of its monitors and what it has asked of peers.
-/

namespace Sys2Proof.Machine

/-! ### Memory outside spans -/

section
variable {sp sq : List (Nat × Nat)} {gs fs : List Nat}

theorem outside.of_subset {a : Nat} (h : outside sq a) (k : ∀ p ∈ sp, p ∈ sq) : outside sp a := fun p m => h p (k p m)
theorem apart.of_subset {a : Nat} (h : apart sq a) (k : ∀ p ∈ sp, p ∈ sq) : apart sp a := fun p m => h p (k p m)
/-- A key outside a span is outside a shorter one. -/
theorem outside_shorter {k m n a : Nat} (h : outside [(k, m)] a) (e : n ≤ m) : outside [(k, n)] a := by
  intro p hp
  rw [List.mem_singleton.mp hp]
  have := h (k, m) List.mem_cons_self
  dsimp only at this ⊢
  omega
theorem apart_shorter {k m n a : Nat} (h : apart [(k, m)] a) (e : n ≤ m) : apart [(k, n)] a := by
  intro p hp
  rw [List.mem_singleton.mp hp]
  have := h (k, m) List.mem_cons_self
  dsimp only at this ⊢
  omega
theorem natHas_congr {l m : List Nat} (hl : l.Pairwise (· < ·)) (hm : m.Pairwise (· < ·)) {a : Nat} (h : a ∈ l ↔ a ∈ m) :
    natHas l a = natHas m a :=
  Bool.eq_iff_iff.mpr ((natHas_iff hl a).trans (h.trans (natHas_iff hm a).symm))
theorem mem_natAdd_iff (l : List Nat) (k a : Nat) : a ∈ natAdd l k ↔ a = k ∨ a ∈ l := by
  refine ⟨mem_natAdd, ?_⟩
  induction l with
  | nil => simp [natAdd]
  | cons b t ih =>
    simp only [natAdd]
    split_ifs with h1 h2
    · simp
    · subst h2; simp
    · simp only [List.mem_cons]
      rintro (rfl | rfl | h)
      · exact .inr (ih (.inl rfl))
      · exact .inl rfl
      · exact .inr (ih (.inr h))
theorem mem_natSet_other {l : List Nat} (h : l.Pairwise (· < ·)) {k a : Nat} (v : Bool) (e : a ≠ k) :
    a ∈ natSet l k v ↔ a ∈ l := by
  cases v
  · exact (mem_natDel_iff h k a).trans (and_iff_left e)
  · exact (mem_natAdd_iff l k a).trans (or_iff_right e)

/-- `t` is what stores into `sp`, and changes of the F bits `gs`, have made of `s`. -/
structure Stored (sp : List (Nat × Nat)) (gs : List Nat) (s t : State) : Prop where
  cur : t.cur = s.cur
  goes : SlotGoes [] s.sl t.sl
  wf : Memory.wf s → Memory.wf t
  outside : Memory.wf s → SameOutside sp gs s t
  lines : ∀ l ∈ t.badLines, l ∈ s.badLines
  grans : ∀ g ∈ t.badGrans, g ∈ s.badGrans
  arms : t.cwinArms = s.cwinArms

theorem SameOutside.of_same {s t : State} (h : SameMemory s t) : SameOutside sp gs s t :=
  ⟨fun a _ _ _ => h.mem a, fun a _ _ _ => h.tags a, fun a _ => h.full a⟩
theorem cwinArms_congr {s t : State} (h : t.cwins = s.cwins) : t.cwinArms = s.cwinArms := by
  funext w key va bs
  simp only [State.cwinArms, State.cwinAt, h]

section
variable {s t u : State}

/-- Memory, what is in error and the collective windows are as they were. -/
theorem Stored.of_same (c : t.cur = s.cur) (g : SlotGoes [] s.sl t.sl) (m : t.mem = s.mem ∧ t.tags = s.tags ∧ t.full = s.full)
    (b : t.badLines = s.badLines ∧ t.badGrans = s.badGrans) (w : t.cwins = s.cwins) : Stored sp gs s t :=
  ⟨c, g, fun h => wf_of_cells h m.1 m.2.1 m.2.2, fun _ => .of_same (.of_cells m.1 m.2.1 m.2.2), by simp [b.1], by simp [b.2],
    cwinArms_congr w⟩
/-- And so are the slots. -/
theorem Stored.of_slots (e : t.slots = s.slots) (c : t.cur = s.cur) (m : t.mem = s.mem ∧ t.tags = s.tags ∧ t.full = s.full)
    (b : t.badLines = s.badLines ∧ t.badGrans = s.badGrans) (w : t.cwins = s.cwins) : Stored sp gs s t := by
  have hs : t.sl = s.sl := by simp only [State.sl, e, c]
  exact .of_same c (by rw [hs]; exact .refl [] _) m b w
theorem Stored.refl (s : State) : Stored sp gs s s := .of_slots rfl rfl ⟨rfl, rfl, rfl⟩ ⟨rfl, rfl⟩ rfl
theorem Stored.mono (h : Stored sp gs s t) (k : ∀ p ∈ sp, p ∈ sq) (l : ∀ g ∈ gs, g ∈ fs) : Stored sq fs s t :=
  ⟨h.cur, h.goes, h.wf, fun w => ⟨fun a hl hg ho => (h.outside w).bytes a hl hg (ho.of_subset k),
    fun a hl hg ho => (h.outside w).tags a hl hg (ho.of_subset k), fun a ha => (h.outside w).full a fun e => ha (l _ e)⟩,
    h.lines, h.grans, h.arms⟩
theorem Stored.any (h : Stored [] [] s t) : Stored sp gs s t := h.mono (by simp) (by simp)
theorem Stored.trans (h : Stored sp gs s t) (k : Stored sp gs t u) : Stored sp gs s u :=
  ⟨k.cur.trans h.cur, h.goes.trans k.goes, fun w => k.wf (h.wf w),
    fun w => ⟨fun a hl hg ho => ((k.outside (h.wf w)).bytes a (fun e => hl (h.lines _ e)) (fun e => hg (h.grans _ e)) ho).trans
        ((h.outside w).bytes a hl hg ho),
      fun a hl hg ho => ((k.outside (h.wf w)).tags a (fun e => hl (h.lines _ e)) (fun e => hg (h.grans _ e)) ho).trans
        ((h.outside w).tags a hl hg ho),
      fun a ha => ((k.outside (h.wf w)).full a ha).trans ((h.outside w).full a ha)⟩,
    fun l e => h.lines l (k.lines l e), fun g e => h.grans g (k.grans g e), k.arms.trans h.arms⟩
theorem Stored.then_ (h : Stored sp gs s t) (k : Stored [] [] t u) : Stored sp gs s u := h.trans k.any
theorem Stored.shorter {k m n : Nat} (h : Stored [(k, n)] gs s t) (e : n ≤ m) : Stored [(k, m)] gs s t :=
  { h with outside := fun w => ⟨fun a hl hg ho => (h.outside w).bytes a hl hg (outside_shorter ho e),
      fun a hl hg ho => (h.outside w).tags a hl hg (apart_shorter ho e), (h.outside w).full⟩ }
theorem Stored.foldl {α : Type} {f : State → α → State} {l : List α} (hf : ∀ a ∈ l, ∀ t, Stored sp gs s t → Stored sp gs s (f t a))
    (h : Stored sp gs s t) : Stored sp gs s (l.foldl f t) := by
  induction l generalizing t with
  | nil => exact h
  | cons a l ih => exact ih (fun b m => hf b (List.mem_cons_of_mem _ m)) (hf a List.mem_cons_self t h)
theorem Stored.world (h : Stored sp gs s t) : t.world = s.world := h.goes.specials.world

theorem Loads.stored (h : Loads s t) : Stored sp gs s t := by
  refine .of_same h.slots.1 h.slots.sl.goes ⟨?_, ?_, ?_⟩ ⟨?_, ?_⟩ ?_ <;> rw [h.only.1]
/-- Bytes and T bits are replaced: the bytes and bits that differ lie in the spans, or in lines and granules in error. -/
theorem Stored.cells (h : Stored sp gs s t)
    (e : u = { t with mem := u.mem, tags := u.tags, badLines := u.badLines, badGrans := u.badGrans, blList := u.blList,
                      notices := u.notices })
    (m : cellsWf t.mem → cellsWf u.mem ∧ ∀ a, a / 128 ∉ s.badLines → a / 16 ∉ s.badGrans → Machine.outside sp a →
      cellGet u.mem a = cellGet t.mem a)
    (g : t.tags.Pairwise (· < ·) → u.tags.Pairwise (· < ·) ∧ ∀ a, a / 128 ∉ s.badLines → a / 16 ∉ s.badGrans → apart sp a →
      (a / 16 ∈ u.tags ↔ a / 16 ∈ t.tags))
    (l : ∀ l ∈ u.badLines, l ∈ t.badLines) (b : ∀ g ∈ u.badGrans, g ∈ t.badGrans) : Stored sp gs s u := by
  have hs : u.sl = t.sl := by rw [e]; rfl
  have hf : u.full = t.full := by rw [e]
  have hw : cellsWf t.mem → t.tags.Pairwise (· < ·) → t.full.Pairwise (· < ·) → Memory.wf u := fun w1 w2 w3 =>
    ⟨(m w1).1, (g w2).1, by rw [hf]; exact w3⟩
  refine ⟨?_, ?_, fun w => hw (h.wf w).1 (h.wf w).2.1 (h.wf w).2.2, fun w => ?_, fun x k => h.lines x (l x k),
    fun x k => h.grans x (b x k), (cwinArms_congr ?_).trans h.arms⟩
  · rw [← h.cur, e]
  · rw [hs]; exact h.goes
  · obtain ⟨w1, w2, w3⟩ := h.wf w
    refine ⟨fun a hl hg ho => ((m w1).2 a hl hg ho).trans ((h.outside w).bytes a hl hg ho), fun a hl hg ho => ?_, fun a ha => ?_⟩
    · exact (natHas_congr (g w2).1 w2 ((g w2).2 a hl hg ho)).trans ((h.outside w).tags a hl hg ho)
    · have := (h.outside w).full a ha
      simpa only [State.fullAt, hf] using this
  · rw [e]

end

/-! ### Monitors -/

theorem trigMons_watch (s : State) (i : SlotId) (e : Seen) (b : Slot) :
    SameWatch { b with mons := s.trigMons i e } { b with mons := (s.slot i).mons } := by
  intro j
  simp only [State.trigMons, Fin.getElem_fin, Vector.getElem_map]
  split <;> exact ⟨rfl, rfl, rfl⟩
theorem trigSlots_goes (e : Seen) (is : List SlotId) (s : State) (i : SlotId) :
    SlotGoes [] (s.slot i) ((s.trigSlots e is).slot i) := by
  induction is generalizing s with
  | nil => exact .refl [] _
  | cons j js ih =>
    have hs : SlotGoes [] (s.slot i) ((s.modSlot j fun sl => { sl with mons := s.trigMons j e }).slot i) := by
      by_cases h : i = j
      · subst h
        rw [modSlot_slot]
        exact ⟨.of_files rfl rfl rfl rfl rfl, ⟨rfl, rfl, rfl, rfl, rfl, rfl, rfl, rfl, rfl⟩, trigMons_watch s i e (s.slot i)⟩
      · rw [modSlot_other s j i _ h]
        exact .refl [] _
    unfold State.trigSlots
    dsimp only
    refine SlotGoes.trans ?_ (ih _)
    split
    · exact .refl [] _
    · split <;> exact hs
theorem triggerBy_slots (s : State) (e : Seen) : (s.triggerBy e).slots = (s.trigSlots e allSlots).slots := by
  unfold State.triggerBy
  dsimp only
  rw [trigTows_eq]
theorem triggerBy_stored (s : State) (e : Seen) : Stored sp gs s (s.triggerBy e) := by
  have hg : SlotGoes [] s.sl (s.triggerBy e).sl := by
    have hc : (s.triggerBy e).cur = s.cur := by rw [triggerBy_eq]
    simp only [State.sl, hc, triggerBy_slots]
    exact trigSlots_goes e allSlots s s.cur
  have he := triggerBy_eq s e
  generalize s.triggerBy e = t at hg he
  refine .of_same ?_ hg ⟨?_, ?_, ?_⟩ ⟨?_, ?_⟩ ?_ <;> rw [he]

/-! ### Writes -/

theorem mem_filter_contains {l m : List Nat} {a : Nat} (h : a ∈ l.filter m.contains) : a ∈ m := by
  simpa using (List.mem_filter.mp h).2
/-- A line in error becomes zero. -/
theorem zeroLine_stored {s t : State} (h : Stored sp gs s t) {l : Nat} (hl : l ∈ s.badLines) (z : List Byte) (hz : z.length = 128) :
    Stored sp gs s (({ t with mem := cellsWrite t.mem (128 * l) z,
                              tags := clearTags t.tags (granules (128 * l) 128) } : State).unlistLine l) := by
  refine h.cells rfl (fun w => ⟨cellsWrite_wf w _ _, fun a h1 _ _ => ?_⟩) (fun w => ⟨clearTags_rising w _, fun a h1 _ _ => ?_⟩)
    (fun _ h => (List.mem_filter.mp h).1) fun _ h => h
  · refine cellGet_cellsWrite_of_outside w ?_
    rw [hz]
    by_contra hc
    exact h1 ((show a / 128 = l by omega) ▸ hl)
  · refine (mem_clearTags_iff w _ _).trans (and_iff_left fun e => ?_)
    rw [mem_granules] at e
    exact h1 ((show a / 128 = l by omega) ▸ hl)
/-- A granule in error becomes zero. -/
theorem zeroGran_stored {s t : State} (h : Stored sp gs s t) {g : Nat} (hg : g ∈ s.badGrans) (z : List Byte) (hz : z.length = 16) :
    Stored sp gs s (({ t with mem := cellsWrite t.mem (16 * g) z, tags := natDel t.tags g,
                              badGrans := t.badGrans.filter (· != g) } : State).notice (.blFix (g / 8))) := by
  refine h.cells rfl (fun w => ⟨cellsWrite_wf w _ _, fun a _ h2 _ => ?_⟩) (fun w => ⟨natDel_rising w _, fun a _ h2 _ => ?_⟩)
    (fun _ h => h) fun _ h => (List.mem_filter.mp h).1
  · refine cellGet_cellsWrite_of_outside w ?_
    rw [hz]
    by_contra hc
    exact h2 ((show a / 16 = g by omega) ▸ hg)
  · exact (mem_natDel_iff w _ _).trans (and_iff_left fun e => h2 (e ▸ hg))
theorem repair_stored (s : State) (k n : Nat) : Stored sp gs s (s.repair k n) := by
  unfold State.repair
  generalize hy : List.replicate 128 (0 : Byte) = y
  generalize hz : List.replicate 16 (0 : Byte) = z
  have h1 := Stored.foldl (sp := sp) (gs := gs) (l := (linesOf k n).filter s.badLines.contains) (fun l hl t ht =>
    zeroLine_stored ht (mem_filter_contains hl) y (by rw [← hy, List.length_replicate])) (Stored.refl s)
  dsimp only at h1 ⊢
  generalize List.foldl _ s _ = u at h1 ⊢
  exact Stored.foldl (fun g hg t ht =>
    zeroGran_stored ht (h1.grans g (mem_filter_contains hg)) z (by rw [← hz, List.length_replicate])) h1
theorem writeBytes_stored (s : State) (k : Nat) (bs : List Byte) : Stored [(k, bs.length)] gs s (s.writeBytes k bs) := by
  unfold State.writeBytes
  split
  · exact .refl s
  · have hr : Stored [(k, bs.length)] gs s (s.repair k bs.length) := repair_stored s k bs.length
    generalize s.repair k bs.length = u at hr ⊢
    have hw : Stored [(k, bs.length)] gs s
        { u with mem := cellsWrite u.mem k bs, tags := if keyIsHost k then u.tags else clearTags u.tags (granules k bs.length) } := by
      refine hr.cells rfl (fun w => ⟨cellsWrite_wf w _ _, fun a _ _ ho => ?_⟩) (fun w => ?_) (fun _ h => h) fun _ h => h
      · exact cellGet_cellsWrite_of_outside w (ho _ List.mem_cons_self)
      · dsimp only
        split
        · exact ⟨w, fun _ _ _ _ => .rfl⟩
        · refine ⟨clearTags_rising w _, fun a _ _ ho => (mem_clearTags_iff w _ _).trans (and_iff_left fun e => ?_)⟩
          rw [mem_granules] at e
          have := ho _ List.mem_cons_self
          dsimp only at this
          omega
    refine hw.trans (Stored.trans ?_ (triggerBy_stored _ (.mem k bs.length)))
    exact .of_slots rfl rfl ⟨rfl, rfl, rfl⟩ ⟨rfl, rfl⟩ rfl
theorem setFull_stored (s : State) (g : Nat) (v : Bool) : Stored sp [g] s (s.setFull g v) := by
  have hc : ∀ t : State, Stored sp [g] t (t.fullChanged g) := fun t => by
    unfold State.fullChanged
    split <;> exact .of_slots rfl rfl ⟨rfl, rfl, rfl⟩ ⟨rfl, rfl⟩ rfl
  unfold State.setFull
  dsimp only
  split
  · exact .of_slots rfl rfl ⟨rfl, rfl, rfl⟩ ⟨rfl, rfl⟩ rfl
  · refine Stored.trans ?_ (hc _)
    refine ⟨rfl, .refl [] _, fun w => wf_mk w.1 w.2.1 (natSet_rising w.2.2 g v), fun w => ⟨fun _ _ _ _ => rfl, fun _ _ _ _ => rfl,
      fun a ha => ?_⟩, fun _ h => h, fun _ h => h, rfl⟩
    exact natHas_congr (natSet_rising w.2.2 g v) w.2.2 (mem_natSet_other w.2.2 v fun e => ha (by rw [e]; exact List.mem_cons_self))

end

end Sys2Proof.Machine
end

section
/-!
The pieces of a store (R210, R269, R353, R392, R399): where each is performed, logged or sent, and the spans it stores.
-/

namespace Sys2Proof.Machine

section
variable {sp : List (Nat × Nat)} {gs : List Nat}

/-! ### A store is performed -/

/-- The timer of a window is no part of where the window lies. -/
theorem timer_stored (s : State) (i : Fin 16) :
    Stored sp gs s { s with cwins := s.cwins.set i ((s.cwins[i]).map fun c => { c with timer := false }) } := by
  refine ⟨rfl, .refl [] _, fun w => w, fun _ => .of_same (.of_cells rfl rfl rfl), fun _ h => h, fun _ h => h, ?_⟩
  have hm : ∀ j : Fin 16, (s.cwins.set i ((s.cwins[i]).map fun c => { c with timer := false }))[j] =
      if j = i then (s.cwins[j]).map fun c => { c with timer := false } else s.cwins[j] := by
    intro j
    by_cases e : j = i
    · subst e; rw [if_pos rfl]; exact Vector.getElem_set_self j.isLt
    · rw [if_neg e]; exact Vector.getElem_set_ne i.isLt j.isLt fun h => e (Fin.ext h.symm)
  funext w key va bs
  have hat : ∀ t : State, t.cwins = s.cwins.set i ((s.cwins[i]).map fun c => { c with timer := false }) →
      t.cwinAt w va = s.cwinAt w va := by
    intro t ht
    unfold State.cwinAt
    refine congrArg (fun p => (List.finRange 16).find? p) (funext fun j => ?_)
    rw [ht, hm]
    by_cases e : j = i
    · rw [if_pos e]; cases s.cwins[j] <;> rfl
    · rw [if_neg e]
  unfold State.cwinArms
  rw [hat _ rfl]
  cases (if keyIsCl key = true then none else s.cwinAt w va) with
  | none => rfl
  | some j =>
    dsimp only
    rw [hm]
    by_cases e : j = i
    · rw [if_pos e]; cases s.cwins[j] <;> rfl
    · rw [if_neg e]
theorem cwinOpen_stored (s : State) (i : Fin 16) (k : Nat) : Stored [(k, 20)] gs s (s.cwinOpen i k) := by
  have hw : ∀ (t : State) (j : Nat) (bs : List Byte), k ≤ j → j + bs.length ≤ k + 20 → Stored [(k, 20)] gs t (t.writeBytes j bs) := by
    intro t j bs h1 h2
    have h := writeBytes_stored (gs := gs) t j bs
    refine { h with outside := fun w => ⟨fun a hl hg ho => (h.outside w).bytes a hl hg ?_, fun a hl hg ho =>
      (h.outside w).tags a hl hg ?_, (h.outside w).full⟩ } <;>
    · intro p hp
      rw [List.mem_singleton.mp hp]
      have := ho _ List.mem_cons_self
      dsimp only at this ⊢
      omega
  have h1 := hw s k (leBytes 8 0) (Nat.le_refl k) (by simp only [leBytes_length]; omega)
  unfold State.cwinOpen
  dsimp only
  generalize s.writeBytes k (leBytes 8 0) = u at h1 ⊢
  have h2 := hw u (k + 8) (leBytes 8 ((s.nat (k + 8) 4 + 1) % 2 ^ 32)) (by omega) (by simp only [leBytes_length]; omega)
  generalize u.writeBytes (k + 8) (leBytes 8 ((s.nat (k + 8) 4 + 1) % 2 ^ 32)) = v at h2 ⊢
  have h3 := hw v (k + 16) (leBytes 4 0) (by omega) (by simp only [leBytes_length]; omega)
  exact ((h1.trans h2).trans h3).trans (timer_stored _ i)

/-- The T bits of a store's granules are written. -/
theorem tags_stored {s : State} {k n m : Nat} (e : n ≤ m) (ts : List Bool) :
    Stored [(k, m)] gs s (((granules k n).zip ts).foldl (fun s g => { s with tags := natSet s.tags g.1 g.2 }) s) := by
  refine Stored.foldl (fun g hg t ht => ?_) (.refl s)
  refine ht.cells rfl (fun w => ⟨w, fun _ _ _ _ => rfl⟩) (fun w => ⟨natSet_rising w _ _, fun a _ _ ho => ?_⟩) (fun _ h => h) fun _ h => h
  refine mem_natSet_other w _ fun ha => ?_
  have hm : g.1 ∈ granules k n := (List.of_mem_zip hg).1
  rw [mem_granules] at hm
  have := ho _ List.mem_cons_self
  dsimp only at this
  omega
theorem sealAt_stored (s : State) (w : World) (va k n : Nat) : Stored sp gs s (s.sealAt w va k n) := by
  unfold State.sealAt
  split
  · exact .refl s
  · split
    · exact Stored.foldl (fun l _ t ht => ht.trans (.of_slots rfl rfl ⟨rfl, rfl, rfl⟩ ⟨rfl, rfl⟩ rfl)) (.refl s)
    · exact .of_slots rfl rfl ⟨rfl, rfl, rfl⟩ ⟨rfl, rfl⟩ rfl
theorem dropCopy_stored (s : State) (l : Nat) (d : Fin 4) : Stored sp gs s (s.dropCopy l d) :=
  .of_slots rfl rfl ⟨rfl, rfl, rfl⟩ ⟨rfl, rfl⟩ rfl
theorem dupWrite_stored (s : State) (own : Bool) (k n : Nat) : Stored sp gs s (s.dupWrite own k n) := by
  unfold State.dupWrite
  split
  · exact .refl s
  · dsimp only
    have hf : ∀ l : List (Nat × Fin 4), Stored sp gs s (l.foldl (fun s d => s.dropCopy d.1 d.2) s) := fun l =>
      Stored.foldl (fun d _ t ht => ht.trans (dropCopy_stored t d.1 d.2)) (.refl s)
    refine (hf ((s.dupHeld.filter fun d => (linesOf k n).contains d.1).filter fun d => own && d.2.val == s.die)).trans ?_
    exact .of_slots rfl rfl ⟨rfl, rfl, rfl⟩ ⟨rfl, rfl⟩ rfl
theorem setCache_stored (s : State) (c : Cache) : Stored sp gs s (s.setCache c) :=
  .of_slots rfl rfl ⟨rfl, rfl, rfl⟩ ⟨rfl, rfl⟩ rfl
theorem stored_stored (s : State) (i : SlotId) (w : World) (h : Hint) (k va : Nat) (bs : List Byte) (ts : List Bool) :
    Stored sp gs s (s.stored i w h k va bs ts) := by
  have hc : ∀ t : State, Stored sp gs t (t.cacheStore w va bs ts) := fun t => by
    unfold State.cacheStore
    split
    · exact .refl t
    · exact setCache_stored t _
  have ht : ∀ t : State, Stored sp gs t (t.storeTouch i w h va bs.length) := fun t => by
    unfold State.storeTouch
    split
    · exact .refl t
    · dsimp only
      split
      · exact setCache_stored t _
      · refine Stored.foldl (fun l _ u hu => ?_) (setCache_stored t _)
        split
        · exact hu.trans (setCache_stored u _)
        · exact hu
  unfold State.stored
  split
  · exact .refl s
  · exact ((hc s).trans (ht _)).trans ((touchQuays_loads _ _ _ _ _ _ _ _).loads (touchQuays_slots _ _ _ _ _ _ _ _)).stored
/-- What follows the bytes of a store: T bits, seals and caches. -/
def State.afterStore (s : State) (i : SlotId) (own : Bool) (w : World) (h : Hint) (key va : Nat) (bs : List Byte)
    (tags : List Bool) (bad : List Nat) : State :=
  let s := (granules key bs.length).zip tags |>.foldl (fun s g => { s with tags := natSet s.tags g.1 g.2 }) s
  let s := s.sealAt w va key bs.length
  if own then bad.foldl (fun s l => s.dropLine w (va + 128 * l - key)) (s.stored i w h key va bs tags) else s
theorem performAt_none {s : State} {w : World} {key va : Nat} {bs : List Byte} {i : SlotId} {own : Bool} {h : Hint} {ts : List Bool}
    (e : (s.dupWrite own key bs.length).cwinArms w key va bs = none) : s.performAt i own w h key va bs ts =
      ((s.dupWrite own key bs.length).writeBytes key bs).afterStore i own w h key va bs ts
        ((linesOf key bs.length).filter s.badLines.contains) := by
  simp only [State.performAt, e, State.afterStore]
theorem performAt_some {s : State} {w : World} {key va : Nat} {bs : List Byte} {i : SlotId} {own : Bool} {h : Hint} {ts : List Bool}
    {j : Fin 16} (e : (s.dupWrite own key bs.length).cwinArms w key va bs = some j) : s.performAt i own w h key va bs ts =
      ((s.dupWrite own key bs.length).cwinOpen j key).afterStore i own w h key va bs ts
        ((linesOf key bs.length).filter s.badLines.contains) := by
  simp only [State.performAt, e, State.afterStore]
theorem afterStore_stored (s : State) (i : SlotId) (own : Bool) (w : World) (h : Hint) (key va : Nat) (bs : List Byte)
    (ts : List Bool) (bad : List Nat) {m : Nat} (e : bs.length ≤ m) :
    Stored [(key, m)] gs s (s.afterStore i own w h key va bs ts bad) := by
  have ht := (tags_stored (gs := gs) (s := s) (k := key) e ts).then_ (sealAt_stored _ w va key bs.length)
  unfold State.afterStore
  split
  · exact Stored.foldl (fun l _ t ht => ht.trans (setCache_stored t _)) (ht.then_ (stored_stored _ _ _ _ _ _ _ _))
  · exact ht
/-- A window is armed by eight bytes. -/
theorem cwinArms_length {s : State} {w : World} {key va : Nat} {bs : List Byte} {j : Fin 16}
    (h : s.cwinArms w key va bs = some j) : bs.length = 8 := by
  unfold State.cwinArms at h
  split at h
  · split at h
    · split at h
      · rename_i h8
        simp only [Bool.and_eq_true, beq_iff_eq] at h8
        exact h8.1.2
      · cases h
    · cases h
  · cases h
/-- A store that is performed writes its bytes, or opens its collective window again. -/
theorem performAt_stored (s : State) (i : SlotId) (own : Bool) (w : World) (h : Hint) (key va : Nat) (bs : List Byte)
    (ts : List Bool) : Stored [(key, if (s.cwinArms w key va bs).isSome then 20 else bs.length)] gs s
      (s.performAt i own w h key va bs ts) := by
  have hd : Stored ([] : List (Nat × Nat)) [] s (s.dupWrite own key bs.length) := dupWrite_stored s own key bs.length
  rw [← hd.arms]
  cases hj : (s.dupWrite own key bs.length).cwinArms w key va bs with
  | none =>
    rw [performAt_none hj]
    exact hd.any.trans ((writeBytes_stored _ _ _).trans (afterStore_stored _ _ _ _ _ _ _ _ _ _ (Nat.le_refl _)))
  | some j =>
    have h8 := cwinArms_length hj
    rw [performAt_some hj]
    exact hd.any.trans ((cwinOpen_stored _ _ _).trans (afterStore_stored _ _ _ _ _ _ _ _ _ _ (by rw [h8]; decide)))

end

end Sys2Proof.Machine
end

section
/-!
The stores of a slot, of a granule and of a scatter (R210-R214), and what a store, a scatter and an access to a full/empty
granule leave alone.
-/

namespace Sys2Proof.Machine

section
variable {sp : List (Nat × Nat)} {gs : List Nat}

/-! ### Where a piece goes that is not performed -/

theorem sendPacket_stored (s : State) (p : PeerStore) : Stored sp gs s (s.sendPacket p) := by
  have h : Stored sp gs s { s with peerOut := s.peerOut ++ [{ p with num := s.opCtr }], opCtr := s.opCtr + 1 } :=
    .of_slots rfl rfl ⟨rfl, rfl, rfl⟩ ⟨rfl, rfl⟩ rfl
  exact h.trans (triggerBy_stored _ _)
theorem sendPeer_stored (s : State) (p : PeerStore) (bs : List Byte) (ts : List Bool) : Stored sp gs s (s.sendPeer p bs ts) := by
  unfold State.sendPeer
  generalize peerPackets bs ts = ds
  exact Stored.foldl (fun d _ t ht => ht.trans (sendPacket_stored t _)) (.refl s)
theorem logPiece_runs (s : State) (q : Fin 128) (p : Piece) (bs : List Byte) (ts : List Bool) (k : StoreAs) :
    RunsIn (Stored sp gs s) (logPiece s q p bs ts k) := by
  unfold logPiece logStore
  split
  · exact .ok (.of_slots rfl rfl ⟨rfl, rfl, rfl⟩ ⟨rfl, rfl⟩ rfl)
  · exact .error (Stored.refl s)
theorem postRec_stored (s : State) (i : SlotId) (f : Fail) (pc insn : Word) : Stored sp gs s (s.postRec i f pc insn) := by
  have hk := (sawError_kept s (s.slot i).world f).kept_trans (enqueueRec_kept _ none (mkRec s i f pc insn false))
  have he : s.postRec i f pc insn = (s.sawError (s.slot i).world f).enqueueRec none (mkRec s i f pc insn false) := rfl
  rw [← he] at hk
  refine .of_same hk.1 hk.ends.sl.goes ?_ ?_ ?_ <;> rw [he, enqueueRec_eq] <;> unfold State.sawError <;> split <;>
    first | exact ⟨rfl, rfl, rfl⟩ | exact ⟨rfl, rfl⟩ | rfl
theorem storeFails_runs (s : State) (k : StoreAs) (va c a : Nat) : RunsIn (Stored sp gs s) (storeFails s k va c a) := by
  unfold storeFails
  split
  · exact .ok (postRec_stored s _ _ _ _)
  · exact .error (Stored.refl s)

/-! ### Pieces -/

/-- The spans of one piece of a store. -/
def State.pieceSpans (s : State) (p : Piece) (bs : List Byte) : List (Nat × Nat) :=
  match p.place with
  | .at key _ => [(key, if (s.cwinArms s.world key p.va bs).isSome then 20 else bs.length)]
  | .host port iova => [(hostKey port iova, bs.length)]
  | _ => []
theorem storeSpans_cons (s : State) (p : Piece) (ps : List Piece) (bs : List Byte) :
    storeSpans s (p :: ps) bs = s.pieceSpans p (bs.take p.len) ++ storeSpans s ps (bs.drop p.len) := rfl
theorem storeSpans_congr {s t : State} (a : t.cwinArms = s.cwinArms) (w : t.world = s.world) (ps : List Piece) (bs : List Byte) :
    storeSpans t ps bs = storeSpans s ps bs := by
  induction ps generalizing bs with
  | nil => rfl
  | cons p ps ih => rw [storeSpans_cons, storeSpans_cons, ih, State.pieceSpans, State.pieceSpans, a, w]
theorem mergeKeep_none (os bs : List Byte) : mergeKeep os bs [] = bs := by cases os <;> cases bs <;> rfl

theorem storePiece_runs (s : State) (p : Piece) (bs : List Byte) (ts : List Bool) (k : StoreAs) (hk : k.keep = []) :
    RunsIn (Stored (s.pieceSpans p bs) gs s) (storePiece s p bs ts k) ∧ StopsIn (Stored [] [] s) (storePiece s p bs ts k) := by
  obtain ⟨pl, va, len⟩ := p
  have hl : ∀ q, RunsIn (Stored (sp := s.pieceSpans ⟨pl, va, len⟩ bs) gs s) (logPiece s q ⟨pl, va, len⟩ bs ts k) ∧
      StopsIn (Stored [] [] s) (logPiece s q ⟨pl, va, len⟩ bs ts k) := fun q =>
    ⟨logPiece_runs s q _ bs ts k, (logPiece_runs s q _ bs ts k).2⟩
  have hf : ∀ a c x, RunsIn (Stored (sp := s.pieceSpans ⟨pl, va, len⟩ bs) gs s) (storeFails s k a c x) ∧
      StopsIn (Stored [] [] s) (storeFails s k a c x) := fun a c x => ⟨storeFails_runs s k a c x, (storeFails_runs s k a c x).2⟩
  have hr : ∀ a c x, RunsIn (Stored (sp := s.pieceSpans ⟨pl, va, len⟩ bs) gs s) (raise s a c x) ∧
      StopsIn (Stored [] [] s) (raise s a c x : R State) := fun a c x => ⟨.error (Stored.refl s), .error (Stored.refl s)⟩
  unfold storePiece
  split
  · exact hl _
  cases pl with
  | bad f => exact hr _ _ _
  | hold =>
    have ha := fun w a y => askPage_asks s w a y
    exact ⟨(logPiece_runs _ _ _ _ _ _).mono fun _ => (ha _ _ _).stored.trans,
      (logPiece_runs _ _ _ _ _ _).2.mono fun _ => (ha _ _ _).stored.trans⟩
  | host port iova =>
    dsimp only
    split
    · rw [hk, mergeKeep_none]
      exact ⟨.ok (writeBytes_stored s _ bs), .ok _⟩
    · exact hr _ _ _
  | peer dev rva =>
    dsimp only
    split
    · exact hf _ _ _
    · exact ⟨.ok (sendPeer_stored s _ _ _), .ok _⟩
  | _ =>
    dsimp only
    split
    · exact hl _
    · split
      · exact hf _ _ _
      · split
        · exact hf _ _ _
        · split
          · exact hr _ _ _
          · rw [hk, mergeKeep_none]
            exact ⟨.ok (performAt_stored s _ _ _ _ _ _ bs ts), .ok _⟩
theorem storePieces_stored (ps : List Piece) (bs : List Byte) (ts : List Bool) (k : StoreAs) (hk : k.keep = []) {s t : State}
    (e : storePieces s ps bs ts k = .ok t) : Stored (storeSpans s ps bs) gs s t := by
  induction ps generalizing s bs ts with
  | nil => cases e; exact .refl _
  | cons p ps ih =>
    obtain ⟨u, hu, hr⟩ := bind_eq_ok e
    have h1 := ((storePiece_runs (gs := gs) s p (bs.take p.len) ts k hk).1).1 u hu
    have h2 := ih (bs.drop p.len) _ hr
    rw [storeSpans_congr h1.arms h1.world] at h2
    rw [storeSpans_cons]
    exact (h1.mono (fun _ => List.mem_append_left _) fun _ h => h).trans (h2.mono (fun _ => List.mem_append_right _) fun _ h => h)

/-- A store that stops has asked at most. -/
theorem asking_stored (s t : State) : Stored sp gs s (s.asking t) := by
  unfold State.asking
  refine .of_same rfl ?_ ⟨rfl, rfl, rfl⟩ ⟨rfl, rfl⟩ rfl
  rw [modCur_sl]
  exact ⟨.of_files rfl rfl rfl rfl rfl, ⟨rfl, rfl, rfl, rfl, rfl, rfl, rfl, rfl, rfl⟩, .of_eq rfl⟩
theorem allOrNone_runs {s : State} {r : R State} (h : ∀ t, r = .ok t → Stored sp gs s t) : RunsIn (Stored sp gs s) (allOrNone s r) := by
  cases r with
  | ok t => exact .ok (h t rfl)
  | error e => exact .error (asking_stored s e.2)

/-! ### Stores -/

theorem storeBytes_runs (s : State) (c : Cap) (a : Nat) (bs : List Byte) (l : Nat) (k : StoreAs) (hk : k.keep = []) :
    RunsIn (Stored (spansOf s c a { w := true } bs) gs s) (storeBytes s c a bs l k) := by
  unfold storeBytes accessPieces
  cases hc : accessChecks s c a bs.length pW .plain l with
  | error e => exact .error ((accessChecks_stops (Stored.refl s) _ _ _ _ _ _) e hc)
  | ok _ =>
    cases hp : placed s c a bs.length { w := true } with
    | error e => exact .error ((placed_stops (Stored.refl s) _ _ _ _) e hp)
    | ok ps =>
      have hs : spansOf s c a { w := true } bs = storeSpans s ps bs := by unfold spansOf; rw [hp]
      rw [hs]
      show RunsIn _ (arrive s s.world ps >>= fun t => allOrNone s (storePieces t ps bs [] k))
      refine .bind ((arrive_runs s s.world ps).2.mono fun _ => Loads.stored) fun t ht => allOrNone_runs fun u hu => ?_
      have ha : Stored (storeSpans s ps bs) gs s t := ((arrive_runs s s.world ps).1 t ht).stored
      have := storePieces_stored (gs := gs) ps bs [] k hk hu
      rw [storeSpans_congr ha.arms ha.world] at this
      exact ha.trans this
theorem storeGran_runs (s : State) (c : Cap) (a : Nat) (v : Cap) (b : BankUse) (k : StoreAs) (hk : k.keep = []) :
    RunsIn (Stored (spansOf s c a { w := true, cw := v.tag } (leBytes 16 v.bits.toNat)) gs s) (storeGran s c a v b k) := by
  unfold storeGran accessPieces
  cases hc : accessChecks s c a 16 (stcPerm v) b 16 with
  | error e => exact .error ((accessChecks_stops (Stored.refl s) _ _ _ _ _ _) e hc)
  | ok _ =>
    cases hp : placed s c a 16 { w := true, cw := v.tag } with
    | error e => exact .error ((placed_stops (Stored.refl s) _ _ _ _) e hp)
    | ok ps =>
      have hs : spansOf s c a { w := true, cw := v.tag } (leBytes 16 v.bits.toNat) = storeSpans s ps (leBytes 16 v.bits.toNat) := by
        unfold spansOf; rw [leBytes_length, hp]
      rw [hs]
      show RunsIn _ (arrive s s.world ps >>= fun t =>
        allOrNone s (storePieces t ps (leBytes 16 v.bits.toNat) [(s.filterCap v).tag] { k with isCap := true }))
      refine .bind ((arrive_runs s s.world ps).2.mono fun _ => Loads.stored) fun t ht => allOrNone_runs fun u hu => ?_
      have ha : Stored (storeSpans s ps (leBytes 16 v.bits.toNat)) gs s t := ((arrive_runs s s.world ps).1 t ht).stored
      have := storePieces_stored (gs := gs) ps _ _ { k with isCap := true } hk hu
      rw [storeSpans_congr ha.arms ha.world] at this
      exact ha.trans this
theorem scatterStore_stored (c : Cap) (n v : Nat) (k : StoreAs) (hk : k.keep = []) (ls : List (Nat × Nat)) {s t : State}
    (e : scatterStore s c n v k ls = .ok t) : Stored (lanesSpans s c n v k ls) gs s t := by
  induction ls generalizing s with
  | nil => cases e; exact .refl _
  | cons l ls ih =>
    obtain ⟨u, hu, hr⟩ := bind_eq_ok e
    have h1 := (storeBytes_runs (gs := gs) s c l.2 (leBytes n (v / 2 ^ (8 * n * l.1))) 1 k hk).1 u hu
    have h2 := ih hr
    unfold lanesSpans
    dsimp only
    rw [hu]
    exact (h1.mono (fun _ => List.mem_append_left _) fun _ h => h).trans (h2.mono (fun _ => List.mem_append_right _) fun _ h => h)

end

end Sys2Proof.Machine
end

section
/-!
What the stores and the accesses to full/empty granules leave alone, with the end that follows (R209-R217).
-/

namespace Sys2Proof.Machine

/-! ### What is left alone -/

/-- `t` is `s` but for the registers `ds` of its slot, the spans `sp` of memory and the F bits `gs`. -/
structure Leaves (ds : List Reg) (sp : List (Nat × Nat)) (gs : List Nat) (s t : State) : Prop where
  goes : SlotGoes ds s.sl t.sl
  wf : Memory.wf s → Memory.wf t
  outside : Memory.wf s → SameOutside sp gs s t
  lines : ∀ l ∈ t.badLines, l ∈ s.badLines
  grans : ∀ g ∈ t.badGrans, g ∈ s.badGrans
/-- The same, once the fibre has gone where its access is performed. -/
def GoesAndLeaves (sp : List (Nat × Nat)) (s t : State) : Prop := ∃ u, Stands s u ∧ Leaves [] sp [] u t

section
variable {ds : List Reg} {sp : List (Nat × Nat)} {gs : List Nat} {s t u : State}

theorem Leaves.trans (h : Leaves ds sp gs s t) (k : Leaves ds sp gs t u) : Leaves ds sp gs s u :=
  ⟨h.goes.trans k.goes, fun w => k.wf (h.wf w),
    fun w => ⟨fun a hl hg ho => ((k.outside (h.wf w)).bytes a (fun e => hl (h.lines _ e)) (fun e => hg (h.grans _ e)) ho).trans
        ((h.outside w).bytes a hl hg ho),
      fun a hl hg ho => ((k.outside (h.wf w)).tags a (fun e => hl (h.lines _ e)) (fun e => hg (h.grans _ e)) ho).trans
        ((h.outside w).tags a hl hg ho),
      fun a ha => ((k.outside (h.wf w)).full a ha).trans ((h.outside w).full a ha)⟩,
    fun l e => h.lines l (k.lines l e), fun g e => h.grans g (k.grans g e)⟩
theorem Stored.leaves (h : Stored sp gs s t) : Leaves ds sp gs s t := ⟨h.goes.any, h.wf, h.outside, h.lines, h.grans⟩
/-- Memory and what is in error are as they were. -/
theorem Leaves.of_slot (g : SlotGoes ds s.sl t.sl) (e : t.mem = s.mem ∧ t.tags = s.tags ∧ t.full = s.full)
    (b : t.badLines = s.badLines ∧ t.badGrans = s.badGrans) : Leaves ds sp gs s t :=
  ⟨g, fun w => wf_of_cells w e.1 e.2.1 e.2.2, fun _ => .of_same (.of_cells e.1 e.2.1 e.2.2), by simp [b.1], by simp [b.2]⟩
theorem Leaves.refl (s : State) : Leaves ds sp gs s s := .of_slot (.refl ds _) ⟨rfl, rfl, rfl⟩ ⟨rfl, rfl⟩
theorem Writes.leaves (h : Writes ds s t) : Leaves ds sp gs s t := by
  refine .of_slot h.slot.goes ⟨?_, ?_, ?_⟩ ⟨?_, ?_⟩ <;> rw [h.slots]
theorem Leaves.of_ends (h : OnlyEnds s t) (k : AllSlots SlotEnds s t) : Leaves ds sp gs s t := by
  refine .of_slot k.sl.goes ⟨?_, ?_, ?_⟩ ⟨?_, ?_⟩ <;> rw [h]
theorem Loads.leaves (h : Loads s t) : Leaves ds sp gs s t := h.stored.leaves

/-- An end keeps what it may not change. -/
theorem finish_keeps {q : State → Prop} {h : Hdr} {b : State → R State}
    (hq : ∀ u v, OnlyEnds u v → AllSlots SlotEnds u v → q u → q v) (hb : RunsIn q (b s)) (e : finish h b s = .next t) : q t := by
  unfold finish at e
  cases hr : b s with
  | ok u => rw [hr] at e; cases e; exact hq u _ (ended_only h u) (ended_ends h u) (hb.1 u hr)
  | error x => rw [hr] at e; cases e; exact hq x.2 _ (stopped_only x.1 x.2) (stopped_ends x.1 x.2) (hb.2 x hr)
theorem finish_reads {h : Hdr} {b : State → R State} (hb : RunsIn (Reads ds s) (b s)) (e : finish h b s = .next t) :
    Reads ds s t := finish_keeps (fun _ _ ho hk hr => hr.trans (.of_ends ho hk)) hb e
theorem finish_leaves {h : Hdr} {b : State → R State} (hb : RunsIn (Leaves ds sp gs s) (b s)) (e : finish h b s = .next t) :
    Leaves ds sp gs s t := finish_keeps (fun _ _ ho hk hl => hl.trans (.of_ends ho hk)) hb e
theorem finish_goesLeaves {h : Hdr} {b : State → R State} (hb : RunsIn (GoesAndLeaves sp s) (b s)) (e : finish h b s = .next t) :
    GoesAndLeaves sp s t :=
  finish_keeps (fun _ _ ho hk ⟨v, hv, hl⟩ => ⟨v, hv, hl.trans (.of_ends ho hk)⟩) hb e

/-- What the fibre that stands elsewhere has left alone, as the statement says it. -/
theorem GoesAndLeaves.says (h : GoesAndLeaves sp s t) (w : Memory.wf s) :
    (SameRegs t.sl s.sl ∨ SameRegs t.sl (s.filterRegs s.sl)) ∧ SameSpecials t.sl s.sl ∧ SameWatch t.sl s.sl ∧
      SameOutside sp [] s t := by
  obtain ⟨u, hu, hl⟩ := h
  have hs := hu.only
  have hw : Memory.wf u := wf_of_cells w (by rw [hs]) (by rw [hs]) (by rw [hs])
  have ho := hl.outside hw
  have hb : u.badLines = s.badLines ∧ u.badGrans = s.badGrans := by rw [hs]; exact ⟨rfl, rfl⟩
  refine ⟨hu.goes.imp (fun g => (g.trans hl.goes).regs.none) fun g => (g.trans hl.goes).regs.none,
    hl.goes.specials.trans hu.specials, hl.goes.watch.trans (.of_eq hu.mons), ?_⟩
  refine ⟨fun a h1 h2 h3 => (ho.bytes a (by rw [hb.1]; exact h1) (by rw [hb.2]; exact h2) h3).trans (hs.same.mem a),
    fun a h1 h2 h3 => (ho.tags a (by rw [hb.1]; exact h1) (by rw [hb.2]; exact h2) h3).trans (hs.same.tags a),
    fun a ha => (ho.full a ha).trans (hs.same.full a)⟩
theorem filterRegs_rx (s : State) (sl : Slot) (r : BitVec 6) : (s.filterRegs sl).rx r = sl.rx r := by
  simp only [Slot.rx, State.filterRegs]
theorem Stands.rx (h : Stands s t) (r : BitVec 6) : t.rx r = s.rx r :=
  h.goes.elim (fun g => g.regs.none.x r) fun g => (g.regs.none.x r).trans (filterRegs_rx s s.sl r)

end

/-! ### Stores -/

section
variable {s t : State} {o : MOp}

theorem Stands.leaves {s u : State} {sp : List (Nat × Nat)} (h : Stands s u) : GoesAndLeaves sp s u := ⟨u, h, .refl u⟩
/-- A store whose fibre goes where it is performed. -/
theorem travel_store {c : Cap} {ea : Nat} {f : State → R State} {sp : State → List (Nat × Nat)}
    (h : ∀ u, travel s c ea false = .ok u → RunsIn (Leaves [] (sp u) [] u) (f u)) :
    RunsIn (GoesAndLeaves (sp (travelled s c ea)) s) (travel s c ea false >>= f) := by
  refine .bind ((travel_runs s c ea false).2.mono fun _ => Stands.leaves) fun u hu => ?_
  have ht : travelled s c ea = u := by unfold travelled; rw [hu]
  rw [ht]
  exact (h u hu).mono fun _ hl => ⟨u, (travel_runs s c ea false).1 u hu, hl⟩

theorem execSt_leaves (e : execSt o s = .next t) : GoesAndLeaves (spansOf (travelled s (s.rc o.oa) (mEa s o)) (s.rc o.oa) (mEa s o)
    { w := true } (leBytes (szBytes o.size) (s.rx o.od).toNat)) s t := by
  refine finish_goesLeaves ?_ e
  refine .bind (accessChecks_stops (Stands.refl s).leaves _ _ _ _ _ _) fun _ _ => ?_
  refine travel_store (sp := fun u => spansOf u (s.rc o.oa) (mEa s o) { w := true } (leBytes (szBytes o.size) (s.rx o.od).toNat))
    fun u hu => ?_
  rw [((travel_runs s _ _ false).1 u hu).rx o.od]
  exact .bind (scWait_stops (.refl u) _ _) fun _ _ => (storeBytes_runs u _ _ _ _ _ rfl).mono fun _ => Stored.leaves

theorem fifoPush_runs {ds : List Reg} (s : State) (a : Nat) (l : List Cap) : RunsIn (Reads ds s) (fifoPush s a l) := by
  have hp : ∀ (x : Nat) (l : List Cap), Reads ds s (s.fifoPut x l) := by
    intro x l
    unfold State.fifoPut State.setFifo
    have hf : ∀ (gs : List Nat) (t : State), Reads ds t (gs.foldl (fun s g => if s.badGrans.contains g then
        ({ s with badGrans := s.badGrans.filter (· != g) } : State).notice (.blFix (g / 8)) else s) t) := by
      intro gs
      induction gs with
      | nil => exact .refl ds
      | cons g gs ih =>
        refine fun t => Reads.trans ?_ (ih _)
        dsimp only
        split
        · exact .of_slots rfl rfl (.of_cells rfl rfl rfl)
        · exact .refl ds t
    exact (hf _ s).trans (.of_slots rfl rfl (.of_cells rfl rfl rfl))
  unfold fifoPush
  refine .bind (releaseWait_stops (.refl ds s) _) fun _ _ => ?_
  dsimp only
  split
  · exact .error (Reads.refl ds s)
  · exact .ok (hp _ _)
theorem execStc_fifo (hf : fifoUse (s.rc o.oa) = true) (e : execStc o s = .next t) : GoesAndReads [] s t := by
  refine finish_goes ?_ e
  dsimp only
  rw [if_pos hf]
  exact .bind (fifoChecks_stops (Reads.refl _ s).stays _ _ _ _ _) fun _ _ =>
    (fifoPush_runs _ _ _).mono fun _ => (goHome_stands s).reads.then_
theorem execStc_leaves (hf : fifoUse (s.rc o.oa) = false) (e : execStc o s = .next t) :
    GoesAndLeaves (spansOf (travelled s (s.rc o.oa) (mEa s o)) (s.rc o.oa) (mEa s o)
      { w := true, cw := (keepTag o.size (s.rc o.od)).tag } (leBytes 16 (keepTag o.size (s.rc o.od)).bits.toNat)) s t := by
  refine finish_goesLeaves ?_ e
  dsimp only
  rw [if_neg (by rw [hf]; exact Bool.false_ne_true)]
  refine .bind (accessChecks_stops (Stands.refl s).leaves _ _ _ _ _ _) fun _ _ => ?_
  refine travel_store (sp := fun u => spansOf u (s.rc o.oa) (mEa s o) { w := true, cw := (keepTag o.size (s.rc o.od)).tag }
    (leBytes 16 (keepTag o.size (s.rc o.od)).bits.toNat)) fun u _ => ?_
  exact .bind (scWait_stops (.refl u) _ _) fun _ _ => (storeGran_runs u _ _ _ _ _ rfl).mono fun _ => Stored.leaves
theorem execVst_fifo (hf : fifoUse (s.rc o.oa) = true) (e : execVst o s = .next t) : Reads [] s t := by
  refine finish_reads ?_ e
  refine .bind (noPort_stops (.refl [] s) _) fun _ _ => ?_
  dsimp only
  rw [if_pos hf]
  exact .bind (fifoChecks_stops (.refl [] s) _ _ _ _ _) fun _ _ => fifoPush_runs _ _ _
theorem execVst_leaves (hf : fifoUse (s.rc o.oa) = false) (e : execVst o s = .next t) :
    Leaves [] (spansOf s (s.rc o.oa) (mEa s o) { w := true } (leBytes 128 (s.sl.rv o.od).toNat)) [] s t := by
  refine finish_leaves ?_ e
  refine .bind (noPort_stops (.refl s) _) fun _ _ => ?_
  dsimp only
  rw [if_neg (by rw [hf]; exact Bool.false_ne_true)]
  refine .bind (accessChecks_stops (.refl s) _ _ _ _ _ _) fun _ _ => .bind (scWait_stops (.refl s) _ _) fun _ _ => ?_
  exact (storeBytes_runs s _ _ _ _ _ rfl).mono fun _ => Stored.leaves

/-! ### Scatters -/

/-- The registers that a scatter writes. -/
def scattersTo (o : MOp) : List Reg := if o.x = 1 then [.k 7] else []
theorem execVsts_leaves (e : execVsts o s = .next t) :
    Leaves (scattersTo o) (lanesSpans s (s.rc o.oa) (szBytes o.size) (s.sl.rv o.od).toNat (mStore o) (scattered s o)) [] s t := by
  refine finish_leaves ?_ e
  refine .bind (noPort_stops (.refl s) _) fun _ _ => .bind (noPort_stops (.refl s) _) fun _ _ => ?_
  refine .bind (lanesChecked_stops (.refl s) _ _ _) fun r hr => ?_
  have hs : scattered s o = r.1 := by unfold scattered; rw [hr]
  rw [hs]
  have ha := allOrNone_runs (s := s) (gs := []) fun u hu => scatterStore_stored (gs := []) (s.rc o.oa) (szBytes o.size)
    (s.sl.rv o.od).toNat (mStore o) rfl r.1 (s := s) (t := u) hu
  refine .bind (ha.2.mono fun _ => Stored.leaves) fun u hu => .ok ?_
  refine (ha.1 u hu).leaves.trans ?_
  unfold supMask
  split
  · rename_i hx
    exact ((Writes.refl (scattersTo o) u).wk (by rw [scattersTo, if_pos (eq_of_beq hx)]; simp) _).leaves
  · exact .refl u

/-! ### Full/empty granules -/

theorem accessChecks_fullEmpty {c : Cap} {a n l : Nat} {m : BitVec 12} (h : accessChecks s c a n m .fullEmpty l = .ok ()) :
    capLocal c = true := by
  by_contra hc
  unfold accessChecks at h
  obtain ⟨_, _, h⟩ := bind_eq_ok h
  rw [if_neg hc] at h
  obtain ⟨_, _, h⟩ := bind_eq_ok h
  obtain ⟨_, _, h⟩ := bind_eq_ok h
  exact absurd h (by simp [guardR, raise])
theorem granuleWait_stops {q : State → Prop} (h : q s) (k : WaitKind) (a : Nat) : StopsIn q (granuleWait s k a) := by
  unfold granuleWait
  dsimp only
  split
  · exact .ok ()
  · exact .error h
/-- The F bits that an access changes. -/
def fullGrans (o : MOp) (ea : Nat) : List Nat := if o.x = 1 then [locKey ea / 16] else []
theorem setFull_leaves {ds : List Reg} {sp : List (Nat × Nat)} {u : State} {a : Nat} (h : Leaves ds sp (fullGrans o a) s u) (v : Bool) :
    Leaves ds sp (fullGrans o a) s (if o.x == 1 then u.setFull (locKey a / 16) v else u) := by
  split
  · rename_i hx
    refine h.trans ?_
    rw [fullGrans, if_pos (eq_of_beq hx)]
    exact (setFull_stored u _ v).leaves
  · exact h
/-- The destination of a load of a full granule. -/
def feDest (o : MOp) : Reg := if o.size = 6 then .c o.od else .x o.od
theorem execLdfe_leaves (e : execLdfe o s = .next t) : Leaves [feDest o] [] (fullGrans o (mEa s o)) s t := by
  refine finish_leaves ?_ e
  refine .bind (accessChecks_stops (.refl s) _ _ _ _ _ _) fun _ _ => .bind (granuleWait_stops (.refl s) _ _) fun _ _ => ?_
  have hl : RunsIn (Leaves [feDest o] [] (fullGrans o (mEa s o)) s)
      (if o.size == 6 then do
        let r ← loadGran s (s.rc o.oa) (mEa s o) pR .fullEmpty
        .ok (r.2.wc o.od (s.filterCap r.1))
      else do
        let ps ← placed s (s.rc o.oa) (mEa s o) (szBytes o.size) { r := true }
        let r ← loadPieces s ps
        .ok (r.2.wx o.od (extBytes r.1 false))) := by
    split
    · rename_i h6
      have hd : Reg.c o.od ∈ [feDest o] := by rw [feDest, if_pos (eq_of_beq h6)]; simp
      refine .bind ((loadGran_answers s _ _ _ _ _).2.mono fun _ => Loads.leaves) fun r hr => .ok ?_
      exact ((loadGran_answers s _ _ _ _ _).1 r hr).leaves.trans ((Writes.refl [feDest o] r.2).wc hd _).leaves
    · rename_i h6
      have hd : Reg.x o.od ∈ [feDest o] := by rw [feDest, if_neg (mt (beq_iff_eq).mpr h6)]; simp
      refine .bind (placed_stops (.refl s) _ _ _ _) fun ps _ => ?_
      refine .bind ((loadPieces_answers _ _ s).2.mono fun _ => Loads.leaves) fun r hr => .ok ?_
      exact ((loadPieces_answers _ _ s).1 r hr).leaves.trans ((Writes.refl [feDest o] r.2).wx hd _).leaves
  refine .bind hl.2 fun u hu => .ok (setFull_leaves ?_ false)
  have hd : Leaves [feDest o] [] (fullGrans o (mEa s o)) u (if 2 ≤ s.fullScope (locKey (mEa s o) / 16) then u.dropWorld s.world else u) := by
    split
    · exact (setCache_stored u _).leaves
    · exact .refl u
  exact (hl.1 u hu).trans hd


/-- No window is opened by a store to cluster memory. -/
theorem cwinArms_cluster {k : Nat} (h : keyIsCl k = true) (s : State) (w : World) (a : Nat) (bs : List Byte) :
    s.cwinArms w k a bs = none := by
  simp only [State.cwinArms, h, if_true]
theorem storeSpans_cluster {k : Nat} (h : keyIsCl k = true) (s : State) (a : Nat) (bs : List Byte) :
    storeSpans s [⟨.at k 0, a, bs.length⟩] bs = [(k, bs.length)] := by
  have hp : s.pieceSpans ⟨.at k 0, a, bs.length⟩ bs = [(k, bs.length)] := by
    simp only [State.pieceSpans, cwinArms_cluster h, Option.isSome_none, Bool.false_eq_true, if_false]
  rw [storeSpans_cons, List.take_length, hp, storeSpans, List.append_nil]
theorem storeSpans_local (s : State) (a : Nat) (bs : List Byte) :
    storeSpans s [⟨.at (locKey a) 0, a, bs.length⟩] bs = [(locKey a, bs.length)] := storeSpans_cluster (keyIsCl_locKey a) s a bs
theorem storeLocal_runs {gs : List Nat} (s : State) (a : Nat) (n v : Nat) :
    RunsIn (Stored [(locKey a, n)] gs s) (storePieces s [⟨.at (locKey a) 0, a, n⟩] (leBytes n v) []) := by
  have hn : (leBytes n v).length = n := leBytes_length n v
  refine ⟨fun t ht => ?_, ?_⟩
  · have h := storePieces_stored (gs := gs) _ _ _ {} rfl ht
    rwa [show ([⟨.at (locKey a) 0, a, n⟩] : List Piece) = [⟨.at (locKey a) 0, a, (leBytes n v).length⟩] by rw [hn],
      storeSpans_local, hn] at h
  · refine StopsIn.bind ((storePiece_runs (gs := gs) s _ _ _ {} rfl).2.mono fun _ => Stored.any) fun _ _ => .ok _
/-- A granule is stored whole at its key, and no window opens. -/
theorem spansOf_local {c : Cap} (h : capLocal c = true) (a : Nat) (d : Need) (bs : List Byte) :
    spansOf s c a d bs = [(locKey a, bs.length)] := by
  unfold spansOf
  rw [placed_local h]
  exact storeSpans_local s a bs
theorem execStfe_leaves (e : execStfe o s = .next t) :
    Leaves [] [(locKey (mEa s o), szBytes o.size)] (fullGrans o (mEa s o)) s t := by
  refine finish_leaves ?_ e
  refine .bind (accessChecks_stops (.refl s) _ _ _ _ _ _) fun x hx => ?_
  have hc : capLocal (s.rc o.oa) = true := accessChecks_fullEmpty hx
  have hs : RunsIn (Leaves [] [(locKey (mEa s o), szBytes o.size)] (fullGrans o (mEa s o)) s)
      (if o.size == 6 then storeGran s (s.rc o.oa) (mEa s o) (s.rc o.od) .fullEmpty
      else do
        let ps ← placed s (s.rc o.oa) (mEa s o) (szBytes o.size) { w := true }
        storePieces s ps (leBytes (szBytes o.size) (s.rx o.od).toNat) []) := by
    split
    · rename_i h6
      have h := storeGran_runs (gs := fullGrans o (mEa s o)) s (s.rc o.oa) (mEa s o) (s.rc o.od) .fullEmpty {} rfl
      rw [spansOf_local hc, leBytes_length] at h
      rw [eq_of_beq h6]
      exact h.mono fun _ => Stored.leaves
    · rw [placed_local hc]
      exact (storeLocal_runs s _ _ _).mono fun _ => Stored.leaves
  have hw : ∀ f : State → State, (∀ u, Leaves [] [(locKey (mEa s o), szBytes o.size)] (fullGrans o (mEa s o)) s u →
      Leaves [] [(locKey (mEa s o), szBytes o.size)] (fullGrans o (mEa s o)) s (f u)) →
      RunsIn (Leaves [] [(locKey (mEa s o), szBytes o.size)] (fullGrans o (mEa s o)) s)
      (granuleWait s .empty (mEa s o) >>= fun _ => (if o.size == 6 then storeGran s (s.rc o.oa) (mEa s o) (s.rc o.od) .fullEmpty
      else do
        let ps ← placed s (s.rc o.oa) (mEa s o) (szBytes o.size) { w := true }
        storePieces s ps (leBytes (szBytes o.size) (s.rx o.od).toNat) []) >>= fun u =>
          .ok (f u)) :=
    fun f hf => .bind (granuleWait_stops (.refl s) _ _) fun _ _ => .bind hs.2 fun u hu => .ok (hf u (hs.1 u hu))
  dsimp only
  split
  · rename_i hx
    refine .bind (releaseWait_stops (.refl s) _) fun _ _ => hw (·.setFull (locKey (mEa s o) / 16) true) fun u hu => hu.trans ?_
    rw [fullGrans, if_pos (eq_of_beq hx)]
    exact (setFull_stored u _ true).leaves
  · exact hw id fun u hu => hu

end

end Sys2Proof.Machine

section
open Sys2Proof
open Sys2Proof.Machine

/-- Settles O53, through the pieces of a store: each writes its own span, or opens its collective window again, and a store
that stops leaves only what it has asked for. -/
theorem loadsAndStoresKeepTheRest : Obligations.LoadsAndStoresKeepTheRest := by
  unfold Obligations.LoadsAndStoresKeepTheRest
  refine ⟨fun s t o f p hp e => (loads_keep s t o f p hp e).says, ?_⟩
  rintro s t o c ea hw rfl rfl
  refine ⟨fun e => (execSt_leaves e).says hw, fun e => ?_, fun e => ?_, fun e => ?_, fun e => ?_, fun e => ?_⟩
  · cases hf : fifoUse (s.rc o.oa) with
    | true =>
      obtain ⟨-, g, -, m⟩ := execVst_fifo hf e
      exact ⟨g.regs.none, g.specials, g.watch, fun _ => m, fun h => absurd h (by decide)⟩
    | false =>
      have h := execVst_leaves hf e
      exact ⟨h.goes.regs.none, h.goes.specials, h.goes.watch, fun h => absurd h (by decide), fun _ => h.outside hw⟩
  · cases hf : fifoUse (s.rc o.oa) with
    | true =>
      obtain ⟨r, sp, m, k⟩ := (execStc_fifo hf e).says
      exact ⟨r.imp SameRegsBut.none SameRegsBut.none, sp, .of_eq m, fun _ => k, fun _ _ h => absurd h (by decide)⟩
    | false =>
      obtain ⟨r, sp, m, k⟩ := (execStc_leaves hf e).says hw
      refine ⟨r, sp, m, fun h => absurd h (by decide), ?_⟩
      rintro v rfl -
      exact k
  · have h := execVsts_leaves e
    exact ⟨h.goes.regs, h.goes.specials, h.goes.watch, h.outside hw⟩
  · have h := execLdfe_leaves e
    exact ⟨h.goes.regs, h.goes.specials, h.goes.watch, h.outside hw⟩
  · have h := execStfe_leaves e
    exact ⟨h.goes.regs.none, h.goes.specials, h.goes.watch, h.outside hw⟩

end
end

section
/-!
What keeps a state safe (R195, R359): the canonical form of memory and the length of the trap queue. An operation that touches
neither memory, its granule bits nor the trap queue keeps it by definition.
-/

namespace Sys2Proof.Machine

/-- Where an instruction or an act leads on, it leads to a safe state. -/
def KeepsSafe (r : Out) : Prop := ∀ t, r = .next t → t.safe
/-- Whether the work answers or stops, what it answers satisfies `p` and the state in which it stops satisfies `q`. -/
def YieldsIn {α : Type} (p : α → Prop) (q : State → Prop) (r : R α) : Prop := (∀ a, r = .ok a → p a) ∧ StopsIn q r

/-- What the option holds, if anything, satisfies `p`. -/
def SomeIn {α : Type} (p : α → Prop) (o : Option α) : Prop := ∀ a, o = some a → p a
/-- Whichever way the work ends, what it ends with satisfies `p` or `q`. -/
def EitherIn {ε α : Type} (p : α → Prop) (q : ε → Prop) (x : Except ε α) : Prop :=
  (∀ a, x = .ok a → p a) ∧ ∀ e, x = .error e → q e

/-- Where an engine's access waits, it does so in a safe state. -/
def Held.safe : Held → Prop
  | .fail _ => True
  | .wait t => t.safe

section
variable {s t : State} {ε α : Type} {p : α → Prop} {q : ε → Prop}

theorem SomeIn.some {a : α} (h : p a) : SomeIn p (some a) := fun b e => by cases e; exact h
theorem SomeIn.none : SomeIn p none := fun b e => by cases e
theorem EitherIn.ok {a : α} (h : p a) : EitherIn p q (.ok a) := ⟨fun _ e => by cases e; exact h, fun _ e => by cases e⟩
theorem EitherIn.error {e : ε} (h : q e) : EitherIn p q (.error e) := ⟨fun _ k => (by cases k), fun _ k => by cases k; exact h⟩
theorem YieldsIn.ok {q : State → Prop} {a : α} (h : p a) : YieldsIn p q (.ok a) := ⟨fun _ k => by cases k; exact h, .ok a⟩
theorem YieldsIn.error {q : State → Prop} {e : Stop × State} (h : q e.2) : YieldsIn p q (.error e) := ⟨fun _ k => (by cases k), .error h⟩
theorem YieldsIn.bind {β : Type} {q : State → Prop} {r : R β} {f : β → R α} (h : StopsIn q r) (k : ∀ a, r = .ok a → YieldsIn p q (f a)) :
    YieldsIn p q (r >>= f) := by
  cases r with
  | error e => exact .error (h e rfl)
  | ok a => exact k a rfl
theorem YieldsIn.then_ {β : Type} {q : State → Prop} {p' : β → Prop} {r : R β} {f : β → R α} (h : YieldsIn p' q r)
    (k : ∀ a, p' a → YieldsIn p q (f a)) : YieldsIn p q (r >>= f) := .bind h.2 fun a e => k a (h.1 a e)
theorem YieldsIn.stop {β : Type} {q : State → Prop} {p' : β → Prop} {r : R β} {f : β → R α} (h : YieldsIn p' q r)
    (k : ∀ a, p' a → StopsIn q (f a)) : StopsIn q (r >>= f) := .bind h.2 fun a e => k a (h.1 a e)
theorem EitherIn.bind {β : Type} {p' : β → Prop} {x : Except ε β} {f : β → Except ε α} (h : EitherIn p' q x)
    (k : ∀ a, p' a → EitherIn p q (f a)) : EitherIn p q (x >>= f) := by
  cases x with
  | error e => exact .error (h.2 e rfl)
  | ok a => exact k a (h.1 a rfl)
theorem KeepsSafe.next (h : t.safe) : KeepsSafe (.next t) := fun u e => by cases e; exact h
theorem KeepsSafe.none {r : Out} (h : ∀ t, r ≠ .next t) : KeepsSafe r := fun t e => absurd e (h t)

/-- A state is safe that differs from a safe one in neither memory, its granule bits nor the trap queue. -/
theorem with_safe {core cluster cur word last slots sem badSem waiters await lrq cmq heldMsgs hold lost ctcx svec frec supStarted supHalted
    yielding mat wave updates cl bmode rpwin crq crqBase cmqBase clq heldQ fifos worlds fullScopes refs badLines badGrans
    seals errCounts blList blOvf blFound errSeen sideLog heldSigs pageReqs quays dupHeld dup dupAcks peerOut tcache pageCounts
    pageNotes pageOvf quayMons heldActs barScales farMsgs susp swapping swapped tally launches coalesce hostOut hostHeld sessA
    sessB psem notices auditLog auditSeq auditOvf device routes linkUp cxlUp imports rejected fabricOut peerAcks cwins ptmo
    throt tripped fwImage measured mgmtOut agenda deferred act asleep fibCtr opCtr keyCtr freeCtr : _} (h : t.safe) :
    State.safe { core, cluster, cur, word, last, slots, sem, badSem, waiters, await, lrq, cmq, heldMsgs, trapQ := t.trapQ,
                 hold, lost, ctcx, svec, frec, supStarted, supHalted, yielding, mat, wave, updates, cl, bmode, rpwin, crq,
                 crqBase, cmqBase, clq, heldQ, fifos, worlds, mem := t.mem, tags := t.tags, full := t.full, fullScopes, refs,
                 badLines, badGrans, seals, errCounts, blList, blOvf, blFound, errSeen, sideLog, heldSigs, pageReqs, quays,
                 dupHeld, dup, dupAcks, peerOut, tcache, pageCounts, pageNotes, pageOvf, quayMons, heldActs, barScales,
                 farMsgs, susp, swapping, swapped, tally, launches, coalesce, hostOut, hostHeld, sessA, sessB, psem, notices,
                 auditLog, auditSeq, auditOvf, device, routes, linkUp, cxlUp, imports, rejected, fabricOut, peerAcks, cwins,
                 ptmo, throt, tripped, fwImage, measured, mgmtOut, agenda, deferred, act, asleep, fibCtr, opCtr, keyCtr,
                 freeCtr } := h
theorem cells_of_safe (h : s.safe) : cellsWf s.mem := h.1.1
theorem tags_of_safe (h : s.safe) : s.tags.Pairwise (· < ·) := h.1.2.1
theorem full_of_safe (h : s.safe) : s.full.Pairwise (· < ·) := h.1.2.2
theorem fits_of_safe (h : s.safe) : s.trapQ.length ≤ 16 := h.2
/-- A state is safe whose T bits rise, and that differs from a safe one in neither memory, its F bits nor the trap queue. -/
theorem safe_of_tags (h : s.safe) (ht : t.tags.Pairwise (· < ·)) (hm : t.mem = s.mem) (hf : t.full = s.full) (hq : t.trapQ = s.trapQ) :
    t.safe :=
  ⟨⟨hm ▸ cells_of_safe h, ht, hf ▸ full_of_safe h⟩, hq ▸ fits_of_safe h⟩
/-- A state is safe whose trap queue is no longer than that of a safe one, and that differs from it in neither memory nor its
granule bits. -/
theorem safe_of_queue (h : s.safe) (hq : t.trapQ.length ≤ 16) (hm : t.mem = s.mem) (ht : t.tags = s.tags) (hf : t.full = s.full) :
    t.safe :=
  ⟨⟨hm ▸ cells_of_safe h, ht ▸ tags_of_safe h, hf ▸ full_of_safe h⟩, hq⟩
theorem ite_safe {c : Prop} [Decidable c] (hs : s.safe) (ht : t.safe) : (if c then s else t).safe := by split <;> assumption
theorem foldl_safe {β : Type} {f : State → β → State} (hf : ∀ s a, s.safe → (f s a).safe) {l : List β} (h : s.safe) :
    (l.foldl f s).safe := by
  induction l generalizing s with
  | nil => exact h
  | cons a l ih => exact ih (hf s a h)
theorem foldlM_safe {β : Type} {f : State → β → R State} (hf : ∀ s a, s.safe → RunsIn State.safe (f s a)) {l : List β} (h : s.safe) :
    RunsIn State.safe (l.foldlM f s) := by
  induction l generalizing s with
  | nil => exact .ok h
  | cons a l ih =>
    rw [List.foldlM_cons]
    exact (hf s a h).then_ fun t k => ih k
theorem foldlM_either {β : Type} {f : State → β → Except ε State} (hf : ∀ s a, s.safe → EitherIn State.safe q (f s a)) {l : List β}
    (h : s.safe) : EitherIn State.safe q (l.foldlM f s) := by
  induction l generalizing s with
  | nil => exact .ok h
  | cons a l ih =>
    rw [List.foldlM_cons]
    exact (hf s a h).bind fun t k => ih k
theorem map_safe {o : Option State} {f : State → State} (h : SomeIn State.safe o) (hf : ∀ t, t.safe → (f t).safe) :
    SomeIn State.safe (o.map f) := by
  cases o with
  | none => exact .none
  | some t => exact .some (hf t (h t rfl))
theorem when_safe {c : Prop} [Decidable c] (h : s.safe) (k : s.safe → t.safe) : (if c then t else s).safe := ite_safe (k h) h
theorem forM_safe {β : Type} {f : β → R PUnit} (hf : ∀ a, StopsIn State.safe (f a)) {l : List β} : StopsIn State.safe (l.forM f) := by
  induction l with
  | nil => exact .ok _
  | cons a l ih =>
    exact (hf a).bind fun _ _ => ih
theorem Loads.safe (h : Loads s t) (k : s.safe) : t.safe := h.only.safe k

theorem OnlyWrites.safe (h : OnlyWrites s t) (w : Memory.wf t) (k : s.safe) : t.safe := by
  refine ⟨w, ?_⟩
  rw [h.state]
  exact k.2

/-! ### Writes of memory and records -/

theorem enqueueRec_safe {i : Option SlotId} {r : TrapRec} (h : s.safe) : (s.enqueueRec i r).safe :=
  ⟨by rw [enqueueRec_eq]; exact h.1, enqueueRec_fits h.2 i r⟩
theorem repair_safe {k n : Nat} (h : s.safe) : (s.repair k n).safe := (repair_writes s k n).safe (repair_wf h.1 k n) h
theorem writeBytes_safe {k : Nat} {bs : List Byte} (h : s.safe) : (s.writeBytes k bs).safe :=
  (writeBytes_writes s k bs).safe (writeBytes_wf h.1 k bs) h
theorem writeGran_safe {k : Nat} {c : Cap} (h : s.safe) : (s.writeGran k c).safe :=
  (writeGran_writes s k c).safe (writeGran_wf h.1 k c) h
theorem setFull_safe {g : Nat} {v : Bool} (h : s.safe) : (s.setFull g v).safe := by
  refine ⟨setFull_wf h.1 g v, ?_⟩
  unfold State.setFull
  dsimp only
  split
  · exact h.2
  · unfold State.fullChanged
    split <;> exact h.2

/-! ### Ends -/

theorem finish_keepsSafe {h : Hdr} {b : State → R State} (hb : RunsIn State.safe (b s)) : KeepsSafe (finish h b s) :=
  fun _ e => finish_safe e hb.1 fun st t ht => hb.2 (st, t) ht
theorem finishJump_keepsSafe {h : Hdr} {b : State → R State} (hb : RunsIn State.safe (b s)) : KeepsSafe (finishJump h b s) := by
  unfold finishJump
  cases hr : b s with
  | ok t => exact .next (jumped_safe (hb.1 t hr) h)
  | error e => exact .next (stopped_safe (hb.2 e hr) e.1)
theorem finishFrame_keepsSafe {h : Hdr} {b : State → R State} (hb : ∀ t, t.safe → RunsIn State.safe (b t)) (hs : s.safe) :
    KeepsSafe (finishFrame h b s) := finish_keepsSafe (hb _ hs)
theorem finishHanded_keepsSafe {b : State → R State} (hb : RunsIn State.safe (b s)) : KeepsSafe (finishHanded b s) := by
  unfold finishHanded
  cases hr : b s with
  | ok t => exact .next (handed_safe (hb.1 t hr))
  | error e => exact .next (stopped_safe (hb.2 e hr) e.1)

end

end Sys2Proof.Machine
end

section
/-!
The functions of `Machine/State`, `Machine/Ops`, `Machine/Mem`, `Machine/Cache`, `Machine/Access`, `Machine/Flags`,
`Machine/Operands`, `Machine/Control`, `Machine/Vector`, `Machine/Special`, `Machine/Stream`, `Machine/Issue`,
`Machine/Repeat`, `Machine/Units` keep a safe state safe: one lemma for each,
whose cases are those of its definition.
-/

namespace Sys2Proof.Machine

/-! ### `Machine/State` -/

theorem reset_safe : State.reset.safe := ⟨reset_wf, Nat.zero_le _⟩

/-! ### `Machine/Ops` -/

theorem waitFor_safe {s : State} {α : Type} {k : WaitKind} {obj num : Nat} (h : s.safe) : StopsIn State.safe (waitFor (α :=
  α) s k obj num) := .error h
theorem modSlot_safe {s : State} {i : SlotId} {f : Slot → Slot} (h : s.safe) : (s.modSlot i f).safe := h
theorem modCur_safe {s : State} {f : Slot → Slot} (h : s.safe) : (s.modCur f).safe := modSlot_safe h
theorem onSlot_safe {s : State} {i : SlotId} (h : s.safe) : (s.onSlot i).safe := h
theorem withWord_safe {s : State} {w : BitVec 96} (h : s.safe) : (s.withWord w).safe := h
theorem wx_safe {s : State} {r : BitVec 6} {v : Word} (h : s.safe) : (s.wx r v).safe := modCur_safe h
theorem wc_safe {s : State} {r : BitVec 6} {v : Cap} (h : s.safe) : (s.wc r v).safe := modCur_safe h
theorem wk_safe {s : State} {r : BitVec 6} {v : Gran} (h : s.safe) : (s.wk r v).safe := modCur_safe h
theorem wp_safe {s : State} {r : BitVec 6} {v : Bool} (h : s.safe) : (s.wp r v).safe := modCur_safe h
theorem wcfr_safe {s : State} {v : Cap} (h : s.safe) : (s.wcfr v).safe := modCur_safe h
theorem modWorld_safe {s : State} {w : World} {f : WorldSt → WorldSt} (h : s.safe) : (s.modWorld w f).safe := h
theorem post_safe {s : State} {i : Act} (h : s.safe) : (s.post i).safe := h

theorem stall_safe {s : State} (h : s.safe) : s.stall.safe := by
  unfold State.stall
  split
  · exact ite_safe h h
  · exact h

theorem unstall_safe {s : State} (h : s.safe) : s.unstall.safe := h
theorem notice_safe {s : State} {n : Notice} (h : s.safe) : (s.notice n).safe := h
theorem auditEntry_safe {s : State} {fn : World} {port : Bool} {kind : BitVec 3} {addr : Nat} (h : s.safe) :
    (s.auditEntry fn port kind addr).safe := h
theorem auditIrq_safe {s : State} {w : World} {addr : Nat} (h : s.safe) : (s.auditIrq w addr).safe :=
  auditEntry_safe (notice_safe h)

theorem leaveQueue_safe {s : State} {who : Who} (h : s.safe) : (s.leaveQueue who).safe := by
  unfold State.leaveQueue
  split <;> exact h

theorem goHome_safe {s : State} {i : SlotId} (h : s.safe) : (s.goHome i).safe := by
  unfold State.goHome
  split
  · exact h
  · exact ite_safe (post_safe (unstall_safe (modSlot_safe h))) (unstall_safe (modSlot_safe h))

theorem joinQueue_safe {s : State} {w : Waiter} (h : s.safe) : (s.joinQueue w).safe := ite_safe h (with_safe (leaveQueue_safe h))

theorem rouse_safe {s : State} {i : SlotId} (h : s.safe) : (s.rouse i).safe := by
  unfold State.rouse
  dsimp only
  split
  · refine when_safe ?_ (fun k => post_safe k)
    split
    · exact ite_safe (post_safe h) (modSlot_safe h)
    · exact h
  · split
    · exact ite_safe (post_safe h) (modSlot_safe h)
    · exact h

theorem rouseAll_safe {s : State} {p : WaitKind → Nat → Bool} (h : s.safe) : (s.rouseAll p).safe :=
  foldl_safe (fun _ _ k1 => ite_safe (rouse_safe k1) k1) h
theorem wakeSup_safe {s : State} (h : s.safe) : s.wakeSup.safe := modSlot_safe h
theorem sawError_safe {s : State} {w : World} {f : Fail} (h : s.safe) : (s.sawError w f).safe := ite_safe h h
theorem postRecOf_safe {s : State} {w : World} {sl : SlotId} {f : Fail} {pc insn : Word} (h : s.safe) :
    (s.postRecOf w sl f pc insn).safe := enqueueRec_safe (sawError_safe h)
theorem postRec_safe {s : State} {sl : SlotId} {f : Fail} {pc insn : Word} (h : s.safe) : (s.postRec sl f pc insn).safe :=
  postRecOf_safe h
theorem semChanged_safe {s : State} {sm : Nat} (h : s.safe) : (s.semChanged sm).safe := ite_safe (post_safe h) h
theorem semSet_safe {s : State} {sm : BitVec 8} {v : Nat} (h : s.safe) : (s.semSet sm v).safe := semChanged_safe h

theorem restoreWait_safe {s : State} (h : s.safe) : s.restoreWait.safe := by
  unfold State.restoreWait
  split
  · exact h
  · exact semSet_safe (modCur_safe h)

theorem repStop_safe {s : State} {i : SlotId} (h : s.safe) : (s.repStop i).safe := by
  unfold State.repStop
  split
  · exact h
  · refine modSlot_safe ?_
    split
    · exact semSet_safe (leaveQueue_safe h)
    · exact leaveQueue_safe h

theorem parkTrap_safe {s : State} {i : SlotId} {f : Fail} {pc : Word} {word : BitVec 96} (h : s.safe) :
    (s.parkTrap i f pc word).safe := enqueueRec_safe (leaveQueue_safe (modSlot_safe (repStop_safe h)))

theorem supTrap_safe {s : State} {f : Fail} {pc : Word} {word : BitVec 96} (h : s.safe) : (s.supTrap f pc word).safe :=
  ite_safe (notice_safe (with_safe (modSlot_safe (leaveQueue_safe h)))) (modSlot_safe (with_safe (modSlot_safe
    (leaveQueue_safe h))))

theorem peerEnd_safe {s : State} (h : s.safe) : s.peerEnd.safe := ite_safe h (modCur_safe h)
theorem advance_safe {s : State} (h : s.safe) : s.advance.safe := modCur_safe h
theorem retired_safe {s : State} (h : s.safe) : s.retired.safe := modCur_safe (peerEnd_safe (leaveQueue_safe h))
theorem semAdd_safe {s : State} {sm : BitVec 8} {n : Nat} (h : s.safe) : (s.semAdd sm n).1.safe := semSet_safe h
theorem holdSig_safe {s : State} {y : Hdr} {pc : Word} {gone : Bool} (h : s.safe) : (s.holdSig y pc gone).safe := h
theorem signal_safe {s : State} {y : Hdr} (h : s.safe) : (s.signal y).safe :=
  ite_safe h (ite_safe (holdSig_safe h) (ite_safe (takeTrap_safe (semAdd_safe h) _) (semAdd_safe h)))

theorem postHeld_safe {s : State} {y : HeldSig} (h : s.safe) : (s.postHeld y).safe :=
  ite_safe (ite_safe h (semAdd_safe h)) (ite_safe (postRec_safe (ite_safe h (semAdd_safe h))) (ite_safe (modSlot_safe
    (ite_safe h (semAdd_safe h))) (withWord_safe (onSlot_safe (takeTrap_safe (withWord_safe (onSlot_safe (ite_safe h
    (semAdd_safe h)))) _)))))

theorem postSigs_safe {s : State} (h : s.safe) : s.postSigs.safe := foldl_safe (fun _ _ k1 => postHeld_safe k1) h

theorem engineSignal_safe {s : State} {sl : SlotId} {sm : BitVec 8} {inc : BitVec 4} {pc insn : Word} (h : s.safe) :
    (s.engineSignal sl sm inc pc insn).safe :=
  ite_safe h (ite_safe (postRec_safe h) (ite_safe (postRec_safe (semAdd_safe h)) (semAdd_safe h)))

/-! ### `Machine/Mem` -/

theorem cacheLeaf_safe {s : State} {w : World} {va : Nat} (h : s.safe) : (s.cacheLeaf w va).safe := by
  unfold State.cacheLeaf
  refine when_safe ?_ (fun _ => h)
  split <;> exact h

theorem trigSlots_safe {s : State} {e : Seen} {a : List SlotId} (h : s.safe) : (s.trigSlots e a).safe := by
  induction a generalizing s with
  | nil => exact h
  | cons _ _ ih =>
    unfold State.trigSlots
    exact ih (ite_safe h (ite_safe (post_safe (modSlot_safe h)) (modSlot_safe h)))

theorem trigTows_safe {s : State} {old new : List ParkedMon} (h : s.safe) : (s.trigTows old new).safe :=
  foldl_safe (fun _ _ k1 => ite_safe (post_safe k1) k1) h
theorem triggerBy_safe {s : State} {e : Seen} (h : s.safe) : (s.triggerBy e).safe := with_safe (trigTows_safe (trigSlots_safe h))
theorem trigger_safe {s : State} {n n1 : Nat} (h : s.safe) : (s.trigger n n1).safe := triggerBy_safe h
theorem listBad_safe {s : State} {w : World} {l : Nat} (h : s.safe) : (s.listBad w l).safe :=
  ite_safe h (ite_safe (with_safe h) (notice_safe (with_safe h)))
theorem unlistLine_safe {s : State} {l : Nat} (h : s.safe) : (s.unlistLine l).safe := notice_safe h
theorem reseal_safe {s : State} {n n1 : Nat} (h : s.safe) : (s.reseal n n1).safe := h

theorem sealAt_safe {s : State} {w : World} {va k n : Nat} (h : s.safe) : (s.sealAt w va k n).safe := by
  unfold State.sealAt
  split
  · exact h
  · split
    · refine foldl_safe (fun t l k => ?_) h
      exact k
    · exact h

theorem filterMem_safe {s : State} {p : Host.Cell → Bool} {q : Nat → Bool} (h : s.safe) :
    ({ s with mem := s.mem.filter p, tags := s.tags.filter q } : State).safe :=
  ⟨⟨(cellsWf_filter (cells_of_safe h) p :), (tags_of_safe h).filter _, (full_of_safe h :)⟩, (fits_of_safe h :)⟩
theorem zeroRange_safe {s : State} {k n : Nat} (h : s.safe) : (s.zeroRange k n).safe := by
  unfold State.zeroRange
  split
  · exact h
  · refine trigger_safe (foldl_safe (fun _ _ h => unlistLine_safe h) ?_)
    exact with_safe (filterMem_safe h)

theorem fullChanged_safe {s : State} {g : Nat} (h : s.safe) : (s.fullChanged g).safe := ite_safe (post_safe h) h

theorem engineWrite_safe {s : State} {n : Nat} {bs : List Byte} (h : s.safe) : (s.engineWrite n bs).safe := by
  unfold State.engineWrite
  split
  · exact foldl_safe (fun _ _ k1 => setFull_safe k1) (writeBytes_safe h)
  · exact writeBytes_safe h

theorem setFifo_safe {s : State} {ix : Nat} {l : List Cap} (h : s.safe) : (s.setFifo ix l).safe := post_safe h
theorem fifoTaken_safe {s : State} {ix n : Nat} (h : s.safe) : (s.fifoTaken ix n).safe := with_safe (setFifo_safe h)

theorem fifoPut_safe {s : State} {ix : Nat} {gs : List Cap} (h : s.safe) : (s.fifoPut ix gs).safe := by
  unfold State.fifoPut
  refine setFifo_safe ?_
  refine foldl_safe (fun t a k => ?_) h
  exact ite_safe (notice_safe k) k

/-! ### `Machine/Cache` -/

theorem setCache_safe {s : State} {c : Cache} (h : s.safe) : (s.setCache c).safe := h

theorem touchCluster_safe {s : State} {i : SlotId} {w : World} {y : Hint} {va : Nat} {data : List Byte} {tags : List Bool}
  (h : s.safe) :
    (s.touchCluster i w y va data tags).safe := by
  unfold State.touchCluster
  refine when_safe ?_ (fun _ => h)
  refine when_safe ?_ (fun _ => setCache_safe h)
  split <;> exact setCache_safe h

theorem storeTouch_safe {s : State} {i : SlotId} {w : World} {y : Hint} {va n : Nat} (h : s.safe) :
    (s.storeTouch i w y va n).safe := by
  unfold State.storeTouch
  dsimp only
  refine when_safe ?_ (fun _ => h)
  refine when_safe ?_ (fun _ => setCache_safe h)
  refine foldl_safe (fun t a k => ?_) (setCache_safe h)
  split
  · exact setCache_safe k
  · exact k

theorem dropWorld_safe {s : State} {w : World} (h : s.safe) : (s.dropWorld w).safe := setCache_safe h
theorem dropLine_safe {s : State} {w : World} {va : Nat} (h : s.safe) : (s.dropLine w va).safe := setCache_safe h
theorem dropBanks_safe {s : State} (h : s.safe) : s.dropBanks.safe := setCache_safe h
theorem cacheStore_safe {s : State} {w : World} {va : Nat} {bs : List Byte} {tags : List Bool} (h : s.safe) :
    (s.cacheStore w va bs tags).safe := ite_safe h (setCache_safe h)
theorem cacheRefresh_safe {s : State} {key n : Nat} (h : s.safe) : (s.cacheRefresh key n).safe := ite_safe h (setCache_safe h)
theorem sweepCache_safe {s : State} {f : Cap → Bool} (h : s.safe) : (s.sweepCache f).safe := setCache_safe h
theorem forgetCaches_safe {s : State} {w : World} (h : s.safe) : (s.forgetCaches w).safe := setCache_safe h
theorem touchQuay_safe {s : State} {i : SlotId} {w : World} {y : Hint} {q : Fin 128} {key : Nat} {dirty : Bool} (h : s.safe) :
    (s.touchQuay i w y q key dirty).safe := foldl_safe (fun _ _ k1 => listBad_safe k1) h

theorem touchQuays_safe {s : State} {i : SlotId} {w : World} {y : Hint} {key va n : Nat} {dirty : Bool} (h : s.safe) :
    (s.touchQuays i w y key va n dirty).safe := by
  unfold State.touchQuays
  split
  · exact h
  · exact foldl_safe (fun _ _ k1 => touchQuay_safe k1) h

theorem sawLine_safe {s : State} {w : World} {key va : Nat} (h : s.safe) : (s.sawLine w key va).safe :=
  ite_safe (listBad_safe h) h
theorem cleanLine_safe {s : State} {w : World} {key va : Nat} (h : s.safe) : (s.cleanLine w key va).safe :=
  with_safe (sawLine_safe h)
theorem dropCopy_safe {s : State} {line : Nat} {die : Fin 4} (h : s.safe) : (s.dropCopy line die).safe := h

theorem readQuays_safe {s : State} {i : SlotId} {w : World} {y : Hint} {main key va : Nat} (h : s.safe) :
    (s.readQuays i w y main key va).safe :=
  ite_safe h (ite_safe (touchQuays_safe h) (ite_safe (touchQuay_safe h) (with_safe (touchQuay_safe (touchQuays_safe h)))))

theorem dropOlder_safe {s : State} {w : World} {y : Hint} {key va : Nat} (h : s.safe) : (s.dropOlder w y key va).safe :=
  ite_safe h (ite_safe (with_safe (dropCopy_safe (ite_safe (dropLine_safe h) h))) (ite_safe (dropLine_safe h) h))

theorem dupWrite_safe {s : State} {own : Bool} {key n : Nat} (h : s.safe) : (s.dupWrite own key n).safe := by
  unfold State.dupWrite
  split
  · exact h
  · exact with_safe (foldl_safe (fun _ _ k1 => dropCopy_safe k1) h)

theorem stored_safe {s : State} {i : SlotId} {w : World} {y : Hint} {key va : Nat} {bs : List Byte} {tags : List Bool}
  (h : s.safe) :
    (s.stored i w y key va bs tags).safe := ite_safe h (touchQuays_safe (storeTouch_safe (cacheStore_safe h)))

theorem readLine_safe {s : State} {i : SlotId} {w : World} {y : Hint} {key main va n : Nat} (h : s.safe) :
    EitherIn (fun (a : List Byte × State) => a.2.safe) (fun (_ : Nat × Nat) => True) (s.readLine i w y key main va n) := by
  unfold State.readLine
  split
  · exact .ok (touchCluster_safe h)
  · split
    · exact .error trivial
    · exact .ok (touchCluster_safe (dropOlder_safe (readQuays_safe h)))

theorem readLines_safe {s : State} {i : SlotId} {w : World} {y : Hint} {key main va : Nat} {a : List (Nat × Nat)} (h : s.safe) :
    EitherIn (fun (a : List Byte × State) => a.2.safe) (fun (_ : Nat × Nat) => True) (s.readLines i w y key main va a) := by
  induction a generalizing s key main va with
  | nil => exact .ok h
  | cons _ _ ih =>
    unfold State.readLines
    split
    · exact .error trivial
    · rename_i a2 t e
      split
      · exact .error trivial
      · rename_i a4 t1 e1
        exact .ok ((ih ((readLine_safe h).1 (a2, t) e)).1 (a4, t1) e1)

theorem readRange_safe {s : State} {i : SlotId} {w : World} {y : Hint} {key main va n : Nat} (h : s.safe) :
    EitherIn (fun (a : List Byte × State) => a.2.safe) (fun (_ : Nat × Nat) => True) (s.readRange i w y key main va n) := by
  unfold State.readRange
  split
  · split
    · exact .error trivial
    · exact .ok h
  · exact readLines_safe h

/-! ### `Machine/Access` -/

theorem askPageAt_safe {s : State} {quay : Fin 128} {w : World} {va : Nat} {why : PageReason} (h : s.safe) :
    (s.askPageAt quay w va why).safe := ite_safe h h
theorem askPage_safe {s : State} {w : World} {va : Nat} {why : PageReason} (h : s.safe) : (s.askPage w va why).safe :=
  askPageAt_safe h
theorem filterAway_safe {s : State} (h : s.safe) : s.filterAway.safe := ite_safe h h

theorem compRead_safe {s : State} {i : SlotId} {w : World} {y : Hint} {key main bm s0 va n : Nat} (h : s.safe) :
    EitherIn (fun (a : List Byte × State) => a.2.safe) (fun (_ : Nat × Nat) => True) (s.compRead i w y key main bm s0 va n) := by
  unfold State.compRead
  dsimp only
  split
  · exact .ok (touchCluster_safe h)
  · split
    · exact .error trivial
    · exact .ok (touchCluster_safe (touchQuays_safe h))

theorem compReads_safe {s : State} {i : SlotId} {w : World} {y : Hint} {key main bm s0 va : Nat} {a : List (Nat × Nat)}
  (h : s.safe) :
    EitherIn (fun (a : List Byte × State) => a.2.safe) (fun (_ : Nat × Nat) => True) (s.compReads i w y key main bm s0 va a) := by
  induction a generalizing s key main bm s0 va with
  | nil => exact .ok h
  | cons _ _ ih =>
    unfold State.compReads
    split
    · exact .error trivial
    · rename_i a2 t e
      split
      · exact .error trivial
      · rename_i a4 t1 e1
        exact .ok ((ih ((compRead_safe h).1 (a2, t) e)).1 (a4, t1) e1)

theorem peerUsed_safe {s : State} {a n : Nat} (h : s.safe) : (s.peerUsed a n).safe := ite_safe h (modCur_safe h)

theorem cwinOpen_safe {s : State} {i : Fin 16} {k : Nat} (h : s.safe) : (s.cwinOpen i k).safe := by
  unfold State.cwinOpen
  generalize leBytes 8 0 = a
  generalize leBytes 8 ((s.nat (k + 8) 4 + 1) % 2 ^ 32) = b
  generalize leBytes 4 0 = c
  exact with_safe (writeBytes_safe (writeBytes_safe (writeBytes_safe h)))

theorem setTags_safe {s : State} {l : List (Nat × Bool)} (h : s.safe) :
    (l.foldl (fun s g => { s with tags := natSet s.tags g.1 g.2 }) s).safe := by
  refine foldl_safe (fun t g k => ?_) h
  exact safe_of_tags k (natSet_rising (tags_of_safe k) _ _) rfl rfl rfl
theorem performAt_safe {s : State} {i : SlotId} {own : Bool} {w : World} {y : Hint} {key va : Nat} {bs : List Byte}
  {tags : List Bool}
    (h : s.safe) : (s.performAt i own w y key va bs tags).safe := by
  unfold State.performAt
  split
  · refine foldl_safe (fun _ _ k => dropLine_safe k) (stored_safe (sealAt_safe (setTags_safe ?_)))
    split
    · exact cwinOpen_safe (dupWrite_safe h)
    · exact writeBytes_safe (dupWrite_safe h)
  · refine sealAt_safe (setTags_safe ?_)
    split
    · exact cwinOpen_safe (dupWrite_safe h)
    · exact writeBytes_safe (dupWrite_safe h)

theorem logPut_safe {s : State} {e : LogEntry} (h : s.safe) : (s.logPut e).safe := h

theorem logStore_safe {s : State} {sl : SlotId} {e : LogEntry} (h : s.safe) : RunsIn State.safe (logStore s sl e) := by
  unfold logStore
  split
  · exact .ok (logPut_safe h)
  · exact .error h

theorem rowsLost_safe {s : State} {e : LogEntry} (h : s.safe) : (s.rowsLost e).safe := ite_safe h h

theorem discard_safe {s : State} {e : LogEntry} {f : Fail} (h : s.safe) : (e.discard f s).safe := by
  unfold LogEntry.discard
  split
  · exact postRecOf_safe (rowsLost_safe h)
  · exact h

theorem sendUpdate_safe {s : State} {u : Update} (h : s.safe) : (s.sendUpdate u).safe := post_safe h
theorem sendPacket_safe {s : State} {p : PeerStore} (h : s.safe) : (s.sendPacket p).safe := triggerBy_safe h
theorem sendPeer_safe {s : State} {p : PeerStore} {bs : List Byte} {tags : List Bool} (h : s.safe) :
    (s.sendPeer p bs tags).safe := foldl_safe (fun _ _ k1 => sendPacket_safe k1) h

theorem replayStore_safe {s : State} {e : LogEntry} (h : s.safe) : SomeIn State.safe (s.replayStore e) := by
  unfold State.replayStore
  split
  · exact .some (discard_safe h)
  · exact .none
  · exact .none
  · exact .some (ite_safe (writeBytes_safe h) (discard_safe h))
  · exact .some (ite_safe (sendPeer_safe h) (discard_safe h))
  · split
    · exact .none
    · split
      · exact .some (discard_safe h)
      · split
        · exact .some (discard_safe h)
        · split
          · exact .some (discard_safe h)
          · exact .some (performAt_safe h)

theorem replayEntry_safe {s : State} {e : LogEntry} (h : s.safe) : SomeIn State.safe (s.replayEntry e) := by
  unfold State.replayEntry
  split
  · exact replayStore_safe h
  · split
    · exact .none
    · split
      · exact .none
      · exact .some (sendUpdate_safe h)
    · exact .some (sendUpdate_safe h)

theorem logAsk_safe {s : State} {e : LogEntry} (h : s.safe) : (s.logAsk e).safe := by
  unfold State.logAsk
  refine when_safe ?_ (fun _ => h)
  split
  · exact askPageAt_safe h
  · exact h

theorem replayThese_safe {s : State} {es : List LogEntry} (h : s.safe) : (s.replayThese es).safe := by
  induction es generalizing s with
  | nil => exact h
  | cons e es ih =>
    unfold State.replayThese
    split
    · next e1 =>
      split at e1
      · cases e1
      · exact ih (replayEntry_safe (with_safe h) _ e1)
    · exact ih (logAsk_safe h)

theorem replayPage_safe {s : State} {w : World} {va : Nat} (h : s.safe) : (s.replayPage w va).safe :=
  ite_safe h (ite_safe (replayThese_safe h) (post_safe (replayThese_safe h)))

theorem tierPost_safe {s : State} {c : PageCount} (h : s.safe) : (s.tierPost c).1.safe := by
  unfold State.tierPost
  split
  · exact h
  · exact h

theorem countPage_safe {s : State} {w : World} {q : Fin 128} {page : Nat} (h : s.safe) : (s.countPage w q page).safe := by
  unfold State.countPage
  refine with_safe ?_
  split
  · exact tierPost_safe h
  · exact h

theorem reachedPiece_safe {s : State} {w : World} {p : Piece} (h : s.safe) : (s.reachedPiece w p).safe := by
  unfold State.reachedPiece
  split
  · exact ite_safe h (ite_safe (countPage_safe (cacheLeaf_safe h)) (cacheLeaf_safe h))
  · exact h

theorem reached_safe {s : State} {w : World} {ps : List Piece} (h : s.safe) : (s.reached w ps).safe :=
  foldl_safe (fun _ _ k1 => reachedPiece_safe k1) h

theorem arrived_safe {s : State} {w : World} {ps : List Piece} (h : s.safe) : (s.arrived w ps).safe := by
  unfold State.arrived
  refine reached_safe ?_
  refine foldl_safe (fun t a k => ?_) h
  split
  · exact ite_safe k (replayPage_safe k)
  · exact k

theorem arrive_safe {s : State} {w : World} {ps : List Piece} (h : s.safe) : RunsIn State.safe (arrive s w ps) := by
  unfold arrive
  split
  · exact .error (post_safe h)
  · exact .ok (reached_safe h)

theorem askPeer_safe {s : State} {r : Reader} {dev rva : Nat} {p : Piece} (h : s.safe) : (s.askPeer r dev rva p).safe :=
  ite_safe h (modCur_safe h)

theorem rawPiece_safe {s : State} {r : Reader} {p : Piece} (h : s.safe) : AnswersIn State.safe (rawPiece s r p) := by
  unfold rawPiece
  split
  · exact .error h
  · split
    · exact .ok h
    · exact .error (askPage_safe h)
  · split
    · exact .ok h
    · exact .error h
  · split
    · exact .error h
    · split
      · exact .ok h
      · exact .error h
      · exact .error (askPeer_safe h)
  · split
    · split
      · exact .ok h
      · exact .error h
    · split
      · exact .error h
      · split
        · exact .error h
        · rename_i e1
          exact .ok ((readRange_safe h).1 _ e1)

theorem rawPieces_safe {s : State} {r : Reader} {a : List Piece} (h : s.safe) : AnswersIn State.safe (rawPieces s r a) := by
  induction a generalizing s with
  | nil => exact .ok h
  | cons _ _ ih =>
    unfold rawPieces
    exact (rawPiece_safe h).then_ fun _ k => (ih k).then_ fun _ k1 => .ok k1

theorem shadowRead_safe {s : State} {r : Reader} {a n : Nat} (h : s.safe) : AnswersIn State.safe (shadowRead s r a n) := by
  unfold shadowRead
  split
  · exact .error h
  · split
    · exact YieldsIn.then_ (.ok (arrived_safe h)) fun _ k => rawPieces_safe k
    · exact YieldsIn.then_ (arrive_safe h) fun _ k => rawPieces_safe k

theorem readPiece_safe {s : State} {r : Reader} {p : Piece} (h : s.safe) : AnswersIn State.safe (readPiece s r p) := by
  unfold readPiece
  split
  · split
    · refine (shadowRead_safe h).then_ fun _ k => ?_
      split
      · exact .error k
      · rename_i e2
        exact .ok ((compReads_safe k).1 _ e2)
    · exact rawPiece_safe h
  · exact rawPiece_safe h

theorem readPieces_safe {s : State} {r : Reader} {a : List Piece} (h : s.safe) : AnswersIn State.safe (readPieces s r a) := by
  induction a generalizing s with
  | nil => exact .ok h
  | cons _ _ ih =>
    unfold readPieces
    exact (readPiece_safe h).then_ fun _ k => (ih k).then_ fun _ k1 => .ok k1

theorem mixedLog_safe {s : State} {r : Reader} {ps : List Piece} (h : s.safe) : StopsIn State.safe (mixedLog s r ps) := by
  unfold mixedLog
  split
  · split
    · exact .error (askPage_safe h)
    · exact .error h
  · exact .ok _

theorem loadPiece_safe {s : State} {p : Piece} {y : Hint} {ask : PeerOp × Nat} (h : s.safe) :
    AnswersIn State.safe (loadPiece s p y ask) := readPiece_safe h
theorem loadPieces_safe {s : State} {ps : List Piece} {y : Hint} (h : s.safe) : AnswersIn State.safe (loadPieces s ps y) :=
  .bind (mixedLog_safe h) fun _ _ => readPieces_safe h

theorem accessChecks_safe {s : State} {c : Cap} {a n : Nat} {perm : BitVec 12} {use : BankUse} {align : Nat} (h : s.safe) :
    StopsIn State.safe (accessChecks s c a n perm use align) := by
  unfold accessChecks
  refine .bind (check_stops h _) fun _ _ => ?_
  split
  · exact .bind (check_stops h _) fun _ _ => .bind (guardR_stops h _ _ _ _) fun _ _ => .bind (check_stops h _)
      fun _ _ => guardR_stops h _ _ _ _
  · exact .bind (guardR_stops h _ _ _ _) fun _ _ => .bind (guardR_stops h _ _ _ _) fun _ _ => guardR_stops h _ _ _ _

theorem placed_safe {s : State} {c : Cap} {a n : Nat} {need : Need} (h : s.safe) : StopsIn State.safe (placed s c a n need) := by
  unfold placed
  split
  · exact .ok _
  · split
    · exact .ok _
    · exact .error h

theorem accessPieces_safe {s : State} {c : Cap} {a n : Nat} {perm : BitVec 12} {need : Need} {use : BankUse} {align : Nat}
  (h : s.safe) :
    StopsIn State.safe (accessPieces s c a n perm need use align) := .bind (accessChecks_safe h) fun _ _ => placed_safe h

theorem readable_safe {s : State} {c : Cap} {a n : Nat} (h : s.safe) : StopsIn State.safe (readable s c a n) := by
  unfold readable
  refine .bind (accessPieces_safe h) fun _ _ => ?_
  split
  · exact .error (askPage_safe h)
  · exact .ok _

theorem bitmapsReadable_safe {s : State} {c : Cap} {a : List Piece} (h : s.safe) :
    StopsIn State.safe (bitmapsReadable s c a) := by
  induction a generalizing s with
  | nil => exact .ok _
  | cons _ _ ih =>
    unfold bitmapsReadable
    split
    · split
      · exact .bind (readable_safe h) fun _ _ => ih h
      · exact ih h
    · exact .ok _
    · exact ih h

theorem loadBytes_safe {s : State} {c : Cap} {a n : Nat} {perm : BitVec 12} {align : Nat} {y : Hint} (h : s.safe) :
    AnswersIn State.safe (loadBytes s c a n perm align y) :=
  .bind (accessPieces_safe h) fun _ _ => .bind (bitmapsReadable_safe h) fun _ _ => YieldsIn.then_ (arrive_safe h)
    fun _ k2 => loadPieces_safe k2

theorem releaseWait_safe {s : State} {scope : Nat} (h : s.safe) : StopsIn State.safe (releaseWait s scope) := by
  unfold releaseWait
  split
  · exact .error h
  · split
    · exact .error h
    · exact .ok _

theorem logPiece_safe {s : State} {q : Fin 128} {p : Piece} {bs : List Byte} {tags : List Bool} {n : StoreAs} (h : s.safe) :
    RunsIn State.safe (logPiece s q p bs tags n) := logStore_safe h

theorem storeFails_safe {s : State} {n : StoreAs} {va cause aux : Nat} (h : s.safe) :
    RunsIn State.safe (storeFails s n va cause aux) := by
  unfold storeFails
  split
  · exact .ok (postRec_safe h)
  · exact .error h

theorem storePiece_safe {s : State} {p : Piece} {bs : List Byte} {tags : List Bool} {n : StoreAs} (h : s.safe) :
    RunsIn State.safe (storePiece s p bs tags n) := by
  unfold storePiece
  split
  · exact logPiece_safe h
  · split
    · exact .error h
    · exact logPiece_safe (askPage_safe h)
    · split
      · exact .ok (writeBytes_safe h)
      · exact .error h
    · split
      · exact storeFails_safe h
      · exact .ok (sendPeer_safe h)
    · split
      · exact logPiece_safe h
      · split
        · exact storeFails_safe h
        · split
          · exact storeFails_safe h
          · split
            · exact .error h
            · exact .ok (performAt_safe h)

theorem storePieces_safe {s : State} {ps : List Piece} {bs : List Byte} {ts : List Bool} {n : StoreAs} (h : s.safe) :
    RunsIn State.safe (storePieces s ps bs ts n) := by
  induction ps generalizing s bs ts with
  | nil => exact .ok h
  | cons _ _ ih =>
    unfold storePieces
    exact (storePiece_safe h).then_ fun _ k => ih k

theorem asking_safe {s t : State} (h : s.safe) : (s.asking t).safe := modCur_safe h

theorem allOrNone_safe {s : State} {r : R State} (h : s.safe) (hr : RunsIn State.safe r) : RunsIn State.safe (allOrNone s r) := by
  unfold allOrNone
  split
  · exact hr
  · next st t => exact .error (asking_safe h)

theorem storeBytes_safe {s : State} {c : Cap} {a : Nat} {bs : List Byte} {align : Nat} {n : StoreAs} (h : s.safe) :
    RunsIn State.safe (storeBytes s c a bs align n) :=
  .bind (accessPieces_safe h) fun _ _ => (arrive_safe h).then_ fun _ k1 => allOrNone_safe h (storePieces_safe k1)

/-! ### `Machine/Flags` -/

theorem raiseFlags_safe {s : State} {fl : Flags} (h : s.safe) : RunsIn State.safe (raiseFlags s fl) := by
  unfold raiseFlags
  split
  · exact .error h
  · exact .ok (modCur_safe h)

theorem orFlags_safe {s : State} {i : SlotId} {fl : Flags} (h : s.safe) : (s.orFlags i fl).safe := modSlot_safe h

/-! ### `Machine/Operands` -/

theorem noPort_safe {s : State} {r : BitVec 6} (h : s.safe) : StopsIn State.safe (noPort s r) := by
  unfold noPort
  split
  · exact .error h
  · exact .ok _

theorem portSound_safe {s : State} {i : Fin 4} (h : s.safe) : StopsIn State.safe (portSound s i) := by
  unfold portSound
  dsimp only
  split
  · exact .error h
  · split
    · exact .error (modCur_safe h)
    · exact .ok _

theorem portUsable_safe {s : State} {i : Fin 4} {write : Bool} (h : s.safe) : StopsIn State.safe (portUsable s i write) := by
  unfold portUsable
  exact .bind (guardR_stops h _ _ _ _) fun _ _ => .bind (portSound_safe h) fun _ _ => .bind (guardR_stops h _ _ _ _)
    fun _ _ => guardR_stops h _ _ _ _

theorem readV_safe {s : State} {r : BitVec 6} (h : s.safe) : StopsIn State.safe (readV s r) := by
  unfold readV
  dsimp only
  split
  · exact .ok _
  · refine .bind (portUsable_safe h) fun _ _ => ?_
    split
    · exact .error (post_safe h)
    · exact .ok _
    · exact .error (modCur_safe h)

theorem popPorts_safe {s : State} {a : List (BitVec 6)} {a1 : List (Fin 4)} (h : s.safe) : (popPorts s a a1).safe := by
  induction a generalizing s a1 with
  | nil => exact h
  | cons _ _ ih =>
    unfold popPorts
    split
    · split
      · exact ih h
      · exact ih (post_safe (modCur_safe h))
    · exact ih h

theorem destReady_safe {s : State} {r : BitVec 6} (h : s.safe) : StopsIn State.safe (destReady s r) := by
  unfold destReady
  split
  · exact .ok _
  · refine .bind (portUsable_safe h) fun _ _ => ?_
    split
    · exact .error h
    · exact .ok _

theorem writeV_safe {s : State} {r : BitVec 6} {res : VRes} (h : s.safe) : (writeV s r res).safe := by
  unfold writeV
  split
  · exact modCur_safe h
  · exact post_safe (modCur_safe h)

theorem vecBody_safe {s : State} {d : BitVec 6} {srcs : List (BitVec 6)} {f : Slot → List Line → VRes} (h : s.safe) :
    RunsIn State.safe (vecBody d srcs f s) := by
  unfold vecBody
  refine .bind (mapM_stops (fun _ _ => readV_safe h)) fun _ _ => ?_
  exact .bind (destReady_safe h) fun _ _ => (raiseFlags_safe h).then_ fun _ k2 => .ok (writeV_safe (popPorts_safe k2))

theorem vecRead_safe {s : State} {srcs : List (BitVec 6)} {f : Slot → List Line → Flags × (State → State)} (h : s.safe)
    (hf : ∀ sl vs t, t.safe → ((f sl vs).2 t).safe) : RunsIn State.safe (vecRead srcs f s) := by
  unfold vecRead
  refine .bind (mapM_stops fun _ _ => readV_safe h) fun vs _ => ?_
  exact (raiseFlags_safe h).then_ fun t k => .ok (hf _ _ _ (popPorts_safe k))

/-! ### `Machine/Control` -/

theorem setPcc_safe {s : State} {c : Cap} (h : s.safe) : (s.setPcc c).safe := modCur_safe h
theorem execBr_safe {s : State} {o : IOp} (h : s.safe) : KeepsSafe (execBr o s) := finishJump_keepsSafe (.ok (setPcc_safe h))
theorem execJmp_safe {s : State} {o : ROp} (h : s.safe) : KeepsSafe (execJmp o s) := finishJump_keepsSafe (.ok (setPcc_safe h))

theorem execCall_safe {s : State} {o : RIOp} (h : s.safe) : KeepsSafe (execCall o s) := by
  unfold execCall
  exact finishJump_keepsSafe (.ok (setPcc_safe (wc_safe h)))

theorem execRet_safe {s : State} {o : ROp} (h : s.safe) : KeepsSafe (execRet o s) := finishJump_keepsSafe (.ok (setPcc_safe h))

theorem execLoop_safe {s : State} {o : IOp} (h : s.safe) : KeepsSafe (execLoop o s) := by
  unfold execLoop
  exact finishJump_keepsSafe (.ok (setPcc_safe (wx_safe h)))

theorem execNop_safe {s : State} {o : ROp} (h : s.safe) : KeepsSafe (execNop o s) := finish_keepsSafe (.ok h)

/-! ### `Machine/Vector` -/

theorem lanes1_safe {a : State} {o : ROp} {f : FpEnv → Nat → Nat × Flags} (h : a.safe) : RunsIn State.safe (lanes1 o f a) :=
  vecBody_safe h
theorem lanes2_safe {a : State} {o : ROp} {f : FpEnv → Nat → Nat → Nat × Flags} (h : a.safe) : RunsIn State.safe (lanes2 o f a) :=
  vecBody_safe h
theorem lanes3_safe {a : State} {o : ROp} {f : FpEnv → Nat → Nat → Nat → Nat × Flags} (h : a.safe) :
    RunsIn State.safe (lanes3 o f a) := vecBody_safe h
theorem vaddB_safe {a : State} {o : ROp} (h : a.safe) : RunsIn State.safe (vaddB o a) := lanes2_safe h
theorem vsubB_safe {a : State} {o : ROp} (h : a.safe) : RunsIn State.safe (vsubB o a) := lanes2_safe h
theorem vmulB_safe {a : State} {o : ROp} (h : a.safe) : RunsIn State.safe (vmulB o a) := lanes2_safe h
theorem vfmaB_safe {a : State} {o : ROp} (h : a.safe) : RunsIn State.safe (vfmaB o a) := lanes3_safe h
theorem vfmsB_safe {a : State} {o : ROp} (h : a.safe) : RunsIn State.safe (vfmsB o a) := lanes3_safe h
theorem vminB_safe {a : State} {o : ROp} (h : a.safe) : RunsIn State.safe (vminB o a) := lanes2_safe h
theorem vmaxB_safe {a : State} {o : ROp} (h : a.safe) : RunsIn State.safe (vmaxB o a) := lanes2_safe h
theorem vabsB_safe {a : State} {o : ROp} (h : a.safe) : RunsIn State.safe (vabsB o a) := lanes1_safe h
theorem vnegB_safe {a : State} {o : ROp} (h : a.safe) : RunsIn State.safe (vnegB o a) := lanes1_safe h
theorem vandB_safe {a : State} {o : ROp} (h : a.safe) : RunsIn State.safe (vandB o a) := lanes2_safe h
theorem vorB_safe {a : State} {o : ROp} (h : a.safe) : RunsIn State.safe (vorB o a) := lanes2_safe h
theorem vxorB_safe {a : State} {o : ROp} (h : a.safe) : RunsIn State.safe (vxorB o a) := lanes2_safe h
theorem vmovB_safe {a : State} {o : ROp} (h : a.safe) : RunsIn State.safe (vmovB o a) := lanes1_safe h
theorem vclampB_safe {a : State} {o : ROp} (h : a.safe) : RunsIn State.safe (vclampB o a) := lanes3_safe h

theorem vshiftB_safe {a1 : State} {f : Nat → Nat → Nat → Nat} {a : RIOp} (h : a1.safe) : RunsIn State.safe (vshiftB f a a1) := by
  unfold vshiftB
  split
  · exact lanes2_safe h
  · exact vecBody_safe h

theorem vshlB_safe {a : State} {o : RIOp} (h : a.safe) : RunsIn State.safe (vshlB o a) := vshiftB_safe h
theorem vshrB_safe {a : State} {o : RIOp} (h : a.safe) : RunsIn State.safe (vshrB o a) := vshiftB_safe h
theorem vcmpB_safe {a : State} {o : ROp} (h : a.safe) : RunsIn State.safe (vcmpB o a) :=
  vecRead_safe h (fun _ _ _ k1 => wk_safe k1)
theorem vselB_safe {a : State} {o : ROp} (h : a.safe) : RunsIn State.safe (vselB o a) := vecBody_safe h
theorem vcvtB_safe {a : State} {o : ROp} (h : a.safe) : RunsIn State.safe (vcvtB o a) := vecBody_safe h
theorem vdotB_safe {a : State} {o : ROp} (h : a.safe) : RunsIn State.safe (vdotB o a) := vecBody_safe h
theorem vsclB_safe {a : State} {o : ROp} (h : a.safe) : RunsIn State.safe (vsclB o a) := vecBody_safe h
theorem vbcastB_safe {a : State} {o : RIOp} (h : a.safe) : RunsIn State.safe (vbcastB o a) := vecBody_safe h
theorem vinsB_safe {a : State} {o : ROp} (h : a.safe) : RunsIn State.safe (vinsB o a) := vecBody_safe h
theorem vextB_safe {a : State} {o : ROp} (h : a.safe) : RunsIn State.safe (vextB o a) :=
  vecRead_safe h (fun _ _ _ k1 => wx_safe k1)
theorem kop_safe {s : State} {o : ROp} {f : Gran → Gran → Gran} (h : s.safe) : RunsIn State.safe (kop o f s) := .ok (wk_safe h)
theorem kandB_safe {a : State} {o : ROp} (h : a.safe) : RunsIn State.safe (kandB o a) := kop_safe h
theorem korB_safe {a : State} {o : ROp} (h : a.safe) : RunsIn State.safe (korB o a) := kop_safe h
theorem kxorB_safe {a : State} {o : ROp} (h : a.safe) : RunsIn State.safe (kxorB o a) := kop_safe h
theorem knotB_safe {a : State} {o : ROp} (h : a.safe) : RunsIn State.safe (knotB o a) := kop_safe h
theorem kpopB_safe {s : State} {o : ROp} (h : s.safe) : RunsIn State.safe (kpopB o s) := .ok (wx_safe h)
theorem kfirstB_safe {s : State} {o : ROp} (h : s.safe) : RunsIn State.safe (kfirstB o s) := .ok (wx_safe h)
theorem ksetB_safe {s : State} {o : RIOp} (h : s.safe) : RunsIn State.safe (ksetB o s) := .ok (wk_safe h)

theorem kmovB_safe {s : State} {o : ROp} (h : s.safe) : RunsIn State.safe (kmovB o s) := by
  unfold kmovB
  refine .ok ?_
  split
  · exact wk_safe h
  · exact wk_safe h
  · exact wx_safe h
  · exact wx_safe h

theorem execVadd_safe {s : State} {o : ROp} (h : s.safe) : KeepsSafe (execVadd o s) := finish_keepsSafe (vaddB_safe h)
theorem execVsub_safe {s : State} {o : ROp} (h : s.safe) : KeepsSafe (execVsub o s) := finish_keepsSafe (vsubB_safe h)
theorem execVmul_safe {s : State} {o : ROp} (h : s.safe) : KeepsSafe (execVmul o s) := finish_keepsSafe (vmulB_safe h)
theorem execVfma_safe {s : State} {o : ROp} (h : s.safe) : KeepsSafe (execVfma o s) := finish_keepsSafe (vfmaB_safe h)
theorem execVfms_safe {s : State} {o : ROp} (h : s.safe) : KeepsSafe (execVfms o s) := finish_keepsSafe (vfmsB_safe h)
theorem execVmin_safe {s : State} {o : ROp} (h : s.safe) : KeepsSafe (execVmin o s) := finish_keepsSafe (vminB_safe h)
theorem execVmax_safe {s : State} {o : ROp} (h : s.safe) : KeepsSafe (execVmax o s) := finish_keepsSafe (vmaxB_safe h)
theorem execVabs_safe {s : State} {o : ROp} (h : s.safe) : KeepsSafe (execVabs o s) := finish_keepsSafe (vabsB_safe h)
theorem execVneg_safe {s : State} {o : ROp} (h : s.safe) : KeepsSafe (execVneg o s) := finish_keepsSafe (vnegB_safe h)
theorem execVand_safe {s : State} {o : ROp} (h : s.safe) : KeepsSafe (execVand o s) := finish_keepsSafe (vandB_safe h)
theorem execVor_safe {s : State} {o : ROp} (h : s.safe) : KeepsSafe (execVor o s) := finish_keepsSafe (vorB_safe h)
theorem execVxor_safe {s : State} {o : ROp} (h : s.safe) : KeepsSafe (execVxor o s) := finish_keepsSafe (vxorB_safe h)
theorem execVshl_safe {s : State} {o : RIOp} (h : s.safe) : KeepsSafe (execVshl o s) := finish_keepsSafe (vshlB_safe h)
theorem execVshr_safe {s : State} {o : RIOp} (h : s.safe) : KeepsSafe (execVshr o s) := finish_keepsSafe (vshrB_safe h)
theorem execVcmp_safe {s : State} {o : ROp} (h : s.safe) : KeepsSafe (execVcmp o s) := finish_keepsSafe (vcmpB_safe h)
theorem execVsel_safe {s : State} {o : ROp} (h : s.safe) : KeepsSafe (execVsel o s) := finish_keepsSafe (vselB_safe h)
theorem execVcvt_safe {s : State} {o : ROp} (h : s.safe) : KeepsSafe (execVcvt o s) := finish_keepsSafe (vcvtB_safe h)
theorem execVdot_safe {s : State} {o : ROp} (h : s.safe) : KeepsSafe (execVdot o s) := finish_keepsSafe (vdotB_safe h)
theorem execVscl_safe {s : State} {o : ROp} (h : s.safe) : KeepsSafe (execVscl o s) := finish_keepsSafe (vsclB_safe h)
theorem execVmov_safe {s : State} {o : ROp} (h : s.safe) : KeepsSafe (execVmov o s) := finish_keepsSafe (vmovB_safe h)
theorem execVbcast_safe {s : State} {o : RIOp} (h : s.safe) : KeepsSafe (execVbcast o s) := finish_keepsSafe (vbcastB_safe h)
theorem execVins_safe {s : State} {o : ROp} (h : s.safe) : KeepsSafe (execVins o s) := finish_keepsSafe (vinsB_safe h)
theorem execVext_safe {s : State} {o : ROp} (h : s.safe) : KeepsSafe (execVext o s) := finish_keepsSafe (vextB_safe h)
theorem execVclamp_safe {s : State} {o : ROp} (h : s.safe) : KeepsSafe (execVclamp o s) := finish_keepsSafe (vclampB_safe h)
theorem execKand_safe {s : State} {o : ROp} (h : s.safe) : KeepsSafe (execKand o s) := finish_keepsSafe (kandB_safe h)
theorem execKor_safe {s : State} {o : ROp} (h : s.safe) : KeepsSafe (execKor o s) := finish_keepsSafe (korB_safe h)
theorem execKxor_safe {s : State} {o : ROp} (h : s.safe) : KeepsSafe (execKxor o s) := finish_keepsSafe (kxorB_safe h)
theorem execKnot_safe {s : State} {o : ROp} (h : s.safe) : KeepsSafe (execKnot o s) := finish_keepsSafe (knotB_safe h)
theorem execKpop_safe {s : State} {o : ROp} (h : s.safe) : KeepsSafe (execKpop o s) := finish_keepsSafe (kpopB_safe h)
theorem execKfirst_safe {s : State} {o : ROp} (h : s.safe) : KeepsSafe (execKfirst o s) := finish_keepsSafe (kfirstB_safe h)
theorem execKset_safe {s : State} {o : RIOp} (h : s.safe) : KeepsSafe (execKset o s) := finish_keepsSafe (ksetB_safe h)
theorem execKmov_safe {s : State} {o : ROp} (h : s.safe) : KeepsSafe (execKmov o s) := finish_keepsSafe (kmovB_safe h)

/-! ### `Machine/Special` -/

theorem fnLanesRm_safe {a : State} {o : ROp} {f : Num → Num × Flags} (h : a.safe) : RunsIn State.safe (fnLanesRm o f a) :=
  lanes1_safe h
theorem fnLanes_safe {a : State} {o : ROp} {f : Num → Num × Flags} (h : a.safe) : RunsIn State.safe (fnLanes o f a) :=
  lanes1_safe h
theorem vrcpB_safe {a : State} {o : ROp} (h : a.safe) : RunsIn State.safe (vrcpB o a) := fnLanesRm_safe h
theorem vrsqB_safe {a : State} {o : ROp} (h : a.safe) : RunsIn State.safe (vrsqB o a) := fnLanesRm_safe h
theorem vsqrtB_safe {a : State} {o : ROp} (h : a.safe) : RunsIn State.safe (vsqrtB o a) := fnLanesRm_safe h
theorem vexp2B_safe {a : State} {o : ROp} (h : a.safe) : RunsIn State.safe (vexp2B o a) := fnLanes_safe h
theorem vlog2B_safe {a : State} {o : ROp} (h : a.safe) : RunsIn State.safe (vlog2B o a) := fnLanes_safe h
theorem vsinB_safe {a : State} {o : ROp} (h : a.safe) : RunsIn State.safe (vsinB o a) := fnLanes_safe h
theorem vcosB_safe {a : State} {o : ROp} (h : a.safe) : RunsIn State.safe (vcosB o a) := fnLanes_safe h
theorem vtanhB_safe {a : State} {o : ROp} (h : a.safe) : RunsIn State.safe (vtanhB o a) := fnLanes_safe h
theorem vsigmB_safe {a : State} {o : ROp} (h : a.safe) : RunsIn State.safe (vsigmB o a) := fnLanes_safe h
theorem vexpdB_safe {a : State} {o : ROp} (h : a.safe) : RunsIn State.safe (vexpdB o a) := lanes2_safe h
theorem vredsumB_safe {a : State} {o : ROp} (h : a.safe) : RunsIn State.safe (vredsumB o a) := vecBody_safe h
theorem extremeB_safe {a : State} {wantMax : Bool} {o : ROp} (h : a.safe) : RunsIn State.safe (extremeB wantMax o a) :=
  vecBody_safe h
theorem vredmaxB_safe {a : State} {o : ROp} (h : a.safe) : RunsIn State.safe (vredmaxB o a) := extremeB_safe h
theorem vredminB_safe {a : State} {o : ROp} (h : a.safe) : RunsIn State.safe (vredminB o a) := extremeB_safe h
theorem vscanB_safe {a : State} {o : ROp} (h : a.safe) : RunsIn State.safe (vscanB o a) := vecBody_safe h
theorem vpermB_safe {a : State} {o : ROp} (h : a.safe) : RunsIn State.safe (vpermB o a) := vecBody_safe h
theorem vshufB_safe {a : State} {o : ROp} (h : a.safe) : RunsIn State.safe (vshufB o a) := vecBody_safe h
theorem vpackB_safe {a : State} {o : ROp} (h : a.safe) : RunsIn State.safe (vpackB o a) := vecBody_safe h
theorem vunpackB_safe {a : State} {o : ROp} (h : a.safe) : RunsIn State.safe (vunpackB o a) := vecBody_safe h
theorem execVrcp_safe {s : State} {o : ROp} (h : s.safe) : KeepsSafe (execVrcp o s) := finish_keepsSafe (vrcpB_safe h)
theorem execVrsq_safe {s : State} {o : ROp} (h : s.safe) : KeepsSafe (execVrsq o s) := finish_keepsSafe (vrsqB_safe h)
theorem execVsqrt_safe {s : State} {o : ROp} (h : s.safe) : KeepsSafe (execVsqrt o s) := finish_keepsSafe (vsqrtB_safe h)
theorem execVexp2_safe {s : State} {o : ROp} (h : s.safe) : KeepsSafe (execVexp2 o s) := finish_keepsSafe (vexp2B_safe h)
theorem execVlog2_safe {s : State} {o : ROp} (h : s.safe) : KeepsSafe (execVlog2 o s) := finish_keepsSafe (vlog2B_safe h)
theorem execVsin_safe {s : State} {o : ROp} (h : s.safe) : KeepsSafe (execVsin o s) := finish_keepsSafe (vsinB_safe h)
theorem execVcos_safe {s : State} {o : ROp} (h : s.safe) : KeepsSafe (execVcos o s) := finish_keepsSafe (vcosB_safe h)
theorem execVtanh_safe {s : State} {o : ROp} (h : s.safe) : KeepsSafe (execVtanh o s) := finish_keepsSafe (vtanhB_safe h)
theorem execVsigm_safe {s : State} {o : ROp} (h : s.safe) : KeepsSafe (execVsigm o s) := finish_keepsSafe (vsigmB_safe h)
theorem execVexpd_safe {s : State} {o : ROp} (h : s.safe) : KeepsSafe (execVexpd o s) := finish_keepsSafe (vexpdB_safe h)
theorem execVredsum_safe {s : State} {o : ROp} (h : s.safe) : KeepsSafe (execVredsum o s) := finish_keepsSafe (vredsumB_safe h)
theorem execVredmax_safe {s : State} {o : ROp} (h : s.safe) : KeepsSafe (execVredmax o s) := finish_keepsSafe (vredmaxB_safe h)
theorem execVredmin_safe {s : State} {o : ROp} (h : s.safe) : KeepsSafe (execVredmin o s) := finish_keepsSafe (vredminB_safe h)
theorem execVscan_safe {s : State} {o : ROp} (h : s.safe) : KeepsSafe (execVscan o s) := finish_keepsSafe (vscanB_safe h)
theorem execVperm_safe {s : State} {o : ROp} (h : s.safe) : KeepsSafe (execVperm o s) := finish_keepsSafe (vpermB_safe h)
theorem execVshuf_safe {s : State} {o : ROp} (h : s.safe) : KeepsSafe (execVshuf o s) := finish_keepsSafe (vshufB_safe h)
theorem execVpack_safe {s : State} {o : ROp} (h : s.safe) : KeepsSafe (execVpack o s) := finish_keepsSafe (vpackB_safe h)
theorem execVunpack_safe {s : State} {o : ROp} (h : s.safe) : KeepsSafe (execVunpack o s) := finish_keepsSafe (vunpackB_safe h)

/-! ### `Machine/Stream` -/

theorem streamCheck_safe {s : State} {p : Port} (h : s.safe) : StopsIn State.safe (streamCheck s p) := by
  unfold streamCheck
  refine .bind (guardR_stops h _ _ _ _) fun _ _ => ?_
  refine .bind (guardR_stops h _ _ _ _) fun _ _ => ?_
  split
  · exact .error h
  · exact .ok _

theorem sbindCheck_safe {s : State} {c : Cap} {write : Bool} (h : s.safe) : StopsIn State.safe (sbindCheck s c write) := by
  unfold sbindCheck
  split
  · exact .error h
  · exact .ok _

theorem needBound_safe {s : State} {i : Fin 4} (h : s.safe) : StopsIn State.safe (needBound s i) := guardR_stops h _ _ _ _

theorem execSbind_safe {s : State} {o : ROp} (h : s.safe) : KeepsSafe (execSbind o s) := by
  unfold execSbind
  refine finish_keepsSafe ?_
  refine .bind (guardR_stops h _ _ _ _) fun _ _ => ?_
  refine .bind (sbindCheck_safe h) fun _ _ => ?_
  split
  · exact .error h
  · exact .ok (modCur_safe h)

theorem execSdim_safe {s : State} {o : RIOp} (h : s.safe) : KeepsSafe (execSdim o s) := by
  unfold execSdim
  exact finish_keepsSafe (.bind (needBound_safe h) fun _ _ => .bind (guardR_stops h _ _ _ _) fun _ _ => .bind
    (portSound_safe h) fun _ _ => .ok (modCur_safe h))

theorem postFetches_safe {s : State} {sl : SlotId} {i : Fin 4} {a : Nat} (h : s.safe) : (s.postFetches sl i a).safe := by
  induction a generalizing s with
  | zero => exact h
  | succ _ ih =>
    unfold State.postFetches
    exact ih (post_safe h)

theorem execSstart_safe {s : State} {o : ROp} (h : s.safe) : KeepsSafe (execSstart o s) := by
  unfold execSstart
  refine finish_keepsSafe ?_
  refine .bind (needBound_safe h) fun _ _ => ?_
  refine .bind (guardR_stops h _ _ _ _) fun _ _ => ?_
  exact .bind (portSound_safe h) fun _ _ => .bind (streamCheck_safe h) fun _ _ => .ok (ite_safe (modCur_safe h)
    (postFetches_safe (modCur_safe h)))

theorem poolFreed_safe {s : State} (h : s.safe) : s.poolFreed.safe := ite_safe (post_safe h) h

theorem rowsDone_safe {s : State} {i : Fin 4} (h : s.safe) : StopsIn State.safe (rowsDone s i) := by
  unfold rowsDone
  dsimp only
  split
  · exact .error h
  · exact .ok _

theorem execSstop_safe {s : State} {o : ROp} (h : s.safe) : KeepsSafe (execSstop o s) := by
  unfold execSstop
  exact finish_keepsSafe (.bind (needBound_safe h) fun _ _ => .bind (portSound_safe h) fun _ _ => .bind (rowsDone_safe h)
    fun _ _ => .ok (poolFreed_safe (modCur_safe h)))

theorem execSwait_safe {s : State} {o : ROp} (h : s.safe) : KeepsSafe (execSwait o s) := by
  unfold execSwait
  exact finish_keepsSafe (.bind (needBound_safe h) fun _ _ => .bind (portSound_safe h) fun _ _ => .bind (rowsDone_safe h)
    fun _ _ => .ok (wx_safe h))

theorem fetchRow_safe {s : State} {i : Fin 4} (h : s.safe) : (fetchRow s i).safe := by
  unfold fetchRow
  dsimp only
  refine when_safe h (fun k => ?_)
  split
  · rename_i a1 t e
    exact rouse_safe (modCur_safe (peerUsed_safe ((loadBytes_safe h).1 (a1, t) e)))
  · rename_i a1 t e
    exact rouse_safe (modCur_safe ((loadBytes_safe h).2 ((.trap a1), t) e))
  · rename_i a1 t _ e
    exact stall_safe ((loadBytes_safe h).2 (a1, t) e)

theorem execStreamRowFetch_safe {s : State} (h : s.safe) : KeepsSafe (execStreamRowFetch s) := by
  unfold execStreamRowFetch
  split
  · exact .next (fetchRow_safe (onSlot_safe h))
  · exact .none (by simp)

theorem storeRuns_safe {s : State} {c : Cap} {a : Nat} {n : StoreAs} {a1 : List (Nat × List Byte)} (h : s.safe) :
    RunsIn State.safe (storeRuns s c a n a1) := by
  induction a1 generalizing s a with
  | nil => exact .ok h
  | cons _ _ ih =>
    unfold storeRuns
    exact (storeBytes_safe h).then_ fun _ k => ih k

theorem storeNibble_safe {s : State} {ps : List Piece} {v w : Byte} {n : StoreAs} (h : s.safe) :
    RunsIn State.safe (storeNibble s ps v w n) := by
  unfold storeNibble
  split
  · exact YieldsIn.then_ (loadPieces_safe h) fun _ k => storePieces_safe k
  · exact storePieces_safe h

theorem storeNibbles_safe {s : State} {c : Cap} {a : Nat} {v wr : Line} {n : StoreAs} {a1 : List Nat} (h : s.safe) :
    RunsIn State.safe (storeNibbles s c a v wr n a1) := by
  induction a1 generalizing s a with
  | nil => exact .ok h
  | cons _ _ ih =>
    unfold storeNibbles
    exact .bind (accessPieces_safe h) fun _ _ => (storeNibble_safe h).then_ fun _ k1 => ih k1

theorem performRow_safe {s : State} {i : Fin 4} (h : s.safe) : (performRow s i).safe := by
  unfold performRow
  dsimp only
  split
  · refine when_safe h (fun k => ?_)
    split
    · rename_i e1
      exact unstall_safe (rouse_safe (modCur_safe ((allOrNone_safe h ((storeNibbles_safe h).then_
        fun _ k1 => storeRuns_safe k1)).1 _ e1)))
    · exact unstall_safe (rouse_safe (modCur_safe h))
    · rename_i a5 t _ e1
      exact stall_safe ((allOrNone_safe h ((storeNibbles_safe h).then_ fun _ k1 => storeRuns_safe k1)).2 (a5, t) e1)
  · exact h

theorem execStreamRowPerform_safe {s : State} (h : s.safe) : KeepsSafe (execStreamRowPerform s) := by
  unfold execStreamRowPerform
  split
  · exact .next (performRow_safe (onSlot_safe h))
  · exact .none (by simp)

/-! ### `Machine/Issue` -/

theorem fetchTranslate_safe {s : State} {a : List (Nat × Nat)} (h : s.safe) : StopsIn State.safe (fetchTranslate s a) := by
  induction a generalizing s with
  | nil => exact .ok _
  | cons _ _ ih =>
    unfold fetchTranslate
    split
    · exact ih h
    · split
      · exact .error h
      · exact .error (askPage_safe h)
      · exact ih h

theorem fetchStage_safe {s : State} {f : State → Nat → Option Fail} {a : List (Nat × Nat)} (h : s.safe) :
    StopsIn State.safe (fetchStage s f a) := by
  induction a generalizing s with
  | nil => exact .ok _
  | cons _ _ ih =>
    unfold fetchStage
    exact .bind (check_stops h _) fun _ _ => ih h

theorem fetchRead_safe {s : State} {va n : Nat} (h : s.safe) : AnswersIn State.safe (fetchRead s va n) := by
  unfold fetchRead
  dsimp only
  split
  · exact .error h
  · split
    · exact .error h
    · split
      · exact .error h
      · rename_i e1
        exact .ok (reachedPiece_safe ((readRange_safe h).1 _ e1))

theorem fetchReads_safe {s : State} {a : List (Nat × Nat)} (h : s.safe) : AnswersIn State.safe (fetchReads s a) := by
  induction a generalizing s with
  | nil => exact .ok h
  | cons _ _ ih =>
    unfold fetchReads
    exact (fetchRead_safe h).then_ fun _ k => (ih k).then_ fun _ k1 => .ok k1

theorem fetch_safe {s : State} (h : s.safe) : AnswersIn State.safe (fetch s) := by
  unfold fetch
  refine .bind (guardR_stops h _ _ _ _) fun _ _ => ?_
  refine .bind (guardR_stops h _ _ _ _) fun _ _ => ?_
  refine .bind (check_stops h _) fun _ _ => ?_
  split
  · refine .bind (check_stops h _) fun _ _ => ?_
    refine .bind (check_stops h _) fun _ _ => ?_
    split
    · exact .error h
    · exact .ok h
  · refine .bind (guardR_stops h _ _ _ _) fun _ _ => ?_
    refine .bind (fetchTranslate_safe h) fun _ _ => ?_
    exact .bind (fetchStage_safe h) fun _ _ => .bind (fetchStage_safe h) fun _ _ => .bind (fetchStage_safe h)
      fun _ _ => fetchReads_safe h

theorem passOver_safe {s : State} (h : s.safe) : s.passOver.safe := advance_safe (retired_safe h)

theorem waitSem_safe {s : State} {who : Who} {sm : BitVec 8} {thr : Nat} (h : s.safe) :
    SomeIn State.safe (s.waitSem who sm thr) := by
  unfold State.waitSem
  dsimp only
  split
  · exact .none
  · exact .some (leaveQueue_safe h)

theorem issuesAt_safe {s : State} {opc : Nat} {b : Body} (h : s.safe) : (issuesAt opc b s).safe :=
  ite_safe (filterAway_safe h) (goHome_safe (filterAway_safe h))

theorem passGuards_safe {s : State} {opc : Nat} {b : Body} (h : s.safe) :
    EitherIn State.safe State.safe (passGuards s opc b) := by
  unfold passGuards
  dsimp only
  split
  · exact .error (takeTrap_safe h _)
  · split
    · exact .error (passOver_safe h)
    · split
      · exact .error (takeTrap_safe h _)
      · split
        · exact .ok h
        · split
          · rename_i e2
            exact .ok (modCur_safe (waitSem_safe h _ e2))
          · exact .error (joinQueue_safe (modCur_safe h))

theorem arrivedHome_safe {s t : State} (h1 : t.safe) : SomeIn State.safe (arrivedHome s t) := by
  unfold arrivedHome
  split
  · exact .some (takeTrap_safe (modCur_safe h1) _)
  · exact .none

theorem regsSound_safe {s : State} {i : Instr} (h : s.safe) :
    EitherIn (fun (a : Instr × State) => a.2.safe) State.safe (regsSound i s) := by
  unfold regsSound
  split
  · exact .error (takeTrap_safe h _)
  · exact .ok h

theorem issued_safe {s : State} (h : s.safe) : s.issued.safe := ite_safe (post_safe (modCur_safe h)) (modCur_safe h)
theorem holding_safe {s : State} {bs : List Byte} (h : s.safe) : (s.holding bs).safe :=
  modCur_safe (issued_safe (withWord_safe h))

theorem passed_safe {s : State} {opc : Nat} {b : Body} (h : s.safe) : EitherIn State.safe State.safe (passed s opc b) := by
  unfold passed
  split
  · exact .ok (filterAway_safe h)
  · split
    · rename_i e
      exact .error (arrivedHome_safe (issuesAt_safe h) _ e)
    · exact passGuards_safe (issuesAt_safe h)

theorem readyFor_safe {s : State} {bs : List Byte} (h : s.safe) :
    EitherIn (fun (a : Instr × State) => a.2.safe) State.safe (readyFor s bs) := by
  unfold readyFor
  split
  · exact .error (takeTrap_safe h _)
  · split
    · exact .error (takeTrap_safe h _)
    · split
      · exact .error h
      · split
        · exact .error (takeTrap_safe h _)
        · split
          · exact .error (modCur_safe h)
          · split
            · rename_i e3
              split
              · exact .error (modCur_safe ((passed_safe h).1 _ e3))
              · exact regsSound_safe ((passed_safe h).1 _ e3)
            · rename_i e3
              exact .error ((passed_safe h).2 _ e3)

theorem boundaryFail_safe {s : State} (h : s.safe) : SomeIn (fun (a : Fail × State) => a.2.safe) (boundaryFail s) := by
  unfold boundaryFail
  split
  · exact .some (modCur_safe h)
  · split
    · exact .some (modCur_safe h)
    · split
      · exact .some (modCur_safe h)
      · exact .none

theorem onTurn_safe {s : State} {i : SlotId} (h : s.safe) : (s.onTurn i).safe := h
theorem onAct_safe {s : State} {a : Act} {rest : List Act} (h : s.safe) : (s.onAct a rest).safe := h

theorem fetchOnce_safe {s : State} (h : s.safe) : AnswersIn State.safe (fetchOnce s) := by
  unfold fetchOnce
  split
  · exact .ok h
  · exact fetch_safe h

theorem turn_safe {s : State} (h : s.safe) : EitherIn (fun (a : Instr × State) => a.2.safe) State.safe (turn s) := by
  unfold turn
  split
  · rename_i a1 t e
    exact .error (takeTrap_safe (boundaryFail_safe h (a1, t) e) _)
  · split
    · rename_i e1
      exact readyFor_safe (holding_safe ((fetchOnce_safe h).1 _ e1))
    · rename_i a2 t e1
      exact .error (takeTrap_safe ((fetchOnce_safe h).2 ((.trap a2), t) e1) _)
    · rename_i a2 a3 a4 t e1
      exact .error (joinQueue_safe (modCur_safe ((fetchOnce_safe h).2 ((.wait a2 a3 a4), t) e1)))
    · rename_i t e1
      exact .error ((fetchOnce_safe h).2 (.spin, t) e1)

theorem nextTurn_safe {s : State} (h : s.safe) : EitherIn (fun (a : Instr × State) => a.2.safe) State.safe (nextTurn s) := by
  unfold nextTurn
  split
  · split
    · exact .error h
    · split
      · exact .ok (onAct_safe h)
      · split
        · exact .ok (onAct_safe h)
        · exact turn_safe (onTurn_safe h)
  · split
    · exact .error h
    · exact turn_safe (onTurn_safe h)

/-! ### `Machine/Repeat` -/

theorem fetchAt_safe {s : State} {pc : Word} (h : s.safe) : AnswersIn State.safe (fetchAt s pc) := by
  unfold fetchAt
  split
  · rename_i e
    exact .ok (setPcc_safe ((fetch_safe (setPcc_safe h)).1 _ e))
  · rename_i a1 t e
    exact .error (setPcc_safe ((fetch_safe (setPcc_safe h)).2 (a1, t) e))

theorem captureWord_safe {s : State} {pc : Word} (h : s.safe) : AnswersIn State.safe (captureWord s pc) := by
  unfold captureWord
  refine (fetchAt_safe h).then_ fun _ k => ?_
  split
  · exact .error h
  · split
    · split
      · exact .ok k
      · exact .error h
    · exact .error h

theorem captureBlock_safe {s : State} {pc : Word} {a : Nat} (h : s.safe) : AnswersIn State.safe (captureBlock s pc a) := by
  induction a generalizing s pc with
  | zero => exact .ok h
  | succ _ ih =>
    unfold captureBlock
    exact (captureWord_safe h).then_ fun _ k => (ih k).then_ fun _ k1 => .ok k1

theorem execFrep_safe {s : State} {o : XOp} (h : s.safe) : KeepsSafe (execFrep o s) := by
  unfold execFrep
  dsimp only
  refine finishJump_keepsSafe ?_
  refine YieldsIn.then_ (captureBlock_safe h) fun _ k => ?_
  split
  · exact .ok (setPcc_safe k)
  · split
    · exact .error k
    · exact .ok (post_safe (setPcc_safe (modCur_safe k)))

/-! ### `Machine/Units` -/

theorem copyCheck_safe {s : State} {c : CopyCmd} (h : s.safe) : StopsIn State.safe (copyCheck s c) := by
  unfold copyCheck
  refine .bind (check_stops h _) fun _ _ => ?_
  refine .bind (check_stops h _) fun _ _ => ?_
  refine .bind (check_stops h _) fun _ _ => ?_
  refine .bind (check_stops h _) fun _ _ => ?_
  refine .bind (check_stops h _) fun _ _ => ?_
  exact .bind (check_stops h _) fun _ _ => .bind (guardR_stops h _ _ _ _) fun _ _ => .bind (guardR_stops h _ _ _ _)
    fun _ _ => guardR_stops h _ _ _ _

end Sys2Proof.Machine
end

section
/-!
The functions of `Machine/Memory`, `Machine/Atomic`, `Machine/Cap`, `Machine/Frame`, `Machine/MatUnit`, `Machine/Resume`
keep a safe state safe: one lemma for each,
whose cases are those of its definition.
-/

namespace Sys2Proof.Machine

/-! ### `Machine/Memory` -/

theorem moveTo_safe {s : State} {q : Fin 128} (h : s.safe) : RunsIn State.safe (moveTo s q) := by
  unfold moveTo
  split
  · exact .ok h
  · split
    · exact .error h
    · exact .ok (modCur_safe (goHome_safe h))

theorem travel_safe {s : State} {c : Cap} {ea : Nat} {toQuay : Bool} (h : s.safe) : RunsIn State.safe (travel s c ea toQuay) := by
  unfold travel
  split
  · exact .ok (goHome_safe h)
  · split
    · exact .ok (ite_safe (goHome_safe h) h)
    · split
      · exact moveTo_safe h
      · exact .ok h

theorem fifoPop_safe {s : State} {a n : Nat} (h : s.safe) : AnswersIn State.safe (fifoPop s a n) := by
  unfold fifoPop
  dsimp only
  split
  · exact .error h
  · split
    · exact .error h
    · exact .ok (fifoTaken_safe h)

theorem fifoPush_safe {s : State} {a : Nat} {gs : List Cap} (h : s.safe) : RunsIn State.safe (fifoPush s a gs) := by
  unfold fifoPush
  dsimp only
  refine .bind (releaseWait_safe h) fun _ _ => ?_
  split
  · exact .error h
  · exact .ok (fifoPut_safe h)

theorem fifoChecks_safe {s : State} {c : Cap} {a n : Nat} {perm : BitVec 12} {ord : BitVec 3} (h : s.safe) :
    StopsIn State.safe (fifoChecks s c a n perm ord) := .bind (accessChecks_safe h) fun _ _ => guardR_stops h _ _ _ _

theorem scWait_safe {s : State} {ord scope : BitVec 3} (h : s.safe) : StopsIn State.safe (scWait s ord scope) := by
  unfold scWait
  split
  · exact releaseWait_safe h
  · exact .ok _

theorem acquired_safe {s : State} {ord scope : BitVec 3} (h : s.safe) : (s.acquired ord scope).safe :=
  ite_safe (dropWorld_safe h) h

theorem ldBody_safe {s : State} {o : MOp} {toQuay : Bool} (h : s.safe) : RunsIn State.safe (ldBody o toQuay s) := by
  unfold ldBody
  refine .bind (accessChecks_safe h) fun _ _ => ?_
  exact (travel_safe h).then_ fun _ k1 => .bind (scWait_safe k1) fun _ _ => YieldsIn.then_ (loadBytes_safe k1) fun _ k3 => .ok
    (wx_safe (acquired_safe k3))

theorem execLd_safe {s : State} {o : MOp} (h : s.safe) : KeepsSafe (execLd o s) := finish_keepsSafe (ldBody_safe h)
theorem execLdm_safe {s : State} {o : MOp} (h : s.safe) : KeepsSafe (execLdm o s) := finish_keepsSafe (ldBody_safe h)

theorem execSt_safe {s : State} {o : MOp} (h : s.safe) : KeepsSafe (execSt o s) := by
  unfold execSt
  exact finish_keepsSafe (.bind (accessChecks_safe h) fun _ _ => (travel_safe h).then_ fun _ k1 => .bind (scWait_safe k1)
    fun _ _ => storeBytes_safe k1)

theorem loadGran_safe {s : State} {c : Cap} {a : Nat} {perm : BitVec 12} {use : BankUse} {y : Hint} (h : s.safe) :
    AnswersIn State.safe (loadGran s c a perm use y) := by
  unfold loadGran
  refine .bind (accessPieces_safe h) fun _ _ => ?_
  exact .bind (bitmapsReadable_safe h) fun _ _ => YieldsIn.then_ (arrive_safe h) fun _ k2 => (loadPieces_safe k2).then_
    fun _ k3 => .ok k3

theorem storeGran_safe {s : State} {c : Cap} {a : Nat} {v : Cap} {use : BankUse} {n : StoreAs} (h : s.safe) :
    RunsIn State.safe (storeGran s c a v use n) := by
  unfold storeGran
  exact .bind (accessPieces_safe h) fun _ _ => (arrive_safe h).then_ fun _ k1 => allOrNone_safe h (storePieces_safe k1)

theorem execLdc_safe {s : State} {o : MOp} (h : s.safe) : KeepsSafe (execLdc o s) := by
  unfold execLdc
  dsimp only
  refine finish_keepsSafe ?_
  split
  · exact .bind (fifoChecks_safe h) fun _ _ => YieldsIn.then_ (fifoPop_safe (goHome_safe h)) fun _ k1 => .ok (wc_safe k1)
  · refine .bind (accessChecks_safe h) fun _ _ => ?_
    exact (travel_safe h).then_ fun _ k1 => .bind (scWait_safe k1) fun _ _ => YieldsIn.then_ (loadGran_safe k1) fun _ k3 => .ok
      (wc_safe (acquired_safe k3))

theorem execStc_safe {s : State} {o : MOp} (h : s.safe) : KeepsSafe (execStc o s) := by
  unfold execStc
  dsimp only
  refine finish_keepsSafe ?_
  split
  · exact .bind (fifoChecks_safe h) fun _ _ => fifoPush_safe (goHome_safe h)
  · exact .bind (accessChecks_safe h) fun _ _ => (travel_safe h).then_ fun _ k1 => .bind (scWait_safe k1)
      fun _ _ => storeGran_safe k1

theorem execVld_safe {s : State} {o : MOp} (h : s.safe) : KeepsSafe (execVld o s) := by
  unfold execVld
  dsimp only
  refine finish_keepsSafe ?_
  refine .bind (noPort_safe h) fun _ _ => ?_
  split
  · exact .bind (fifoChecks_safe h) fun _ _ => YieldsIn.then_ (fifoPop_safe h) fun _ k2 => .ok (modCur_safe k2)
  · exact YieldsIn.then_ (loadBytes_safe h) fun _ k1 => .ok (modCur_safe (acquired_safe k1))

theorem execVst_safe {s : State} {o : MOp} (h : s.safe) : KeepsSafe (execVst o s) := by
  unfold execVst
  dsimp only
  refine finish_keepsSafe ?_
  refine .bind (noPort_safe h) fun _ _ => ?_
  split
  · exact .bind (fifoChecks_safe h) fun _ _ => fifoPush_safe h
  · exact .bind (accessChecks_safe h) fun _ _ => .bind (scWait_safe h) fun _ _ => storeBytes_safe h

theorem laneRaise_safe {s : State} {cause total : Nat} {ls : List (Nat × Nat)} (h : s.safe) :
    StopsIn State.safe (laneRaise s cause total ls) := by
  unfold laneRaise
  split
  · exact .ok _
  · exact .error h

theorem lanesChecked_safe {s : State} {o : MOp} {perm : BitVec 12} {need : Need} (h : s.safe) :
    StopsIn State.safe (lanesChecked s o perm need) := by
  unfold lanesChecked
  dsimp only
  split
  · refine .bind (.error h) fun _ _ => ?_
    refine .bind (laneRaise_safe h) fun _ _ => ?_
    refine .bind (laneRaise_safe h) fun _ _ => ?_
    refine .bind (guardR_stops h _ _ _ _) fun _ _ => ?_
    split
    · split
      · exact .error h
      · exact .bind (laneRaise_safe h) fun _ _ => .ok _
    · exact .ok _
  · refine .bind (.ok _) fun _ _ => ?_
    refine .bind (laneRaise_safe h) fun _ _ => ?_
    refine .bind (laneRaise_safe h) fun _ _ => ?_
    refine .bind (guardR_stops h _ _ _ _) fun _ _ => ?_
    split
    · split
      · exact .error h
      · exact .bind (laneRaise_safe h) fun _ _ => .ok _
    · exact .ok _

theorem supMask_safe {s : State} {o : MOp} {sup : List Nat} (h : s.safe) : (supMask o sup s).safe := ite_safe (wk_safe h) h

theorem gatherLoad_safe {s : State} {c : Cap} {n : Nat} {y : Hint} {a : List (Nat × Nat)} (h : s.safe) :
    AnswersIn State.safe (gatherLoad s c n y a) := by
  induction a generalizing s n with
  | nil => exact .ok h
  | cons _ _ ih =>
    unfold gatherLoad
    exact (loadBytes_safe h).then_ fun _ k => (ih k).then_ fun _ k1 => .ok k1

theorem execVldg_safe {s : State} {o : MOp} (h : s.safe) : KeepsSafe (execVldg o s) := by
  unfold execVldg
  refine finish_keepsSafe ?_
  refine .bind (noPort_safe h) fun _ _ => ?_
  refine .bind (noPort_safe h) fun _ _ => ?_
  exact .bind (lanesChecked_safe h) fun _ _ => YieldsIn.then_ (gatherLoad_safe h) fun _ k3 => .ok (supMask_safe (modCur_safe k3))

theorem scatterStore_safe {s : State} {c : Cap} {n v : Nat} {n1 : StoreAs} {a : List (Nat × Nat)} (h : s.safe) :
    RunsIn State.safe (scatterStore s c n v n1 a) := by
  induction a generalizing s n v with
  | nil => exact .ok h
  | cons _ _ ih =>
    unfold scatterStore
    exact (storeBytes_safe h).then_ fun _ k => ih k

theorem execVsts_safe {s : State} {o : MOp} (h : s.safe) : KeepsSafe (execVsts o s) := by
  unfold execVsts
  refine finish_keepsSafe ?_
  refine .bind (noPort_safe h) fun _ _ => ?_
  refine .bind (noPort_safe h) fun _ _ => ?_
  exact .bind (lanesChecked_safe h) fun _ _ => (allOrNone_safe h (scatterStore_safe h)).then_ fun _ k3 => .ok (supMask_safe k3)

theorem granuleWait_safe {s : State} {kind : WaitKind} {a : Nat} (h : s.safe) : StopsIn State.safe (granuleWait s kind a) := by
  unfold granuleWait
  dsimp only
  split
  · exact .ok _
  · exact .error h

theorem execLdfe_safe {s : State} {o : MOp} (h : s.safe) : KeepsSafe (execLdfe o s) := by
  unfold execLdfe
  refine finish_keepsSafe ?_
  refine .bind (accessChecks_safe h) fun _ _ => ?_
  refine .bind (granuleWait_safe h) fun _ _ => ?_
  refine RunsIn.then_ ?_ fun _ k2 => ?_
  · split
    · exact YieldsIn.then_ (loadGran_safe h) fun _ k2 => .ok (wc_safe k2)
    · exact .bind (placed_safe h) fun _ _ => YieldsIn.then_ (loadPieces_safe h) fun _ k3 => .ok (wx_safe k3)
  exact .ok (ite_safe (setFull_safe (ite_safe (dropWorld_safe k2) k2)) (ite_safe (dropWorld_safe k2) k2))

theorem execStfe_safe {s : State} {o : MOp} (h : s.safe) : KeepsSafe (execStfe o s) := by
  unfold execStfe
  dsimp only
  refine finish_keepsSafe ?_
  refine .bind (accessChecks_safe h) fun _ _ => ?_
  split
  · refine .bind (releaseWait_safe h) fun _ _ => ?_
    refine .bind (granuleWait_safe h) fun _ _ => ?_
    refine RunsIn.then_ ?_ fun _ k3 => ?_
    · split
      · exact storeGran_safe h
      · exact .bind (placed_safe h) fun _ _ => storePieces_safe h
    exact .ok (setFull_safe k3)
  · refine .bind (granuleWait_safe h) fun _ _ => ?_
    refine RunsIn.then_ ?_ fun _ k2 => ?_
    · split
      · exact storeGran_safe h
      · exact .bind (placed_safe h) fun _ _ => storePieces_safe h
    exact .ok k2

theorem lineChecks_safe {s : State} {o : MOp} (h : s.safe) : RunsIn State.safe (lineChecks s o) := by
  unfold lineChecks
  exact .bind (accessChecks_safe h) fun _ _ => travel_safe h

theorem prefLine_safe {s : State} {c : Cap} {y : Hint} {p : Piece} (h : s.safe) : (prefLine s c y p).safe := by
  unfold prefLine
  have hr : AnswersIn State.safe (do
      bitmapsReadable (s.reached s.world [p]) c [p]
      loadPiece (s.reached s.world [p]) p y : R (List Byte × State)) :=
    .bind (bitmapsReadable_safe (reached_safe h)) fun _ _ => loadPiece_safe (reached_safe h)
  dsimp only
  split
  · next r e => exact hr.1 r e
  · split
    · exact sawLine_safe (reached_safe h)
    · exact reached_safe h

theorem execPref_safe {s : State} {o : MOp} (h : s.safe) : KeepsSafe (execPref o s) := by
  unfold execPref
  refine finish_keepsSafe ?_
  refine (lineChecks_safe h).then_ fun _ k => ?_
  split
  · split
    · exact .error k
    · exact .ok k
  · exact .ok (ite_safe k (prefLine_safe k))
  · exact .ok k

theorem execLflush_safe {s : State} {o : MOp} (h : s.safe) : KeepsSafe (execLflush o s) := by
  unfold execLflush
  refine finish_keepsSafe ?_
  refine (lineChecks_safe h).then_ fun _ k => ?_
  split
  · exact .ok (ite_safe k (dropLine_safe (cleanLine_safe k)))
  · exact .ok k

theorem execLinv_safe {s : State} {o : MOp} (h : s.safe) : KeepsSafe (execLinv o s) := by
  unfold execLinv
  refine finish_keepsSafe ?_
  refine (lineChecks_safe h).then_ fun _ k => ?_
  split
  · exact .ok (ite_safe k (dropLine_safe k))
  · exact .ok k

theorem mapped_safe {s : State} {c : Cap} {a n : Nat} {need : Need} (h : s.safe) : StopsIn State.safe (mapped s c a n need) := by
  unfold mapped
  refine .bind (placed_safe h) fun _ _ => ?_
  split
  · exact .error (askPage_safe h)
  · exact .ok _

theorem execMig_safe {s : State} {o : MOp} (h : s.safe) : KeepsSafe (execMig o s) := by
  unfold execMig
  refine finish_keepsSafe ?_
  refine .bind (accessChecks_safe h) fun _ _ => ?_
  split
  · exact .ok h
  · exact (travel_safe h).then_ fun _ k1 => .bind (mapped_safe k1) fun _ _ => .ok k1

theorem execHome_safe {s : State} {o : ROp} (h : s.safe) : KeepsSafe (execHome o s) := finish_keepsSafe (.ok (goHome_safe h))

theorem copyFirstPage_safe {s : State} {c : CopyCmd} (h : s.safe) : StopsIn State.safe (copyFirstPage s c) := by
  unfold copyFirstPage
  split
  · exact .ok _
  · refine .bind (mapped_safe h) fun _ _ => ?_
    refine .bind (guardR_stops h _ _ _ _) fun _ _ => ?_
    split
    · split
      · split
        · exact check_stops h _
        · exact .ok _
      · split
        · exact check_stops h _
        · exact .ok _
    · split
      · exact check_stops h _
      · exact .ok _

theorem copyIssue_safe {s : State} {b : Nat} {c : CopyCmd} (h : s.safe) : RunsIn State.safe (copyIssue s b c) := by
  unfold copyIssue
  refine .bind (guardR_stops h _ _ _ _) fun _ _ => ?_
  refine .bind (copyCheck_safe h) fun _ _ => ?_
  refine .bind (copyFirstPage_safe h) fun _ _ => ?_
  split
  · exact .error h
  · exact .ok (post_safe (modCur_safe h))

theorem execCpy_safe {s : State} {o : ROp} (h : s.safe) : KeepsSafe (execCpy o s) := finishHanded_keepsSafe (copyIssue_safe h)

theorem loadGrans_safe {s : State} {c : Cap} {a : Nat} {y : Hint} {a1 : Nat} (h : s.safe) :
    AnswersIn State.safe (loadGrans s c a y a1) := by
  induction a1 generalizing s a with
  | zero => exact .ok h
  | succ _ ih =>
    unfold loadGrans
    exact (loadGran_safe h).then_ fun _ k => (ih k).then_ fun _ k1 => .ok k1

theorem execCpyq_safe {s : State} {o : ROp} (h : s.safe) : KeepsSafe (execCpyq o s) := by
  unfold execCpyq
  refine finishHanded_keepsSafe ?_
  refine .bind (accessChecks_safe h) fun _ _ => ?_
  refine YieldsIn.then_ (loadGrans_safe h) fun _ k1 => ?_
  split
  · exact .error k1
  · exact copyIssue_safe k1

theorem execFence_safe {s : State} {o : ROp} (h : s.safe) : KeepsSafe (execFence o s) := by
  unfold execFence
  refine finish_keepsSafe ?_
  split
  · exact .bind (releaseWait_safe h) fun _ _ => .ok (acquired_safe h)
  · exact .ok (acquired_safe h)

/-! ### `Machine/Atomic` -/

theorem cwinDrop_safe {s : State} {n : Nat} (h : s.safe) : (s.cwinDrop n).safe := writeBytes_safe h
theorem cwinCount_safe {s : State} {i : Fin 16} {c : Cwin} {n k0 : Nat} {bs : List Byte} (h : s.safe) :
    (s.cwinCount i c n k0 bs).safe := ite_safe (writeBytes_safe (with_safe (writeBytes_safe h))) (with_safe (writeBytes_safe h))

theorem cwinWrite_safe {s : State} {w : World} {va n : Nat} {arrival contribution : Bool} {bs : List Byte} (h : s.safe) :
    (s.cwinWrite w va n arrival contribution bs).1.safe := by
  unfold State.cwinWrite
  dsimp only
  split
  · exact writeBytes_safe h
  · split
    · exact writeBytes_safe h
    · split
      · exact cwinDrop_safe h
      · exact ite_safe (cwinCount_safe h) (writeBytes_safe h)

theorem rmwWrite_safe {s : State} {i : SlotId} {w : World} {y : Hint} {va n : Nat} {arrival contribution : Bool}
  {bs : List Byte} (h : s.safe) :
    (s.rmwWrite i w y va n arrival contribution bs).safe :=
  ite_safe (stored_safe (sealAt_safe (cwinWrite_safe (dupWrite_safe h)))) (touchQuays_safe (cwinWrite_safe (dupWrite_safe h)))

theorem atomicGo_safe {s : State} {o : MOp} {perm : BitVec 12} (h : s.safe) : RunsIn State.safe (atomicGo s o perm) := by
  unfold atomicGo
  refine .bind (accessChecks_safe h) fun _ _ => ?_
  exact .bind (guardR_stops h _ _ _ _) fun _ _ => (travel_safe h).then_ fun _ k2 => .bind (scWait_safe k2) fun _ _ => .ok k2

theorem atomicRead_safe {s : State} {p : Piece} {need : Need} {y : Hint} {ask : PeerOp × Nat} (h : s.safe) :
    YieldsIn (fun (a : List Byte × Bool × State) => a.2.2.safe) State.safe (atomicRead s p need y ask) := by
  unfold atomicRead
  split
  · exact .error (askPage_safe h)
  · split
    · exact .error h
    · exact YieldsIn.then_ (loadPiece_safe h) fun _ k => .ok k
  · split
    · rename_i e
      exact .ok ((loadPiece_safe h).1 _ e)
    · rename_i t e
      exact .error ((loadPiece_safe h).2 (.spin, t) e)
    · rename_i e
      exact .error ((loadPiece_safe h).2 _ e)

theorem atomicWrite_safe {s : State} {p : Piece} {y : Hint} {arrival : Bool} {bs : Option (List Byte)} (h : s.safe) :
    (atomicWrite s p y arrival bs).safe := by
  unfold atomicWrite
  split
  · exact rmwWrite_safe h
  · exact touchQuays_safe h
  · exact triggerBy_safe h
  · exact h

theorem amoBody_safe {s : State} {o : MOp} {ext arrives : Bool} {op : AmoOp} {f : Nat → Nat → Nat → Option Nat × Flags}
  (h : s.safe) :
    RunsIn State.safe (amoBody o ext arrives op f s) := by
  unfold amoBody
  refine (atomicGo_safe h).then_ fun _ k => ?_
  refine .bind (placed_safe k) fun _ k1 => ?_
  split
  · refine (arrive_safe k).then_ fun _ k1 => ?_
    exact YieldsIn.then_ (atomicRead_safe k1) fun _ k2 => (raiseFlags_safe k2).then_ fun _ k3 => .ok (wx_safe (acquired_safe
      (atomicWrite_safe k3)))
  · exact .ok k

theorem execAmoadd_safe {s : State} {o : MOp} (h : s.safe) : KeepsSafe (execAmoadd o s) := finish_keepsSafe (amoBody_safe h)
theorem execAmomin_safe {s : State} {o : MOp} (h : s.safe) : KeepsSafe (execAmomin o s) := finish_keepsSafe (amoBody_safe h)
theorem execAmomax_safe {s : State} {o : MOp} (h : s.safe) : KeepsSafe (execAmomax o s) := finish_keepsSafe (amoBody_safe h)
theorem execAmoand_safe {s : State} {o : MOp} (h : s.safe) : KeepsSafe (execAmoand o s) := finish_keepsSafe (amoBody_safe h)
theorem execAmoor_safe {s : State} {o : MOp} (h : s.safe) : KeepsSafe (execAmoor o s) := finish_keepsSafe (amoBody_safe h)
theorem execAmoxor_safe {s : State} {o : MOp} (h : s.safe) : KeepsSafe (execAmoxor o s) := finish_keepsSafe (amoBody_safe h)
theorem execAmofadd_safe {s : State} {o : MOp} (h : s.safe) : KeepsSafe (execAmofadd o s) := finish_keepsSafe (amoBody_safe h)
theorem capWrite_safe {s : State} {y : Hint} {key va : Nat} {c : Cap} (h : s.safe) : (s.capWrite y key va c).safe :=
  stored_safe (sealAt_safe (writeGran_safe (dupWrite_safe h)))

theorem amoCapBody_safe {s : State} {o : MOp} {expected : Option Cap} (h : s.safe) :
    RunsIn State.safe (amoCapBody o expected s) := by
  unfold amoCapBody
  refine (atomicGo_safe h).then_ fun _ k => ?_
  refine .bind (placed_safe k) fun _ k1 => ?_
  split
  · refine (arrive_safe k).then_ fun _ k1 => ?_
    refine YieldsIn.then_ (atomicRead_safe k1) fun _ k2 => ?_
    refine .ok ?_
    refine wc_safe ?_
    refine acquired_safe ?_
    split
    · exact ite_safe (capWrite_safe k2) (atomicWrite_safe k2)
    · exact atomicWrite_safe k2
  · exact .ok k

theorem execAmoswp_safe {s : State} {o : MOp} (h : s.safe) : KeepsSafe (execAmoswp o s) := by
  unfold execAmoswp
  refine finish_keepsSafe ?_
  split
  · exact amoCapBody_safe h
  · exact amoBody_safe h

theorem execAmocas_safe {s : State} {o : MOp} (h : s.safe) : KeepsSafe (execAmocas o s) := by
  unfold execAmocas
  refine finish_keepsSafe ?_
  split
  · exact amoCapBody_safe h
  · exact amoBody_safe h

theorem logUpdate_safe {s : State} {q : Fin 128} {u : Update} (h : s.safe) : (s.logUpdate q u).safe := h

theorem redBody_safe {s : State} {o : MOp} {op : BitVec 4} (h : s.safe) : RunsIn State.safe (redBody o op s) := by
  unfold redBody
  dsimp only
  refine .bind (accessChecks_safe h) fun _ _ => ?_
  refine .bind (guardR_stops h _ _ _ _) fun _ _ => ?_
  split
  · exact .error h
  · split
    · exact .ok (with_safe (sendUpdate_safe h))
    · split
      · split
        · exact .ok (with_safe (logUpdate_safe (askPage_safe h)))
        · exact .error (askPage_safe h)
      · exact .ok (with_safe (sendUpdate_safe h))
      · split
        · exact .error h
        · refine (arrive_safe h).then_ fun _ k2 => ?_
          split
          · split
            · exact .ok (with_safe (logUpdate_safe k2))
            · exact .error k2
          · exact .ok (with_safe (sendUpdate_safe k2))

theorem execRedadd_safe {s : State} {o : MOp} (h : s.safe) : KeepsSafe (execRedadd o s) := finish_keepsSafe (redBody_safe h)
theorem execRedmin_safe {s : State} {o : MOp} (h : s.safe) : KeepsSafe (execRedmin o s) := finish_keepsSafe (redBody_safe h)
theorem execRedmax_safe {s : State} {o : MOp} (h : s.safe) : KeepsSafe (execRedmax o s) := finish_keepsSafe (redBody_safe h)
theorem execRedfadd_safe {s : State} {o : MOp} (h : s.safe) : KeepsSafe (execRedfadd o s) := finish_keepsSafe (redBody_safe h)
theorem updateFail_safe {s : State} {u : Update} {cause : Nat} (h : s.safe) : (s.updateFail u cause).safe := postRecOf_safe h

theorem updateAt_safe {s : State} {u : Update} {key : Nat} (h : s.safe) : (s.updateAt u key).safe := by
  unfold State.updateAt
  refine when_safe ?_ (fun _ => postRecOf_safe h)
  split
  · exact updateFail_safe h
  · exact rmwWrite_safe h

theorem updateLog_safe {s : State} {q : Fin 128} {u : Update} (h : s.safe) :
    EitherIn State.safe State.safe (s.updateLog q u) := by
  unfold State.updateLog
  split
  · exact .ok (logUpdate_safe h)
  · exact .error h

theorem perform_safe {s : State} {u : Update} (h : s.safe) : EitherIn State.safe State.safe (s.perform u) := by
  unfold State.perform
  dsimp only
  split
  · exact .ok (updateAt_safe h)
  · split
    · exact .ok (updateFail_safe h)
    · exact updateLog_safe (askPage_safe h)
    · exact .ok (updateFail_safe h)
    · exact .ok (updateFail_safe h)
    · exact .ok (ite_safe (postRecOf_safe h) (sendPacket_safe h))
    · split
      · exact updateLog_safe h
      · exact .ok (updateAt_safe h)

theorem answer_safe {s : State} {dev : BitVec 8} {w : World} {d : Option (List Byte)} {c : Option Cap} (h : s.safe) :
    (s.answer dev w d c).safe := h
theorem postAcks_safe {s : State} (h : s.safe) : s.postAcks.safe := foldl_safe (fun _ _ k1 => answer_safe k1) h
theorem writesDone_safe {s : State} (h : s.safe) : s.writesDone.safe :=
  unstall_safe (rouseAll_safe (postAcks_safe (postSigs_safe (filterAway_safe h))))
theorem replay_safe {s : State} (h : s.safe) : s.replay.safe := writesDone_safe (replayThese_safe h)

theorem execRemoteUpdate_safe {s : State} (h : s.safe) : KeepsSafe (execRemoteUpdate s) := by
  unfold execRemoteUpdate
  split
  · split
    · exact .next h
    · split
      · exact .next (stall_safe h)
      · split
        · rename_i e2
          exact .next (writesDone_safe (with_safe ((perform_safe h).1 _ e2)))
        · rename_i e2
          exact .next (stall_safe ((perform_safe h).2 _ e2))
  · exact .none (by simp)

/-! ### `Machine/Cap` -/

theorem execCgeta_safe {s : State} {o : ROp} (h : s.safe) : KeepsSafe (execCgeta o s) := finish_keepsSafe (.ok (wx_safe h))
theorem execCgetb_safe {s : State} {o : ROp} (h : s.safe) : KeepsSafe (execCgetb o s) := finish_keepsSafe (.ok (wx_safe h))
theorem execCgetl_safe {s : State} {o : ROp} (h : s.safe) : KeepsSafe (execCgetl o s) := finish_keepsSafe (.ok (wx_safe h))
theorem execCgetp_safe {s : State} {o : ROp} (h : s.safe) : KeepsSafe (execCgetp o s) := finish_keepsSafe (.ok (wx_safe h))

theorem execCtag_safe {s : State} {o : ROp} (h : s.safe) : KeepsSafe (execCtag o s) := by
  unfold execCtag
  exact finish_keepsSafe (.ok (wp_safe h))

theorem execCsub_safe {s : State} {o : ROp} (h : s.safe) : KeepsSafe (execCsub o s) := finish_keepsSafe (.ok (wx_safe h))
theorem execCmov_safe {s : State} {o : ROp} (h : s.safe) : KeepsSafe (execCmov o s) := finish_keepsSafe (.ok (wc_safe h))
theorem execCclr_safe {s : State} {o : ROp} (h : s.safe) : KeepsSafe (execCclr o s) := finish_keepsSafe (.ok (wc_safe h))

theorem capRaise_safe {s : State} {c : Cap} {a : Option Nat} (h : s.safe) : StopsIn State.safe (capRaise s c a) := by
  unfold capRaise
  split
  · exact .ok _
  · exact .error h

theorem execCseta_safe {s : State} {o : ROp} (h : s.safe) : KeepsSafe (execCseta o s) := by
  unfold execCseta
  exact finish_keepsSafe (.bind (capRaise_safe h) fun _ _ => .ok (wc_safe h))

theorem execCinc_safe {s : State} {o : RIOp} (h : s.safe) : KeepsSafe (execCinc o s) := by
  unfold execCinc
  exact finish_keepsSafe (.bind (capRaise_safe h) fun _ _ => .ok (wc_safe h))

theorem boundsBody_safe {s : State} {o : RIOp} {exact : Bool} (h : s.safe) : RunsIn State.safe (boundsBody o exact s) := by
  unfold boundsBody
  refine .bind (capRaise_safe h) fun _ _ => ?_
  split
  · exact .ok (wc_safe h)
  · exact .error h

theorem execCbnd_safe {s : State} {o : RIOp} (h : s.safe) : KeepsSafe (execCbnd o s) := finish_keepsSafe (boundsBody_safe h)
theorem execCbnde_safe {s : State} {o : RIOp} (h : s.safe) : KeepsSafe (execCbnde o s) := finish_keepsSafe (boundsBody_safe h)

theorem execCperm_safe {s : State} {o : RIOp} (h : s.safe) : KeepsSafe (execCperm o s) := by
  unfold execCperm
  exact finish_keepsSafe (.bind (capRaise_safe h) fun _ _ => .ok (wc_safe h))

theorem sealAuth_safe {s : State} {a : Cap} {perm : BitVec 12} (h : s.safe) : StopsIn State.safe (sealAuth s a perm) := by
  unfold sealAuth
  exact .bind (capRaise_safe h) fun _ _ => .bind (guardR_stops h _ _ _ _) fun _ _ => .ok _

theorem execCseal_safe {s : State} {o : ROp} (h : s.safe) : KeepsSafe (execCseal o s) := by
  unfold execCseal
  refine finish_keepsSafe ?_
  refine .bind (guardR_stops h _ _ _ _) fun _ _ => ?_
  exact .bind (guardR_stops h _ _ _ _) fun _ _ => .bind (guardR_stops h _ _ _ _) fun _ _ => .bind (sealAuth_safe h)
    fun _ _ => .ok (wc_safe h)

theorem execCunseal_safe {s : State} {o : ROp} (h : s.safe) : KeepsSafe (execCunseal o s) := by
  unfold execCunseal
  refine finish_keepsSafe ?_
  refine .bind (guardR_stops h _ _ _ _) fun _ _ => ?_
  exact .bind (guardR_stops h _ _ _ _) fun _ _ => .bind (sealAuth_safe h) fun _ _ => .bind (guardR_stops h _ _ _ _)
    fun _ _ => .ok (wc_safe h)

theorem mapFree_safe {s : State} {ps : List Piece} (h : s.safe) : StopsIn State.safe (mapFree s ps) := by
  unfold mapFree
  split
  · exact .error h
  · exact .ok _

theorem crvkBody_safe {s : State} {o : ROp} {set : Bool} (h : s.safe) : RunsIn State.safe (crvkBody o set s) := by
  unfold crvkBody
  dsimp only
  refine .bind (check_stops h _) fun _ _ => ?_
  refine .bind (guardR_stops h _ _ _ _) fun _ _ => ?_
  split
  · exact .ok h
  · refine .bind (releaseWait_safe h) fun _ _ => ?_
    split
    · exact .error h
    · split
      · exact .error (askPage_safe h)
      · refine .bind (mapFree_safe h) fun _ _ => ?_
        exact (arrive_safe h).then_ fun _ k4 => YieldsIn.then_ (loadPieces_safe k4) fun _ k5 => (storePieces_safe k5).then_
          fun _ k6 => .ok (dropWorld_safe k6)

theorem execCrvkMark_safe {s : State} {o : ROp} (h : s.safe) : KeepsSafe (execCrvkMark o s) := finish_keepsSafe (crvkBody_safe h)
theorem execCrvkClear_safe {s : State} {o : ROp} (h : s.safe) : KeepsSafe (execCrvkClear o s) :=
  finish_keepsSafe (crvkBody_safe h)
theorem sweepWorld_safe {s : State} {o : ROp} (h : s.safe) : StopsIn State.safe (sweepWorld s o) :=
  .bind (guardR_stops h _ _ _ _) fun _ _ => .ok _

theorem execCswpStart_safe {s : State} {o : ROp} (h : s.safe) : KeepsSafe (execCswpStart o s) := by
  unfold execCswpStart
  refine finishHanded_keepsSafe ?_
  refine .bind (sweepWorld_safe h) fun _ _ => ?_
  split
  · exact .error h
  · exact .ok (post_safe (postRec_safe (modWorld_safe h)))

theorem execCswpAck_safe {s : State} {o : ROp} (h : s.safe) : KeepsSafe (execCswpAck o s) := by
  unfold execCswpAck
  refine finish_keepsSafe ?_
  refine .bind (sweepWorld_safe h) fun _ _ => ?_
  split
  · exact .ok h
  · split
    · exact .ok h
    · exact .ok (modWorld_safe h)

theorem reseals_safe {s : State} {gs : List Nat} (h : s.safe) : (s.reseals gs).safe := foldl_safe (fun _ _ k1 => reseal_safe k1) h

theorem sweepMemory_safe {s : State} {w : World} (h : s.safe) : (sweepMemory s w).safe := by
  unfold sweepMemory
  have hg : (List.foldl (fun s g => s.dupWrite false (16 * g) 16) (s.sweepCache fun c => !(s.sweepCap w c).tag)
      (s.tags.filter fun g => !(s.sweepCap w ⟨true, BitVec.ofNat 128 (s.nat (16 * g) 16)⟩).tag)).safe :=
    foldl_safe (fun _ _ k => dupWrite_safe k) (sweepCache_safe h)
  exact reseals_safe (safe_of_tags hg ((tags_of_safe hg).filter _) rfl rfl rfl)

theorem execSweepMemory_safe {s : State} (h : s.safe) : KeepsSafe (execSweepMemory s) := by
  unfold execSweepMemory
  split
  · split
    · exact .next (modWorld_safe (sweepMemory_safe h))
    · exact .next h
  · exact .none (by simp)

theorem sweepHeld_safe {s : State} {w : World} (h : s.safe) : (s.sweepHeld w).safe := h

theorem execSweepComplete_safe {s : State} (h : s.safe) : KeepsSafe (execSweepComplete s) := by
  unfold execSweepComplete
  split
  · split
    · split
      · exact .next (stall_safe h)
      · split
        · exact .next (post_safe (engineSignal_safe (modWorld_safe (sweepHeld_safe h))))
        · exact .next h
    · exact .next h
  · exact .none (by simp)

/-! ### `Machine/Frame` -/

theorem readTable_safe {s : State} {c : Cap} (h : s.safe) : StopsIn State.safe (readTable s c) := by
  unfold readTable
  refine .bind (releaseWait_safe h) fun _ _ => ?_
  refine .bind ?_ fun _ _ => ?_
  · split
    · exact .bind (check_stops h _) fun _ _ => .bind (check_stops h _) fun _ _ => .ok _
    · split
      · exact .ok _
      · exact .error (askPage_safe h)
      · exact .error h
  split
  · exact .error h
  · exact .ok _

theorem frameCheck_safe {s : State} {c : Cap} (h : s.safe) : StopsIn State.safe (frameCheck s c) := by
  unfold frameCheck
  refine .bind (guardR_stops h _ _ _ _) fun _ _ => ?_
  refine .bind (guardR_stops h _ _ _ _) fun _ _ => ?_
  refine .bind (guardR_stops h _ _ _ _) fun _ _ => ?_
  refine .bind (guardR_stops h _ _ _ _) fun _ _ => ?_
  exact .bind (guardR_stops h _ _ _ _) fun _ _ => .bind (readTable_safe h) fun _ _ => .bind (guardR_stops h _ _ _ _)
    fun _ _ => .ok _

theorem cfrCheck_safe {s : State} (h : s.safe) : StopsIn State.safe (cfrCheck s) :=
  .bind (guardR_stops h _ _ _ _) fun _ _ => frameCheck_safe h
theorem keepsTag_safe {s : State} {addr : Nat} {c : Cap} (h : s.safe) : StopsIn State.safe (keepsTag s addr c) :=
  .bind (guardR_stops h _ _ _ _) fun _ _ => .ok _

theorem tableTags_safe {s : State} {g : Nat} {a b c : Bool} (h : s.safe) :
    ({ s with tags := natSet (natSet (natSet s.tags g a) (g + 1) b) (g + 7) c } : State).safe :=
  safe_of_tags h (natSet_rising (natSet_rising (natSet_rising (tags_of_safe h) _ _) _ _) _ _) rfl rfl rfl
theorem storeTable_safe {s : State} {t : FTable} {n : Nat} (h : s.safe) : (t.store s n).safe := by
  induction n with
  | zero => exact h
  | succ n ih =>
    unfold FTable.store
    dsimp only
    split
    · exact ih
    · exact sealAt_safe (tableTags_safe (writeBytes_safe ih))

theorem flush_safe {s : State} {t : FTable} (h : s.safe) : (t.flush s).safe := storeTable_safe h

theorem childless_safe {s : State} {t : FTable} {i a : Nat} (h : s.safe) : StopsIn State.safe (childless s t i a) := by
  induction a generalizing s i with
  | zero => exact .ok _
  | succ _ ih =>
    unfold childless
    refine .bind (ih h) fun _ _ => ?_
    split
    · exact .bind (keepsTag_safe h) fun _ _ => guardR_stops h _ _ _ _
    · exact .ok _

theorem seenAbove_safe {s : State} {t : FTable} {si j a a1 : Nat} (h : s.safe) :
    StopsIn State.safe (seenAbove s t si j a a1) := by
  induction a generalizing s si j a1 with
  | zero => exact .ok _
  | succ _ ih =>
    unfold seenAbove
    dsimp only
    refine .bind (keepsTag_safe h) fun _ _ => ?_
    split
    · exact .ok _
    · split
      · exact .ok _
      · exact ih h

theorem visible_safe {s : State} {t : FTable} {f ref qpos : Nat} (h : s.safe) : StopsIn State.safe (visible s t f ref qpos) := by
  unfold visible
  dsimp only
  split
  · exact .ok _
  · split
    · exact .ok _
    · exact .bind (seenAbove_safe h) fun _ _ => .ok _

theorem setRef_safe {s : State} {r : PageRef} (h : s.safe) : (s.setRef r).safe := h

theorem unmap_safe {s : State} {w : World} {va : Nat} (h : s.safe) : (s.unmap w va).safe := by
  unfold State.unmap
  dsimp only
  split
  · exact writeBytes_safe h
  · exact h

theorem releasePage_safe {s : State} {w : World} {va : Nat} (h : s.safe) : (s.releasePage w va).safe :=
  ite_safe h (ite_safe (auditIrq_safe (setRef_safe h)) (ite_safe (unmap_safe (setRef_safe h)) (setRef_safe h)))
theorem sharePage_safe {s : State} {w : World} {va : Nat} (h : s.safe) : (s.sharePage w va).safe :=
  ite_safe h (ite_safe (auditIrq_safe (setRef_safe h)) (setRef_safe h))
theorem releasePages_safe {s : State} {w : World} {vas : List Nat} (h : s.safe) : (s.releasePages w vas).safe :=
  foldl_safe (fun _ _ k1 => releasePage_safe k1) h

theorem pageFresh_safe {s : State} {w : World} {va : Nat} (h : s.safe) : (s.pageFresh w va).safe := by
  unfold State.pageFresh
  dsimp only
  split
  · exact setRef_safe (zeroRange_safe h)
  · exact h

theorem mapPages_safe {s : State} {addr : Nat} {a : List Nat} (h : s.safe) : RunsIn State.safe (mapPages s addr a) := by
  induction a generalizing s addr with
  | nil => exact .ok h
  | cons _ _ ih =>
    unfold mapPages
    split
    · exact ih h
    · exact .error (askPage_safe h)
    · exact .error h

theorem gathersRead_safe {s : State} {vas : List Nat} (h : s.safe) : StopsIn State.safe (gathersRead s vas) := by
  unfold gathersRead
  split
  · exact .error h
  · exact .ok _

theorem pagesReplayed_safe {s : State} {addr : Nat} {vas : List Nat} (h : s.safe) :
    StopsIn State.safe (pagesReplayed s addr vas) := by
  unfold pagesReplayed
  split
  · exact .error h
  · exact .ok _

theorem asFrame_yields {α : Type} {p : α → Prop} {a : Nat} {r : R α} (h : YieldsIn p State.safe r) :
    YieldsIn p State.safe (asFrame a r) := by
  unfold asFrame
  split
  · next t => exact .error (e := (_, t)) (h.2 (.wait .page _ _, t) rfl)
  · exact h
theorem asFrame_stops {α : Type} {a : Nat} {r : R α} (h : StopsIn State.safe r) : StopsIn State.safe (asFrame a r) :=
  (asFrame_yields (p := fun _ => True) ⟨fun _ _ => trivial, h⟩).2
theorem asFrame_safe {α : Type} {a : Nat} {r : R (α × State)} (h : AnswersIn State.safe r) : AnswersIn State.safe (asFrame a r) :=
  asFrame_yields h
theorem asFrameRun_safe {a : Nat} {r : R State} (h : RunsIn State.safe r) : RunsIn State.safe (asFrame a r) := asFrame_yields h

theorem rowPieces_safe {s : State} {need : Need} {kv : Cap} {a n addr : Nat} (h : s.safe) :
    StopsIn State.safe (rowPieces s need kv a n addr) := by
  unfold rowPieces
  split
  · exact .bind (check_stops h _) fun _ _ => .bind (check_stops h _) fun _ _ => .ok _
  · split
    · exact .error h
    · split
      · exact .error (askPage_safe h)
      · exact .ok _

theorem readRow_safe {s : State} {d : FDesc} {j addr : Nat} (h : s.safe) :
    YieldsIn (fun (a : Nat × Nat × State) => a.2.2.safe) State.safe (readRow s d j addr) := by
  unfold readRow
  exact .bind (rowPieces_safe h) fun _ _ => YieldsIn.then_ (asFrame_safe (YieldsIn.then_ (arrive_safe h)
    fun _ k1 => loadPieces_safe k1)) fun _ k1 => .ok k1

theorem writeRow_safe {s : State} {d : FDesc} {j addr : Nat} {bs : List Byte} (h : s.safe) :
    RunsIn State.safe (writeRow s d j addr bs) := by
  unfold writeRow
  refine .bind (rowPieces_safe h) fun _ _ => ?_
  split
  · exact .error h
  · split
    · exact .ok (engineWrite_safe h)
    · exact (arrive_safe h).then_ fun _ k1 => allOrNone_safe h (storePieces_safe k1)

theorem copyRows_safe {s : State} {c g : FDesc} {dlt : Int} {addr t a : Nat} (h : s.safe) :
    YieldsIn (fun (a : State × Flags) => a.1.safe) State.safe (copyRows s c g dlt addr t a) := by
  induction a generalizing s addr t with
  | zero => exact .ok h
  | succ _ ih =>
    unfold copyRows
    refine YieldsIn.then_ (readRow_safe h) fun _ k => ?_
    refine YieldsIn.then_ (p' := fun (a : Nat × Flags × State) => a.2.2.safe) ?_ fun _ k1 => ?_
    · split
      · exact .ok k
      · split
        · exact .error k
        · exact .bind (keepsTag_safe k) fun _ _ => YieldsIn.then_ (asFrame_safe (loadBytes_safe k)) fun _ k2 => .ok k2
    exact YieldsIn.then_ (writeRow_safe k1) fun _ k2 => YieldsIn.then_ (ih k2) fun _ k3 => .ok k3

theorem reg32_safe {s : State} {r : BitVec 6} {addr : Nat} (h : s.safe) : StopsIn State.safe (reg32 s r addr) :=
  .bind (guardR_stops h _ _ _ _) fun _ _ => .ok _

theorem regOrImm32_safe {s : State} {o : RIOp} {addr : Nat} (h : s.safe) : StopsIn State.safe (regOrImm32 s o addr) := by
  unfold regOrImm32
  split
  · exact reg32_safe h
  · exact .ok _

theorem openFrame_safe {s : State} (h : s.safe) : StopsIn State.safe (openFrame s) := by
  unfold openFrame
  refine .bind (cfrCheck_safe h) fun _ _ => ?_
  split
  exact .bind (guardR_stops h _ _ _ _) fun _ _ => .ok _

theorem wcFrame_safe {s : State} {r : BitVec 6} {c : Cap} (h : s.safe) : (s.wcFrame r c).safe :=
  ite_safe (wcfr_safe h) (wc_safe h)

theorem kindCheck_safe {s : State} {c : Cap} {perm : BitVec 12} (h : s.safe) : StopsIn State.safe (kindCheck s c perm) := by
  unfold kindCheck
  split
  · exact .error h
  · exact .ok _

theorem pushRoot_safe {s : State} {o : ROp} (h : s.safe) : StopsIn State.safe (pushRoot s o) := by
  unfold pushRoot
  refine .bind (kindCheck_safe h) fun _ _ => ?_
  exact .bind (guardR_stops h _ _ _ _) fun _ _ => .bind (kindCheck_safe h) fun _ _ => .bind (readTable_safe h) fun _ _ => .ok _

theorem pushChild_safe {s : State} {o : ROp} (h : s.safe) : StopsIn State.safe (pushChild s o) := by
  unfold pushChild
  exact .bind (cfrCheck_safe h) fun _ _ => .bind (keepsTag_safe h) fun _ _ => .bind (guardR_stops h _ _ _ _) fun _ _ => .ok _

theorem execFpush_safe {s : State} {o : ROp} (h : s.safe) : KeepsSafe (execFpush o s) := by
  unfold execFpush
  dsimp only
  refine finishFrame_keepsSafe (fun t k => ?_) h
  refine .bind (kindCheck_safe k) fun _ _ => ?_
  split
  · refine .bind (pushChild_safe k) fun _ _ => ?_
    split
    · exact .error k
    · exact .bind (guardR_stops k _ _ _ _) fun _ _ => .ok (wcfr_safe (wcFrame_safe (flush_safe k)))
  · refine .bind (pushRoot_safe k) fun _ _ => ?_
    split
    · exact .error k
    · exact .bind (guardR_stops k _ _ _ _) fun _ _ => .ok (wcfr_safe (wcFrame_safe (flush_safe k)))

theorem execFpop_safe {s : State} {o : ROp} (h : s.safe) : KeepsSafe (execFpop o s) := by
  unfold execFpop
  refine finishFrame_keepsSafe (fun t k => ?_) h
  refine .bind (cfrCheck_safe k) fun _ _ => ?_
  refine .bind (keepsTag_safe k) fun _ _ => ?_
  refine .bind (guardR_stops k _ _ _ _) fun _ _ => ?_
  refine .bind (guardR_stops k _ _ _ _) fun _ _ => ?_
  refine .bind (childless_safe k) fun _ _ => ?_
  refine .bind (guardR_stops k _ _ _ _) fun _ _ => ?_
  refine .bind (guardR_stops k _ _ _ _) fun _ _ => ?_
  refine .bind (guardR_stops k _ _ _ _) fun _ _ => ?_
  refine .bind (keepsTag_safe k) fun _ _ => ?_
  refine .bind (keepsTag_safe k) fun _ _ => ?_
  refine (mapPages_safe k).then_ fun _ k11 => ?_
  refine YieldsIn.then_ (copyRows_safe k11) fun _ k12 => ?_
  exact .bind (gathersRead_safe k12) fun _ _ => .ok (wx_safe (orFlags_safe (wcfr_safe (flush_safe (releasePages_safe
    (releasePages_safe k12))))))

theorem cfrNames_safe {s : State} {t : FTable} {i : Nat} (h : s.safe) : StopsIn State.safe (cfrNames s t i) := by
  unfold cfrNames
  split
  · exact .ok _
  · refine .bind (cfrCheck_safe h) fun _ _ => ?_
    split
    exact .ok _

theorem execFdrop_safe {s : State} {o : ROp} (h : s.safe) : KeepsSafe (execFdrop o s) := by
  unfold execFdrop
  refine finishFrame_keepsSafe (fun t k => ?_) h
  refine .bind (frameCheck_safe k) fun _ _ => ?_
  refine .bind (cfrNames_safe k) fun _ _ => ?_
  split
  · refine .bind (keepsTag_safe k) fun _ _ => ?_
    refine RunsIn.then_ ?_ fun _ k4 => ?_
    · split
      · exact .ok k
      · refine .bind (keepsTag_safe k) fun _ _ => ?_
        split
        · exact .ok (flush_safe (releasePages_safe k))
        · exact .bind (childless_safe k) fun _ _ => .bind (gathersRead_safe k) fun _ _ => .ok (flush_safe (releasePages_safe k))
    exact .ok (wcfr_safe k4)
  · refine .bind (.ok _) fun _ _ => ?_
    refine RunsIn.then_ ?_ fun _ k4 => ?_
    · split
      · exact .ok k
      · refine .bind (keepsTag_safe k) fun _ _ => ?_
        split
        · exact .ok (flush_safe (releasePages_safe k))
        · exact .bind (childless_safe k) fun _ _ => .bind (gathersRead_safe k) fun _ _ => .ok (flush_safe (releasePages_safe k))
    exact .ok k4

theorem execFenter_safe {s : State} {o : ROp} (h : s.safe) : KeepsSafe (execFenter o s) :=
  finishFrame_keepsSafe (fun _ k1 => .bind (frameCheck_safe k1) fun _ _ => .ok (wcfr_safe k1)) h

theorem execFarg_safe {s : State} {o : ROp} (h : s.safe) : KeepsSafe (execFarg o s) := by
  unfold execFarg
  refine finishFrame_keepsSafe (fun t k => ?_) h
  refine .bind (openFrame_safe k) fun _ _ => ?_
  refine .bind (reg32_safe k) fun _ _ => ?_
  refine .bind (reg32_safe k) fun _ _ => ?_
  split
  · exact .ok (flush_safe k)
  · exact .bind (guardR_stops k _ _ _ _) fun _ _ => .bind (guardR_stops k _ _ _ _) fun _ _ => .ok (flush_safe k)

theorem execFkeep_safe {s : State} {o : ROp} (h : s.safe) : KeepsSafe (execFkeep o s) := by
  unfold execFkeep
  refine finishFrame_keepsSafe (fun t k => ?_) h
  refine .bind (openFrame_safe k) fun _ _ => ?_
  exact .bind (reg32_safe k) fun _ _ => .bind (reg32_safe k) fun _ _ => .bind (guardR_stops k _ _ _ _) fun _ _ => .ok
    (flush_safe k)

theorem execFseal_safe {s : State} {o : ROp} (h : s.safe) : KeepsSafe (execFseal o s) := by
  unfold execFseal
  refine finishFrame_keepsSafe (fun t k => ?_) h
  refine .bind (frameCheck_safe k) fun _ _ => ?_
  split
  exact .ok (flush_safe k)

theorem execFshare_safe {s : State} {o : ROp} (h : s.safe) : KeepsSafe (execFshare o s) := by
  unfold execFshare
  refine finishFrame_keepsSafe (fun t k => ?_) h
  refine .bind (frameCheck_safe k) fun _ _ => ?_
  exact .bind (guardR_stops k _ _ _ _) fun _ _ => .bind (keepsTag_safe k) fun _ _ => .ok (flush_safe (foldl_safe
    (fun _ _ k4 => sharePage_safe k4) k))

theorem execFappend_safe {s : State} {o : RIOp} (h : s.safe) : KeepsSafe (execFappend o s) := by
  unfold execFappend
  refine finishFrame_keepsSafe (fun t k => ?_) h
  refine .bind (openFrame_safe k) fun _ _ => ?_
  refine .bind (regOrImm32_safe k) fun _ _ => ?_
  refine .bind (guardR_stops k _ _ _ _) fun _ _ => ?_
  refine .bind (keepsTag_safe k) fun _ _ => ?_
  refine (mapPages_safe k).then_ fun _ k5 => ?_
  exact .bind (pagesReplayed_safe k5) fun _ _ => .bind (gathersRead_safe k5) fun _ _ => .ok (wx_safe (releasePages_safe
    (flush_safe k5)))

theorem execFwin_safe {s : State} {o : RIOp} (h : s.safe) : KeepsSafe (execFwin o s) := by
  unfold execFwin
  exact finishFrame_keepsSafe (fun _ k1 => .bind (openFrame_safe k1) fun _ _ => .bind (regOrImm32_safe k1) fun _ _ => .bind
    (guardR_stops k1 _ _ _ _) fun _ _ => .ok (flush_safe k1)) h

theorem execFvis_safe {s : State} {o : ROp} (h : s.safe) : KeepsSafe (execFvis o s) := by
  unfold execFvis
  refine finishFrame_keepsSafe (fun t k => ?_) h
  split
  · exact .ok (wp_safe k)
  · refine .bind (cfrCheck_safe k) fun _ _ => ?_
    split
    exact .bind (visible_safe k) fun _ _ => .ok (wp_safe k)

theorem maskLanes_safe {s : State} {t : FTable} {f : Nat} {mask : Gran} {zm : Bool} {old : Gran} {v : Line} {q a : Nat}
  (h : s.safe) :
    StopsIn State.safe (maskLanes s t f mask zm old v q a) := by
  induction a generalizing s f q with
  | zero => exact .ok _
  | succ _ ih =>
    unfold maskLanes
    refine .bind (ih h) fun _ _ => ?_
    split
    · exact .bind (visible_safe h) fun _ _ => .ok _
    · exact .bind (.ok _) fun _ _ => .ok _

theorem execFmask_safe {s : State} {o : ROp} (h : s.safe) : KeepsSafe (execFmask o s) := by
  unfold execFmask
  refine finishFrame_keepsSafe (fun t k => ?_) h
  refine .bind (noPort_safe k) fun _ _ => ?_
  split
  · exact .ok (wk_safe k)
  · exact .bind (cfrCheck_safe k) fun _ _ => .bind (maskLanes_safe k) fun _ _ => .ok (wk_safe k)

theorem execFdesc_safe {s : State} {o : RIOp} (h : s.safe) : KeepsSafe (execFdesc o s) := by
  unfold execFdesc
  dsimp only
  refine finishFrame_keepsSafe (fun t k => ?_) h
  refine .bind (frameCheck_safe k) fun _ _ => ?_
  split
  · exact .bind (guardR_stops k _ _ _ _) fun _ _ => .ok (wx_safe k)
  · refine .bind (guardR_stops k _ _ _ _) fun _ _ => ?_
    refine .bind ?_ fun _ _ => ?_
    · split
      · exact keepsTag_safe k
      · exact .bind (keepsTag_safe k) fun _ _ => .ok _
      · exact .bind (keepsTag_safe k) fun _ _ => .ok _
    exact .ok (wcFrame_safe k)

/-! ### `Machine/MatUnit` -/

theorem modMat_safe {s : State} {f : Matrix → Matrix} (h : s.safe) : (s.modMat f).safe := h
theorem setPart_safe {s : State} {i : Fin 6} {p : Part} (h : s.safe) : (s.setPart i p).safe := modMat_safe h
theorem heldCheck_safe {s : State} {b : Nat} {kinds : List Nat} (h : s.safe) : StopsIn State.safe (heldCheck s b kinds) :=
  .bind (guardR_stops h _ _ _ _) fun _ _ => guardR_stops h _ _ _ _

theorem seenBy_safe {s : State} {t : FTable} {f : Nat} {d : LatchDesc} {n : Tok} {a : Nat} (h : s.safe) :
    StopsIn State.safe (seenBy s t f d n a) := by
  induction a generalizing s f with
  | zero => exact .ok _
  | succ _ ih =>
    unfold seenBy
    exact .bind (ih h) fun _ _ => .bind (visible_safe h) fun _ _ => .ok _

theorem tokenWants_safe {s : State} {m : Matrix} {i : Fin 6} {d : LatchDesc} (h : s.safe) :
    StopsIn State.safe (tokenWants s m i d) := by
  unfold tokenWants
  refine .bind (guardR_stops h _ _ _ _) fun _ _ => ?_
  refine .bind (frameCheck_safe h) fun _ _ => ?_
  refine .bind (check_stops h _) fun _ _ => ?_
  refine .bind (mapM_stops (fun _ _ => keepsTag_safe h)) fun _ _ => ?_
  exact .bind (check_stops h _) fun _ _ => .bind (mapM_stops (fun _ _ => seenBy_safe h)) fun _ _ => .ok _

theorem latchWants_safe {s : State} {m : Matrix} {i : Fin 6} {d : LatchDesc} (h : s.safe) :
    StopsIn State.safe (latchWants s m i d) := by
  unfold latchWants
  split
  · exact tokenWants_safe h
  · exact .ok _

theorem linePieces_safe {s : State} {kv : Bool} {l : LatchLine} (h : s.safe) : StopsIn State.safe (linePieces s kv l) := by
  unfold linePieces
  split
  · exact .ok _
  · split
    · exact .ok _
    · exact .error h

theorem wantPieces_safe {s : State} {kv : Bool} {w : Want} (h : s.safe) : StopsIn State.safe (wantPieces s kv w) :=
  .bind (accessChecks_safe h) fun _ _ => linePieces_safe h

theorem scalesReadable_safe {s : State} {m : Matrix} {bg : Nat} {c : Cap} {a : List Piece} (h : s.safe) :
    StopsIn State.safe (scalesReadable s m bg c a) := by
  induction a generalizing s bg with
  | nil => exact .ok _
  | cons _ _ ih =>
    unfold scalesReadable
    split
    · split
      · exact .bind (check_stops h _) fun _ _ => ih h
      · exact .bind (readable_safe h) fun _ _ => ih h
    · exact ih h

theorem shadowsReadable_safe {s : State} {m : Matrix} {bg : Nat} {a : List (Want × List Piece)} (h : s.safe) :
    StopsIn State.safe (shadowsReadable s m bg a) := by
  induction a generalizing s bg with
  | nil => exact .ok _
  | cons _ _ ih =>
    unfold shadowsReadable
    refine .bind (bitmapsReadable_safe h) fun _ _ => ?_
    split
    · exact .bind (.ok _) fun _ _ => ih h
    · exact .bind (scalesReadable_safe h) fun _ _ => ih h

theorem wantsChecked_safe {s : State} {m : Matrix} {i : Fin 6} {d : LatchDesc} {ws : List Want} (h : s.safe) :
    StopsIn State.safe (wantsChecked s m i d ws) := by
  unfold wantsChecked
  dsimp only
  refine .bind (check_stops h _) fun _ _ => ?_
  refine .bind (check_stops h _) fun _ _ => ?_
  refine .bind (mapM_stops (fun _ _ => wantPieces_safe h)) fun _ _ => ?_
  split
  · refine .bind (.error (askPage_safe h)) fun _ _ => ?_
    split
    · refine .bind (.error h) fun _ _ => ?_
      split
      · exact .bind (.error h) fun _ _ => .bind (shadowsReadable_safe h) fun _ _ => .ok _
      · exact .bind (.ok _) fun _ _ => .bind (shadowsReadable_safe h) fun _ _ => .ok _
    · refine .bind (.ok _) fun _ _ => ?_
      split
      · exact .bind (.error h) fun _ _ => .bind (shadowsReadable_safe h) fun _ _ => .ok _
      · exact .bind (.ok _) fun _ _ => .bind (shadowsReadable_safe h) fun _ _ => .ok _
  · refine .bind (.ok _) fun _ _ => ?_
    split
    · refine .bind (.error h) fun _ _ => ?_
      split
      · exact .bind (.error h) fun _ _ => .bind (shadowsReadable_safe h) fun _ _ => .ok _
      · exact .bind (.ok _) fun _ _ => .bind (shadowsReadable_safe h) fun _ _ => .ok _
    · refine .bind (.ok _) fun _ _ => ?_
      split
      · exact .bind (.error h) fun _ _ => .bind (shadowsReadable_safe h) fun _ _ => .ok _
      · exact .bind (.ok _) fun _ _ => .bind (shadowsReadable_safe h) fun _ _ => .ok _

theorem latchPart_safe {s : State} {m : Matrix} {i : Fin 6} {d : LatchDesc} {y : Hint} (h : s.safe) :
    StopsIn State.safe (latchPart s m i d y) := by
  unfold latchPart
  refine .bind (latchWants_safe h) fun _ _ => ?_
  split
  exact .bind (wantsChecked_safe h) fun _ _ => .ok _

theorem localScales_safe {s : State} {w : World} {a n : Nat} (h : s.safe) : AnswersIn State.safe (localScales s w a n) := by
  unfold localScales
  dsimp only
  split
  · exact .error h
  · exact .ok h

theorem pieceScales_safe {s : State} {r : Reader} {bits bg a len : Nat} {p : Piece} (h : s.safe) :
    AnswersIn State.safe (pieceScales s r bits bg a len p) := by
  unfold pieceScales
  dsimp only
  split
  · split
    · exact (localScales_safe h).then_ fun _ k => .ok k
    · exact (shadowRead_safe h).then_ fun _ k => .ok k
  · exact .ok h

theorem piecesScales_safe {s : State} {r : Reader} {bits bg a len : Nat} {a1 : List Piece} (h : s.safe) :
    AnswersIn State.safe (piecesScales s r bits bg a len a1) := by
  induction a1 generalizing s bits bg a len with
  | nil => exact .ok h
  | cons _ _ ih =>
    unfold piecesScales
    exact (pieceScales_safe h).then_ fun _ k => (ih k).then_ fun _ k1 => .ok k1

theorem readRun_safe {s : State} {m : Matrix} {kv : Bool} {bg : Nat} {y : Hint} {l : LatchLine} (h : s.safe) :
    AnswersIn State.safe (readRun s m kv bg y l) := by
  unfold readRun
  refine .bind (linePieces_safe h) fun _ _ => ?_
  refine YieldsIn.then_ (arrive_safe h) fun _ k1 => ?_
  refine (loadPieces_safe k1).then_ fun _ k2 => ?_
  split
  · exact AnswersIn.then_ (.ok k2) fun _ k3 => .ok (peerUsed_safe k3)
  · exact (piecesScales_safe k2).then_ fun _ k3 => .ok (peerUsed_safe k3)

theorem readRuns_safe {s : State} {m : Matrix} {kv : Bool} {bg : Nat} {y : Hint} {ls : List (Option LatchLine)} (h : s.safe) :
    AnswersIn State.safe (readRuns s m kv bg y ls) := by
  induction ls generalizing s with
  | nil => exact .ok h
  | cons l ls ih =>
    cases l with
    | none => exact (ih h).then_ fun _ k => .ok k
    | some l => exact (readRun_safe h).then_ fun _ k => (ih k).then_ fun _ k1 => .ok k1

theorem readPart_safe {s : State} {m : Matrix} {p : Part} (h : s.safe) : AnswersIn State.safe (readPart s m p) :=
  (readRuns_safe h).then_ fun _ k => .ok k

theorem readTableOf_safe {s : State} {c : Cap} (h : s.safe) : AnswersIn State.safe (readTableOf s c) := by
  unfold readTableOf
  exact .bind (check_stops h _) fun _ _ => .bind (guardR_stops h _ _ _ _) fun _ _ => loadBytes_safe h

theorem reloadParts_safe {s : State} {m : Matrix} {a : List (Fin 6)} (h : s.safe) : AnswersIn State.safe (reloadParts s m a) := by
  induction a generalizing s m with
  | nil => exact .ok h
  | cons _ _ ih =>
    unfold reloadParts
    dsimp only
    split
    · exact .bind (latchPart_safe h) fun _ _ => (readPart_safe h).then_ fun _ k1 => ih k1
    · exact ih h

theorem reloadAll_safe {s : State} (h : s.safe) : RunsIn State.safe (reloadAll s) := by
  unfold reloadAll
  refine YieldsIn.then_ (reloadParts_safe h) fun _ k => ?_
  refine YieldsIn.then_ (p' := fun (a : Wave × State) => a.2.safe) ?_ fun _ k1 => ?_
  · split
    · exact (readTableOf_safe k).then_ fun _ k1 => .ok k1
    · exact .ok k
  exact .ok (ite_safe (post_safe (with_safe k1)) (with_safe k1))

theorem matReady_safe {s : State} (h : s.safe) : RunsIn State.safe (matReady s) := by
  unfold matReady
  dsimp only
  split
  · refine (reloadAll_safe h).then_ fun _ k => ?_
    split
    · exact .error k
    · exact .ok k
  · refine RunsIn.then_ (.ok h) fun _ k => ?_
    split
    · exact .error k
    · exact .ok k

theorem matFree_safe {s : State} {p : Stopped → Bool} (h : s.safe) : StopsIn State.safe (matFree s p) := by
  unfold matFree
  split
  · exact .error h
  · exact .ok _

theorem accFree_safe {s : State} {a : Fin 4} (h : s.safe) : StopsIn State.safe (accFree s a) := by
  unfold accFree
  refine .bind (matFree_safe h) fun _ _ => ?_
  split
  · exact .error h
  · exact .ok _

/-! ### `Machine/Resume` -/

theorem addTag_safe {s : State} {g : Nat} (h : s.safe) : ({ s with tags := natSet s.tags g true } : State).safe :=
  safe_of_tags h (natSet_rising (tags_of_safe h) g true) rfl rfl rfl
theorem addTags_safe {s : State} {f : Nat → Nat} {l : List Nat} (h : s.safe) :
    (l.foldl (fun s t => { s with tags := natSet s.tags (f t) true }) s).safe := by
  refine foldl_safe (fun t g k => ?_) h
  exact addTag_safe k
theorem devWrite_safe {s : State} {w : World} {a : Nat} {bs : List Byte} {tags : List Nat} {ps : List Piece} (h : s.safe) :
    (s.devWrite w a bs tags ps).safe := by
  unfold State.devWrite
  refine foldl_safe (fun t p k => ?_) h
  split
  · refine cacheRefresh_safe (sealAt_safe (foldl_safe (fun u g ku => ?_) (writeBytes_safe (dupWrite_safe k))))
    exact addTag_safe ku
  · exact writeBytes_safe k
  · exact k

theorem takeFree_safe {s : State} (h : s.safe) : s.takeFree.2.safe := h
theorem setStat_safe {s : State} {i : SlotId} {code : BitVec 8} (h : s.safe) : (s.setStat i code).safe :=
  notice_safe (modSlot_safe h)

theorem vacate_safe {s : State} {i : SlotId} {code : BitVec 8} (h : s.safe) : (s.vacate i code).safe :=
  unstall_safe (post_safe (poolFreed_safe (setStat_safe (with_safe (modSlot_safe (leaveQueue_safe (leaveQueue_safe
    (goHome_safe h))))))))

theorem length_dropFirst_le {α : Type} [DecidableEq α] (x : α) (l : List α) : (dropFirst x l).length ≤ l.length := by
  induction l with
  | nil => exact le_rfl
  | cons a l ih =>
    unfold dropFirst
    split
    · exact Nat.le_succ _
    · exact Nat.succ_le_succ ih
theorem withdraw_safe {s : State} {i : SlotId} (h : s.safe) : (s.withdraw i).safe := by
  unfold State.withdraw
  split
  · exact h
  · exact post_safe (safe_of_queue h ((length_dropFirst_le _ _).trans (fits_of_safe h)) rfl rfl rfl)

theorem giveBack_safe {s : State} {t : Option (BitVec 8 × Nat)} (h : s.safe) : (s.giveBack t).safe := by
  unfold State.giveBack
  split
  · exact h
  · exact semAdd_safe h

theorem askImage_safe {s : State} {i : SlotId} (h : s.safe) : (s.askImage i).safe := by
  unfold State.askImage
  dsimp only
  split
  · split
    · exact askPage_safe h
    · exact h
  · exact h

theorem parkMons_safe {s : State} {i : SlotId} {image : Nat} {tow : BitVec 16} (h : s.safe) : (s.parkMons i image tow).safe := by
  unfold State.parkMons
  refine foldl_safe (fun t a k => ?_) h
  exact ite_safe k (ite_safe k k)

theorem settleFaults_safe {s : State} {i : SlotId} (h : s.safe) : (s.settleFaults i).safe := by
  unfold State.settleFaults
  dsimp only
  split
  · exact parkTrap_safe (withdraw_safe h)
  · exact parkTrap_safe h
  · exact h

theorem dropCopies_safe {s : State} {i : SlotId} (h : s.safe) : (s.dropCopies i).safe := modSlot_safe (leaveQueue_safe h)
theorem sleep_safe {s : State} {i : SlotId} {image : Nat} (h : s.safe) : (s.sleep i image).safe := ite_safe h h

theorem writeImage_safe {s : State} {w : World} {c : Cap} {whole : Bool} {m : Img} (h : s.safe) :
    (s.writeImage w c whole m).safe := by
  unfold State.writeImage
  refine when_safe ?_ (fun k => ?_)
  · split
    · exact devWrite_safe (devWrite_safe h)
    · exact h
  · split
    · exact devWrite_safe h
    · exact h

theorem rewriteImage_safe {s : State} {i : SlotId} (h : s.safe) : (s.rewriteImage i).safe := by
  unfold State.rewriteImage
  dsimp only
  split
  · exact writeImage_safe h
  · exact h

theorem suspend_safe {s : State} {i : SlotId} {cause : Nat} {tow : BitVec 16} {code : BitVec 8} (h : s.safe) :
    (s.suspend i cause tow code).1.safe := by
  unfold State.suspend
  lift_lets
  extract_lets s1 sl image s2 s3 s4 s5 s6 fl s7 mat s8 sl2 cause2 prot s9 ctr
  have h1 : s1.safe := goHome_safe (filterAway_safe h)
  split
  · exact vacate_safe (dropCopies_safe (sleep_safe (parkMons_safe (rewriteImage_safe (giveBack_safe h1)))))
  · have h2 : s2.safe := giveBack_safe (giveBack_safe h1)
    have h3 : s3.safe := when_safe h2 fun k => with_safe k
    have h5 : s5.safe := modSlot_safe (settleFaults_safe h3)
    have h6 : s6.safe := when_safe h5 fun k => with_safe k
    have h8 : s8.safe := when_safe (modSlot_safe h6) fun k => with_safe k
    have h9 : s9.safe := when_safe h8 fun k => modWorld_safe k
    clear_value s9 s8 s6
    split
    next cycles s10 e =>
      have h10 : (cycles, s10).2.safe := e ▸ takeFree_safe h9
      exact vacate_safe (dropCopies_safe (sleep_safe (parkMons_safe (withdraw_safe (writeImage_safe h10)))))

theorem putRec_safe {s : State} {i : SlotId} {r : Rec} (h : s.safe) : (s.putRec i r).safe := modSlot_safe h
theorem preemptSlot_safe {s : State} {i : SlotId} (h : s.safe) : (s.preemptSlot i).safe := putRec_safe (suspend_safe h)
theorem startFresh_safe {s : State} {i : SlotId} {r : Rec} (h : s.safe) : (s.startFresh i r).safe := modSlot_safe h
theorem raiseStored_safe {s : State} {i : SlotId} {r : TrapRec} {word : BitVec 32} (h : s.safe) : (s.raiseStored i r word).safe :=
  enqueueRec_safe (modSlot_safe h)

theorem restored_safe {s : State} {i : SlotId} (h : s.safe) : (s.restored i).safe := by
  unfold State.restored
  dsimp only
  split
  · exact raiseStored_safe (modSlot_safe h)
  · exact modSlot_safe h

theorem restoreFail_safe {s : State} {i : SlotId} {f : Fail} (h : s.safe) : (s.restoreFail i f).safe := modSlot_safe h

theorem resumeUnits_safe {s : State} {i : SlotId} (h : s.safe) : (s.resumeUnits i).safe := by
  unfold State.resumeUnits
  dsimp only
  split
  · exact post_safe (foldl_safe (fun _ _ k2 => post_safe k2) (foldl_safe (fun _ _ k2 => ite_safe (postFetches_safe k2) k2) h))
  · exact foldl_safe (fun _ _ k1 => post_safe k1) (foldl_safe (fun _ _ k1 => ite_safe (postFetches_safe k1) k1) h)

theorem takeUnits_safe {s : State} {i : SlotId} (h : s.safe) : (s.takeUnits i).safe := by
  unfold State.takeUnits
  refine when_safe ?_ (fun _ => modSlot_safe h)
  refine restored_safe ?_
  refine resumeUnits_safe ?_
  refine modSlot_safe ?_
  split
  · exact post_safe h
  · exact h

theorem unparkMons_safe {s : State} {i : SlotId} {image : Nat} (h : s.safe) : (s.unparkMons i image).safe :=
  with_safe (modSlot_safe h)

theorem wakeFib_safe {s : State} {i : SlotId} {image : Nat} (h : s.safe) : (s.wakeFib i image).safe := by
  unfold State.wakeFib
  dsimp only
  split
  · exact h
  · exact with_safe (modSlot_safe h)

theorem takeImage_safe {s : State} {i : SlotId} {base : Nat} {m : Img} (h : s.safe) : (s.takeImage i base m).safe :=
  takeUnits_safe (unparkMons_safe (modSlot_safe (modSlot_safe (wakeFib_safe h))))

theorem restoreImage_safe {s : State} {i : SlotId} (h : s.safe) : (s.restoreImage i).safe := by
  unfold State.restoreImage
  dsimp only
  split
  · exact restoreFail_safe h
  · exact modSlot_safe (askPage_safe h)
  · exact h
  · exact ite_safe (restoreFail_safe h) (takeImage_safe h)

theorem startRecord_safe {s : State} {i : SlotId} {r : Rec} (h : s.safe) : (s.startRecord i r).safe :=
  ite_safe (restoreImage_safe (modSlot_safe (with_safe (modSlot_safe (dropWorld_safe h))))) (startFresh_safe (with_safe
    (modSlot_safe (dropWorld_safe h))))

theorem execRestoreUnitTake_safe {s : State} (h : s.safe) : KeepsSafe (execRestoreUnitTake s) := by
  unfold execRestoreUnitTake
  split
  · refine .next ?_
    split
    · exact restoreImage_safe h
    · exact takeUnits_safe h
    · exact h
  · exact .none (by simp)

end Sys2Proof.Machine
end

section
/-!
The functions of `Machine/Tow`, `Machine/Sync`, `Machine/EngineOps`, `Machine/Fibre`, `Machine/System`, `Machine/Transform`,
`Machine/Engines` keep a safe state safe: one lemma for each,
whose cases are those of its definition.
-/

namespace Sys2Proof.Machine

/-! ### `Machine/Tow` -/

theorem sendHost_safe {s : State} {p : HostPort} {m : HostMsg} (h : s.safe) : (s.sendHost p m).safe := by
  unfold State.sendHost
  refine when_safe h (fun k => ?_)
  refine with_safe ?_
  split
  · exact writeBytes_safe h
  · exact h

theorem interrupt_safe {s : State} {p : HostPort} {uli : Bool} {fn : World} {vec : Nat} (h : s.safe) :
    (s.interrupt p uli fn vec).safe := by
  unfold State.interrupt
  refine when_safe (ite_safe (sendHost_safe h) (modWorld_safe h)) (fun k => ?_)
  split
  · exact sendHost_safe h
  · exact modWorld_safe h

theorem coalesced_safe {s : State} {p : HostPort} {uli : Bool} {fn : World} {vec win : Nat} (h : s.safe) :
    (s.coalesced p uli fn vec win).safe := ite_safe (interrupt_safe h) (ite_safe h (with_safe (interrupt_safe h)))
theorem towSet_safe {s : State} {n off n1 v : Nat} (h : s.safe) : (s.towSet n off n1 v).safe :=
  cacheRefresh_safe (writeBytes_safe (dupWrite_safe h))
theorem towFlags_safe {s : State} {n : Nat} {f : Nat → Nat} (h : s.safe) : (s.towFlags n f).safe := towSet_safe h
theorem putBarScale_safe {s : State} {b : BarScale} (h : s.safe) : (s.putBarScale b).safe := h
theorem completeBar_safe {s : State} {w : World} {t : BitVec 16} {n : Nat} (h : s.safe) : (s.completeBar w t n).safe :=
  with_safe (towSet_safe (towSet_safe (putBarScale_safe h)))

theorem towDecr_safe {s : State} {w : World} {t : BitVec 16} {n : Nat} (h : s.safe) : (s.towDecr w t n).safe :=
  ite_safe (auditIrq_safe h) (ite_safe (post_safe (with_safe (towFlags_safe (ite_safe (completeBar_safe (towSet_safe h))
    (towSet_safe h))))) (ite_safe (completeBar_safe (towSet_safe h)) (towSet_safe h)))

theorem towDo_safe {s : State} {w : World} {t : BitVec 16} {n : Nat} {a : TowAct} (h : s.safe) : (s.towDo w t n a).safe := by
  unfold State.towDo
  split
  · exact towDecr_safe h
  · exact towSet_safe h
  · exact ite_safe (post_safe (notice_safe (towFlags_safe (towSet_safe h)))) (towSet_safe h)
  · exact ite_safe (post_safe (towSet_safe (towSet_safe (towSet_safe h)))) (towSet_safe (towSet_safe (towSet_safe h)))
  · exact post_safe h

theorem towAct_safe {s : State} {w : World} {t : BitVec 16} {a : TowAct} (h : s.safe) : (s.towAct w t a).safe := by
  unfold State.towAct
  refine when_safe ?_ (fun _ => h)
  refine when_safe ?_ (fun _ => h)
  split
  · exact ite_safe h (towDo_safe h)
  · exact with_safe (askPage_safe h)
  · exact auditIrq_safe h

theorem retryHeld_safe {s : State} (h : s.safe) : s.retryHeld.safe := foldl_safe (fun _ _ k1 => towAct_safe k1) h

theorem settleSlot_safe {s : State} {i : SlotId} (h : s.safe) : (s.settleSlot i).safe := by
  unfold State.settleSlot
  refine when_safe ?_ (fun _ => h)
  split
  · exact ite_safe (towAct_safe h) (towAct_safe (towAct_safe h))
  · exact towAct_safe h
  · exact towAct_safe h
  · exact h

theorem listErrors_safe {s : State} (h : s.safe) : s.listErrors.safe := by
  unfold State.listErrors
  refine foldl_safe (fun t a k => ?_) h
  split
  · exact listBad_safe k
  · exact k

theorem settle_safe {s : State} (h : s.safe) : (settle s).safe :=
  listErrors_safe (foldl_safe (fun _ _ k2 => settleSlot_safe k2) h)

theorem settled_safe {r : Out} (h : KeepsSafe r) : KeepsSafe (settled r) := by
  cases r with
  | next t => exact .next (settle_safe (h t rfl))
  | fault _ => exact .none (by simp [settled])
  | refused _ => exact .none (by simp [settled])

theorem crqPut_safe {s : State} {c : Fin 64} {r : Rec} (h : s.safe) : (s.crqPut c r).safe := h
theorem requeue_safe {s : State} {c : Fin 64} {r : Rec} (h : s.safe) : (s.requeue c r).safe := ite_safe (crqPut_safe h) h

theorem requeueAll_safe {s : State} {a : List Queued} (h : s.safe) : (s.requeueAll a).safe := by
  induction a generalizing s with
  | nil => exact h
  | cons _ _ ih =>
    unfold State.requeueAll
    exact ih (requeue_safe h)

theorem crqDrain_safe {s : State} (h : s.safe) : s.crqDrain.safe := rouseAll_safe (requeueAll_safe h)
theorem crqTake_safe {s : State} {r : Rec} (h : s.safe) : (s.crqTake r).safe := ite_safe (crqDrain_safe h) h
theorem startIn_safe {s : State} {i : SlotId} {r : Rec} (h : s.safe) : (s.startIn i r).safe := setStat_safe (startRecord_safe h)

theorem deliver_safe {s : State} {r : Rec} (h : s.safe) : SomeIn State.safe (s.deliver r) := by
  unfold State.deliver
  dsimp only
  split
  · exact .some (startIn_safe h)
  · split
    · exact .some h
    · split
      · exact .some h
      · exact .none

theorem deliverHeld_safe {s : State} {r : Rec} (h : s.safe) : (s.deliverHeld r).safe := by
  unfold State.deliverHeld
  split
  · next t e =>
    split at e
    · cases e
    · exact deliver_safe h _ e
  · exact h

theorem towReach_safe {s : State} {t : BitVec 16} {need : Need} (h : s.safe) : StopsIn State.safe (towReach s t need) := by
  unfold towReach
  dsimp only
  split
  · exact .error h
  · exact .error (askPage_safe h)
  · split
    · exact .error h
    · split
      · exact .error h
      · split
        · exact .error h
        · split
          · exact .error h
          · exact .ok _
  · exact .error h

theorem towArg_safe {s : State} {r : BitVec 6} (h : s.safe) : StopsIn State.safe (towArg s r) :=
  .bind (guardR_stops h _ _ _ _) fun _ _ => .ok _
theorem putAwait_safe {s : State} {i : Fin 32} {e : AwaitEntry} (h : s.safe) : (s.putAwait i e).safe :=
  post_safe (ite_safe (joinQueue_safe h) h)
theorem dropAwait_safe {s : State} {i : Fin 32} (h : s.safe) : (s.dropAwait i).safe := rouseAll_safe (leaveQueue_safe h)

theorem execAwaitConditionHolds_safe {s : State} (h : s.safe) : KeepsSafe (execAwaitConditionHolds s) := by
  unfold execAwaitConditionHolds
  dsimp only
  split
  · split
    · exact .next h
    · split
      · exact .next h
      · split
        · exact .next (post_safe h)
        · exact .next (deliverHeld_safe (dropAwait_safe (ite_safe h h)))
  · exact .none (by simp)

/-! ### `Machine/Sync` -/

theorem execMon_safe {s : State} {o : MOp} (h : s.safe) : KeepsSafe (execMon o s) := by
  unfold execMon
  refine finish_keepsSafe ?_
  refine .bind (accessPieces_safe h) fun _ _ => ?_
  split
  · exact .error h
  · refine .bind (bitmapsReadable_safe h) fun _ _ => ?_
    exact (arrive_safe h).then_ fun _ k2 => YieldsIn.then_ (loadPieces_safe k2) fun _ k3 => .ok (modCur_safe (wx_safe
      (acquired_safe k3)))

theorem execUnmon_safe {s : State} {o : MOp} (h : s.safe) : KeepsSafe (execUnmon o s) := by
  unfold execUnmon
  refine finish_keepsSafe ?_
  split
  · exact .ok (modCur_safe h)
  · exact .bind (accessPieces_safe h) fun _ _ => .ok (modCur_safe h)

theorem execPark_safe {s : State} {o : ROp} (h : s.safe) : KeepsSafe (execPark o s) := by
  unfold execPark
  split
  · exact .next (modCur_safe h)
  · exact finish_keepsSafe (.ok (modCur_safe (wx_safe h)))

theorem unpark_safe {s : State} {i : SlotId} {bits : BitVec 2} (h : s.safe) : (s.unpark i bits).safe :=
  ite_safe (modSlot_safe h) h

theorem execParkWake_safe {s : State} (h : s.safe) : KeepsSafe (execParkWake s) := by
  unfold execParkWake
  split
  · exact .next (ite_safe h (unpark_safe h))
  · exact .none (by simp)

theorem execParkTimeout_safe {s : State} (h : s.safe) : KeepsSafe (execParkTimeout s) := by
  unfold execParkTimeout
  split
  · exact .next (ite_safe h (unpark_safe h))
  · exact .none (by simp)

theorem execSmset_safe {s : State} {o : RIOp} (h : s.safe) : KeepsSafe (execSmset o s) := by
  unfold execSmset
  exact finish_keepsSafe (.bind (guardR_stops h _ _ _ _) fun _ _ => .bind (releaseWait_safe h) fun _ _ => .ok (semSet_safe h))

theorem execSmrd_safe {s : State} {o : ROp} (h : s.safe) : KeepsSafe (execSmrd o s) := finish_keepsSafe (.ok (wx_safe h))

theorem execSmadd_safe {s : State} {o : RIOp} (h : s.safe) : KeepsSafe (execSmadd o s) := by
  unfold execSmadd
  refine finish_keepsSafe ?_
  refine .bind (guardR_stops h _ _ _ _) fun _ _ => ?_
  exact .bind (guardR_stops h _ _ _ _) fun _ _ => .bind (releaseWait_safe h) fun _ _ => .ok (semSet_safe (wx_safe h))

theorem grantSem_safe {s : State} {sm : BitVec 8} (h : s.safe) : (s.grantSem sm).safe := by
  unfold State.grantSem
  split
  · exact h
  · refine when_safe ?_ (fun _ => h)
    split
    · exact post_safe h
    · exact rouse_safe (modSlot_safe (leaveQueue_safe h))
    · exact post_safe (modSlot_safe (leaveQueue_safe h))
    · exact h

theorem serveSwaps_safe {s : State} {p : AwaitEntry → Bool} (h : s.safe) : (s.serveSwaps p).safe := by
  unfold State.serveSwaps
  refine foldl_safe (fun t a k => ?_) h
  split
  · exact ite_safe (post_safe k) k
  · exact k

theorem execWaitsemGrant_safe {s : State} (h : s.safe) : KeepsSafe (execWaitsemGrant s) := by
  unfold execWaitsemGrant
  split
  · exact .next (serveSwaps_safe (grantSem_safe h))
  · exact .none (by simp)

theorem rouseWaiters_safe {s : State} {p : Waiter → Bool} (h : s.safe) : (s.rouseWaiters p).safe := by
  unfold State.rouseWaiters
  refine foldl_safe (fun t a k => ?_) h
  refine when_safe k (fun k1 => ?_)
  split
  · exact rouse_safe k
  · exact k

theorem testAwait_safe {s : State} {p : AwaitEntry → Bool} (h : s.safe) : (s.testAwait p).safe := by
  unfold State.testAwait
  refine foldl_safe (fun t a k => ?_) h
  split
  · exact ite_safe (post_safe k) k
  · exact k

theorem execFullEmptyServe_safe {s : State} (h : s.safe) : KeepsSafe (execFullEmptyServe s) := by
  unfold execFullEmptyServe
  split
  · exact .next (testAwait_safe (rouseWaiters_safe h))
  · exact .none (by simp)

theorem execFifoServe_safe {s : State} (h : s.safe) : KeepsSafe (execFifoServe s) := by
  unfold execFifoServe
  split
  · exact .next (unstall_safe (testAwait_safe (rouseWaiters_safe h)))
  · exact .none (by simp)

theorem execQuayCoreArrival_safe {s : State} (h : s.safe) : KeepsSafe (execQuayCoreArrival s) := by
  unfold execQuayCoreArrival
  split
  · exact .next (rouseWaiters_safe h)
  · exact .none (by simp)

theorem execBarrierWaitReturn_safe {s : State} (h : s.safe) : KeepsSafe (execBarrierWaitReturn s) := by
  unfold execBarrierWaitReturn
  split
  · exact .next (ite_safe (rouse_safe h) h)
  · exact .none (by simp)

theorem barTow_safe {s : State} {r : BitVec 6} (h : s.safe) : StopsIn State.safe (barTow s r) := by
  unfold barTow
  exact .bind (towArg_safe h) fun _ _ => .bind (guardR_stops h _ _ _ _) fun _ _ => .ok _

theorem arriveTow_safe {s : State} {t : BitVec 16} {k : Nat} (h : s.safe) : (s.arrive t k).safe :=
  ite_safe (completeBar_safe h) (towSet_safe h)

theorem arriveBody_safe {s : State} {o : ROp} {f : State → BitVec 16 → Nat → State} (h : s.safe)
    (hf : ∀ t b k, t.safe → (f t b k).safe) : RunsIn State.safe (arriveBody o f s) := by
  unfold arriveBody
  refine .bind (barTow_safe h) fun t _ => .bind (releaseWait_safe h) fun _ _ => .bind (towReach_safe h) fun k _ => ?_
  exact .ok (wx_safe (arriveTow_safe (hf _ _ _ h)))

theorem barWait_safe {s : State} {o : ROp} (h : s.safe) : StopsIn State.safe (barWait o s) := by
  unfold barWait
  refine .bind (barTow_safe h) fun _ _ => ?_
  refine .bind (towReach_safe h) fun _ _ => ?_
  split
  · exact .error h
  · exact .ok _

theorem execBar_safe {s : State} {o : ROp} (h : s.safe) : KeepsSafe (execBar o s) := by
  unfold execBar
  refine finish_keepsSafe ?_
  split
  · exact .bind (barWait_safe h) fun _ _ => .ok (acquired_safe h)
  · exact arriveBody_safe h (fun _ _ _ k1 => k1)

theorem contribute_safe {s : State} {o : ROp} {t : BitVec 16} {n : Nat} (h : s.safe) : (contribute o s t n).safe :=
  putBarScale_safe (towSet_safe (towSet_safe h))

theorem execBarmx_safe {s : State} {o : ROp} (h : s.safe) : KeepsSafe (execBarmx o s) := by
  unfold execBarmx
  refine finish_keepsSafe ?_
  split
  · exact .bind (barWait_safe h) fun _ _ => .ok (orFlags_safe (wx_safe (acquired_safe h)))
  · exact arriveBody_safe h (fun _ _ _ k1 => contribute_safe k1)

theorem trapAt_safe {s : State} {i : SlotId} {f : Fail} (h : s.safe) : (s.trapAt i f).safe :=
  takeTrap_safe (withWord_safe (onSlot_safe h)) _

theorem execSlice_safe {s : State} (h : s.safe) : KeepsSafe (execSlice s) := by
  unfold execSlice
  dsimp only
  split
  · split
    · exact .next h
    · split
      · exact .next (post_safe h)
      · split
        · exact .next (modSlot_safe h)
        · split
          · exact .next (modSlot_safe h)
          · exact .next (modSlot_safe h)
          · exact .next (rouse_safe (leaveQueue_safe (modSlot_safe h)))
          · exact .next (modSlot_safe (modSlot_safe h))
          · exact .next (modSlot_safe h)
          · exact .next h
  · exact .none (by simp)

/-! ### `Machine/EngineOps` -/

theorem got_safe {α : Type} {r : R (α × State)} (h : AnswersIn State.safe r) :
    EitherIn (fun (a : α × State) => a.2.safe) Held.safe (got r) := by
  unfold got
  split
  · next a => exact .ok (h.1 a rfl)
  · exact .error trivial
  · next st t _ => exact .error (h.2 (st, t) rfl)

theorem check_safe {f : Option Fail} : EitherIn (fun (_ : Unit) => True) Held.safe (Held.check f) := by
  unfold Held.check
  split
  · exact .error trivial
  · exact .ok trivial

theorem putTags_safe {s : State} {k : Nat} {tags : List Bool} (h : s.safe) : (s.putTags k tags).safe := by
  unfold State.putTags
  refine foldl_safe (fun t g k => ?_) h
  exact safe_of_tags k (natSet_rising (tags_of_safe k) _ _) rfl rfl rfl

theorem engineLog_safe {s : State} {i : SlotId} {w : World} {q : Nat → Fin 128} {y : Hint} {tags : List Bool} {va : Nat}
  {bs : List Byte} {a : List (Nat × Nat)} (h : s.safe) :
    EitherIn State.safe Held.safe (s.engineLog i w q y tags va bs a) := by
  induction a generalizing s tags va bs with
  | nil => exact .ok h
  | cons _ _ ih =>
    unfold State.engineLog
    split
    · exact ih (logPut_safe h)
    · exact .error h

theorem engineAt_safe {s : State} {i : SlotId} {w : World} {y : Hint} {key va : Nat} {bs : List Byte} {tags : List Bool}
  (h : s.safe) :
    EitherIn State.safe Held.safe (s.engineAt i w y key va bs tags) := by
  unfold State.engineAt
  split
  · exact .error trivial
  · split
    · exact .error trivial
    · exact .ok (performAt_safe h)

theorem engineLines_safe {s : State} {i : SlotId} {w : World} {y : Hint} {key main va : Nat} {bs : List Byte} {tags : List Bool}
  {a : List (Nat × Nat)} (h : s.safe) :
    EitherIn State.safe Held.safe (s.engineLines i w y key main va bs tags a) := by
  induction a generalizing s key main va bs tags with
  | nil => exact .ok h
  | cons _ _ ih =>
    unfold State.engineLines
    dsimp only
    split
    · refine .bind (engineLog_safe h) fun _ k => ?_
      exact ih k
    · refine .bind (engineAt_safe h) fun _ k => ?_
      exact ih k

theorem enginePiece_safe {s : State} {i : SlotId} {w : World} {pc insn : Word} {p : Piece} {bs : List Byte} {tags : List Bool}
  {y : Hint} (h : s.safe) :
    EitherIn State.safe Held.safe (s.enginePiece i w pc insn p bs tags y) := by
  unfold State.enginePiece
  split
  · exact .error trivial
  · exact engineLog_safe (askPage_safe h)
  · split
    · exact .ok (writeBytes_safe h)
    · exact .error trivial
  · split
    · exact .ok (sendPeer_safe h)
    · exact .error trivial
  · split
    · exact engineLines_safe h
    · exact engineAt_safe h

theorem enginePieces_safe {s : State} {i : SlotId} {w : World} {pc insn : Word} {y : Hint} {a : List Piece} {a1 : List Byte}
  {a2 : List Bool} (h : s.safe) :
    EitherIn State.safe Held.safe (s.enginePieces i w pc insn y a a1 a2) := by
  induction a generalizing s a1 a2 with
  | nil => exact .ok h
  | cons _ _ ih =>
    unfold State.enginePieces
    refine .bind (enginePiece_safe h) fun _ k => ?_
    exact ih k

theorem enginePut_safe {s : State} {i : SlotId} {w : World} {loc : Bool} {a : Nat} {bs : List Byte} {tags : List Bool}
  {pc insn : Word} {y : Hint} (h : s.safe) :
    EitherIn State.safe Held.safe (s.enginePut i w loc a bs tags pc insn y) := by
  unfold State.enginePut
  split
  · split
    · exact .error trivial
    · exact .ok (putTags_safe (engineWrite_safe h))
  · split
    · exact .error trivial
    · exact enginePieces_safe (arrived_safe h)

theorem matIdle_safe {s : State} (h : s.safe) : StopsIn State.safe (matIdle s) := by
  unfold matIdle
  split
  · exact .error h
  · exact .ok _

/-! ### `Machine/Fibre` -/

theorem sendCheck_safe {s : State} {o : ROp} (h : s.safe) : StopsIn State.safe (sendCheck s o) := by
  unfold sendCheck
  split
  · exact .error h
  · exact .ok _

theorem sendTow_safe {s : State} {o : ROp} (h : s.safe) : StopsIn State.safe (sendTow s o) := by
  unfold sendTow
  exact .bind (guardR_stops h _ _ _ _) fun _ _ => .ok _

theorem memberReach_safe {s : State} {t : BitVec 16} (h : s.safe) : StopsIn State.safe (memberReach s t) := by
  unfold memberReach
  split
  · exact .ok _
  · exact .bind (towReach_safe h) fun _ _ => .ok _

theorem memberUp_safe {s : State} {a : Option Nat} (h : s.safe) : (s.memberUp a).safe := by
  unfold State.memberUp
  split
  · exact h
  · exact towSet_safe h

theorem spawnTarget_safe {s : State} {o : ROp} (h : s.safe) : StopsIn State.safe (spawnTarget s o) := by
  unfold spawnTarget
  dsimp only
  split
  · exact .ok _
  · exact .bind (guardR_stops h _ _ _ _) fun _ _ => .ok _

theorem execSpawn_safe {s : State} {o : ROp} (h : s.safe) : KeepsSafe (execSpawn o s) := by
  unfold execSpawn
  dsimp only
  refine finish_keepsSafe ?_
  refine .bind (sendCheck_safe h) fun _ _ => ?_
  refine .bind (spawnTarget_safe h) fun _ _ => ?_
  refine .bind (sendTow_safe h) fun _ _ => ?_
  refine .bind (releaseWait_safe h) fun _ _ => ?_
  refine .bind (memberReach_safe h) fun _ _ => ?_
  split
  · exact .error h
  · exact .ok (crqPut_safe (memberUp_safe h))

theorem callTarget_safe {s : State} {o : ROp} (h : s.safe) : StopsIn State.safe (callTarget s o) :=
  .bind (guardR_stops h _ _ _ _) fun _ _ => .ok _

theorem sendTo_safe {s : State} {core : Nat} {r : Rec} (h : s.safe) : RunsIn State.safe (sendTo s core r) := by
  unfold sendTo
  split
  · split
    · rename_i e1
      exact .ok (deliver_safe h _ e1)
    · exact .error h
  · split
    · exact .ok h
    · exact .error h

theorem execCallat_safe {s : State} {o : ROp} (h : s.safe) : KeepsSafe (execCallat o s) := by
  unfold execCallat
  refine finish_keepsSafe ?_
  refine .bind (sendCheck_safe h) fun _ _ => ?_
  refine .bind (callTarget_safe h) fun _ _ => ?_
  refine .bind (sendTow_safe h) fun _ _ => ?_
  exact .bind (releaseWait_safe h) fun _ _ => .bind (memberReach_safe h) fun _ _ => (sendTo_safe h).then_ fun _ k5 => .ok
    (memberUp_safe k5)

theorem mayLeave_safe {s : State} (h : s.safe) : StopsIn State.safe (mayLeave s) := guardR_stops h _ _ _ _
theorem signalGone_safe {s : State} {y : Hdr} {pc : Word} (h : s.safe) : (s.signalGone y pc).safe :=
  ite_safe h (ite_safe (holdSig_safe h) (ite_safe (postRec_safe (semAdd_safe h)) (semAdd_safe h)))

theorem finishGone_keepsSafe {s : State} {y : Hdr} {body : State → R State} (h : RunsIn State.safe (body s)) :
    KeepsSafe (finishGone y body s) := by
  unfold finishGone
  split
  · next t e => exact .next (signalGone_safe (h.1 t e))
  · next st t e => exact .next (stopped_safe (h.2 _ e) st)

theorem execYield_safe {s : State} {o : ROp} (h : s.safe) : KeepsSafe (execYield o s) := by
  unfold execYield
  refine finishGone_keepsSafe ?_
  refine .bind (mayLeave_safe (goHome_safe h)) fun _ _ => ?_
  refine .bind (releaseWait_safe (goHome_safe h)) fun _ _ => ?_
  exact .ok (ite_safe (requeue_safe (vacate_safe (goHome_safe h))) (deliverHeld_safe (vacate_safe (goHome_safe h))))

theorem awaitIn_safe {s : State} {i : Fin 32} {kind : WaitKind} {obj thr : Nat} (h : s.safe) : (s.awaitIn i kind obj thr).safe :=
  putAwait_safe (vacate_safe h)

theorem awaitRoom_safe {s : State} (h : s.safe) : StopsIn State.safe (awaitRoom s) := by
  unfold awaitRoom
  split
  · exact .ok _
  · exact .error h

theorem execAwaitSm_safe {s : State} {o : ROp} (h : s.safe) : KeepsSafe (execAwaitSm o s) := by
  unfold execAwaitSm
  refine finishGone_keepsSafe ?_
  refine .bind (guardR_stops (goHome_safe h) _ _ _ _) fun _ _ => ?_
  refine .bind (guardR_stops (goHome_safe h) _ _ _ _) fun _ _ => ?_
  refine .bind (guardR_stops (goHome_safe h) _ _ _ _) fun _ _ => ?_
  refine .bind (guardR_stops (goHome_safe h) _ _ _ _) fun _ _ => ?_
  refine .bind (mayLeave_safe (goHome_safe h)) fun _ _ => ?_
  exact .bind (awaitRoom_safe (goHome_safe h)) fun _ _ => .bind (releaseWait_safe (goHome_safe h)) fun _ _ => .ok (awaitIn_safe
    (goHome_safe h))

theorem awaitGran_safe {s : State} {o : ROp} {kind : WaitKind} (h : s.safe) : RunsIn State.safe (awaitGran o kind s) := by
  unfold awaitGran
  refine .bind (accessChecks_safe (goHome_safe h)) fun _ _ => ?_
  refine .bind (mayLeave_safe (goHome_safe h)) fun _ _ => ?_
  exact .bind (awaitRoom_safe (goHome_safe h)) fun _ _ => .bind (releaseWait_safe (goHome_safe h)) fun _ _ => .ok (awaitIn_safe
    (goHome_safe h))

theorem execAwaitFull_safe {s : State} {o : ROp} (h : s.safe) : KeepsSafe (execAwaitFull o s) :=
  finishGone_keepsSafe (awaitGran_safe h)
theorem execAwaitEmpty_safe {s : State} {o : ROp} (h : s.safe) : KeepsSafe (execAwaitEmpty o s) :=
  finishGone_keepsSafe (awaitGran_safe h)

theorem execCallatW_safe {s : State} {o : ROp} (h : s.safe) : KeepsSafe (execCallatW o s) := by
  unfold execCallatW
  refine finishGone_keepsSafe ?_
  refine .bind (sendCheck_safe (goHome_safe h)) fun _ _ => ?_
  refine .bind (callTarget_safe (goHome_safe h)) fun _ _ => ?_
  refine .bind (guardR_stops (goHome_safe h) _ _ _ _) fun _ _ => ?_
  refine .bind (sendTow_safe (goHome_safe h)) fun _ _ => ?_
  refine .bind (guardR_stops (goHome_safe h) _ _ _ _) fun _ _ => ?_
  refine .bind (check_stops (goHome_safe h) _) fun _ _ => ?_
  refine .bind (check_stops (goHome_safe h) _) fun _ _ => ?_
  refine .bind (mayLeave_safe (goHome_safe h)) fun _ _ => ?_
  refine .bind (awaitRoom_safe (goHome_safe h)) fun _ _ => ?_
  refine .bind (releaseWait_safe (goHome_safe h)) fun _ _ => ?_
  exact .bind (memberReach_safe (goHome_safe h)) fun _ _ => (sendTo_safe (goHome_safe h)).then_ fun _ k11 => .ok (awaitIn_safe
    (memberUp_safe k11))

theorem exitWait_safe {s : State} (h : s.safe) : StopsIn State.safe (exitWait s) := by
  unfold exitWait
  split
  · exact portSound_safe h
  · split
    · exact .error h
    · split
      · exact matIdle_safe h
      · exact .ok _

theorem leaveTows_safe {s : State} {sl : Slot} (h : s.safe) : (s.leaveTows sl).safe := foldl_safe (fun _ _ k1 => towAct_safe k1) h

theorem execExit_safe {s : State} {o : ROp} (h : s.safe) : KeepsSafe (execExit o s) :=
  finishGone_keepsSafe ((matReady_safe h).then_ fun _ k => .bind (exitWait_safe k) fun _ _ => .ok (leaveTows_safe
    (vacate_safe k)))

theorem execReply_safe {s : State} {o : ROp} (h : s.safe) : KeepsSafe (execReply o s) := by
  unfold execReply
  exact finish_keepsSafe (.bind (guardR_stops h _ _ _ _) fun _ _ => .bind (guardR_stops h _ _ _ _) fun _ _ => .ok (post_safe h))

theorem putReply_safe {s : State} {c : Fin 64} {off : Nat} {lo hi : Word} {scope : Nat} (h : s.safe) :
    (s.putReply c off lo hi scope).safe := ite_safe (with_safe (engineWrite_safe h)) (engineWrite_safe h)
theorem writeReply_safe {s : State} {r : Reply} (h : s.safe) : (s.writeReply r).safe :=
  ite_safe (putReply_safe h) (postRec_safe h)
theorem transferFails_safe {s : State} {w : World} {addr : Nat} (h : s.safe) : (s.transferFails w addr).safe := postRecOf_safe h

theorem execReplyGranuleWrite_safe {s : State} (h : s.safe) : KeepsSafe (execReplyGranuleWrite s) := by
  unfold execReplyGranuleWrite
  split
  · split
    · exact .next (ite_safe h (stall_safe h))
    · exact .next (writeReply_safe h)
  · exact .next (ite_safe (transferFails_safe h) (ite_safe (putReply_safe h) h))
  · exact .none (by simp)

theorem execTjoin_safe {s : State} {o : ROp} (h : s.safe) : KeepsSafe (execTjoin o s) := by
  unfold execTjoin
  refine finish_keepsSafe ?_
  refine .bind (towArg_safe h) fun _ _ => ?_
  refine .bind (guardR_stops h _ _ _ _) fun _ _ => ?_
  exact .bind (releaseWait_safe h) fun _ _ => .bind (towReach_safe h) fun _ _ => .ok (modCur_safe (dropWorld_safe
    (memberUp_safe h)))

theorem execTleave_safe {s : State} {o : ROp} (h : s.safe) : KeepsSafe (execTleave o s) := by
  unfold execTleave
  refine finish_keepsSafe ?_
  refine .bind (towArg_safe h) fun _ _ => ?_
  refine .bind (guardR_stops h _ _ _ _) fun _ _ => ?_
  exact .bind (releaseWait_safe h) fun _ _ => .bind (towReach_safe h) fun _ _ => .ok (dropWorld_safe (towDecr_safe
    (modCur_safe h)))

theorem execTqry_safe {s : State} {o : ROp} (h : s.safe) : KeepsSafe (execTqry o s) := by
  unfold execTqry
  dsimp only
  refine finish_keepsSafe ?_
  refine .bind (towArg_safe h) fun _ _ => ?_
  refine .bind (guardR_stops h _ _ _ _) fun _ _ => ?_
  split
  · exact .ok (wx_safe h)
  · split
    · exact .ok (wx_safe h)
    · exact .bind (towReach_safe h) fun _ _ => .ok (wx_safe h)

theorem execPrio_safe {s : State} {o : RIOp} (h : s.safe) : KeepsSafe (execPrio o s) := by
  unfold execPrio
  exact finish_keepsSafe (.ok (wx_safe h))

theorem homeReach_safe {s : State} {need : Need} (h : s.safe) : StopsIn State.safe (homeReach s need) :=
  .bind (guardR_stops h _ _ _ _) fun _ _ => towReach_safe h
theorem setClk_safe {s : State} {v : Nat} (h : s.safe) : (s.setClk v).safe := modCur_safe h

theorem execRclk_safe {s : State} {o : ROp} (h : s.safe) : KeepsSafe (execRclk o s) := by
  unfold execRclk
  exact finish_keepsSafe (.bind (homeReach_safe h) fun _ _ => .ok (setClk_safe (wx_safe h)))

theorem execRcadv_safe {s : State} {o : RIOp} (h : s.safe) : KeepsSafe (execRcadv o s) := by
  unfold execRcadv
  exact finish_keepsSafe (.bind (homeReach_safe h) fun _ _ => .ok (setClk_safe (towSet_safe h)))

/-! ### `Machine/System` -/

theorem execTrap_safe {s : State} {o : XOp} (h : s.safe) : KeepsSafe (execTrap o s) := .next (takeTrap_safe h _)
theorem execEbrk_safe {s : State} {o : XOp} (h : s.safe) : KeepsSafe (execEbrk o s) := .next (takeTrap_safe h _)

theorem readTsw_safe {s : State} {i : SlotId} (h : s.safe) : StopsIn State.safe (readTsw s i) := by
  unfold readTsw
  split
  · exact .ok _
  · split
    · exact .ok _
    · rename_i a1 t e
      exact .error (onSlot_safe (towReach_safe (onSlot_safe h) (a1, t) e))

theorem readSys_safe {s : State} {n : Nat} (h : s.safe) : StopsIn State.safe (readSys s n) := by
  unfold readSys
  split
  · exact readTsw_safe h
  · exact .ok _

theorem execGsr_safe {s : State} {o : IOp} (h : s.safe) : KeepsSafe (execGsr o s) :=
  finish_keepsSafe (.bind (readSys_safe h) fun _ _ => .ok (wx_safe h))
theorem setFp4_safe {s : State} {i : SlotId} {b : Bool} {v : Word} (h : s.safe) : (s.setFp4 i b v).safe := ite_safe h h

theorem setSlotReg_safe {s : State} {i : SlotId} {n : Nat} {v : Word} (h : s.safe) : (s.setSlotReg i n v).safe := by
  unfold State.setSlotReg
  split
  · exact modSlot_safe h
  · exact modSlot_safe h
  · exact setFp4_safe h
  · exact setFp4_safe h
  · exact modSlot_safe h
  · exact modSlot_safe h
  · exact h

theorem expWrite_safe {s : State} {v : Word} (h : s.safe) : (s.expWrite v).safe := by
  unfold State.expWrite
  refine when_safe ?_ (fun _ => h)
  split
  · exact post_safe (with_safe (modWorld_safe h))
  · exact engineSignal_safe h

theorem setShared_safe {s : State} {n : Nat} {v : Word} (h : s.safe) : (s.setShared n v).safe := by
  unfold State.setShared
  split
  · exact h
  · exact h
  · exact h
  · exact h
  · exact h
  · exact h
  · exact h
  · exact h
  · exact expWrite_safe h
  · exact h

theorem fp4Idle_safe {s : State} {i : SlotId} {n : Nat} (h : s.safe) : StopsIn State.safe (fp4Idle s i n) := by
  unfold fp4Idle
  split
  · exact .error h
  · exact .ok _

theorem execSsr_safe {s : State} {o : IOp} (h : s.safe) : KeepsSafe (execSsr o s) := by
  unfold execSsr
  refine finish_keepsSafe ?_
  refine .bind (guardR_stops h _ _ _ _) fun _ _ => ?_
  refine .bind (fp4Idle_safe h) fun _ _ => ?_
  split
  · exact .ok (setSlotReg_safe h)
  · split
    · exact .bind (releaseWait_safe h) fun _ _ => .ok (setShared_safe h)
    · exact .ok (setShared_safe h)

theorem execFrec0Rearm_safe {s : State} {o : IOp} (h : s.safe) : KeepsSafe (execFrec0Rearm o s) := finish_keepsSafe (.ok h)
theorem execTrqstClear_safe {s : State} {o : IOp} (h : s.safe) : KeepsSafe (execTrqstClear o s) :=
  finish_keepsSafe (.ok (ite_safe h h))

theorem filterFull_safe {s : State} {p : Nat → Bool} (h : s.safe) : ({ s with full := s.full.filter p } : State).safe :=
  ⟨⟨(cells_of_safe h :), (tags_of_safe h :), (full_of_safe h).filter _⟩, (fits_of_safe h :)⟩
theorem enterMode_safe {s : State} {v : Word} {b : Nat} (h : s.safe) : (s.enterMode v b).safe := by
  unfold State.enterMode
  dsimp only
  split
  · exact h
  · exact testAwait_safe (filterFull_safe (zeroRange_safe h))

theorem writeBmode_safe {s : State} {v : Word} (h : s.safe) : (s.writeBmode v).safe := by
  unfold State.writeBmode
  refine when_safe ?_ (fun _ => h)
  split
  · exact h
  · exact post_safe (dropBanks_safe (with_safe (foldl_safe (fun _ _ k3 => enterMode_safe k3) h)))

theorem execBmodeWrite_safe {s : State} {o : IOp} (h : s.safe) : KeepsSafe (execBmodeWrite o s) :=
  finish_keepsSafe (.bind (releaseWait_safe h) fun _ _ => .ok (writeBmode_safe h))

theorem execBankModeSwitchComplete_safe {s : State} (h : s.safe) : KeepsSafe (execBankModeSwitchComplete s) := by
  unfold execBankModeSwitchComplete
  split
  · exact .next (unstall_safe h)
  · exact .none (by simp)

theorem drainHold_safe {s : State} {hs : List (Option SlotId × TrapRec)} (h : s.safe) : (s.drainHold hs).safe := by
  induction hs generalizing s with
  | nil => exact h
  | cons a hs ih =>
    unfold State.drainHold
    split
    · refine ih (safe_of_queue (wakeSup_safe h) ?_ rfl rfl rfl)
      simp only [List.length_append, List.length_singleton]
      omega
    · exact h

theorem execTrapRecordEnqueue_safe {s : State} (h : s.safe) : KeepsSafe (execTrapRecordEnqueue s) := by
  unfold execTrapRecordEnqueue
  split
  · exact .next (drainHold_safe h)
  · exact .none (by simp)

/-- Slot 15 takes the oldest record from the queue. -/
theorem dequeued_safe {s : State} (h : s.safe) : ({ s with trapQ := s.trapQ.tail } : State).safe :=
  safe_of_queue h (by rw [List.length_tail]; exact (Nat.sub_le _ _).trans (fits_of_safe h)) rfl rfl rfl
theorem execTrq_safe {s : State} {o : ROp} (h : s.safe) : KeepsSafe (execTrq o s) :=
  finish_keepsSafe (.ok (post_safe (dequeued_safe (wx_safe (wx_safe (wx_safe (wx_safe h)))))))

theorem execWfs_safe {s : State} {o : ROp} (h : s.safe) : KeepsSafe (execWfs o s) := by
  unfold execWfs
  split
  · exact .next (modCur_safe h)
  · exact finish_keepsSafe (.ok (modCur_safe (wx_safe h)))

theorem execWfsTimeout_safe {s : State} (h : s.safe) : KeepsSafe (execWfsTimeout s) := by
  unfold execWfsTimeout
  split
  · split
    · exact .next (modSlot_safe h)
    · exact .next h
  · exact .none (by simp)

theorem targetSlot_safe {s : State} {r : BitVec 6} (h : s.safe) : StopsIn State.safe (targetSlot s r) :=
  .bind (guardR_stops h _ _ _ _) fun _ _ => .ok _
theorem resume_safe {s : State} {i : SlotId} {f : Slot → Slot} (h : s.safe) : (s.resume i f).safe :=
  ite_safe (post_safe (modSlot_safe (withdraw_safe h))) (modSlot_safe (withdraw_safe h))

theorem sretBody_safe {s : State} {o : ROp} {f : Slot → Slot} (h : s.safe) : RunsIn State.safe (sretBody o f s) := by
  unfold sretBody
  exact .bind (targetSlot_safe h) fun _ _ => .bind (guardR_stops h _ _ _ _) fun _ _ => .bind (releaseWait_safe h) fun _ _ => .ok
    (resume_safe h)

theorem execSretRetry_safe {s : State} {o : ROp} (h : s.safe) : KeepsSafe (execSretRetry o s) :=
  finish_keepsSafe (sretBody_safe h)
theorem execSretSkip_safe {s : State} {o : ROp} (h : s.safe) : KeepsSafe (execSretSkip o s) := finish_keepsSafe (sretBody_safe h)
theorem execSretPc_safe {s : State} {o : ROp} (h : s.safe) : KeepsSafe (execSretPc o s) := finish_keepsSafe (sretBody_safe h)
theorem execSretWake_safe {s : State} {o : ROp} (h : s.safe) : KeepsSafe (execSretWake o s) :=
  finish_keepsSafe (.bind (targetSlot_safe h) fun _ _ => .bind (releaseWait_safe h) fun _ _ => .ok (unpark_safe h))

theorem pkArgs_safe {s : State} {o : ROp} {write : Bool} (h : s.safe) : StopsIn State.safe (pkArgs s o write) := by
  unfold pkArgs
  refine .bind (targetSlot_safe h) fun _ _ => ?_
  refine .bind (guardR_stops h _ _ _ _) fun _ _ => ?_
  split
  · exact .error h
  · exact .ok _

theorem execRdpk_safe {s : State} {o : ROp} (h : s.safe) : KeepsSafe (execRdpk o s) := by
  unfold execRdpk
  refine finish_keepsSafe ?_
  refine .bind (pkArgs_safe h) fun _ _ => ?_
  refine .bind (check_stops h _) fun _ _ => ?_
  split
  · exact .ok (wc_safe h)
  · split
    · exact .ok (wx_safe (takeFree_safe h))
    · split
      · exact .bind (readTsw_safe h) fun _ _ => .ok (wx_safe h)
      · exact .ok (wx_safe h)

theorem writePk_safe {s : State} {i : SlotId} {x : Sel} {v : Word} (h : s.safe) : (s.writePk i x v).safe := by
  unfold State.writePk
  split
  · exact modSlot_safe h
  · exact modSlot_safe h
  · exact modSlot_safe h
  · exact modSlot_safe h
  · exact setSlotReg_safe h
  · exact h

theorem writePkCap_safe {s : State} {i : SlotId} {x : Sel} {c : Cap} (h : s.safe) : (s.writePkCap i x c).safe :=
  ite_safe (modSlot_safe h) (ite_safe h (modSlot_safe h))

theorem execWrpk_safe {s : State} {o : ROp} (h : s.safe) : KeepsSafe (execWrpk o s) := by
  unfold execWrpk
  refine finish_keepsSafe ?_
  refine .bind (pkArgs_safe h) fun _ _ => ?_
  split
  split
  · exact .ok (writePkCap_safe h)
  · exact .bind (guardR_stops h _ _ _ _) fun _ _ => .bind (fp4Idle_safe h) fun _ _ => .ok (ite_safe h (writePk_safe h))

theorem parkSlot_safe {s : State} {i : SlotId} (h : s.safe) : (s.parkSlot i).safe :=
  modSlot_safe (leaveQueue_safe (leaveQueue_safe (giveBack_safe (giveBack_safe (goHome_safe (filterAway_safe h))))))

theorem execSuspk_safe {s : State} {o : ROp} (h : s.safe) : KeepsSafe (execSuspk o s) := by
  unfold execSuspk
  dsimp only
  refine finish_keepsSafe ?_
  refine .bind (targetSlot_safe h) fun _ _ => ?_
  split
  · exact .error (modSlot_safe h)
  · refine .ok ?_
    refine wx_safe ?_
    refine modSlot_safe ?_
    split
    · exact h
    · exact h
    · exact h
    · exact h
    · exact parkSlot_safe h

theorem execSuspkQ_safe {s : State} {o : ROp} (h : s.safe) : KeepsSafe (execSuspkQ o s) := by
  unfold execSuspkQ
  dsimp only
  refine finish_keepsSafe ?_
  refine .bind (targetSlot_safe h) fun _ _ => ?_
  split
  · exact .ok (wx_safe h)
  · split
    · exact .error (askImage_safe h)
    · exact .ok (wx_safe (preemptSlot_safe h))

theorem execHint_safe {s : State} {o : XOp} (h : s.safe) : KeepsSafe (execHint o s) := finish_keepsSafe (.ok (ite_safe h h))

theorem execHintYieldEnd_safe {s : State} (h : s.safe) : KeepsSafe (execHintYieldEnd s) := by
  unfold execHintYieldEnd
  split
  · exact .next h
  · exact .none (by simp)

theorem execDebuggerHalt_safe {s : State} (h : s.safe) : KeepsSafe (execDebuggerHalt s) := by
  unfold execDebuggerHalt
  split
  · exact .next (modSlot_safe h)
  · exact .none (by simp)

theorem execDebuggerResume_safe {s : State} (h : s.safe) : KeepsSafe (execDebuggerResume s) := by
  unfold execDebuggerResume
  split
  · exact .next (ite_safe (post_safe (modSlot_safe h)) (modSlot_safe h))
  · exact .none (by simp)

theorem execSupervisorStart_safe {s : State} (h : s.safe) : KeepsSafe (execSupervisorStart s) := by
  unfold execSupervisorStart
  split
  · split <;> exact .next h
  · exact .none (by simp)

/-! ### `Machine/Transform` -/

theorem xChecks_safe {s : State} {q : Xreq} (h : s.safe) : StopsIn State.safe (xChecks s q) := by
  unfold xChecks
  refine .bind (check_stops h _) fun _ _ => ?_
  refine .bind (check_stops h _) fun _ _ => ?_
  refine .bind (guardR_stops h _ _ _ _) fun _ _ => ?_
  refine .bind (guardR_stops h _ _ _ _) fun _ _ => ?_
  exact .bind (check_stops h _) fun _ _ => .bind (check_stops h _) fun _ _ => .bind (check_stops h _)
    fun _ _ => guardR_stops h _ _ _ _

theorem modCl_safe {s : State} {f : Cluster → Cluster} (h : s.safe) : (s.modCl f).safe := h

theorem xPresent_safe {s : State} {o : ROp} {op : BitVec 2} (h : s.safe) : RunsIn State.safe (xPresent s o op) := by
  unfold xPresent
  refine .bind (xChecks_safe h) fun _ _ => ?_
  split
  · exact .ok (post_safe (wp_safe (modCl_safe h)))
  · split
    · exact .error h
    · exact .ok (wp_safe (modCl_safe (restoreWait_safe h)))

theorem execXexp_safe {s : State} {o : ROp} (h : s.safe) : KeepsSafe (execXexp o s) := finishHanded_keepsSafe (xPresent_safe h)
theorem execXcmp_safe {s : State} {o : ROp} (h : s.safe) : KeepsSafe (execXcmp o s) := finishHanded_keepsSafe (xPresent_safe h)
theorem execXquant_safe {s : State} {o : ROp} (h : s.safe) : KeepsSafe (execXquant o s) :=
  finishHanded_keepsSafe (xPresent_safe h)
theorem execXconv_safe {s : State} {o : ROp} (h : s.safe) : KeepsSafe (execXconv o s) := finishHanded_keepsSafe (xPresent_safe h)
theorem execXpoll_safe {s : State} {o : ROp} (h : s.safe) : KeepsSafe (execXpoll o s) := finish_keepsSafe (.ok (wx_safe h))

theorem execTransformReservedEntry_safe {s : State} (h : s.safe) : KeepsSafe (execTransformReservedEntry s) := by
  unfold execTransformReservedEntry
  split
  · exact .next (ite_safe (rouseAll_safe h) h)
  · exact .none (by simp)

theorem xFreed_safe {s : State} (h : s.safe) : s.xFreed.safe :=
  ite_safe (post_safe (unstall_safe (modCl_safe h))) (unstall_safe (modCl_safe h))

theorem xRun_safe {s : State} {q : Xreq} (h : s.safe) : (s.xRun q).safe := by
  unfold State.xRun
  split
  · exact xFreed_safe (postRecOf_safe h)
  · exact xFreed_safe (engineSignal_safe (ite_safe (orFlags_safe (engineWrite_safe (engineWrite_safe h))) (engineWrite_safe
      (engineWrite_safe h))))

theorem execTransformRequestExecute_safe {s : State} (h : s.safe) : KeepsSafe (execTransformRequestExecute s) := by
  unfold execTransformRequestExecute
  split
  · split
    · exact .next h
    · exact .next (xRun_safe h)
  · exact .none (by simp)

/-! ### `Machine/Engines` -/

theorem shadowOk_safe {s : State} {w : World} {c : Cap} {a n : Nat} :
    EitherIn (fun (_ : Unit) => True) Held.safe (s.shadowOk w c a n) := by
  unfold State.shadowOk
  refine .bind check_safe fun _ _ => ?_
  split
  · exact .error trivial
  · exact .ok trivial

theorem chunkBank_safe {s : State} {c : Cap} {a n : Nat} :
    EitherIn (fun (_ : Unit) => True) Held.safe (s.chunkBank c a n) := check_safe

theorem copyBitmaps_safe {s : State} {c : CopyCmd} {ps : List Piece} :
    EitherIn (fun (_ : Unit) => True) Held.safe (s.copyBitmaps c ps) := by
  induction ps with
  | nil => exact .ok trivial
  | cons p ps ih =>
    unfold State.copyBitmaps
    split
    · split
      · exact EitherIn.bind shadowOk_safe fun _ _ => ih
      · exact ih
    · exact ih

theorem chunkRead_safe {s : State} {i : SlotId} {c : CopyCmd} {n : Nat} (h : s.safe) :
    EitherIn (fun (a : List Byte × List Bool × State) => a.2.2.safe) Held.safe (s.chunkRead i c n) := by
  unfold State.chunkRead
  dsimp only
  split
  · refine .bind chunkBank_safe fun _ _ => ?_
    refine .bind check_safe fun _ _ => ?_
    exact .ok (fifoTaken_safe h)
  · split
    · refine .bind chunkBank_safe fun _ _ => ?_
      refine .bind (got_safe (readPieces_safe h)) fun _ k1 => ?_
      exact .ok k1
    · split
      · exact .error trivial
      · refine .bind copyBitmaps_safe fun _ _ => ?_
        refine .bind (got_safe (readPieces_safe (arrived_safe h))) fun _ k1 => ?_
        exact .ok (peerUsed_safe k1)

theorem copyPieces_safe {s : State} {i : SlotId} {c : CopyCmd} {a : List Piece} {a1 : List Byte} {a2 : List Bool} (h : s.safe) :
    EitherIn State.safe Held.safe (s.copyPieces i c a a1 a2) := by
  induction a generalizing s a1 a2 with
  | nil => exact .ok h
  | cons _ _ ih =>
    unfold State.copyPieces
    split
    · refine .bind (.ok h) fun _ k => ?_
      exact ih k
    · refine .bind (enginePiece_safe h) fun _ k => ?_
      exact ih k

theorem copyPut_safe {s : State} {i : SlotId} {c : CopyCmd} {a : Nat} {bs : List Byte} {tags : List Bool} (h : s.safe) :
    EitherIn State.safe Held.safe (s.copyPut i c a bs tags) := by
  unfold State.copyPut
  split
  · exact .error trivial
  · exact copyPieces_safe (arrived_safe h)

theorem chunkWrite_safe {s : State} {i : SlotId} {c : CopyCmd} {n : Nat} {bs : List Byte} {tags : List Bool} (h : s.safe) :
    EitherIn State.safe Held.safe (s.chunkWrite i c n bs tags) := by
  unfold State.chunkWrite
  split
  · refine .bind chunkBank_safe fun _ _ => ?_
    exact .ok (fifoPut_safe h)
  · split
    · refine .bind chunkBank_safe fun _ _ => ?_
      exact .ok (foldl_safe (fun _ _ k1 => ite_safe k1 (setFull_safe k1)) (putTags_safe (writeBytes_safe h)))
    · refine .bind (copyPut_safe h) fun _ k => ?_
      exact copyPut_safe k

theorem setLineBg_safe {s : State} {l bg : Nat} (h : s.safe) : (s.setLineBg l bg).safe := modCl_safe h

theorem lineScales_safe {s : State} {i : SlotId} {c : CopyCmd} {l va : Nat} (h : s.safe) :
    EitherIn State.safe Held.safe (s.lineScales i c l va) := by
  unfold State.lineScales
  dsimp only
  split
  · exact .ok (setLineBg_safe h)
  · refine .bind shadowOk_safe fun _ _ => ?_
    refine .bind (got_safe (shadowRead_safe h)) fun _ k1 => ?_
    split
    · exact .error trivial
    · exact .ok (setLineBg_safe (engineWrite_safe k1))

theorem chunkScales_safe {s : State} {i : SlotId} {c : CopyCmd} {n : Nat} (h : s.safe) :
    EitherIn State.safe Held.safe (s.chunkScales i c n) := by
  unfold State.chunkScales
  split
  · exact .ok h
  · exact foldlM_either (fun _ _ k => lineScales_safe k) h

theorem setCopy_safe {s : State} {i : SlotId} {c : Option CopyCmd} (h : s.safe) : (s.setCopy i c).safe :=
  ite_safe (unstall_safe (poolFreed_safe (modSlot_safe (leaveQueue_safe h)))) (modSlot_safe (leaveQueue_safe h))
theorem copyFail_safe {s : State} {i : SlotId} {c : CopyCmd} {f : Fail} (h : s.safe) : (s.copyFail i c f).safe :=
  setCopy_safe (postRecOf_safe h)

theorem copyFence_safe {s : State} {i : SlotId} {c : CopyCmd} {b : Option Nat} (h : s.safe) : (s.copyFence i c b).1.safe := by
  unfold State.copyFence
  split
  · exact ite_safe h (postRecOf_safe h)
  · exact h

theorem copyEnd_safe {s : State} {i : SlotId} {c : CopyCmd} (h : s.safe) : SomeIn State.safe (s.copyEnd i c) := by
  unfold State.copyEnd
  split
  · exact .none
  · exact .some (engineSignal_safe (setCopy_safe (ite_safe (orFlags_safe h) h)))

theorem copyTurn_safe {s : State} {i : SlotId} {c : CopyCmd} {n : Nat} (h : s.safe) :
    EitherIn State.safe Held.safe (s.copyTurn i c n) := by
  unfold State.copyTurn
  split
  · exact .ok (setCopy_safe (copyFence_safe h))
  · refine .bind (chunkRead_safe h) fun _ k => ?_
    refine .bind (chunkScales_safe k) fun _ k1 => ?_
    refine .bind (chunkWrite_safe k1) fun _ k2 => ?_
    exact .ok (setCopy_safe (copyFence_safe k2))

theorem copyWaits_safe {s : State} {i : SlotId} {c : CopyCmd} (h : s.safe) : (s.copyWaits i c).safe :=
  ite_safe (joinQueue_safe h) (joinQueue_safe h)

theorem copyRecheck_safe {s : State} {i : SlotId} {c : CopyCmd} (h : s.safe) : (s.copyRecheck i c).safe := by
  unfold State.copyRecheck
  split
  · exact ite_safe (modSlot_safe h) (copyFail_safe h)
  · exact setCopy_safe h

theorem copyStep_safe {s : State} {i : SlotId} (h : s.safe) : (s.copyStep i).1.safe := by
  unfold State.copyStep
  dsimp only
  split
  · exact onSlot_safe h
  · split
    · exact onSlot_safe h
    · split
      · exact copyRecheck_safe (onSlot_safe h)
      · split
        · exact copyFail_safe (onSlot_safe h)
        · split
          · split
            · rename_i e2
              exact copyEnd_safe (onSlot_safe h) _ e2
            · exact onSlot_safe h
          · split
            · exact copyWaits_safe (onSlot_safe h)
            · split
              · rename_i e2
                exact (copyTurn_safe (onSlot_safe h)).1 _ e2
              · exact copyFail_safe (onSlot_safe h)
              · exact asking_safe (onSlot_safe h)

theorem copyRound_safe {s : State} {a : List SlotId} (h : s.safe) : (s.copyRound a).safe := by
  induction a generalizing s with
  | nil => exact stall_safe h
  | cons _ _ ih =>
    unfold State.copyRound
    dsimp only
    split
    · exact post_safe (modCl_safe (copyStep_safe h))
    · exact ih (copyStep_safe h)

theorem execCopyChunk_safe {s : State} (h : s.safe) : KeepsSafe (execCopyChunk s) := by
  unfold execCopyChunk
  split
  · split
    · exact .next h
    · exact .next (copyRound_safe h)
  · exact .none (by simp)

theorem expEnd_safe {s : State} {code : Nat} (h : s.safe) : (s.expEnd code).safe := post_safe (modCl_safe h)

theorem doExport_safe {s : State} {e : ExpOp} (h : s.safe) : (s.doExport e).safe := by
  unfold State.doExport
  split
  · exact expEnd_safe h
  · exact expEnd_safe (foldl_safe (fun _ _ k2 => writeBytes_safe (writeBytes_safe k2)) (writeBytes_safe h))

theorem importLine_safe {s : State} {e : ExpOp} {gen ctr ix : Nat} (h : s.safe) : (s.importLine e gen ctr ix).safe :=
  putTags_safe (engineWrite_safe h)
theorem zeroRegion_safe {s : State} {e : ExpOp} (h : s.safe) : (s.zeroRegion e).safe :=
  foldl_safe (fun _ _ k1 => setFull_safe k1) (putTags_safe (writeBytes_safe h))
theorem importCheck_safe {s : State} {e : ExpOp} {migration : Bool} (h : s.safe) : (s.importCheck e migration).safe :=
  ite_safe (expEnd_safe h) (ite_safe (expEnd_safe h) (ite_safe (expEnd_safe h) (post_safe (modCl_safe h))))

theorem importWrite_safe {s : State} {e : ExpOp} {migration : Bool} {ctr : Nat} (h : s.safe) :
    (s.importWrite e migration ctr).safe := by
  unfold State.importWrite
  refine when_safe ?_ (fun _ => expEnd_safe (zeroRegion_safe h))
  refine expEnd_safe ?_
  split
  · exact with_safe (modWorld_safe (foldl_safe (fun _ _ k2 => importLine_safe k2) h))
  · exact foldl_safe (fun _ _ k1 => importLine_safe k1) h

theorem doImport_safe {s : State} {e : ExpOp} {migration : Bool} (h : s.safe) : (s.doImport e migration).safe := by
  unfold State.doImport
  refine when_safe ?_ (fun _ => expEnd_safe h)
  split
  · exact importCheck_safe h
  · exact importWrite_safe h

theorem expAct_safe {s : State} {f : ExpOp → State} (h : s.safe) (hf : ∀ e, (f e).safe) : (s.expAct f).safe := by
  unfold State.expAct
  split
  · next e _ => exact ite_safe (hf e) h
  · exact h

theorem execExportImage_safe {s : State} (h : s.safe) : KeepsSafe (execExportImage s) := by
  unfold execExportImage
  split
  · exact .next (expAct_safe h (fun _ => doExport_safe h))
  · exact .none (by simp)

theorem execImportImage_safe {s : State} (h : s.safe) : KeepsSafe (execImportImage s) := by
  unfold execImportImage
  split
  · exact .next (expAct_safe h (fun _ => doImport_safe h))
  · exact .none (by simp)

theorem execMigrationImport_safe {s : State} (h : s.safe) : KeepsSafe (execMigrationImport s) := by
  unfold execMigrationImport
  split
  · exact .next (expAct_safe h (fun _ => doImport_safe h))
  · exact .none (by simp)

theorem execExportImportComplete_safe {s : State} (h : s.safe) : KeepsSafe (execExportImportComplete s) := by
  unfold execExportImportComplete
  split
  · split
    · split
      · exact .next h
      · exact .next (engineSignal_safe (modCl_safe (modWorld_safe h)))
    · exact .next h
  · exact .none (by simp)

theorem execInvalidationApplied_safe {s : State} (h : s.safe) : KeepsSafe (execInvalidationApplied s) := by
  unfold execInvalidationApplied
  split
  · split
    · exact .next (post_safe (with_safe (dropCopy_safe h)))
    · exact .next h
  · exact .none (by simp)

theorem execDupInvalidationAck_safe {s : State} (h : s.safe) : KeepsSafe (execDupInvalidationAck s) := by
  unfold execDupInvalidationAck
  split
  · exact .next (replay_safe (retryHeld_safe h))
  · exact .none (by simp)

theorem otherStore_safe {s : State} {c : Fin 64} {g : Nat} {data : List Byte} (h : s.safe) : (s.otherStore c g data).safe :=
  ite_safe h (ite_safe (cacheRefresh_safe (writeBytes_safe (dupWrite_safe h))) (writeBytes_safe (dupWrite_safe h)))

theorem otherFull_safe {s : State} {g : Nat} {full : Option Bool} (h : s.safe) : (s.otherFull g full).safe := by
  unfold State.otherFull
  split
  · exact ite_safe (setFull_safe h) h
  · exact h

theorem execStorePerformed_safe {s : State} (h : s.safe) : KeepsSafe (execStorePerformed s) := by
  unfold execStorePerformed
  split
  · split
    · exact .next h
    · split
      · exact .next (transferFails_safe h)
      · split
        · exact .next (stall_safe h)
        · exact .next (unstall_safe (otherFull_safe (otherStore_safe h)))
  · exact .none (by simp)

end Sys2Proof.Machine
end

section
/-!
The functions of `Machine/Matrix`, `Machine/Passes`, `Machine/Sched`, `Machine/Host` keep a safe state safe: one lemma for
each,
whose cases are those of its definition.
-/

namespace Sys2Proof.Machine

/-! ### `Machine/Matrix` -/

theorem matRelease_safe {s : State} (h : s.safe) : s.matRelease.safe := poolFreed_safe (modMat_safe h)

theorem matConfigure_safe {s : State} {kind : BitVec 2} {ty : BitVec 4} {r4 : BitVec 2} {cfg : Word} (h : s.safe) :
    (s.matConfigure kind ty r4 cfg).safe :=
  ite_safe (with_safe (modMat_safe (ite_safe h (modMat_safe h)))) (modMat_safe (ite_safe h (modMat_safe h)))

theorem execMcfg_safe {s : State} {o : ROp} (h : s.safe) : KeepsSafe (execMcfg o s) := by
  unfold execMcfg
  dsimp only
  refine finish_keepsSafe ?_
  split
  · split
    · exact (matReady_safe h).then_ fun _ k => .bind (matIdle_safe k) fun _ _ => .ok (matRelease_safe k)
    · exact .ok h
  · refine (matReady_safe h).then_ fun _ k => ?_
    refine .bind (guardR_stops k _ _ _ _) fun _ _ => ?_
    split
    · refine .bind (matIdle_safe k) fun _ _ => ?_
      split
      · exact .error k
      · exact .ok (matConfigure_safe k)
    · split
      · exact .error k
      · exact .ok (matConfigure_safe k)

theorem msclB_safe {s : State} {o : ROp} (h : s.safe) : RunsIn State.safe (msclB o s) := by
  unfold msclB
  exact (matReady_safe h).then_ fun _ k => .bind (heldCheck_safe k) fun _ _ => .bind (matFree_safe k) fun _ _ => .ok
    (modMat_safe k)

theorem execMscl_safe {s : State} {o : ROp} (h : s.safe) : KeepsSafe (execMscl o s) := finish_keepsSafe (msclB_safe h)
theorem mzeroB_safe {s : State} {o : ROp} (h : s.safe) : RunsIn State.safe (mzeroB o s) :=
  (matReady_safe h).then_ fun _ k => .bind (heldCheck_safe k) fun _ _ => .bind (accFree_safe k) fun _ _ => .ok (modMat_safe k)
theorem execMzero_safe {s : State} {o : ROp} (h : s.safe) : KeepsSafe (execMzero o s) := finish_keepsSafe (mzeroB_safe h)

theorem mldB_safe {s : State} {b : Bool} {o : MOp} (h : s.safe) : RunsIn State.safe (mldB b o s) := by
  unfold mldB
  refine (matReady_safe h).then_ fun _ k => ?_
  refine .bind (heldCheck_safe k) fun _ _ => ?_
  refine .bind (guardR_stops k _ _ _ _) fun _ _ => ?_
  split
  · exact .bind (noPort_safe k) fun _ _ => .bind (latchPart_safe k) fun _ _ => .bind (matFree_safe k) fun _ _ => .ok (post_safe
      (setPart_safe k))
  · exact .bind (latchPart_safe k) fun _ _ => .bind (matFree_safe k) fun _ _ => .ok (post_safe (setPart_safe k))

theorem mldaB_safe {s : State} {o : MOp} (h : s.safe) : RunsIn State.safe (mldaB o s) := mldB_safe h
theorem mldbB_safe {s : State} {o : MOp} (h : s.safe) : RunsIn State.safe (mldbB o s) := mldB_safe h
theorem execMlda_safe {s : State} {o : MOp} (h : s.safe) : KeepsSafe (execMlda o s) := finish_keepsSafe (mldaB_safe h)
theorem execMldb_safe {s : State} {o : MOp} (h : s.safe) : KeepsSafe (execMldb o s) := finish_keepsSafe (mldbB_safe h)

theorem execLatchDataArrival_safe {s : State} (h : s.safe) : KeepsSafe (execLatchDataArrival s) := by
  unfold execLatchDataArrival
  dsimp only
  split
  · split
    · exact .next h
    · split
      · split
        · rename_i a5 t e3
          exact .next (unstall_safe (setPart_safe ((readPart_safe (onSlot_safe h)).1 (a5, t) e3)))
        · rename_i a5 t e3
          exact .next (unstall_safe (setPart_safe ((readPart_safe (onSlot_safe h)).2 ((.trap a5), t) e3)))
        · rename_i a5 t _ e3
          exact .next (stall_safe ((readPart_safe (onSlot_safe h)).2 (a5, t) e3))
      · exact .next h
  · exact .none (by simp)

theorem execLatchReload_safe {s : State} (h : s.safe) : KeepsSafe (execLatchReload s) := by
  unfold execLatchReload
  split
  · split
    · exact .next h
    · split
      · split
        · rename_i e3
          exact .next ((reloadAll_safe (onSlot_safe h)).1 _ e3)
        · exact .next h
        · rename_i a4 t _ e3
          exact .next (stall_safe ((reloadAll_safe (onSlot_safe h)).2 (a4, t) e3))
      · exact .next h
  · exact .none (by simp)

theorem partsHere_safe {s : State} {a : List (Fin 6)} (h : s.safe) : StopsIn State.safe (partsHere s a) := by
  induction a generalizing s with
  | nil => exact .ok _
  | cons _ _ ih =>
    unfold partsHere
    dsimp only
    split
    · exact .error (setPart_safe h)
    · split
      · exact ih h
      · split
        · exact .error h
        · exact .bind (latchPart_safe h) fun _ _ => .error (post_safe (setPart_safe h))

theorem productB_safe {s : State} {o : ROp} {sub apart : BitVec 2} (h : s.safe) : RunsIn State.safe (productB o sub apart s) := by
  unfold productB
  refine (matReady_safe h).then_ fun _ k => ?_
  refine .bind (heldCheck_safe k) fun _ _ => ?_
  refine .bind (guardR_stops k _ _ _ _) fun _ _ => ?_
  refine .bind (guardR_stops k _ _ _ _) fun _ _ => ?_
  refine .bind (guardR_stops k _ _ _ _) fun _ _ => ?_
  split
  · refine .bind (guardR_stops k _ _ _ _) fun _ _ => ?_
    exact .bind (partsHere_safe k) fun _ _ => .bind (matFree_safe k) fun _ _ => .bind (accFree_safe k) fun _ _ => .ok (post_safe
      (modMat_safe k))
  · refine .bind (partsHere_safe k) fun _ _ => ?_
    refine .bind (guardR_stops k _ _ _ _) fun _ _ => ?_
    exact .bind (guardR_stops k _ _ _ _) fun _ _ => .bind (matFree_safe k) fun _ _ => .bind (accFree_safe k) fun _ _ => .ok
      (post_safe (modMat_safe k))

theorem mmaB_safe {s : State} {o : ROp} (h : s.safe) : RunsIn State.safe (mmaB o s) := productB_safe h
theorem mmasB_safe {s : State} {o : ROp} (h : s.safe) : RunsIn State.safe (mmasB o s) := productB_safe h
theorem execMma_safe {s : State} {o : ROp} (h : s.safe) : KeepsSafe (execMma o s) := finish_keepsSafe (mmaB_safe h)
theorem execMmas_safe {s : State} {o : ROp} (h : s.safe) : KeepsSafe (execMmas o s) := finish_keepsSafe (mmasB_safe h)

theorem execAccumulatorComplete_safe {s : State} (h : s.safe) : KeepsSafe (execAccumulatorComplete s) := by
  unfold execAccumulatorComplete
  dsimp only
  split
  · split
    · exact .next h
    · split
      · exact .next (post_safe (modMat_safe h))
      · exact .next (unstall_safe (modMat_safe (orFlags_safe (modMat_safe h))))
  · exact .none (by simp)

theorem drainChecks_safe {s : State} {c : Cap} {ea n : Nat} (h : s.safe) : StopsIn State.safe (drainChecks s c ea n) := by
  unfold drainChecks
  refine .bind (check_stops h _) fun _ _ => ?_
  split
  · exact .bind (check_stops h _) fun _ _ => .bind (guardR_stops h _ _ _ _) fun _ _ => check_stops h _
  · refine .bind (guardR_stops h _ _ _ _) fun _ _ => ?_
    refine .bind (placed_safe h) fun _ _ => ?_
    split
    · exact .error h
    · exact .ok _

theorem execMdrain_safe {s : State} {o : MOp} (h : s.safe) : KeepsSafe (execMdrain o s) := by
  unfold execMdrain
  refine finishHanded_keepsSafe ?_
  refine (matReady_safe h).then_ fun _ k => ?_
  exact .bind (heldCheck_safe k) fun _ _ => .bind (drainChecks_safe k) fun _ _ => .bind (accFree_safe k) fun _ _ => .ok
    (post_safe (modMat_safe k))

theorem spawnRows_safe {s : State} {d : Drain} {a : Nat} (h : s.safe) : (s.spawnRows d a).1.safe := by
  induction a generalizing s d with
  | zero => exact h
  | succ _ ih =>
    unfold State.spawnRows
    split
    · exact h
    · split
      · exact h
      · exact ih (ite_safe h (requeue_safe (towAct_safe h)))

theorem setDrain_safe {s : State} {d : Option Drain} (h : s.safe) : (s.setDrain d).safe := modMat_safe h
theorem drainOn_safe {s : State} (h : s.safe) : s.drainOn.safe := ite_safe h (post_safe h)
theorem drainFail_safe {s : State} {d : Drain} {f : Fail} (h : s.safe) : (s.drainFail d f).safe :=
  drainOn_safe (setDrain_safe (postRecOf_safe h))

theorem drainRow_safe {s : State} {d : Drain} (h : s.safe) : (s.drainRow d).safe := by
  unfold State.drainRow
  dsimp only
  split
  · exact stall_safe (asking_safe h)
  · exact drainFail_safe h
  · rename_i e
    exact drainOn_safe (setDrain_safe (spawnRows_safe ((enginePut_safe h).1 _ e)))

theorem drainEnd_safe {s : State} {d : Drain} (h : s.safe) : (s.drainEnd d).safe :=
  ite_safe (stall_safe (setDrain_safe (spawnRows_safe h))) (ite_safe (drainOn_safe (setDrain_safe (spawnRows_safe h)))
    (drainOn_safe (engineSignal_safe (ite_safe (orFlags_safe (setDrain_safe (spawnRows_safe h))) (setDrain_safe
    (spawnRows_safe h))))))

theorem drainRead_safe {s : State} (h : s.safe) : s.drainRead.safe := drainOn_safe (unstall_safe (modMat_safe h))

theorem execDrainRowWrite_safe {s : State} (h : s.safe) : KeepsSafe (execDrainRowWrite s) := by
  unfold execDrainRowWrite
  split
  · split
    · exact .next (drainRead_safe h)
    · split
      · exact .next h
      · exact .next (ite_safe (drainRow_safe h) (drainEnd_safe h))
  · exact .none (by simp)

theorem execMhand_safe {s : State} {o : ROp} (h : s.safe) : KeepsSafe (execMhand o s) := by
  unfold execMhand
  dsimp only
  refine finish_keepsSafe ?_
  refine (matReady_safe h).then_ fun _ k => ?_
  refine .bind (heldCheck_safe k) fun _ _ => ?_
  split
  · exact .error k
  · split
    · exact .ok (modMat_safe k)
    · split
      · exact .error k
      · exact .ok (modMat_safe k)

theorem rowCheck_safe {s : State} {o : ROp} {x : BitVec 6} (h : s.safe) : StopsIn State.safe (rowCheck s o x) :=
  .bind (heldCheck_safe h) fun _ _ => .bind (guardR_stops h _ _ _ _) fun _ _ => .bind (guardR_stops h _ _ _ _) fun _ _ => .ok _

theorem execMrowrd_safe {s : State} {o : ROp} (h : s.safe) : KeepsSafe (execMrowrd o s) := by
  unfold execMrowrd
  refine finish_keepsSafe ?_
  refine (matReady_safe h).then_ fun _ k => ?_
  exact .bind (rowCheck_safe k) fun _ _ => .bind (noPort_safe k) fun _ _ => .bind (accFree_safe k) fun _ _ => .ok (modCur_safe k)

theorem execMrowwr_safe {s : State} {o : ROp} (h : s.safe) : KeepsSafe (execMrowwr o s) := by
  unfold execMrowwr
  refine finish_keepsSafe ?_
  refine (matReady_safe h).then_ fun _ k => ?_
  exact .bind (rowCheck_safe k) fun _ _ => .bind (noPort_safe k) fun _ _ => .bind (accFree_safe k) fun _ _ => .ok (modMat_safe k)

theorem storeArea_safe {s : State} {c : Cap} {y : Hint} {a : Nat} {b : List Byte} {tags : List Nat} (h : s.safe) :
    RunsIn State.safe (storeArea s c y a b tags) := by
  unfold storeArea
  exact .bind (placed_safe h) fun _ _ => (arrive_safe h).then_ fun _ k1 => foldlM_safe (fun _ _ k3 => storePiece_safe k3) k1

theorem storeAccs_safe {s : State} {c : Cap} {y : Hint} {a : Nat} {a1 : List (Fin 4)} (h : s.safe) :
    RunsIn State.safe (storeAccs s c y a a1) := by
  induction a1 generalizing s a with
  | nil => exact .ok h
  | cons _ _ ih =>
    unfold storeAccs
    exact (storeArea_safe h).then_ fun _ k => ih k

theorem execMsave_safe {s : State} {o : MOp} (h : s.safe) : KeepsSafe (execMsave o s) := by
  unfold execMsave
  refine finish_keepsSafe ?_
  refine (matReady_safe h).then_ fun _ k => ?_
  refine .bind (heldCheck_safe k) fun _ _ => ?_
  refine .bind (matIdle_safe k) fun _ _ => ?_
  refine .bind (accessChecks_safe k) fun _ _ => ?_
  exact .bind (placed_safe k) fun _ _ => allOrNone_safe k ((storeArea_safe k).then_ fun _ k5 => (storeAccs_safe k5).then_
    fun _ k6 => storeArea_safe k6)

theorem loadAccs_safe {s : State} {c : Cap} {y : Hint} {a : Nat} {m : Matrix} {a1 : List (Fin 4)} (h : s.safe) :
    AnswersIn State.safe (loadAccs s c y a m a1) := by
  induction a1 generalizing s c y a m with
  | nil => exact .ok h
  | cons _ _ ih =>
    unfold loadAccs
    exact (loadBytes_safe h).then_ fun _ k => ih k

theorem execMrest_safe {s : State} {o : MOp} (h : s.safe) : KeepsSafe (execMrest o s) := by
  unfold execMrest
  refine finish_keepsSafe ?_
  refine (matReady_safe h).then_ fun _ k => ?_
  refine .bind (heldCheck_safe k) fun _ _ => ?_
  refine .bind (matIdle_safe k) fun _ _ => ?_
  refine .bind (accessChecks_safe k) fun _ _ => ?_
  refine .bind (placed_safe k) fun _ _ => ?_
  refine YieldsIn.then_ (loadGrans_safe k) fun _ k5 => ?_
  refine YieldsIn.then_ (loadBytes_safe k5) fun _ k6 => ?_
  exact .bind (guardR_stops k _ _ _ _) fun _ _ => YieldsIn.then_ (loadAccs_safe k6) fun _ k8 => .ok (post_safe (with_safe k8))

theorem execMstat_safe {s : State} {o : ROp} (h : s.safe) : KeepsSafe (execMstat o s) :=
  finish_keepsSafe ((matReady_safe h).then_ fun _ k => .bind (heldCheck_safe k) fun _ _ => .ok (wx_safe k))

/-! ### `Machine/Passes` -/

/-- What a block gives an instruction to do keeps a safe state safe. -/
theorem blockBody_keeps {i : Instr} {b : State → R State} {s : State} (e : blockBody i = some b) (h : s.safe) :
    RunsIn State.safe (b s) := by
  unfold blockBody at e
  split at e
  · cases e; exact vaddB_safe h
  · cases e; exact vsubB_safe h
  · cases e; exact vmulB_safe h
  · cases e; exact vfmaB_safe h
  · cases e; exact vfmsB_safe h
  · cases e; exact vminB_safe h
  · cases e; exact vmaxB_safe h
  · cases e; exact vabsB_safe h
  · cases e; exact vnegB_safe h
  · cases e; exact vandB_safe h
  · cases e; exact vorB_safe h
  · cases e; exact vxorB_safe h
  · cases e; exact vshlB_safe h
  · cases e; exact vshrB_safe h
  · cases e; exact vcmpB_safe h
  · cases e; exact vselB_safe h
  · cases e; exact vcvtB_safe h
  · cases e; exact vdotB_safe h
  · cases e; exact vsclB_safe h
  · cases e; exact vmovB_safe h
  · cases e; exact vbcastB_safe h
  · cases e; exact vinsB_safe h
  · cases e; exact vextB_safe h
  · cases e; exact vclampB_safe h
  · cases e; exact kandB_safe h
  · cases e; exact korB_safe h
  · cases e; exact kxorB_safe h
  · cases e; exact knotB_safe h
  · cases e; exact kpopB_safe h
  · cases e; exact kfirstB_safe h
  · cases e; exact ksetB_safe h
  · cases e; exact kmovB_safe h
  · cases e; exact vrcpB_safe h
  · cases e; exact vrsqB_safe h
  · cases e; exact vsqrtB_safe h
  · cases e; exact vexp2B_safe h
  · cases e; exact vlog2B_safe h
  · cases e; exact vsinB_safe h
  · cases e; exact vcosB_safe h
  · cases e; exact vtanhB_safe h
  · cases e; exact vsigmB_safe h
  · cases e; exact vexpdB_safe h
  · cases e; exact vredsumB_safe h
  · cases e; exact vredmaxB_safe h
  · cases e; exact vredminB_safe h
  · cases e; exact vscanB_safe h
  · cases e; exact vpermB_safe h
  · cases e; exact vshufB_safe h
  · cases e; exact vpackB_safe h
  · cases e; exact vunpackB_safe h
  · cases e; exact mzeroB_safe h
  · cases e; exact mldaB_safe h
  · cases e; exact mldbB_safe h
  · cases e; exact msclB_safe h
  · cases e; exact mmaB_safe h
  · cases e; exact mmasB_safe h
  · cases e

theorem repTrapAt_safe {s : State} {i : SlotId} {pc : Word} {f : Fail} {passed : Bool} (h : s.safe) :
    (s.repTrapAt i pc f passed).safe :=
  ite_safe (modSlot_safe (supTrap_safe (repStop_safe (goHome_safe (filterAway_safe (restoreWait_safe (onSlot_safe h)))))))
    (modSlot_safe (parkTrap_safe (repStop_safe (goHome_safe (filterAway_safe (restoreWait_safe (onSlot_safe h)))))))

theorem repTrap_safe {s : State} {i : SlotId} {r : Rep} {f : Fail} (h : s.safe) : (s.repTrap i r f).safe := repTrapAt_safe h
theorem repOver_safe {s : State} {i : SlotId} {f : Fail} (h : s.safe) : (s.repOver i f).safe := repTrapAt_safe h

theorem repNext_safe {s : State} {i : SlotId} {r : Rep} (h : s.safe) : (s.repNext i r).safe :=
  ite_safe (post_safe (modSlot_safe (leaveQueue_safe h))) (ite_safe (post_safe (modSlot_safe (leaveQueue_safe h))) (unstall_safe
    (poolFreed_safe (modSlot_safe (leaveQueue_safe h)))))

theorem repStopped_safe {s : State} {i : SlotId} {r : Rep} {st : Stop} (h : s.safe) : (s.repStopped i r st).safe := by
  unfold State.repStopped
  split
  · exact repTrap_safe h
  · exact joinQueue_safe (modSlot_safe h)
  · exact ite_safe (stall_safe (modSlot_safe h)) (post_safe (modSlot_safe h))

theorem repSignal_safe {s : State} {i : SlotId} {r : Rep} {y : Hdr} (h : s.safe) : (s.repSignal i r y).safe :=
  ite_safe (repNext_safe h) (ite_safe (repNext_safe (holdSig_safe (onSlot_safe h))) (ite_safe (repOver_safe (repNext_safe
    (semAdd_safe h))) (repNext_safe (semAdd_safe h))))

theorem repExec_safe {s : State} {i : SlotId} {r : Rep} {ins : Instr} {y : Hdr} (h : s.safe) : (s.repExec i r ins y).safe := by
  unfold State.repExec
  dsimp only
  split
  · exact repTrap_safe h
  · split
    · exact repTrap_safe h
    · next b e =>
      split
      · next t e1 => exact repSignal_safe ((blockBody_keeps e h).1 t e1)
      · next st t e1 => exact repStopped_safe ((blockBody_keeps e h).2 _ e1)

theorem repIssue_safe {s : State} {i : SlotId} {r : Rep} {ins : Instr} (h : s.safe) : (s.repIssue i r ins).safe := by
  unfold State.repIssue
  split
  · exact repNext_safe h
  · refine when_safe ?_ (fun _ => repNext_safe (withWord_safe h))
    split
    · exact repTrap_safe (withWord_safe h)
    · refine when_safe ?_ (fun _ => ite_safe (repStopped_safe (withWord_safe h)) (repExec_safe (withWord_safe h)))
      split
      · rename_i e2
        exact ite_safe (repStopped_safe (modSlot_safe (waitSem_safe (withWord_safe h) _ e2))) (repExec_safe (modSlot_safe
          (waitSem_safe (withWord_safe h) _ e2)))
      · exact repStopped_safe (withWord_safe h)

theorem repTurn_safe {s : State} {i : SlotId} {r : Rep} (h : s.safe) : (s.repTurn i r).safe := by
  unfold State.repTurn
  split
  · split
    · rename_i a2 t e1
      exact post_safe (modSlot_safe ((captureBlock_safe h).1 (a2, t) e1))
    · rename_i a2 t e1
      exact repStopped_safe ((captureBlock_safe h).2 (a2, t) e1)
  · exact repIssue_safe h

theorem execRepetitionPass_safe {s : State} (h : s.safe) : KeepsSafe (execRepetitionPass s) := by
  unfold execRepetitionPass
  split
  · split
    · exact .next h
    · split
      · exact .next (repTurn_safe (issued_safe (onSlot_safe h)))
      · exact .next h
  · exact .none (by simp)

theorem execWtmo_safe {s : State} (h : s.safe) : KeepsSafe (execWtmo s) := by
  unfold execWtmo
  dsimp only
  split
  · split
    · exact .next h
    · split
      · split
        · exact .next (post_safe h)
        · split
          · split
            · exact .next (repTrap_safe (withWord_safe h))
            · exact .next h
          · exact .next h
      · split
        · exact .next (post_safe h)
        · split
          · split
            · exact .next (trapAt_safe h)
            · exact .next h
          · exact .next h
  · exact .none (by simp)

/-! ### `Machine/Sched` -/

theorem writeEntry_safe {s : State} {i : SlotId} {e : BindEntry} (h : s.safe) : (s.writeEntry i e).safe :=
  ite_safe h (modSlot_safe h)

theorem bindWith_safe {s : State} {i : SlotId} {e : BindEntry} {f : State → State} (h : s.safe) (hf : ∀ t, t.safe → (f t).safe) :
    (s.bindWith i e f).safe := by
  unfold State.bindWith
  dsimp only
  split
  · exact post_safe (setStat_safe (writeEntry_safe h))
  · exact hf _ (modSlot_safe (writeEntry_safe h))

theorem execBind_safe {s : State} (h : s.safe) : KeepsSafe (execBind s) := by
  unfold execBind
  split
  · exact .next (bindWith_safe h (fun _ k1 => startIn_safe (crqTake_safe k1)))
  · exact .none (by simp)

theorem execStand_safe {s : State} (h : s.safe) : KeepsSafe (execStand s) := by
  unfold execStand
  split
  · exact .next (bindWith_safe h (fun _ k1 => post_safe (setStat_safe k1)))
  · exact .none (by simp)

theorem suspendLater_safe {s : State} {is : List SlotId} (h : s.safe) : (s.suspendLater is).safe :=
  stall_safe (foldl_safe (fun _ _ k2 => askImage_safe k2) h)
theorem opEnds_safe {s : State} {i : SlotId} (h : s.safe) : (s.opEnds i).safe := ite_safe h (post_safe (modSlot_safe h))

theorem execPreempt_safe {s : State} (h : s.safe) : KeepsSafe (execPreempt s) := by
  unfold execPreempt
  split
  · split
    · exact .next (opEnds_safe h)
    · split
      · exact .next (opEnds_safe (preemptSlot_safe h))
      · exact .next (suspendLater_safe (modSlot_safe h))
  · exact .none (by simp)

theorem execPoolGrant_safe {s : State} (h : s.safe) : KeepsSafe (execPoolGrant s) := by
  unfold execPoolGrant
  split
  · exact .next (rouseAll_safe h)
  · exact .none (by simp)

theorem apertureWrite_safe {s : State} {fn : World} {off : Nat} {data : List Byte} (h : s.safe) :
    (s.apertureWrite fn off data).safe := ite_safe (modWorld_safe h) (ite_safe (crqPut_safe h) (modWorld_safe h))
theorem lrqFreed_safe {s : State} (h : s.safe) : s.lrqFreed.safe := h

theorem execLocalRefill_safe {s : State} (h : s.safe) : KeepsSafe (execLocalRefill s) := by
  unfold execLocalRefill
  split
  · split
    · exact .next (ite_safe h (post_safe h))
    · split
      · exact .next h
      · exact .next (post_safe (lrqFreed_safe (startIn_safe h)))
  · exact .none (by simp)

theorem promote_safe {s : State} {w : World} {kept a : List Rec} (h : s.safe) : (s.promote w kept a).safe := by
  induction a generalizing s kept with
  | nil => exact h
  | cons _ _ ih =>
    unfold State.promote
    split <;> exact ih h

theorem execCmqPromote_safe {s : State} (h : s.safe) : KeepsSafe (execCmqPromote s) := by
  unfold execCmqPromote
  split
  · exact .next (ite_safe (promote_safe h) (ite_safe (post_safe (promote_safe h)) (post_safe (post_safe (promote_safe h)))))
  · exact .none (by simp)

theorem execHeldMessageDelivery_safe {s : State} (h : s.safe) : KeepsSafe (execHeldMessageDelivery s) := by
  unfold execHeldMessageDelivery
  split
  · exact .next (foldl_safe (fun _ _ k1 => deliverHeld_safe k1) h)
  · exact .next (ite_safe (deliverHeld_safe h) (transferFails_safe h))
  · exact .none (by simp)

theorem dropQueued_safe {s : State} {w : World} {t : BitVec 16} (h : s.safe) : (s.dropQueued w t).safe :=
  lrqFreed_safe (crqDrain_safe h)

theorem unmarkTow_safe {s : State} {w : World} {t : BitVec 16} (h : s.safe) : (s.unmarkTow w t).safe := by
  unfold State.unmarkTow
  refine foldl_safe (fun t1 a k => ?_) h
  split
  · exact ite_safe (dropAwait_safe k) k
  · exact k

theorem recPc_safe {s : State} {w : World} {r : Rec} (h : s.safe) : (s.recPc w r).2.safe := by
  unfold State.recPc
  split
  · split
    · split
      · exact h
      · exact takeFree_safe h
    · exact takeFree_safe h
  · exact h

theorem hold1_safe {s : State} {w : World} {t : BitVec 16} {c : Fin 64} {r : Rec} (h : s.safe) : (s.hold1 w t c r).safe := h

theorem holdMember_safe {p : Snap} {w : World} {t : BitVec 16} {i : SlotId} (h : p.1.safe) : (holdMember w t p i).1.safe := by
  unfold holdMember
  refine hold1_safe (putRec_safe (suspend_safe ?_))
  split
  · exact h
  · exact recPc_safe h

theorem snapAwait_safe {p : Snap} {w : World} {e : AwaitEntry} (h : p.1.safe) : (snapAwait w p e).1.safe :=
  recPc_safe (takeFree_safe h)

theorem holdAwait_safe {p : Snap} {w : World} {t : BitVec 16} {e : Fin 32 × AwaitEntry} (h : p.1.safe) :
    (holdAwait w t p e).1.safe := by
  unfold holdAwait
  dsimp only
  exact dropAwait_safe (hold1_safe (snapAwait_safe h))

/-- Entries are taken one after another. -/
theorem foldSnap_safe {β : Type} {f : Snap → β → Snap} (hf : ∀ p a, p.1.safe → (f p a).1.safe) {l : List β} {p : Snap}
  (h : p.1.safe) :
    (l.foldl f p).1.safe := by
  induction l generalizing p with
  | nil => exact h
  | cons a l ih => exact ih (hf p a h)
theorem holdSwapped_safe {p : Snap} {w : World} {t : BitVec 16} {k : Nat} (h : p.1.safe) : (holdSwapped w t k p).1.safe := by
  unfold holdSwapped
  dsimp only
  split
  · exact h
  · refine foldl_safe (fun _ _ k => hold1_safe k) (with_safe (towFlags_safe (unmarkTow_safe ?_)))
    exact foldSnap_safe (fun _ _ k => snapAwait_safe k) h

theorem holdQueued_safe {p : Snap} {w : World} {t : BitVec 16} {r : Fin 64 × Rec} (h : p.1.safe) : (holdQueued w t p r).1.safe :=
  hold1_safe (recPc_safe h)
theorem swapEnds_safe {s : State} {w : World} {t : BitVec 16} {n : Nat} (h : s.safe) : (s.swapEnds w t n).safe := towFlags_safe h

theorem holdTow_safe {s : State} {w : World} {t : BitVec 16} {k : Nat} (h : s.safe) : (s.holdTow w t k).1.safe := by
  have h0 : (if s.swapping.contains (w, t) then s.swapEnds w t k else s).safe := ite_safe (swapEnds_safe h) h
  exact dropQueued_safe (foldSnap_safe (fun _ _ k => holdQueued_safe k) (holdSwapped_safe (foldSnap_safe
    (fun _ _ k => holdAwait_safe k)
    (foldSnap_safe (fun _ _ k => holdMember_safe k) h0))))

theorem writeSnapshot_safe {s : State} {w : World} {t : BitVec 16} {n : Nat} {es : List (List Byte)} (h : s.safe) :
    (s.writeSnapshot w t n es).safe := ite_safe (sendHost_safe h) (notice_safe h)
theorem syncSuspect_safe {s : State} {w : World} {t : BitVec 16} {n : Nat} (h : s.safe) : (s.syncSuspect w t n).safe :=
  ite_safe h (ite_safe (post_safe (with_safe (writeSnapshot_safe (holdTow_safe h)))) (suspendLater_safe h))

theorem execBudgetCharge_safe {s : State} (h : s.safe) : KeepsSafe (execBudgetCharge s) := by
  unfold execBudgetCharge
  split
  · split
    · exact .next h
    · split
      · exact .next (towAct_safe h)
      · split
        · exact .next h
        · split
          · exact .next (ite_safe (stall_safe h) (syncSuspect_safe h))
          · exact .next (stall_safe (askPage_safe h))
          · exact .next (auditIrq_safe h)
  · exact .none (by simp)

theorem swapMember_safe {s : State} {w : World} {t : BitVec 16} {i : SlotId} (h : s.safe) : (s.swapMember w t i).safe := by
  unfold State.swapMember
  dsimp only
  split
  · exact putAwait_safe (with_safe (putRec_safe (suspend_safe h)))
  · exact with_safe (putRec_safe (suspend_safe h))

theorem doSwap_safe {s : State} {w : World} {t : BitVec 16} (h : s.safe) : (s.doSwap w t).safe := by
  unfold State.doSwap
  dsimp only
  split
  · exact post_safe (foldl_safe (fun _ _ k2 => swapMember_safe k2) h)
  · exact foldl_safe (fun _ _ k1 => swapMember_safe k1) h

theorem goSwap_safe {s : State} {w : World} {t : BitVec 16} {n : Nat} (h : s.safe) : (s.goSwap w t n).safe :=
  ite_safe (swapEnds_safe h) (ite_safe (doSwap_safe h) (suspendLater_safe h))
theorem decideSwap_safe {s : State} {w : World} {t : BitVec 16} {n : Nat} (h : s.safe) : (s.decideSwap w t n).safe :=
  towSet_safe (towFlags_safe h)

theorem swapAct_safe {s : State} {w : World} {t : BitVec 16} {n : Nat} (h : s.safe) : (s.swapAct w t n).safe := by
  unfold State.swapAct
  refine when_safe ?_ (fun _ => goSwap_safe h)
  refine when_safe ?_ (fun _ => h)
  refine when_safe ?_ (fun _ => goSwap_safe (decideSwap_safe h))
  split
  · exact towAct_safe h
  · exact h

theorem execTowSwap_safe {s : State} (h : s.safe) : KeepsSafe (execTowSwap s) := by
  unfold execTowSwap
  split
  · split
    · exact .next (towAct_safe h)
    · split
      · exact .next (ite_safe (towAct_safe h) (swapAct_safe h))
      · exact .next (towAct_safe h)
      · exact .next (auditIrq_safe h)
  · exact .none (by simp)

theorem execTowReturn_safe {s : State} (h : s.safe) : KeepsSafe (execTowReturn s) := by
  unfold execTowReturn
  dsimp only
  split
  · split
    · exact .next h
    · split
      · exact .next (stall_safe (askPage_safe h))
      · split
        · exact .next (stall_safe h)
        · exact .next (foldl_safe (fun _ _ k1 => ite_safe (hold1_safe k1) (requeue_safe k1)) (with_safe (towFlags_safe
            (unmarkTow_safe h))))
      · exact .next (auditIrq_safe h)
  · exact .none (by simp)

theorem completeLaunch_safe {s : State} {w : World} {n status : Nat} (h : s.safe) : (s.completeLaunch w n status).safe :=
  ite_safe h (coalesced_safe (sendHost_safe h))

theorem execLaunchCompletion_safe {s : State} (h : s.safe) : KeepsSafe (execLaunchCompletion s) := by
  unfold execLaunchCompletion
  split
  · split
    · exact .next h
    · split
      · exact .next (stall_safe h)
      · split
        · exact .next (stall_safe (askPage_safe h))
        · exact .next (auditIrq_safe h)
        · split
          · exact .next (completeLaunch_safe h)
          · exact .next (stall_safe h)
  · exact .none (by simp)

theorem execCoalescingWindowEnd_safe {s : State} (h : s.safe) : KeepsSafe (execCoalescingWindowEnd s) := by
  unfold execCoalescingWindowEnd
  dsimp only
  split
  · split
    · exact .next h
    · split
      · exact .next (interrupt_safe h)
      · exact .next h
  · exact .none (by simp)

theorem execTowDescriptorActionHeld_safe {s : State} (h : s.safe) : KeepsSafe (execTowDescriptorActionHeld s) := by
  unfold execTowDescriptorActionHeld
  split
  · exact .next (retryHeld_safe h)
  · exact .none (by simp)

theorem pagesChanged_safe {s : State} (h : s.safe) : s.pagesChanged.safe := replay_safe (retryHeld_safe (rouseAll_safe h))

theorem execPageRequestMapped_safe {s : State} (h : s.safe) : KeepsSafe (execPageRequestMapped s) := by
  unfold execPageRequestMapped
  split
  · exact .next (pagesChanged_safe (ite_safe (pageFresh_safe h) h))
  · exact .none (by simp)

theorem execTranslationInvalidate_safe {s : State} (h : s.safe) : KeepsSafe (execTranslationInvalidate s) := by
  unfold execTranslationInvalidate
  split
  · exact .next (pagesChanged_safe (dropWorld_safe h))
  · exact .none (by simp)

theorem execSideLogAdmit_safe {s : State} (h : s.safe) : KeepsSafe (execSideLogAdmit s) := by
  unfold execSideLogAdmit
  split
  · exact .next (replay_safe h)
  · exact .none (by simp)

theorem refuseSlot_safe {s : State} {w : World} {r : Refused} {i : SlotId} (h : s.safe) : (s.refuseSlot w r i).safe := by
  unfold State.refuseSlot
  dsimp only
  refine when_safe ?_ (fun _ => h)
  split
  · split
    · refine when_safe ?_ (fun k => repTrap_safe (withWord_safe k))
      split
      · exact ite_safe h (ite_safe (restoreFail_safe h) (trapAt_safe h))
      · exact h
    · split
      · exact ite_safe h (ite_safe (restoreFail_safe h) (trapAt_safe h))
      · exact h
  · split
    · exact ite_safe h (ite_safe (restoreFail_safe h) (trapAt_safe h))
    · exact h

theorem refuseRow_safe {s : State} {w : World} {hit : Nat → Bool} {i : SlotId} {j : Fin 4} (h : s.safe) :
    (s.refuseRow w hit i j).safe := ite_safe (rouse_safe (modSlot_safe h)) h

theorem refusePart_safe {s : State} {w : World} {hit : Nat → Bool} {i : Fin 6} (h : s.safe) : (s.refusePart w hit i).safe := by
  unfold State.refusePart
  split
  · exact h
  · refine when_safe ?_ (fun _ => h)
    split
    · exact setPart_safe h
    · exact h

theorem refuseCopy_safe {s : State} {w : World} {hit : Nat → Bool} {i : SlotId} (h : s.safe) : (s.refuseCopy w hit i).safe := by
  unfold State.refuseCopy
  split
  · exact h
  · refine when_safe ?_ (fun _ => h)
    split
    · exact copyFail_safe h
    · exact h

theorem refuseLog_safe {s : State} {w : World} {r : Refused} (h : s.safe) : (s.refuseLog w r).safe :=
  foldl_safe (fun _ _ k1 => discard_safe k1) h
theorem refuseActs_safe {s : State} {w : World} {r : Refused} (h : s.safe) : (s.refuseActs w r).safe :=
  foldl_safe (fun _ _ k1 => auditIrq_safe k1) h

theorem refusePage_safe {s : State} {w : World} {r : Refused} (h : s.safe) : (s.refusePage w r).safe :=
  writesDone_safe (refuseActs_safe (refuseLog_safe (foldl_safe (fun _ _ k4 => refuseCopy_safe k4) (foldl_safe
    (fun _ _ k4 => refusePart_safe k4) (foldl_safe (fun _ _ k4 => foldl_safe (fun _ _ k6 => refuseRow_safe k6) k4) (foldl_safe
    (fun _ _ k4 => refuseSlot_safe k4) h))))))

theorem execPageRequestRefusal_safe {s : State} (h : s.safe) : KeepsSafe (execPageRequestRefusal s) := by
  unfold execPageRequestRefusal
  dsimp only
  split
  · split
    · exact .next h
    · exact .next (refusePage_safe h)
  · exact .none (by simp)

theorem recount_safe {s : State} {die : Fin 4} {c : PageCount} (h : s.safe) : (s.recount die c).safe :=
  ite_safe (with_safe (tierPost_safe h)) h

theorem execCounterTableRescan_safe {s : State} (h : s.safe) : KeepsSafe (execCounterTableRescan s) := by
  unfold execCounterTableRescan
  split
  · exact .next (foldl_safe (fun _ _ k1 => recount_safe k1) h)
  · exact .none (by simp)

/-! ### `Machine/Host` -/

theorem outsideCounts_safe {s : State} {w : World} {key va : Nat} (h : s.safe) : (s.outsideCounts w key va).safe :=
  ite_safe (countPage_safe h) h

theorem outsideSees_safe {s : State} {w : World} {key va n : Nat} (h : s.safe) : (s.outsideSees w key va n).safe := by
  unfold State.outsideSees
  dsimp only
  split
  · exact sawError_safe (outsideCounts_safe h)
  · exact outsideCounts_safe h

theorem outsideGet_safe {s : State} {w : World} {va n : Nat} (h : s.safe) : (s.outsideGet w va n).2.safe := by
  unfold State.outsideGet
  split
  · split
    · exact h
    · exact outsideSees_safe h
  · exact h

theorem outsideGets_safe {s : State} {w : World} {a : List (Nat × Nat)} (h : s.safe) : (s.outsideGets w a).2.safe := by
  induction a generalizing s with
  | nil => exact h
  | cons _ _ ih =>
    unfold State.outsideGets
    exact ih (outsideGet_safe h)

theorem auditSealed_safe {s : State} {w : World} {p : HostPort} {cuts : List (Nat × Nat)} (h : s.safe) :
    (s.auditSealed w p cuts).safe := by
  unfold State.auditSealed
  split
  · exact auditEntry_safe h
  · exact h

theorem execHostBar2Read_safe {s : State} (h : s.safe) : KeepsSafe (execHostBar2Read s) := by
  unfold execHostBar2Read
  split
  · split
    · exact .next h
    · split
      · exact .next (stall_safe h)
      · exact .next (with_safe (outsideGets_safe (auditSealed_safe h)))
  · exact .none (by simp)

theorem logOutside_safe {s : State} {q : Fin 128} {who : LogBy} {w : World} {va : Nat} {bs : List Byte} {tags : List Bool}
  (h : s.safe) :
    SomeIn State.safe (s.logOutside q who w va bs tags) := by
  unfold State.logOutside
  dsimp only
  split
  · exact .some (foldl_safe (fun _ _ k1 => logPut_safe k1) h)
  · exact .none

theorem outsidePut_safe {s : State} {who : LogBy} {w : World} {va : Nat} {bs : List Byte} (h : s.safe) :
    SomeIn State.safe (s.outsidePut who w va bs) := by
  unfold State.outsidePut
  split
  · exact .some h
  · split
    · split
      · exact logOutside_safe h
      · split
        · exact .some h
        · exact .some (performAt_safe (outsideCounts_safe h))
    · exact logOutside_safe h
    · exact .some h

theorem outsidePuts_safe {s : State} {who : LogBy} {w : World} {a : List (Nat × Nat)} {a1 : List Byte} (h : s.safe) :
    SomeIn State.safe (s.outsidePuts who w a a1) := by
  induction a generalizing s a1 with
  | nil => exact .some h
  | cons _ _ ih =>
    unfold State.outsidePuts
    split
    · exact .none
    · rename_i e
      exact ih (outsidePut_safe h _ e)

theorem execHostBar2Write_safe {s : State} (h : s.safe) : KeepsSafe (execHostBar2Write s) := by
  unfold execHostBar2Write
  dsimp only
  split
  · split
    · exact .next h
    · split
      · exact .next (stall_safe h)
      · split
        · rename_i e1
          exact .next (auditSealed_safe (outsidePuts_safe h _ e1))
        · exact .next (stall_safe h)
  · exact .none (by simp)

theorem bar0Words_safe {s : State} {fn : World} {off a : Nat} (h : s.safe) : (s.bar0Words fn off a).2.safe := by
  induction a generalizing s off with
  | zero => exact h
  | succ _ ih =>
    unfold State.bar0Words
    split
    · exact ih h
    · exact ih (takeFree_safe h)

theorem auditGroups_safe {s : State} {p : HostPort} {fn : World} {off n : Nat} (h : s.safe) :
    (s.auditGroups p fn off n).safe := by
  unfold State.auditGroups
  split
  · exact auditEntry_safe h
  · exact h

theorem execCounterGroupRead_safe {s : State} (h : s.safe) : KeepsSafe (execCounterGroupRead s) := by
  unfold execCounterGroupRead
  split
  · split
    · exact .next h
    · split
      · exact .next (stall_safe h)
      · exact .next (with_safe (bar0Words_safe (auditGroups_safe h)))
  · exact .none (by simp)

theorem psemTake_safe {s : State} {p : HostPort} (h : s.safe) : (s.psemTake p).safe := ite_safe h h
theorem psemRelease_safe {s : State} {p : HostPort} (h : s.safe) : (s.psemRelease p).safe := ite_safe h h

theorem execPsemTake_safe {s : State} (h : s.safe) : KeepsSafe (execPsemTake s) := by
  unfold execPsemTake
  split
  · exact .next (psemTake_safe h)
  · exact .none (by simp)

theorem execPsemRelease_safe {s : State} (h : s.safe) : KeepsSafe (execPsemRelease s) := by
  unfold execPsemRelease
  split
  · exact .next (psemRelease_safe h)
  · exact .none (by simp)

theorem bar0Write_safe {s : State} {p : HostPort} {fn : World} {off : Nat} {data : List Byte} (h : s.safe) :
    (s.bar0Write p fn off data).safe :=
  ite_safe (apertureWrite_safe h) (ite_safe (modWorld_safe h) (ite_safe (ite_safe (psemTake_safe h) (ite_safe
    (psemRelease_safe h) h)) (ite_safe (modWorld_safe h) h)))

theorem execEnqueueApertureWrite_safe {s : State} (h : s.safe) : KeepsSafe (execEnqueueApertureWrite s) := by
  unfold execEnqueueApertureWrite
  split
  · split
    · exact .next h
    · split
      · exact .next (stall_safe h)
      · exact .next (bar0Write_safe h)
  · exact .none (by simp)

theorem mbBegin_safe {s : State} {m : MbCmd} {code : Nat} (h : s.safe) : (s.mbBegin m code).safe := modWorld_safe h
theorem mbEnds_safe {s : State} {fn : World} {status : Nat} (h : s.safe) : (s.mbEnds fn status).safe :=
  post_safe (modWorld_safe h)

theorem command_safe {s : State} {m : MbCmd} {code : Nat} {f : State → State × Nat} (h : s.safe)
    (hf : ∀ t, t.safe → (f t).1.safe) : (s.command m code f).safe := by
  unfold State.command
  split
  · exact h
  · exact mbEnds_safe (hf _ (mbBegin_safe h))

theorem exclusive_safe {s : State} {m : MbCmd} {code : Nat} {f : State → State × Nat} (h : s.safe)
    (hf : ∀ t, t.safe → (f t).1.safe) : (s.exclusive m code f).safe := by
  unfold State.exclusive
  refine command_safe h fun t k => ?_
  split
  · exact k
  · split
    · exact k
    · exact hf t k

theorem freeBytes_safe {s : State} {a : Nat} (h : s.safe) : (s.freeBytes a).2.safe := by
  induction a generalizing s with
  | zero => exact h
  | succ _ ih =>
    unfold State.freeBytes
    exact ih (takeFree_safe h)

theorem execMailboxCompletion_safe {s : State} (h : s.safe) : KeepsSafe (execMailboxCompletion s) := by
  unfold execMailboxCompletion
  dsimp only
  split
  · split
    · exact .next h
    · exact .next (sendHost_safe (modWorld_safe (freeBytes_safe h)))
  · exact .none (by simp)

theorem execAttest_safe {s : State} (h : s.safe) : KeepsSafe (execAttest s) := by
  unfold execAttest
  split
  · exact .next (command_safe h (fun _ k1 => sendHost_safe k1))
  · exact .none (by simp)

theorem unhold_safe {s : State} {w : World} {t : BitVec 16} (h : s.safe) : (s.unhold w t).safe := h

theorem execTowResume_safe {s : State} (h : s.safe) : KeepsSafe (execTowResume s) := by
  unfold execTowResume
  split
  · refine .next ?_
    refine command_safe h (fun t k => ?_)
    split
    · exact k
    · exact foldl_safe (fun _ _ k1 => requeue_safe k1) (towFlags_safe (towSet_safe (unhold_safe k)))
  · exact .none (by simp)

theorem execTowDiscard_safe {s : State} (h : s.safe) : KeepsSafe (execTowDiscard s) := by
  unfold execTowDiscard
  dsimp only
  split
  · refine .next ?_
    refine command_safe h (fun t k => ?_)
    split
    · exact k
    · dsimp only
      exact towSet_safe (unhold_safe k)
  · exact .none (by simp)

theorem execUitSet_safe {s : State} (h : s.safe) : KeepsSafe (execUitSet s) := by
  unfold execUitSet
  split
  · exact .next (command_safe h (fun _ k1 => modWorld_safe k1))
  · exact .none (by simp)

theorem execCwinSet_safe {s : State} (h : s.safe) : KeepsSafe (execCwinSet s) := by
  unfold execCwinSet
  split
  · refine .next ?_
    refine command_safe h (fun t k => ?_)
    split
    · exact k
    · split
      · exact k
      · exact k
  · exact .none (by simp)

theorem execCwinArm_safe {s : State} (h : s.safe) : KeepsSafe (execCwinArm s) := by
  unfold execCwinArm
  split
  · refine .next ?_
    refine command_safe h (fun t k => ?_)
    split
    · exact k
    · split
      · exact cwinOpen_safe k
      · exact k
  · exact .none (by simp)

theorem execCwinTimeout_safe {s : State} (h : s.safe) : KeepsSafe (execCwinTimeout s) := by
  unfold execCwinTimeout
  dsimp only
  split
  · split
    · exact .next h
    · split
      · exact .next h
      · split
        · exact .next h
        · exact .next (ite_safe (writeBytes_safe h) h)
  · exact .none (by simp)

theorem newKeys_safe {s : State} {w : World} (h : s.safe) : (s.newKeys w).safe := with_safe (modWorld_safe h)
theorem dropKeys_safe {s : State} {w : World} (h : s.safe) : (s.dropKeys w).safe := with_safe (modWorld_safe h)

theorem writeRoots_safe {s : State} {w : World} (h : s.safe) : (s.writeRoots w).safe := by
  unfold State.writeRoots
  dsimp only
  split
  · exact foldl_safe (fun _ _ k1 => ite_safe k1 (writeGran_safe k1)) h
  · refine foldl_safe (fun t a k => ?_) h
    split
    · exact k
    · split
      · exact writeGran_safe k
      · exact k

theorem execWorldCreate_safe {s : State} (h : s.safe) : KeepsSafe (execWorldCreate s) := by
  unfold execWorldCreate
  split
  · refine .next ?_
    refine exclusive_safe h (fun t k => ?_)
    split
    · exact k
    · exact writeRoots_safe (modWorld_safe (newKeys_safe k))
  · exact .none (by simp)

theorem execWorldDestroy_safe {s : State} (h : s.safe) : KeepsSafe (execWorldDestroy s) := by
  unfold execWorldDestroy
  split
  · refine .next ?_
    refine exclusive_safe h (fun t k => ?_)
    split
    · exact k
    · exact modWorld_safe (dropKeys_safe k)
  · exact .none (by simp)

theorem raiseWsec_safe {s : State} {w : World} {reason : Nat} (h : s.safe) : (s.raiseWsec w reason).safe := by
  unfold State.raiseWsec
  dsimp only
  refine foldl_safe (fun t a k => ?_) h
  split
  · exact k
  · split
    · exact ite_safe (modSlot_safe k) (modSlot_safe (leaveQueue_safe (modSlot_safe k)))
    · exact modSlot_safe (modSlot_safe k)
    · exact modSlot_safe k

theorem transportKey_safe {s : State} {w : World} (h : s.safe) : (s.transportKey w).safe := modWorld_safe (takeFree_safe h)

theorem execMigExport_safe {s : State} (h : s.safe) : KeepsSafe (execMigExport s) := by
  unfold execMigExport
  dsimp only
  split
  · refine .next ?_
    refine exclusive_safe h (fun t k => ?_)
    split
    · exact k
    · split
      · dsimp only
        exact raiseWsec_safe (modWorld_safe (post_safe (with_safe (modWorld_safe (transportKey_safe k)))))
      · exact k
  · exact .none (by simp)

theorem execMigImport_safe {s : State} (h : s.safe) : KeepsSafe (execMigImport s) := by
  unfold execMigImport
  split
  · refine .next ?_
    refine exclusive_safe h (fun t k => ?_)
    split
    · exact k
    · split
      · exact k
      · exact transportKey_safe k
  · exact .none (by simp)

theorem execFwUpdate_safe {s : State} (h : s.safe) : KeepsSafe (execFwUpdate s) := by
  unfold execFwUpdate
  split
  · exact .next (exclusive_safe h (fun _ k1 => k1))
  · exact .none (by simp)

theorem execRouteSet_safe {s : State} (h : s.safe) : KeepsSafe (execRouteSet s) := by
  unfold execRouteSet
  split
  · exact .next (exclusive_safe h (fun _ k1 => k1))
  · exact .none (by simp)

theorem execXwinSet_safe {s : State} (h : s.safe) : KeepsSafe (execXwinSet s) := by
  unfold execXwinSet
  split
  · refine .next ?_
    refine exclusive_safe h (fun t k => ?_)
    split
    · exact k
    · exact pagesChanged_safe (modWorld_safe k)
  · exact .none (by simp)

theorem execImportSet_safe {s : State} (h : s.safe) : KeepsSafe (execImportSet s) := by
  unfold execImportSet
  split
  · exact .next (exclusive_safe h (fun _ k1 => k1))
  · exact .none (by simp)

theorem setProt_safe {s : State} {w : World} {v : Bool} (h : s.safe) : (s.setProt w v).safe :=
  ite_safe (with_safe (modWorld_safe (modWorld_safe h))) (modWorld_safe h)
theorem writeWseal_safe {s : State} {w : World} {v : Word} (h : s.safe) : (s.writeWseal w v).safe :=
  ite_safe (modWorld_safe (modWorld_safe h)) (ite_safe (setProt_safe (modWorld_safe h)) (modWorld_safe (modWorld_safe h)))

theorem clearErrors_safe {s : State} {unit : Nat} (h : s.safe) : (s.clearErrors unit).safe := by
  unfold State.clearErrors
  split <;> exact h

theorem mgmtWrite_safe {s : State} {reg : MgmtReg} {w : World} {unit : Nat} {v : Word} (h : s.safe) :
    (s.mgmtWrite reg w unit v).safe := by
  unfold State.mgmtWrite
  split
  · exact pagesChanged_safe (modWorld_safe h)
  · exact modWorld_safe h
  · exact retryHeld_safe (modWorld_safe h)
  · exact modWorld_safe h
  · exact modWorld_safe h
  · exact modWorld_safe h
  · exact modWorld_safe h
  · exact lrqFreed_safe (modWorld_safe h)
  · exact modWorld_safe h
  · exact writeWseal_safe h
  · exact modWorld_safe h
  · exact modWorld_safe h
  · exact h
  · exact ite_safe (crqDrain_safe h) h
  · exact ite_safe (lrqFreed_safe h) h
  · exact ite_safe h h
  · exact ite_safe h h
  · exact h
  · exact h
  · exact h
  · exact h
  · exact clearErrors_safe h

theorem mgmtReads_safe {s : State} {reg : MgmtReg} {w : World} {unit : Nat} (h : s.safe) : (s.mgmtReads reg w unit).safe := by
  unfold State.mgmtReads
  split
  · exact h
  · exact with_safe (takeFree_safe h)

theorem execMgmtRegisterWrite_safe {s : State} (h : s.safe) : KeepsSafe (execMgmtRegisterWrite s) := by
  unfold execMgmtRegisterWrite
  split
  · exact .next (mgmtWrite_safe h)
  · exact .next (mgmtReads_safe h)
  · exact .none (by simp)

end Sys2Proof.Machine
end

section
/-!
The functions of `Machine/Fabric`, `Machine/Integer`, `Machine/Scalar`, `Machine/Wave` keep a safe state safe: one lemma for
each,
whose cases are those of its definition.
-/

namespace Sys2Proof.Machine

/-! ### `Machine/Fabric` -/

theorem packetCap_safe {s : State} {port : Fin 12} {dev : BitVec 8} {c : Cap} (h : s.safe) : (s.packetCap port dev c).1.safe := by
  unfold State.packetCap
  split
  · exact h
  · split
    · exact h
    · exact h

theorem reject_safe {s : State} {port : Fin 12} {dev : BitVec 8} {w : World} (h : s.safe) : (s.reject port dev w).safe :=
  answer_safe h

theorem peerAt_safe {s : State} {dev : BitVec 8} {sw w : World} {va n : Nat} {need : Need} {f : State → Nat → Nat → State}
  (h : s.safe)
    (hf : ∀ t key main, t.safe → (f t key main).safe) : SomeIn State.safe (s.peerAt dev sw w va n need f) := by
  unfold State.peerAt
  split
  · split
    · exact .none
    · exact .some (ite_safe (answer_safe (outsideSees_safe h)) (hf _ _ _ (outsideSees_safe h)))
  · exact .none
  · exact .some (answer_safe h)

theorem peerUpdate_safe {s : State} {dev : BitVec 8} {sw w : World} {va n : Nat} {arrival contribution : Bool}
  {f : Nat → Option Nat} {g : Nat → List Byte} (h : s.safe) :
    SomeIn State.safe (s.peerUpdate dev sw w va n arrival contribution f g) := by
  unfold State.peerUpdate
  refine peerAt_safe h (fun t a a1 k => ?_)
  refine answer_safe ?_
  split
  · exact cwinWrite_safe (dupWrite_safe k)
  · exact k

theorem peerCapUpdate_safe {s : State} {dev : BitVec 8} {sw w : World} {va : Nat} {expected : Option Cap} {new : Cap}
  (h : s.safe) :
    SomeIn State.safe (s.peerCapUpdate dev sw w va expected new) :=
  peerAt_safe h (fun _ _ _ k1 => answer_safe (ite_safe (writeGran_safe (dupWrite_safe k1)) k1))

theorem peerLoad_safe {s : State} {dev : BitVec 8} {sw w : World} {va n : Nat} (h : s.safe) : (s.peerLoad dev sw w va n).safe :=
  answer_safe (outsideGets_safe h)
theorem peerStored_safe {s : State} {dev : BitVec 8} {sw : World} {n0 : Nat} (h : s.safe) : (s.peerStored dev sw n0).safe :=
  ite_safe (answer_safe h) h

theorem outsideCap_safe {s : State} {who : LogBy} {w : World} {va : Nat} {c : Cap} (h : s.safe) :
    SomeIn State.safe (s.outsideCap who w va c) := by
  unfold State.outsideCap
  split
  · split
    · exact logOutside_safe h
    · split
      · exact .some h
      · exact .some (performAt_safe (outsideCounts_safe h))
  · exact logOutside_safe h
  · exact .some h

theorem peerDo_safe {s : State} {port : Fin 12} {dev : BitVec 8} {sw w : World} {op : PeerOp} {va : Nat} {data : List Byte}
  (h : s.safe) :
    SomeIn State.safe (s.peerDo port dev sw w op va data) := by
  unfold State.peerDo
  split
  · exact .some (peerLoad_safe h)
  · exact map_safe (outsidePuts_safe h) fun _ k => peerStored_safe k
  · exact map_safe (outsideCap_safe (packetCap_safe h)) fun _ k => peerStored_safe k
  · exact peerUpdate_safe h
  · exact peerCapUpdate_safe (packetCap_safe h)
  · exact peerUpdate_safe h

theorem execPeerAccessArrival_safe {s : State} (h : s.safe) : KeepsSafe (execPeerAccessArrival s) := by
  unfold execPeerAccessArrival
  dsimp only
  split
  · split
    · exact .next h
    · split
      · exact .next (reject_safe h)
      · split
        · exact .next (reject_safe h)
        · split
          · exact .next (stall_safe h)
          · split
            · rename_i e2
              exact .next (peerDo_safe h _ e2)
            · exact .next (stall_safe h)
  · exact .none (by simp)

theorem answered_safe {s : State} {i : SlotId} {q : PeerAsk} {ans : Option (List Byte × Option Cap)} (h : s.safe) :
    (s.answered i q ans).safe := unstall_safe (rouse_safe (modSlot_safe h))
theorem storeEnded_safe {s : State} {p : PeerStore} (h : s.safe) : (s.storeEnded p).safe := h

theorem execPeerResponse_safe {s : State} (h : s.safe) : KeepsSafe (execPeerResponse s) := by
  unfold execPeerResponse
  split
  · split
    · refine .next ?_
      refine answered_safe ?_
      split
      · exact packetCap_safe h
      · exact h
    · split
      · exact .next (writesDone_safe (storeEnded_safe h))
      · exact .next h
  · exact .none (by simp)

theorem execPtmo_safe {s : State} (h : s.safe) : KeepsSafe (execPtmo s) := by
  unfold execPtmo
  split
  · split
    · exact .next (answered_safe h)
    · split
      · exact .next (writesDone_safe (postRecOf_safe (storeEnded_safe h)))
      · exact .next h
  · exact .none (by simp)

theorem execFabricFailover_safe {s : State} (h : s.safe) : KeepsSafe (execFabricFailover s) := by
  unfold execFabricFailover
  split
  · exact .next h
  · exact .none (by simp)

theorem execFabricLinkUp_safe {s : State} (h : s.safe) : KeepsSafe (execFabricLinkUp s) := by
  unfold execFabricLinkUp
  split
  · exact .next h
  · exact .none (by simp)

theorem execCxlLinkDown_safe {s : State} (h : s.safe) : KeepsSafe (execCxlLinkDown s) := by
  unfold execCxlLinkDown
  split
  · exact .next h
  · exact .none (by simp)

theorem execCxlLinkUp_safe {s : State} (h : s.safe) : KeepsSafe (execCxlLinkUp s) := by
  unfold execCxlLinkUp
  split
  · exact .next h
  · exact .none (by simp)

theorem setSession_safe {s : State} {p : HostPort} {v : Bool} (h : s.safe) : (s.setSession p v).safe := by
  unfold State.setSession
  split <;> exact h

theorem execHotReset_safe {s : State} (h : s.safe) : KeepsSafe (execHotReset s) := by
  unfold execHotReset
  split
  · exact .next (ite_safe (with_safe (setSession_safe h)) (setSession_safe h))
  · exact .none (by simp)

theorem execHostSessionEstablished_safe {s : State} (h : s.safe) : KeepsSafe (execHostSessionEstablished s) := by
  unfold execHostSessionEstablished
  split
  · exact .next (unstall_safe (foldl_safe (fun _ _ k2 => sendHost_safe k2) (with_safe (setSession_safe h))))
  · exact .none (by simp)

theorem resetAll_safe {s : State} (h : s.safe) : s.resetAll.safe :=
  ⟨⟨⟨(cells_of_safe h).1.filter _, fun c hc => (cells_of_safe h).2 c (List.mem_filter.1 hc).1⟩, .nil, .nil⟩, Nat.zero_le _⟩
theorem coldReset_safe {s : State} (h : s.safe) : s.coldReset.safe := with_safe (resetAll_safe h)

theorem execColdReset_safe {s : State} (h : s.safe) : KeepsSafe (execColdReset s) := by
  unfold execColdReset
  split
  · exact .next (coldReset_safe h)
  · exact .none (by simp)

theorem execWarmReset_safe {s : State} (h : s.safe) : KeepsSafe (execWarmReset s) := by
  unfold execWarmReset
  split
  · exact .next (with_safe (resetAll_safe h))
  · exact .none (by simp)

theorem execThermalTrip_safe {s : State} (h : s.safe) : KeepsSafe (execThermalTrip s) := by
  unfold execThermalTrip
  split
  · exact .next (with_safe (notice_safe (with_safe (coldReset_safe h))))
  · exact .none (by simp)

theorem discardSlots_safe {s : State} {w : World} (h : s.safe) : (s.discardSlots w).safe :=
  with_safe (with_safe (foldl_safe (fun _ _ k1 => ite_safe (vacate_safe (withdraw_safe k1)) k1) h))

theorem discardQueues_safe {s : State} {w : World} (h : s.safe) : (s.discardQueues w).safe := by
  unfold State.discardQueues
  refine with_safe ?_
  refine foldl_safe (fun t a k => ?_) h
  split
  · exact ite_safe (dropAwait_safe k) k
  · exact k

theorem flrLaunches_safe {s : State} {w : World} (h : s.safe) : (s.flrLaunches w).safe := by
  unfold State.flrLaunches
  refine foldl_safe (fun t a k => ?_) h
  split
  · exact ite_safe (completeLaunch_safe (towFlags_safe k)) k
  · exact k

theorem filterTags_safe {s : State} {p : Nat → Bool} (h : s.safe) : ({ s with tags := s.tags.filter p } : State).safe :=
  safe_of_tags h ((tags_of_safe h).filter _) rfl rfl rfl
theorem sweepTags_safe {s : State} {w : World} (h : s.safe) : (s.sweepTags w).safe := by
  unfold State.sweepTags
  dsimp only
  have hs := sweepCache_safe (f := fun c => (capWorld c).toNat == w.val) h
  generalize s.sweepCache (fun c => (capWorld c).toNat == w.val) = u at hs
  exact with_safe (filterTags_safe hs)

theorem zeroSealed_safe {s : State} {w : World} (h : s.safe) : (s.zeroSealed w).safe := by
  unfold State.zeroSealed
  split
  · exact h
  · exact foldl_safe (fun _ _ k1 => foldl_safe (fun _ _ k3 => ite_safe (zeroRange_safe k3) k3) k1) h

theorem execFunctionLevelReset_safe {s : State} (h : s.safe) : KeepsSafe (execFunctionLevelReset s) := by
  unfold execFunctionLevelReset
  split
  · split
    · exact .next h
    · exact .next (unstall_safe (discardQueues_safe (with_safe (raiseWsec_safe (modWorld_safe h)))))
  · exact .none (by simp)

theorem execFunctionLevelResetComplete_safe {s : State} (h : s.safe) : KeepsSafe (execFunctionLevelResetComplete s) := by
  unfold execFunctionLevelResetComplete
  split
  · split
    · exact .next h
    · refine .next ?_
      refine unstall_safe ?_
      split
      · exact setProt_safe (modWorld_safe (forgetCaches_safe (dropKeys_safe (zeroSealed_safe (sweepTags_safe (flrLaunches_safe
          (discardQueues_safe (discardSlots_safe h))))))))
      · exact modWorld_safe (forgetCaches_safe (dropKeys_safe (zeroSealed_safe (sweepTags_safe (flrLaunches_safe
          (discardQueues_safe (discardSlots_safe h)))))))
  · exact .none (by simp)

theorem execThrottleStep_safe {s : State} (h : s.safe) : KeepsSafe (execThrottleStep s) := by
  unfold execThrottleStep
  split
  · exact .next (with_safe (takeFree_safe h))
  · exact .none (by simp)

theorem execSupplyDroop_safe {s : State} (h : s.safe) : KeepsSafe (execSupplyDroop s) := by
  unfold execSupplyDroop
  split
  · exact .next h
  · exact .none (by simp)

theorem execVrefRecalibration_safe {s : State} (h : s.safe) : KeepsSafe (execVrefRecalibration s) := by
  unfold execVrefRecalibration
  split
  · exact .next h
  · exact .none (by simp)

theorem countError_safe {s : State} {b : Bank} {f : ErrCount → ErrCount} (h : s.safe) : (s.countError b f).safe := h
theorem loseRecord_safe {s : State} {n : Nat} (h : s.safe) : (s.loseRecord n).safe :=
  ite_safe (lrqFreed_safe (with_safe (notice_safe h))) (crqDrain_safe (with_safe (notice_safe h)))

theorem softError_safe {s : State} {a : SoftError} (h : s.safe) : (s.softError a).safe := by
  unfold State.softError
  split
  · exact countError_safe h
  · exact ite_safe (countError_safe h) (ite_safe (ite_safe (countError_safe h) (with_safe (countError_safe h))) (ite_safe
      (countError_safe h) (with_safe (countError_safe h))))
  · exact loseRecord_safe h
  · exact modSlot_safe h
  · exact h
  · exact rouseAll_safe h

theorem execPatrolScrub_safe {s : State} (h : s.safe) : KeepsSafe (execPatrolScrub s) := by
  unfold execPatrolScrub
  split
  · exact .next (listBad_safe (foldl_safe (fun _ _ k2 => softError_safe k2) h))
  · exact .none (by simp)

/-! ### `Machine/Integer` -/

theorem intBody_safe {s : State} {o : RIOp} {f : IntTy → Int → Int → Int} (h : s.safe) : RunsIn State.safe (intBody o f s) := by
  unfold intBody
  exact .ok (wx_safe h)

theorem intBody3_safe {s : State} {o : ROp} {f : IntTy → Int → Int → Int → Int} (h : s.safe) :
    RunsIn State.safe (intBody3 o f s) := by
  unfold intBody3
  exact .ok (wx_safe h)

theorem patBody_safe {s : State} {o : RIOp} {f : IntTy → Nat → Nat → Nat} (h : s.safe) : RunsIn State.safe (patBody o f s) := by
  unfold patBody
  exact .ok (wx_safe h)

theorem shiftBody_safe {s : State} {o : RIOp} {f : Nat → Nat → Nat → Nat} (h : s.safe) : RunsIn State.safe (shiftBody o f s) := by
  unfold shiftBody
  exact .ok (wx_safe h)

theorem unaryBody_safe {s : State} {o : ROp} {f : IntTy → Nat → Nat} (h : s.safe) : RunsIn State.safe (unaryBody o f s) := by
  unfold unaryBody
  exact .ok (wx_safe h)

theorem execAdd_safe {s : State} {o : RIOp} (h : s.safe) : KeepsSafe (execAdd o s) := finish_keepsSafe (intBody_safe h)
theorem execSub_safe {s : State} {o : RIOp} (h : s.safe) : KeepsSafe (execSub o s) := finish_keepsSafe (intBody_safe h)
theorem execMul_safe {s : State} {o : RIOp} (h : s.safe) : KeepsSafe (execMul o s) := finish_keepsSafe (intBody_safe h)
theorem execMulh_safe {s : State} {o : ROp} (h : s.safe) : KeepsSafe (execMulh o s) := finish_keepsSafe (intBody3_safe h)
theorem execMad_safe {s : State} {o : ROp} (h : s.safe) : KeepsSafe (execMad o s) := finish_keepsSafe (intBody3_safe h)
theorem execDiv_safe {s : State} {o : ROp} (h : s.safe) : KeepsSafe (execDiv o s) := finish_keepsSafe (intBody3_safe h)
theorem execRem_safe {s : State} {o : ROp} (h : s.safe) : KeepsSafe (execRem o s) := finish_keepsSafe (intBody3_safe h)
theorem execAnd_safe {s : State} {o : RIOp} (h : s.safe) : KeepsSafe (execAnd o s) := finish_keepsSafe (patBody_safe h)
theorem execOr_safe {s : State} {o : RIOp} (h : s.safe) : KeepsSafe (execOr o s) := finish_keepsSafe (patBody_safe h)
theorem execXor_safe {s : State} {o : RIOp} (h : s.safe) : KeepsSafe (execXor o s) := finish_keepsSafe (patBody_safe h)
theorem execAndn_safe {s : State} {o : RIOp} (h : s.safe) : KeepsSafe (execAndn o s) := finish_keepsSafe (patBody_safe h)
theorem execShl_safe {s : State} {o : RIOp} (h : s.safe) : KeepsSafe (execShl o s) := finish_keepsSafe (shiftBody_safe h)
theorem execShr_safe {s : State} {o : RIOp} (h : s.safe) : KeepsSafe (execShr o s) := finish_keepsSafe (shiftBody_safe h)
theorem execSra_safe {s : State} {o : RIOp} (h : s.safe) : KeepsSafe (execSra o s) := finish_keepsSafe (shiftBody_safe h)
theorem execRotl_safe {s : State} {o : RIOp} (h : s.safe) : KeepsSafe (execRotl o s) := finish_keepsSafe (shiftBody_safe h)
theorem execMin_safe {s : State} {o : RIOp} (h : s.safe) : KeepsSafe (execMin o s) := finish_keepsSafe (intBody_safe h)
theorem execMax_safe {s : State} {o : RIOp} (h : s.safe) : KeepsSafe (execMax o s) := finish_keepsSafe (intBody_safe h)
theorem execAbs_safe {s : State} {o : ROp} (h : s.safe) : KeepsSafe (execAbs o s) := finish_keepsSafe (intBody3_safe h)
theorem execClz_safe {s : State} {o : ROp} (h : s.safe) : KeepsSafe (execClz o s) := finish_keepsSafe (unaryBody_safe h)
theorem execCtz_safe {s : State} {o : ROp} (h : s.safe) : KeepsSafe (execCtz o s) := finish_keepsSafe (unaryBody_safe h)
theorem execPopc_safe {s : State} {o : ROp} (h : s.safe) : KeepsSafe (execPopc o s) := finish_keepsSafe (unaryBody_safe h)
theorem execBswap_safe {s : State} {o : ROp} (h : s.safe) : KeepsSafe (execBswap o s) := finish_keepsSafe (unaryBody_safe h)
theorem execBfx_safe {s : State} {o : RIOp} (h : s.safe) : KeepsSafe (execBfx o s) := finish_keepsSafe (.ok (wx_safe h))
theorem execBfi_safe {s : State} {o : RIOp} (h : s.safe) : KeepsSafe (execBfi o s) := finish_keepsSafe (.ok (wx_safe h))
theorem execShadd_safe {s : State} {o : RIOp} (h : s.safe) : KeepsSafe (execShadd o s) := finish_keepsSafe (intBody_safe h)

theorem execSel_safe {s : State} {o : ROp} (h : s.safe) : KeepsSafe (execSel o s) := by
  unfold execSel
  exact finish_keepsSafe (.ok (wx_safe h))

theorem execMov_safe {s : State} {o : ROp} (h : s.safe) : KeepsSafe (execMov o s) := finish_keepsSafe (unaryBody_safe h)
theorem execLi_safe {s : State} {o : IOp} (h : s.safe) : KeepsSafe (execLi o s) := finish_keepsSafe (.ok (wx_safe h))

theorem execCvt_safe {s : State} {o : ROp} (h : s.safe) : KeepsSafe (execCvt o s) := by
  unfold execCvt
  exact finish_keepsSafe (.ok (wx_safe h))

theorem execCmp_safe {s : State} {o : RIOp} (h : s.safe) : KeepsSafe (execCmp o s) := by
  unfold execCmp
  exact finish_keepsSafe (.ok (wp_safe h))

/-! ### `Machine/Scalar` -/

theorem predBody_safe {s : State} {o : ROp} {f : Bool → Bool → Bool} (h : s.safe) : RunsIn State.safe (predBody o f s) :=
  .ok (wp_safe h)
theorem execPand_safe {s : State} {o : ROp} (h : s.safe) : KeepsSafe (execPand o s) := finish_keepsSafe (predBody_safe h)
theorem execPor_safe {s : State} {o : ROp} (h : s.safe) : KeepsSafe (execPor o s) := finish_keepsSafe (predBody_safe h)
theorem execPxor_safe {s : State} {o : ROp} (h : s.safe) : KeepsSafe (execPxor o s) := finish_keepsSafe (predBody_safe h)
theorem execPnot_safe {s : State} {o : ROp} (h : s.safe) : KeepsSafe (execPnot o s) := finish_keepsSafe (predBody_safe h)

theorem execPmov_safe {s : State} {o : ROp} (h : s.safe) : KeepsSafe (execPmov o s) := by
  unfold execPmov
  refine finish_keepsSafe ?_
  refine .ok ?_
  split
  · exact wp_safe h
  · exact wp_safe h
  · exact wx_safe h
  · exact wx_safe h

theorem floatBody_safe {s : State} {o : ROp} {f : FpEnv → Fmt → Nat → Nat → Nat → Nat × Flags} (h : s.safe) :
    RunsIn State.safe (floatBody o f s) := by
  unfold floatBody
  exact (raiseFlags_safe h).then_ fun _ k => .ok (wx_safe k)

theorem execFadd_safe {s : State} {o : ROp} (h : s.safe) : KeepsSafe (execFadd o s) := finish_keepsSafe (floatBody_safe h)
theorem execFsub_safe {s : State} {o : ROp} (h : s.safe) : KeepsSafe (execFsub o s) := finish_keepsSafe (floatBody_safe h)
theorem execFmul_safe {s : State} {o : ROp} (h : s.safe) : KeepsSafe (execFmul o s) := finish_keepsSafe (floatBody_safe h)
theorem execFfma_safe {s : State} {o : ROp} (h : s.safe) : KeepsSafe (execFfma o s) := finish_keepsSafe (floatBody_safe h)
theorem execFdiv_safe {s : State} {o : ROp} (h : s.safe) : KeepsSafe (execFdiv o s) := finish_keepsSafe (floatBody_safe h)
theorem execFsqrt_safe {s : State} {o : ROp} (h : s.safe) : KeepsSafe (execFsqrt o s) := finish_keepsSafe (floatBody_safe h)
theorem execFmin_safe {s : State} {o : ROp} (h : s.safe) : KeepsSafe (execFmin o s) := finish_keepsSafe (floatBody_safe h)
theorem execFmax_safe {s : State} {o : ROp} (h : s.safe) : KeepsSafe (execFmax o s) := finish_keepsSafe (floatBody_safe h)

theorem execFcmp_safe {s : State} {o : ROp} (h : s.safe) : KeepsSafe (execFcmp o s) := by
  unfold execFcmp
  exact finish_keepsSafe ((raiseFlags_safe h).then_ fun _ k => .ok (wp_safe k))

theorem execFcvt_safe {s : State} {o : ROp} (h : s.safe) : KeepsSafe (execFcvt o s) := by
  unfold execFcvt
  exact finish_keepsSafe ((raiseFlags_safe h).then_ fun _ k => .ok (wx_safe k))

theorem execFclass_safe {s : State} {o : ROp} (h : s.safe) : KeepsSafe (execFclass o s) := by
  unfold execFclass
  exact finish_keepsSafe (.ok (wx_safe h))

/-! ### `Machine/Wave` -/

theorem waveHeld_safe {s : State} {b : Nat} (h : s.safe) : RunsIn State.safe (waveHeld s b) :=
  (matReady_safe h).then_ fun _ k => .bind (heldCheck_safe k) fun _ _ => .ok k
theorem modWave_safe {s : State} {f : Wave → Wave} (h : s.safe) : (s.modWave f).safe := h

theorem wcfgR_safe {s : State} {o : ROp} (h : s.safe) : RunsIn State.safe (wcfgR o s) := by
  unfold wcfgR
  dsimp only
  refine (waveHeld_safe h).then_ fun _ k => ?_
  refine .bind (matIdle_safe k) fun a _ => ?_
  split
  · refine .bind (check_stops k _) fun _ _ => ?_
    refine .bind (guardR_stops k _ _ _ _) fun _ _ => ?_
    refine .bind (guardR_stops k _ _ _ _) fun _ _ => ?_
    refine YieldsIn.then_ (p' := fun (a : List Byte × State) => a.2.safe) ?_ fun _ k5 => ?_
    · split
      · exact readTableOf_safe k
      · exact .ok k
    exact .ok (modWave_safe k5)
  · refine .bind (guardR_stops k _ _ _ _) fun _ _ => ?_
    refine .bind (guardR_stops k _ _ _ _) fun _ _ => ?_
    refine YieldsIn.then_ (p' := fun (a : List Byte × State) => a.2.safe) ?_ fun _ k4 => ?_
    · split
      · exact readTableOf_safe k
      · exact .ok k
    exact .ok (modWave_safe k4)

theorem wcfgX_safe {s : State} {o : XOp} (h : s.safe) : RunsIn State.safe (wcfgX o s) := by
  unfold wcfgX
  refine (waveHeld_safe h).then_ fun _ k => ?_
  refine .bind (matIdle_safe k) fun _ _ => ?_
  split
  · exact .bind (guardR_stops k _ _ _ _) fun _ _ => .bind (guardR_stops k _ _ _ _) fun _ _ => .ok (modWave_safe k)
  · exact .ok (modWave_safe k)

theorem execWcfg_safe {s : State} {o : RXOp} (h : s.safe) : KeepsSafe (execWcfg o s) := by
  unfold execWcfg
  split
  · exact finish_keepsSafe (wcfgR_safe h)
  · exact finish_keepsSafe (wcfgX_safe h)

theorem execWband_safe {s : State} {o : RIOp} (h : s.safe) : KeepsSafe (execWband o s) := by
  unfold execWband
  refine finish_keepsSafe ?_
  refine (waveHeld_safe h).then_ fun _ k => ?_
  refine .bind (matIdle_safe k) fun _ _ => ?_
  split
  exact .bind (guardR_stops k _ _ _ _) fun _ _ => .ok (modWave_safe k)

theorem planeWrite_safe {s : State} {c : Cap} {v64 : Bool} (h : s.safe) : StopsIn State.safe (planeWrite s c v64) := by
  unfold planeWrite
  refine .bind (check_stops h _) fun _ _ => ?_
  refine .bind (guardR_stops h _ _ _ _) fun _ _ => ?_
  exact .bind (guardR_stops h _ _ _ _) fun _ _ => .bind (check_stops h _) fun _ _ => .bind (guardR_stops h _ _ _ _)
    fun _ _ => check_stops h _

theorem execWseq_safe {s : State} {o : ROp} (h : s.safe) : KeepsSafe (execWseq o s) := by
  unfold execWseq
  refine finish_keepsSafe ?_
  refine (waveHeld_safe h).then_ fun _ k => ?_
  exact .bind (noPort_safe k) fun _ _ => .bind (noPort_safe k) fun _ _ => .bind (planeWrite_safe k) fun _ _ => .ok
    (modWave_safe k)

theorem execWtile_safe {s : State} {o : ROp} (h : s.safe) : KeepsSafe (execWtile o s) := by
  unfold execWtile
  refine finishHanded_keepsSafe ?_
  refine (waveHeld_safe h).then_ fun _ k => ?_
  split
  · exact .error k
  · refine .bind (forM_safe (fun _ => noPort_safe k)) fun _ _ => ?_
    refine .bind (planeWrite_safe k) fun _ _ => ?_
    split
    · exact .error k
    · exact .ok (post_safe (modWave_safe k))

theorem execWtileComplete_safe {s : State} (h : s.safe) : KeepsSafe (execWtileComplete s) := by
  unfold execWtileComplete
  split
  · split
    · exact .next h
    · refine .next ?_
      split
      · rename_i e2
        exact engineSignal_safe ((enginePut_safe (modSlot_safe (modWave_safe h))).1 _ e2)
      · exact postRec_safe (modSlot_safe (modWave_safe h))
      · exact modSlot_safe (modWave_safe h)
  · exact .none (by simp)

theorem lineWait_safe {s : State} {kind : WaitKind} {a : Nat} (h : s.safe) : StopsIn State.safe (lineWait s kind a) := by
  unfold lineWait
  dsimp only
  split
  · exact .ok _
  · exact .error h

theorem setLineFull_safe {s : State} {a : Nat} {v : Bool} (h : s.safe) : (s.setLineFull a v).safe :=
  foldl_safe (fun _ _ k1 => setFull_safe k1) h

theorem execWbget_safe {s : State} {o : MOp} (h : s.safe) : KeepsSafe (execWbget o s) := by
  unfold execWbget
  refine finish_keepsSafe ?_
  refine (waveHeld_safe h).then_ fun _ k => ?_
  refine .bind (noPort_safe k) fun _ _ => ?_
  refine .bind (accessChecks_safe k) fun _ _ => ?_
  refine .bind (lineWait_safe k) fun _ _ => ?_
  exact .bind (placed_safe k) fun _ _ => YieldsIn.then_ (loadPieces_safe k) fun _ k5 => .ok (ite_safe (setLineFull_safe
    (modCur_safe k5)) (modCur_safe k5))

theorem execWbput_safe {s : State} {o : MOp} (h : s.safe) : KeepsSafe (execWbput o s) := by
  unfold execWbput
  refine finish_keepsSafe ?_
  refine (waveHeld_safe h).then_ fun _ k => ?_
  refine .bind (noPort_safe k) fun _ _ => ?_
  refine .bind (accessChecks_safe k) fun _ _ => ?_
  split
  · refine .bind (releaseWait_safe k) fun _ _ => ?_
    exact .bind (lineWait_safe k) fun _ _ => .bind (placed_safe k) fun _ _ => (storePieces_safe k).then_ fun _ k6 => .ok
      (setLineFull_safe k6)
  · exact .bind (placed_safe k) fun _ _ => (storePieces_safe k).then_ fun _ k4 => .ok (setLineFull_safe k4)

theorem execTbwalk_safe {s : State} {o : ROp} (h : s.safe) : KeepsSafe (execTbwalk o s) := by
  unfold execTbwalk
  refine finish_keepsSafe ?_
  refine (waveHeld_safe h).then_ fun _ k => ?_
  refine .bind (noPort_safe k) fun _ _ => ?_
  split
  · refine .bind (noPort_safe k) fun _ _ => ?_
    refine .bind (noPort_safe k) fun _ _ => ?_
    refine .bind (matIdle_safe k) fun _ _ => ?_
    refine .bind (check_stops k _) fun _ _ => ?_
    refine .bind (guardR_stops k _ _ _ _) fun _ _ => ?_
    exact .bind (guardR_stops k _ _ _ _) fun _ _ => YieldsIn.then_ (loadBytes_safe k) fun _ k8 => .ok (wx_safe (modCur_safe k8))
  · refine .bind (matIdle_safe k) fun _ _ => ?_
    refine .bind (check_stops k _) fun _ _ => ?_
    refine .bind (guardR_stops k _ _ _ _) fun _ _ => ?_
    exact .bind (guardR_stops k _ _ _ _) fun _ _ => YieldsIn.then_ (loadBytes_safe k) fun _ k6 => .ok (wx_safe (modCur_safe k6))

end Sys2Proof.Machine
end

section
/-!
O49: a step of a safe state leads to a safe state. A step takes the turn that comes next and runs the instruction or the act of
that turn; each of them is a function of the model that keeps a safe state safe.
-/

namespace Sys2Proof.Machine

/-- What is executed, an instruction or an act, keeps a safe state safe. -/
theorem exec_safe {s : State} (h : s.safe) (i : Instr) : KeepsSafe (exec i s) :=
  match i with
  | .add _ => execAdd_safe h
  | .sub _ => execSub_safe h
  | .mul _ => execMul_safe h
  | .mulh _ => execMulh_safe h
  | .mad _ => execMad_safe h
  | .div _ => execDiv_safe h
  | .rem _ => execRem_safe h
  | .and _ => execAnd_safe h
  | .or _ => execOr_safe h
  | .xor _ => execXor_safe h
  | .andn _ => execAndn_safe h
  | .shl _ => execShl_safe h
  | .shr _ => execShr_safe h
  | .sra _ => execSra_safe h
  | .rotl _ => execRotl_safe h
  | .min _ => execMin_safe h
  | .max _ => execMax_safe h
  | .abs _ => execAbs_safe h
  | .clz _ => execClz_safe h
  | .ctz _ => execCtz_safe h
  | .popc _ => execPopc_safe h
  | .bfx _ => execBfx_safe h
  | .bfi _ => execBfi_safe h
  | .shadd _ => execShadd_safe h
  | .sel _ => execSel_safe h
  | .mov _ => execMov_safe h
  | .li _ => execLi_safe h
  | .cvt _ => execCvt_safe h
  | .cmp _ => execCmp_safe h
  | .bswap _ => execBswap_safe h
  | .pand _ => execPand_safe h
  | .por _ => execPor_safe h
  | .pxor _ => execPxor_safe h
  | .pnot _ => execPnot_safe h
  | .pmov _ => execPmov_safe h
  | .fadd _ => execFadd_safe h
  | .fsub _ => execFsub_safe h
  | .fmul _ => execFmul_safe h
  | .ffma _ => execFfma_safe h
  | .fdiv _ => execFdiv_safe h
  | .fsqrt _ => execFsqrt_safe h
  | .fmin _ => execFmin_safe h
  | .fmax _ => execFmax_safe h
  | .fcmp _ => execFcmp_safe h
  | .fcvt _ => execFcvt_safe h
  | .fclass _ => execFclass_safe h
  | .vadd _ => execVadd_safe h
  | .vsub _ => execVsub_safe h
  | .vmul _ => execVmul_safe h
  | .vfma _ => execVfma_safe h
  | .vfms _ => execVfms_safe h
  | .vmin _ => execVmin_safe h
  | .vmax _ => execVmax_safe h
  | .vabs _ => execVabs_safe h
  | .vneg _ => execVneg_safe h
  | .vand _ => execVand_safe h
  | .vor _ => execVor_safe h
  | .vxor _ => execVxor_safe h
  | .vshl _ => execVshl_safe h
  | .vshr _ => execVshr_safe h
  | .vcmp _ => execVcmp_safe h
  | .vsel _ => execVsel_safe h
  | .vcvt _ => execVcvt_safe h
  | .vdot _ => execVdot_safe h
  | .vscl _ => execVscl_safe h
  | .vmov _ => execVmov_safe h
  | .vbcast _ => execVbcast_safe h
  | .vins _ => execVins_safe h
  | .vext _ => execVext_safe h
  | .vclamp _ => execVclamp_safe h
  | .kand _ => execKand_safe h
  | .kor _ => execKor_safe h
  | .kxor _ => execKxor_safe h
  | .knot _ => execKnot_safe h
  | .kpop _ => execKpop_safe h
  | .kfirst _ => execKfirst_safe h
  | .kset _ => execKset_safe h
  | .kmov _ => execKmov_safe h
  | .vrcp _ => execVrcp_safe h
  | .vrsq _ => execVrsq_safe h
  | .vsqrt _ => execVsqrt_safe h
  | .vexp2 _ => execVexp2_safe h
  | .vlog2 _ => execVlog2_safe h
  | .vsin _ => execVsin_safe h
  | .vcos _ => execVcos_safe h
  | .vtanh _ => execVtanh_safe h
  | .vsigm _ => execVsigm_safe h
  | .vexpd _ => execVexpd_safe h
  | .vredsum _ => execVredsum_safe h
  | .vredmax _ => execVredmax_safe h
  | .vredmin _ => execVredmin_safe h
  | .vscan _ => execVscan_safe h
  | .vperm _ => execVperm_safe h
  | .vshuf _ => execVshuf_safe h
  | .vpack _ => execVpack_safe h
  | .vunpack _ => execVunpack_safe h
  | .sbind _ => execSbind_safe h
  | .sdim _ => execSdim_safe h
  | .sstart _ => execSstart_safe h
  | .sstop _ => execSstop_safe h
  | .swait _ => execSwait_safe h
  | .frep _ => execFrep_safe h
  | .mcfg _ => execMcfg_safe h
  | .mzero _ => execMzero_safe h
  | .mlda _ => execMlda_safe h
  | .mldb _ => execMldb_safe h
  | .mscl _ => execMscl_safe h
  | .mma _ => execMma_safe h
  | .mmas _ => execMmas_safe h
  | .mdrain _ => execMdrain_safe h
  | .mhand _ => execMhand_safe h
  | .mrowrd _ => execMrowrd_safe h
  | .mrowwr _ => execMrowwr_safe h
  | .msave _ => execMsave_safe h
  | .mrest _ => execMrest_safe h
  | .mstat _ => execMstat_safe h
  | .fpush _ => execFpush_safe h
  | .fpop _ => execFpop_safe h
  | .fdrop _ => execFdrop_safe h
  | .fenter _ => execFenter_safe h
  | .farg _ => execFarg_safe h
  | .fkeep _ => execFkeep_safe h
  | .fseal _ => execFseal_safe h
  | .fshare _ => execFshare_safe h
  | .fappend _ => execFappend_safe h
  | .fwin _ => execFwin_safe h
  | .fvis _ => execFvis_safe h
  | .fdesc _ => execFdesc_safe h
  | .fmask _ => execFmask_safe h
  | .wcfg _ => execWcfg_safe h
  | .wband _ => execWband_safe h
  | .wseq _ => execWseq_safe h
  | .wtile _ => execWtile_safe h
  | .wbget _ => execWbget_safe h
  | .wbput _ => execWbput_safe h
  | .tbwalk _ => execTbwalk_safe h
  | .xexp _ => execXexp_safe h
  | .xcmp _ => execXcmp_safe h
  | .xquant _ => execXquant_safe h
  | .xconv _ => execXconv_safe h
  | .xpoll _ => execXpoll_safe h
  | .ld _ => execLd_safe h
  | .st _ => execSt_safe h
  | .ldc _ => execLdc_safe h
  | .stc _ => execStc_safe h
  | .vld _ => execVld_safe h
  | .vst _ => execVst_safe h
  | .vldg _ => execVldg_safe h
  | .vsts _ => execVsts_safe h
  | .ldfe _ => execLdfe_safe h
  | .stfe _ => execStfe_safe h
  | .pref _ => execPref_safe h
  | .cpy _ => execCpy_safe h
  | .cpyq _ => execCpyq_safe h
  | .fence _ => execFence_safe h
  | .lflush _ => execLflush_safe h
  | .linv _ => execLinv_safe h
  | .ldm _ => execLdm_safe h
  | .mig _ => execMig_safe h
  | .home _ => execHome_safe h
  | .amoadd _ => execAmoadd_safe h
  | .amomin _ => execAmomin_safe h
  | .amomax _ => execAmomax_safe h
  | .amoand _ => execAmoand_safe h
  | .amoor _ => execAmoor_safe h
  | .amoxor _ => execAmoxor_safe h
  | .amoswp _ => execAmoswp_safe h
  | .amocas _ => execAmocas_safe h
  | .amofadd _ => execAmofadd_safe h
  | .redadd _ => execRedadd_safe h
  | .redmin _ => execRedmin_safe h
  | .redmax _ => execRedmax_safe h
  | .redfadd _ => execRedfadd_safe h
  | .mon _ => execMon_safe h
  | .unmon _ => execUnmon_safe h
  | .park _ => execPark_safe h
  | .smset _ => execSmset_safe h
  | .smrd _ => execSmrd_safe h
  | .smadd _ => execSmadd_safe h
  | .bar _ => execBar_safe h
  | .barmx _ => execBarmx_safe h
  | .br _ => execBr_safe h
  | .jmp _ => execJmp_safe h
  | .call _ => execCall_safe h
  | .ret _ => execRet_safe h
  | .loop _ => execLoop_safe h
  | .nop _ => execNop_safe h
  | .spawn _ => execSpawn_safe h
  | .yield _ => execYield_safe h
  | .awaitSm _ => execAwaitSm_safe h
  | .awaitFull _ => execAwaitFull_safe h
  | .awaitEmpty _ => execAwaitEmpty_safe h
  | .exit _ => execExit_safe h
  | .callat _ => execCallat_safe h
  | .callatW _ => execCallatW_safe h
  | .reply _ => execReply_safe h
  | .tjoin _ => execTjoin_safe h
  | .tleave _ => execTleave_safe h
  | .tqry _ => execTqry_safe h
  | .prio _ => execPrio_safe h
  | .rclk _ => execRclk_safe h
  | .rcadv _ => execRcadv_safe h
  | .cgeta _ => execCgeta_safe h
  | .cgetb _ => execCgetb_safe h
  | .cgetl _ => execCgetl_safe h
  | .cgetp _ => execCgetp_safe h
  | .ctag _ => execCtag_safe h
  | .cseta _ => execCseta_safe h
  | .cinc _ => execCinc_safe h
  | .cbnd _ => execCbnd_safe h
  | .cbnde _ => execCbnde_safe h
  | .cperm _ => execCperm_safe h
  | .cseal _ => execCseal_safe h
  | .cunseal _ => execCunseal_safe h
  | .cclr _ => execCclr_safe h
  | .csub _ => execCsub_safe h
  | .cmov _ => execCmov_safe h
  | .crvkMark _ => execCrvkMark_safe h
  | .crvkClear _ => execCrvkClear_safe h
  | .cswpStart _ => execCswpStart_safe h
  | .cswpAck _ => execCswpAck_safe h
  | .trap _ => execTrap_safe h
  | .ebrk _ => execEbrk_safe h
  | .gsr _ => execGsr_safe h
  | .ssr _ => execSsr_safe h
  | .frec0Rearm _ => execFrec0Rearm_safe h
  | .trqstClear _ => execTrqstClear_safe h
  | .bmodeWrite _ => execBmodeWrite_safe h
  | .trq _ => execTrq_safe h
  | .wfs _ => execWfs_safe h
  | .sretRetry _ => execSretRetry_safe h
  | .sretSkip _ => execSretSkip_safe h
  | .sretPc _ => execSretPc_safe h
  | .sretWake _ => execSretWake_safe h
  | .rdpk _ => execRdpk_safe h
  | .wrpk _ => execWrpk_safe h
  | .suspk _ => execSuspk_safe h
  | .suspkQ _ => execSuspkQ_safe h
  | .hint _ => execHint_safe h
  | .streamRowFetch => execStreamRowFetch_safe h
  | .streamRowPerform => execStreamRowPerform_safe h
  | .repetitionPass => execRepetitionPass_safe h
  | .latchDataArrival => execLatchDataArrival_safe h
  | .drainRowWrite => execDrainRowWrite_safe h
  | .latchReload => execLatchReload_safe h
  | .wtileComplete => execWtileComplete_safe h
  | .transformRequestExecute => execTransformRequestExecute_safe h
  | .transformReservedEntry => execTransformReservedEntry_safe h
  | .fullEmptyServe => execFullEmptyServe_safe h
  | .fifoServe => execFifoServe_safe h
  | .quayCoreArrival => execQuayCoreArrival_safe h
  | .copyChunk => execCopyChunk_safe h
  | .remoteUpdate => execRemoteUpdate_safe h
  | .parkWake => execParkWake_safe h
  | .parkTimeout => execParkTimeout_safe h
  | .waitsemGrant => execWaitsemGrant_safe h
  | .barrierWaitReturn => execBarrierWaitReturn_safe h
  | .awaitConditionHolds => execAwaitConditionHolds_safe h
  | .replyGranuleWrite => execReplyGranuleWrite_safe h
  | .sweepMemory => execSweepMemory_safe h
  | .sweepComplete => execSweepComplete_safe h
  | .exportImage => execExportImage_safe h
  | .importImage => execImportImage_safe h
  | .migrationImport => execMigrationImport_safe h
  | .exportImportComplete => execExportImportComplete_safe h
  | .wfsTimeout => execWfsTimeout_safe h
  | .hintYieldEnd => execHintYieldEnd_safe h
  | .trapRecordEnqueue => execTrapRecordEnqueue_safe h
  | .wtmo => execWtmo_safe h
  | .slice => execSlice_safe h
  | .enqueueApertureWrite => execEnqueueApertureWrite_safe h
  | .bind => execBind_safe h
  | .stand => execStand_safe h
  | .preempt => execPreempt_safe h
  | .restoreUnitTake => execRestoreUnitTake_safe h
  | .poolGrant => execPoolGrant_safe h
  | .localRefill => execLocalRefill_safe h
  | .cmqPromote => execCmqPromote_safe h
  | .heldMessageDelivery => execHeldMessageDelivery_safe h
  | .budgetCharge => execBudgetCharge_safe h
  | .towSwap => execTowSwap_safe h
  | .towReturn => execTowReturn_safe h
  | .launchCompletion => execLaunchCompletion_safe h
  | .coalescingWindowEnd => execCoalescingWindowEnd_safe h
  | .towDescriptorActionHeld => execTowDescriptorActionHeld_safe h
  | .pageRequestMapped => execPageRequestMapped_safe h
  | .pageRequestRefusal => execPageRequestRefusal_safe h
  | .sideLogAdmit => execSideLogAdmit_safe h
  | .dupInvalidationAck => execDupInvalidationAck_safe h
  | .translationInvalidate => execTranslationInvalidate_safe h
  | .hostBar2Read => execHostBar2Read_safe h
  | .hostBar2Write => execHostBar2Write_safe h
  | .counterGroupRead => execCounterGroupRead_safe h
  | .psemTake => execPsemTake_safe h
  | .psemRelease => execPsemRelease_safe h
  | .attest => execAttest_safe h
  | .towResume => execTowResume_safe h
  | .towDiscard => execTowDiscard_safe h
  | .uitSet => execUitSet_safe h
  | .cwinSet => execCwinSet_safe h
  | .cwinArm => execCwinArm_safe h
  | .worldCreate => execWorldCreate_safe h
  | .worldDestroy => execWorldDestroy_safe h
  | .migExport => execMigExport_safe h
  | .migImport => execMigImport_safe h
  | .fwUpdate => execFwUpdate_safe h
  | .routeSet => execRouteSet_safe h
  | .xwinSet => execXwinSet_safe h
  | .importSet => execImportSet_safe h
  | .mailboxCompletion => execMailboxCompletion_safe h
  | .mgmtRegisterWrite => execMgmtRegisterWrite_safe h
  | .cwinTimeout => execCwinTimeout_safe h
  | .peerAccessArrival => execPeerAccessArrival_safe h
  | .peerResponse => execPeerResponse_safe h
  | .ptmo => execPtmo_safe h
  | .fabricFailover => execFabricFailover_safe h
  | .cxlLinkDown => execCxlLinkDown_safe h
  | .hotReset => execHotReset_safe h
  | .hostSessionEstablished => execHostSessionEstablished_safe h
  | .coldReset => execColdReset_safe h
  | .warmReset => execWarmReset_safe h
  | .functionLevelReset => execFunctionLevelReset_safe h
  | .supervisorStart => execSupervisorStart_safe h
  | .throttleStep => execThrottleStep_safe h
  | .thermalTrip => execThermalTrip_safe h
  | .supplyDroop => execSupplyDroop_safe h
  | .vrefRecalibration => execVrefRecalibration_safe h
  | .patrolScrub => execPatrolScrub_safe h
  | .accumulatorComplete => execAccumulatorComplete_safe h
  | .bankModeSwitchComplete => execBankModeSwitchComplete_safe h
  | .storePerformed => execStorePerformed_safe h
  | .invalidationApplied => execInvalidationApplied_safe h
  | .debuggerHalt => execDebuggerHalt_safe h
  | .debuggerResume => execDebuggerResume_safe h
  | .fabricLinkUp => execFabricLinkUp_safe h
  | .cxlLinkUp => execCxlLinkUp_safe h
  | .functionLevelResetComplete => execFunctionLevelResetComplete_safe h
  | .counterTableRescan => execCounterTableRescan_safe h

theorem step_safe {s : State} (h : s.safe) : KeepsSafe (step s) := by
  have ht := nextTurn_safe h
  unfold step
  split
  next t e => exact .next (ht.2 t e)
  next i t e => exact settled_safe (exec_safe (ht.1 _ e) i)

end Sys2Proof.Machine

section
open Sys2Proof
open Sys2Proof.Machine

/-- Settles O49: every function of the model keeps memory in its canonical form and the trap queue within 16 records. -/
theorem stepKeepsSafe : Obligations.StepKeepsSafe := by
  unfold Obligations.StepKeepsSafe
  intro s t h e
  exact step_safe h t e

end
end
